-- ==== Sys2Proof/Word.lean ====
section
/-! DEFINITION. The word type of the machine and the plainest arithmetic on it (spec/00 R8). -/

namespace Sys2Proof

/-- A 32-bit register value or instruction word. -/
abbrev Word := BitVec 32

/-- A 64-bit value: a scalar pair, a mask register, a device virtual address (spec/01 R24, R34). -/
abbrev DWord := BitVec 64

/-- One byte of memory. -/
abbrev Byte := BitVec 8

/-- The 64-bit value of a scalar pair, low half first (spec/01 R24). -/
def pairOf (lo hi : Word) : DWord := hi ++ lo

/-- The low half of a 64-bit value. -/
def lowHalf (d : DWord) : Word := d.setWidth 32

/-- The high half of a 64-bit value. -/
def highHalf (d : DWord) : Word := (d >>> 32).setWidth 32

end Sys2Proof
end

