-- ==== Sys2Proof/Syntax.lean ====
section
/-! DEFINITION. The instruction set: one constructor for each row of the opcode table (spec/03 R72; the rows without an
encoding are the events of the engines, the scheduler, the platform and the host, spec/95). -/

namespace Sys2Proof

/-- A v-register number (spec/01 R24). -/
abbrev VReg := BitVec 7

/-- A scalar register number (spec/01 R24). -/
abbrev SReg := BitVec 6

/-- The scheduling fields of a word: GAP and give-way (spec/03 R63, R64). -/
structure Sched where
  gap : BitVec 2
  giveWay : Bool
  deriving DecidableEq, Repr

/-- The b operand of the vector formats (spec/03 R69). -/
inductive VSrc where
  | v (n : VReg)          -- 0x00 to 0x7F
  | s (n : SReg)          -- 0x80 to 0xBF
  | int (k : Fin 48)      -- 0xC0 to 0xEF
  | flt (k : Fin 8)       -- 0xF0 to 0xF7
  | lit                   -- 0xF8
  | lane                  -- 0xF9
  deriving DecidableEq, Repr

/-- The b operand of the scalar formats (spec/03 R70). -/
inductive SSrc where
  | s (n : SReg)          -- 0 to 63
  | int (k : Fin 192)     -- 64 to 255
  deriving DecidableEq, Repr

/-- Shuffle modes (spec/05 R137). -/
inductive ShflMode where
  | idx | xor | up | down
  deriving DecidableEq, Repr

/-- Integer conditions (spec/03 R75). -/
inductive ICond where
  | eq | ne | lt | le | gt | ge | ltu | leu | gtu | geu
  deriving DecidableEq, Repr

/-- Float conditions (spec/03 R75). -/
inductive FCond where
  | eq | ne | lt | le | gt | ge | ord | unord
  deriving DecidableEq, Repr

/-- The formats of `vcvt` in the order of their conversion index (spec/03 R74). -/
inductive CvtFmt where
  | fp32 | bf16 | fp16 | e4m3 | e5m2 | int8 | int32 | uint8
  deriving DecidableEq, Repr

/-- The rounding selector of `vcvt` (spec/03 R74). -/
inductive CvtRound where
  | dynamic | rne | rtz | rsr
  deriving DecidableEq, Repr

/-- Branch hints (spec/01 R21, spec/03 R77). -/
inductive BrHint where
  | none | likely | unlikely | uniform
  deriving DecidableEq, Repr

/-- Access widths (spec/03 R78). -/
inductive Width where
  | b8 | i8 | b16 | i16 | b32 | b64 | b128
  deriving DecidableEq, Repr

/-- Atomic operations that read and write one value (spec/03 R79, spec/06 R160). -/
inductive AtomOp where
  | add | fadd | min | max | fmin | fmax | and | or | xor | exch | incw | minu | maxu
  deriving DecidableEq, Repr

/-- An access of a peer to the exported window: a read, a write, or an atomic or a compare and swap with its operands (spec/14 R348,
R349). -/
inductive PeerAccess where
  | read
  | write (data : List (BitVec 8))
  | atomic (op : AtomOp) (operand : List (BitVec 8))
  | cas (compare new : List (BitVec 8))
  deriving DecidableEq, Repr

/-- Fold operations (spec/03 R81, spec/05 R140). -/
inductive RedOp where
  | add | min | max | and | or
  deriving DecidableEq, Repr

/-- Fence kinds (spec/06 R166). -/
inductive FenceKind where
  | acq | rel | full
  deriving DecidableEq, Repr

/-- Scopes of a wide barrier (spec/08 R209). -/
inductive WbarScope where
  | team | clus | grid
  deriving DecidableEq, Repr

/-- What the background scrub finds in a granule (spec/13 R328). -/
inductive ScrubResult where
  | clean | corrected | uncorrectable
  deriving DecidableEq, Repr

/-- The instructions and events, in the order of the opcode table. -/
inductive Instr where
  | vadd (q : Sched) (vd va : VReg) (b : VSrc)  -- VADD: R126
  | vsub (q : Sched) (vd va : VReg) (b : VSrc)  -- VSUB: R126
  | vmul (q : Sched) (vd va : VReg) (b : VSrc)  -- VMUL: R126
  | vmulhi (q : Sched) (vd va : VReg) (b : VSrc)  -- VMULHI: R126
  | vand (q : Sched) (vd va : VReg) (b : VSrc)  -- VAND: R126
  | vor (q : Sched) (vd va : VReg) (b : VSrc)  -- VOR: R126
  | vxor (q : Sched) (vd va : VReg) (b : VSrc)  -- VXOR: R126
  | vshl (q : Sched) (vd va : VReg) (b : VSrc)  -- VSHL: R126
  | vshr (q : Sched) (vd va : VReg) (b : VSrc)  -- VSHR: R126
  | vsra (q : Sched) (vd va : VReg) (b : VSrc)  -- VSRA: R126
  | vmin (q : Sched) (vd va : VReg) (b : VSrc)  -- VMIN: R126
  | vmax (q : Sched) (vd va : VReg) (b : VSrc)  -- VMAX: R126
  | vminu (q : Sched) (vd va : VReg) (b : VSrc)  -- VMINU: R126
  | vmaxu (q : Sched) (vd va : VReg) (b : VSrc)  -- VMAXU: R126
  | vmad (q : Sched) (vd va : VReg) (b : VSrc)  -- VMAD: R126
  | vabsd (q : Sched) (vd va : VReg) (b : VSrc)  -- VABSD: R126
  | vfadd (q : Sched) (vd va : VReg) (b : VSrc)  -- VFADD: R127
  | vfsub (q : Sched) (vd va : VReg) (b : VSrc)  -- VFSUB: R127
  | vfmul (q : Sched) (vd va : VReg) (b : VSrc)  -- VFMUL: R127
  | vffma (q : Sched) (vd va : VReg) (b : VSrc)  -- VFFMA: R127
  | vfmin (q : Sched) (vd va : VReg) (b : VSrc)  -- VFMIN: R128
  | vfmax (q : Sched) (vd va : VReg) (b : VSrc)  -- VFMAX: R128
  | vhfma (q : Sched) (vd va : VReg) (b : VSrc)  -- VHFMA: R129
  | vhadd (q : Sched) (vd va : VReg) (b : VSrc)  -- VHADD: R129
  | vhmul (q : Sched) (vd va : VReg) (b : VSrc)  -- VHMUL: R129
  | vsel (q : Sched) (vd va : VReg) (b : VSrc)  -- VSEL: R130
  | vpack2 (q : Sched) (vd va : VReg) (b : VSrc)  -- VPACK2: R130
  | vcopysign (q : Sched) (vd va : VReg) (b : VSrc)  -- VCOPYSIGN: R130
  | vshfl (q : Sched) (mode : ShflMode) (vd va : VReg) (b : VSrc)  -- VSHFL: R137
  | vmov (q : Sched) (vd : VReg) (b : VSrc)  -- VMOV: R131
  | vnot (q : Sched) (vd : VReg) (b : VSrc)  -- VNOT: R131
  | vneg (q : Sched) (vd : VReg) (b : VSrc)  -- VNEG: R131
  | vabs (q : Sched) (vd : VReg) (b : VSrc)  -- VABS: R131
  | vpopc (q : Sched) (vd : VReg) (b : VSrc)  -- VPOPC: R131
  | vclz (q : Sched) (vd : VReg) (b : VSrc)  -- VCLZ: R131
  | vbrev (q : Sched) (vd : VReg) (b : VSrc)  -- VBREV: R131
  | vbfe (q : Sched) (vd : VReg) (b : VSrc)  -- VBFE: R132
  | vbfi (q : Sched) (vd : VReg) (b : VSrc)  -- VBFI: R132
  | vrand (q : Sched) (vd : VReg) (b : VSrc)  -- VRAND: R143
  | vbcast (q : Sched) (vd : VReg) (b : VSrc)  -- VBCAST: R132
  | vfrcp (q : Sched) (packed : Bool) (vd : VReg) (b : VSrc)  -- VFRCP: R133, R134
  | vfrsq (q : Sched) (packed : Bool) (vd : VReg) (b : VSrc)  -- VFRSQ: R133, R134
  | vfsqrt (q : Sched) (packed : Bool) (vd : VReg) (b : VSrc)  -- VFSQRT: R133, R134
  | vfexp2 (q : Sched) (packed : Bool) (vd : VReg) (b : VSrc)  -- VFEXP2: R133, R134
  | vflog2 (q : Sched) (packed : Bool) (vd : VReg) (b : VSrc)  -- VFLOG2: R133, R134
  | vfsin (q : Sched) (packed : Bool) (vd : VReg) (b : VSrc)  -- VFSIN: R133, R134
  | vfcos (q : Sched) (packed : Bool) (vd : VReg) (b : VSrc)  -- VFCOS: R133, R134
  | vftanh (q : Sched) (packed : Bool) (vd : VReg) (b : VSrc)  -- VFTANH: R133, R134
  | vfrnd (q : Sched) (packed : Bool) (vd : VReg) (b : VSrc)  -- VFRND: R133, R134
  | vfclass (q : Sched) (packed : Bool) (vd : VReg) (b : VSrc)  -- VFCLASS: R133, R134
  | vcvt (q : Sched) (dst src : CvtFmt) (sel : CvtRound) (vd : VReg) (b : VSrc)  -- VCVT: R135
  | vcmp (q : Sched) (cond : ICond) (md : BitVec 4) (va : VReg) (b : VSrc)  -- VCMP: R136
  | vfcmp (q : Sched) (cond : FCond) (md : BitVec 4) (va : VReg) (b : VSrc)  -- VFCMP: R136
  | sadd (q : Sched) (sd sa : SReg) (b : SSrc)  -- SADD: R95
  | ssub (q : Sched) (sd sa : SReg) (b : SSrc)  -- SSUB: R95
  | smul (q : Sched) (sd sa : SReg) (b : SSrc)  -- SMUL: R95
  | smulhi (q : Sched) (sd sa : SReg) (b : SSrc)  -- SMULHI: R95
  | sand (q : Sched) (sd sa : SReg) (b : SSrc)  -- SAND: R95
  | sor (q : Sched) (sd sa : SReg) (b : SSrc)  -- SOR: R95
  | sxor (q : Sched) (sd sa : SReg) (b : SSrc)  -- SXOR: R95
  | sshl (q : Sched) (sd sa : SReg) (b : SSrc)  -- SSHL: R95
  | sshr (q : Sched) (sd sa : SReg) (b : SSrc)  -- SSHR: R95
  | ssra (q : Sched) (sd sa : SReg) (b : SSrc)  -- SSRA: R95
  | smin (q : Sched) (sd sa : SReg) (b : SSrc)  -- SMIN: R95
  | smax (q : Sched) (sd sa : SReg) (b : SSrc)  -- SMAX: R95
  | sminu (q : Sched) (sd sa : SReg) (b : SSrc)  -- SMINU: R95
  | smaxu (q : Sched) (sd sa : SReg) (b : SSrc)  -- SMAXU: R95
  | saddc (q : Sched) (sd sa : SReg) (b : SSrc)  -- SADDC: R95
  | ssubb (q : Sched) (sd sa : SReg) (b : SSrc)  -- SSUBB: R95
  | scmp (q : Sched) (cond : ICond) (sa : SReg) (b : SSrc)  -- SCMP: R96
  | ssel (q : Sched) (sd sa : SReg) (b : SSrc)  -- SSEL: R96
  | smov (q : Sched) (sd : SReg) (b : SSrc)  -- SMOV: R96
  | spopc (q : Sched) (sd : SReg) (b : SSrc)  -- SPOPC: R96
  | sclz (q : Sched) (sd : SReg) (b : SSrc)  -- SCLZ: R96
  | sbfe (q : Sched) (sd sa : SReg) (b : SSrc)  -- SBFE: R96
  | sfadd (q : Sched) (sd sa : SReg) (b : SSrc)  -- SFADD: R97
  | sfmul (q : Sched) (sd sa : SReg) (b : SSrc)  -- SFMUL: R97
  | sffma (q : Sched) (sd sa : SReg) (b : SSrc)  -- SFFMA: R97
  | sfmin (q : Sched) (sd sa : SReg) (b : SSrc)  -- SFMIN: R97
  | sfmax (q : Sched) (sd sa : SReg) (b : SSrc)  -- SFMAX: R97
  | sfcvt (q : Sched) (sd sa : SReg) (dst src : BitVec 4)  -- SFCVT: R99
  | drawm (q : Sched) (sd sa : SReg)  -- DRAWM: R100
  | sfexp2 (q : Sched) (sd : SReg) (b : SSrc)  -- SFEXP2: R98
  | smovi (q : Sched) (sd : SReg) (imm : BitVec 16)  -- SMOVI: R101
  | sori (q : Sched) (sd : SReg) (imm : BitVec 16)  -- SORI: R101
  | saddi (q : Sched) (sd : SReg) (imm : BitVec 16)  -- SADDI: R101
  | scmpi (q : Sched) (sd : SReg) (imm : BitVec 16)  -- SCMPI: R101
  | br (q : Sched) (hint : BrHint) (inv : Bool) (cond : BitVec 4) (off : BitVec 17)  -- BR: R102
  | jmp (q : Sched) (off : BitVec 19)  -- JMP: R103
  | call (q : Sched) (off : BitVec 19)  -- CALL: R104
  | ret (q : Sched)  -- RET: R104
  | brx (q : Sched) (va : VReg)  -- BRX: R103
  | exit (q : Sched)  -- EXIT: R107
  | join (q : Sched) (m : BitVec 4)  -- JOIN: R106, R23
  | leave (q : Sched) (m : BitVec 4)  -- LEAVE: R106, R23
  | waitm (q : Sched) (m : BitVec 4)  -- WAITM: R106, R23
  | sleep (q : Sched) (n : BitVec 5) (t : SSrc)  -- SLEEP: R108
  | yield (q : Sched)  -- YIELD: R109
  | nop (q : Sched)  -- NOP: R109
  | trap (q : Sched) (code : BitVec 8)  -- TRAP: R112
  | tret (q : Sched)  -- TRET: R275
  | tretAbort (q : Sched)  -- TRET_ABORT: R277
  | brk (q : Sched) (code : BitVec 8)  -- BRK: R112
  | isync (q : Sched)  -- ISYNC: R115
  | ppt (q : Sched)  -- PPT: R111
  | idem (q : Sched)  -- IDEM: R110
  | idemend (q : Sched)  -- IDEMEND: R110
  | hintLitlo (lit : BitVec 20)  -- HINT_LITLO: R65
  | hintLithi (lit : BitVec 12)  -- HINT_LITHI: R65
  | hintGuard (inv : Bool) (m : BitVec 4)  -- HINT_GUARD: R65
  | hintMod (sel : BitVec 4) (hf : Bool) (ord : BitVec 2) (w64 sat ab nb aa na : Bool)  -- HINT_MOD: R66
  | hintRnd (mode : BitVec 3)  -- HINT_RND: R65
  | hintScope (scope : BitVec 3)  -- HINT_SCOPE: R65
  | hintCache (policy : BitVec 2)  -- HINT_CACHE: R65
  | hintGap (gap : BitVec 8)  -- HINT_GAP: R65
  | vld (q : Sched) (vd : VReg) (base : BitVec 5) (voff : BitVec 7) (width : Width)  -- VLD: R151
  | vpref (q : Sched) (base : BitVec 5) (voff : BitVec 7)  -- VPREF: R158
  | vlds (q : Sched) (vd : VReg) (base : BitVec 5) (voff : BitVec 7) (width : Width)  -- VLDS: R151
  | vldc (q : Sched) (vd : VReg) (base : BitVec 5) (voff : BitVec 7) (width : Width)  -- VLDC: R154
  | vldt (q : Sched) (vd : VReg) (base : BitVec 5) (voff : BitVec 7) (width : Width)  -- VLDT: R157
  | vst (q : Sched) (vs : VReg) (base : BitVec 5) (voff : BitVec 7) (width : Width)  -- VST: R151
  | vsts (q : Sched) (vs : VReg) (base : BitVec 5) (voff : BitVec 7) (width : Width)  -- VSTS: R151
  | vpwb (q : Sched) (base : BitVec 5) (voff : BitVec 7)  -- VPWB: R170
  | vatom (q : Sched) (op : AtomOp) (vd : VReg) (voff : BitVec 7) (base : BitVec 5)  -- VATOM: R160
  | vatoms (q : Sched) (op : AtomOp) (vd : VReg) (voff : BitVec 7) (base : BitVec 5)  -- VATOMS: R160
  | vcas (q : Sched) (vd : VReg) (voff : BitVec 7) (base : BitVec 5)  -- VCAS: R162
  | vatomsCas (q : Sched) (vd : VReg) (voff : BitVec 7) (base : BitVec 5)  -- VATOMS_CAS: R162
  | bfadd (q : Sched) (vd : VReg) (voff : BitVec 7) (base : BitVec 5)  -- BFADD: R165
  | sld (q : Sched) (sd : SReg) (base : BitVec 5) (w64 : Bool) (off : BitVec 8)  -- SLD: R159
  | sst (q : Sched) (sd : SReg) (base : BitVec 5) (w64 : Bool) (off : BitVec 8)  -- SST: R159
  | sldk (q : Sched) (sd : SReg) (base : BitVec 5) (w64 : Bool) (off : BitVec 8)  -- SLDK: R159
  | satom (q : Sched) (sd : SReg) (base : BitVec 5) (w64 : Bool) (op : AtomOp)  -- SATOM: R161
  | scas (q : Sched) (sd : SReg) (base : BitVec 5) (w64 : Bool)  -- SCAS: R162
  | vrfl (q : Sched) (sd : SReg) (va : VReg)  -- VRFL: R138
  | vrdln (q : Sched) (sd sl : SReg) (va : VReg)  -- VRDLN: R138
  | vwrln (q : Sched) (sl : SReg) (vd : VReg) (sb : SReg)  -- VWRLN: R138
  | vmatch (q : Sched) (vd va : VReg)  -- VMATCH: R139
  | vballot (q : Sched) (md : BitVec 4) (va : VReg)  -- VBALLOT: R138
  | vredu (q : Sched) (sd : SReg) (fl : Bool) (op : RedOp) (va : VReg)  -- VREDU: R140
  | vscan (q : Sched) (excl fl : Bool) (op : RedOp) (vd va : VReg)  -- VSCAN: R140
  | vdraw (q : Sched) (sd sc : SReg) (va : VReg)  -- VDRAW: R144
  | mand (q : Sched) (md ma : BitVec 6) (mb : BitVec 4)  -- MAND: R141
  | mor (q : Sched) (md ma : BitVec 6) (mb : BitVec 4)  -- MOR: R141
  | mxor (q : Sched) (md ma : BitVec 6) (mb : BitVec 4)  -- MXOR: R141
  | mandn (q : Sched) (md ma : BitVec 6) (mb : BitVec 4)  -- MANDN: R141
  | mmov (q : Sched) (md ma : BitVec 6)  -- MMOV: R141
  | mpopc (q : Sched) (sd : SReg) (ma : BitVec 6)  -- MPOPC: R141
  | mfirst (q : Sched) (md ma : BitVec 6)  -- MFIRST: R141
  | mset (q : Sched) (md : BitVec 6) (sa : SReg)  -- MSET: R141
  | mget (q : Sched) (sd : SReg) (ma : BitVec 6)  -- MGET: R141
  | fence (q : Sched) (kind : FenceKind) (scope : BitVec 3)  -- FENCE: R166
  | qfence (q : Sched) (queues : BitVec 6)  -- QFENCE: R167
  | pfence (q : Sched)  -- PFENCE: R169
  | barinit (q : Sched) (sa : SReg)  -- BARINIT: R205
  | bararr (q : Sched) (sa : SReg)  -- BARARR: R205
  | bartest (q : Sched) (sd sa sb : SReg)  -- BARTEST: R206
  | barwait (q : Sched) (sa sb : SReg)  -- BARWAIT: R206
  | barinv (q : Sched) (sa : SReg)  -- BARINV: R207
  | wbar (q : Sched) (scope : WbarScope) (sa : SReg)  -- WBAR: R210
  | cpy (q : Sched) (sa : SReg)  -- CPY: R196
  | cpym (q : Sched) (sa sm : SReg)  -- CPYM: R201
  | xfer (q : Sched) (sa : SReg)  -- XFER: R212
  | coll (q : Sched) (sa : SReg)  -- COLL: R214
  | signal (q : Sched) (sa sb : SReg)  -- SIGNAL: R215
  | tagc (q : Sched) (sa sb : SReg)  -- TAGC: R216
  | tagq (q : Sched) (sd sa : SReg)  -- TAGQ: R217
  | oclaim (q : Sched) (sa : SReg)  -- OCLAIM: R175
  | orel (q : Sched) (sa : SReg)  -- OREL: R176
  | oload (q : Sched) (sa : SReg)  -- OLOAD: R177
  | aclaim (q : Sched) (sa : SReg)  -- ACLAIM: R179
  | arel (q : Sched) (sa : SReg)  -- AREL: R179
  | mma (q : Sched) (sa : SReg)  -- MMA: R181
  | mzero (q : Sched) (tile : BitVec 4)  -- MZERO: R186
  | mstore (q : Sched) (sa : SReg)  -- MSTORE: R189
  | mwait (q : Sched) (tile : BitVec 4)  -- MWAIT: R187
  | spawn (q : Sched) (va : VReg)  -- SPAWN: R221
  | fbind (q : Sched) (sa : SReg)  -- FBIND: R231
  | fset (q : Sched) (sa sb : SReg)  -- FSET: R232
  | fwait (q : Sched) (sd sa : SReg)  -- FWAIT: R233
  | qres (q : Sched) (sd sa : SReg)  -- QRES: R242
  | qpub (q : Sched) (sa sb : SReg)  -- QPUB: R242
  | qtake (q : Sched) (sd sa : SReg)  -- QTAKE: R242
  | qdone (q : Sched) (sa sb : SReg)  -- QDONE: R242
  | qclose (q : Sched) (sa : SReg)  -- QCLOSE: R243
  | publ (q : Sched)  -- PUBL: R229
  | center (q : Sched) (sd sa : SReg)  -- CENTER: R246
  | cstep (q : Sched) (sa sb : SReg)  -- CSTEP: R247
  | cexit (q : Sched) (sa sb : SReg)  -- CEXIT: R248
  | cres (q : Sched) (sd sa : SReg)  -- CRES: R248
  | smfr (q : Sched) (s : SReg) (num : BitVec 8)  -- SMFR: R116
  | smto (q : Sched) (s : SReg) (num : BitVec 8)  -- SMTO: R116
  | scan (q : Sched) (s : SReg)  -- SCAN: R118
  | broodTimeout (clus : Nat)  -- BROOD_TIMEOUT: R222: the oldest forming wave of the cluster whose 2 us have passed is dispatched
  | capsuleLeaseExpiry (pa : Nat)  -- CAPSULE_LEASE_EXPIRY: R234: the center waiters of the capsule at physical address pa
  | sleepTimeout (slot : Nat)  -- SLEEP_TIMEOUT: R108: sleeping entries of the wave in a slot
  | wbarSpill (ctx launch : Nat)  -- WBAR_SPILL: R310: one arrived team of a launch
  | barrierByteCount (clus n : Nat)  -- BARRIER_BYTE_COUNT: R204: the n-th count waiting in the cluster
  | copyCommandStart (clus team : Nat)  -- COPY_COMMAND_START: R198
  | copyPortionWrite (clus team portion : Nat)  -- COPY_PORTION_WRITE: R198: the portion is the engine's choice
  | oloadStart (clus team : Nat)  -- OLOAD_START: R177
  | claimZeroFillDone (slot : Nat)  -- CLAIM_ZERO_FILL_DONE: R175: the claim of the wave in a slot
  | matrixGrant (clus : Nat) (port : Bool)  -- MATRIX_GRANT: R185: the array, or the tile port
  | passComplete (clus : Nat)  -- PASS_COMPLETE: R181
  | mzeroComplete (clus : Nat)  -- MZERO_COMPLETE: R186
  | mstoreComplete (clus : Nat)  -- MSTORE_COMPLETE: R189
  | tierCopy (die team : Nat)  -- COPY: R212
  | tierFetch (die team : Nat)  -- FETCH: R212
  | tierEvict (die team : Nat)  -- EVICT: R212
  | tileMoveComplete (die tile : Nat)  -- TILE_MOVE_COMPLETE: R332
  | tagcPerform (die team : Nat)  -- TAGC_PERFORM: R216
  | tagqPerform (die n : Nat)  -- TAGQ_PERFORM: R217: the n-th query waiting at the die
  | policyVictimChoose (die : Nat)  -- POLICY_VICTIM_CHOOSE: R333
  | completionRecordWrite (die n : Nat)  -- COMPLETION_RECORD_WRITE: R213: the n-th completion waiting at the die
  | collSum (collid round : Nat) (remote : List (Nat × List (BitVec 8)))  -- SUM: R341, R342, R343, R263: remote lists the contributions of ranks on other packages
  | collMax (collid round : Nat) (remote : List (Nat × List (BitVec 8)))  -- MAX: R341, R342, R343, R263: remote lists the contributions of ranks on other packages
  | collMin (collid round : Nat) (remote : List (Nat × List (BitVec 8)))  -- MIN: R341, R342, R343, R263: remote lists the contributions of ranks on other packages
  | collDraw (collid round : Nat) (remote : List (Nat × List (BitVec 8)))  -- DRAW: R341, R342, R343, R263: remote lists the contributions of ranks on other packages
  | collBarrier (collid round : Nat) (remote : List (Nat × List (BitVec 8)))  -- BARRIER: R341, R342, R343, R263: remote lists the contributions of ranks on other packages
  | collBroadcast (collid round : Nat) (remote : List (Nat × List (BitVec 8)))  -- BROADCAST: R341, R342, R343, R263: remote lists the contributions of ranks on other packages
  | collAllgather (collid round : Nat) (remote : List (Nat × List (BitVec 8)))  -- ALLGATHER: R341, R342, R343, R263: remote lists the contributions of ranks on other packages
  | collRoundComplete (collid round : Nat)  -- COLL_ROUND_COMPLETE: R344
  | collTimeout (collid round : Nat)  -- TIMEOUT: R345
  | remoteStorePerform (n : Nat)  -- REMOTE_STORE_PERFORM: R262
  | remoteAck (n : Nat)  -- REMOTE_ACK: R262
  | remoteFailure (n : Nat)  -- REMOTE_FAILURE: R349
  | inboundAccess (pkg off len : Nat) (access : PeerAccess)  -- INBOUND_ACCESS: R348
  | flitReplay (port : Nat)  -- FLIT_REPLAY: R346
  | portDown (port : Nat)  -- PORT_DOWN: R347
  | mailboxWrite (port off : Nat) (data : List (BitVec 8))  -- MAILBOX_WRITE: R358
  | mailboxRead (port off len : Nat)  -- MAILBOX_READ: R358
  | persistGroupEnter (n : Nat)  -- PERSIST_GROUP_ENTER: R335: the n-th waiting group
  | wbqDrainWrite (die : Nat)  -- WBQ_DRAIN_WRITE: R336
  | scrub (pa : Nat) (found : ScrubResult)  -- SCRUB: R328: what the scrub finds in the granule
  | launchAccept (ctx queue : Nat)  -- LAUNCH_ACCEPT: R295
  | distribute (clus : Nat) (affinity : List Nat)  -- DISTRIBUTE: R304, R305: affinity lists the items that key 4 prefers
  | place (core : Nat) (affinity : List Nat)  -- PLACE: R304, R306: on a core, or on the pair whose even core it is
  | agingExpiry (item : Nat)  -- AGING_EXPIRY: R301
  | launchComplete (ctx launch : Nat)  -- LAUNCH_COMPLETE: R314
  | teamSave (team : Nat)  -- TEAM_SAVE: R280
  | teamDiscard (team : Nat)  -- TEAM_DISCARD: R281
  | preemptDeadlineExpiry (ctx : Nat)  -- PREEMPT_DEADLINE_EXPIRY: R282
  | partRestore (ctx part die x y : Nat)  -- PART_RESTORE: R286: a saved part, its die and its origin
  | ctxEnable (ctx : Nat)  -- CTX_ENABLE: R372
  | ctxDisable (ctx : Nat)  -- CTX_DISABLE: R372
  | ctxPreempt (ctx : Nat)  -- CTX_PREEMPT: R372
  | ctxResume (ctx : Nat)  -- CTX_RESUME: R372
  | ctxReset (ctx : Nat)  -- CTX_RESET: R372
  | doorbell (value : BitVec 32)  -- DOORBELL: R295, R374
  | priocmd (value : BitVec 32)  -- PRIOCMD: R302, R374
  | invalPage (ctx va : Nat)  -- INVAL_PAGE: R292
  | invalContext (ctx : Nat)  -- INVAL_CONTEXT: R292
  | invalAll  -- INVAL_ALL: R292
  | invalidationPerformed  -- INVALIDATION_PERFORMED: R292
  | parkRequest (die : Nat)  -- PARK_REQUEST: R365
  | parkCancel (die : Nat)  -- PARK_CANCEL: R365
  | unpark (die : Nat)  -- UNPARK: R365
  | diePowerDown (die : Nat)  -- DIE_POWER_DOWN: R365
  | unparkComplete (die : Nat)  -- UNPARK_COMPLETE: R365
  | pceilWrite (value : BitVec 32)  -- PCEIL_WRITE: R363
  | pstateWrite (value : BitVec 32)  -- PSTATE_WRITE: R363
  | pstateTransitionDone  -- PSTATE_TRANSITION_DONE: R361
  | powerMeasure (milliwatts projected faster : Nat)  -- POWER_MEASURE: R362: the measured power of the interval and the controller's projected averages, in milliwatts
  | featacceptWrite (value : BitVec 64)  -- FEATACCEPT_WRITE: R359
  | attcmd (value : BitVec 32)  -- ATTCMD: R373
  | quoteComplete  -- QUOTE_COMPLETE: R373
  | tierpoolWrite (die : Nat) (value : BitVec 64)  -- TIERPOOL_WRITE: R329
  | tierpolWrite (die : Nat) (value : BitVec 32)  -- TIERPOL_WRITE: R329
  | errstatWrite (value : BitVec 64)  -- ERRSTAT_WRITE: R374
  | cmapWrite (off width : Nat) (value : BitVec 64)  -- CMAP_WRITE: R369: a 4- or 8-byte unit of CMAP
  | devctlReset (value : BitVec 64)  -- DEVCTL_RESET: R370
  | powerOn  -- POWER_ON: R370
  | registerWrite (off width : Nat) (value : BitVec 64)  -- REGISTER_WRITE: R374
  | powerLoss  -- POWER_LOSS: R337
  | drainComplete  -- DRAIN_COMPLETE: R337
  | holdupMeasure (millijoules : Nat)  -- HOLDUP_MEASURE: R338
  | scanDrainDone  -- SCAN_DRAIN_DONE: R368
  | scanRunDone (failmask : BitVec 8)  -- SCAN_RUN_DONE: R368: the targets whose signatures differ
  | scanDrainTimeout  -- SCAN_DRAIN_TIMEOUT: R368
  | snapCaptureStart (value : BitVec 32)  -- SNAP_CAPTURE_START: R350
  | cutClose  -- CUT_CLOSE: R352
  | tileCapture  -- TILE_CAPTURE: R353
  | cowCopy (tile : Nat)  -- COW_COPY: R353
  | stagedTileWrite  -- STAGED_TILE_WRITE: R353
  | shardsDurable (peerShards : List (List (BitVec 8)))  -- SHARDS_DURABLE: R355: the data units that the three peers exchange, in position order
  | recoverFence  -- RECOVER_FENCE: R356
  | recoverElect  -- RECOVER_ELECT: R356
  | recoverRebuild (ok : Bool)  -- RECOVER_REBUILD: R356: whether the survivors read hold a valid slot of the step
  | recoverRemap  -- RECOVER_REMAP: R356
  | recoverResume  -- RECOVER_RESUME: R356
  | recoverStepDone  -- RECOVER_STEP_DONE: R356
  | groupTableWrite (off width : Nat) (value : BitVec 64)  -- GROUP_TABLE_WRITE: R340
  | peerTableWrite (off width : Nat) (value : BitVec 64)  -- PEER_TABLE_WRITE: R348, R349
  deriving DecidableEq, Repr

end Sys2Proof
end

