-- ==== Sys2Proof/WellFormed.lean ====
section
/-! DEFINITION. What makes an instruction well formed whatever the wave's state: the checks of spec/03 R85 that the types of
Syntax.lean do not already make. Checks that need the wave (footprint R25, version R86, hints R68, W64 groups R79) are made
when the word issues. -/

namespace Sys2Proof

/-- A mask register number of a 4-bit field (spec/03 R85: 12 to 15 are illegal). -/
def maskOk (m : BitVec 4) : Bool := decide (m.toNat < 12)

/-- A mask register number of a 6-bit field (spec/03 R82, spec/05 R141). -/
def mask6Ok (m : BitVec 6) : Bool := decide (m.toNat < 12)

/-- An even register number (spec/03 R71). -/
def evenOk {n : Nat} (r : BitVec n) : Bool := decide (r.toNat % 2 = 0)

/-- A register number that is a multiple of 4 (spec/03 R71). -/
def quadOk {n : Nat} (r : BitVec n) : Bool := decide (r.toNat % 4 = 0)

/-- A scalar block that ends at s63 (spec/03 R71). -/
def atMost (r : SReg) (n : Nat) : Bool := decide (r.toNat ≤ n)

/-- The register group of an access of a width (spec/03 R78). -/
def widthGroupOk (w : Width) (vd : VReg) : Bool :=
  match w with
  | .b64 => evenOk vd
  | .b128 => quadOk vd
  | _ => true

/-- Store widths (spec/03 R78). -/
def Width.storable : Width → Bool
  | .i8 | .i16 => false
  | _ => true

/-- Column-load widths (spec/03 R78, spec/06 R157). -/
def Width.columnar : Width → Bool
  | .b8 | .b16 | .b32 => true
  | _ => false

/-- The system registers and whether each is 64 bits wide (spec/01 R27). -/
def sysReg64? (num : BitVec 8) : Option Bool :=
  match num.toNat with
  | 0x0B | 0x0E | 0x10 | 0x11 | 0x14 | 0x16 => some true
  | n => if n ≤ 0x18 then some false else none

/-- A listed system register with an even pair where it is 64 bits wide (spec/04 R116). -/
def sysRegOk (s : SReg) (num : BitVec 8) : Bool :=
  match sysReg64? num with
  | some true => evenOk s
  | some false => true
  | none => false

/-- The format codes of `sfcvt` (spec/04 R99). -/
def sfcvtCodeOk (c : BitVec 4) : Bool :=
  match c.toNat with
  | 0 | 1 | 2 | 3 | 4 | 7 => true
  | _ => false

/-- The scalar atomic operations (spec/03 R80: no float and no compare-and-swap). -/
def AtomOp.scalarOk : AtomOp → Bool
  | .fadd | .fmin | .fmax => false
  | _ => true

/-- Fold operations of the float type (spec/05 R140). -/
def RedOp.floatOk : RedOp → Bool
  | .and | .or => false
  | _ => true

/-- The well-formedness of an instruction. -/
def Instr.wf : Instr → Bool
  | .vcvt _ dst src _ _ _ => decide (dst ≠ src)
  | .vcmp _ _ md _ _ => maskOk md
  | .vfcmp _ _ md _ _ => maskOk md
  | .sfcvt _ _ _ dst src => sfcvtCodeOk dst && sfcvtCodeOk src && decide (dst ≠ src)
  | .drawm _ sd sa => atMost sd 61 && atMost sa 61
  | .br _ _ inv cond _ => decide (cond.toNat ≤ 13) && !(inv && decide (cond = 0))
  | .join _ m => maskOk m
  | .leave _ m => maskOk m
  | .waitm _ m => maskOk m
  | .hintGuard _ m => maskOk m
  | .hintMod sel _ _ _ _ _ _ _ _ => maskOk sel
  | .hintRnd mode => decide (mode.toNat ≤ 4)
  | .hintScope sc => decide (sc.toNat ≤ 5)
  | .vld _ vd _ _ w => widthGroupOk w vd
  | .vlds _ vd _ _ w => widthGroupOk w vd
  | .vldc _ vd _ _ w => widthGroupOk w vd
  | .vldt _ _ _ _ w => w.columnar
  | .vst _ vs _ _ w => w.storable && widthGroupOk w vs
  | .vsts _ vs _ _ w => w.storable && widthGroupOk w vs
  | .vcas _ vd _ _ => evenOk vd
  | .vatomsCas _ vd _ _ => evenOk vd
  | .sld _ sd _ w64 _ => !w64 || evenOk sd
  | .sst _ sd _ w64 _ => !w64 || evenOk sd
  | .sldk _ sd _ w64 _ => !w64 || evenOk sd
  | .satom _ sd _ w64 op => op.scalarOk && (!w64 || evenOk sd)
  | .scas _ sd _ w64 => if w64 then quadOk sd else evenOk sd
  | .vmatch _ vd _ => evenOk vd
  | .vballot _ md _ => maskOk md
  | .vredu _ _ fl op _ => !fl || op.floatOk
  | .vscan _ _ fl op _ _ => !fl || op.floatOk
  | .vdraw _ sd _ _ => atMost sd 61
  | .mand _ md ma mb => mask6Ok md && mask6Ok ma && maskOk mb
  | .mor _ md ma mb => mask6Ok md && mask6Ok ma && maskOk mb
  | .mxor _ md ma mb => mask6Ok md && mask6Ok ma && maskOk mb
  | .mandn _ md ma mb => mask6Ok md && mask6Ok ma && maskOk mb
  | .mmov _ md ma => mask6Ok md && mask6Ok ma
  | .mpopc _ _ ma => mask6Ok ma
  | .mfirst _ md ma => mask6Ok md && mask6Ok ma
  | .mset _ md sa => mask6Ok md && evenOk sa
  | .mget _ sd ma => evenOk sd && mask6Ok ma
  | .fence _ _ sc => decide (sc.toNat ≤ 5)
  | .qfence _ qs => decide (qs ≠ 0)
  | .barinit _ sa => atMost sa 61
  | .cpy _ sa => evenOk sa && atMost sa 58
  | .cpym _ sa _ => evenOk sa && atMost sa 58
  | .xfer _ sa => evenOk sa && atMost sa 56
  | .coll _ sa => evenOk sa
  | .signal _ sa _ => evenOk sa
  | .tagc _ sa _ => evenOk sa
  | .tagq _ _ sa => evenOk sa
  | .orel _ sa => evenOk sa
  | .oload _ sa => evenOk sa && atMost sa 58
  | .spawn _ va => quadOk va
  | .fbind _ sa => evenOk sa && atMost sa 60
  | .fset _ sa sb => evenOk sa && evenOk sb
  | .fwait _ sd sa => evenOk sd && evenOk sa
  | .qres _ sd _ => atMost sd 61
  | .qtake _ sd _ => atMost sd 61
  | .center _ sd sa => atMost sd 61 && evenOk sa
  | .cstep _ sa _ => evenOk sa
  | .cexit _ sa sb => evenOk sa && evenOk sb
  | .cres _ sd sa => evenOk sd && evenOk sa
  | .smfr _ s num => sysRegOk s num
  | .smto _ s num => sysRegOk s num
  | .scan _ s => evenOk s
  | _ => true

end Sys2Proof
end

