-- ==== Sys2Proof/Decode.lean ====
section
/-! DEFINITION. The decoder, total on every word and on every list of bytes, and the encoder, both written from the formats
of spec/03 R63 to R84. A word is read as a natural number, bit 0 its least significant bit. -/

namespace Sys2Proof

/-- Why a word is no instruction (spec/03 R85, R41). -/
inductive DecodeError where
  /-- A major, minor, width, kind, space, operation or operand code that the formats do not allocate, or a field that must be zero. -/
  | unallocated
  /-- Allocated, but a register group, mask number or other field breaks its rule (spec/03 R71, R85). -/
  | illFormed
  /-- A format code of 9 to 15 that is the word's only fault (spec/03 R41, spec/04 R99). -/
  | formatCode
  /-- Fewer than four bytes. -/
  | truncated
  deriving DecidableEq, Repr

/-- Field of n bits from bit lo, as a number. -/
def nat (w lo n : Nat) : Nat := w / 2 ^ lo % 2 ^ n

/-- Field of n bits from bit lo. -/
def fld (w lo n : Nat) : BitVec n := BitVec.ofNat n (w / 2 ^ lo)

/-- One bit. -/
def flag (w lo : Nat) : Bool := decide (w / 2 ^ lo % 2 = 1)

/-- A field that the format fixes. -/
def ifField (w lo n value : Nat) (i : Option Instr) : Option Instr := if nat w lo n = value then i else none

/-- A Boolean field as a number. -/
def bit (b : Bool) : Nat := if b then 1 else 0

/-- The scheduling fields (spec/03 R63). -/
def schedOf (w : Nat) : Sched := { gap := fld w 30 2, giveWay := flag w 29 }

/-- A word from its scheduling fields, its major and bits [23:0] (spec/03 R63). -/
def wordOf (q : Sched) (major body : Nat) : Nat :=
  q.gap.toNat * 1073741824 + bit q.giveWay * 536870912 + major * 16777216 + body

/-- The code of a vector b operand (spec/03 R69). -/
def VSrc.code : VSrc → Nat
  | .v n => n.toNat
  | .s n => 128 + n.toNat
  | .int k => 192 + k.val
  | .flt k => 240 + k.val
  | .lit => 248
  | .lane => 249

/-- The vector b operand of a code; 0xFA to 0xFF are reserved (spec/03 R69). -/
def VSrc.ofCode (c : Nat) : Option VSrc :=
  if c < 128 then some (.v (BitVec.ofNat 7 c))
  else if c < 192 then some (.s (BitVec.ofNat 6 (c - 128)))
  else if c < 240 then some (.int ⟨(c - 192) % 48, Nat.mod_lt _ (by decide)⟩)
  else if c < 248 then some (.flt ⟨(c - 240) % 8, Nat.mod_lt _ (by decide)⟩)
  else if c = 248 then some .lit
  else if c = 249 then some .lane
  else none

/-- The code of a scalar b operand (spec/03 R70). -/
def SSrc.code : SSrc → Nat
  | .s n => n.toNat
  | .int k => 64 + k.val

/-- The scalar b operand of a code of 8 bits (spec/03 R70). -/
def SSrc.ofCode (c : Nat) : Option SSrc :=
  if c < 64 then some (.s (BitVec.ofNat 6 c))
  else some (.int ⟨(c - 64) % 192, Nat.mod_lt _ (by decide)⟩)

/-- Shuffle modes (spec/03 R72). -/
def ShflMode.code : ShflMode → Nat
  | .idx => 0
  | .xor => 1
  | .up => 2
  | .down => 3

/-- Shuffle modes (spec/03 R72). -/
def ShflMode.ofCode : Nat → Option ShflMode
  | 0 => some .idx
  | 1 => some .xor
  | 2 => some .up
  | 3 => some .down
  | _ => none

theorem ShflMode.ofCode_code (x : ShflMode) : ShflMode.ofCode x.code = some x := by cases x <;> rfl

/-- Integer conditions (spec/03 R75). -/
def ICond.code : ICond → Nat
  | .eq => 0
  | .ne => 1
  | .lt => 2
  | .le => 3
  | .gt => 4
  | .ge => 5
  | .ltu => 6
  | .leu => 7
  | .gtu => 8
  | .geu => 9

/-- Integer conditions (spec/03 R75). -/
def ICond.ofCode : Nat → Option ICond
  | 0 => some .eq
  | 1 => some .ne
  | 2 => some .lt
  | 3 => some .le
  | 4 => some .gt
  | 5 => some .ge
  | 6 => some .ltu
  | 7 => some .leu
  | 8 => some .gtu
  | 9 => some .geu
  | _ => none

theorem ICond.ofCode_code (x : ICond) : ICond.ofCode x.code = some x := by cases x <;> rfl

/-- Float conditions (spec/03 R75). -/
def FCond.code : FCond → Nat
  | .eq => 0
  | .ne => 1
  | .lt => 2
  | .le => 3
  | .gt => 4
  | .ge => 5
  | .ord => 6
  | .unord => 7

/-- Float conditions (spec/03 R75). -/
def FCond.ofCode : Nat → Option FCond
  | 0 => some .eq
  | 1 => some .ne
  | 2 => some .lt
  | 3 => some .le
  | 4 => some .gt
  | 5 => some .ge
  | 6 => some .ord
  | 7 => some .unord
  | _ => none

theorem FCond.ofCode_code (x : FCond) : FCond.ofCode x.code = some x := by cases x <;> rfl

/-- Conversion indexes (spec/03 R74). -/
def CvtFmt.code : CvtFmt → Nat
  | .fp32 => 0
  | .bf16 => 1
  | .fp16 => 2
  | .e4m3 => 3
  | .e5m2 => 4
  | .int8 => 5
  | .int32 => 6
  | .uint8 => 7

/-- Conversion indexes (spec/03 R74). -/
def CvtFmt.ofCode : Nat → Option CvtFmt
  | 0 => some .fp32
  | 1 => some .bf16
  | 2 => some .fp16
  | 3 => some .e4m3
  | 4 => some .e5m2
  | 5 => some .int8
  | 6 => some .int32
  | 7 => some .uint8
  | _ => none

theorem CvtFmt.ofCode_code (x : CvtFmt) : CvtFmt.ofCode x.code = some x := by cases x <;> rfl

/-- Rounding selectors (spec/03 R74). -/
def CvtRound.code : CvtRound → Nat
  | .dynamic => 0
  | .rne => 1
  | .rtz => 2
  | .rsr => 3

/-- Rounding selectors (spec/03 R74). -/
def CvtRound.ofCode : Nat → Option CvtRound
  | 0 => some .dynamic
  | 1 => some .rne
  | 2 => some .rtz
  | 3 => some .rsr
  | _ => none

theorem CvtRound.ofCode_code (x : CvtRound) : CvtRound.ofCode x.code = some x := by cases x <;> rfl

/-- Branch hints (spec/03 R77). -/
def BrHint.code : BrHint → Nat
  | .none => 0
  | .likely => 1
  | .unlikely => 2
  | .uniform => 3

/-- Branch hints (spec/03 R77). -/
def BrHint.ofCode : Nat → Option BrHint
  | 0 => some .none
  | 1 => some .likely
  | 2 => some .unlikely
  | 3 => some .uniform
  | _ => none

theorem BrHint.ofCode_code (x : BrHint) : BrHint.ofCode x.code = some x := by cases x <;> rfl

/-- Width codes (spec/03 R78). -/
def Width.code : Width → Nat
  | .b8 => 0
  | .i8 => 1
  | .b16 => 2
  | .i16 => 3
  | .b32 => 4
  | .b64 => 5
  | .b128 => 6

/-- Width codes (spec/03 R78). -/
def Width.ofCode : Nat → Option Width
  | 0 => some .b8
  | 1 => some .i8
  | 2 => some .b16
  | 3 => some .i16
  | 4 => some .b32
  | 5 => some .b64
  | 6 => some .b128
  | _ => none

theorem Width.ofCode_code (x : Width) : Width.ofCode x.code = some x := by cases x <;> rfl

/-- Atomic operation codes (spec/03 R79); 11 and 12 are other rows, 15 is reserved. -/
def AtomOp.code : AtomOp → Nat
  | .add => 0
  | .fadd => 1
  | .min => 2
  | .max => 3
  | .fmin => 4
  | .fmax => 5
  | .and => 6
  | .or => 7
  | .xor => 8
  | .exch => 9
  | .incw => 10
  | .minu => 13
  | .maxu => 14

/-- Atomic operation codes (spec/03 R79); 11 and 12 are other rows, 15 is reserved. -/
def AtomOp.ofCode : Nat → Option AtomOp
  | 0 => some .add
  | 1 => some .fadd
  | 2 => some .min
  | 3 => some .max
  | 4 => some .fmin
  | 5 => some .fmax
  | 6 => some .and
  | 7 => some .or
  | 8 => some .xor
  | 9 => some .exch
  | 10 => some .incw
  | 13 => some .minu
  | 14 => some .maxu
  | _ => none

theorem AtomOp.ofCode_code (x : AtomOp) : AtomOp.ofCode x.code = some x := by cases x <;> rfl

/-- Fold operation codes (spec/03 R81). -/
def RedOp.code : RedOp → Nat
  | .add => 0
  | .min => 1
  | .max => 2
  | .and => 3
  | .or => 4

/-- Fold operation codes (spec/03 R81). -/
def RedOp.ofCode : Nat → Option RedOp
  | 0 => some .add
  | 1 => some .min
  | 2 => some .max
  | 3 => some .and
  | 4 => some .or
  | _ => none

theorem RedOp.ofCode_code (x : RedOp) : RedOp.ofCode x.code = some x := by cases x <;> rfl

/-- Fence kinds (spec/03 R83). -/
def FenceKind.code : FenceKind → Nat
  | .acq => 0
  | .rel => 1
  | .full => 2

/-- Fence kinds (spec/03 R83). -/
def FenceKind.ofCode : Nat → Option FenceKind
  | 0 => some .acq
  | 1 => some .rel
  | 2 => some .full
  | _ => none

theorem FenceKind.ofCode_code (x : FenceKind) : FenceKind.ofCode x.code = some x := by cases x <;> rfl

/-- Wide-barrier scopes (spec/03 R83). -/
def WbarScope.code : WbarScope → Nat
  | .team => 0
  | .clus => 1
  | .grid => 2

/-- Wide-barrier scopes (spec/03 R83). -/
def WbarScope.ofCode : Nat → Option WbarScope
  | 0 => some .team
  | 1 => some .clus
  | 2 => some .grid
  | _ => none

theorem WbarScope.ofCode_code (x : WbarScope) : WbarScope.ofCode x.code = some x := by cases x <;> rfl

/-- Major 0x00, format VB (spec/03 R72). -/
def decode00 (q : Sched) (w : Nat) : Option Instr :=
  match nat w 22 2 with
  | 0 => (VSrc.ofCode (nat w 0 8)).bind fun b => some (.vadd q (fld w 15 7) (fld w 8 7) b)
  | 1 => (VSrc.ofCode (nat w 0 8)).bind fun b => some (.vsub q (fld w 15 7) (fld w 8 7) b)
  | 2 => (VSrc.ofCode (nat w 0 8)).bind fun b => some (.vmul q (fld w 15 7) (fld w 8 7) b)
  | _ => (VSrc.ofCode (nat w 0 8)).bind fun b => some (.vmulhi q (fld w 15 7) (fld w 8 7) b)

/-- Major 0x01, format VB (spec/03 R72). -/
def decode01 (q : Sched) (w : Nat) : Option Instr :=
  match nat w 22 2 with
  | 0 => (VSrc.ofCode (nat w 0 8)).bind fun b => some (.vand q (fld w 15 7) (fld w 8 7) b)
  | 1 => (VSrc.ofCode (nat w 0 8)).bind fun b => some (.vor q (fld w 15 7) (fld w 8 7) b)
  | 2 => (VSrc.ofCode (nat w 0 8)).bind fun b => some (.vxor q (fld w 15 7) (fld w 8 7) b)
  | _ => (VSrc.ofCode (nat w 0 8)).bind fun b => some (.vshl q (fld w 15 7) (fld w 8 7) b)

/-- Major 0x02, format VB (spec/03 R72). -/
def decode02 (q : Sched) (w : Nat) : Option Instr :=
  match nat w 22 2 with
  | 0 => (VSrc.ofCode (nat w 0 8)).bind fun b => some (.vshr q (fld w 15 7) (fld w 8 7) b)
  | 1 => (VSrc.ofCode (nat w 0 8)).bind fun b => some (.vsra q (fld w 15 7) (fld w 8 7) b)
  | 2 => (VSrc.ofCode (nat w 0 8)).bind fun b => some (.vmin q (fld w 15 7) (fld w 8 7) b)
  | _ => (VSrc.ofCode (nat w 0 8)).bind fun b => some (.vmax q (fld w 15 7) (fld w 8 7) b)

/-- Major 0x03, format VB (spec/03 R72). -/
def decode03 (q : Sched) (w : Nat) : Option Instr :=
  match nat w 22 2 with
  | 0 => (VSrc.ofCode (nat w 0 8)).bind fun b => some (.vminu q (fld w 15 7) (fld w 8 7) b)
  | 1 => (VSrc.ofCode (nat w 0 8)).bind fun b => some (.vmaxu q (fld w 15 7) (fld w 8 7) b)
  | 2 => (VSrc.ofCode (nat w 0 8)).bind fun b => some (.vmad q (fld w 15 7) (fld w 8 7) b)
  | _ => (VSrc.ofCode (nat w 0 8)).bind fun b => some (.vabsd q (fld w 15 7) (fld w 8 7) b)

/-- Major 0x04, format VB (spec/03 R72). -/
def decode04 (q : Sched) (w : Nat) : Option Instr :=
  match nat w 22 2 with
  | 0 => (VSrc.ofCode (nat w 0 8)).bind fun b => some (.vfadd q (fld w 15 7) (fld w 8 7) b)
  | 1 => (VSrc.ofCode (nat w 0 8)).bind fun b => some (.vfsub q (fld w 15 7) (fld w 8 7) b)
  | 2 => (VSrc.ofCode (nat w 0 8)).bind fun b => some (.vfmul q (fld w 15 7) (fld w 8 7) b)
  | _ => (VSrc.ofCode (nat w 0 8)).bind fun b => some (.vffma q (fld w 15 7) (fld w 8 7) b)

/-- Major 0x05, format VB (spec/03 R72). -/
def decode05 (q : Sched) (w : Nat) : Option Instr :=
  match nat w 22 2 with
  | 0 => (VSrc.ofCode (nat w 0 8)).bind fun b => some (.vfmin q (fld w 15 7) (fld w 8 7) b)
  | 1 => (VSrc.ofCode (nat w 0 8)).bind fun b => some (.vfmax q (fld w 15 7) (fld w 8 7) b)
  | 2 => (VSrc.ofCode (nat w 0 8)).bind fun b => some (.vhfma q (fld w 15 7) (fld w 8 7) b)
  | _ => (VSrc.ofCode (nat w 0 8)).bind fun b => some (.vhadd q (fld w 15 7) (fld w 8 7) b)

/-- Major 0x06, format VB (spec/03 R72). -/
def decode06 (q : Sched) (w : Nat) : Option Instr :=
  match nat w 22 2 with
  | 0 => (VSrc.ofCode (nat w 0 8)).bind fun b => some (.vhmul q (fld w 15 7) (fld w 8 7) b)
  | 1 => (VSrc.ofCode (nat w 0 8)).bind fun b => some (.vsel q (fld w 15 7) (fld w 8 7) b)
  | 2 => (VSrc.ofCode (nat w 0 8)).bind fun b => some (.vpack2 q (fld w 15 7) (fld w 8 7) b)
  | _ => (VSrc.ofCode (nat w 0 8)).bind fun b => some (.vcopysign q (fld w 15 7) (fld w 8 7) b)

/-- Major 0x07, format VB (spec/03 R72). -/
def decode07 (q : Sched) (w : Nat) : Option Instr :=
  (ShflMode.ofCode (nat w 22 2)).bind fun mode => (VSrc.ofCode (nat w 0 8)).bind fun b => some (.vshfl q mode (fld w 15 7) (fld w 8 7) b)

/-- Major 0x08 with minor[8] = 0, the unary operations (spec/03 R74). -/
def decodeUnary (q : Sched) (w : Nat) : Option Instr :=
  match nat w 15 6 with
  | 0 => ifField w 21 2 0 ((VSrc.ofCode (nat w 0 8)).bind fun b => some (.vmov q (fld w 8 7) b))
  | 1 => ifField w 21 2 0 ((VSrc.ofCode (nat w 0 8)).bind fun b => some (.vnot q (fld w 8 7) b))
  | 2 => ifField w 21 2 0 ((VSrc.ofCode (nat w 0 8)).bind fun b => some (.vneg q (fld w 8 7) b))
  | 3 => ifField w 21 2 0 ((VSrc.ofCode (nat w 0 8)).bind fun b => some (.vabs q (fld w 8 7) b))
  | 4 => ifField w 21 2 0 ((VSrc.ofCode (nat w 0 8)).bind fun b => some (.vpopc q (fld w 8 7) b))
  | 5 => ifField w 21 2 0 ((VSrc.ofCode (nat w 0 8)).bind fun b => some (.vclz q (fld w 8 7) b))
  | 6 => ifField w 21 2 0 ((VSrc.ofCode (nat w 0 8)).bind fun b => some (.vbrev q (fld w 8 7) b))
  | 7 => ifField w 21 2 0 ((VSrc.ofCode (nat w 0 8)).bind fun b => some (.vbfe q (fld w 8 7) b))
  | 8 => ifField w 21 2 0 ((VSrc.ofCode (nat w 0 8)).bind fun b => some (.vbfi q (fld w 8 7) b))
  | 9 => ifField w 21 2 0 ((VSrc.ofCode (nat w 0 8)).bind fun b => some (.vrand q (fld w 8 7) b))
  | 10 => ifField w 21 2 0 ((VSrc.ofCode (nat w 0 8)).bind fun b => some (.vbcast q (fld w 8 7) b))
  | 16 => ifField w 22 1 0 ((VSrc.ofCode (nat w 0 8)).bind fun b => some (.vfrcp q (flag w 21) (fld w 8 7) b))
  | 17 => ifField w 22 1 0 ((VSrc.ofCode (nat w 0 8)).bind fun b => some (.vfrsq q (flag w 21) (fld w 8 7) b))
  | 18 => ifField w 22 1 0 ((VSrc.ofCode (nat w 0 8)).bind fun b => some (.vfsqrt q (flag w 21) (fld w 8 7) b))
  | 19 => ifField w 22 1 0 ((VSrc.ofCode (nat w 0 8)).bind fun b => some (.vfexp2 q (flag w 21) (fld w 8 7) b))
  | 20 => ifField w 22 1 0 ((VSrc.ofCode (nat w 0 8)).bind fun b => some (.vflog2 q (flag w 21) (fld w 8 7) b))
  | 21 => ifField w 22 1 0 ((VSrc.ofCode (nat w 0 8)).bind fun b => some (.vfsin q (flag w 21) (fld w 8 7) b))
  | 22 => ifField w 22 1 0 ((VSrc.ofCode (nat w 0 8)).bind fun b => some (.vfcos q (flag w 21) (fld w 8 7) b))
  | 23 => ifField w 22 1 0 ((VSrc.ofCode (nat w 0 8)).bind fun b => some (.vftanh q (flag w 21) (fld w 8 7) b))
  | 24 => ifField w 22 1 0 ((VSrc.ofCode (nat w 0 8)).bind fun b => some (.vfrnd q (flag w 21) (fld w 8 7) b))
  | 25 => ifField w 22 1 0 ((VSrc.ofCode (nat w 0 8)).bind fun b => some (.vfclass q (flag w 21) (fld w 8 7) b))
  | _ => none

/-- Major 0x08, format VU (spec/03 R72, R74). -/
def decode08 (q : Sched) (w : Nat) : Option Instr :=
  match nat w 23 1 with
  | 0 => decodeUnary q w
  | _ => (CvtFmt.ofCode (nat w 20 3)).bind fun dst => (CvtFmt.ofCode (nat w 17 3)).bind fun src => (CvtRound.ofCode (nat w 15 2)).bind fun sel => (VSrc.ofCode (nat w 0 8)).bind fun b => some (.vcvt q dst src sel (fld w 8 7) b)

/-- Major 0x09, format VC (spec/03 R72). -/
def decode09 (q : Sched) (w : Nat) : Option Instr :=
  (ICond.ofCode (nat w 19 5)).bind fun cond => (VSrc.ofCode (nat w 0 8)).bind fun b => some (.vcmp q cond (fld w 15 4) (fld w 8 7) b)

/-- Major 0x0A, format VC (spec/03 R72). -/
def decode0A (q : Sched) (w : Nat) : Option Instr :=
  (FCond.ofCode (nat w 19 5)).bind fun cond => (VSrc.ofCode (nat w 0 8)).bind fun b => some (.vfcmp q cond (fld w 15 4) (fld w 8 7) b)

/-- Major 0x0B, format SB (spec/03 R72). -/
def decode0B (q : Sched) (w : Nat) : Option Instr :=
  match nat w 20 4 with
  | 0 => (SSrc.ofCode (nat w 0 8)).bind fun b => some (.sadd q (fld w 14 6) (fld w 8 6) b)
  | 1 => (SSrc.ofCode (nat w 0 8)).bind fun b => some (.ssub q (fld w 14 6) (fld w 8 6) b)
  | 2 => (SSrc.ofCode (nat w 0 8)).bind fun b => some (.smul q (fld w 14 6) (fld w 8 6) b)
  | 3 => (SSrc.ofCode (nat w 0 8)).bind fun b => some (.smulhi q (fld w 14 6) (fld w 8 6) b)
  | 4 => (SSrc.ofCode (nat w 0 8)).bind fun b => some (.sand q (fld w 14 6) (fld w 8 6) b)
  | 5 => (SSrc.ofCode (nat w 0 8)).bind fun b => some (.sor q (fld w 14 6) (fld w 8 6) b)
  | 6 => (SSrc.ofCode (nat w 0 8)).bind fun b => some (.sxor q (fld w 14 6) (fld w 8 6) b)
  | 7 => (SSrc.ofCode (nat w 0 8)).bind fun b => some (.sshl q (fld w 14 6) (fld w 8 6) b)
  | 8 => (SSrc.ofCode (nat w 0 8)).bind fun b => some (.sshr q (fld w 14 6) (fld w 8 6) b)
  | 9 => (SSrc.ofCode (nat w 0 8)).bind fun b => some (.ssra q (fld w 14 6) (fld w 8 6) b)
  | 10 => (SSrc.ofCode (nat w 0 8)).bind fun b => some (.smin q (fld w 14 6) (fld w 8 6) b)
  | 11 => (SSrc.ofCode (nat w 0 8)).bind fun b => some (.smax q (fld w 14 6) (fld w 8 6) b)
  | 12 => (SSrc.ofCode (nat w 0 8)).bind fun b => some (.sminu q (fld w 14 6) (fld w 8 6) b)
  | 13 => (SSrc.ofCode (nat w 0 8)).bind fun b => some (.smaxu q (fld w 14 6) (fld w 8 6) b)
  | 14 => (SSrc.ofCode (nat w 0 8)).bind fun b => some (.saddc q (fld w 14 6) (fld w 8 6) b)
  | _ => (SSrc.ofCode (nat w 0 8)).bind fun b => some (.ssubb q (fld w 14 6) (fld w 8 6) b)

/-- Major 0x0C, format SB (spec/03 R72). -/
def decode0C (q : Sched) (w : Nat) : Option Instr :=
  match nat w 20 4 with
  | 0 => ifField w 18 2 0 ((ICond.ofCode (nat w 14 4)).bind fun cond => (SSrc.ofCode (nat w 0 8)).bind fun b => some (.scmp q cond (fld w 8 6) b))
  | 1 => (SSrc.ofCode (nat w 0 8)).bind fun b => some (.ssel q (fld w 14 6) (fld w 8 6) b)
  | 2 => ifField w 8 6 0 ((SSrc.ofCode (nat w 0 8)).bind fun b => some (.smov q (fld w 14 6) b))
  | 3 => ifField w 8 6 0 ((SSrc.ofCode (nat w 0 8)).bind fun b => some (.spopc q (fld w 14 6) b))
  | 4 => ifField w 8 6 0 ((SSrc.ofCode (nat w 0 8)).bind fun b => some (.sclz q (fld w 14 6) b))
  | 5 => (SSrc.ofCode (nat w 0 8)).bind fun b => some (.sbfe q (fld w 14 6) (fld w 8 6) b)
  | 6 => (SSrc.ofCode (nat w 0 8)).bind fun b => some (.sfadd q (fld w 14 6) (fld w 8 6) b)
  | 7 => (SSrc.ofCode (nat w 0 8)).bind fun b => some (.sfmul q (fld w 14 6) (fld w 8 6) b)
  | 8 => (SSrc.ofCode (nat w 0 8)).bind fun b => some (.sffma q (fld w 14 6) (fld w 8 6) b)
  | 9 => (SSrc.ofCode (nat w 0 8)).bind fun b => some (.sfmin q (fld w 14 6) (fld w 8 6) b)
  | 10 => (SSrc.ofCode (nat w 0 8)).bind fun b => some (.sfmax q (fld w 14 6) (fld w 8 6) b)
  | 11 => some (.sfcvt q (fld w 14 6) (fld w 8 6) (fld w 4 4) (fld w 0 4))
  | 12 => ifField w 0 8 0 (some (.drawm q (fld w 14 6) (fld w 8 6)))
  | 13 => ifField w 8 6 0 ((SSrc.ofCode (nat w 0 8)).bind fun b => some (.sfexp2 q (fld w 14 6) b))
  | _ => none

/-- Major 0x0D, format SI (spec/03 R72). -/
def decode0D (q : Sched) (w : Nat) : Option Instr :=
  match nat w 22 2 with
  | 0 => some (.smovi q (fld w 16 6) (fld w 0 16))
  | 1 => some (.sori q (fld w 16 6) (fld w 0 16))
  | 2 => some (.saddi q (fld w 16 6) (fld w 0 16))
  | _ => some (.scmpi q (fld w 16 6) (fld w 0 16))

/-- Major 0x0E, format BR (spec/03 R72). -/
def decode0E (q : Sched) (w : Nat) : Option Instr :=
  (BrHint.ofCode (nat w 22 2)).bind fun hint => some (.br q hint (flag w 21) (fld w 17 4) (fld w 0 17))

/-- Major 0x0F, format CT (spec/03 R72). -/
def decode0F (q : Sched) (w : Nat) : Option Instr :=
  match nat w 19 5 with
  | 0 => some (.jmp q (fld w 0 19))
  | 1 => some (.call q (fld w 0 19))
  | 2 => ifField w 0 19 0 (some (.ret q))
  | 3 => ifField w 15 4 0 (ifField w 0 8 0 (some (.brx q (fld w 8 7))))
  | 4 => ifField w 0 19 0 (some (.exit q))
  | 5 => ifField w 4 15 0 (some (.join q (fld w 0 4)))
  | 6 => ifField w 4 15 0 (some (.leave q (fld w 0 4)))
  | 7 => ifField w 4 15 0 (some (.waitm q (fld w 0 4)))
  | 8 => ifField w 13 6 0 ((SSrc.ofCode (nat w 0 8)).bind fun t => some (.sleep q (fld w 8 5) t))
  | 9 => ifField w 0 19 0 (some (.yield q))
  | 10 => ifField w 0 19 0 (some (.nop q))
  | 11 => ifField w 8 11 0 (some (.trap q (fld w 0 8)))
  | 12 => if nat w 0 19 = 0 then some (.tret q) else ifField w 0 19 1 (some (.tretAbort q))
  | 13 => ifField w 8 11 0 (some (.brk q (fld w 0 8)))
  | 14 => ifField w 0 19 0 (some (.isync q))
  | 15 => ifField w 0 19 0 (some (.ppt q))
  | 16 => ifField w 0 19 0 (some (.idem q))
  | 17 => ifField w 0 19 0 (some (.idemend q))
  | _ => none

/-- Major 0x10, format HN (spec/03 R72). -/
def decode10 (w : Nat) : Option Instr :=
  match nat w 20 4 with
  | 0 => some (.hintLitlo (fld w 0 20))
  | 1 => ifField w 12 8 0 (some (.hintLithi (fld w 0 12)))
  | 2 => ifField w 5 15 0 (some (.hintGuard (flag w 4) (fld w 0 4)))
  | 3 => ifField w 13 7 0 (some (.hintMod (fld w 9 4) (flag w 8) (fld w 6 2) (flag w 5) (flag w 4) (flag w 3) (flag w 2) (flag w 1) (flag w 0)))
  | 4 => ifField w 3 17 0 (some (.hintRnd (fld w 0 3)))
  | 5 => ifField w 3 17 0 (some (.hintScope (fld w 0 3)))
  | 6 => ifField w 2 18 0 (some (.hintCache (fld w 0 2)))
  | 7 => ifField w 8 12 0 (some (.hintGap (fld w 0 8)))
  | _ => none

/-- Major 0x11, format ME (spec/03 R72). -/
def decode11 (q : Sched) (w : Nat) : Option Instr :=
  match nat w 0 2, nat w 2 3 with
  | 0, 7 => ifField w 17 7 0 (some (.vpref q (fld w 12 5) (fld w 5 7)))
  | 0, _ => (Width.ofCode (nat w 2 3)).bind fun width => some (.vld q (fld w 17 7) (fld w 12 5) (fld w 5 7) width)
  | 1, _ => (Width.ofCode (nat w 2 3)).bind fun width => some (.vlds q (fld w 17 7) (fld w 12 5) (fld w 5 7) width)
  | 2, _ => (Width.ofCode (nat w 2 3)).bind fun width => some (.vldc q (fld w 17 7) (fld w 12 5) (fld w 5 7) width)
  | _, _ => (Width.ofCode (nat w 2 3)).bind fun width => some (.vldt q (fld w 17 7) (fld w 12 5) (fld w 5 7) width)

/-- Major 0x12, format ME (spec/03 R72). -/
def decode12 (q : Sched) (w : Nat) : Option Instr :=
  match nat w 0 2, nat w 2 3 with
  | 0, _ => (Width.ofCode (nat w 2 3)).bind fun width => some (.vst q (fld w 17 7) (fld w 12 5) (fld w 5 7) width)
  | 1, _ => (Width.ofCode (nat w 2 3)).bind fun width => some (.vsts q (fld w 17 7) (fld w 12 5) (fld w 5 7) width)
  | 2, 7 => ifField w 17 7 0 (some (.vpwb q (fld w 12 5) (fld w 5 7)))
  | _, _ => none

/-- Major 0x13, format AT (spec/03 R72). -/
def decode13 (q : Sched) (w : Nat) : Option Instr :=
  match nat w 0 1, nat w 20 4 with
  | 0, 11 => some (.vcas q (fld w 13 7) (fld w 6 7) (fld w 1 5))
  | 0, 12 => some (.bfadd q (fld w 13 7) (fld w 6 7) (fld w 1 5))
  | 0, _ => (AtomOp.ofCode (nat w 20 4)).bind fun op => some (.vatom q op (fld w 13 7) (fld w 6 7) (fld w 1 5))
  | _, 11 => some (.vatomsCas q (fld w 13 7) (fld w 6 7) (fld w 1 5))
  | _, _ => (AtomOp.ofCode (nat w 20 4)).bind fun op => some (.vatoms q op (fld w 13 7) (fld w 6 7) (fld w 1 5))

/-- Major 0x14, format SM (spec/03 R72). -/
def decode14 (q : Sched) (w : Nat) : Option Instr :=
  match nat w 21 3 with
  | 0 => ifField w 9 1 0 (some (.sld q (fld w 15 6) (fld w 10 5) (flag w 8) (fld w 0 8)))
  | 1 => ifField w 9 1 0 (some (.sst q (fld w 15 6) (fld w 10 5) (flag w 8) (fld w 0 8)))
  | 2 => ifField w 9 1 0 (some (.sldk q (fld w 15 6) (fld w 10 5) (flag w 8) (fld w 0 8)))
  | 3 => ifField w 9 1 0 (ifField w 4 4 0 ((AtomOp.ofCode (nat w 0 4)).bind fun op => some (.satom q (fld w 15 6) (fld w 10 5) (flag w 8) op)))
  | 4 => ifField w 9 1 0 (ifField w 0 8 0 (some (.scas q (fld w 15 6) (fld w 10 5) (flag w 8))))
  | _ => none

/-- Major 0x15, format XL (spec/03 R72). -/
def decode15 (q : Sched) (w : Nat) : Option Instr :=
  match nat w 20 4 with
  | 0 => ifField w 7 7 0 (some (.vrfl q (fld w 14 6) (fld w 0 7)))
  | 1 => ifField w 13 1 0 (some (.vrdln q (fld w 14 6) (fld w 7 6) (fld w 0 7)))
  | 2 => ifField w 6 1 0 (some (.vwrln q (fld w 14 6) (fld w 7 7) (fld w 0 6)))
  | 3 => ifField w 14 6 0 (some (.vmatch q (fld w 7 7) (fld w 0 7)))
  | 4 => ifField w 18 2 0 (ifField w 7 7 0 (some (.vballot q (fld w 14 4) (fld w 0 7))))
  | 5 => ifField w 11 3 0 ((RedOp.ofCode (nat w 7 3)).bind fun op => some (.vredu q (fld w 14 6) (flag w 10) op (fld w 0 7)))
  | 6 => ifField w 19 1 0 ((RedOp.ofCode (nat w 14 3)).bind fun op => some (.vscan q (flag w 18) (flag w 17) op (fld w 7 7) (fld w 0 7)))
  | 7 => ifField w 13 1 0 (some (.vdraw q (fld w 14 6) (fld w 7 6) (fld w 0 7)))
  | _ => none

/-- Major 0x16, format MK (spec/03 R72). -/
def decode16 (q : Sched) (w : Nat) : Option Instr :=
  match nat w 20 4 with
  | 0 => ifField w 4 4 0 (some (.mand q (fld w 14 6) (fld w 8 6) (fld w 0 4)))
  | 1 => ifField w 4 4 0 (some (.mor q (fld w 14 6) (fld w 8 6) (fld w 0 4)))
  | 2 => ifField w 4 4 0 (some (.mxor q (fld w 14 6) (fld w 8 6) (fld w 0 4)))
  | 3 => ifField w 4 4 0 (some (.mandn q (fld w 14 6) (fld w 8 6) (fld w 0 4)))
  | 4 => ifField w 0 8 0 (some (.mmov q (fld w 14 6) (fld w 8 6)))
  | 5 => ifField w 0 8 0 (some (.mpopc q (fld w 14 6) (fld w 8 6)))
  | 6 => ifField w 0 8 0 (some (.mfirst q (fld w 14 6) (fld w 8 6)))
  | 7 => ifField w 0 8 0 (some (.mset q (fld w 14 6) (fld w 8 6)))
  | 8 => ifField w 0 8 0 (some (.mget q (fld w 14 6) (fld w 8 6)))
  | _ => none

/-- Major 0x17, format SY (spec/03 R72). -/
def decode17 (q : Sched) (w : Nat) : Option Instr :=
  match nat w 20 4 with
  | 0 => ifField w 5 15 0 ((FenceKind.ofCode (nat w 3 2)).bind fun kind => some (.fence q kind (fld w 0 3)))
  | 1 => ifField w 6 14 0 (some (.qfence q (fld w 0 6)))
  | 2 => ifField w 0 20 0 (some (.pfence q))
  | 3 => ifField w 14 6 0 (ifField w 0 8 0 (some (.barinit q (fld w 8 6))))
  | 4 => ifField w 14 6 0 (ifField w 0 8 0 (some (.bararr q (fld w 8 6))))
  | 5 => ifField w 6 2 0 (some (.bartest q (fld w 14 6) (fld w 8 6) (fld w 0 6)))
  | 6 => ifField w 14 6 0 (ifField w 6 2 0 (some (.barwait q (fld w 8 6) (fld w 0 6))))
  | 7 => ifField w 14 6 0 (ifField w 0 8 0 (some (.barinv q (fld w 8 6))))
  | 8 => ifField w 14 6 0 (ifField w 2 6 0 ((WbarScope.ofCode (nat w 0 2)).bind fun scope => some (.wbar q scope (fld w 8 6))))
  | _ => none

/-- Major 0x18, format EN (spec/03 R72). -/
def decode18 (q : Sched) (w : Nat) : Option Instr :=
  match nat w 20 4 with
  | 0 => ifField w 0 14 0 (some (.cpy q (fld w 14 6)))
  | 1 => ifField w 0 8 0 (some (.cpym q (fld w 14 6) (fld w 8 6)))
  | 2 => ifField w 0 14 0 (some (.xfer q (fld w 14 6)))
  | 3 => ifField w 0 14 0 (some (.coll q (fld w 14 6)))
  | 4 => ifField w 0 8 0 (some (.signal q (fld w 14 6) (fld w 8 6)))
  | 5 => ifField w 0 8 0 (some (.tagc q (fld w 14 6) (fld w 8 6)))
  | 6 => ifField w 0 8 0 (some (.tagq q (fld w 14 6) (fld w 8 6)))
  | _ => none

/-- Major 0x19, format MX (spec/03 R72). -/
def decode19 (q : Sched) (w : Nat) : Option Instr :=
  match nat w 20 4 with
  | 0 => ifField w 0 14 0 (some (.oclaim q (fld w 14 6)))
  | 1 => ifField w 0 14 0 (some (.orel q (fld w 14 6)))
  | 2 => ifField w 0 14 0 (some (.oload q (fld w 14 6)))
  | 3 => ifField w 0 14 0 (some (.aclaim q (fld w 14 6)))
  | 4 => ifField w 0 14 0 (some (.arel q (fld w 14 6)))
  | 5 => ifField w 0 14 0 (some (.mma q (fld w 14 6)))
  | 6 => ifField w 4 16 0 (some (.mzero q (fld w 0 4)))
  | 7 => ifField w 0 14 0 (some (.mstore q (fld w 14 6)))
  | 8 => ifField w 4 16 0 (some (.mwait q (fld w 0 4)))
  | _ => none

/-- Major 0x1A, format TK (spec/03 R72). -/
def decode1A (q : Sched) (w : Nat) : Option Instr :=
  match nat w 20 4 with
  | 0 => ifField w 7 13 0 (some (.spawn q (fld w 0 7)))
  | 1 => ifField w 14 6 0 (ifField w 0 8 0 (some (.fbind q (fld w 8 6))))
  | 2 => ifField w 0 8 0 (some (.fset q (fld w 8 6) (fld w 14 6)))
  | 3 => ifField w 0 8 0 (some (.fwait q (fld w 14 6) (fld w 8 6)))
  | 4 => ifField w 0 8 0 (some (.qres q (fld w 14 6) (fld w 8 6)))
  | 5 => ifField w 0 8 0 (some (.qpub q (fld w 8 6) (fld w 14 6)))
  | 6 => ifField w 0 8 0 (some (.qtake q (fld w 14 6) (fld w 8 6)))
  | 7 => ifField w 0 8 0 (some (.qdone q (fld w 8 6) (fld w 14 6)))
  | 8 => ifField w 14 6 0 (ifField w 0 8 0 (some (.qclose q (fld w 8 6))))
  | 9 => ifField w 0 20 0 (some (.publ q))
  | _ => none

/-- Major 0x1B, format CP (spec/03 R72). -/
def decode1B (q : Sched) (w : Nat) : Option Instr :=
  match nat w 20 4 with
  | 0 => ifField w 0 8 0 (some (.center q (fld w 14 6) (fld w 8 6)))
  | 1 => ifField w 0 8 0 (some (.cstep q (fld w 8 6) (fld w 14 6)))
  | 2 => ifField w 0 8 0 (some (.cexit q (fld w 8 6) (fld w 14 6)))
  | 3 => ifField w 0 8 0 (some (.cres q (fld w 14 6) (fld w 8 6)))
  | _ => none

/-- Major 0x1C, format SS (spec/03 R72). -/
def decode1C (q : Sched) (w : Nat) : Option Instr :=
  match nat w 22 2 with
  | 0 => ifField w 8 8 0 (some (.smfr q (fld w 16 6) (fld w 0 8)))
  | 1 => ifField w 8 8 0 (some (.smto q (fld w 16 6) (fld w 0 8)))
  | 2 => ifField w 0 16 0 (some (.scan q (fld w 16 6)))
  | _ => none

/-- The fields of a word as an instruction, before the checks of WellFormed.lean (spec/03 R72 to R84). -/
def decodeFields (w : Nat) : Option Instr :=
  match nat w 24 5 with
  | 0 => decode00 (schedOf w) w
  | 1 => decode01 (schedOf w) w
  | 2 => decode02 (schedOf w) w
  | 3 => decode03 (schedOf w) w
  | 4 => decode04 (schedOf w) w
  | 5 => decode05 (schedOf w) w
  | 6 => decode06 (schedOf w) w
  | 7 => decode07 (schedOf w) w
  | 8 => decode08 (schedOf w) w
  | 9 => decode09 (schedOf w) w
  | 10 => decode0A (schedOf w) w
  | 11 => decode0B (schedOf w) w
  | 12 => decode0C (schedOf w) w
  | 13 => decode0D (schedOf w) w
  | 14 => decode0E (schedOf w) w
  | 15 => decode0F (schedOf w) w
  | 16 => ifField w 29 3 0 (decode10 w)
  | 17 => decode11 (schedOf w) w
  | 18 => decode12 (schedOf w) w
  | 19 => decode13 (schedOf w) w
  | 20 => decode14 (schedOf w) w
  | 21 => decode15 (schedOf w) w
  | 22 => decode16 (schedOf w) w
  | 23 => decode17 (schedOf w) w
  | 24 => decode18 (schedOf w) w
  | 25 => decode19 (schedOf w) w
  | 26 => decode1A (schedOf w) w
  | 27 => decode1B (schedOf w) w
  | 28 => decode1C (schedOf w) w
  | _ => none

/-- A format code of 9 to 15 with no other fault (spec/04 R99): the word traps SLOT_FAULT. -/
def Instr.formatCodeOnly : Instr → Bool
  | .sfcvt _ _ _ dst src =>
    (decide (9 ≤ dst.toNat) || decide (9 ≤ src.toNat)) && decide (dst ≠ src)
      && (sfcvtCodeOk dst || decide (9 ≤ dst.toNat)) && (sfcvtCodeOk src || decide (9 ≤ src.toNat))
  | _ => false

/-- The decoder of one word. -/
def decode (w : Word) : Except DecodeError Instr :=
  match decodeFields w.toNat with
  | none => .error .unallocated
  | some i => if i.wf then .ok i else if i.formatCodeOnly then .error .formatCode else .error .illFormed

/-- Four bytes as a little-endian word (spec/03 R63). -/
def wordOfBytes (b0 b1 b2 b3 : Byte) : Word := b3 ++ b2 ++ b1 ++ b0

/-- The decoder of a stream of bytes. -/
def decodeBytes : List Byte → Except DecodeError (Instr × List Byte)
  | b0 :: b1 :: b2 :: b3 :: rest =>
    match decode (wordOfBytes b0 b1 b2 b3) with
    | .ok i => .ok (i, rest)
    | .error e => .error e
  | _ => .error .truncated

/-- The bytes of a word as it lies in memory (spec/03 R63). -/
def bytesOfWord (w : Word) : List Byte :=
  [w.extractLsb' 0 8, w.extractLsb' 8 8, w.extractLsb' 16 8, w.extractLsb' 24 8]

/-- The instruction that the decoder reads from an instruction whose bits are w, numbered as the opcode table numbers them. -/
def decodeTableWord (nbits w : Nat) : Option Instr :=
  if nbits = 0 then none
  else
    match decodeBytes (bytesOfWord (BitVec.ofNat 32 w)) with
    | .ok (i, _) => some i
    | .error _ => none

/-- The word of an instruction as a number; an event has none (spec/03 R72 to R84). -/
def encodeNat : Instr → Option Nat
  | .vadd q vd va b => some (wordOf q 0 (vd.toNat * 32768 + va.toNat * 256 + b.code))
  | .vsub q vd va b => some (wordOf q 0 (4194304 + vd.toNat * 32768 + va.toNat * 256 + b.code))
  | .vmul q vd va b => some (wordOf q 0 (8388608 + vd.toNat * 32768 + va.toNat * 256 + b.code))
  | .vmulhi q vd va b => some (wordOf q 0 (12582912 + vd.toNat * 32768 + va.toNat * 256 + b.code))
  | .vand q vd va b => some (wordOf q 1 (vd.toNat * 32768 + va.toNat * 256 + b.code))
  | .vor q vd va b => some (wordOf q 1 (4194304 + vd.toNat * 32768 + va.toNat * 256 + b.code))
  | .vxor q vd va b => some (wordOf q 1 (8388608 + vd.toNat * 32768 + va.toNat * 256 + b.code))
  | .vshl q vd va b => some (wordOf q 1 (12582912 + vd.toNat * 32768 + va.toNat * 256 + b.code))
  | .vshr q vd va b => some (wordOf q 2 (vd.toNat * 32768 + va.toNat * 256 + b.code))
  | .vsra q vd va b => some (wordOf q 2 (4194304 + vd.toNat * 32768 + va.toNat * 256 + b.code))
  | .vmin q vd va b => some (wordOf q 2 (8388608 + vd.toNat * 32768 + va.toNat * 256 + b.code))
  | .vmax q vd va b => some (wordOf q 2 (12582912 + vd.toNat * 32768 + va.toNat * 256 + b.code))
  | .vminu q vd va b => some (wordOf q 3 (vd.toNat * 32768 + va.toNat * 256 + b.code))
  | .vmaxu q vd va b => some (wordOf q 3 (4194304 + vd.toNat * 32768 + va.toNat * 256 + b.code))
  | .vmad q vd va b => some (wordOf q 3 (8388608 + vd.toNat * 32768 + va.toNat * 256 + b.code))
  | .vabsd q vd va b => some (wordOf q 3 (12582912 + vd.toNat * 32768 + va.toNat * 256 + b.code))
  | .vfadd q vd va b => some (wordOf q 4 (vd.toNat * 32768 + va.toNat * 256 + b.code))
  | .vfsub q vd va b => some (wordOf q 4 (4194304 + vd.toNat * 32768 + va.toNat * 256 + b.code))
  | .vfmul q vd va b => some (wordOf q 4 (8388608 + vd.toNat * 32768 + va.toNat * 256 + b.code))
  | .vffma q vd va b => some (wordOf q 4 (12582912 + vd.toNat * 32768 + va.toNat * 256 + b.code))
  | .vfmin q vd va b => some (wordOf q 5 (vd.toNat * 32768 + va.toNat * 256 + b.code))
  | .vfmax q vd va b => some (wordOf q 5 (4194304 + vd.toNat * 32768 + va.toNat * 256 + b.code))
  | .vhfma q vd va b => some (wordOf q 5 (8388608 + vd.toNat * 32768 + va.toNat * 256 + b.code))
  | .vhadd q vd va b => some (wordOf q 5 (12582912 + vd.toNat * 32768 + va.toNat * 256 + b.code))
  | .vhmul q vd va b => some (wordOf q 6 (vd.toNat * 32768 + va.toNat * 256 + b.code))
  | .vsel q vd va b => some (wordOf q 6 (4194304 + vd.toNat * 32768 + va.toNat * 256 + b.code))
  | .vpack2 q vd va b => some (wordOf q 6 (8388608 + vd.toNat * 32768 + va.toNat * 256 + b.code))
  | .vcopysign q vd va b => some (wordOf q 6 (12582912 + vd.toNat * 32768 + va.toNat * 256 + b.code))
  | .vshfl q mode vd va b => some (wordOf q 7 (mode.code * 4194304 + vd.toNat * 32768 + va.toNat * 256 + b.code))
  | .vmov q vd b => some (wordOf q 8 (vd.toNat * 256 + b.code))
  | .vnot q vd b => some (wordOf q 8 (32768 + vd.toNat * 256 + b.code))
  | .vneg q vd b => some (wordOf q 8 (65536 + vd.toNat * 256 + b.code))
  | .vabs q vd b => some (wordOf q 8 (98304 + vd.toNat * 256 + b.code))
  | .vpopc q vd b => some (wordOf q 8 (131072 + vd.toNat * 256 + b.code))
  | .vclz q vd b => some (wordOf q 8 (163840 + vd.toNat * 256 + b.code))
  | .vbrev q vd b => some (wordOf q 8 (196608 + vd.toNat * 256 + b.code))
  | .vbfe q vd b => some (wordOf q 8 (229376 + vd.toNat * 256 + b.code))
  | .vbfi q vd b => some (wordOf q 8 (262144 + vd.toNat * 256 + b.code))
  | .vrand q vd b => some (wordOf q 8 (294912 + vd.toNat * 256 + b.code))
  | .vbcast q vd b => some (wordOf q 8 (327680 + vd.toNat * 256 + b.code))
  | .vfrcp q packed vd b => some (wordOf q 8 (524288 + bit packed * 2097152 + vd.toNat * 256 + b.code))
  | .vfrsq q packed vd b => some (wordOf q 8 (557056 + bit packed * 2097152 + vd.toNat * 256 + b.code))
  | .vfsqrt q packed vd b => some (wordOf q 8 (589824 + bit packed * 2097152 + vd.toNat * 256 + b.code))
  | .vfexp2 q packed vd b => some (wordOf q 8 (622592 + bit packed * 2097152 + vd.toNat * 256 + b.code))
  | .vflog2 q packed vd b => some (wordOf q 8 (655360 + bit packed * 2097152 + vd.toNat * 256 + b.code))
  | .vfsin q packed vd b => some (wordOf q 8 (688128 + bit packed * 2097152 + vd.toNat * 256 + b.code))
  | .vfcos q packed vd b => some (wordOf q 8 (720896 + bit packed * 2097152 + vd.toNat * 256 + b.code))
  | .vftanh q packed vd b => some (wordOf q 8 (753664 + bit packed * 2097152 + vd.toNat * 256 + b.code))
  | .vfrnd q packed vd b => some (wordOf q 8 (786432 + bit packed * 2097152 + vd.toNat * 256 + b.code))
  | .vfclass q packed vd b => some (wordOf q 8 (819200 + bit packed * 2097152 + vd.toNat * 256 + b.code))
  | .vcvt q dst src sel vd b => some (wordOf q 8 (8388608 + dst.code * 1048576 + src.code * 131072 + sel.code * 32768 + vd.toNat * 256 + b.code))
  | .vcmp q cond md va b => some (wordOf q 9 (cond.code * 524288 + md.toNat * 32768 + va.toNat * 256 + b.code))
  | .vfcmp q cond md va b => some (wordOf q 10 (cond.code * 524288 + md.toNat * 32768 + va.toNat * 256 + b.code))
  | .sadd q sd sa b => some (wordOf q 11 (sd.toNat * 16384 + sa.toNat * 256 + b.code))
  | .ssub q sd sa b => some (wordOf q 11 (1048576 + sd.toNat * 16384 + sa.toNat * 256 + b.code))
  | .smul q sd sa b => some (wordOf q 11 (2097152 + sd.toNat * 16384 + sa.toNat * 256 + b.code))
  | .smulhi q sd sa b => some (wordOf q 11 (3145728 + sd.toNat * 16384 + sa.toNat * 256 + b.code))
  | .sand q sd sa b => some (wordOf q 11 (4194304 + sd.toNat * 16384 + sa.toNat * 256 + b.code))
  | .sor q sd sa b => some (wordOf q 11 (5242880 + sd.toNat * 16384 + sa.toNat * 256 + b.code))
  | .sxor q sd sa b => some (wordOf q 11 (6291456 + sd.toNat * 16384 + sa.toNat * 256 + b.code))
  | .sshl q sd sa b => some (wordOf q 11 (7340032 + sd.toNat * 16384 + sa.toNat * 256 + b.code))
  | .sshr q sd sa b => some (wordOf q 11 (8388608 + sd.toNat * 16384 + sa.toNat * 256 + b.code))
  | .ssra q sd sa b => some (wordOf q 11 (9437184 + sd.toNat * 16384 + sa.toNat * 256 + b.code))
  | .smin q sd sa b => some (wordOf q 11 (10485760 + sd.toNat * 16384 + sa.toNat * 256 + b.code))
  | .smax q sd sa b => some (wordOf q 11 (11534336 + sd.toNat * 16384 + sa.toNat * 256 + b.code))
  | .sminu q sd sa b => some (wordOf q 11 (12582912 + sd.toNat * 16384 + sa.toNat * 256 + b.code))
  | .smaxu q sd sa b => some (wordOf q 11 (13631488 + sd.toNat * 16384 + sa.toNat * 256 + b.code))
  | .saddc q sd sa b => some (wordOf q 11 (14680064 + sd.toNat * 16384 + sa.toNat * 256 + b.code))
  | .ssubb q sd sa b => some (wordOf q 11 (15728640 + sd.toNat * 16384 + sa.toNat * 256 + b.code))
  | .scmp q cond sa b => some (wordOf q 12 (cond.code * 16384 + sa.toNat * 256 + b.code))
  | .ssel q sd sa b => some (wordOf q 12 (1048576 + sd.toNat * 16384 + sa.toNat * 256 + b.code))
  | .smov q sd b => some (wordOf q 12 (2097152 + sd.toNat * 16384 + b.code))
  | .spopc q sd b => some (wordOf q 12 (3145728 + sd.toNat * 16384 + b.code))
  | .sclz q sd b => some (wordOf q 12 (4194304 + sd.toNat * 16384 + b.code))
  | .sbfe q sd sa b => some (wordOf q 12 (5242880 + sd.toNat * 16384 + sa.toNat * 256 + b.code))
  | .sfadd q sd sa b => some (wordOf q 12 (6291456 + sd.toNat * 16384 + sa.toNat * 256 + b.code))
  | .sfmul q sd sa b => some (wordOf q 12 (7340032 + sd.toNat * 16384 + sa.toNat * 256 + b.code))
  | .sffma q sd sa b => some (wordOf q 12 (8388608 + sd.toNat * 16384 + sa.toNat * 256 + b.code))
  | .sfmin q sd sa b => some (wordOf q 12 (9437184 + sd.toNat * 16384 + sa.toNat * 256 + b.code))
  | .sfmax q sd sa b => some (wordOf q 12 (10485760 + sd.toNat * 16384 + sa.toNat * 256 + b.code))
  | .sfcvt q sd sa dst src => some (wordOf q 12 (11534336 + sd.toNat * 16384 + sa.toNat * 256 + dst.toNat * 16 + src.toNat))
  | .drawm q sd sa => some (wordOf q 12 (12582912 + sd.toNat * 16384 + sa.toNat * 256))
  | .sfexp2 q sd b => some (wordOf q 12 (13631488 + sd.toNat * 16384 + b.code))
  | .smovi q sd imm => some (wordOf q 13 (sd.toNat * 65536 + imm.toNat))
  | .sori q sd imm => some (wordOf q 13 (4194304 + sd.toNat * 65536 + imm.toNat))
  | .saddi q sd imm => some (wordOf q 13 (8388608 + sd.toNat * 65536 + imm.toNat))
  | .scmpi q sd imm => some (wordOf q 13 (12582912 + sd.toNat * 65536 + imm.toNat))
  | .br q hint inv cond off => some (wordOf q 14 (hint.code * 4194304 + bit inv * 2097152 + cond.toNat * 131072 + off.toNat))
  | .jmp q off => some (wordOf q 15 (off.toNat))
  | .call q off => some (wordOf q 15 (524288 + off.toNat))
  | .ret q => some (wordOf q 15 (1048576))
  | .brx q va => some (wordOf q 15 (1572864 + va.toNat * 256))
  | .exit q => some (wordOf q 15 (2097152))
  | .join q m => some (wordOf q 15 (2621440 + m.toNat))
  | .leave q m => some (wordOf q 15 (3145728 + m.toNat))
  | .waitm q m => some (wordOf q 15 (3670016 + m.toNat))
  | .sleep q n t => some (wordOf q 15 (4194304 + n.toNat * 256 + t.code))
  | .yield q => some (wordOf q 15 (4718592))
  | .nop q => some (wordOf q 15 (5242880))
  | .trap q code => some (wordOf q 15 (5767168 + code.toNat))
  | .tret q => some (wordOf q 15 (6291456))
  | .tretAbort q => some (wordOf q 15 (6291456 + 1))
  | .brk q code => some (wordOf q 15 (6815744 + code.toNat))
  | .isync q => some (wordOf q 15 (7340032))
  | .ppt q => some (wordOf q 15 (7864320))
  | .idem q => some (wordOf q 15 (8388608))
  | .idemend q => some (wordOf q 15 (8912896))
  | .hintLitlo lit => some (268435456 + (lit.toNat))
  | .hintLithi lit => some (268435456 + (1048576 + lit.toNat))
  | .hintGuard inv m => some (268435456 + (2097152 + bit inv * 16 + m.toNat))
  | .hintMod sel hf ord w64 sat ab nb aa na => some (268435456 + (3145728 + sel.toNat * 512 + bit hf * 256 + ord.toNat * 64 + bit w64 * 32 + bit sat * 16 + bit ab * 8 + bit nb * 4 + bit aa * 2 + bit na))
  | .hintRnd mode => some (268435456 + (4194304 + mode.toNat))
  | .hintScope scope => some (268435456 + (5242880 + scope.toNat))
  | .hintCache policy => some (268435456 + (6291456 + policy.toNat))
  | .hintGap gap => some (268435456 + (7340032 + gap.toNat))
  | .vld q vd base voff width => some (wordOf q 17 (vd.toNat * 131072 + base.toNat * 4096 + voff.toNat * 32 + width.code * 4))
  | .vpref q base voff => some (wordOf q 17 (28 + base.toNat * 4096 + voff.toNat * 32))
  | .vlds q vd base voff width => some (wordOf q 17 (1 + vd.toNat * 131072 + base.toNat * 4096 + voff.toNat * 32 + width.code * 4))
  | .vldc q vd base voff width => some (wordOf q 17 (2 + vd.toNat * 131072 + base.toNat * 4096 + voff.toNat * 32 + width.code * 4))
  | .vldt q vd base voff width => some (wordOf q 17 (3 + vd.toNat * 131072 + base.toNat * 4096 + voff.toNat * 32 + width.code * 4))
  | .vst q vs base voff width => some (wordOf q 18 (vs.toNat * 131072 + base.toNat * 4096 + voff.toNat * 32 + width.code * 4))
  | .vsts q vs base voff width => some (wordOf q 18 (1 + vs.toNat * 131072 + base.toNat * 4096 + voff.toNat * 32 + width.code * 4))
  | .vpwb q base voff => some (wordOf q 18 (2 + 28 + base.toNat * 4096 + voff.toNat * 32))
  | .vatom q op vd voff base => some (wordOf q 19 (op.code * 1048576 + vd.toNat * 8192 + voff.toNat * 64 + base.toNat * 2))
  | .vatoms q op vd voff base => some (wordOf q 19 (1 + op.code * 1048576 + vd.toNat * 8192 + voff.toNat * 64 + base.toNat * 2))
  | .vcas q vd voff base => some (wordOf q 19 (11534336 + vd.toNat * 8192 + voff.toNat * 64 + base.toNat * 2))
  | .vatomsCas q vd voff base => some (wordOf q 19 (11534336 + 1 + vd.toNat * 8192 + voff.toNat * 64 + base.toNat * 2))
  | .bfadd q vd voff base => some (wordOf q 19 (12582912 + vd.toNat * 8192 + voff.toNat * 64 + base.toNat * 2))
  | .sld q sd base w64 off => some (wordOf q 20 (sd.toNat * 32768 + base.toNat * 1024 + bit w64 * 256 + off.toNat))
  | .sst q sd base w64 off => some (wordOf q 20 (2097152 + sd.toNat * 32768 + base.toNat * 1024 + bit w64 * 256 + off.toNat))
  | .sldk q sd base w64 off => some (wordOf q 20 (4194304 + sd.toNat * 32768 + base.toNat * 1024 + bit w64 * 256 + off.toNat))
  | .satom q sd base w64 op => some (wordOf q 20 (6291456 + sd.toNat * 32768 + base.toNat * 1024 + bit w64 * 256 + op.code))
  | .scas q sd base w64 => some (wordOf q 20 (8388608 + sd.toNat * 32768 + base.toNat * 1024 + bit w64 * 256))
  | .vrfl q sd va => some (wordOf q 21 (sd.toNat * 16384 + va.toNat))
  | .vrdln q sd sl va => some (wordOf q 21 (1048576 + sd.toNat * 16384 + sl.toNat * 128 + va.toNat))
  | .vwrln q sl vd sb => some (wordOf q 21 (2097152 + sl.toNat * 16384 + vd.toNat * 128 + sb.toNat))
  | .vmatch q vd va => some (wordOf q 21 (3145728 + vd.toNat * 128 + va.toNat))
  | .vballot q md va => some (wordOf q 21 (4194304 + md.toNat * 16384 + va.toNat))
  | .vredu q sd fl op va => some (wordOf q 21 (5242880 + sd.toNat * 16384 + bit fl * 1024 + op.code * 128 + va.toNat))
  | .vscan q excl fl op vd va => some (wordOf q 21 (6291456 + bit excl * 262144 + bit fl * 131072 + op.code * 16384 + vd.toNat * 128 + va.toNat))
  | .vdraw q sd sc va => some (wordOf q 21 (7340032 + sd.toNat * 16384 + sc.toNat * 128 + va.toNat))
  | .mand q md ma mb => some (wordOf q 22 (md.toNat * 16384 + ma.toNat * 256 + mb.toNat))
  | .mor q md ma mb => some (wordOf q 22 (1048576 + md.toNat * 16384 + ma.toNat * 256 + mb.toNat))
  | .mxor q md ma mb => some (wordOf q 22 (2097152 + md.toNat * 16384 + ma.toNat * 256 + mb.toNat))
  | .mandn q md ma mb => some (wordOf q 22 (3145728 + md.toNat * 16384 + ma.toNat * 256 + mb.toNat))
  | .mmov q md ma => some (wordOf q 22 (4194304 + md.toNat * 16384 + ma.toNat * 256))
  | .mpopc q sd ma => some (wordOf q 22 (5242880 + sd.toNat * 16384 + ma.toNat * 256))
  | .mfirst q md ma => some (wordOf q 22 (6291456 + md.toNat * 16384 + ma.toNat * 256))
  | .mset q md sa => some (wordOf q 22 (7340032 + md.toNat * 16384 + sa.toNat * 256))
  | .mget q sd ma => some (wordOf q 22 (8388608 + sd.toNat * 16384 + ma.toNat * 256))
  | .fence q kind scope => some (wordOf q 23 (kind.code * 8 + scope.toNat))
  | .qfence q queues => some (wordOf q 23 (1048576 + queues.toNat))
  | .pfence q => some (wordOf q 23 (2097152))
  | .barinit q sa => some (wordOf q 23 (3145728 + sa.toNat * 256))
  | .bararr q sa => some (wordOf q 23 (4194304 + sa.toNat * 256))
  | .bartest q sd sa sb => some (wordOf q 23 (5242880 + sd.toNat * 16384 + sa.toNat * 256 + sb.toNat))
  | .barwait q sa sb => some (wordOf q 23 (6291456 + sa.toNat * 256 + sb.toNat))
  | .barinv q sa => some (wordOf q 23 (7340032 + sa.toNat * 256))
  | .wbar q scope sa => some (wordOf q 23 (8388608 + sa.toNat * 256 + scope.code))
  | .cpy q sa => some (wordOf q 24 (sa.toNat * 16384))
  | .cpym q sa sm => some (wordOf q 24 (1048576 + sa.toNat * 16384 + sm.toNat * 256))
  | .xfer q sa => some (wordOf q 24 (2097152 + sa.toNat * 16384))
  | .coll q sa => some (wordOf q 24 (3145728 + sa.toNat * 16384))
  | .signal q sa sb => some (wordOf q 24 (4194304 + sa.toNat * 16384 + sb.toNat * 256))
  | .tagc q sa sb => some (wordOf q 24 (5242880 + sa.toNat * 16384 + sb.toNat * 256))
  | .tagq q sd sa => some (wordOf q 24 (6291456 + sd.toNat * 16384 + sa.toNat * 256))
  | .oclaim q sa => some (wordOf q 25 (sa.toNat * 16384))
  | .orel q sa => some (wordOf q 25 (1048576 + sa.toNat * 16384))
  | .oload q sa => some (wordOf q 25 (2097152 + sa.toNat * 16384))
  | .aclaim q sa => some (wordOf q 25 (3145728 + sa.toNat * 16384))
  | .arel q sa => some (wordOf q 25 (4194304 + sa.toNat * 16384))
  | .mma q sa => some (wordOf q 25 (5242880 + sa.toNat * 16384))
  | .mzero q tile => some (wordOf q 25 (6291456 + tile.toNat))
  | .mstore q sa => some (wordOf q 25 (7340032 + sa.toNat * 16384))
  | .mwait q tile => some (wordOf q 25 (8388608 + tile.toNat))
  | .spawn q va => some (wordOf q 26 (va.toNat))
  | .fbind q sa => some (wordOf q 26 (1048576 + sa.toNat * 256))
  | .fset q sa sb => some (wordOf q 26 (2097152 + sb.toNat * 16384 + sa.toNat * 256))
  | .fwait q sd sa => some (wordOf q 26 (3145728 + sd.toNat * 16384 + sa.toNat * 256))
  | .qres q sd sa => some (wordOf q 26 (4194304 + sd.toNat * 16384 + sa.toNat * 256))
  | .qpub q sa sb => some (wordOf q 26 (5242880 + sb.toNat * 16384 + sa.toNat * 256))
  | .qtake q sd sa => some (wordOf q 26 (6291456 + sd.toNat * 16384 + sa.toNat * 256))
  | .qdone q sa sb => some (wordOf q 26 (7340032 + sb.toNat * 16384 + sa.toNat * 256))
  | .qclose q sa => some (wordOf q 26 (8388608 + sa.toNat * 256))
  | .publ q => some (wordOf q 26 (9437184))
  | .center q sd sa => some (wordOf q 27 (sd.toNat * 16384 + sa.toNat * 256))
  | .cstep q sa sb => some (wordOf q 27 (1048576 + sb.toNat * 16384 + sa.toNat * 256))
  | .cexit q sa sb => some (wordOf q 27 (2097152 + sb.toNat * 16384 + sa.toNat * 256))
  | .cres q sd sa => some (wordOf q 27 (3145728 + sd.toNat * 16384 + sa.toNat * 256))
  | .smfr q s num => some (wordOf q 28 (s.toNat * 65536 + num.toNat))
  | .smto q s num => some (wordOf q 28 (4194304 + s.toNat * 65536 + num.toNat))
  | .scan q s => some (wordOf q 28 (8388608 + s.toNat * 65536))
  | .broodTimeout _ => none
  | .capsuleLeaseExpiry _ => none
  | .sleepTimeout _ => none
  | .wbarSpill _ _ => none
  | .barrierByteCount _ _ => none
  | .copyCommandStart _ _ => none
  | .copyPortionWrite _ _ _ => none
  | .oloadStart _ _ => none
  | .claimZeroFillDone _ => none
  | .matrixGrant _ _ => none
  | .passComplete _ => none
  | .mzeroComplete _ => none
  | .mstoreComplete _ => none
  | .tierCopy _ _ => none
  | .tierFetch _ _ => none
  | .tierEvict _ _ => none
  | .tileMoveComplete _ _ => none
  | .tagcPerform _ _ => none
  | .tagqPerform _ _ => none
  | .policyVictimChoose _ => none
  | .completionRecordWrite _ _ => none
  | .collSum _ _ _ => none
  | .collMax _ _ _ => none
  | .collMin _ _ _ => none
  | .collDraw _ _ _ => none
  | .collBarrier _ _ _ => none
  | .collBroadcast _ _ _ => none
  | .collAllgather _ _ _ => none
  | .collRoundComplete _ _ => none
  | .collTimeout _ _ => none
  | .remoteStorePerform _ => none
  | .remoteAck _ => none
  | .remoteFailure _ => none
  | .inboundAccess _ _ _ _ => none
  | .flitReplay _ => none
  | .portDown _ => none
  | .mailboxWrite _ _ _ => none
  | .mailboxRead _ _ _ => none
  | .persistGroupEnter _ => none
  | .wbqDrainWrite _ => none
  | .scrub _ _ => none
  | .launchAccept _ _ => none
  | .distribute _ _ => none
  | .place _ _ => none
  | .agingExpiry _ => none
  | .launchComplete _ _ => none
  | .teamSave _ => none
  | .teamDiscard _ => none
  | .preemptDeadlineExpiry _ => none
  | .partRestore _ _ _ _ _ => none
  | .ctxEnable _ => none
  | .ctxDisable _ => none
  | .ctxPreempt _ => none
  | .ctxResume _ => none
  | .ctxReset _ => none
  | .doorbell _ => none
  | .priocmd _ => none
  | .invalPage _ _ => none
  | .invalContext _ => none
  | .invalAll => none
  | .invalidationPerformed => none
  | .parkRequest _ => none
  | .parkCancel _ => none
  | .unpark _ => none
  | .diePowerDown _ => none
  | .unparkComplete _ => none
  | .pceilWrite _ => none
  | .pstateWrite _ => none
  | .pstateTransitionDone => none
  | .powerMeasure _ _ _ => none
  | .featacceptWrite _ => none
  | .attcmd _ => none
  | .quoteComplete => none
  | .tierpoolWrite _ _ => none
  | .tierpolWrite _ _ => none
  | .errstatWrite _ => none
  | .cmapWrite _ _ _ => none
  | .devctlReset _ => none
  | .powerOn => none
  | .registerWrite _ _ _ => none
  | .powerLoss => none
  | .drainComplete => none
  | .holdupMeasure _ => none
  | .scanDrainDone => none
  | .scanRunDone _ => none
  | .scanDrainTimeout => none
  | .snapCaptureStart _ => none
  | .cutClose => none
  | .tileCapture => none
  | .cowCopy _ => none
  | .stagedTileWrite => none
  | .shardsDurable _ => none
  | .recoverFence => none
  | .recoverElect => none
  | .recoverRebuild _ => none
  | .recoverRemap => none
  | .recoverResume => none
  | .recoverStepDone => none
  | .groupTableWrite _ _ _ => none
  | .peerTableWrite _ _ _ => none

/-- The word of a well-formed instruction. -/
def encode (i : Instr) : Option Word := (encodeNat i).map (BitVec.ofNat 32)

end Sys2Proof
end

