-- ==== Sys2Proof/Machine/Num.lean ====
section
/-! DEFINITION. Number formats, rounding and exact arithmetic (spec/02 R41 to R53): every operation computes an exact value
and rounds it once. -/

namespace Sys2Proof.Machine

/-- Sticky float flags in the layout of `sr.fstat` (spec/01 R28). -/
abbrev FFlags := BitVec 5

def fInvalid : FFlags := 1
def fOverflow : FFlags := 2
def fUnderflow : FFlags := 4
def fInexact : FFlags := 8
def fSaturated : FFlags := 16

/-- Rounding modes (spec/01 R29, spec/02 R49). -/
inductive RMode where
  | rne | rtz | rdn | rup | rsr
  deriving DecidableEq, Repr

/-- The mode of a code; codes above 4 are reserved and are never held by `sr.fmode` (spec/01 R29). -/
def RMode.ofCode (c : Nat) : RMode :=
  match c with
  | 1 => .rtz
  | 2 => .rdn
  | 3 => .rup
  | 4 => .rsr
  | _ => .rne

/-- A binary floating-point format (spec/02 R42). -/
structure FFmt where
  expBits : Nat
  fracBits : Nat
  bias : Nat
  hasInf : Bool
  nan : Nat
  deriving DecidableEq, Repr

def FFmt.fp32 : FFmt := { expBits := 8, fracBits := 23, bias := 127, hasInf := true, nan := 0x7FC00000 }
def FFmt.bf16 : FFmt := { expBits := 8, fracBits := 7, bias := 127, hasInf := true, nan := 0x7FC0 }
def FFmt.fp16 : FFmt := { expBits := 5, fracBits := 10, bias := 15, hasInf := true, nan := 0x7E00 }
def FFmt.e4m3 : FFmt := { expBits := 4, fracBits := 3, bias := 7, hasInf := false, nan := 0x7F }
def FFmt.e5m2 : FFmt := { expBits := 5, fracBits := 2, bias := 15, hasInf := true, nan := 0x7E }

/-- The format of a float format code (spec/02 R41). -/
def FFmt.ofCode? (c : Nat) : Option FFmt :=
  match c with
  | 0 => some .fp32
  | 1 => some .bf16
  | 2 => some .fp16
  | 3 => some .e4m3
  | 4 => some .e5m2
  | _ => none

/-- Bits of a value of the format, the sign included. -/
def FFmt.width (f : FFmt) : Nat := 1 + f.expBits + f.fracBits

/-- The sign bit. -/
def FFmt.signBit (f : FFmt) : Nat := 2 ^ (f.expBits + f.fracBits)

/-- The magnitude code of infinity. -/
def FFmt.infCode (f : FFmt) : Nat := (2 ^ f.expBits - 1) * 2 ^ f.fracBits

/-- The magnitude code of the largest finite value. -/
def FFmt.maxCode (f : FFmt) : Nat := if f.hasInf then f.infCode - 1 else f.infCode + 2 ^ f.fracBits - 2

/-- The exponent of the least significant bit of a subnormal. -/
def FFmt.lsbExp (f : FFmt) : Int := 1 - (f.bias : Int) - f.fracBits

/-- An exact value: NaN, an infinity, or ± m · 2^e. -/
inductive Val where
  | nan
  | inf (neg : Bool)
  | fin (neg : Bool) (m : Nat) (e : Int)
  deriving DecidableEq, Repr

/-- The value of a code (spec/02 R42). -/
def FFmt.decode (f : FFmt) (code : Nat) : Val :=
  let neg := decide (code / f.signBit % 2 = 1)
  let mag := code % f.signBit
  let e := mag / 2 ^ f.fracBits
  let frac := mag % 2 ^ f.fracBits
  if f.hasInf ∧ e = 2 ^ f.expBits - 1 then (if frac = 0 then .inf neg else .nan)
  else if !f.hasInf ∧ mag = f.signBit - 1 then .nan
  else if e = 0 then .fin neg frac f.lsbExp
  else .fin neg (frac + 2 ^ f.fracBits) (f.lsbExp + (e - 1 : Nat))

/-- Code of a sign and a magnitude code. -/
def FFmt.code (f : FFmt) (neg : Bool) (mag : Nat) : Nat := if neg then f.signBit + mag else mag

/-- A magnitude cut at bit d: the kept part and the dropped part. -/
def cut (m : Nat) (d : Nat) : Nat × Nat := (m / 2 ^ d, m % 2 ^ d)

/-- Whether a magnitude with a dropped part rem of d bits is rounded away from zero (spec/02 R49, R50); q are the 16
random bits. -/
def roundsUp (mode : RMode) (neg : Bool) (kept rem d q : Nat) : Bool :=
  match mode with
  | .rne => decide (2 ^ d < 2 * rem ∨ (2 * rem = 2 ^ d ∧ rem ≠ 0 ∧ kept % 2 = 1))
  | .rtz => false
  | .rdn => neg && decide (rem ≠ 0)
  | .rup => !neg && decide (rem ≠ 0)
  | .rsr => decide (q < rem * 65536 / 2 ^ d)

/-- What an overflow gives (spec/02 R51). -/
def overflowCode (f : FFmt) (mode : RMode) (neg : Bool) : Nat :=
  let toInf := match mode with
    | .rne | .rsr => true
    | .rtz => false
    | .rdn => neg
    | .rup => !neg
  if toInf then (if f.hasInf then f.code neg f.infCode else f.nan) else f.code neg f.maxCode

/-- Round ± m · 2^e, m not zero (spec/02 R49 to R53). -/
def FFmt.roundFin (f : FFmt) (mode : RMode) (sat : Bool) (q : Nat) (neg : Bool) (m : Nat) (e : Int) : Nat × FFlags :=
  let top : Int := e + Nat.log2 m
  let lsb : Int := max (top - f.fracBits) f.lsbExp
  let d : Nat := (lsb - e).toNat
  let p := if lsb ≤ e then (m * 2 ^ (e - lsb).toNat, 0) else cut m d
  let scale : Nat := (lsb - f.lsbExp).toNat * 2 ^ f.fracBits
  let beyond := decide (f.maxCode < scale + p.1 ∨ (scale + p.1 = f.maxCode ∧ p.2 ≠ 0))
  let mode' := if beyond && mode = .rsr then .rne else mode
  let n := if p.2 ≠ 0 ∧ roundsUp mode' neg p.1 p.2 d q then p.1 + 1 else p.1
  let inexact := decide (p.2 ≠ 0)
  if f.maxCode < scale + n then
    if sat then (f.code neg f.maxCode, fSaturated ||| fInexact)
    else (overflowCode f mode neg, fOverflow ||| fInexact)
  else
    let tiny := decide (top < 1 - (f.bias : Int))
    (f.code neg (scale + n),
     (if inexact then fInexact else 0) ||| (if inexact && tiny then fUnderflow else 0))

/-- Round a value to a format (spec/02 R44, R49 to R53). -/
def FFmt.round (f : FFmt) (mode : RMode) (sat : Bool) (q : Nat) (v : Val) : Nat × FFlags :=
  match v with
  | .nan => if sat then (0, fInvalid) else (f.nan, 0)
  | .inf neg =>
    if sat then (f.code neg f.maxCode, fSaturated)
    else if f.hasInf then (f.code neg f.infCode, 0)
    else (f.nan, fInvalid)
  | .fin neg m e => if m = 0 then (f.code neg 0, 0) else f.roundFin mode sat q neg m e

/-- Round ± m · 2^e to an integer; the flag says whether a non-zero part was dropped. -/
def roundInt (mode : RMode) (q : Nat) (neg : Bool) (m : Nat) (e : Int) : Int × Bool :=
  let mag : Nat × Bool :=
    if 0 ≤ e then (m * 2 ^ e.toNat, false)
    else
      let d := (-e).toNat
      let p := cut m d
      (if p.2 ≠ 0 ∧ roundsUp mode neg p.1 p.2 d q then p.1 + 1 else p.1, decide (p.2 ≠ 0))
  (if neg then -(mag.1 : Int) else mag.1, mag.2)

/-- Convert a value to an integer format of range [lo, hi], saturating (spec/02 R52). Under RSR a value outside the range on either side
is rounded as under RNE and draws no bits: R51 says so of the largest finite magnitude alone. DEDUCED, log entry 111. -/
def toIntSat (lo hi : Int) (mode : RMode) (q : Nat) (v : Val) : Int × FFlags :=
  match v with
  | .nan => (0, fInvalid)
  | .inf neg => (if neg then lo else hi, fSaturated)
  | .fin neg m e =>
    let r0 := roundInt .rtz q neg m e
    let beyond := decide (mode = .rsr) && (decide (hi < r0.1 ∨ r0.1 < lo) || (r0.2 && decide (r0.1 = if neg then lo else hi)))
    let r := roundInt (if beyond then .rne else mode) q neg m e
    if hi < r.1 then (hi, fSaturated ||| fInexact)
    else if r.1 < lo then (lo, fSaturated ||| fInexact)
    else (r.1, if r.2 then fInexact else 0)

/-- The exact value of an integer. -/
def Val.ofInt (i : Int) : Val := .fin (decide (i < 0)) i.natAbs 0

/-- Signed magnitude at exponent 0 relative to base exponent b, b at most e. -/
def signedAt (neg : Bool) (m : Nat) (e b : Int) : Int :=
  let a : Int := (m * 2 ^ (e - b).toNat : Nat)
  if neg then -a else a

/-- Exact sum; the mode decides the sign of an exact zero (spec/02 R43, R44). -/
def Val.add (mode : RMode) (x y : Val) : Val × FFlags :=
  match x, y with
  | .nan, _ => (.nan, 0)
  | _, .nan => (.nan, 0)
  | .inf a, .inf b => if a = b then (.inf a, 0) else (.nan, fInvalid)
  | .inf a, .fin _ _ _ => (.inf a, 0)
  | .fin _ _ _, .inf b => (.inf b, 0)
  | .fin a m e, .fin b n g =>
    if m = 0 then
      if n = 0 then (.fin (if a = b then a else decide (mode = .rdn)) 0 0, 0) else (.fin b n g, 0)
    else if n = 0 then (.fin a m e, 0)
    else
      let lo := min e g
      let t := signedAt a m e lo + signedAt b n g lo
      if t = 0 then (.fin (decide (mode = .rdn)) 0 0, 0) else (.fin (decide (t < 0)) t.natAbs lo, 0)

/-- Exact product (spec/02 R44). -/
def Val.mul (x y : Val) : Val × FFlags :=
  match x, y with
  | .nan, _ => (.nan, 0)
  | _, .nan => (.nan, 0)
  | .inf a, .inf b => (.inf (a != b), 0)
  | .inf a, .fin b n _ => if n = 0 then (.nan, fInvalid) else (.inf (a != b), 0)
  | .fin a m _, .inf b => if m = 0 then (.nan, fInvalid) else (.inf (a != b), 0)
  | .fin a m e, .fin b n g => (.fin (a != b) (m * n) (e + g), 0)

/-- Exact x · y + z. -/
def Val.fma (mode : RMode) (x y z : Val) : Val × FFlags :=
  let p := x.mul y
  let r := p.1.add mode z
  (r.1, p.2 ||| r.2)

/-- Sign change. -/
def Val.neg : Val → Val
  | .nan => .nan
  | .inf a => .inf !a
  | .fin a m e => .fin (!a) m e

/-- Order of two values that are not NaN; zeros are equal. -/
def Val.cmp (x y : Val) : Ordering :=
  match x, y with
  | .inf a, .inf b => if a = b then .eq else if a then .lt else .gt
  | .inf a, _ => if a then .lt else .gt
  | _, .inf b => if b then .gt else .lt
  | .fin a m e, .fin b n g =>
    let lo := min e g
    compare (signedAt a m e lo) (signedAt b n g lo)
  | _, _ => .eq

/-- x is NaN. -/
def Val.isNan : Val → Bool
  | .nan => true
  | _ => false

/-- x is a zero. -/
def Val.isZero : Val → Bool
  | .fin _ 0 _ => true
  | _ => false

/-- The sign of a value. -/
def Val.sign : Val → Bool
  | .nan => false
  | .inf a => a
  | .fin a _ _ => a

/-- x is below y; false where either is NaN. -/
def Val.lt (x y : Val) : Bool := !x.isNan && !y.isNan && decide (x.cmp y = .lt)

/-- m / n to at least k bits of quotient, with a sticky bit: a magnitude and its exponent. -/
def quotient (m n k : Nat) : Nat × Int :=
  let num := m * 2 ^ (k + Nat.log2 n + 1)
  (2 * (num / n) + (if num % n = 0 then 0 else 1), -((k + Nat.log2 n + 1 : Nat) : Int) - 1)

/-- Integer square root by binary digits, from bit k - 1 down. -/
def isqrtFrom (n : Nat) : Nat → Nat → Nat
  | 0, r => r
  | k + 1, r => isqrtFrom n k (if (r + 2 ^ k) * (r + 2 ^ k) ≤ n then r + 2 ^ k else r)

/-- Integer square root. -/
def isqrt (n : Nat) : Nat := isqrtFrom n (Nat.log2 n / 2 + 1) 0

/-- √(m · 2^e) to at least k bits, with a sticky bit. -/
def sqrtVal (m : Nat) (e : Int) (k : Nat) : Nat × Int :=
  let s := 2 * k + (if e % 2 = 0 then 0 else 1)
  let n := m * 2 ^ s
  let r := isqrt n
  (2 * r + (if r * r = n then 0 else 1), (e - s) / 2 - 1)

end Sys2Proof.Machine
end

