-- ==== Sys2Proof/Machine/Elem.lean ====
section
/-! DEFINITION. The elementary functions of spec/05 R133 and spec/04 R98, computed in fixed point with 320 fraction bits and a
sticky bit, and then rounded once; and the counter generator of spec/05 R142 (log entry 5). -/

namespace Sys2Proof.Machine

/-- Fraction bits of the fixed-point evaluation. DEDUCED, log entry 5. -/
def prec : Nat := 320

/-- One in fixed point. -/
def fixOne : Nat := 2 ^ prec

/-- ⌊(π/2) · 2^640⌋. -/
def halfPi640 : Nat := 0x1921fb54442d18469898cc51701b839a252049c1114cf98e804177d4c76273644a29410f31c6809bbdf2a33679a748636605614dbe4be286e9fc26adadaa3848bc90b6aecc4bcfd8de89885d34c6fdad6

/-- ⌊ln 2 · 2^320⌋. -/
def ln2Fix : Nat := 0xb17217f7d1cf79abc9e3b39803f2f6af40f343267298b62d8a0d175b8baafa2be7b876206debac98

/-- Product of two fixed-point values. -/
def fixMul (a b : Nat) : Nat := a * b / fixOne

/-- The sum t + t·x/(i+1) + t·x²/((i+1)(i+2)) + …, n terms: with t = 1 and i = 0 this is e^x. -/
def expTerms (x : Nat) : Nat → Nat → Nat → Nat
  | 0, _, _ => 0
  | n + 1, i, t => t + expTerms x n (i + 1) (fixMul t x / (i + 1))

/-- e^x for a fixed-point x below 1. -/
def expFix (x : Nat) : Nat := expTerms x 80 0 fixOne

/-- The alternating sum t − t·y/((i+1)(i+2)) + …, n terms, for y = x². -/
def altTerms (y : Nat) : Nat → Nat → Nat → Int
  | 0, _, _ => 0
  | n + 1, i, t => (t : Int) - altTerms y n (i + 2) (fixMul t y / ((i + 1) * (i + 2)))

/-- sin x for a fixed-point x in [0, π/2). -/
def sinFix (x : Nat) : Nat := (altTerms (fixMul x x) 50 1 x).toNat

/-- cos x for a fixed-point x in [0, π/2). -/
def cosFix (x : Nat) : Nat := (altTerms (fixMul x x) 50 0 fixOne).toNat

/-- The sum t/i + t·y/(i+2) + …, n terms: the series of the inverse hyperbolic tangent. -/
def atanhTerms (y : Nat) : Nat → Nat → Nat → Nat
  | 0, _, _ => 0
  | n + 1, i, t => t / i + atanhTerms y n (i + 2) (fixMul t y)

/-- ln m for a fixed-point m in [1, 2). -/
def lnFix (m : Nat) : Nat :=
  let z := (m - fixOne) * fixOne / (m + fixOne)
  2 * atanhTerms (fixMul z z) 110 1 z

/-- A fixed-point magnitude known to be inexact, as an exact value whose lowest bit is sticky. DEDUCED, log entry 5. -/
def sticky (neg : Bool) (fix : Nat) (e : Int) : Val := .fin neg (2 * fix + 1) (e - prec - 1)

/-- ± the magnitude just below m · 2^e. -/
def justBelow (neg : Bool) (m : Nat) (e : Int) : Val := .fin neg (m * 2 ^ 200 - 1) (e - 200)

/-- The fraction bits of m · 2^e in fixed point, and its integer part. -/
def splitFix (m : Nat) (e : Int) : Nat × Nat :=
  let x := if 0 ≤ e + prec then m * 2 ^ (e + prec).toNat else m / 2 ^ (-(e + prec)).toNat
  (x / fixOne, x % fixOne)

/-- 2^x (spec/04 R98, spec/05 R133). DEDUCED, log entry 5. -/
def exp2Val (x : Val) : Val × FFlags :=
  match x with
  | .nan => (.nan, 0)
  | .inf neg => (if neg then .fin false 0 0 else .inf false, 0)
  | .fin neg m e =>
    if m = 0 then (.fin false 1 0, 0)
    else if 12 ≤ e + Nat.log2 m then (if neg then .fin false 1 (-5000) else .fin false 1 5000, 0)
    else
      let p := splitFix m e
      if p.2 = 0 ∧ -(prec : Int) ≤ e then (.fin false 1 (if neg then -(p.1 : Int) else p.1), 0)
      else if neg then (sticky false (expFix (fixMul (fixOne - p.2) ln2Fix)) (-(p.1 : Int) - 1), 0)
      else (sticky false (expFix (fixMul p.2 ln2Fix)) p.1, 0)

/-- log₂ x (spec/05 R133). DEDUCED, log entry 5. -/
def log2Val (x : Val) : Val × FFlags :=
  match x with
  | .nan => (.nan, 0)
  | .inf neg => if neg then (.nan, fInvalid) else (.inf false, 0)
  | .fin neg m e =>
    if m = 0 then (.inf true, 0)
    else if neg then (.nan, fInvalid)
    else
      let l := Nat.log2 m
      let top : Int := e + l
      if m = 2 ^ l then (.fin (decide (top < 0)) top.natAbs 0, 0)
      else
        let f := lnFix (m * 2 ^ (prec - l)) * fixOne / ln2Fix
        if 0 ≤ top then (sticky false (top.toNat * fixOne + f) 0, 0)
        else (sticky true ((-top).toNat * fixOne - f - 1) 0, 0)

/-- The quadrant and the remainder of m · 2^e by π/2. -/
def reduce (m : Nat) (e : Int) : Nat × Nat :=
  let x := if 0 ≤ e + 640 then m * 2 ^ (e + 640).toNat else m / 2 ^ (-(e + 640)).toNat
  (x / halfPi640 % 4, x % halfPi640 / 2 ^ (640 - prec))

/-- sin x (spec/05 R133). DEDUCED, log entry 5. -/
def sinVal (x : Val) : Val × FFlags :=
  match x with
  | .nan => (.nan, 0)
  | .inf _ => (.nan, fInvalid)
  | .fin neg m e =>
    if m = 0 then (.fin neg 0 0, 0)
    else if e + Nat.log2 m < -60 then (justBelow neg m e, 0)
    else
      let r := reduce m e
      let f := if r.1 % 2 = 0 then sinFix r.2 else cosFix r.2
      (sticky (neg != decide (2 ≤ r.1)) f 0, 0)

/-- cos x (spec/05 R133). DEDUCED, log entry 5. -/
def cosVal (x : Val) : Val × FFlags :=
  match x with
  | .nan => (.nan, 0)
  | .inf _ => (.nan, fInvalid)
  | .fin _ m e =>
    if m = 0 then (.fin false 1 0, 0)
    else if e + Nat.log2 m < -60 then (justBelow false 1 0, 0)
    else
      let r := reduce m e
      let f := if r.1 % 2 = 0 then cosFix r.2 else sinFix r.2
      (sticky (decide (r.1 = 1 ∨ r.1 = 2)) f 0, 0)

/-- tanh x (spec/05 R133). DEDUCED, log entry 5. -/
def tanhVal (x : Val) : Val × FFlags :=
  match x with
  | .nan => (.nan, 0)
  | .inf neg => (.fin neg 1 0, 0)
  | .fin neg m e =>
    if m = 0 then (.fin neg 0 0, 0)
    else if e + Nat.log2 m < -60 then (justBelow neg m e, 0)
    else if 6 ≤ e + Nat.log2 m then (justBelow neg 1 0, 0)
    else
      let p := splitFix (2 * m) e
      let y := (p.1 * fixOne + p.2) * fixOne / ln2Fix
      let a := expFix (fixMul (y % fixOne) ln2Fix) * 2 ^ (y / fixOne)
      (sticky neg ((a - fixOne) * fixOne / (a + fixOne)) 0, 0)

/-- 1/x (spec/05 R133). -/
def rcpVal (x : Val) : Val × FFlags :=
  match x with
  | .nan => (.nan, 0)
  | .inf neg => (.fin neg 0 0, 0)
  | .fin neg m e =>
    if m = 0 then (.inf neg, 0)
    else
      let r := quotient 1 m 100
      (.fin neg r.1 (r.2 - e), 0)

/-- √x (spec/05 R133). -/
def sqrtOf (x : Val) : Val × FFlags :=
  match x with
  | .nan => (.nan, 0)
  | .inf neg => if neg then (.nan, fInvalid) else (.inf false, 0)
  | .fin neg m e =>
    if m = 0 then (.fin neg 0 0, 0)
    else if neg then (.nan, fInvalid)
    else
      let r := sqrtVal m e 100
      (.fin false r.1 r.2, 0)

/-- 1/√x (spec/05 R133). -/
def rsqVal (x : Val) : Val × FFlags :=
  match x with
  | .nan => (.nan, 0)
  | .inf neg => if neg then (.nan, fInvalid) else (.fin false 0 0, 0)
  | .fin neg m e =>
    if m = 0 then (.inf neg, 0)
    else if neg then (.nan, fInvalid)
    else
      let n := if e % 2 = 0 then m else 2 * m
      let h : Int := (if e % 2 = 0 then e else e - 1) / 2
      let r := isqrt (2 ^ 400 / n)
      (.fin false (2 * r + (if r * r * n = 2 ^ 400 then 0 else 1)) (-200 - h - 1), 0)

/-- The random word of a key, a counter and a lane (spec/05 R142). -/
def vrand (key : DWord) (ctr : Word) (lane : Nat) : Word :=
  let h := lowHalf key ^^^ ctr
  let h := h + BitVec.ofNat 32 (lane + 1) * 0x5A17C3E9#32 + highHalf key
  let h := h ^^^ (h >>> 16)
  let h := h * 0x2F8B4D61#32
  let h := h ^^^ (h >>> 15)
  let h := h * 0x9B5E1C37#32
  h ^^^ (h >>> 16)

/-- The 24 coin bits of a node (spec/02 R59). -/
def coinBits (key : DWord) (ctr : Word) : Nat := (vrand key ctr 0).toNat / 256

end Sys2Proof.Machine
end

