-- ==== Sys2Proof/Config.lean ====
section
/-! DEFINITION. What the spec leaves open. Each constant has no body, so nothing can be proved of its value. Those with a number as
argument are free values: the number is the counter `State.free`, which every use advances (log entry 4). -/

namespace Sys2Proof

/-- The value of WHEAD while an entry is parked on a future; the device chooses it (spec/09 R230). A zero here stands for 1. -/
opaque Config.whead : Nat → DWord

/-- What a peer answers to one byte of a remote load or atomic: the byte, or nothing where it refuses (spec/14 R348, R349). -/
opaque Config.remoteByte : Nat → Option Byte

/-- What `tagq` reads for a tile of a peer's window: the tier directory of this package has no entry for it (spec/08 R217). -/
opaque Config.remoteTag : Nat → Word

/-- What a host reads of the state of a fabric port, which the spec does not lay out (spec/14 R346, spec/15 R374; log entry 109). The
numbers are the offset and what the place stands for. -/
opaque Config.barWord : Nat → Nat → Nat

/-- Which of the rows, blocks or ways in reach a cache replaces (spec/13 R319, R320, R322: the spec names no victim; log entry 24). -/
opaque Config.victim : Nat → Nat

/-- The fabric port that carries the requests of an agent to a comb of a peer, of some that are up (spec/14 R347). -/
opaque Config.portFor : Nat → Nat → Nat

/-- A record of the fabric error log, 16 bytes (spec/14 R349, spec/15 R374: the spec gives it no layout). -/
opaque Config.fabricRecord : Nat → List Byte

/-- Whether firmware verification succeeds at a bring-up (spec/15 R370). -/
opaque Config.firmwareOk : Nat → Bool

/-- The SHA-512 digest of an image loaded at a bring-up; a bring-up loads four, one for each of MEAS0 to MEAS3 (spec/15 R370). -/
opaque Config.imageDigest : Nat → BitVec 512

/-- The energy in millijoules that a bring-up measures in the hold-up bank (spec/13 R338). -/
opaque Config.holdupEnergy : Nat → Nat

/-- The device serial (spec/15 R373). -/
opaque Config.serial : BitVec 64

/-- The RSA-4096 signature of a SHA-512 digest under the device identity key (spec/00 R6, spec/15 R373). -/
opaque Config.rsaSign : BitVec 512 → BitVec 4096

/-- The identity certificate chain in ATTCERT (spec/15 R373). -/
opaque Config.certificates : List Byte

/-- Cycles that a copy engine spends on a portion of a command (spec/15 R364: the spec gives no rate; log entry 19). -/
opaque Config.copyCycles : Nat → Nat

/-- Whether the signed firmware holds a scan pattern set of a number (spec/15 R367, R368). -/
opaque Config.patternSigned : Nat → Bool

end Sys2Proof
end

