-- ==== Sys2Proof/Machine/Sha512.lean ====
section
/-! DEFINITION. SHA-512, the digest of the package's measurements and quotes (spec/00 R6, spec/15 R370, R373). The spec names the function
and does not restate it: PRESUMED, log entry 110. -/

namespace Sys2Proof.Machine

/-- The 80 round constants, in four parts: the first 64 bits after the point of the cube roots of the first 80 primes. -/
def shaK0 : List DWord :=
  [0x428A2F98D728AE22, 0x7137449123EF65CD, 0xB5C0FBCFEC4D3B2F, 0xE9B5DBA58189DBBC, 0x3956C25BF348B538,
   0x59F111F1B605D019, 0x923F82A4AF194F9B, 0xAB1C5ED5DA6D8118, 0xD807AA98A3030242, 0x12835B0145706FBE,
   0x243185BE4EE4B28C, 0x550C7DC3D5FFB4E2, 0x72BE5D74F27B896F, 0x80DEB1FE3B1696B1, 0x9BDC06A725C71235,
   0xC19BF174CF692694, 0xE49B69C19EF14AD2, 0xEFBE4786384F25E3, 0x0FC19DC68B8CD5B5, 0x240CA1CC77AC9C65]
def shaK1 : List DWord :=
  [0x2DE92C6F592B0275, 0x4A7484AA6EA6E483, 0x5CB0A9DCBD41FBD4, 0x76F988DA831153B5, 0x983E5152EE66DFAB,
   0xA831C66D2DB43210, 0xB00327C898FB213F, 0xBF597FC7BEEF0EE4, 0xC6E00BF33DA88FC2, 0xD5A79147930AA725,
   0x06CA6351E003826F, 0x142929670A0E6E70, 0x27B70A8546D22FFC, 0x2E1B21385C26C926, 0x4D2C6DFC5AC42AED,
   0x53380D139D95B3DF, 0x650A73548BAF63DE, 0x766A0ABB3C77B2A8, 0x81C2C92E47EDAEE6, 0x92722C851482353B]
def shaK2 : List DWord :=
  [0xA2BFE8A14CF10364, 0xA81A664BBC423001, 0xC24B8B70D0F89791, 0xC76C51A30654BE30, 0xD192E819D6EF5218,
   0xD69906245565A910, 0xF40E35855771202A, 0x106AA07032BBD1B8, 0x19A4C116B8D2D0C8, 0x1E376C085141AB53,
   0x2748774CDF8EEB99, 0x34B0BCB5E19B48A8, 0x391C0CB3C5C95A63, 0x4ED8AA4AE3418ACB, 0x5B9CCA4F7763E373,
   0x682E6FF3D6B2B8A3, 0x748F82EE5DEFB2FC, 0x78A5636F43172F60, 0x84C87814A1F0AB72, 0x8CC702081A6439EC]
def shaK3 : List DWord :=
  [0x90BEFFFA23631E28, 0xA4506CEBDE82BDE9, 0xBEF9A3F7B2C67915, 0xC67178F2E372532B, 0xCA273ECEEA26619C,
   0xD186B8C721C0C207, 0xEADA7DD6CDE0EB1E, 0xF57D4F7FEE6ED178, 0x06F067AA72176FBA, 0x0A637DC5A2C898A6,
   0x113F9804BEF90DAE, 0x1B710B35131C471B, 0x28DB77F523047D84, 0x32CAAB7B40C72493, 0x3C9EBE0A15C9BEBC,
   0x431D67C49C100D4C, 0x4CC5D4BECB3E42B6, 0x597F299CFC657E2A, 0x5FCB6FAB3AD6FAEC, 0x6C44198C4A475817]

/-- The initial chaining value: the first 64 bits after the point of the square roots of the first eight primes. -/
def shaInit : List DWord :=
  [0x6A09E667F3BCC908, 0xBB67AE8584CAA73B, 0x3C6EF372FE94F82B, 0xA54FF53A5F1D36F1, 0x510E527FADE682D1,
   0x9B05688C2B3E6C1F, 0x1F83D9ABFB41BD6B, 0x5BE0CD19137E2179]

/-- The big-endian word of eight bytes. -/
def shaWord (bs : List Byte) : DWord := BitVec.ofNat 64 (bs.foldl (fun n b => 256 * n + b.toNat) 0)

/-- The big-endian bytes of a word. -/
def shaBytes (w : DWord) : List Byte := (List.range 8).map fun k => BitVec.ofNat 8 (w.toNat / 256 ^ (7 - k))

def shaBig0 (x : DWord) : DWord := x.rotateRight 28 ^^^ x.rotateRight 34 ^^^ x.rotateRight 39
def shaBig1 (x : DWord) : DWord := x.rotateRight 14 ^^^ x.rotateRight 18 ^^^ x.rotateRight 41
def shaSmall0 (x : DWord) : DWord := x.rotateRight 1 ^^^ x.rotateRight 8 ^^^ x >>> 7
def shaSmall1 (x : DWord) : DWord := x.rotateRight 19 ^^^ x.rotateRight 61 ^^^ x >>> 6

/-- The message schedule, the latest word first, from 16 words in reverse. -/
def shaSchedule : Nat → List DWord → List DWord
  | 0, l => l
  | n + 1, l => shaSchedule n ((shaSmall1 (l.getD 1 0) + l.getD 6 0 + shaSmall0 (l.getD 14 0) + l.getD 15 0) :: l)

/-- One round on the eight working variables, for a constant and a schedule word. -/
def shaRound (v : List DWord) (kw : DWord × DWord) : List DWord :=
  match v with
  | [a, b, c, d, e, f, g, h] =>
    let t := h + shaBig1 e + (e &&& f ^^^ ~~~e &&& g) + kw.1 + kw.2
    [t + shaBig0 a + (a &&& b ^^^ a &&& c ^^^ b &&& c), a, b, c, d + t, e, f, g]
  | l => l

/-- One block of 128 bytes taken into the chaining value. -/
def shaBlock (h : List DWord) (block : List Byte) : List DWord :=
  let m := (List.range 16).map fun k => shaWord ((block.drop (8 * k)).take 8)
  let w := (shaSchedule 64 m.reverse).reverse
  h.zipWith (· + ·) (((shaK0 ++ shaK1 ++ shaK2 ++ shaK3).zip w).foldl shaRound h)

/-- The padded message: a one bit, zeros, and the length in bits as 16 big-endian bytes, to whole blocks. -/
def shaPad (msg : List Byte) : List Byte :=
  msg ++ (0x80 :: List.replicate ((239 - msg.length % 128) % 128) 0) ++
    (List.range 16).map fun k => BitVec.ofNat 8 (8 * msg.length / 256 ^ (15 - k))

/-- The SHA-512 digest of a message: 64 bytes, as eight big-endian words. -/
def sha512 (msg : List Byte) : List Byte :=
  let p := shaPad msg
  ((List.range (p.length / 128)).foldl (fun h k => shaBlock h ((p.drop (128 * k)).take 128)) shaInit).flatMap shaBytes

/-- The big-endian bytes of a number of n bytes. -/
def bigBytes (n v : Nat) : List Byte := (List.range n).map fun k => BitVec.ofNat 8 (v / 256 ^ (n - 1 - k))

/-- A measurement register after an image's digest is extended into it (spec/15 R370 step 2). -/
def measured (meas : List Byte) (digest : BitVec 512) : List Byte := sha512 (meas ++ bigBytes 64 digest.toNat)

end Sys2Proof.Machine
end

