-- ==== Sys2Proof/Machine/Table.lean ====
section
/-! DEFINITION. The two containers of the machine's state: words by number with one value for every number that is not listed
(memory, registers, tiles), and records by number. Both are lists in ascending order of the number without repeats, so equal
contents are equal lists. Writing first removes the number and then inserts it, so the read-after-write laws need no premise. -/

namespace Sys2Proof.Machine

/-- Words of w bits by number; an unlisted number holds 0. -/
abbrev Sparse (w : Nat) := List (Nat × BitVec w)

/-- Records by number. -/
abbrev Assoc (α : Type) := List (Nat × α)

/-- Insert an entry before the first entry with a greater number. -/
def insertKey {α : Type} (k : Nat) (a : α) : List (Nat × α) → List (Nat × α)
  | [] => [(k, a)]
  | (j, b) :: t => if k < j then (k, a) :: (j, b) :: t else (j, b) :: insertKey k a t

/-- Remove every entry of a number. -/
def removeKey {α : Type} (k : Nat) : List (Nat × α) → List (Nat × α)
  | [] => []
  | (j, b) :: t => if j = k then removeKey k t else (j, b) :: removeKey k t

/-- The first entry of a number. -/
def findKey {α : Type} (k : Nat) : List (Nat × α) → Option α
  | [] => none
  | (j, b) :: t => if j = k then some b else findKey k t

/-- Read a word. -/
def Sparse.get {w : Nat} (m : Sparse w) (k : Nat) : BitVec w := (findKey k m).getD 0

/-- Write a word; writing 0 removes the entry. -/
def Sparse.set {w : Nat} (m : Sparse w) (k : Nat) (v : BitVec w) : Sparse w :=
  if v = 0 then removeKey k m else insertKey k v (removeKey k m)

/-- Ascending numbers. -/
def ascending {α : Type} : List (Nat × α) → Bool
  | [] => true
  | [_] => true
  | (j, _) :: (k, b) :: t => decide (j < k) && ascending ((k, b) :: t)

/-- The canonical form: ascending numbers and no entry that holds 0. -/
def Sparse.wf {w : Nat} (m : Sparse w) : Bool := ascending m && m.all fun e => decide (e.2 ≠ 0)

/-- Write consecutive words from number k. -/
def Sparse.setList {w : Nat} (m : Sparse w) (k : Nat) : List (BitVec w) → Sparse w
  | [] => m
  | v :: t => Sparse.setList (m.set k v) (k + 1) t

/-- Read n consecutive words from number k. -/
def Sparse.getList {w : Nat} (m : Sparse w) (k : Nat) : Nat → List (BitVec w)
  | 0 => []
  | n + 1 => m.get k :: Sparse.getList m (k + 1) n

/-- Words to be written from number k, as entries: those that hold 0 are not listed. -/
def Sparse.entries {w : Nat} (k : Nat) : List (BitVec w) → Sparse w
  | [] => []
  | v :: t => if v = 0 then Sparse.entries (k + 1) t else (k, v) :: Sparse.entries (k + 1) t

/-- Every number in [lo, hi) holds 0 afterwards. -/
def Sparse.clearRange {w : Nat} (m : Sparse w) (lo hi : Nat) : Sparse w := m.filter fun e => e.1 < lo || hi ≤ e.1

/-- Write consecutive words from number k in one pass: the contents of `Sparse.setList`, for long runs. -/
def Sparse.splice {w : Nat} (m : Sparse w) (k : Nat) (vs : List (BitVec w)) : Sparse w :=
  (m.filter fun e => decide (e.1 < k)) ++ Sparse.entries k vs ++ m.filter fun e => decide (k + vs.length ≤ e.1)

/-- Read a record. -/
def Assoc.get? {α : Type} (m : Assoc α) (k : Nat) : Option α := findKey k m

/-- Read a record, or d where none is listed. -/
def Assoc.getD {α : Type} (m : Assoc α) (k : Nat) (d : α) : α := (findKey k m).getD d

/-- Write a record. -/
def Assoc.put {α : Type} (m : Assoc α) (k : Nat) (a : α) : Assoc α := insertKey k a (removeKey k m)

/-- Remove a record. -/
def Assoc.del {α : Type} (m : Assoc α) (k : Nat) : Assoc α := removeKey k m

/-- Change a record where it is listed. -/
def Assoc.modify {α : Type} (m : Assoc α) (k : Nat) (f : α → α) : Assoc α :=
  match m.get? k with
  | some a => m.put k (f a)
  | none => m

/-- Add a number to an ascending list without repeats. -/
def addNat (k : Nat) : List Nat → List Nat
  | [] => [k]
  | j :: t => if k < j then k :: j :: t else if k = j then j :: t else j :: addNat k t

/-- Ascending numbers added to an ascending list without repeats, in one pass. -/
def mergeNats : List Nat → List Nat → List Nat
  | [], l => l
  | a :: t, l => l.takeWhile (fun x => decide (x < a)) ++ a :: mergeNats t (l.dropWhile fun x => decide (x ≤ a))

/-- Remove a number from a list. -/
def delNat (k : Nat) (l : List Nat) : List Nat := l.filter fun j => decide (j ≠ k)

/-- The entry of a list at an index, replaced by f of it. -/
def updAt {α : Type} (f : α → α) : Nat → List α → List α
  | _, [] => []
  | 0, a :: t => f a :: t
  | n + 1, a :: t => a :: updAt f n t

/-- The list without the entry at an index. -/
def dropAt {α : Type} : Nat → List α → List α
  | _, [] => []
  | 0, _ :: t => t
  | n + 1, a :: t => a :: dropAt n t

/-- The place of the first entry of a list that a predicate names. -/
def indexWhere {α : Type} (p : α → Bool) : List α → Option Nat
  | [] => none
  | a :: t => if p a then some 0 else (indexWhere p t).map (· + 1)

end Sys2Proof.Machine
end

