-- ==== Sys2Proof/Machine/State.lean ====
section
/-! DEFINITION. The state of the package: every piece of state the spec gives it, as plain data (INVENTORY.md, State).
Numbers that locate a unit: die d in 0..3; cluster d*48 + c; core (d*48 + c)*4 + k; wave slot core*16 + n (spec/01 R37). -/

namespace Sys2Proof.Machine

/-- Why a run stops. -/
inductive Fault where
  /-- Raised by `exec` of an issued word in a state with no issuing wave. No step issues a word without one, so it is safe. -/
  | noIssuingWave
  deriving DecidableEq, Repr

/-- Why an instruction has no meaning. -/
inductive Refusal where
  /-- Raised by an arm of Dispatch.lean whose instruction is not modelled yet: safe, nothing is claimed of it. -/
  | notModelled (mnemonic : String)
  deriving DecidableEq, Repr

/-! ### Waves -/

/-- Registers that instructions read as operands (spec/01 R24): v-register r, lane l is number 64 r + l. -/
structure Regs where
  v : Sparse 32
  s : Sparse 32
  m : Sparse 64
  sc : Bool
  deriving DecidableEq, Repr

/-- The MOD hint (spec/03 R66). -/
structure ModHint where
  sel : BitVec 4
  hf : Bool
  ord : BitVec 2
  w64 : Bool
  sat : Bool
  ab : Bool
  nb : Bool
  aa : Bool
  na : Bool
  deriving DecidableEq, Repr

/-- The hints held for the next instruction word (spec/03 R65, R67). -/
structure Hints where
  litlo : Option (BitVec 20)
  lithi : Option (BitVec 12)
  guard : Option (Bool × BitVec 4)
  mod : Option ModHint
  rnd : Option (BitVec 3)
  scope : Option (BitVec 3)
  cache : Option (BitVec 2)
  gap : Option (BitVec 8)
  deriving DecidableEq, Repr

/-- No hint held. -/
def Hints.empty : Hints :=
  { litlo := .none, lithi := .none, guard := .none, mod := .none, rnd := .none, scope := .none, cache := .none, gap := .none }

/-- A parked instruction that is decided or performed again when its condition holds, with the operands it read at issue
(spec/04 R121, spec/06 R156, spec/09 R234). -/
structure Retry where
  instr : Instr
  held : Hints
  first : DWord
  src : Regs
  deriving DecidableEq, Repr

/-- What a parked entry waits for (spec/01 R22). -/
inductive Park where
  /-- `waitm` on a mask (R23). -/
  | waitm (mask : Nat)
  /-- Lines of scratchpads, as (core, line), to be present (R156). -/
  | present (lines : List (Nat × Nat)) (retry : Retry)
  /-- `sleep` on a 32-byte block of physical memory, until a clock value (R108). -/
  | sleep (block : Nat) (deadline : Option Nat)
  /-- `barwait` on the barrier at a byte offset of a core's scratchpad, for a phase (R206). -/
  | barwait (core off phase : Nat)
  /-- A `wbar` arrival (R210). -/
  | wbar
  /-- `fwait`, `center` or `cres` on the object at a physical address (R230, R244). -/
  | object (pa : Nat) (retry : Retry)
  /-- `qres` or `qtake` on the ring at a byte offset of a core's scratchpad, with the places of its slot words, as (core, byte) (R242). -/
  | ring (core off : Nat) (words : List (Nat × Nat)) (retry : Retry)
  deriving DecidableEq, Repr

/-- An entry of the PC table (spec/01 R18): ready where park is none. -/
structure Entry where
  pc : DWord
  lanes : DWord
  park : Option Park
  deriving DecidableEq, Repr

/-- The destination and value of a result that has not landed (spec/04 R119, R120). -/
inductive Landing where
  | vec (reg : Nat) (vals : List (Nat × Word))
  | sca (reg : Nat) (val : Word)
  | msk (reg : Nat) (val : DWord)
  | cond (val : Bool)
  deriving DecidableEq, Repr

/-- A pending fixed-latency write and the cycle from which it is ready (spec/04 R120). -/
structure Pend where
  ready : Nat
  write : Landing
  deriving DecidableEq, Repr

/-- A variable-latency result whose completion is an event of its own (spec/04 R122). -/
inductive VarDst where
  | sc
  | s (reg : Nat)
  deriving DecidableEq, Repr

/-- The trap handler that a wave runs (spec/11 R273): where it stands, the lanes that resume, and the frame. -/
structure Handler where
  pc : DWord
  lanes : DWord
  frameS : List Word
  frameM10 : DWord
  frameM11 : DWord
  frameSc : Bool
  frameFstat : BitVec 5
  deriving DecidableEq, Repr

/-- An open idempotent region (spec/04 R110). DEDUCED, log entry 17. -/
structure Region where
  pc : DWord
  s : List Word
  endOff : Nat
  deriving DecidableEq, Repr

/-- A kernel header (spec/03 R90) and its address. -/
structure Header where
  va : Nat
  encv : Nat
  width : Nat
  vregs : Nat
  sregs : Nat
  spad : Nat
  team : Nat
  paired : Bool
  energy : Nat
  entry : Nat
  handler : Nat
  idemtab : DWord
  collop : Nat
  collfmt : Nat
  collhead : Nat
  collchunk : Nat
  deriving DecidableEq, Repr

/-- A `qfence` of a wave: the queues it names, and the numbers of the operations posted before it (spec/06 R167). -/
structure Qfence where
  queues : BitVec 6
  before : List Nat
  deriving DecidableEq, Repr

/-- A store of an open capsule step (spec/09 R245): its number, where, whether its page carries PERSIST, and its bytes. One that is `own` was
performed already, by the task's handler, and only lies over its loads. -/
structure BufStore where
  num : Nat
  pa : Nat
  persist : Bool
  own : Bool
  data : List Byte
  deriving DecidableEq, Repr

/-- A wave: one task in a wave slot (spec/01 R14, R24). `mwait` holds the instruction that waits for a tile and the number of the next
request when it began to wait (spec/07 R187); `acqDue` is the scope of an acquire that a barrier released while the wave was not
resident, `waits` tells that its last try waited at issue (spec/12 R312), and `ownerFault` the lanes whose blocking instruction ends for an aborted owner, and the owner (spec/08 R208, R210; spec/09 R238). -/
structure Wave where
  task : Nat
  ctx : Nat
  team : Nat
  waveNo : Nat
  hdr : Header
  prio : Nat
  spawned : Bool
  launches : List Nat
  laneArgs : List DWord
  regs : Regs
  pend : List Pend
  varPend : List VarDst
  table : List Entry
  resort : Bool
  count : Nat
  rstack : Assoc (List DWord)
  fstat : BitVec 5
  fmode : BitVec 3
  tvec : DWord
  tsw : Word
  epc : DWord
  tmask : DWord
  tpend : Word
  chk : Bool
  seed : DWord
  startSeed : DWord
  rxwin : Word
  adopt : Nat
  depth : Nat
  ckey : DWord
  restart : Bool
  committed : Bool
  region : Option Region
  stepBuf : List BufStore
  stepWords : Nat
  held : Hints
  first : Option DWord
  handler : Option Handler
  nextIssue : Nat
  eligAt : Nat
  giveWay : Bool
  waits : Bool
  triedAt : Nat
  yieldTo : List Nat
  obs : List Nat
  pfences : Nat
  qfences : List Qfence
  mwait : Option (DWord × Nat)
  acqDue : Nat
  ownerFault : Option (DWord × Nat)
  softErrors : Nat
  deriving DecidableEq, Repr

/-- The word in issue: the wave slot, the bundle, where the word and its group stand, the hints that apply and the registers
read as sources. The model's own field. -/
structure Issue where
  slot : Nat
  lanes : DWord
  pc : DWord
  first : DWord
  held : Hints
  src : Regs
  resumed : Bool
  deriving DecidableEq, Repr

/-! ### Teams, launches and the scheduler -/

/-- A resident team (spec/01 R14 to R16, R26; spec/08 R209). -/
structure Team where
  ctx : Nat
  launch : Option Nat
  number : Nat
  x : Nat
  y : Nat
  z : Nat
  core : Nat
  paired : Bool
  slots : List Nat
  waves : Nat
  spadBase : Nat
  spadLines : Nat
  prio : Nat
  hdr : Header
  qfences : List Qfence
  wbarScope : Option WbarScope
  wbarGroup : Nat
  arrived : List Nat
  liveSets : List (Nat × Word)
  arrivedAt : Nat
  saving : Bool
  discarding : Bool
  deriving DecidableEq, Repr

/-- The states of an accepted launch (spec/12 R298). -/
inductive LaunchPhase where
  | waiting | ready | running | draining
  deriving DecidableEq, Repr

/-- An accepted launch that has not completed (spec/03 R91, spec/12 R294 to R299). -/
structure Launch where
  ctx : Nat
  id : Nat
  queue : Nat
  entry : Nat
  cplBase : Nat
  subCount : Nat
  hdr : Header
  gx : Nat
  gy : Nat
  gz : Nat
  prio : Nat
  args : DWord
  budget : Nat
  collid : Nat
  collop : Nat
  collhead : Nat
  collfmt : Nat
  resLayout : Nat
  chunkMap : Nat
  boundNo : Nat
  phase : LaunchPhase
  deps : List Nat
  nextTeam : Nat
  readyAt : Nat
  aged : Bool
  overBudget : Bool
  aborted : Bool
  cfault : Bool
  ccause : Nat
  aborts : Nat
  cfloat : BitVec 5
  energy : Nat
  code : Nat
  wbarGroup : Option Nat
  deriving DecidableEq, Repr

/-- A forming or dispatched brood wave (spec/09 R222, R223). -/
structure Brood where
  ctx : Nat
  hdr : Header
  depth : Nat
  seed : DWord
  prio : Nat
  task : Nat
  args : List DWord
  launches : List Nat
  openedAt : Nat
  deriving DecidableEq, Repr

/-- A team that a wide barrier spilled: what R211 keeps of each of its waves (spec/08 R210, R211; spec/12 R309). -/
structure Spilled where
  team : Team
  waves : List Wave
  recordBytes : Nat
  arrivedAt : Nat
  deriving DecidableEq, Repr

/-- What waits for distribution or placement (spec/12 R301). -/
inductive ItemKind where
  | team (launch number : Nat)
  | brood (b : Brood)
  | continuation (sp : Spilled)
  | saved (image : Nat)
  | owner (ctxSlot : Nat)
  deriving DecidableEq, Repr

/-- An item and where it waits: undistributed, or in the local queue of a cluster (spec/12 R304). -/
structure Item where
  ctx : Nat
  kind : ItemKind
  prio : Nat
  since : Nat
  aged : Bool
  clus : Option Nat
  hdr : Header
  deriving DecidableEq, Repr

/-- An accumulator tile (spec/01 R26, spec/07 R179, R186): element 128 i + j. -/
structure Tile where
  data : Sparse 32
  holder : Option Nat
  releasing : Option Nat
  fault : Nat
  deriving DecidableEq, Repr

/-- An operand slot with its claim record; elements from realK along K, and rows from realR, are padding that a copy inserted
(spec/07 R173, R177, R178, spec/02 R54). -/
structure OSlot where
  data : Sparse 8
  holder : Option Nat
  releasing : Option Nat
  fmt : Nat
  blen : Nat
  trans : Bool
  kext : Nat
  soff : Nat
  realK : Nat
  realR : Nat
  faulted : Bool
  deriving DecidableEq, Repr

/-- The state of a scratchpad run: bytes, absent lines, poisoned lines and typed objects, by offset in the run (spec/13 R318). -/
structure SpadRun where
  data : Sparse 8
  absent : List Nat
  poison : List Nat
  typed : List Nat
  deriving DecidableEq, Repr

/-- The contents of a saved team (spec/11 R280, R281, R284, R285): KIND 0 saved, 1 discarded, 2 adoption chain. `key` is the number
that the team had, dx and dy the cluster's place in its die, `oldSlots` the slots that the team occupied, and `seats` the index there of
each wave; `saved` are the bytes of its sections in the save area. A chain's image names the slots of its helper's image. DESIGN CHOICE, log
entry 84. -/
structure Image where
  key : Nat
  kind : Nat
  ctx : Nat
  part : Nat
  dx : Nat
  dy : Nat
  coreNo : Nat
  team : Team
  waves : List Wave
  oldSlots : List Nat
  seats : List Nat
  spad : List SpadRun
  tiles : List (Nat × Tile)
  slots : List (Nat × OSlot)
  address : Nat
  size : Nat
  saved : List Byte
  deriving DecidableEq, Repr

/-- What a context slot holds: a helper while its owner runs in its place, room for that owner, or a suspended owner
(spec/09 R237, R238). -/
inductive SlotUse where
  | helper | room | owner
  deriving DecidableEq, Repr

/-- A context slot, numbered as an operation is; the two slots of one adoption name each other, and `blocked` holds the lanes of the helper
whose instruction waits, `saved` the bytes that were written to the slot (spec/09 R236, R237). -/
structure CtxSlot where
  ctx : Nat
  page : Nat
  pages : Nat
  use : SlotUse
  wave : Option Wave
  team : Option Team
  spad : SpadRun
  lines : Nat
  await : Option Park
  blocked : DWord
  slot : Nat
  partner : Nat
  clus : Nat
  saved : List Byte
  deriving DecidableEq, Repr

/-- A context (spec/15 R371, R372): STATE, and what the device read from its descriptor at ENABLE; `slotBad` where a slot of its slot area
was found altered or out of reach, so that the context is reset (spec/09 R237). -/
structure Context where
  state : Nat
  enabledOnce : Bool
  priv : Bool
  preempting : Bool
  deadline : Nat
  root : Nat
  qenable : DWord
  qtable : Nat
  phaseBase : Nat
  phaseSize : Nat
  saveBase : Nat
  saveSize : Nat
  flogBase : Nat
  flogCount : Nat
  rlogBase : Nat
  rlogCount : Nat
  cslotPages : Nat
  desc : Nat
  nextSeq : Nat
  preemptAt : Nat
  request : Nat
  slotBad : Bool
  deriving DecidableEq, Repr

/-- A context that was never enabled. -/
def Context.off : Context :=
  { state := 0, enabledOnce := false, priv := false, preempting := false, deadline := 0, root := 0, qenable := 0, qtable := 0,
    phaseBase := 0, phaseSize := 0, saveBase := 0, saveSize := 0, flogBase := 0, flogCount := 0, rlogBase := 0, rlogCount := 0,
    cslotPages := 0, desc := 0, nextSeq := 1, preemptAt := 0, request := 0,
    slotBad := false }

/-- A launch queue (spec/12 R294, R295, R302). -/
structure LaunchQueue where
  rung : Bool
  override : Option Nat
  last : Option Nat
  deriving DecidableEq, Repr

/-! ### Clusters and cores -/

/-- A store record (spec/07 R188), with the team and the core whose scratchpad addresses it uses. -/
structure StoreRec where
  team : Team
  core : Nat
  tile : Nat
  dfmt : Nat
  spadSpace : Bool
  sat : Bool
  scale : Bool
  trans : Bool
  rm : Nat
  stride : Nat
  dst : Nat
  scaddr : Nat
  bar : Option (Nat × Nat)
  ctr : Word
  deriving DecidableEq, Repr

/-- What a reservation-table request does (spec/07 R181, R186, R189). -/
inductive ReqKind where
  | pass (acc aslot bslot : Nat) (zacc : Bool) (kcnt : Nat)
  | mzero (tile : Nat)
  | mstore (r : StoreRec)
  deriving DecidableEq, Repr

/-- A request of the reservation table, in posting order by its number (spec/07 R183, R184). -/
structure Req where
  num : Nat
  team : Nat
  ctx : Nat
  slot : Nat
  task : Nat
  launches : List Nat
  prio : Nat
  kind : ReqKind
  after : List Nat
  fmode : BitVec 3
  seed : DWord
  eligible : Option Nat
  granted : Bool
  deriving DecidableEq, Repr

/-- What a copy-engine command does, with its scratchpad place resolved at posting: the core, the byte there, and the byte at which the
allocation or the window ends (spec/07 R177, spec/08 R196). DEDUCED, log entry 35. -/
inductive CopyKind where
  | toSpad (core off limit : Nat)
  | toRegs (wave first : Nat)
  | toTensor (core off limit : Nat)
  | multi (off : Nat) (mask : BitVec 4)
  | oload (slot : Nat)
  deriving DecidableEq, Repr

/-- The window of a command in hand: what its layout record gave (spec/08 R192 to R194). -/
structure Window where
  base : Nat
  fmt : Nat
  blen : Nat
  padval : Word
  dims : List Nat
  strides : List Nat
  boxes : List Nat
  origin : List Nat
  sbase : Nat
  sstrides : List Nat
  deriving DecidableEq, Repr

/-- A copy-engine command (spec/08 R196, R198), and how far it has been performed: the portions written, the destinations that have
faulted, and the elements of a portion that a `cpym` has read for all its destinations (spec/08 R201). -/
structure CopyCmd where
  num : Nat
  team : Nat
  ctx : Nat
  task : Nat
  launches : List Nat
  kind : CopyKind
  bar : Option (Nat × Nat)
  layout : Nat
  coords : List Nat
  after : List Nat
  started : Option Window
  done : List Nat
  failed : List Nat
  fetched : Assoc (List (Nat × Byte))
  deriving DecidableEq, Repr

/-- Bytes, or a fault, that an engine counts on a barrier of a core's scratchpad (spec/08 R200, R204). -/
structure BarCount where
  core : Nat
  off : Nat
  bytes : Nat
  toExpected : Bool
  cause : Nat
  launches : List Nat
  deriving DecidableEq, Repr

/-- A claim whose zero fill is running (spec/07 R175, R179). -/
structure ClaimFill where
  slot : Nat
  task : Nat
  deriving DecidableEq, Repr

/-- A leaf translation in a cluster's TLB, or a non-leaf entry in a die's cache (spec/11 R291). -/
structure Cached where
  ctx : Nat
  level : Nat
  page : Nat
  entry : DWord
  deriving DecidableEq, Repr

/-- A cluster (spec/00 R3). -/
structure Cluster where
  tiles : Assoc Tile
  slots : Assoc OSlot
  resv : List Req
  copies : List CopyCmd
  counts : List BarCount
  fills : List ClaimFill
  brood : List Brood
  tlb : List Cached
  lastTeam : Nat
  deriving DecidableEq, Repr

/-- A cluster with nothing in it. -/
def Cluster.idle : Cluster :=
  { tiles := [], slots := [], resv := [], copies := [], counts := [], fills := [], brood := [], tlb := [], lastTeam := 0 }

/-- A core: its scratchpad (bytes, absent lines, poisoned lines, typed objects), its caches (spec/13 R318 to R320). -/
structure Core where
  spad : Sparse 8
  absent : List Nat
  poison : List Nat
  typed : List Nat
  l1 : Assoc (List Byte)
  icache : Assoc (List Byte)
  free : Nat
  deriving DecidableEq, Repr

/-- A core at reset. -/
def Core.idle : Core := { spad := [], absent := [], poison := [], typed := [], l1 := [], icache := [], free := 0 }

/-! ### Dies -/

/-- A group of the persist write-back queue: bytes by SCM physical address, the number of the first store of the group (spec/13 R335), and
the 32-byte rows whose bytes a `vpwb` took with an error mark (spec/13 R328). -/
structure WbqGroup where
  num : Nat
  slot : Nat
  task : Nat
  launches : List Nat
  epoch : Nat
  die : Nat
  bytes : List (Nat × Byte)
  marks : List Nat
  deriving DecidableEq, Repr

/-- What a tier queue holds (spec/08 R212, R216). -/
inductive TierOp where
  | copy (src dst len : Nat)
  | fetch (src len : Nat)
  | evict (src len : Nat)
  | tagc (va tiles reuse cost : Nat)
  deriving DecidableEq, Repr

/-- A command of a tier queue. `bytes` counts what it has done; of a FETCH or EVICT that the engine has accepted, `tiles` are those
still to end in the requested tier, and `cause` is the fault that stops it. A quiet command writes no completion record. -/
structure TierCmd where
  num : Nat
  team : Nat
  ctx : Nat
  launches : List Nat
  op : TierOp
  ring : Nat
  tag : Nat
  after : List Nat
  accepted : Bool
  bytes : Nat
  tiles : List Nat
  cause : Nat
  quiet : Bool
  deriving DecidableEq, Repr

/-- A `tagq` waiting to be performed (spec/08 R217). -/
structure TagQuery where
  num : Nat
  slot : Nat
  task : Nat
  reg : Nat
  pa : Nat
  deriving DecidableEq, Repr

/-- A `coll` command, or the chunk that a team of a bound launch fired (spec/08 R214, R218; spec/14 R340); `joined` once it has begun.
A quiet command writes no completion record. -/
structure CollCmd where
  num : Nat
  team : Nat
  ctx : Nat
  die : Nat
  task : Nat
  launches : List Nat
  desc : Nat
  chunk : Option Nat
  after : List Nat
  joined : Bool
  quiet : Bool
  deriving DecidableEq, Repr

/-- A completion that waits for a slot of its ring (spec/08 R213). -/
structure Completion where
  ctx : Nat
  num : Nat
  ring : Nat
  tag : Nat
  status : Nat
  cause : Nat
  flags : BitVec 5
  bytes : Nat
  deriving DecidableEq, Repr

/-- A tile move that the tier engine holds (spec/13 R331, R332). -/
inductive MoveKind where
  | fetch | offload | discard
  deriving DecidableEq, Repr

/-- A tile move. DESIGN CHOICE, log entry 44. -/
structure TileMove where
  tile : Nat
  kind : MoveKind
  waiters : List Nat
  deriving DecidableEq, Repr

/-- A die (spec/00 R3, spec/13 R329, spec/15 R365). -/
structure Die where
  wbq : List WbqGroup
  wbqCap : Nat
  poolBase : Nat
  poolFrames : Nat
  polEnable : Bool
  polDisabling : Bool
  discMax : Nat
  thresh1 : Nat
  thresh2 : Nat
  thresh3 : Nat
  tierStall : Nat
  cowStall : Nat
  ceCount : Nat
  peerErr : Nat
  tierQ : List TierCmd
  tagqs : List TagQuery
  moves : List TileMove
  waggleQ : List CollCmd
  completions : List Completion
  mmu : List Cached
  park : Nat
  parkReq : Bool
  parkRefused : Bool
  powerDown : Bool
  unparkAfter : Bool
  deriving DecidableEq, Repr

/-- A die at reset (spec/13 R329, spec/15 R365). -/
def Die.idle : Die :=
  { wbq := [], wbqCap := 67108864, poolBase := 0, poolFrames := 0, polEnable := false, polDisabling := false, discMax := 3,
    thresh1 := 205, thresh2 := 230, thresh3 := 248, tierStall := 0, cowStall := 0, ceCount := 0, peerErr := 0, tierQ := [],
    tagqs := [], moves := [], waggleQ := [], completions := [], mmu := [], park := 0, parkReq := false, parkRefused := false,
    powerDown := false, unparkAfter := false }

/-! ### Package -/

/-- A tier directory entry (spec/13 R330). -/
structure DirEntry where
  state : Nat
  frame : Nat
  cost : Nat
  reuse : Nat
  run : Nat
  deriving DecidableEq, Repr

/-- An unlisted tier directory entry: in SCM and untagged (spec/13 R330). -/
def DirEntry.reset : DirEntry := { state := 2, frame := 0, cost := 15, reuse := 0, run := 1 }

/-- The shadow of a RACECHK line (spec/10 R266). -/
structure Shadow where
  wtask : Nat
  wcount : Nat
  winst : Nat
  deriving DecidableEq, Repr

/-- The comb tag (spec/13 R324). -/
structure CombTag where
  o : Bool
  c : Nat
  n : Nat
  deriving DecidableEq, Repr

/-- One window of the access table (spec/14 R360). -/
structure AccWin where
  base : Nat
  limit : Nat
  rd : Bool
  wr : Bool
  deriving DecidableEq, Repr

/-- A remote operation: a remote store, or a `signal` of either reach, with its scope; `persist` holds the epoch of a `signal` on a
PERSIST page. Task 0 stands for the mailbox of the host port in `slot`; `via` is the fabric port that the request leaves on, none while it
is held; `resent` tells that it has changed its port, and `sent` that it had left when its peer's entry was fenced (spec/08 R215, spec/10
R262, spec/14 R347, R349). -/
structure RemoteOp where
  num : Nat
  via : Option Nat
  resent : Bool
  sent : Bool
  slot : Nat
  task : Nat
  core : Nat
  launches : List Nat
  pa : Nat
  data : List Byte
  local_ : Bool
  signal : Option Nat
  persist : Option Nat
  after : List Nat
  performed : Bool
  deriving DecidableEq, Repr

/-- What the members of a collective round must agree on, and its format and bytes for each element (spec/14 R341). -/
structure CollSpec where
  op : Nat
  fmt : Nat
  head : Nat
  count : Nat
  deriving DecidableEq, Repr

/-- A rank of this package in a round: its command, and the places that it named; `cause` where its own contribution faulted. -/
structure Member where
  rank : Nat
  cmd : CollCmd
  src : Nat
  dst : Nat
  ring : Nat
  tag : Nat
  cause : Nat
  deriving DecidableEq, Repr

/-- An open collective round (spec/14 R340, R345): the ranks of this package that have joined and not completed, those that have
completed, and the result, or the code with which the round ends. -/
structure Round where
  collid : Nat
  round : Nat
  spec : CollSpec
  members : List Member
  gone : List Nat
  result : Option (List Byte)
  flags : BitVec 5
  cause : Nat
  openedAt : Nat
  deriving DecidableEq, Repr

/-- The snapshot engine (spec/14 R350 to R356): sr.snap, the cut, the tiles copied to staging with their place there, and the tiles of the
image in hand. -/
structure Snap where
  state : Nat
  fcode : Nat
  step : Nat
  cut : Bool
  uncaptured : List Nat
  copying : List Nat
  waiters : List (Nat × Nat)
  staged : List (Nat × Nat)
  image : List (Nat × Sparse 8)
  deriving DecidableEq, Repr

/-- The recovery register and engine: the step in hand, whether it has acted, and the last step that completed without FAILED, with
its position (spec/14 R356, spec/15 R374). -/
structure Recover where
  step : Nat
  lost : Nat
  newpkg : Nat
  failed : Bool
  done : Bool
  running : Bool
  good : List (Nat × Nat)
  acted : Bool
  deriving DecidableEq, Repr

/-- The phases of an in-field scan (spec/15 R368). -/
inductive ScanPhase where
  | drain | run
  deriving DecidableEq, Repr

/-- A scan that the facility holds; `abort` where an item of its ABORTPRIO or above has become distributable (spec/15 R367, R368). -/
structure Scan where
  ctx : Nat
  descVa : Nat
  phase : ScanPhase
  die : Nat
  clus : Nat
  mask : BitVec 4
  matrix : Bool
  abortPrio : Nat
  pattern : Nat
  drainMax : Nat
  status : Nat
  tstart : Nat
  abort : Bool
  deriving DecidableEq, Repr

/-- A fabric port (spec/14 R346). -/
structure Port where
  up : Bool
  fast : Bool
  replays : Nat
  deriving DecidableEq, Repr

/-- What a host read returned (spec/14 R358). -/
inductive HostReply where
  | data (port : Nat) (bytes : List Byte) (poisoned : Bool)
  | completerAbort (port : Nat)
  deriving DecidableEq, Repr

/-- What an inbound read of a peer returned (spec/14 R348). -/
inductive PeerReply where
  | data (pkg : Nat) (bytes : List Byte)
  | refused (pkg : Nat)
  deriving DecidableEq, Repr

/-- What an invalidation covers (spec/11 R292). -/
inductive InvalKind where
  | page (ctx va : Nat)
  | context (ctx : Nat)
  | all
  deriving DecidableEq, Repr

/-- A posted invalidation; once no cache holds an entry that it covers, the number before which the accesses that it waits for were
begun (spec/11 R292). -/
structure Inval where
  kind : InvalKind
  before : Option Nat
  deriving DecidableEq, Repr

/-- The management registers of the package that no other field holds (spec/15 R374). Energy is in units of 10 nJ, one milliwatt for
10 µs; `permit` is the fastest state that the ceiling permits, and `pwSum` and `pwCount` gather the present 1 ms (spec/15 R362). -/
structure Regfile where
  pkgid : Nat
  featAccept : BitVec 8
  mbwin : Nat
  errstat : BitVec 12
  energy : Nat
  pceil : Nat
  permit : Nat
  pwSum : Nat
  pwCount : Nat
  req : Nat
  cur : Nat
  target : Nat
  trans : Bool
  holdup : Nat
  ctxbase : Nat
  invalDone : Nat
  ready : Bool
  fwfail : Bool
  holdlow : Bool
  drain : Nat
  snapcfg : DWord
  slotbase : Nat
  shards : Nat
  stagebase : Nat
  stagesize : Nat
  expbase : Nat
  expsize : Nat
  attnonce : List Byte
  attcmd : Bool
  attbuf : List Byte
  attcert : List Byte
  meas : List (List Byte)
  fablog : List (List Byte)
  deriving DecidableEq, Repr

/-- Which agent moves next. The model's own type: the spec leaves the order open (log entry 2). -/
inductive Turn where
  /-- An event of the opcode table happens. -/
  | event (e : Instr)
  /-- A core has an issue cycle. -/
  | core (c : Nat)
  /-- The unit that a wave's next word needs accepts no word in this cycle: the spec gives units no rate (R312). -/
  | unitBusy (slot : Nat)
  /-- Cycles pass in which nothing else happens. -/
  | advance (cycles : Nat)
  /-- A core's L1 drops a row (replacement is the implementation's own, R319). -/
  | dropL1 (core row : Nat)
  /-- A core's instruction cache drops a block (R320). -/
  | dropIcache (core block : Nat)
  /-- A cluster's TLB drops what it holds of a page number (R291). -/
  | dropTlb (clus page : Nat)
  /-- A die's non-leaf cache drops what it holds of a page number (R291). -/
  | dropMmu (die page : Nat)
  /-- A slice evicts a committed comb, writing its dirty bytes back (R322, R326). -/
  | evictComb (comb : Nat)
  /-- An uncorrectable error is found in a scratchpad line of a core (R318) or in a memory granule (R328). -/
  | spadError (core line : Nat)
  /-- A single-bit error is found in a core's scratchpad, corrected and counted (R318). -/
  | spadCorrected (core : Nat)
  | memError (pa : Nat)
  /-- SCM fails to take a write of the capture in hand (spec/14 R350, FCODE 3). -/
  | captureError
  /-- An uncorrectable error is found in a wave's own state when its next instruction reads it (R269, R278). -/
  | machineCheck (slot info : Nat)
  deriving DecidableEq, Repr

/-- Why an operation cannot be performed yet and waits, without parking: a tile that moves (spec/13 R331), an uncaptured or
copying tile of a snapshot or a cut that is closing (spec/14 R352, R353), persistent stores that have not entered their queue (spec/10 R265, spec/06
R169), or remote stores that have not been performed (spec/10 R252, R262). The model's own type: it stands in a state only while an
operation is tried. DESIGN CHOICE, log entry 6. -/
inductive Stall where
  | moving (tile : Nat)
  | copying (tile : Nat)
  | closing (tile : Nat)
  | persists
  | remote
  deriving DecidableEq, Repr

/-- The package. `mem` is the coherent image; of it, `l2` lists the combs with a committed copy in their slice, `dirty` the bytes that such
a copy has not written back, and `side` the 64 KiB blocks that are known to be MSIDE (spec/13 R321 to R327). `marks` holds the 32-byte rows
that a read finds with an uncorrectable error, `lowMarks` those of HBM, SCM or a frame beneath a comb of `l2`, and `scmMarks` those of SCM
beneath a tile that stands in a frame (spec/13 R328); `frames` gives what a tile of the pool has left in a frame, by the number of its 64 KiB
block (spec/13 R329, R332). `activity` counts what each cluster has done for each launch in the present 10 µs (spec/15 R364). `heldFrom` gives,
for a task with a version, the number at which it began, and `tried` the timeouts that have been taken at the present cycle. -/
structure State where
  now : Nat
  clock : DWord
  clkFrac : Nat
  powered : Bool
  holdUp : Bool
  waves : Assoc Wave
  teams : Assoc Team
  contexts : Assoc Context
  queues : Assoc LaunchQueue
  launches : Assoc Launch
  items : Assoc Item
  images : Assoc Image
  ctxSlots : Assoc CtxSlot
  spilled : Assoc Spilled
  boundCount : Assoc Nat
  activity : Assoc (Assoc Nat)
  reservation : Option (Nat × Nat)
  cores : Assoc Core
  clusters : Assoc Cluster
  dies : Assoc Die
  mem : List Host.Cell
  scm : List Host.Cell
  l2 : List Nat
  side : List Nat
  dirty : List Nat
  frameDirty : List Nat
  marks : List Nat
  lowMarks : List Nat
  scmMarks : List Nat
  frames : Assoc (Sparse 8)
  versions : Assoc (Assoc Byte)
  heldFrom : Assoc Nat
  persists : List WbqGroup
  shadow : Assoc Shadow
  relCount : Assoc Nat
  combTags : Assoc CombTag
  dir : Assoc DirEntry
  peerTable : Sparse 64
  groupTable : Sparse 8
  groupPosted : Assoc Nat
  access : List AccWin
  rounds : List Round
  remoteOps : List RemoteOp
  cmapOff : List Nat
  scanPassed : List Nat
  scanning : Option Scan
  invals : Assoc Inval
  snap : Snap
  recover : Recover
  ports : Assoc Port
  regs : Regfile
  drainRecord : Option (Nat × Bool)
  hostReplies : List HostReply
  peerReplies : List PeerReply
  hostDropped : Nat
  nextNum : Nat
  turns : List Turn
  tried : List Instr
  wakes : List (Nat × DWord)
  issue : Issue
  stall : List Stall
  focus : Nat
  free : Nat
  deriving DecidableEq, Repr

/-- The management registers after bring-up (spec/14 R350, R351, R359, R390; spec/15 R361, R363, R370, R374). -/
def Regfile.reset : Regfile :=
  { pkgid := 0, featAccept := 0, mbwin := 0, errstat := 0, energy := 0, pceil := 2200, permit := 0, pwSum := 0, pwCount := 0, req := 0, cur := 0, target := 0,
    trans := false, holdup := 4000, ctxbase := 0, invalDone := 0, ready := true, fwfail := false, holdlow := false, drain := 3,
    snapcfg := 0, slotbase := 0, shards := 0, stagebase := 0, stagesize := 0, expbase := 0, expsize := 0, attnonce := List.replicate 32 0,
    attcmd := false, attbuf := [], attcert := [], meas := [], fablog := [] }

/-- Empty registers. -/
def Regs.zero : Regs := { v := [], s := [], m := [], sc := false }

/-- No word in issue. -/
def Issue.idle : Issue :=
  { slot := 0, lanes := 0, pc := 0, first := 0, held := Hints.empty, src := Regs.zero, resumed := false }

/-- The access table at reset: masters 18 and 20 have one window over every address, and every other master has none
(spec/14 R360); window w of master k is entry 8 k + w. -/
def accessReset : List AccWin :=
  (List.range 512).map fun n =>
    if n = 144 ∨ n = 160 then { base := 0, limit := 2 ^ 50, rd := true, wr := true }
    else { base := 0, limit := 0, rd := false, wr := false }

/-- The package right after reset (spec/15 R370): no context is enabled and no task exists. What the spec gives no reset value
for reads zero, empty or idle. DESIGN CHOICE, log entry 1. -/
def State.reset : State :=
  { now := 0, clock := 0, clkFrac := 0, powered := true, holdUp := false, waves := [], teams := [], contexts := [],
    queues := [], launches := [], items := [], images := [], ctxSlots := [], spilled := [], boundCount := [], activity := [], reservation := none, cores := [],
    clusters := [], dies := [], mem := [], scm := [], l2 := [], side := [], dirty := [], frameDirty := [], marks := [], lowMarks := [], scmMarks := [],
    frames := [], versions := [],
    heldFrom := [],
    persists := [], shadow := [], relCount := [], combTags := [], dir := [], peerTable := [], groupTable := [],
    groupPosted := [], access := accessReset, rounds := [], remoteOps := [], cmapOff := [], scanPassed := [], scanning := none,
    invals := [], snap := { state := 0, fcode := 0, step := 0, cut := false, uncaptured := [], copying := [], waiters := [], staged := [], image := [] },
    recover := { step := 0, lost := 0, newpkg := 0, failed := false, done := false, running := false, good := [],
                 acted := false },
    ports := [],
    regs := { Regfile.reset with meas := [0, 1, 2, 3].map (fun k => measured (List.replicate 64 0) (Config.imageDigest k)), attcert := Config.certificates },
    drainRecord := none, hostReplies := [], peerReplies := [], hostDropped := 0,
    nextNum := 1, turns := [], tried := [], wakes := [], issue := Issue.idle, stall := [], focus := 0, free := 1 }

end Sys2Proof.Machine
end

