-- ==== Sys2Proof/Machine/Memory.lean ====
section
/-! DEFINITION. Memory: the physical address map, reads and writes at the ordering point, held versions, the L1 and instruction
caches, the access table, translation, scratchpads, the race detector and the context logs (spec/01 R34 to R40, spec/06, spec/10,
spec/11 R288 to R293, spec/13). -/

namespace Sys2Proof.Machine

/-! ### Bytes -/

/-- The n low bytes of a value, lowest first (spec/00 R8). -/
def leBytes : Nat → Nat → List Byte
  | 0, _ => []
  | n + 1, v => BitVec.ofNat 8 v :: leBytes n (v / 256)

/-- The value of bytes, lowest first. -/
def leNat : List Byte → Nat
  | [] => 0
  | b :: t => b.toNat + 256 * leNat t

/-- Bytes with their addresses. -/
def cellsAt (a : Nat) : List Byte → List Host.Cell
  | [] => []
  | b :: t => (a, b) :: cellsAt (a + 1) t

/-- A list of changes to a state, made one after another. -/
def foldState {α : Type} (f : State → α → State) : State → List α → State
  | s, [] => s
  | s, a :: t => foldState f (f s a) t

/-! ### Units -/

/-- The core of a wave slot. -/
def coreOf (slot : Nat) : Nat := slot / 16

/-- The cluster of a core. -/
def clusOf (core : Nat) : Nat := core / 4

/-- The die of a cluster. -/
def dieOf (clus : Nat) : Nat := clus / 48

/-- A core's state. -/
def State.core (s : State) (c : Nat) : Core := s.cores.getD c Core.idle

/-- A cluster's state. -/
def State.cluster (s : State) (c : Nat) : Cluster := s.clusters.getD c Cluster.idle

/-- A die's state. -/
def State.die (s : State) (d : Nat) : Die := s.dies.getD d Die.idle

/-- A context's state. -/
def State.context (s : State) (c : Nat) : Context := s.contexts.getD c Context.off

def State.setCore (s : State) (c : Nat) (x : Core) : State := { s with cores := s.cores.put c x }
def State.setCluster (s : State) (c : Nat) (x : Cluster) : State := { s with clusters := s.clusters.put c x }
def State.setDie (s : State) (d : Nat) (x : Die) : State := { s with dies := s.dies.put d x }
def State.setContext (s : State) (c : Nat) (x : Context) : State := { s with contexts := s.contexts.put c x }
def State.setWave (s : State) (slot : Nat) (w : Wave) : State := { s with waves := s.waves.put slot w }
def State.modWave (s : State) (slot : Nat) (f : Wave → Wave) : State := { s with waves := s.waves.modify slot f }
def State.modDie (s : State) (d : Nat) (f : Die → Die) : State := s.setDie d (f (s.die d))
def State.modCore (s : State) (c : Nat) (f : Core → Core) : State := s.setCore c (f (s.core c))
def State.modCluster (s : State) (c : Nat) (f : Cluster → Cluster) : State := s.setCluster c (f (s.cluster c))
def State.setTeam (s : State) (t : Nat) (x : Team) : State := { s with teams := s.teams.put t x }

/-! ### The physical address map (spec/01 R36, spec/13 R321) -/

def inHbm (pa : Nat) : Bool := decide (pa < 0x8000000000)
def inScm (pa : Nat) : Bool := decide (0x1000000000000 ≤ pa ∧ pa < 0x1040000000000)
def inOnchip (pa : Nat) : Bool := decide (0x2000000000000 ≤ pa ∧ pa < 0x2004000000000)
def inRemote (pa : Nat) : Bool := decide (0x2004000000000 ≤ pa ∧ pa < 0x4000000000000)

/-- The home die of a physical address (spec/13 R321). -/
def homeDie (pa : Nat) : Nat := if inScm pa then pa / 2 ^ 40 % 4 else pa / 2 ^ 37 % 4

/-- The die that owns a pool frame of this HBM address, if any (spec/13 R329). -/
def State.inPool (s : State) (pa : Nat) : Bool :=
  let d := s.die (homeDie pa)
  let f := pa % 2 ^ 37 / 65536
  decide (d.poolBase ≤ f ∧ f < d.poolBase + d.poolFrames)

/-- A peer-table entry (spec/14 R348). -/
def State.peer (s : State) (e : Nat) : DWord := s.peerTable.get e

def peerValid (p : DWord) : Bool := p.getLsbD 63
def peerState (p : DWord) : Nat := p.toNat / 2 ^ 61 % 4
def peerInbound (p : DWord) : Bool := p.getLsbD 60
def peerPkg (p : DWord) : Nat := p.toNat / 2 ^ 48 % 4096
def peerSize (p : DWord) : Nat := p.toNat % 2 ^ 22 * 65536

/-- The peer entry of a remote address. -/
def remoteEntry (pa : Nat) : Nat := pa / 2 ^ 37 % 4096

/-- The physical address exists (spec/01 R36, spec/13 R329, spec/14 R348). -/
def State.populated (s : State) (pa : Nat) : Bool :=
  (inHbm pa && !s.inPool pa) || inScm pa || inOnchip pa ||
    (inRemote pa && peerValid (s.peer (remoteEntry pa)) && decide (pa % 2 ^ 37 < peerSize (s.peer (remoteEntry pa))))

/-- Home die, home slice and set of an on-package address (spec/13 R321). -/
def combSet (pa : Nat) : Nat :=
  let n := if inScm pa then pa % 2 ^ 40 / 1024 else pa % 2 ^ 37 / 1024
  let slice := Nat.xor (Nat.xor (n % 256) (n / 256 % 256)) (Nat.xor (n / 65536 % 256) (n / 16777216 % 64))
  (homeDie pa * 256 + slice) * 128 + n / 256 % 128

/-! ### The access table (spec/14 R360) -/

/-- A master may read or write all of n bytes at pa (spec/14 R360). -/
def State.accessOk (s : State) (master pa n : Nat) (wr : Bool) : Bool :=
  ((s.access.drop (8 * master)).take 8).any fun w =>
    (if wr then w.wr else w.rd) && decide (w.base ≤ pa ∧ pa + n ≤ w.limit)

/-! ### Page-table entries (spec/11 R288 to R290) -/

/-- What a translation gives: the physical address and the leaf entry, or the INFO of TRANSLATION. -/
inductive Xlate where
  | ok (pa : Nat) (pte : DWord)
  | bad (info : Nat)
  deriving DecidableEq, Repr

def levelShift (n : Nat) : Nat := if n = 1 then 39 else if n = 2 then 30 else if n = 3 then 21 else 16
def levelEntries (n : Nat) : Nat := if n = 1 then 8192 else if n = 4 then 32 else 512

/-- PA[49:8] of an entry, as an address. -/
def pteAddr (e : DWord) : Nat := e.toNat / 2 ^ 16 % 2 ^ 42 * 256

def pteValid (e : DWord) : Bool := e.getLsbD 0
def pteLeaf (e : DWord) : Bool := e.getLsbD 1
def pteRd (e : DWord) : Bool := e.getLsbD 2
def pteWr (e : DWord) : Bool := e.getLsbD 3
def pteX (e : DWord) : Bool := e.getLsbD 4
def pteComb (e : DWord) : Bool := e.getLsbD 5
def pteMside (e : DWord) : Bool := e.getLsbD 6
def ptePersist (e : DWord) : Bool := e.getLsbD 7
def pteStep (e : DWord) : Bool := e.getLsbD 8
def pteRace (e : DWord) : Bool := e.getLsbD 9
def pteScope (e : DWord) : Nat := e.toNat / 2 ^ 10 % 8
def pteRaceLog (e : DWord) : Bool := e.getLsbD 13

/-- An entry of a level is malformed (spec/11 R290, spec/01 R39, spec/10 R266, spec/14 R359). -/
def State.malformed (s : State) (n : Nat) (e : DWord) : Bool :=
  let reserved := decide (e.toNat / 2 ^ 58 ≠ 0 ∨ e.toNat / 2 ^ 14 % 4 ≠ 0)
  let shape := (pteLeaf e && decide (n = 1)) || (!pteLeaf e && decide (n = 4))
  let inner := !pteLeaf e && (decide (e.toNat / 4 % 2 ^ 12 ≠ 0) || decide (pteAddr e % (8 * levelEntries (n + 1)) ≠ 0) || !inHbm (pteAddr e))
  let leaf := pteLeaf e && (decide (pteAddr e % 2 ^ levelShift n ≠ 0) ||
    (pteComb e && pteMside e) || (pteX e && pteMside e) || (ptePersist e && pteMside e) ||
    (pteRace e && (decide (pteScope e = 0 ∨ 4 < pteScope e) || !s.regs.featAccept.getLsbD 7)) ||
    (!pteRace e && (decide (pteScope e ≠ 0) || pteRaceLog e)))
  reserved || shape || inner || leaf

/-- The outcome of a leaf entry at a level (spec/11 R290). DEDUCED, log entry 33. -/
def State.leafXlate (s : State) (n va : Nat) (e : DWord) : Xlate :=
  let pa := pteAddr e + va % 2 ^ levelShift n
  if !s.populated pa then .bad 9
  else if pteMside e && !inHbm pa then .bad 10
  else .ok pa e

/-! ### The coherent image -/

/-- The bytes at a physical address, as the ordering point holds them. -/
def State.bytesAt (s : State) (pa n : Nat) : List Byte := Sparse.getList s.mem pa n

/-- The value at a physical address. -/
def State.valueAt (s : State) (pa n : Nat) : Nat := leNat (s.bytesAt pa n)

/-- The 64 KiB blocks that the valid leaf entries of a kind below a table map (spec/14 R352, spec/13 R333). -/
def State.leafBlocks (s : State) (p : DWord → Bool) : Nat → Nat → Nat → List Nat
  | 0, _, _ => []
  | fuel + 1, n, table =>
    (List.range (levelEntries n)).flatMap fun k =>
      let e : DWord := BitVec.ofNat 64 (s.valueAt (table + 8 * k) 8)
      if !pteValid e || s.malformed n e then []
      else if pteLeaf e then (if p e then (List.range (2 ^ levelShift n / 65536)).map (pteAddr e / 65536 + ·) else [])
      else State.leafBlocks s p fuel (n + 1) (pteAddr e)

/-- The tiles of the package, by number, that the page tables of the enabled contexts map by leaf entries of a kind. DEDUCED, log entry 20.
-/
def State.tilesWhere (s : State) (p : DWord → Bool) : List Nat :=
  let all := s.contexts.flatMap fun c =>
    if 1 ≤ c.2.state ∧ c.2.state ≤ 3 then s.leafBlocks p 4 1 c.2.root else []
  (all.filter fun t => inHbm (t * 65536) || inScm (t * 65536)).foldl (fun l t => addNat t l) []

/-- The STEP tiles of the package (spec/14 R352). DEDUCED, log entry 20. -/
def State.stepTiles (s : State) : List Nat := s.tilesWhere pteStep

/-- Some byte of the range lies in a marked row: marks are kept by rows of 32 bytes, the granule of L2 and HBM (spec/13 R328). -/
def State.marked (s : State) (pa n : Nat) : Bool := s.marks.any fun g => decide (g < pa + n ∧ pa < g + 32)

/-- The tile directory entry of an SCM tile (spec/13 R330); a tile's number is its address / 65,536. -/
def State.dirOf (s : State) (tile : Nat) : DirEntry := s.dir.getD tile DirEntry.reset

/-- The tile of the address is moving (spec/13 R331). -/
def State.moving (s : State) (pa : Nat) : Bool := inScm pa && decide ((s.dirOf (pa / 65536)).state = 1)

/-- The tile's bytes stand in a frame of its die's pool: it is pooled, or still moves out (spec/13 R330, R332). -/
def State.framed (s : State) (tile : Nat) : Bool :=
  let st := (s.dirOf tile).state
  decide (st = 0) ||
    (decide (st = 1) && (s.die (homeDie (tile * 65536))).moves.any fun m => decide (m.tile = tile) && !decide (m.kind = .fetch))

/-- The number of the 64 KiB block of HBM that is a frame of a die's pool (spec/13 R329). -/
def State.frameBlock (s : State) (die frame : Nat) : Nat := die * 2 ^ 21 + (s.die die).poolBase + frame

/-! ### Error marks (spec/13 R328) -/

/-- The rows of 32 bytes of the check granule of a place: one in L2, HBM and a frame, two in SCM. -/
def granuleRows (scm : Bool) (pa : Nat) : List Nat := if scm then [pa / 64 * 64, pa / 64 * 64 + 32] else [pa / 32 * 32]

/-- A row is marked, or not, where its bytes lie beneath L2. -/
def State.markBelow (s : State) (on : Bool) (row : Nat) : State :=
  let f (l : List Nat) : List Nat := if on then addNat row l else delNat row l
  if s.l2.contains (row / 1024) then { s with lowMarks := f s.lowMarks } else { s with marks := f s.marks }

/-- A row of SCM is marked, or not, wherever a copy of it lies. -/
def State.markScm (s : State) (on : Bool) (row : Nat) : State :=
  if s.framed (row / 65536) then { s with scmMarks := if on then addNat row s.scmMarks else delNat row s.scmMarks } else s.markBelow on row

/-- An uncorrectable error in what a read of an address meets: in its slice the row, and beneath it the check granule. -/
def State.markError (s : State) (pa : Nat) : State :=
  if s.l2.contains (pa / 1024) then { s with marks := addNat (pa / 32 * 32) s.marks }
  else foldState (State.markBelow · true) s (granuleRows (inScm pa && !s.framed (pa / 65536)) pa)

/-- The granules of n bytes of a comb that are marked once some of its dirty bytes have been written where it lies: those to which a byte of
a marked row comes, and those that were marked and are not written whole. -/
def landedMarks (mine marks low : List Nat) (comb n : Nat) : List Nat :=
  if marks = [] ∧ low = [] then []
  else
    (List.range (1024 / n)).flatMap fun k =>
      let g := comb * 1024 + n * k
      let rows := (List.range (n / 32)).map fun i => g + 32 * i
      let brings := rows.any fun r => marks.contains r && mine.any fun a => decide (a / 32 * 32 = r)
      let whole := (List.range n).all fun i => mine.contains (g + i)
      if brings || (!whole && rows.any low.contains) then rows else []

/-! ### L2 (spec/13 R322 to R326) -/

/-- The address lies in a block that is known to be MSIDE: L2 holds no committed copy of it (spec/13 R321, R327). -/
def State.beside (s : State) (pa : Nat) : Bool := s.side.contains (pa / 65536)

/-- The dirty bytes of a committed comb are written where it lies, with the marks of their rows: to SCM, or to the frame of a pooled tile,
whose comb is then dirty, or to HBM (spec/13 R322, R326, R328, R330). -/
def State.writeBack (s : State) (comb : Nat) : State :=
  let mine := s.dirty.filter fun a => decide (a / 1024 = comb)
  let tile := comb / 64
  let framed := s.framed tile
  let scm := inScm (comb * 1024) && !framed
  let out : State :=
    { s with
      dirty := if mine = [] then s.dirty else s.dirty.filter fun a => !decide (a / 1024 = comb)
      lowMarks :=
        if s.l2.contains comb then
          (landedMarks mine s.marks s.lowMarks comb (if scm then 64 else 32)).foldl (fun l r => addNat r l)
            (s.lowMarks.filter fun r => !decide (r / 1024 = comb))
        else s.lowMarks }
  if !inScm (comb * 1024) then out
  else if framed then
    { out with
      frameDirty := if mine = [] then s.frameDirty else addNat comb s.frameDirty
      frames := s.frames.modify (s.frameBlock (homeDie (comb * 1024)) (s.dirOf tile).frame) fun m =>
        Sparse.splice m (comb % 64 * 1024) (s.bytesAt (comb * 1024) 1024) }
  else { out with scm := mine.foldl (fun m a => Sparse.set m a (Sparse.get s.mem a)) s.scm }

/-- A committed comb is in its slice no more: a read meets what lies beneath, with its marks (spec/13 R328). -/
def State.leaveSlice (s : State) (comb : Nat) : State :=
  { s with
    l2 := delNat comb s.l2
    combTags := s.combTags.del comb
    marks :=
      if s.l2.contains comb then
        (s.lowMarks.filter fun r => decide (r / 1024 = comb)).foldl (fun l r => addNat r l) (s.marks.filter fun r => !decide (r / 1024 = comb))
      else s.marks
    lowMarks := s.lowMarks.filter fun r => !decide (r / 1024 = comb) }

/-- A committed comb leaves its slice, and its dirty bytes are written back; a comb of a moving tile stays (spec/13 R322, R326). DESIGN
CHOICE, log entries 24, 104. -/
def State.cleanComb (s : State) (comb : Nat) : State :=
  if s.moving (comb * 1024) then s else (s.writeBack comb).leaveSlice comb

/-- The combs that hold bytes of a version. -/
def versionCombs (v : Assoc Byte) : List Nat := (v.map fun e => e.1 / 1024).eraseDups

/-- Held ways of a set: one for each task and comb. -/
def State.heldWays (s : State) (set : Nat) : Nat :=
  (s.versions.map fun v => ((versionCombs v.2).filter fun c => decide (combSet (c * 1024) = set)).length).sum

/-- The committed combs of a set. -/
def State.committedWays (s : State) (set : Nat) : List Nat := s.l2.filter fun c => decide (combSet (c * 1024) = set)

/-- A free way of a set: where its 16 ways are taken, a committed comb is evicted, whose tile is not moving; where every one moves, the
access waits (spec/13 R322, R331). DESIGN CHOICE, log entry 24. -/
def State.makeWay (s : State) (set : Nat) : State :=
  let ways := s.committedWays set
  if s.heldWays set + ways.length < 16 then s
  else
    match ways.filter fun c => !s.moving (c * 1024), ways with
    | [], [] => s
    | [], c :: _ => { s with stall := .moving (c / 64) :: s.stall }
    | v, _ => ({ s with free := s.free + 1 } : State).cleanComb (v.getD (Config.victim s.free % v.length) 0)

/-- A comb has a committed copy in its slice: it is fetched where it has none (spec/13 R322, R324). -/
def State.fetchComb (s : State) (comb : Nat) : State :=
  if s.l2.contains comb || s.beside (comb * 1024) then s
  else
    let t := s.makeWay (combSet (comb * 1024))
    { t with
      l2 := addNat comb t.l2
      lowMarks := (t.marks.filter fun r => decide (r / 1024 = comb)).foldl (fun l r => addNat r l) t.lowMarks }

/-- A page is known to be MSIDE, or not: L2 keeps no committed copy of an MSIDE page, and writes back what it holds. DESIGN CHOICE, log
entry 24. -/
def State.noteSide (s : State) (x : Xlate) : State :=
  match x with
  | .bad _ => s
  | .ok pa pte =>
    let b := pa / 65536
    if pteMside pte then
      if s.side.contains b then s
      else
        let t := foldState State.cleanComb s (s.l2.filter fun c => decide (c / 64 = b))
        { t with side := addNat b t.side }
    else if s.side.contains b then { s with side := delNat b s.side }
    else s

/-- Bytes read at the ordering point; a moving tile makes the access wait (spec/13 R331). -/
def State.readPoint (s : State) (pa n : Nat) : State × List Byte :=
  (if s.moving pa then { s with stall := .moving (pa / 65536) :: s.stall } else s, s.bytesAt pa n)

/-- An entry that waits on a 32-byte block is released by a write to it (spec/04 R108). -/
def wakesOn (blocks : List Nat) : Park → Bool
  | .sleep b _ => blocks.contains b
  | _ => false

/-- An entry that waits on an object that these blocks touch, a future of 32 bytes or a capsule of 256, is decided again (spec/09 R230,
R234, R244). DEDUCED, log entry 7. -/
def retriesOn (blocks : List Nat) : Park → Bool
  | .object pa r => match r.instr with
    | .fwait _ _ _ => blocks.contains (pa / 32)
    | _ => blocks.any fun b => decide (b / 8 = pa / 256)
  | _ => false

/-- Ready again, one word further (spec/01 R22). -/
def Entry.release (e : Entry) : Entry := { e with park := none, pc := e.pc + 4 }

/-- Release the entries of one wave whose condition a predicate names; a wave with no ready entry becomes eligible at the
cycle of the release (spec/12 R312). -/
def Wave.releaseWhere (now : Nat) (p : Park → Bool) (w : Wave) : Wave :=
  if w.table.any fun e => e.park.any p then
    { w with
      table := w.table.map (fun e => if e.park.any p then e.release else e)
      resort := true
      eligAt := if w.table.any fun e => e.park.isNone then w.eligAt else max w.nextIssue now }
  else w

/-- The parked entries of one wave that a predicate names. -/
def Wave.parkedWhere (p : Park → Bool) (w : Wave) : List DWord :=
  (w.table.filter fun e => e.park.any p).map (·.lanes)

/-- Some entry is ready. -/
def Wave.hasReady (w : Wave) : Bool := w.table.any fun e => e.park.isNone

/-- The first word of the group of a parked instruction that is decided again. -/
def Park.retryPc : Park → Option DWord
  | .present _ r => some r.first
  | .object _ r => some r.first
  | .ring _ _ _ r => some r.first
  | _ => none

/-- A wave that is not resident issues the instruction again when it is restored. -/
def Wave.reissueWhere (p : Park → Bool) (w : Wave) : Wave :=
  { w with table := w.table.map fun e => match e.park with
      | some q => if p q then { e with park := none, pc := q.retryPc.getD e.pc } else e
      | none => e }

/-- Entries that wait on an object whose recorded owner is one of some tasks: a future's OWNER, a capsule's HOLDER, the CONSUMER of a
ring for `qres` and its PRODUCER for `qtake` (spec/09 R230, R234, R240, R244). What a peer's object records is not known here. DEDUCED, log
entry 7. -/
def State.ownedBy (s : State) (tasks : List Nat) : Park → Bool
  | .object pa r => inRemote pa || tasks.contains (s.valueAt (match r.instr with
      | .fwait _ _ _ => pa + 4
      | _ => pa) 4)
  | .ring core off _ r => tasks.contains (leNat (Sparse.getList (s.core core).spad (match r.instr with
      | .qres _ _ _ => off + 0x14
      | _ => off + 0x10) 4))
  | _ => false

/-- The entries of resident waves that a predicate names are to be decided again. DEDUCED, log entry 7. -/
def State.wakeWhere (s : State) (p : Park → Bool) : State :=
  let ws := s.waves.flatMap fun e => (e.2.parkedWhere p).map fun l => (e.1, l)
  { s with wakes := s.wakes ++ ws.filter fun x => !s.wakes.contains x }

/-- A context slot holds a suspended owner with a ready entry. -/
def CtxSlot.ready (c : CtxSlot) : Bool := decide (c.use = .owner) && c.wave.any Wave.hasReady

/-- An item of a base priority becomes distributable: a scan of that ABORTPRIO or below ends (spec/15 R368). DEDUCED, log entry 98. -/
def State.distributable (s : State) (prio : Nat) : State :=
  match s.scanning with
  | some x => if x.abortPrio ≤ prio then { s with scanning := some { x with abort := true } } else s
  | none => s

/-- A suspended owner that is ready waits for an adoption or a placement (spec/11 R283). -/
def State.queueOwner (s : State) (e : Nat × CtxSlot) : State :=
  match e.2.wave with
  | none => s
  | some w =>
    { s.distributable w.prio with
      items := s.items.put s.nextNum
        { ctx := e.2.ctx, kind := .owner e.1, prio := w.prio, since := s.clock.toNat, aged := false, clus := none, hdr := w.hdr }
      nextNum := s.nextNum + 1 }

/-- Change the waves in context slots; an owner that becomes ready there can be adopted or placed, and what waits on an object that it owns
is decided again, the waiters in context slots among it, which may make further owners ready (spec/09 R234, R235, spec/11 R283). -/
def State.modSlotsFor (s : State) : Nat → (Wave → Wave) → State
  | 0, _ => s
  | fuel + 1, f =>
    let slots := s.ctxSlots.map fun e => (e.1, { e.2 with wave := e.2.wave.map f })
    let fresh := slots.filter fun e => e.2.ready && !(s.ctxSlots.get? e.1).any CtxSlot.ready
    let s1 : State := { s with ctxSlots := slots }
    if fresh = [] then s1
    else
      let owned := s1.ownedBy (fresh.flatMap fun e => (e.2.wave.map (·.task)).toList)
      State.modSlotsFor ((foldState State.queueOwner s1 fresh).wakeWhere owned) fuel (Wave.reissueWhere owned)

/-- Change the waves in context slots. -/
def State.modSlots (s : State) (f : Wave → Wave) : State := s.modSlotsFor (s.ctxSlots.length + 1) f

/-- Release the entries that a predicate names, in every wave, resident or in a context slot. -/
def State.releaseWhere (s : State) (p : Park → Bool) : State :=
  ({ s with waves := s.waves.map fun e => (e.1, e.2.releaseWhere s.now p) } : State).modSlots fun w => w.releaseWhere s.now p

/-- List the entries that a predicate names for a new decision, in every resident wave; one in a context slot becomes ready at
its instruction. -/
def State.retryWhere (s : State) (p : Park → Bool) : State := (s.wakeWhere p).modSlots (Wave.reissueWhere p)

/-- Some tasks start, park, become ready or end: what waits on an object that one of them owns is decided again (spec/09 R234). DEDUCED, log
entry 7. -/
def State.retryOwned (s : State) (tasks : List Nat) : State := s.retryWhere (s.ownedBy tasks)

/-- The task in a slot. -/
def State.taskAt (s : State) (slot : Nat) : List Nat := ((s.waves.get? slot).map (·.task)).toList

/-- The tasks that are resident in a state and not in an earlier one. DEDUCED, log entry 7. -/
def State.arrived (t s : State) : List Nat := (t.waves.map (·.2.task)).filter fun k => !s.waves.any fun e => decide (e.2.task = k)

/-- A 64 KiB tile's contents. -/
def State.tileImage (s : State) (tile : Nat) : Sparse 8 :=
  (s.mem.filter fun c => decide (c.1 / 65536 = tile)).map fun c => (c.1 % 65536, c.2)

/-- Bytes that a snapshot still has to copy before they may change (spec/14 R353). -/
def State.copyFirst (s : State) (tile : Nat) : Bool :=
  decide (s.snap.state = 1) && (s.snap.uncaptured.contains tile || s.snap.copying.contains tile)

/-- A capture fails with a code; copy-on-write ends (spec/14 R350, R355). -/
def State.failCapture (s : State) (code : Nat) : State :=
  { s with snap := { s.snap with state := 3, fcode := code, cut := false, uncaptured := [], copying := [], waiters := [], staged := [], image := [] } }

/-- SCM fails to take a write of the capture in hand (spec/14 R350). DEDUCED, log entry 102. -/
def State.captureError (s : State) : State := if s.snap.state = 1 ∨ s.snap.state = 2 then s.failCapture 3 else s

/-- A capture's cut is closing: writes to STEP tiles wait (spec/14 R352). -/
def State.closing (s : State) (tiles : List Nat) : List Nat :=
  if s.snap.state = 1 ∧ s.snap.cut = false then tiles.filter s.stepTiles.contains else []

/-- Writes performed at the ordering point to some blocks of 32 bytes, at addresses in ascending order: the coherent image, the committed combs and their dirty bytes, the
tile directory (a write to a discarded tile sets STATE 2, spec/13 R332), the error marks of the rows written whole (spec/13 R328), and
the entries that wait on the blocks. A write to a moving tile, to a tile that a snapshot has not captured, or to a STEP tile whose cut is
closing, waits instead. -/
def State.performAt (s : State) (blocks whole addrs : List Nat) (write : Sparse 8 → Sparse 8) : State :=
  let tiles := (blocks.map (· / 2048)).eraseDups
  let held := (tiles.filter fun t => s.moving (t * 65536)).map Stall.moving ++ (tiles.filter s.copyFirst).map Stall.copying ++
    (s.closing tiles).map Stall.closing
  if held ≠ [] then { s with stall := held ++ s.stall }
  else
    let s0 := foldState State.fetchComb s (blocks.map (· / 32)).eraseDups
    let s1 : State :=
      { s0 with
        mem := write s0.mem
        dirty := mergeNats (addrs.filter fun a => !s0.beside a) s0.dirty
        marks := if s0.marks = [] then [] else s0.marks.filter fun g => !whole.contains (g / 32)
        dir := tiles.foldl (fun d t => if (d.getD t DirEntry.reset).state = 3 then d.put t { d.getD t DirEntry.reset with state := 2 } else d) s0.dir }
    (s1.releaseWhere (wakesOn blocks)).retryWhere (retriesOn blocks)

/-- Writes performed at the ordering point, in their order. -/
def State.store (s : State) (cs : List Host.Cell) : State :=
  let blocks := (cs.map fun c => c.1 / 32).eraseDups
  s.performAt blocks (if s.marks = [] then [] else blocks.filter fun b => (List.range 32).all fun i => cs.any fun c => decide (c.1 = 32 * b + i))
    ((cs.map (·.1)).foldr addNat []) fun m => cs.foldl (fun m c => Sparse.set m c.1 c.2) m

/-- A long run of bytes written at one physical address: the contents of `State.storeAt`, one update for all. -/
def State.storeRun (s : State) (pa : Nat) (bs : List Byte) : State :=
  let n := bs.length
  s.performAt ((List.range ((pa + n + 31) / 32 - pa / 32)).map (pa / 32 + ·)) ((List.range ((pa + n) / 32 - (pa + 31) / 32)).map ((pa + 31) / 32 + ·))
    ((List.range n).map (pa + ·)) fun m => Sparse.splice m pa bs

/-- Bytes stored at one physical address. -/
def State.storeAt (s : State) (pa : Nat) (bs : List Byte) : State := s.store (cellsAt pa bs)

/-! ### L1 and the instruction cache (spec/13 R319, R320) -/

/-- Remove the rows of a byte range from a core's L1. -/
def State.dropRows (s : State) (core pa n : Nat) : State :=
  if (s.core core).l1.any fun e => decide (e.1 < (pa + n + 31) / 32 ∧ pa / 32 ≤ e.1) then
    s.modCore core fun c => { c with l1 := c.l1.filter fun e => !decide (e.1 < (pa + n + 31) / 32 ∧ pa / 32 ≤ e.1) }
  else s

/-- Remove every row from a core's L1. -/
def State.clearL1 (s : State) (core : Nat) : State :=
  if (s.core core).l1 = [] then s else s.modCore core fun c => { c with l1 := [] }

/-- The bytes that a task holds in its version (spec/09 R224). -/
def State.version (s : State) (task : Nat) : Assoc Byte := s.versions.getD task []

/-- Held bytes laid over others. -/
def overlay (v : Assoc Byte) (pa : Nat) : List Byte → List Byte
  | [] => []
  | b :: t => (v.getD pa b) :: overlay v (pa + 1) t

/-- The bytes of a task's persistent groups that have not entered their queue (spec/13 R335), the latest first: its own reads see
them. -/
def State.waiting (s : State) (task : Nat) : Assoc Byte :=
  (s.persists.filter fun g => decide (g.task = task)).reverse.flatMap fun g => g.bytes

/-- The bytes as a task sees them at the ordering point: its version over the committed bytes (spec/09 R224). -/
def State.readTask (s : State) (task pa n : Nat) : State × List Byte :=
  let r := s.readPoint pa n
  (r.1, overlay (s.version task) pa (overlay (s.waiting task) pa r.2))

/-- A comb tag just fetched (spec/13 R324). -/
def CombTag.fresh : CombTag := { o := false, c := 0, n := 0 }

/-- The code of a column width (spec/13 R324). -/
def columnCode (w : Nat) : Nat := if w = 4 then 3 else w

/-- The tag after a read: a row read, or a column read of a width (spec/13 R324). DESIGN CHOICE, log entry 24. -/
def CombTag.read (t : CombTag) (col : Option Nat) : CombTag :=
  let same := match col with
    | none => !t.o
    | some w => t.o && decide (t.c = columnCode w)
  if same then { t with n := 0 }
  else if t.n = 3 then
    match col with
    | some w => { o := true, c := columnCode w, n := 0 }
    | none => CombTag.fresh
  else { t with n := t.n + 1 }

/-- A read of a comb's committed copy, which is fetched where its slice has none; an MSIDE comb has none (spec/13 R322, R324, R327). DEDUCED,
log entry 23; DESIGN CHOICE, log entry 24. -/
def State.combRead (s : State) (pa : Nat) (col : Option Nat) : State :=
  let k := pa / 1024
  if s.beside pa then s
  else
    let u := s.fetchComb k
    let t := (u.combTags.getD k CombTag.fresh).read col
    if t = u.combTags.getD k CombTag.fresh then u
    else { u with combTags := if t = CombTag.fresh then u.combTags.del k else u.combTags.put k t }

/-- The rows of a range are read, each in its slice (spec/13 R324). -/
def State.rangeRead (s : State) (pa n : Nat) : State :=
  foldState (fun s k => s.combRead (32 * k) none) s ((List.range ((pa + n + 31) / 32 - pa / 32)).map (pa / 32 + ·))

/-- A range of bytes read at the ordering point; every tile of it that moves makes the access wait (spec/13 R331). -/
def State.readRange (s : State) (pa n : Nat) : State × List Byte :=
  let tiles := (List.range ((pa + n + 65535) / 65536 - pa / 65536)).map (pa / 65536 + ·)
  let held := (tiles.filter fun t => s.moving (t * 65536)).map Stall.moving
  (({ s with stall := held ++ s.stall } : State).rangeRead pa n, s.bytesAt pa n)

/-- A row comes into a core's L1, of 4,096 rows; where they are taken, one is replaced (spec/13 R317, R319). DESIGN CHOICE, log entry 24. -/
def State.fillL1 (s : State) (core row : Nat) (bs : List Byte) : State :=
  let l := (s.core core).l1
  if l.length < 4096 then s.modCore core fun c => { c with l1 := c.l1.put row bs }
  else
    ({ s with free := s.free + 1 } : State).modCore core fun c =>
      { c with l1 := (c.l1.del ((List.map (fun e => e.1) l).getD (Config.victim s.free % l.length) 0)).put row bs }

/-- A block comes into a core's instruction cache, of 1,024 blocks, in the same way (spec/13 R317, R320). DESIGN CHOICE, log entry 24. -/
def State.fillIcache (s : State) (core block : Nat) (bs : List Byte) : State :=
  let l := (s.core core).icache
  if l.length < 1024 then s.modCore core fun c => { c with icache := c.icache.put block bs }
  else
    ({ s with free := s.free + 1 } : State).modCore core fun c =>
      { c with icache := (c.icache.del ((List.map (fun e => e.1) l).getD (Config.victim s.free % l.length) 0)).put block bs }

/-- An operation that a peer refused, or that met a fenced entry, is counted at a die and logged; what a record of the log holds is left
open (spec/14 R349, spec/15 R374). DESIGN CHOICE, log entries 12, 57. -/
def State.peerFailure (s : State) (die : Nat) : State :=
  let entry := ((Config.fabricRecord s.free) ++ List.replicate 16 0).take 16
  ({ s with
    free := s.free + 1
    regs := { s.regs with fablog := if s.regs.fablog.length < 64 then s.regs.fablog ++ [entry] else s.regs.fablog } } : State).modDie die fun d =>
      { d with peerErr := (d.peerErr + 1) % 2 ^ 64 }

/-- A remote read: each byte is what the peer answers; bytes that were answered before in the same operation are not asked again (spec/14
R348, R349, spec/06 R152). DESIGN CHOICE, log entry 12. -/
def State.readRemote (s : State) (seen : Assoc (Option Byte)) (pa : Nat) : Nat → State × Assoc (Option Byte) × Option (List Byte)
  | 0 => (s, seen, some [])
  | n + 1 =>
    let fenced := decide (peerState (s.peer (remoteEntry pa)) ≠ 0)
    let b := seen.getD pa (if fenced then none else Config.remoteByte s.free)
    let r := State.readRemote { s with free := s.free + 1 } (seen.put pa b) (pa + 1) n
    (r.1, r.2.1, match b, r.2.2 with
      | some x, some t => some (x :: t)
      | _, _ => none)

/-- A remote read by an agent of a die, after earlier ones of the same operation. DESIGN CHOICE, log entry 12. -/
def State.askAgain (s : State) (seen : Assoc (Option Byte)) (die pa n : Nat) : State × Assoc (Option Byte) × Option (List Byte) :=
  let r := s.readRemote seen pa n
  if r.2.2.isNone then (r.1.peerFailure die, r.2.1, none) else r

/-- A remote read by an agent of a die. DESIGN CHOICE, log entry 12. -/
def State.askPeer (s : State) (die pa n : Nat) : State × Option (List Byte) :=
  let r := s.askAgain [] die pa n
  (r.1, r.2.2)

/-- A wave's read of n bytes of global memory within one row, through the L1 of its core unless the read bypasses it. A read at the
ordering point leaves no older copy of the row in the core's L1 (spec/13 R319, spec/10 R252). -/
def State.readGlobal (s : State) (core task pa n : Nat) (bypass mside : Bool) : State × Option (List Byte) :=
  if inRemote pa then s.askPeer (dieOf (clusOf core)) pa n
  else if mside then
    let r := s.readTask task pa n
    (r.1, some r.2)
  else if bypass || (s.version task).any (fun e => decide (e.1 / 32 = pa / 32)) || (s.waiting task).any (fun e => decide (e.1 / 32 = pa / 32)) then
    let r := s.readTask task pa n
    ((r.1.dropRows core pa n).combRead pa none, some r.2)
  else
    match (s.core core).l1.get? (pa / 32) with
    | some row => (s, some ((row.drop (pa % 32)).take n))
    | none =>
      let r := s.readPoint (pa / 32 * 32) 32
      ((r.1.combRead pa none).fillL1 core (pa / 32) r.2, some ((r.2.drop (pa % 32)).take n))

/-! ### The tier pool (spec/13 R329 to R331) -/

/-- Change a tier directory entry. -/
def State.setDir (s : State) (tile : Nat) (f : DirEntry → DirEntry) : State :=
  let e := f (s.dirOf tile)
  { s with dir := if e = DirEntry.reset then s.dir.del tile else s.dir.put tile e }

/-- A tile starts to move: it enters STATE 1, and its home die's tier engine holds the move. DESIGN CHOICE, log entry 44. -/
def State.startMove (s : State) (tile : Nat) (k : MoveKind) : State :=
  (s.setDir tile fun e => { e with state := 1 }).modDie (homeDie (tile * 65536)) fun d =>
    { d with moves := d.moves ++ [{ tile := tile, kind := k, waiters := [] }] }

/-- The tile is homed in SCM, and its die's pool is enabled. DEDUCED, log entry 43. -/
def State.movable (s : State) (tile : Nat) : Bool := inScm (tile * 65536) && (s.die (homeDie (tile * 65536))).polEnable

/-- The directory entries of a die. -/
def State.dirHere (s : State) (die : Nat) : List (Nat × DirEntry) := s.dir.filter fun e => decide (homeDie (e.1 * 65536) = die)

/-- The lowest of the first n frames that is not in a list: a fetch takes the lowest free frame. DESIGN CHOICE, log entry 44. -/
def freeFrame (used : List Nat) : Nat → Option Nat
  | 0 => none
  | n + 1 => match freeFrame used n with
    | some f => some f
    | none => if used.contains n then none else some n

/-- The frames of a die that hold a tile: those of pooled tiles, and of tiles that still move out. -/
def State.usedFrames (s : State) (die : Nat) : List Nat :=
  let out := ((s.die die).moves.filter fun m => !decide (m.kind = .fetch)).map (·.tile)
  ((s.dirHere die).filter fun e => decide (e.2.state = 0) || out.contains e.1).map (·.2.frame)

/-! ### Held versions (spec/09 R224 to R228, spec/13 R322) -/

/-- Some persistent store of the task of a wave that a `pfence` orders has not entered its queue (spec/06 R169). DEDUCED, log entry 40. -/
def State.fencePending (s : State) (w : Wave) : Bool :=
  (s.persists.any fun g => decide (g.task = w.task ∧ g.epoch < w.pfences)) ||
    s.remoteOps.any fun r => decide (r.task = w.task) && !r.performed && r.persist.any fun e => decide (e < w.pfences)

/-- The same of the wave in a slot. -/
def State.persistsPending (s : State) (slot : Nat) : Bool := (s.waves.get? slot).any s.fencePending

/-- Remove the rows of some bytes from a core's L1. -/
def State.dropCells (s : State) (core : Nat) (cs : List Host.Cell) : State :=
  if (s.core core).l1 = [] then s
  else s.modCore core fun c => { c with l1 := c.l1.filter fun e => !(cs.any fun x => decide (x.1 / 32 = e.1)) }

/-- Every byte that the task of a wave holds becomes visible in one step, and no older copy of them stays in the L1 of its core
(spec/09 R224, R225, spec/10 R252). It waits while a `pfence` orders earlier persistent stores before it (spec/06 R169). DEDUCED, log
entry 15. -/
def State.commitHeld (s : State) (core : Nat) (w : Wave) : State :=
  let v := s.version w.task
  if v = [] then s
  else if s.fencePending w then { s with stall := .persists :: s.stall }
  else (({ s with versions := s.versions.del w.task } : State).store v).dropCells core v

/-- What a commit point does to its wave: the restartable flag is cleared (spec/09 R228). -/
def Wave.commits (w : Wave) : Wave := { w with restart := false, committed := true, softErrors := 0 }

/-- A commit point of the task in a slot (spec/09 R224, R225, R228). -/
def State.commit  (s : State) (slot : Nat) : State :=
  match s.waves.get? slot with
  | none => s
  | some w => (s.setWave slot w.commits).commitHeld (coreOf slot) w

/-- The counter of forced commits in the context descriptor (spec/15 R371). -/
def State.countForced (s : State) (ctx : Nat) : State :=
  let a := (s.context ctx).desc + 0x68
  s.storeAt a (leBytes 4 (s.valueAt a 4 + 1))

/-- A wave of a task in a context slot, and the slot's record. -/
def State.slotWave? (s : State) (task : Nat) : Option (CtxSlot × Wave) :=
  s.ctxSlots.findSome? fun e => match e.2.wave with
    | some w => if w.task = task then some (e.2, w) else none
    | none => none

/-- A commit point of a task that is held in a context slot (spec/09 R225). -/
def State.commitSlot (s : State) (task : Nat) : State :=
  match s.slotWave? task with
  | some x =>
    ({ s with ctxSlots := s.ctxSlots.map fun e => (e.1, { e.2 with wave := e.2.wave.map fun w => if w.task = task then w.commits else w }) } :
      State).commitHeld (coreOf x.1.slot) x.2
  | none => s

/-- A forced commit of a task that is held in a context slot, counted for its context (spec/09 R226, spec/15 R371). -/
def State.forceSlot (s : State) (task : Nat) : State :=
  match s.slotWave? task with
  | some x => (s.commitSlot task).countForced x.2.ctx
  | none => s

/-- A forced commit of a task, resident in a slot or held in a context slot while another task, or none, runs there (spec/09 R226). -/
def State.forceCommit (s : State) (slot task : Nat) : State :=
  match s.waves.get? slot with
  | some w => if w.task = task then (s.commit slot).countForced w.ctx else s.forceSlot task
  | none => s.forceSlot task

/-- A global store of a task that runs in a slot, or that will return there: held in its version, after a forced commit where the task
would hold a third way of a set, or performed unheld where 12 ways of the set are held already (spec/09 R226, spec/13 R322); a `pfence`
orders the unheld store as any (spec/06 R169). The row leaves the core's L1. -/
def State.holdTask (s : State) (slot : Nat) (w : Wave) (pa : Nat) (bs : List Byte) : State :=
  let s := s.dropRows (coreOf slot) pa bs.length
  let set := combSet pa
  let combs := versionCombs (s.version w.task)
  let new := !combs.contains (pa / 1024)
  let mine := (combs.filter fun c => decide (combSet (c * 1024) = set)).length
  let put (s : State) : State :=
    let t := if new then s.makeWay set else s
    let old := t.version w.task
    { t with
      versions := t.versions.put w.task ((cellsAt pa bs).foldl (fun v c => v.put c.1 c.2) old)
      heldFrom := if old = [] then t.heldFrom.put w.task t.nextNum else t.heldFrom }
  if new && decide (2 ≤ mine) then put (s.forceCommit slot w.task)
  else if new && decide (12 ≤ s.heldWays set) then
    if s.fencePending w then { s with stall := .persists :: s.stall } else (s.forceCommit slot w.task).storeAt pa bs
  else put s

/-- A global store of the task in a slot. -/
def State.hold (s : State) (slot pa : Nat) (bs : List Byte) : State :=
  match s.waves.get? slot with
  | none => s
  | some w => s.holdTask slot w pa bs

/-- Global bytes of a task, wherever it is held; those of a task that has ended are discarded (spec/07 R190). -/
def State.holdFor (s : State) (task pa : Nat) (bs : List Byte) : State :=
  match s.waves.find? fun e => decide (e.2.task = task) with
  | some e => s.holdTask e.1 e.2 pa bs
  | none =>
    match s.slotWave? task with
    | some x => s.holdTask x.1.slot x.2 pa bs
    | none => s

/-! ### Walks (spec/11 R290, R291) -/

/-- The levels of a walk, n the next level and table its table's address; an entry is read in its slice, and a non-leaf entry is kept by the
die's MMU, a leaf by the cluster's TLB where there is one (spec/11 R290, R291, spec/13 R324). DESIGN CHOICE, log entry 104. -/
def State.walk (s : State) (ctx die : Nat) (clus : Option Nat) (va : Nat) : Nat → Nat → Nat → State × Xlate
  | 0, _, _ => (s, .bad 4)
  | fuel + 1, n, table =>
    let page := va / 2 ^ levelShift n
    match ((s.die die).mmu).find? (fun (c : Cached) => decide (c.ctx = ctx ∧ c.level = n ∧ c.page = page)) with
    | some c => State.walk s ctx die clus va fuel (n + 1) (pteAddr c.entry)
    | none =>
      let a := table + 8 * (page % levelEntries n)
      if !s.accessOk ctx a 8 false then (s, .bad (n + 4))
      else
        let e : DWord := BitVec.ofNat 64 (s.valueAt a 8)
        let s := s.combRead a none
        if !pteValid e then (s, .bad n)
        else if s.malformed n e then (s, .bad (n + 4))
        else
          let c : Cached := { ctx := ctx, level := n, page := page, entry := e }
          if pteLeaf e then
            (match clus with
             | some k => s.modCluster k fun x => { x with tlb := (c :: x.tlb).take 1024 }
             | none => s,
             s.leafXlate n va e)
          else State.walk (s.modDie die fun x => { x with mmu := c :: x.mmu }) ctx die clus va fuel (n + 1) (pteAddr e)

/-- The translation of a device virtual address of a context (spec/01 R34, spec/11 R288 to R291). -/
def State.lookup (s : State) (ctx die : Nat) (clus : Option Nat) (va : Nat) : State × Xlate :=
  if 2 ^ 52 ≤ va then (s, .bad 0)
  else
    let hit := match clus with
      | some k => (s.cluster k).tlb.find? fun (c : Cached) => decide (c.ctx = ctx ∧ c.page = va / 2 ^ levelShift c.level)
      | none => none
    match hit with
    | some c => (s, s.leafXlate c.level va c.entry)
    | none => s.walk ctx die clus va 4 1 (s.context ctx).root

/-- Translate a device virtual address of a context. -/
def State.translate (s : State) (ctx die : Nat) (clus : Option Nat) (va : Nat) : State × Xlate :=
  let r := s.lookup ctx die clus va
  (r.1.noteSide r.2, r.2)

/-! ### Checks of an access (spec/06 R150, spec/14 R360) -/

/-- A cause that a lane raises (spec/11 R269, R270). -/
structure Raise where
  lane : Nat
  cause : Nat
  info : Nat
  write : Bool
  space : Nat
  deriving DecidableEq, Repr

def cMachineCheck : Nat := 0x01
def cBadStatus : Nat := 0x02
def cIllegal : Nat := 0x03
def cPriv : Nat := 0x04
def cIllegalReturn : Nat := 0x05
def cStall : Nat := 0x06
def cDivergent : Nat := 0x07
def cMisaligned : Nat := 0x08
def cTranslation : Nat := 0x09
def cPermission : Nat := 0x0A
def cPoison : Nat := 0x0B
def cClobber : Nat := 0x0C
def cSlot : Nat := 0x0D
def cCapsule : Nat := 0x0E
def cNest : Nat := 0x0F
def cRace : Nat := 0x10
def cSoftware : Nat := 0x12
def cBreakpoint : Nat := 0x13

/-- What an access needs of its page. -/
structure Want where
  rd : Bool
  wr : Bool
  comb : Bool := false
  mside : Bool := false
  deriving DecidableEq, Repr

/-- The lowest PERMISSION INFO that an access meets, if any (spec/06 R150 step 4, spec/13 R334, spec/14 R359, R360). -/
def State.refusal? (s : State) (ctx pa n : Nat) (pte : DWord) (w : Want) : Option Nat :=
  if w.rd && !pteRd pte then some 0
  else if w.wr && !pteWr pte then some 1
  else if inOnchip pa then some 3
  else if (w.comb && !pteComb pte) || (w.mside && !pteMside pte) ||
      (w.wr && ptePersist pte && (!inScm pa || !s.regs.featAccept.getLsbD 3)) ||
      (!inRemote pa && w.rd && !s.accessOk ctx pa n false) || (!inRemote pa && w.wr && !s.accessOk ctx pa n true) then some 5
  else none

/-- Steps 2 to 4 of spec/06 R150 for one access of n bytes: the cause and its INFO, or where the bytes are. -/
def State.check (s : State) (ctx die : Nat) (clus : Option Nat) (va n align : Nat) (w : Want) :
    State × Except (Nat × Nat) (Nat × DWord) :=
  if va % align ≠ 0 then (s, .error (cMisaligned, 0))
  else
    let r := s.translate ctx die clus va
    match r.2 with
    | .bad i => (r.1, .error (cTranslation, i))
    | .ok pa pte =>
      match s.refusal? ctx pa n pte w with
      | some i => (r.1, .error (cPermission, i))
      | none => (r.1, .ok (pa, pte))

/-! ### Logs of a context (spec/15 R371) -/

/-- Write a 32-byte record to a log of a context: base and count from the context, WR and the drop counter in its descriptor in
memory; a full log or a refused access drops and counts the record (spec/11 R277, spec/10 R268, spec/14 R360). -/
def State.log (s : State) (ctx base count wrOff dropOff : Nat) (record : List Byte) : State :=
  let d := (s.context ctx).desc
  let wr := s.valueAt (d + wrOff) 4
  if wr < count ∧ s.accessOk ctx (base + 32 * wr) 32 true then
    (s.storeAt (base + 32 * wr) record).storeAt (d + wrOff) (leBytes 4 (wr + 1))
  else s.storeAt (d + dropOff) (leBytes 4 (s.valueAt (d + dropOff) 4 + 1))

/-- Write a fault record (spec/11 R277). -/
def State.logFault (s : State) (ctx : Nat) (record : List Byte) : State :=
  s.log ctx (s.context ctx).flogBase (s.context ctx).flogCount 0x4C 0x60 record

/-- Write a race record (spec/10 R268). -/
def State.logRace (s : State) (ctx : Nat) (record : List Byte) : State :=
  s.log ctx (s.context ctx).rlogBase (s.context ctx).rlogCount 0x5C 0x64 record

/-! ### The race detector and the release counters (spec/10 R266 to R268) -/

/-- The instance of a scope level that a wave belongs to. -/
def State.instanceOf (slot : Nat) (w : Wave) (level : Nat) : Nat :=
  if level = 1 then w.team
  else if level = 2 then clusOf (coreOf slot)
  else if level = 3 then dieOf (clusOf (coreOf slot))
  else 0

/-- The number of C(I) for an instance of a level. -/
def counterKey (level inst : Nat) : Nat := inst * 4 + (level - 1)

/-- C(I). -/
def State.counter (s : State) (level inst : Nat) : Nat := s.relCount.getD (counterKey level inst) 0

/-- A release at a scope increments C(I) of every level that the scope covers (spec/10 R267). -/
def State.release (s : State) (slot scope : Nat) : State :=
  match s.waves.get? slot with
  | none => s
  | some w =>
    foldState (fun s l =>
      if l ≤ scope then
        let i := State.instanceOf slot w l
        { s with relCount := s.relCount.put (counterKey l i) ((s.counter l i + 1) % 2 ^ 32) }
      else s) s [1, 2, 3, 4]

/-- O(L) of a wave for levels 1 to 4 as the counters stand. -/
def State.observe (s : State) (slot : Nat) (w : Wave) : List Nat :=
  [1, 2, 3, 4].map fun l => s.counter l (State.instanceOf slot w l)

/-- An acquire at a scope: O(L) := C(I) for the levels it covers, and an acquire at team scope or wider empties the core's L1
(spec/10 R267, spec/13 R319). DEDUCED, log entry 70. -/
def State.acquire (s : State) (slot scope : Nat) : State :=
  match s.waves.get? slot with
  | none => s
  | some w =>
    let o := [1, 2, 3, 4].map fun l => if l ≤ scope then s.counter l (State.instanceOf slot w l) else w.obs.getD (l - 1) 0
    let s1 := s.setWave slot { w with obs := o }
    if 1 ≤ scope then s1.clearL1 (coreOf slot) else s1

/-- Step 5 of spec/06 R150 for one lane's access: whether it raises RACE; a store updates the shadow, and RACELOG writes a record
and lets the access proceed (spec/10 R267, R268). DEDUCED, log entry 27. -/
def State.race (s : State) (slot lane va pa : Nat) (pte : DWord) (store : Bool) : State × Bool :=
  match s.waves.get? slot with
  | none => (s, false)
  | some w =>
    if !pteRace pte then (s, false)
    else
      let l := pteScope pte
      let i := State.instanceOf slot w l
      let sh := s.shadow.getD (pa / 32) { wtask := 0, wcount := 0, winst := 0 }
      let o := w.obs.getD (l - 1) 0
      let d := (o + 2 ^ 32 - sh.wcount) % 2 ^ 32
      let conflict := decide (sh.wtask ≠ 0 ∧ sh.wtask ≠ w.task ∧ (i ≠ sh.winst ∨ d = 0 ∨ 2 ^ 31 ≤ d))
      let upd (s : State) : State :=
        if store then { s with shadow := s.shadow.put (pa / 32) { wtask := w.task, wcount := s.counter l i, winst := i } } else s
      if !conflict then (upd s, false)
      else if pteRaceLog pte then
        (upd (s.logRace w.ctx (leBytes 8 va ++ leBytes 4 w.task ++ leBytes 4 sh.wtask ++ leBytes 4 sh.wcount ++ leBytes 4 o ++
          [if store then 1 else 0, BitVec.ofNat 8 lane, BitVec.ofNat 8 l] ++ leBytes 5 0)), false)
      else (s, true)

/-! ### Scratchpads (spec/01 R35, spec/13 R318) -/

/-- The team of a wave. -/
def State.teamOf? (s : State) (w : Wave) : Option Team := s.teams.get? w.team

/-- A line of a core belongs to an allocation of another context. -/
def State.lineForeign (s : State) (ctx core line : Nat) : Bool :=
  s.teams.any fun e => decide (e.2.ctx ≠ ctx ∧ (e.2.core = core ∨ (e.2.paired = true ∧ e.2.core + 1 = core)) ∧
    e.2.spadBase ≤ line ∧ line < e.2.spadBase + e.2.spadLines)

/-- The core and the byte of its scratchpad that an address names, for a team of a context whose wave runs on a core; none where
spec/01 R35 refuses it. -/
def State.spadPlace (s : State) (t : Team) (core : Nat) (a : Nat) : Option (Nat × Nat) :=
  let kind := a / 2 ^ 22 % 4
  let cc := a / 2 ^ 20 % 4
  let off := a % 2 ^ 19
  if a / 2 ^ 24 ≠ 0 ∨ a / 2 ^ 19 % 2 ≠ 0 then none
  else if kind = 2 then
    let c := clusOf core * 4 + cc
    if 0x60000 ≤ off ∨ s.lineForeign t.ctx c (off / 128) = true then none else some (c, off)
  else if kind = 3 ∨ cc ≠ 0 then none
  else if kind = 1 ∧ t.paired = false then none
  else if t.spadLines * 128 ≤ off then none
  else
    let c := if kind = 0 then core else if core % 2 = 0 then core + 1 else core - 1
    some (c, t.spadBase * 128 + off)

/-- Bytes of a scratchpad. -/
def State.spadBytes (s : State) (core off n : Nat) : List Byte := Sparse.getList (s.core core).spad off n

/-- The value at a byte of a scratchpad. -/
def State.spadValue (s : State) (core off n : Nat) : Nat := leNat (s.spadBytes core off n)

/-- An entry waits on a ring whose header or slot words have a byte in a range of a core's scratchpad. -/
def ringAt (core off n : Nat) : Park → Bool
  | .ring c o words _ => decide (c = core ∧ o < off + n ∧ off < o + 32) || words.any fun x => decide (x.1 = core ∧ x.2 < off + n ∧ off < x.2 + 8)
  | _ => false

/-- Some entry, of a resident wave or of one in a context slot, waits on what a predicate names. -/
def State.someParked (s : State) (p : Park → Bool) : Bool :=
  (s.waves.any fun e => e.2.table.any fun x => x.park.any p) || s.ctxSlots.any fun e => e.2.wave.any fun w => w.table.any fun x => x.park.any p

/-- Write bytes of a scratchpad; what waits on a ring whose header or slot words they change is decided again (spec/09 R234). -/
def State.spadStore (s : State) (core off : Nat) (bs : List Byte) : State :=
  let t := s.modCore core fun c => { c with spad := Sparse.setList c.spad off bs }
  if t.someParked (ringAt core off bs.length) then t.retryWhere (ringAt core off bs.length) else t

/-- The line awaits engine bytes. -/
def State.lineAbsent (s : State) (core line : Nat) : Bool := (s.core core).absent.contains line

/-- The line is poisoned. -/
def State.linePoisoned (s : State) (core line : Nat) : Bool := (s.core core).poison.contains line

/-- Some byte of the range belongs to a typed barrier object (spec/08 R207). -/
def State.typedIn (s : State) (core off n : Nat) : Bool :=
  (s.core core).typed.any fun o => decide (o < off + n ∧ off < o + 16)

end Sys2Proof.Machine
end

