-- ==== Sys2Proof/Machine/Operands.lean ====
section
/-! DEFINITION. Operands: which registers an instruction names and reads, the hints it accepts, its version and where it may issue
(spec/03 R64 to R86, spec/11 R274, spec/09 R245), and the values of the b operands (spec/03 R69, R70). -/

namespace Sys2Proof.Machine

/-- A register as a source of fixed latency (spec/04 R120). -/
inductive RegName where
  | v (n : Nat)
  | s (n : Nat)
  | m (n : Nat)
  | sc
  deriving DecidableEq, Repr

/-- The v-register of a vector b operand. -/
def VSrc.vregs : VSrc → List Nat
  | .v n => [n.toNat]
  | _ => []

/-- The registers that a vector b operand reads. -/
def VSrc.reads : VSrc → List RegName
  | .v n => [.v n.toNat]
  | .s n => [.s n.toNat]
  | _ => []

/-- A literal is held. -/
def Hints.hasLiteral (h : Hints) : Bool := h.litlo.isSome || h.lithi.isSome

/-- The registers that a scalar b operand reads: none where a literal stands in its place (spec/04 R94). -/
def SSrc.reads (h : Hints) : SSrc → List RegName
  | .s n => if h.hasLiteral then [] else [.s n.toNat]
  | _ => []

/-- n consecutive registers. -/
def run (first n : Nat) : List Nat := (List.range n).map (first + ·)

/-- Registers of an access of a width (spec/03 R78). -/
def Width.count : Width → Nat
  | .b64 => 2
  | .b128 => 4
  | _ => 1

/-- Bytes of an access of a width (spec/06 R148). -/
def Width.bytes : Width → Nat
  | .b8 | .i8 => 1
  | .b16 | .i16 => 2
  | .b32 => 4
  | .b64 => 8
  | .b128 => 16

/-- The v-offset field: 0x7F names no register (spec/03 R78). -/
def voffRegs (voff : BitVec 7) : List Nat := if voff = 0x7F then [] else [voff.toNat]

/-- MOD W64 is present (spec/03 R66). -/
def Hints.w64 (h : Hints) : Bool := match h.mod with
  | some m => m.w64
  | none => false

/-- Registers of an atomic's operand (spec/03 R79). -/
def atomCount (h : Hints) (cas : Bool) : Nat := (if h.w64 then 2 else 1) * (if cas then 2 else 1)

/-- The v-registers that an instruction names (spec/01 R25, spec/03 R71). -/
def Instr.vregs (h : Hints) : Instr → List Nat
  | .vadd _ vd va b | .vsub _ vd va b | .vmul _ vd va b | .vmulhi _ vd va b | .vand _ vd va b | .vor _ vd va b
  | .vxor _ vd va b | .vshl _ vd va b | .vshr _ vd va b | .vsra _ vd va b | .vmin _ vd va b | .vmax _ vd va b
  | .vminu _ vd va b | .vmaxu _ vd va b | .vmad _ vd va b | .vabsd _ vd va b | .vfadd _ vd va b | .vfsub _ vd va b
  | .vfmul _ vd va b | .vffma _ vd va b | .vfmin _ vd va b | .vfmax _ vd va b | .vhfma _ vd va b | .vhadd _ vd va b
  | .vhmul _ vd va b | .vsel _ vd va b | .vpack2 _ vd va b | .vcopysign _ vd va b | .vshfl _ _ vd va b =>
    vd.toNat :: va.toNat :: VSrc.vregs b
  | .vmov _ vd b | .vnot _ vd b | .vneg _ vd b | .vabs _ vd b | .vpopc _ vd b | .vclz _ vd b | .vbrev _ vd b
  | .vbfe _ vd b | .vbfi _ vd b | .vrand _ vd b | .vbcast _ vd b | .vcvt _ _ _ _ vd b => vd.toNat :: VSrc.vregs b
  | .vfrcp _ _ vd b | .vfrsq _ _ vd b | .vfsqrt _ _ vd b | .vfexp2 _ _ vd b | .vflog2 _ _ vd b | .vfsin _ _ vd b
  | .vfcos _ _ vd b | .vftanh _ _ vd b | .vfrnd _ _ vd b | .vfclass _ _ vd b => vd.toNat :: VSrc.vregs b
  | .vcmp _ _ _ va b => va.toNat :: VSrc.vregs b
  | .vfcmp _ _ _ va b => va.toNat :: VSrc.vregs b
  | .brx _ va => [va.toNat]
  | .vld _ vd _ voff w | .vlds _ vd _ voff w | .vldc _ vd _ voff w | .vldt _ vd _ voff w | .vst _ vd _ voff w
  | .vsts _ vd _ voff w => run vd.toNat (Width.count w) ++ voffRegs voff
  | .vpref _ _ voff | .vpwb _ _ voff => voffRegs voff
  | .vatom _ _ vd voff _ | .vatoms _ _ vd voff _ => run vd.toNat (atomCount h false) ++ voffRegs voff
  | .vcas _ vd voff _ | .vatomsCas _ vd voff _ => run vd.toNat (atomCount h true) ++ voffRegs voff
  | .bfadd _ vd voff _ => vd.toNat :: voffRegs voff
  | .vrfl _ _ va | .vballot _ _ va | .vredu _ _ _ _ va | .vdraw _ _ _ va | .vrdln _ _ _ va => [va.toNat]
  | .vwrln _ _ vd _ => [vd.toNat]
  | .vmatch _ vd va => [vd.toNat, vd.toNat + 1, va.toNat]
  | .vscan _ _ _ _ vd va => [vd.toNat, va.toNat]
  | .spawn _ va => run va.toNat 4
  | _ => []

/-- The registers of an address operand (spec/06 R147); the scratchpad space reads s(2n) alone. -/
def addrReads (base : BitVec 5) (voff : BitVec 7) (spad : Bool) : List RegName :=
  RegName.s (2 * base.toNat) :: (if spad then [] else [RegName.s (2 * base.toNat + 1)]) ++ (voffRegs voff).map RegName.v

/-- n scalar registers from one. -/
def sRun (first n : Nat) : List RegName := (run first n).map RegName.s

/-- The pair of a base index. -/
def basePair (base : BitVec 5) : List RegName := sRun (2 * base.toNat) 2

/-- The v-registers of a range, as sources. -/
def vRun (first n : Nat) : List RegName := (run first n).map RegName.v

/-- The sources of an instruction, the guard mask and the counter of RSR apart (spec/04 R120, R122). `join` and `leave` read the mask that they
change, as a fixed-latency source. DESIGN CHOICE, log entry 125. -/
def Instr.sources (h : Hints) : Instr → List RegName
  | .vadd _ _ va b | .vsub _ _ va b | .vmul _ _ va b | .vmulhi _ _ va b | .vand _ _ va b | .vor _ _ va b
  | .vxor _ _ va b | .vshl _ _ va b | .vshr _ _ va b | .vsra _ _ va b | .vmin _ _ va b | .vmax _ _ va b
  | .vminu _ _ va b | .vmaxu _ _ va b | .vabsd _ _ va b | .vfadd _ _ va b | .vfsub _ _ va b | .vfmul _ _ va b
  | .vfmin _ _ va b | .vfmax _ _ va b | .vhadd _ _ va b | .vhmul _ _ va b | .vpack2 _ _ va b | .vcopysign _ _ va b
  | .vshfl _ _ _ va b | .vcmp _ _ _ va b | .vfcmp _ _ _ va b => RegName.v va.toNat :: VSrc.reads b
  | .vmad _ vd va b | .vffma _ vd va b | .vhfma _ vd va b => RegName.v vd.toNat :: RegName.v va.toNat :: VSrc.reads b
  | .vsel _ _ va b =>
    RegName.m (match h.mod with
      | some m => m.sel.toNat
      | none => 0) :: RegName.v va.toNat :: VSrc.reads b
  | .vmov _ _ b | .vnot _ _ b | .vneg _ _ b | .vabs _ _ b | .vpopc _ _ b | .vclz _ _ b | .vbrev _ _ b | .vbfe _ _ b
  | .vrand _ _ b | .vbcast _ _ b | .vcvt _ _ _ _ _ b => VSrc.reads b
  | .vbfi _ vd b => RegName.v vd.toNat :: VSrc.reads b
  | .vfrcp _ _ _ b | .vfrsq _ _ _ b | .vfsqrt _ _ _ b | .vfexp2 _ _ _ b | .vflog2 _ _ _ b | .vfsin _ _ _ b
  | .vfcos _ _ _ b | .vftanh _ _ _ b | .vfrnd _ _ _ b | .vfclass _ _ _ b => VSrc.reads b
  | .sadd _ _ sa b | .ssub _ _ sa b | .smul _ _ sa b | .smulhi _ _ sa b | .sand _ _ sa b | .sor _ _ sa b
  | .sxor _ _ sa b | .sshl _ _ sa b | .sshr _ _ sa b | .ssra _ _ sa b | .smin _ _ sa b | .smax _ _ sa b
  | .sminu _ _ sa b | .smaxu _ _ sa b | .sbfe _ _ sa b | .sfadd _ _ sa b | .sfmul _ _ sa b | .sfmin _ _ sa b
  | .sfmax _ _ sa b | .scmp _ _ sa b => RegName.s sa.toNat :: SSrc.reads h b
  | .saddc _ _ sa b | .ssubb _ _ sa b | .ssel _ _ sa b => RegName.sc :: RegName.s sa.toNat :: SSrc.reads h b
  | .sffma _ sd sa b => RegName.s sd.toNat :: RegName.s sa.toNat :: SSrc.reads h b
  | .smov _ _ b | .spopc _ _ b | .sclz _ _ b | .sfexp2 _ _ b => SSrc.reads h b
  | .sfcvt _ _ sa _ _ => [RegName.s sa.toNat]
  | .drawm _ sd sa => sRun sd.toNat 3 ++ sRun sa.toNat 3 ++ sRun 62 2
  | .sori _ sd _ | .saddi _ sd _ | .scmpi _ sd _ => [RegName.s sd.toNat]
  | .br _ _ _ cond _ => if cond = 0 then [] else if cond = 13 then [RegName.sc] else [RegName.m (cond.toNat - 1)]
  | .brx _ va => [RegName.v va.toNat]
  | .join _ m | .leave _ m | .waitm _ m => [RegName.m m.toNat]
  | .sleep _ n t => sRun (2 * n.toNat) 2 ++ SSrc.reads h t
  | .vld _ _ base voff _ | .vldc _ _ base voff _ | .vldt _ _ base voff _ | .vpref _ base voff | .vpwb _ base voff =>
    addrReads base voff false
  | .vlds _ _ base voff _ => addrReads base voff true
  | .vst _ vs base voff w => vRun vs.toNat (Width.count w) ++ addrReads base voff false
  | .vsts _ vs base voff w => vRun vs.toNat (Width.count w) ++ addrReads base voff true
  | .vatom _ _ vd voff base => vRun vd.toNat (atomCount h false) ++ addrReads base voff false
  | .vatoms _ _ vd voff base => vRun vd.toNat (atomCount h false) ++ addrReads base voff true
  | .vcas _ vd voff base => vRun vd.toNat (atomCount h true) ++ addrReads base voff false
  | .vatomsCas _ vd voff base => vRun vd.toNat (atomCount h true) ++ addrReads base voff true
  | .bfadd _ vd voff base => RegName.v vd.toNat :: addrReads base voff false
  | .sld _ _ base _ _ | .sldk _ _ base _ _ => basePair base
  | .sst _ sd base w64 _ => sRun sd.toNat (if w64 then 2 else 1) ++ basePair base
  | .satom _ sd base w64 _ => sRun sd.toNat (if w64 then 2 else 1) ++ basePair base
  | .scas _ sd base w64 => sRun sd.toNat (if w64 then 4 else 2) ++ basePair base
  | .vrfl _ _ va | .vmatch _ _ va | .vballot _ _ va | .vredu _ _ _ _ va | .vscan _ _ _ _ _ va => [RegName.v va.toNat]
  | .vrdln _ _ sl va => [RegName.v va.toNat, RegName.s sl.toNat]
  | .vwrln _ sl _ sb => [RegName.s sl.toNat, RegName.s sb.toNat]
  | .vdraw _ _ sc va => [RegName.v va.toNat, RegName.s sc.toNat, RegName.s 63]
  | .mand _ _ ma mb | .mor _ _ ma mb | .mxor _ _ ma mb | .mandn _ _ ma mb => [RegName.m ma.toNat, RegName.m mb.toNat]
  | .mmov _ _ ma | .mpopc _ _ ma | .mfirst _ _ ma | .mget _ _ ma => [RegName.m ma.toNat]
  | .mset _ _ sa => sRun sa.toNat 2
  | .barinit _ sa => sRun sa.toNat 3
  | .bararr _ sa | .barinv _ sa | .wbar _ _ sa | .oclaim _ sa | .aclaim _ sa | .arel _ sa | .mma _ sa | .mstore _ sa
  | .qclose _ sa | .qres _ _ sa | .qtake _ _ sa => [RegName.s sa.toNat]
  | .bartest _ _ sa sb | .barwait _ sa sb | .qpub _ sa sb | .qdone _ sa sb => [RegName.s sa.toNat, RegName.s sb.toNat]
  | .cpy _ sa | .oload _ sa => sRun sa.toNat 6
  | .cpym _ sa sm => sRun sa.toNat 6 ++ [RegName.s sm.toNat]
  | .xfer _ sa => sRun sa.toNat 8
  | .coll _ sa | .tagq _ _ sa | .orel _ sa | .fwait _ _ sa | .cres _ _ sa | .scan _ sa => sRun sa.toNat 2
  | .signal _ sa sb | .tagc _ sa sb => sRun sa.toNat 2 ++ [RegName.s sb.toNat]
  | .spawn _ va => vRun va.toNat 4
  | .fbind _ sa => sRun sa.toNat 3
  | .fset _ sa sb | .cexit _ sa sb => sRun sa.toNat 2 ++ sRun sb.toNat 2
  | .center _ _ sa => sRun sa.toNat 2 ++ sRun 48 16
  | .cstep _ sa sb => sRun sa.toNat 2 ++ [RegName.s sb.toNat] ++ sRun 48 16
  | .smto _ s num => sRun s.toNat (if sysReg64? num = some true then 2 else 1)
  | .idem _ => sRun 0 16
  | _ => []

/-- What an instruction accepts of the hint kinds (spec/03 R68). -/
structure Accept where
  lit : Bool := false
  needLit : Bool := false
  guard : Bool := false
  srcMods : Bool := false
  sat : Bool := false
  hf : Bool := false
  w64 : Bool := false
  ord : Bool := false
  sel : Bool := false
  rnd : Bool := false
  scope : Bool := false
  cache : Bool := false
  deriving DecidableEq, Repr

/-- Hints of a vector operation with a b operand: the literal stands exactly where b is 0xF8. -/
def Accept.vec (b : VSrc) : Accept := { lit := decide (b = .lit), needLit := decide (b = .lit), guard := true }

/-- The hints that an instruction accepts (spec/03 R68 and the rules of each family). -/
def Instr.accepts : Instr → Accept
  | .vadd _ _ _ b | .vsub _ _ _ b | .vmul _ _ _ b | .vmulhi _ _ _ b | .vand _ _ _ b | .vor _ _ _ b
  | .vxor _ _ _ b | .vshl _ _ _ b | .vshr _ _ _ b | .vsra _ _ _ b | .vmin _ _ _ b | .vmax _ _ _ b
  | .vminu _ _ _ b | .vmaxu _ _ _ b | .vmad _ _ _ b | .vabsd _ _ _ b | .vpack2 _ _ _ b | .vcopysign _ _ _ b
  | .vshfl _ _ _ _ b | .vcmp _ _ _ _ b => Accept.vec b
  | .vmov _ _ _ | .vnot _ _ _ | .vneg _ _ _ | .vabs _ _ _ | .vpopc _ _ _ | .vclz _ _ _ | .vbrev _ _ _ => { guard := true }
  | .vrand _ _ b => Accept.vec b
  | .vfadd _ _ _ b | .vfsub _ _ _ b | .vfmul _ _ _ b | .vffma _ _ _ b | .vfmin _ _ _ b | .vfmax _ _ _ b =>
    { Accept.vec b with srcMods := true, sat := true, rnd := true }
  | .vhfma _ _ _ b | .vhadd _ _ _ b | .vhmul _ _ _ b =>
    { Accept.vec b with srcMods := true, sat := true, rnd := true, hf := true }
  | .vsel _ _ _ b => { Accept.vec b with sel := true, rnd := true }
  | .vbfe _ _ _ | .vbfi _ _ _ => { lit := true, needLit := true, guard := true }
  | .vbcast _ _ _ => { lit := true, guard := true }
  | .vfrcp _ p _ b | .vfrsq _ p _ b | .vfsqrt _ p _ b | .vfexp2 _ p _ b | .vflog2 _ p _ b | .vfsin _ p _ b
  | .vfcos _ p _ b | .vftanh _ p _ b | .vfrnd _ p _ b | .vfclass _ p _ b => { Accept.vec b with hf := p, rnd := true }
  | .vcvt _ _ _ sel _ b => { Accept.vec b with sat := true, rnd := decide (sel = .dynamic) }
  | .vfcmp _ _ _ _ b => { Accept.vec b with srcMods := true }
  | .sadd _ _ _ _ | .ssub _ _ _ _ | .smul _ _ _ _ | .smulhi _ _ _ _ | .sand _ _ _ _ | .sor _ _ _ _
  | .sxor _ _ _ _ | .sshl _ _ _ _ | .sshr _ _ _ _ | .ssra _ _ _ _ | .smin _ _ _ _ | .smax _ _ _ _
  | .sminu _ _ _ _ | .smaxu _ _ _ _ | .saddc _ _ _ _ | .ssubb _ _ _ _ | .scmp _ _ _ _ | .ssel _ _ _ _
  | .sbfe _ _ _ _ => { lit := true }
  | .smov _ _ _ | .spopc _ _ _ | .sclz _ _ _ => { lit := true }
  | .sfadd _ _ _ _ | .sfmul _ _ _ _ | .sffma _ _ _ _ | .sfmin _ _ _ _ | .sfmax _ _ _ _ =>
    { lit := true, sat := true, rnd := true }
  | .sfexp2 _ _ _ => { lit := true, rnd := true }
  | .sfcvt _ _ _ _ _ => { sat := true, rnd := true }
  | .vld _ _ _ _ _ | .vlds _ _ _ _ _ | .vldc _ _ _ _ _ | .vldt _ _ _ _ _ | .vst _ _ _ _ _ | .vsts _ _ _ _ _ =>
    { lit := true, guard := true, cache := true }
  | .vpref _ _ _ | .vpwb _ _ _ => { lit := true, guard := true, cache := true }
  | .vatom _ _ _ _ _ | .vatoms _ _ _ _ _ => { guard := true, w64 := true, ord := true, scope := true, cache := true }
  | .vcas _ _ _ _ | .vatomsCas _ _ _ _ => { guard := true, w64 := true, ord := true, scope := true, cache := true }
  | .bfadd _ _ _ _ => { guard := true, ord := true, scope := true, cache := true }
  | .satom _ _ _ _ _ | .scas _ _ _ _ => { w64 := true, ord := true, scope := true }
  | .vrfl _ _ _ | .vrdln _ _ _ _ | .vwrln _ _ _ _ | .vmatch _ _ _ | .vballot _ _ _ | .vdraw _ _ _ _ => { guard := true }
  | .vredu _ _ fl _ _ => { guard := true, rnd := fl }
  | .vscan _ _ fl _ _ _ => { guard := true, rnd := fl }
  | .signal _ _ _ => { scope := true }
  | _ => {}

/-- A MOD hint sets only bits that the instruction uses (spec/03 R67). -/
def Accept.modOk (a : Accept) (m : ModHint) : Bool :=
  (a.srcMods || a.sat || a.hf || a.w64 || a.ord || a.sel) &&
    (a.srcMods || !(m.na || m.aa || m.nb || m.ab)) && (a.sat || !m.sat) && (a.hf || !m.hf) && (a.w64 || !m.w64) &&
    (a.ord || decide (m.ord = 0)) && (a.sel || decide (m.sel = 0))

/-- The held hints are ones that the instruction accepts (spec/03 R67, R68). -/
def Accept.ok (a : Accept) (h : Hints) : Bool :=
  (a.lit || (h.litlo.isNone && h.lithi.isNone)) && (!a.needLit || h.litlo.isSome || h.lithi.isSome) &&
    (a.guard || h.guard.isNone) && (h.mod.all a.modOk) && (a.rnd || h.rnd.isNone) && (a.scope || h.scope.isNone) &&
    (a.cache || h.cache.isNone)

/-- The hint literal (spec/03 R65); 0 without one. -/
def Hints.literal (h : Hints) : Word :=
  match h.lithi, h.litlo with
  | some hi, some lo => hi ++ lo
  | some hi, none => hi ++ (0 : BitVec 20)
  | none, some lo => lo.signExtend 32
  | none, none => 0

/-- No hint is held. -/
def Hints.isNone (h : Hints) : Bool := decide (h = Hints.empty)

/-- The version from which an instruction is legal (spec/03 R86). -/
def Instr.version : Instr → Nat
  | .vdraw _ _ _ _ | .drawm _ _ _ | .center _ _ _ | .cstep _ _ _ | .cexit _ _ _ | .cres _ _ _ => 3
  | .spawn _ _ | .fbind _ _ | .fset _ _ _ | .fwait _ _ _ | .qres _ _ _ | .qpub _ _ _ | .qtake _ _ _ | .qdone _ _ _
  | .qclose _ _ | .publ _ | .hintScope _ => 2
  | _ => 1

/-- The scalar instructions of majors 0x0B to 0x0D (spec/04 R93). -/
def Instr.scalar : Instr → Bool
  | .sadd _ _ _ _ | .ssub _ _ _ _ | .smul _ _ _ _ | .smulhi _ _ _ _ | .sand _ _ _ _ | .sor _ _ _ _
  | .sxor _ _ _ _ | .sshl _ _ _ _ | .sshr _ _ _ _ | .ssra _ _ _ _ | .smin _ _ _ _ | .smax _ _ _ _
  | .sminu _ _ _ _ | .smaxu _ _ _ _ | .saddc _ _ _ _ | .ssubb _ _ _ _ | .scmp _ _ _ _ | .ssel _ _ _ _
  | .smov _ _ _ | .spopc _ _ _ | .sclz _ _ _ | .sbfe _ _ _ _ | .sfadd _ _ _ _ | .sfmul _ _ _ _
  | .sffma _ _ _ _ | .sfmin _ _ _ _ | .sfmax _ _ _ _ | .sfcvt _ _ _ _ _ | .drawm _ _ _ | .sfexp2 _ _ _
  | .smovi _ _ _ | .sori _ _ _ | .saddi _ _ _ | .scmpi _ _ _ => true
  | _ => false

/-- A word that a trap handler may issue (spec/11 R274, spec/04 R114, spec/05 R146). A hint word may issue; the instruction that
it precedes decides. DEDUCED, log entry 14. -/
def Instr.inHandler (i : Instr) : Bool :=
  Instr.scalar i ||
  match i with
  | .sld _ _ _ _ _ | .sst _ _ _ _ _ | .sldk _ _ _ _ _ | .satom _ _ _ _ _ | .scas _ _ _ _ => true
  | .mand _ _ _ _ | .mor _ _ _ _ | .mxor _ _ _ _ | .mandn _ _ _ _ | .mmov _ _ _ | .mpopc _ _ _ | .mfirst _ _ _
  | .mset _ _ _ | .mget _ _ _ => true
  | .vrdln _ _ _ _ | .vwrln _ _ _ _ => true
  | .jmp _ _ | .nop _ | .isync _ | .trap _ _ | .brk _ _ | .tret _ | .tretAbort _ | .smfr _ _ _ | .smto _ _ _ => true
  | .br _ _ _ cond _ => decide (cond = 0 ∨ cond = 13)
  | .hintLitlo _ | .hintLithi _ | .hintGuard _ _ | .hintMod _ _ _ _ _ _ _ _ _ | .hintRnd _ | .hintScope _ | .hintCache _
  | .hintGap _ => true
  | _ => false

/-- A word that a capsule body may issue (spec/09 R245). DEDUCED, log entry 14. -/
def Instr.inCapsule (i : Instr) : Bool :=
  Instr.scalar i ||
  match i with
  | .br _ _ _ _ _ | .jmp _ _ | .nop _ | .sld _ _ _ _ _ | .sst _ _ _ _ _ | .sldk _ _ _ _ _ | .smfr _ _ _ | .hintGap _
  | .cstep _ _ _ | .cexit _ _ _ | .cres _ _ _ => true
  | _ => false

/-- A hint word. -/
def Instr.isHint : Instr → Bool
  | .hintLitlo _ | .hintLithi _ | .hintGuard _ _ | .hintMod _ _ _ _ _ _ _ _ _ | .hintRnd _ | .hintScope _ | .hintCache _
  | .hintGap _ => true
  | _ => false

/-- Operand checks that need the hints: register groups under W64, operation codes that W64 reserves, and constants that an
integer operation format refuses, and the literal where R131 does (spec/03 R69, R79, R80, spec/05 R125, R131, R132, R143). -/
def Instr.operandsOk (width : Nat) (h : Hints) : Instr → Bool
  | .vadd _ _ _ b | .vsub _ _ _ b | .vmul _ _ _ b | .vmulhi _ _ _ b | .vand _ _ _ b | .vor _ _ _ b
  | .vxor _ _ _ b | .vshl _ _ _ b | .vshr _ _ _ b | .vsra _ _ _ b | .vmin _ _ _ b | .vmax _ _ _ b
  | .vminu _ _ _ b | .vmaxu _ _ _ b | .vmad _ _ _ b | .vabsd _ _ _ b | .vpack2 _ _ _ b | .vshfl _ _ _ _ b
  | .vcmp _ _ _ _ b =>
    match b with
    | .flt _ => false
    | _ => true
  | .vmov _ _ b | .vnot _ _ b | .vneg _ _ b | .vabs _ _ b | .vpopc _ _ b | .vclz _ _ b | .vbrev _ _ b =>
    match b with
    | .flt _ | .lit => false
    | _ => true
  | .vbfe _ _ b | .vbfi _ _ b =>
    let l := h.literal.toNat
    (match b with
     | .flt _ | .lit => false
     | _ => true) && decide (l / 2 ^ 8 % 64 ≠ 0 ∧ l / 2 ^ 8 % 64 ≤ 32 ∧ l / 2 ^ 14 = 0 ∧ l / 32 % 8 = 0)
  | .vbcast _ _ b =>
    (match b with
     | .flt _ | .lit => false
     | _ => true) && decide (h.literal.toNat < width)
  | .vrand _ _ b =>
    match b with
    | .s _ | .int _ | .lit => true
    | _ => false
  | .vcvt _ _ src _ _ b =>
    match b, src with
    | .flt _, .int8 | .flt _, .int32 | .flt _, .uint8 => false
    | _, _ => true
  | .vatom _ op vd _ _ | .vatoms _ op vd _ _ => !h.w64 || (op.scalarOk && evenOk vd)
  | .vcas _ vd _ _ | .vatomsCas _ vd _ _ => !h.w64 || quadOk vd
  | .satom _ _ _ w64 _ => h.mod.all fun m => m.w64 == w64
  | .scas _ _ _ w64 => h.mod.all fun m => m.w64 == w64
  | _ => true

/-- The b constants 0xF0 to 0xF7 as sign, mantissa and exponent (spec/03 R69): ±0.5, ±1, ±2, ±4. -/
def fltConst (k : Fin 8) : Val := .fin (decide (k.val % 2 = 1)) 1 ((k.val / 2 : Nat) - 1)

/-- The signed value of an integer code 0xC0 to 0xEF (spec/03 R69). -/
def intCode (k : Fin 48) : Int := if k.val < 32 then k.val else (k.val : Int) - 48

/-- The value of a scalar integer code (spec/03 R70). -/
def sIntCode (k : Fin 192) : Int := (k.val : Int) - 64

/-- The bits of v-register r, lane l. -/
def Regs.lane (r : Regs) (n l : Nat) : Word := r.v.get (64 * n + l)

/-- A scalar register. -/
def Regs.scalar (r : Regs) (n : Nat) : Word := r.s.get n

/-- A scalar pair, low half first (spec/01 R24). -/
def Regs.pair (r : Regs) (n : Nat) : DWord := pairOf (r.s.get n) (r.s.get (n + 1))

/-- A mask register. -/
def Regs.mask (r : Regs) (n : Nat) : DWord := r.m.get n

/-- The vector b operand of an integer operation in lane l (spec/03 R69). -/
def Issue.vint (i : Issue) (b : VSrc) (l : Nat) : Word :=
  match b with
  | .v n => i.src.lane n.toNat l
  | .s n => i.src.scalar n.toNat
  | .int k => BitVec.ofInt 32 (intCode k)
  | .flt _ => 0
  | .lit => i.held.literal
  | .lane => BitVec.ofNat 32 l

/-- The vector b operand of an operation in a float format, as its code (spec/03 R69, spec/05 R125). -/
def Issue.vflt (i : Issue) (f : FFmt) (b : VSrc) (l : Nat) : Nat :=
  match b with
  | .v n => (i.src.lane n.toNat l).toNat
  | .s n => (i.src.scalar n.toNat).toNat
  | .int k => (f.round .rne false 0 (Val.ofInt (intCode k))).1
  | .flt k => (f.round .rne false 0 (fltConst k)).1
  | .lit => i.held.literal.toNat
  | .lane => (f.round .rne false 0 (Val.ofInt l)).1

/-- The vector b operand of a packed-half operation: constants stand in both halves (spec/03 R69). -/
def Issue.vhalf (i : Issue) (f : FFmt) (b : VSrc) (l : Nat) : Nat :=
  match b with
  | .v _ | .s _ | .lit => i.vflt f b l
  | _ => i.vflt f b l * 65537

/-- The scalar b operand: a hint literal replaces it (spec/04 R94). -/
def Issue.sint (i : Issue) (b : SSrc) : Word :=
  if i.held.hasLiteral then i.held.literal
  else match b with
    | .s n => i.src.scalar n.toNat
    | .int k => BitVec.ofInt 32 (sIntCode k)

/-- The scalar b operand of a float operation, as FP32 bits (spec/04 R94). -/
def Issue.sflt (i : Issue) (b : SSrc) : Nat :=
  if i.held.hasLiteral then i.held.literal.toNat
  else match b with
    | .s n => (i.src.scalar n.toNat).toNat
    | .int k => (FFmt.fp32.round .rne false 0 (Val.ofInt (sIntCode k))).1

/-- The lanes of a mask, ascending. -/
def lanesOf (m : DWord) : List Nat := (List.range 64).filter fun l => m.getLsbD l

/-- The lowest lane of a mask (spec/00 R11). -/
def leaderOf (m : DWord) : Nat := (lanesOf m).headD 0

/-- The mask of a list of lanes. -/
def maskOf (ls : List Nat) : DWord := ls.foldl (fun m l => m ||| (1#64 <<< l)) 0

/-- Lanes 0 to W − 1 (spec/01 R15). DEDUCED, log entry 71. -/
def laneMask (width : Nat) : DWord := if 64 ≤ width then ~~~0#64 else (1#64 <<< width) - 1#64

/-- The active lanes: the bundle under the guard (spec/05 R124). -/
def Issue.active (i : Issue) : DWord :=
  match i.held.guard with
  | none => i.lanes
  | some (inv, m) => i.lanes &&& (if inv then ~~~(i.src.mask m.toNat) else i.src.mask m.toNat)

/-- The active lanes, ascending. -/
def Issue.activeLanes (i : Issue) : List Nat := lanesOf i.active

/-- The lane on whose behalf a scalar-side instruction acts (spec/00 R11). -/
def Issue.leader (i : Issue) : Nat := leaderOf i.lanes

/-- The rounding mode in force: the RND hint, else RMODE (spec/02 R49). -/
def Issue.mode (i : Issue) (w : Wave) : RMode :=
  match i.held.rnd with
  | some m => RMode.ofCode m.toNat
  | none => RMode.ofCode w.fmode.toNat

/-- The 16 random bits of RSR for a lane, low or high half of its word (spec/02 R50). -/
def Issue.rsr (i : Issue) (w : Wave) (l : Nat) (high : Bool) : Nat :=
  let x := (vrand w.seed (i.src.scalar 63) l).toNat
  if high then x / 65536 else x % 65536

/-- The sources that the scoreboard checks: those of the instruction, the guard mask, and s63 where a rounding draws its bits
from it (spec/04 R120, spec/02 R50). -/
def Instr.reads (i : Instr) (h : Hints) (rsr : Bool) : List RegName :=
  Instr.sources h i ++ (match h.guard with
    | some (_, m) => [RegName.m m.toNat]
    | none => []) ++ (if rsr then [RegName.s 63] else [])

/-- Whether the rounding of an instruction may draw RSR bits (spec/02 R50). -/
def Instr.drawsRsr (i : Instr) (mode : RMode) : Bool :=
  (match i with
   | .vcvt _ _ _ .rsr _ _ => true
   | .vcvt _ _ _ .dynamic _ _ => decide (mode = .rsr)
   | .vfmin _ _ _ _ | .vfmax _ _ _ _ | .vfclass _ _ _ _ | .vsel _ _ _ _ | .sfmin _ _ _ _ | .sfmax _ _ _ _ => false
   | .vredu _ _ fl op _ => fl && decide (op = .add ∧ mode = .rsr)
   | .vscan _ _ fl op _ _ => fl && decide (op = .add ∧ mode = .rsr)
   | j => (Instr.accepts j).rnd && decide (mode = .rsr))

end Sys2Proof.Machine
end

