-- ==== Sys2Proof/Machine/Flags.lean ====
section
/-! DEFINITION. Results with their flags: the float operations on codes (spec/05 R127 to R136, spec/04 R97 to R100), the scalar
condition, the fold of cross-lane operations (spec/05 R140), the draws (spec/04 R100, spec/05 R144, R145) and the block-float
add (spec/02 R61). -/

namespace Sys2Proof.Machine

/-- A result and the flags it raises. -/
abbrev Flagged (α : Type) := α × FFlags

/-- Absolute value, then negation (spec/03 R66). -/
def modified (ab ng : Bool) (v : Val) : Val :=
  let a := if ab && v.sign then v.neg else v
  if ng then a.neg else a

/-- The source modifiers of the MOD hint on operands a and b. -/
def Hints.modA (h : Hints) (v : Val) : Val := match h.mod with
  | some m => modified m.aa m.na v
  | .none => v
def Hints.modB (h : Hints) (v : Val) : Val := match h.mod with
  | some m => modified m.ab m.nb v
  | .none => v

/-- MOD SAT and MOD HF (spec/03 R66). -/
def Hints.sat (h : Hints) : Bool := match h.mod with
  | some m => m.sat
  | .none => false
def Hints.half (h : Hints) : FFmt := match h.mod with
  | some m => if m.hf then .fp16 else .bf16
  | .none => .bf16

/-- MOD ORD: acquire and release (spec/06 R163). -/
def Hints.ord (h : Hints) : Nat := match h.mod with
  | some m => m.ord.toNat
  | .none => 0

/-- The mask that `vsel` selects by (spec/05 R130). -/
def Hints.sel (h : Hints) : Nat := match h.mod with
  | some m => m.sel.toNat
  | .none => 0

/-- The SCOPE hint, device without one (spec/01 R40). -/
def Hints.scopeOr (h : Hints) : Nat := match h.scope with
  | some c => c.toNat
  | .none => 4

/-- The CACHE hint asks to bypass L1 (spec/03 R65, spec/13 R319). -/
def Hints.bypass (h : Hints) : Bool := decide (h.cache = some 3)

/-- Round an exact result with the flags of its computation. -/
def FFmt.finish (f : FFmt) (mode : RMode) (sat : Bool) (q : Nat) (z : Val × FFlags) : Flagged Nat :=
  let r := f.round mode sat q z.1
  (r.1, z.2 ||| r.2)

/-- The lesser of two values with −0 below +0; NaN only where both are NaN (spec/05 R128). -/
def minVal (x y : Val) : Val :=
  if x.isNan then y else if y.isNan then x
  else match x.cmp y with
    | .lt => x
    | .gt => y
    | .eq => if x.sign then x else y

/-- The greater of two values with −0 below +0; NaN only where both are NaN (spec/05 R128). DEDUCED, log entry 21. -/
def maxVal (x y : Val) : Val :=
  if x.isNan then y else if y.isNan then x
  else match x.cmp y with
    | .gt => x
    | .lt => y
    | .eq => if x.sign then y else x

/-- The float operations of two operands and an addend (spec/05 R127, R128, spec/04 R97). -/
inductive FOp where
  | add | sub | mul | fma | min | max
  deriving DecidableEq, Repr

/-- The exact result of a float operation. -/
def FOp.eval (o : FOp) (mode : RMode) (x y z : Val) : Val × FFlags :=
  match o with
  | .add => x.add mode y
  | .sub => x.add mode y.neg
  | .mul => x.mul y
  | .fma => Val.fma mode x y z
  | .min => (minVal x y, 0)
  | .max => (maxVal x y, 0)

/-- A float operation on codes, with the modifiers of a hint. -/
def FFmt.apply (f : FFmt) (o : FOp) (h : Hints) (mode : RMode) (q x y z : Nat) : Flagged Nat :=
  f.finish mode h.sat q (o.eval mode (h.modA (f.decode x)) (h.modB (f.decode y)) (f.decode z))

/-- A packed operation: each half on its own, the high half with the upper random bits (spec/05 R129). -/
def packed (g : Nat → Nat → Nat → Nat → Flagged Nat) (qlo qhi x y z : Nat) : Flagged Nat :=
  let lo := g qlo (x % 65536) (y % 65536) (z % 65536)
  let hi := g qhi (x / 65536) (y / 65536) (z / 65536)
  (hi.1 % 65536 * 65536 + lo.1 % 65536, lo.2 ||| hi.2)

/-- The float functions of one operand (spec/05 R133). -/
inductive FFun where
  | rcp | rsq | sqrt | exp2 | log2 | sin | cos | tanh
  deriving DecidableEq, Repr

/-- The exact value of a function, with a sticky bit where it is irrational. -/
def FFun.eval : FFun → Val → Val × FFlags
  | .rcp => rcpVal
  | .rsq => rsqVal
  | .sqrt => sqrtOf
  | .exp2 => exp2Val
  | .log2 => log2Val
  | .sin => sinVal
  | .cos => cosVal
  | .tanh => tanhVal

/-- Round to an integral value in the same format; no flag (spec/05 R134). -/
def FFmt.roundIntegral (f : FFmt) (mode : RMode) (q x : Nat) : Nat :=
  match f.decode x with
  | .nan => f.nan
  | .inf _ => x % (2 * f.signBit)
  | .fin neg m e =>
    let r := roundInt mode q neg m e
    (f.round .rne false 0 (.fin neg r.1.natAbs 0)).1

/-- The class mask of a code (spec/05 R134). -/
def FFmt.classOf (f : FFmt) (x : Nat) : Nat :=
  match f.decode x with
  | .nan => 2 ^ 8
  | .inf neg => if neg then 1 else 2 ^ 7
  | .fin neg m _ =>
    let sub := decide (x % f.signBit < 2 ^ f.fracBits)
    if m = 0 then (if neg then 2 ^ 3 else 2 ^ 4)
    else if sub then (if neg then 2 ^ 2 else 2 ^ 5)
    else if neg then 2 ^ 1 else 2 ^ 6

/-- The float format of a conversion index, if it is one (spec/03 R74). -/
def CvtFmt.float? : CvtFmt → Option FFmt
  | .fp32 => some .fp32
  | .bf16 => some .bf16
  | .fp16 => some .fp16
  | .e4m3 => some .e4m3
  | .e5m2 => some .e5m2
  | .int8 | .int32 | .uint8 => .none

/-- The exact source value of a conversion (spec/05 R135). -/
def CvtFmt.source (c : CvtFmt) (x : Nat) : Val :=
  match c with
  | .fp32 => FFmt.decode .fp32 x
  | .bf16 => FFmt.decode .bf16 (x % 65536)
  | .fp16 => FFmt.decode .fp16 (x % 65536)
  | .e4m3 => FFmt.decode .e4m3 (x % 256)
  | .e5m2 => FFmt.decode .e5m2 (x % 256)
  | .int8 => Val.ofInt (BitVec.ofNat 8 x).toInt
  | .int32 => Val.ofInt (BitVec.ofNat 32 x).toInt
  | .uint8 => Val.ofInt (x % 256 : Nat)

/-- The result of a conversion, in the low bits (spec/05 R135, spec/02 R52). -/
def CvtFmt.result (c : CvtFmt) (mode : RMode) (sat : Bool) (q : Nat) (v : Val) : Flagged Nat :=
  match c with
  | .fp32 => FFmt.round .fp32 mode sat q v
  | .bf16 => FFmt.round .bf16 mode sat q v
  | .fp16 => FFmt.round .fp16 mode sat q v
  | .e4m3 => FFmt.round .e4m3 mode sat q v
  | .e5m2 => FFmt.round .e5m2 mode sat q v
  | .int8 => let r := toIntSat (-128) 127 mode q v; ((BitVec.ofInt 8 r.1).toNat, r.2)
  | .int32 => let r := toIntSat (-2147483648) 2147483647 mode q v; ((BitVec.ofInt 32 r.1).toNat, r.2)
  | .uint8 => let r := toIntSat 0 255 mode q v; ((BitVec.ofInt 8 r.1).toNat, r.2)

/-- The format of an `sfcvt` code (spec/04 R99). -/
def cvtOfCode (c : BitVec 4) : CvtFmt :=
  match c.toNat with
  | 0 => .fp32
  | 1 => .bf16
  | 2 => .fp16
  | 3 => .e4m3
  | 4 => .e5m2
  | _ => .int32

/-- An integer condition (spec/03 R75). -/
def ICond.eval (c : ICond) (x y : Word) : Bool :=
  match c with
  | .eq => decide (x = y)
  | .ne => decide (x ≠ y)
  | .lt => x.slt y
  | .le => x.sle y
  | .gt => y.slt x
  | .ge => y.sle x
  | .ltu => x.ult y
  | .leu => x.ule y
  | .gtu => y.ult x
  | .geu => y.ule x

/-- A float condition; −0 equals +0, and NaN is unordered (spec/05 R136). -/
def FCond.eval (c : FCond) (x y : Val) : Bool :=
  let un := x.isNan || y.isNan
  let o := x.cmp y
  match c with
  | .eq => !un && decide (o = .eq)
  | .ne => un || decide (o ≠ .eq)
  | .lt => !un && decide (o = .lt)
  | .le => !un && decide (o ≠ .gt)
  | .gt => !un && decide (o = .gt)
  | .ge => !un && decide (o ≠ .lt)
  | .ord => !un
  | .unord => un

/-- The carry out of bit 31 of x + y + c (spec/04 R95). -/
def carryOut (x y : Word) (c : Bool) : Bool := decide (2 ^ 32 ≤ x.toNat + y.toNat + (if c then 1 else 0))

/-- The borrow of x − y − c (spec/04 R95). -/
def borrowOut (x y : Word) (c : Bool) : Bool := decide (x.toNat < y.toNat + (if c then 1 else 0))

/-- The high word of the signed product (spec/04 R95, spec/05 R126). -/
def mulHigh (x y : Word) : Word := BitVec.ofInt 32 (x.toInt * y.toInt / 2 ^ 32)

/-- Shift amounts use bits [4:0] (spec/04 R95, spec/05 R126). -/
def shiftBy (y : Word) : Nat := y.toNat % 32

/-- Lesser and greater, signed and unsigned. -/
def minS (x y : Word) : Word := if x.slt y then x else y
def maxS (x y : Word) : Word := if x.slt y then y else x
def minU (x y : Word) : Word := if x.ult y then x else y
def maxU (x y : Word) : Word := if x.ult y then y else x

/-- |x − y|, the difference exact (spec/05 R126). -/
def absDiff (x y : Word) : Word := BitVec.ofNat 32 (x.toInt - y.toInt).natAbs

/-- Number of set bits. -/
def popCount {n : Nat} (x : BitVec n) : Nat := ((List.range n).filter fun i => x.getLsbD i).length

/-- Number of leading zero bits; 32 for zero. -/
def leadingZeros (x : Word) : Nat := if x = 0 then 32 else 31 - Nat.log2 x.toNat

/-- Bit i moved to bit 31 − i. -/
def reverseBits (x : Word) : Word := x.reverse

/-- Bits [min(o+w, 32)−1 : o] of x, zero-extended (spec/04 R96, spec/05 R132). -/
def extractField (x : Word) (o w : Nat) : Word := BitVec.ofNat 32 (x.toNat / 2 ^ o % 2 ^ (min (o + w) 32 - o))

/-- d with bits [min(o+w, 32)−1 : o] replaced by the low bits of x (spec/05 R132). -/
def insertField (d x : Word) (o w : Nat) : Word :=
  let m : Word := BitVec.ofNat 32 ((2 ^ (min (o + w) 32 - o) - 1) * 2 ^ o)
  (d &&& ~~~m) ||| ((x <<< o) &&& m)

/-! ### Folds (spec/05 R140) -/

/-- The identity of an exclusive fold. -/
def RedOp.identity (o : RedOp) (fl : Bool) : Word :=
  match o, fl with
  | .add, _ => 0
  | .min, false => 0x7FFFFFFF
  | .min, true => 0x7F800000
  | .max, false => 0x80000000
  | .max, true => 0xFF800000
  | .and, _ => 0xFFFFFFFF
  | .or, _ => 0

/-- One step of a fold, with the random bits of the lane that it adds. -/
def RedOp.combine (o : RedOp) (fl : Bool) (mode : RMode) (q : Nat) (x y : Word) : Flagged Word :=
  let f (g : FOp) : Flagged Word :=
    let r := FFmt.fp32.finish mode false q (g.eval mode (FFmt.fp32.decode x.toNat) (FFmt.fp32.decode y.toNat) .nan)
    (BitVec.ofNat 32 r.1, r.2)
  match o, fl with
  | .add, false => (x + y, 0)
  | .min, false => (minS x y, 0)
  | .max, false => (maxS x y, 0)
  | .and, _ => (x &&& y, 0)
  | .or, _ => (x ||| y, 0)
  | .add, true => f .add
  | .min, true => f .min
  | .max, true => f .max

/-- The running folds after each lane, in ascending lane order: the lane, the fold before it and the fold with it, and the
flags up to there. -/
def foldLanes (o : RedOp) (fl : Bool) (mode : RMode) (q : Nat → Nat) (va : Nat → Word) :
    Option (Flagged Word) → List Nat → List (Nat × Option (Flagged Word) × Flagged Word)
  | _, [] => []
  | .none, l :: t => (l, .none, (va l, 0)) :: foldLanes o fl mode q va (some (va l, 0)) t
  | some acc, l :: t =>
    let r := RedOp.combine o fl mode (q l) acc.1 (va l)
    let new := (r.1, acc.2 ||| r.2)
    (l, some acc, new) :: foldLanes o fl mode q va (some new) t

/-! ### Draws (spec/04 R100, spec/05 R144, R145, spec/02 R59) -/

/-- A draw triple: index, mass and maximum logit, the last two as FP32 codes. -/
structure Triple where
  idx : Word
  mass : Nat
  top : Nat
  deriving DecidableEq, Repr

/-- The triple of a draw over nothing. -/
def Triple.zero : Triple := { idx := 0xFFFFFFFF, mass := 0, top := 0xFF800000 }

def dec32 (x : Nat) : Val := FFmt.fp32.decode x
def rne32 (z : Val × FFlags) : Flagged Nat := FFmt.fp32.finish .rne false 0 z

/-- RoundRNE_FP32((x − m) · c), the difference and the product exact, then 2 to that power, rounded (spec/05 R144). -/
def expWeight (x m c : Val) : Flagged Nat :=
  let d := x.add .rne m.neg
  let p := d.1.mul c
  let t := rne32 (p.1, d.2 ||| p.2)
  let w := rne32 (exp2Val (dec32 t.1))
  (w.1, t.2 ||| w.2)

/-- Whether a coin keeps the left side (spec/02 R59). -/
def keepsLeft (coin sum left : Nat) : Flagged Bool :=
  let p := rne32 ((Val.fin false coin (-24)).mul (dec32 sum))
  ((dec32 p.1).lt (dec32 left), p.2)

/-- One side of a merge with NaN, negative or infinite fields replaced (spec/04 R100). -/
def Triple.cleaned (t : Triple) : Flagged Triple :=
  let sv := dec32 t.mass
  let mv := dec32 t.top
  let bad := sv.isNan || (sv.sign && !sv.isZero) || decide (sv = .inf false) || mv.isNan || decide (mv = .inf false)
  if bad then (Triple.zero, fInvalid) else (t, 0)

/-- A side with no mass. -/
def Triple.isEmpty (t : Triple) : Bool := (dec32 t.mass).isZero || decide (dec32 t.top = .inf true)

/-- Of two logits the second is the greater, with −0 below +0 (spec/04 R97, spec/05 R128). DEDUCED, log entry 21. -/
def logitBelow (a b : Val) : Bool := a.lt b || (a.isZero && b.isZero && a.sign && !b.sign)

/-- The merge of two triples under an inverse temperature and a coin (spec/04 R100). DEDUCED, log entry 21. -/
def mergeDraws (c : Nat) (coin : Nat) (a b : Triple) : Flagged Triple :=
  let cv := dec32 c
  if cv.isNan || (cv.sign && !cv.isZero) then (Triple.zero, fInvalid)
  else
    let ca := a.cleaned
    let cb := b.cleaned
    let fl := ca.2 ||| cb.2
    let a := ca.1
    let b := cb.1
    if a.isEmpty && b.isEmpty then (Triple.zero, fl)
    else if a.isEmpty then (b, fl)
    else if b.isEmpty then (a, fl)
    else
      let ma := dec32 a.top
      let mb := dec32 b.top
      if cv = .inf false then
        match ma.cmp mb with
        | .gt => (a, fl)
        | .lt => (b, fl)
        | .eq =>
          let s := rne32 ((dec32 a.mass).add .rne (dec32 b.mass))
          ({ idx := minU a.idx b.idx, mass := s.1, top := a.top }, fl ||| s.2)
      else
        let m := if logitBelow ma mb then b.top else a.top
        let wa := expWeight ma (dec32 m) cv
        let wb := expWeight mb (dec32 m) cv
        let sa := rne32 ((dec32 a.mass).mul (dec32 wa.1))
        let sb := rne32 ((dec32 b.mass).mul (dec32 wb.1))
        let s := rne32 ((dec32 sa.1).add .rne (dec32 sb.1))
        let k := keepsLeft coin s.1 sa.1
        ({ idx := if k.1 then a.idx else b.idx, mass := s.1, top := m },
         fl ||| wa.2 ||| wb.2 ||| sa.2 ||| sb.2 ||| s.2 ||| k.2)

/-- One node of the tree of `vdraw`: the join of its children (spec/05 R144). DEDUCED, log entry 21. -/
def drawNode (coin : Nat) (l r : Option (Nat × Nat)) : Flagged (Option (Nat × Nat)) :=
  match l, r with
  | .none, x => (x, 0)
  | x, .none => (x, 0)
  | some a, some b =>
    let s := rne32 ((dec32 a.2).add .rne (dec32 b.2))
    let k := keepsLeft coin s.1 a.2
    (some (if k.1 then a.1 else b.1, s.1), s.2 ||| k.2)

/-- The nodes of one level, from the left, n the number of the first. -/
def drawLevel (coin : Nat → Nat) : Nat → List (Option (Nat × Nat)) → List (Option (Nat × Nat)) × FFlags
  | n, l :: r :: t =>
    let x := drawNode (coin n) l r
    let rest := drawLevel coin (n + 1) t
    (x.1 :: rest.1, x.2 ||| rest.2)
  | _, l => (l, 0)

/-- The tree from a level of 2^k nodes up to the root. -/
def drawTree (coin : Nat → Nat) : Nat → List (Option (Nat × Nat)) → Option (Nat × Nat) × FFlags
  | 0, l => (l.headD .none, 0)
  | k + 1, l =>
    let x := drawLevel coin (2 ^ k) l
    let r := drawTree coin k x.1
    (r.1, x.2 ||| r.2)

/-- `vdraw` over the active lanes of a wave of 2^k lanes (spec/05 R144, R145); none where no lane is active. Of zeros that tie for the
maximum, +0 is it. DEDUCED, log entry 21. -/
def drawLanes (k : Nat) (active : List Nat) (logit : Nat → Nat) (c : Nat) (coin : Nat → Nat) : Option (Flagged Triple) :=
  if active = [] then .none
  else
    let cv := dec32 c
    if cv.isNan || (cv.sign && !cv.isZero) then some (Triple.zero, fInvalid)
    else
      let bad (l : Nat) : Bool := let x := dec32 (logit l); x.isNan || decide (x = .inf false)
      let x (l : Nat) : Val := if bad l then .inf true else dec32 (logit l)
      let fl : FFlags := if active.any bad then fInvalid else 0
      let real := active.filter fun l => !decide (x l = .inf true)
      match real with
      | [] => some (Triple.zero, fl)
      | l0 :: _ =>
        let top := real.foldl (fun m l => if logitBelow (x m) (x l) then l else m) l0
        let m := x top
        if cv = .inf false then
          let same := real.filter fun l => decide ((x l).cmp m = .eq)
          some ({ idx := BitVec.ofNat 32 (same.headD 0), mass := (FFmt.fp32.round .rne false 0 (Val.ofInt same.length)).1,
                  top := logit top }, fl)
        else
          let ws := real.map fun l => (l, expWeight (x l) m cv)
          let leaf (l : Nat) : Option (Nat × Nat) :=
            match findKey l ws with
            | some w => if (dec32 w.1).isZero then .none else some (l, w.1)
            | .none => .none
          let r := drawTree coin k ((List.range (2 ^ k)).map leaf)
          let wf := ws.foldl (fun f w => f ||| w.2.2) 0
          match r.1 with
          | some p => some ({ idx := BitVec.ofNat 32 p.1, mass := p.2, top := logit top }, fl ||| wf ||| r.2)
          | .none => some (Triple.zero, fl ||| wf)

/-! ### The block-float accumulator (spec/02 R60, R61) -/

/-- m · 2^(−d) to the nearest integer, ties to even, and whether a bit was dropped. -/
def shiftRne (m : Int) (d : Nat) : Int × Bool := roundInt .rne 0 (decide (m < 0)) m.natAbs (-(d : Int))

/-- An object: exponent, flags [2:0], mantissas. -/
structure BlockFloat where
  e : Int
  flags : BitVec 3
  m : List Int
  deriving DecidableEq, Repr

/-- The terms at an exponent: for each element the sum, whether it fits, and whether a bit was dropped. A mantissa at or beyond 2^62 does not
fit, whatever the sum (spec/02 R60). -/
def BlockFloat.terms (b : BlockFloat) (adds : List (Option Val)) (e2 : Int) : List (Int × Bool × Bool) :=
  (b.m.zip adds).map fun p =>
    let a := match p.2 with
      | some (.fin neg m e) => roundInt .rne 0 neg m (e + 56 - e2)
      | _ => (0, false)
    let s := shiftRne p.1 (e2 - b.e).toNat
    let t := s.1 + a.1
    (t, decide (a.1.natAbs < 2 ^ 62 ∧ s.1.natAbs < 2 ^ 62 ∧ t.natAbs < 2 ^ 62), a.2 || s.2)

/-- The rescale loop: the first exponent at which the terms fit, or 32,767. -/
def BlockFloat.settle (b : BlockFloat) (adds : List (Option Val)) : Nat → Int → Int
  | 0, e2 => e2
  | n + 1, e2 => if (b.terms adds e2).all (fun t => t.2.1) || decide (32767 ≤ e2) then e2 else BlockFloat.settle b adds n (e2 + 1)

/-- One operation: an addend for each of the seven elements, or none (spec/02 R61). The exponent has 16 bits, so the loop takes
fewer than 70,000 steps. -/
def BlockFloat.add (b : BlockFloat) (adds : List (Option Val)) : BlockFloat :=
  let bad := adds.any fun a => match a with
    | some (.fin _ _ _) => false
    | some _ => true
    | .none => false
  let e2 := b.settle adds 70000 b.e
  let ts := b.terms adds e2
  let fits := ts.all fun t => t.2.1
  let lim : Int := 2 ^ 62 - 1
  { e := e2
    flags := b.flags ||| (if bad then 4 else 0) ||| (if fits then 0 else 2) ||| (if ts.any (fun t => t.2.2) then 1 else 0)
    m := ts.map fun t => if fits then t.1 else max (-lim) (min lim t.1) }

end Sys2Proof.Machine
end

