-- ==== Sys2Proof/Machine/Reserve.lean ====
section
/-! DEFINITION. What the scheduler decides after every change of what waits or of the room: the room of a core, the order of candidates,
the reservation, and its pre-emption requests (spec/12 R301 to R307, R315, spec/11 R279). -/

namespace Sys2Proof.Machine

/-! ### Targets of a scan, claims and runs -/

/-- The cores of a scan. DEDUCED, log entry 99. -/
def Scan.cores (x : Scan) : List Nat :=
  ((List.range 4).filter fun k => x.mask.getLsbD k).map fun k => (x.die * 48 + x.clus) * 4 + k

/-- The scan facility holds a core. -/
def State.scanHolds (s : State) (core : Nat) : Bool := s.scanning.any fun x => !x.abort && x.cores.contains core

/-- The tiles and slots that a team holds in a cluster. -/
def Cluster.claimed (c : Cluster) (team : Nat) : Bool :=
  (c.tiles.any fun e => decide (e.2.holder = some team)) || c.slots.any fun e => decide (e.2.holder = some team)

/-- The lowest number from which n lines or pages are free below a limit. -/
def firstFit (used : List (Nat × Nat)) (limit n : Nat) : Option Nat :=
  (0 :: used.map fun u => u.1 + u.2).foldl (fun best p =>
    if decide (p + n ≤ limit) && used.all (fun u => decide (p + n ≤ u.1 ∨ u.1 + u.2 ≤ p)) then
      match best with
      | some b => some (min b p)
      | none => some p
    else best) none

/-! ### Room (spec/12 R306) -/

/-- The free wave slots of a core, and the runs of scratchpad lines that allocations take. -/
structure Room where
  core : Nat
  free : Nat
  used : List (Nat × Nat)
  deriving DecidableEq, Repr

/-- The room of a core. -/
def State.room (s : State) (core : Nat) : Room :=
  { core := core
    free := 16 - (s.waves.filter fun e => decide (coreOf e.1 = core)).length
    used := (s.teams.filter fun e => decide (e.2.core = core ∨ (e.2.paired = true ∧ e.2.core + 1 = core))).map fun e =>
      (e.2.spadBase, e.2.spadLines) }

/-- The rooms of the cores of a cluster. -/
def State.rooms (s : State) (clus : Nat) : List Room := (List.range 4).map fun k => s.room (clus * 4 + k)

/-- A core takes placements: it is in the logical core map, its die runs, and no scan holds it (spec/12 R306, spec/15 R365, R368). -/
def State.usable (s : State) (core : Nat) : Bool :=
  decide (core < 768) && !s.cmapOff.contains core && decide ((s.die (dieOf (clusOf core))).park = 0) && !s.scanHolds core

/-- Waves of a paired team on the even core. -/
def evenWaves (n : Nat) : Nat := (n + 1) / 2

/-- The first core where a team under single placement fits, and the line at which its run starts. -/
def placeSingle (h : Header) (ok : Nat → Bool) : List Room → Option (Nat × Nat)
  | [] => none
  | r :: t =>
    if ok r.core && decide (h.team ≤ r.free) then
      match firstFit r.used 3072 h.spad with
      | some b => some (r.core, b)
      | none => placeSingle h ok t
    else placeSingle h ok t

/-- The first pair where a team under paired placement fits: its even core and the line at which both runs start. -/
def placePair (h : Header) (ok : Nat → Bool) : List Room → Option (Nat × Nat)
  | a :: b :: t =>
    if ok a.core && ok b.core && decide (evenWaves h.team ≤ a.free ∧ h.team / 2 ≤ b.free) then
      match firstFit (a.used ++ b.used) 3072 h.spad with
      | some x => some (a.core, x)
      | none => placePair h ok t
    else placePair h ok t
  | _ => none

/-- Where a kernel's team fits among rooms. DESIGN CHOICE, log entry 78. -/
def findPlace (h : Header) (ok : Nat → Bool) (rs : List Room) : Option (Nat × Nat) := if h.paired then placePair h ok rs else placeSingle h ok rs

/-- The rooms after a team has been placed. -/
def takeRoom (h : Header) (core base : Nat) (rs : List Room) : List Room :=
  rs.map fun r =>
    let n := if r.core = core then (if h.paired then evenWaves h.team else h.team)
      else if h.paired ∧ r.core = core + 1 then h.team / 2 else 0
    if r.core = core ∨ (h.paired = true ∧ r.core = core + 1) then { r with free := r.free - n, used := (base, h.spad) :: r.used } else r

/-! ### Candidates (spec/12 R301, R305) -/

/-- What waits for distribution or placement, as the order of candidates sees it: an item by its number, or the next team of a launch by
the launch's number. `launch` is the launch it belongs to as a team or a continuation. -/
structure Cand where
  key : Nat
  ctx : Nat
  hdr : Header
  prio : Nat
  since : Nat
  aged : Bool
  overspent : Bool
  launch : Option Nat
  continuation : Bool
  order : Nat
  number : Nat
  only : Option Nat
  deriving DecidableEq, Repr

/-- The base priority of the undistributed teams of a launch: its queue's override, or its record's PRIO. -/
def State.launchPrio (s : State) (l : Launch) : Nat :=
  (((s.queues.get? (l.ctx * 64 + l.queue)).bind (·.override))).getD l.prio

/-- Some launch of a list has passed its budget (spec/12 R303). DEDUCED, log entry 80. -/
def State.overBudget (s : State) (ls : List Nat) : Bool := ls.any fun k => (s.launches.get? k).any (·.overBudget)

/-- The oldest of a list of launches. DEDUCED, log entry 81. -/
def oldestLaunch : List Nat → Nat
  | [] => 2 ^ 64
  | k :: t => min k (oldestLaunch t)

/-- An item as a candidate; a saved team waits as one too (spec/12 R301, R315). DEDUCED, log entry 81. -/
def State.itemCand (s : State) (key : Nat) (it : Item) : Option Cand :=
  let base : Cand :=
    { key := key, ctx := it.ctx, hdr := it.hdr, prio := it.prio, since := it.since, aged := it.aged, overspent := false, launch := none,
      continuation := false, order := 2 ^ 64, number := key, only := none }
  match it.kind with
  | .team k n => some { base with overspent := s.overBudget [k], launch := some k, order := k, number := n }
  | .brood b => some { base with overspent := s.overBudget b.launches, order := oldestLaunch b.launches, number := b.task }
  | .continuation sp =>
    let k := sp.team.launch.getD (2 ^ 64)
    some { base with overspent := s.overBudget [k], launch := sp.team.launch, continuation := true, order := k, number := sp.team.number }
  | .owner x =>
    match s.ctxSlots.get? x with
    | none => none
    | some c =>
      match c.wave with
      | none => none
      | some w =>
        some { base with
          overspent := s.overBudget w.launches
          order := oldestLaunch w.launches
          number := w.task
          only := if (s.cluster c.clus).claimed w.team then some c.clus else none }
  | .saved x =>
    match s.images.get? x with
    | none => none
    | some m =>
      let ls := m.waves.flatMap (·.launches)
      some { base with
        overspent := s.overBudget ls
        order := m.team.launch.getD (oldestLaunch ls)
        number := if m.team.launch.isSome then m.team.number else ((m.waves.head?).map (·.task)).getD 0 }

/-- Teams of a launch (spec/03 R91). -/
def Launch.total (l : Launch) : Nat := l.gx * l.gy * l.gz

/-- The next undistributed team of a launch as a candidate. -/
def State.launchCand (s : State) (key : Nat) (l : Launch) : Option Cand :=
  if (l.phase = .ready ∨ l.phase = .running) ∧ l.nextTeam < l.total then
    some { key := key, ctx := l.ctx, hdr := l.hdr, prio := s.launchPrio l, since := l.readyAt, aged := l.aged, overspent := l.overBudget,
           launch := some key, continuation := false, order := key, number := l.nextTeam, only := none }
  else none

/-- The admission allowance (spec/12 R303, spec/15 R361). -/
def State.allowance (s : State) : Nat := 7 - s.regs.cur

/-- The candidate may be distributed: its context is enabled and its energy class is admitted (spec/11 R279, spec/12 R303). DEDUCED, log
entry 75. -/
def State.admitted (s : State) (c : Cand) : Bool := decide ((s.context c.ctx).state = 1 ∧ c.hdr.energy ≤ s.allowance)

/-- The candidate is distributed: it waits in a local queue. -/
def State.distributed (s : State) (c : Cand) : Bool := (s.items.get? c.key).any fun it => it.clus.isSome

/-- The candidate waits to be distributed or placed, and nothing but room holds it back: a lowered allowance does not reach one that is
distributed (spec/12 R303). -/
def State.placeable (s : State) (c : Cand) : Bool :=
  decide ((s.context c.ctx).state = 1) && (s.distributed c || decide (c.hdr.energy ≤ s.allowance))

/-- The admitted items and teams that are not distributed. DEDUCED, log entry 80. -/
def State.undistributed (s : State) : List Cand :=
  ((s.items.filter fun e => e.2.clus.isNone).filterMap (fun e => s.itemCand e.1 e.2) ++
    s.launches.filterMap fun e => s.launchCand e.1 e.2).filter s.admitted

/-- A launch over its budget stands behind every other admitted item of its context that waits, distributed or not (spec/12 R303).
DEDUCED, log entry 80. -/
def withinBudget (cs : List Cand) (c : Cand) : Bool := !c.overspent || cs.all fun x => x.overspent || decide (x.ctx ≠ c.ctx)

/-- The items of a cluster's local queue. -/
def State.localQueue (s : State) (clus : Nat) : List Cand :=
  (s.items.filter fun e => decide (e.2.clus = some clus)).filterMap fun e => s.itemCand e.1 e.2

/-- The items of every local queue. -/
def State.localCands (s : State) : List Cand := (s.items.filter fun e => e.2.clus.isSome).filterMap fun e => s.itemCand e.1 e.2

/-- The entry line of the candidate's kernel stands in the instruction cache of a core. -/
def State.entryCached (s : State) (core : Nat) (c : Cand) : Bool :=
  match (s.translate c.ctx (dieOf (clusOf core)) (some (clusOf core)) ((c.hdr.va + c.hdr.entry) % 2 ^ 64)).2 with
  | .ok pa _ => ((s.core core).icache.get? (pa / 64)).isSome
  | .bad _ => false

/-- Key 4 of R305 on a core: 2 where the kernel's entry line is in its instruction cache, 1 where the kernel header is that of a task resident
there. What the cache of an implementation holds is left open: `more` names further items whose entry line it holds. DESIGN CHOICE, log
entry 79. -/
def State.affinity (s : State) (more : List Nat) (core : Nat) (c : Cand) : Nat :=
  if more.contains c.key || s.entryCached core c then 2
  else if s.waves.any fun e => decide (coreOf e.1 = core ∧ e.2.ctx = c.ctx ∧ e.2.hdr.va = c.hdr.va) then 1 else 0

/-- The order of R305, with the value of key 4; a continuation precedes its launch's unstarted teams (R310). DEDUCED, log entry 81. -/
def candBefore (aff : Cand → Nat) (a b : Cand) : Bool :=
  if a.aged ≠ b.aged then a.aged
  else if a.aged = true ∧ a.since ≠ b.since then decide (a.since < b.since)
  else if a.prio ≠ b.prio then decide (b.prio < a.prio)
  else if a.launch.isSome ∧ a.launch = b.launch ∧ a.continuation ≠ b.continuation then a.continuation
  else if aff a ≠ aff b then decide (aff b < aff a)
  else if a.since ≠ b.since then decide (a.since < b.since)
  else if a.ctx ≠ b.ctx then decide (a.ctx < b.ctx)
  else if a.order ≠ b.order then decide (a.order < b.order)
  else decide (a.number < b.number)

/-- The first candidate of a list. -/
def firstCand (aff : Cand → Nat) : List Cand → Option Cand
  | [] => none
  | a :: t => match firstCand aff t with
    | none => some a
    | some b => if candBefore aff b a then some b else some a

/-- The list in its order, by repeated choice of the first. -/
def inOrder (aff : Cand → Nat) : Nat → List Cand → List Cand
  | 0, _ => []
  | n + 1, l => match firstCand aff l with
    | none => []
    | some c => c :: inOrder aff n (l.filter fun x => !decide (x.key = c.key))

/-! ### The reservation (spec/12 R307) -/

/-- The kernel header of an item, or of the teams of a launch, by number. -/
def State.hdrOf (s : State) (key : Nat) : Option Header :=
  match s.items.get? key with
  | some it => some it.hdr
  | none => (s.launches.get? key).map (·.hdr)

/-- A core may hold a candidate: it is usable, and in the cluster that holds the candidate's claims (spec/12 R306). -/
def State.canUse (s : State) (c : Cand) (core : Nat) : Bool := s.usable core && c.only.all fun k => decide (clusOf core = k)

/-- A candidate may use a core: it may hold the candidate, and it is not reserved for another. DEDUCED, log entry 83. -/
def State.mayUse (s : State) (c : Cand) (core : Nat) : Bool :=
  s.canUse c core &&
    (match s.reservation with
     | none => true
     | some (k, r) => decide (k = c.key) || !(decide (core = r) || ((s.hdrOf k).any (·.paired) && decide (core = r + 1))))

/-- The candidate fits on some core of the package; that a core is reserved does not count (spec/12 R306). -/
def State.fitsSomewhere (s : State) (c : Cand) : Bool :=
  (List.range 192).any fun k => (findPlace c.hdr (s.canUse c) (s.rooms k)).isSome

/-- The aged candidates: distributed, undistributed, and saved teams of enabled contexts. -/
def State.agedCands (s : State) : List Cand :=
  ((s.items.filterMap fun e => s.itemCand e.1 e.2) ++ s.launches.filterMap fun e => s.launchCand e.1 e.2).filter fun c => c.aged && s.placeable c

/-- The occupied wave slots of a core, or of a pair. -/
def State.occupied (s : State) (paired : Bool) (core : Nat) : Nat :=
  let n (c : Nat) : Nat := (s.waves.filter fun e => decide (coreOf e.1 = c)).length
  n core + (if paired then n (core + 1) else 0)

/-- The core, or the even core of the pair, with the fewest occupied slots; the lowest number on a tie. -/
def State.emptiest (s : State) (c : Cand) : Option Nat :=
  let ok (k : Nat) : Bool := s.mayUse c k && (!c.hdr.paired || (decide (k % 2 = 0) && s.mayUse c (k + 1)))
  ((List.range 768).filter ok).foldl (fun best k =>
    match best with
    | none => some k
    | some b => if s.occupied c.hdr.paired k < s.occupied c.hdr.paired b then some k else some b) none

/-- What a reservation stands for is still waiting. DEDUCED, log entry 83. -/
def State.reservedStands (s : State) (key : Nat) : Bool :=
  (s.items.get? key).isSome || (s.launches.get? key).any fun l => (s.launchCand key l).isSome

/-- A reservation ends with its item, and the oldest aged item that fits nowhere reserves a core. A reservation stands although its core
leaves the core map, its die parks or a scan takes it: the spec does not say that it moves (spec/12 R307). DEDUCED, log
entry 83; DESIGN CHOICE, log entry 129. -/
def State.settleReservation (s : State) : State :=
  let s1 : State := match s.reservation with
    | some (k, _) => if s.reservedStands k then s else { s with reservation := none }
    | none => s
  if s1.reservation.isSome then s1
  else
    match firstCand (fun _ => 0) s1.agedCands with
    | none => s1
    | some c =>
      if s1.fitsSomewhere c then s1
      else
        match s1.emptiest c with
        | none => s1
        | some core =>
          { s1 with
            reservation := some (c.key, core)
            items := s1.items.map fun e => if e.1 = c.key then (e.1, { e.2 with clus := none }) else e }

/-! ### Pre-emption requests (spec/11 R279, spec/12 R315) -/

/-- A pre-emption request completes when no team of the context is resident (spec/11 R279, spec/15 R372). -/
def State.settlePreempt (s : State) (ctx : Nat) : State :=
  let c := s.context ctx
  if c.state = 2 ∧ s.teams.any (fun e => decide (e.2.ctx = ctx)) = false then s.setContext ctx { c with state := 3 } else s

/-- A pre-emption request for a context is accepted: its deadline runs, and its distributed items return. -/
def State.startPreempt (s : State) (ctx : Nat) : State :=
  let c := s.context ctx
  let s1 := s.setContext ctx { c with state := 2, preemptAt := s.clock.toNat, request := c.request + 1 }
  ({ s1 with items := s1.items.map fun e => if e.2.ctx = ctx then (e.1, { e.2 with clus := none }) else e } : State).settlePreempt ctx

/-- The highest base priority among the resident teams of a context. -/
def State.topPrio (s : State) (ctx : Nat) : Option Nat :=
  (s.teams.filter fun e => decide (e.2.ctx = ctx)).foldl (fun m e => match m with
    | none => some e.2.prio
    | some p => some (max p e.2.prio)) none

/-- The context that a request would name: the lowest highest priority, below 7; the higher number on a tie. -/
def State.lowestContext (s : State) : Option Nat :=
  (s.contexts.foldl (fun (m : Option (Nat × Nat)) e =>
    if e.2.state ≠ 1 then m
    else match s.topPrio e.1, m with
      | none, _ => m
      | some p, none => if p < 7 then some (e.1, p) else m
      | some p, some (c, q) => if p < 7 ∧ (p < q ∨ (p = q ∧ c < e.1)) then some (e.1, p) else m) none).map (·.1)

/-- The scheduler raises a request where an aged item of priority 7 of a pre-empting context fits nowhere and no request is pending. -/
def State.raisePreempt (s : State) : State :=
  if s.contexts.any fun e => decide (e.2.state = 2) then s
  else if s.agedCands.any fun c => decide (c.prio = 7) && (s.context c.ctx).preempting && !s.fitsSomewhere c then
    match s.lowestContext with
    | some c => s.startPreempt c
    | none => s
  else s

/-- What the scheduler decides again after a change of what waits or of the room. -/
def State.reschedule (s : State) : State := s.settleReservation.raisePreempt

end Sys2Proof.Machine
end

