-- ==== Sys2Proof/Machine/Serial.lean ====
section
/-! DEFINITION. The sections of context images and context slots in bytes, and what a restore reads from them (spec/09 R237, spec/11 R285).
The order and the sizes of the sections are R285's; the arrangement within a section is the device's own. DESIGN CHOICE, log entry 84. -/

namespace Sys2Proof.Machine

/-- The n words of a sparse list from number k, in one pass. -/
def denseFrom {w : Nat} : Nat → Nat → Sparse w → List (BitVec w)
  | 0, _, _ => []
  | n + 1, k, [] => 0 :: denseFrom n (k + 1) []
  | n + 1, k, (j, v) :: t => if j = k then v :: denseFrom n (k + 1) t else 0 :: denseFrom n (k + 1) ((j, v) :: t)

/-- The n words of a sparse list from number k. -/
def dense {w : Nat} (m : Sparse w) (k n : Nat) : List (BitVec w) :=
  denseFrom n k (m.filter fun e => decide (k ≤ e.1 ∧ e.1 < k + n))

/-- Exactly n bytes: those of a list, then zeros. -/
def padTo (n : Nat) (bs : List Byte) : List Byte := (bs ++ List.replicate (n - bs.length) 0).take n

/-- A list cut into k pieces of n. -/
def cutInto {α : Type} (n : Nat) : Nat → List α → List (List α)
  | 0, _ => []
  | k + 1, l => l.take n :: cutInto n k (l.drop n)

/-- Values of n bytes each, in bytes. -/
def bytesOf {w : Nat} (n : Nat) (vs : List (BitVec w)) : List Byte := vs.flatMap fun v => leBytes n v.toNat

/-- The values of k pieces of n bytes. -/
def valuesOf (w n k : Nat) (bs : List Byte) : List (BitVec w) := (cutInto n k bs).map fun b => BitVec.ofNat w (leNat b)

/-- A mask of numbers. -/
def numMask (l : List Nat) : Nat := l.foldl (fun m n => Nat.lor m (2 ^ n)) 0

/-- A bit as a number. -/
def bit (b : Bool) : Nat := if b then 1 else 0

/-! ### The sections of a wave -/

/-- A park condition in 16 bytes: what it waits for, and where. The operands that the instruction read stay with the device. -/
def Park.bytes : Option Park → List Byte
  | none => padTo 16 [1]
  | some (.waitm m) => padTo 16 [2, BitVec.ofNat 8 m]
  | some (.present ls _) => padTo 16 (3 :: leBytes 1 ls.length)
  | some (.sleep b d) => padTo 16 (4 :: leBytes 7 b ++ leBytes 8 (d.getD 0))
  | some (.barwait c o p) => padTo 16 (5 :: leBytes 2 c ++ leBytes 4 o ++ leBytes 4 p)
  | some .wbar => padTo 16 [6]
  | some (.object a _) => padTo 16 (7 :: leBytes 8 a)
  | some (.ring c o _ _) => padTo 16 (8 :: leBytes 2 c ++ leBytes 4 o)

/-- The PC table: 64 entries of 32 bytes. -/
def Wave.tableBytes (w : Wave) : List Byte :=
  padTo 2048 (w.table.flatMap fun e => leBytes 8 e.pc.toNat ++ leBytes 8 e.lanes.toNat ++ Park.bytes e.park)

/-- The return stacks: 16 places of 8 bytes for each lane; a place that holds a PC holds it plus 1. -/
def Wave.stackBytes (w : Wave) : List Byte :=
  (List.range w.hdr.width).flatMap fun l => padTo 128 ((w.rstack.getD l []).flatMap fun p => leBytes 8 (p.toNat + 1))

/-- The v-registers of the footprint. -/
def Wave.vecBytes (w : Wave) : List Byte := (List.range w.hdr.vregs).flatMap fun r => bytesOf 4 (dense w.regs.v (64 * r) w.hdr.width)

/-- s0 to s63, m0 to m11 and `sc`. -/
def Wave.scaBytes (w : Wave) : List Byte :=
  padTo 384 (bytesOf 4 (dense w.regs.s 0 64) ++ bytesOf 8 (dense w.regs.m 0 12) ++ leBytes 4 (bit w.regs.sc))

/-- The special registers and the restartable flag. -/
def Wave.specialBytes (w : Wave) : List Byte :=
  padTo 64 (leBytes 4 w.fstat.toNat ++ leBytes 4 w.fmode.toNat ++ leBytes 8 w.seed.toNat ++ leBytes 4 w.rxwin.toNat ++ leBytes 4 (bit w.chk) ++
    leBytes 8 w.tvec.toNat ++ leBytes 2 w.depth ++ leBytes 2 w.adopt ++ leBytes 8 w.ckey.toNat ++ leBytes 4 (bit w.restart))

/-- The restart record: the region's PC and its s0 to s15, or the lane arguments. -/
def Wave.restartBytes (w : Wave) : List Byte :=
  match w.region with
  | some r => padTo 576 (leBytes 8 r.pc.toNat ++ padTo 64 (bytesOf 4 r.s))
  | none => padTo 576 (leBytes 72 0 ++ bytesOf 8 w.laneArgs)

/-- The restart record belongs to the sections of a wave. -/
def Wave.recorded (w : Wave) (kind : Nat) : Bool := decide (kind = 1) || w.region.isSome

/-- The sections of a wave in an image of a kind, with the restart record or without it. -/
def Wave.sections (w : Wave) (kind : Nat) (record : Bool) : List Byte :=
  (if kind = 1 then [] else w.tableBytes ++ w.stackBytes ++ w.vecBytes ++ w.scaBytes) ++ w.specialBytes ++
    (if record then w.restartBytes else [])

/-- The table that its section gives; a parked entry keeps the device's own record of its condition. -/
def Wave.readTable (w : Wave) (bs : List Byte) : List Entry :=
  (cutInto 32 64 bs).zipIdx.filterMap fun x =>
    let f (o n : Nat) : Nat := leNat ((x.1.drop o).take n)
    if f 16 1 = 0 then none
    else some { pc := BitVec.ofNat 64 (f 0 8), lanes := BitVec.ofNat 64 (f 8 8), park := if f 16 1 = 1 then none else (w.table[x.2]?).bind (·.park) }

/-- The return stacks that their section gives. -/
def readStacks (width : Nat) (bs : List Byte) : Assoc (List DWord) :=
  (cutInto 128 width bs).zipIdx.filterMap fun x =>
    match ((cutInto 8 16 x.1).map leNat).filter (fun p => decide (p ≠ 0)) with
    | [] => none
    | ps => some (x.2, ps.map fun p => BitVec.ofNat 64 (p - 1))

/-- The registers that their sections give. -/
def readRegs (hdr : Header) (vec sca : List Byte) : Regs :=
  { v := (cutInto (4 * hdr.width) hdr.vregs vec).zipIdx.flatMap fun x => Sparse.entries (64 * x.2) (valuesOf 32 4 hdr.width x.1)
    s := Sparse.entries 0 (valuesOf 32 4 64 sca)
    m := Sparse.entries 0 (valuesOf 64 8 12 (sca.drop 256))
    sc := decide (leNat ((sca.drop 352).take 4) ≠ 0) }

/-- The wave with the special registers that their section gives. -/
def Wave.readSpecials (w : Wave) (bs : List Byte) : Wave :=
  let f (o n : Nat) : Nat := leNat ((bs.drop o).take n)
  { w with
    fstat := BitVec.ofNat 5 (f 0 4), fmode := BitVec.ofNat 3 (f 4 4), seed := BitVec.ofNat 64 (f 8 8), rxwin := BitVec.ofNat 32 (f 16 4)
    chk := decide (f 20 4 ≠ 0), tvec := BitVec.ofNat 64 (f 24 8), depth := f 32 2, adopt := f 34 2, ckey := BitVec.ofNat 64 (f 36 8)
    restart := decide (f 44 4 ≠ 0) }

/-- The wave with the restart record that its section gives. -/
def Wave.readRecord (w : Wave) (bs : List Byte) : Wave :=
  match w.region with
  | some r => { w with region := some { r with pc := BitVec.ofNat 64 (leNat (bs.take 8)), s := valuesOf 32 4 16 (bs.drop 8) } }
  | none => { w with laneArgs := valuesOf 64 8 w.laneArgs.length (bs.drop 72) }

/-- A wave as its sections give it, and the bytes that follow them. -/
def Wave.readSections (w : Wave) (kind : Nat) (bs : List Byte) : Wave × List Byte :=
  let n := 128 * w.hdr.width
  let k := 4 * w.hdr.vregs * w.hdr.width
  let record (x : Wave) (b : List Byte) : Wave × List Byte := if w.recorded kind then (x.readRecord b, b.drop 576) else (x, b)
  if kind = 1 then record (w.readSpecials bs) (bs.drop 64)
  else
    let b1 := bs.drop 2048
    let b2 := b1.drop n
    let b3 := b2.drop k
    let b4 := b3.drop 384
    let x := { w with table := w.readTable (bs.take 2048), rstack := readStacks w.hdr.width (b1.take n), regs := readRegs w.hdr (b2.take k) (b3.take 384) }
    record (x.readSpecials b4) (b4.drop 64)

/-! ### Scratchpad and claims -/

/-- The data of a run of lines. -/
def SpadRun.dataBytes (r : SpadRun) (lines : Nat) : List Byte := dense r.data 0 (128 * lines)

/-- The state of each line of a run, 2 bytes each: presence, poison, and the typed state of its eight objects. -/
def SpadRun.stateBytes (r : SpadRun) (lines : Nat) : List Byte :=
  (List.range lines).flatMap fun l =>
    [BitVec.ofNat 8 (bit (!r.absent.contains l) + 2 * bit (r.poison.contains l)),
     BitVec.ofNat 8 (((List.range 8).map fun k => 2 ^ k * bit (r.typed.contains (128 * l + 16 * k))).sum)]

/-- A run as its data and the states of its lines give it. -/
def readRun (lines : Nat) (data states : List Byte) : SpadRun :=
  let st := (cutInto 2 lines states).zipIdx
  let named (p : List Byte → Bool) : List Nat := st.filterMap fun x => if p x.1 then some x.2 else none
  { data := Sparse.entries 0 (data.take (128 * lines))
    absent := named fun b => !(b.headD 0).getLsbD 0
    poison := named fun b => (b.headD 0).getLsbD 1
    typed := st.flatMap fun x => (List.range 8).filterMap fun k => if (x.1.getD 1 0).getLsbD k then some (128 * x.2 + 16 * k) else none }

/-- The scratchpad section of some runs of one number of lines: the data, then the states of all lines, padded together. -/
def runsBytes (lines : Nat) (rs : List SpadRun) : List Byte :=
  let n := rs.length * lines
  rs.flatMap (·.dataBytes lines) ++ padTo (16 * ((n + 7) / 8)) (rs.flatMap (·.stateBytes lines))

/-- The runs that a scratchpad section gives, and the bytes that follow it. -/
def readRuns (lines count : Nat) (bs : List Byte) : List SpadRun × List Byte :=
  let n := count * lines
  let st := bs.drop (128 * n)
  (((cutInto (128 * lines) count bs).zip (cutInto (2 * lines) count st)).map fun x => readRun lines x.1 x.2, st.drop (16 * ((n + 7) / 8)))

/-- A claimed tile: its 128 × 128 elements. -/
def Tile.bytes (t : Tile) : List Byte := bytesOf 4 (dense t.data 0 16384)

/-- A claimed slot: its data, its descriptor and the faulted mark. -/
def OSlot.bytes (o : OSlot) : List Byte :=
  dense o.data 0 32768 ++
    padTo 16 (leBytes 1 o.fmt ++ leBytes 1 o.blen ++ leBytes 1 (bit o.trans) ++ leBytes 2 o.kext ++ leBytes 2 o.soff ++ leBytes 2 o.realK ++
      leBytes 2 o.realR) ++ padTo 16 (leBytes 1 (bit o.faulted))

/-- A slot as its bytes give it. -/
def OSlot.read (o : OSlot) (bs : List Byte) : OSlot :=
  let d := bs.drop 32768
  let f (k n : Nat) : Nat := leNat ((d.drop k).take n)
  { o with
    data := Sparse.entries 0 (bs.take 32768), fmt := f 0 1, blen := f 1 1, trans := decide (f 2 1 ≠ 0), kext := f 3 2, soff := f 5 2
    realK := f 7 2, realR := f 9 2, faulted := decide (f 16 1 ≠ 0) }

/-! ### Images -/

/-- The sections of the waves of an image. -/
def Image.waveBytes (m : Image) : List Byte := m.waves.flatMap fun w => w.sections m.kind (w.recorded m.kind)

/-- The sections after the header of an image. -/
def Image.body (m : Image) : List Byte :=
  m.waveBytes ++ runsBytes m.team.spadLines m.spad ++ m.tiles.flatMap (fun t => t.2.bytes) ++ m.slots.flatMap fun t => t.2.bytes

/-- Waves as their sections give them, one after another, and the bytes that follow. -/
def readWaves (kind : Nat) : List Wave → List Byte → List Wave × List Byte
  | [], bs => ([], bs)
  | w :: t, bs =>
    let r := w.readSections kind bs
    let rest := readWaves kind t r.2
    (r.1 :: rest.1, rest.2)

/-- An image as the sections in memory give it. Where they are the bytes that were written, that is the image itself. -/
def Image.read (m : Image) (bs : List Byte) : Image :=
  if bs = m.saved then m
  else
    let ws := readWaves m.kind m.waves bs
    let sp := readRuns m.team.spadLines m.spad.length ws.2
    { m with
      waves := ws.1
      spad := sp.1
      tiles := (m.tiles.zip (cutInto 65536 m.tiles.length sp.2)).map fun x => (x.1.1, { x.1.2 with data := Sparse.entries 0 (valuesOf 32 4 16384 x.2) })
      slots := (m.slots.zip (cutInto 32800 m.slots.length (sp.2.drop (65536 * m.tiles.length)))).map fun x => (x.1.1, x.1.2.read x.2) }

/-- The contents of a context slot: a header that names the claims of the saved task, the per-wave sections of a KIND 0 image with the restart
record, and the scratchpad section for the lines of the slot's size (spec/09 R237). -/
def CtxSlot.body (c : CtxSlot) (lines tiles slots : Nat) : List Byte :=
  padTo (4096 * c.pages) (padTo 64 (leBytes 2 tiles ++ leBytes 8 slots) ++
    (match c.wave with
     | some w => w.sections 0 true
     | none => []) ++ runsBytes lines [c.spad])

end Sys2Proof.Machine
end

