-- ==== Sys2Proof/Machine/Tasks.lean ====
section
/-! DEFINITION. The life of a wave: its registers and pending results (spec/04 R119 to R122), its PC table (spec/01 R18 to R23),
its end, the release of its team's claims, wide barriers and adoption (spec/01 R26, spec/08 R210, spec/09 R236 to R238). -/

namespace Sys2Proof.Machine

/-! ### Pending results -/

/-- The register that a result goes to. -/
def Landing.reg : Landing → RegName
  | .vec n _ => .v n
  | .sca n _ => .s n
  | .msk n _ => .m n
  | .cond _ => .sc

/-- The register of a variable-latency result that completes by an event of its own. -/
def VarDst.reg : VarDst → RegName
  | .sc => .sc
  | .s n => .s n

/-- A result written; lanes that do not exist have no register, and their mask bits stay zero (spec/01 R15). DEDUCED, log entry 71. -/
def Regs.land (r : Regs) (mask : DWord) : Landing → Regs
  | .vec n vals => { r with v := vals.foldl (fun v e => if e.1 < 64 then v.set (64 * n + e.1) e.2 else v) r.v }
  | .sca n x => { r with s := r.s.set n x }
  | .msk n x => { r with m := r.m.set n (x &&& mask) }
  | .cond b => { r with sc := b }

/-- The pending results that land by a cycle, and the others: a result lands when it is ready, or with a later one to the same register, before
which it must land (spec/04 R121). R120 and R121 pull apart where the later one is ready first: the earlier one then lands before its own L, in
lanes that only it writes as well, and no reader of it is early any more. DESIGN CHOICE, log entry 119. -/
def splitPend (t : Nat) : List Pend → List Pend × List Pend
  | [] => ([], [])
  | p :: rest =>
    let r := splitPend t rest
    if p.ready ≤ t ∨ r.1.any (fun q => decide (q.write.reg = p.write.reg)) = true then (p :: r.1, r.2) else (r.1, p :: r.2)

/-- Lanes of a wave's width. DEDUCED, log entry 71. -/
def Wave.mask (w : Wave) : DWord := laneMask w.hdr.width

/-- Write results in order. -/
def Wave.landList (w : Wave) (ps : List Pend) : Wave :=
  { w with regs := ps.foldl (fun r p => r.land w.mask p.write) w.regs }

/-- Land what is ready at a cycle. -/
def Wave.landAt (w : Wave) (t : Nat) : Wave :=
  let r := splitPend t w.pend
  { (w.landList r.1) with pend := r.2 }

/-- Land every pending result. -/
def Wave.landAll (w : Wave) : Wave := { (w.landList w.pend) with pend := [] }

/-- A fixed-latency result, ready at a cycle (spec/04 R120). -/
def Wave.later (w : Wave) (ready : Nat) (l : Landing) : Wave :=
  { w with pend := w.pend ++ [{ ready := ready, write := l }], varPend := w.varPend.filter fun d => !decide (d.reg = l.reg) }

/-- A variable-latency result: earlier pending results of the register land first (spec/04 R121, R122). -/
def Wave.now (w : Wave) (l : Landing) : Wave :=
  let mine := w.pend.filter fun p => decide (p.write.reg = l.reg)
  let w1 := w.landList mine
  { w1 with
    regs := w1.regs.land w.mask l
    pend := w.pend.filter fun p => !decide (p.write.reg = l.reg)
    varPend := w.varPend.filter fun d => !decide (d.reg = l.reg) }

/-- A mask register's value once its pending results have landed. DEDUCED, log entry 16. -/
def Wave.maskFinal (w : Wave) (n : Nat) : DWord :=
  w.pend.foldl (fun x p => match p.write with
    | .msk k v => if k = n then v &&& w.mask else x
    | _ => x) (w.regs.m.get n)

/-! ### The PC table -/

/-- Add an entry; a ready entry merges with a ready entry of the same PC (spec/01 R20). -/
def absorb (e : Entry) : List Entry → List Entry
  | [] => [e]
  | x :: t =>
    if e.park = none ∧ x.park = none ∧ x.pc = e.pc then { x with lanes := x.lanes ||| e.lanes } :: t
    else x :: absorb e t

/-- Merge the ready entries of equal PC. -/
def mergeReady (t : List Entry) : List Entry := t.foldl (fun acc e => absorb e acc) []

/-- Merge, leaving the head alone while it is inside an issue group (spec/01 R20). -/
def Wave.merged (w : Wave) : Wave :=
  match w.first, w.table with
  | some _, h :: t => { w with table := h :: mergeReady t }
  | _, t => { w with table := mergeReady t }

/-- The ready entry with the lowest PC. -/
def lowestReady : List Entry → Option Entry
  | [] => none
  | e :: t =>
    match e.park, lowestReady t with
    | none, some x => if x.pc.toNat < e.pc.toNat then some x else some e
    | none, none => some e
    | some _, r => r

/-- The table with an entry's lanes first. -/
def toFront (e : Entry) (t : List Entry) : List Entry := e :: t.filter fun x => !decide (x.lanes = e.lanes)

/-- A re-sort: the ready entry with the lowest PC becomes head, and the count restarts (spec/01 R19). -/
def Wave.resorted (w : Wave) : Wave :=
  let table := mergeReady w.table
  match lowestReady table with
  | some e => { w with table := toFront e table, resort := false, count := 0 }
  | none => { w with resort := false, count := 0 }

/-- Every lane in the table or in the trapping entry. -/
def Wave.liveLanes (w : Wave) : DWord :=
  w.table.foldl (fun m e => m ||| e.lanes) (match w.handler with
    | some h => h.lanes
    | none => 0)

/-- The table without the entries of some lanes. -/
def Wave.without (w : Wave) (lanes : DWord) : List Entry := w.table.filter fun e => decide (e.lanes &&& lanes = 0)

/-- The lanes parked at a `waitm` naming a mask. -/
def Wave.waiting (w : Wave) (m : Nat) : DWord :=
  w.table.foldl (fun x e => if e.park = some (.waitm m) then x ||| e.lanes else x) 0

/-- The release condition of a mask, tested at a change of it (spec/01 R23): once every set lane stands parked at a `waitm` on the mask or has
exited, every lane parked there goes on, also one whose own bit is clear, of which that rule does not speak. DEDUCED, log entries 11, 16. -/
def Wave.recheck (w : Wave) (m : Nat) : Wave :=
  if w.waiting m ≠ 0 ∧ w.maskFinal m &&& ~~~(w.waiting m) = 0 then
    (w.releaseWhere w.eligAt fun p => decide (p = .waitm m)).merged
  else w

/-- Lanes that exit leave the table and every mask, and their stacks are discarded (spec/01 R23, spec/04 R107). DEDUCED, log entry 11. -/
def Wave.dropLanes (w : Wave) (lanes : DWord) : Wave :=
  let w1 : Wave :=
    { w with
      table := w.without lanes
      rstack := w.rstack.filter fun e => !lanes.getLsbD e.1
      regs := { w.regs with m := (w.regs.m.map fun e => (e.1, e.2 &&& ~~~lanes)).filter fun e => !decide (e.2 = 0) }
      pend := w.pend.map fun p => match p.write with
        | .msk n v => { p with write := .msk n (v &&& ~~~lanes) }
        | _ => p
      resort := true }
  (List.range 12).foldl (fun w m => w.recheck m) w1

/-! ### Claims (spec/01 R26, spec/07 R176, R179) -/

/-- The tiles that a request names. -/
def Req.tiles (r : Req) : List Nat := match r.kind with
  | .pass a _ _ _ _ => [a]
  | .mzero t => [t]
  | .mstore x => [x.tile]

/-- The operand slots that a request names. -/
def Req.slots (r : Req) : List Nat := match r.kind with
  | .pass _ a b _ _ => [a, b]
  | _ => []

/-- The operand slot that a copy command fills. -/
def CopyCmd.oslot? (c : CopyCmd) : Option Nat := match c.kind with
  | .oload n => some n
  | _ => none

/-- A request of the team still names the tile. -/
def Cluster.tileBusy (c : Cluster) (team n : Nat) : Bool := c.resv.any fun r => decide (r.team = team) && r.tiles.contains n

/-- A request or `oload` of the team still names the slot. -/
def Cluster.slotBusy (c : Cluster) (team n : Nat) : Bool :=
  (c.resv.any fun r => decide (r.team = team) && r.slots.contains n) ||
    c.copies.any fun k => decide (k.team = team) && decide (k.oslot? = some n)

/-- Releases take effect once every earlier request that names the tile or slot has completed. -/
def Cluster.settle (c : Cluster) : Cluster :=
  { c with
    tiles := c.tiles.map fun e => match e.2.releasing with
      | some t => if c.tileBusy t e.1 then e else (e.1, { e.2 with releasing := none })
      | none => e
    slots := c.slots.map fun e => match e.2.releasing with
      | some t => if c.slotBusy t e.1 then e else (e.1, { e.2 with releasing := none, faulted := false })
      | none => e }

/-- The team stops holding the tiles and slots that two predicates name. -/
def Cluster.releaseClaims (c : Cluster) (team : Nat) (tiles slots : Nat → Bool) : Cluster :=
  let c1 : Cluster :=
    { c with
      tiles := c.tiles.map fun e => if e.2.holder = some team ∧ tiles e.1 = true then (e.1, { e.2 with holder := none, releasing := some team }) else e
      slots := c.slots.map fun e => if e.2.holder = some team ∧ slots e.1 = true then (e.1, { e.2 with holder := none, releasing := some team }) else e }
  c1.settle

/-! ### Launches -/

/-- A live task counts towards a launch (spec/12 R314). -/
def State.launchBusy (s : State) (key : Nat) : Bool :=
  (s.waves.any fun e => e.2.launches.contains key) ||
  (s.ctxSlots.any fun e => e.2.wave.any fun w => w.launches.contains key) ||
  (s.images.any fun e => e.2.waves.any fun w => w.launches.contains key) ||
  (s.spilled.any fun e => e.2.waves.any fun w => w.launches.contains key) ||
  (s.items.any fun e => match e.2.kind with
    | .team l _ => decide (l = key)
    | .brood b => b.launches.contains key
    | .continuation sp => sp.waves.any fun w => w.launches.contains key
    | .saved _ => false
    | .owner _ => false) ||
  (s.clusters.any fun e => e.2.brood.any fun b => b.launches.contains key)

/-- A launch whose every team and spawned descendant has ended drains (spec/12 R298). -/
def State.settleLaunch (s : State) (key : Nat) : State :=
  match s.launches.get? key with
  | none => s
  | some l =>
    if l.phase = .running ∧ l.nextTeam = l.total ∧ s.launchBusy key = false then
      { s with launches := s.launches.put key { l with phase := .draining } }
    else s

/-! ### Wide barriers (spec/08 R209 to R211) -/

/-- Every live wave of a team has arrived. -/
def Team.allArrived (t : Team) (live : List Nat) : Bool := live.all fun n => t.arrived.contains n

/-- The numbers of the live waves of a resident team, a helper that waits in a context slot among them. -/
def State.liveWaves (s : State) (teamKey : Nat) : List Nat :=
  ((s.waves.filter fun e => decide (e.2.team = teamKey)).map fun e => e.2.waveNo) ++
    s.ctxSlots.flatMap fun e => match e.2.wave with
      | some w => if w.team = teamKey ∧ e.2.use = .helper then [w.waveNo] else []
      | none => []

/-- Whether the member with a linear team number holds an instance of a scope back: it has not started, it has not resumed from an earlier
instance, a live wave has not arrived, or its pending arrival is at another scope (spec/08 R209, R210). -/
def State.memberWaits (s : State) (launch : Nat) (l : Launch) (scope : WbarScope) (n : Nat) : Bool :=
  let member (t : Team) : Bool := decide (t.launch = some launch ∧ t.number = n)
  let waits (t : Team) (live : List Nat) : Bool := member t && (!t.allArrived live || decide (t.wbarScope ≠ some scope))
  decide (l.nextTeam ≤ n) ||
  (s.items.any fun e => match e.2.kind with
    | .team k m => decide (k = launch ∧ m = n)
    | .continuation sp => member sp.team
    | _ => false) ||
  (s.teams.any fun e => waits e.2 (s.liveWaves e.1)) ||
  (s.images.any fun e => waits e.2.team (e.2.waves.map (·.waveNo))) ||
  (s.spilled.any fun e => waits e.2.team [])

/-- The members of an instance, as linear team numbers. -/
def wbarMembers (l : Launch) (scope : WbarScope) (group number : Nat) : List Nat :=
  match scope with
  | .team => [number]
  | .clus => (List.range group).map (number / group * group + ·) |>.filter (· < l.total)
  | .grid => List.range l.total

/-- A wave released from its `wbar`, with `sc` (spec/08 R210). -/
def Wave.leaveWbar (now : Nat) (w : Wave) : Wave :=
  ((w.releaseWhere now fun p => decide (p = .wbar)).now (.cond true)).merged

/-- The scope of a wide barrier as a scope of spec/01 R40. -/
def wbarScopeCode : WbarScope → Nat
  | .team => 1
  | .clus => 2
  | .grid => 4

/-- A wave that is not resident acquires at a scope when it is restored. -/
def Wave.acquireLater (w : Wave) (scope : Nat) : Wave := { w with acqDue := max w.acqDue scope }

/-- The acquire that a barrier left for a wave that was not resident (spec/08 R208, R210, spec/10 R255). -/
def State.acquireDue (s : State) (slot : Nat) : State :=
  match s.waves.get? slot with
  | none => s
  | some w => if w.acqDue = 0 then s else (s.setWave slot { w with acqDue := 0 }).acquire slot w.acqDue

/-- The wait of a team that has all arrived ends where its instance is complete: members resume in place with `sc` = 1, those that
are saved acquire when they are restored, and spilled members become continuations (spec/08 R210, spec/12 R310). -/
def State.completeWbar (s : State) (team : Team) (scope : WbarScope) : State :=
  let inInst (t : Team) : Bool :=
    match team.launch with
    | none => decide (t.slots = team.slots ∧ t.ctx = team.ctx)
    | some k =>
      match s.launches.get? k with
      | none => false
      | some l => decide (t.launch = some k ∧ t.wbarScope = some scope) && (wbarMembers l scope team.wbarGroup team.number).contains t.number
  let keys := (s.teams.filter fun e => inInst e.2).map (·.1)
  let clear (t : Team) : Team := { t with wbarScope := none, wbarGroup := 0, arrived := [], liveSets := [] }
  let s1 : State :=
    { s with
      waves := s.waves.map fun e => if keys.contains e.2.team then (e.1, e.2.leaveWbar s.now) else e
      teams := s.teams.map fun e => if keys.contains e.1 then (e.1, clear e.2) else e
      images := s.images.map fun e =>
        if inInst e.2.team then
          (e.1, { e.2 with waves := e.2.waves.map (fun w => (w.leaveWbar s.now).acquireLater (wbarScopeCode scope)), team := clear e.2.team })
        else e }
  let s2 := foldState (fun s e => if keys.contains e.2.team then s.acquire e.1 (wbarScopeCode scope) else s) s1 s1.waves
  let conts := s.spilled.filter fun e => inInst e.2.team
  let grouped (t : Team) : Team := { clear t with wbarGroup := if scope = .clus then t.wbarGroup else 0 }
  foldState (fun s e =>
    { s.distributable e.2.team.prio with
      spilled := s.spilled.del e.1
      items := s.items.put s.nextNum
        { ctx := e.2.team.ctx, kind := .continuation { e.2 with team := grouped e.2.team }, prio := e.2.team.prio, since := s.clock.toNat,
          aged := false, clus := none, hdr := e.2.team.hdr }
      nextNum := s.nextNum + 1 }) s2 conts

/-- The instance that a team's pending arrival joins is complete. -/
def State.wbarComplete (s : State) (team : Team) (scope : WbarScope) : Bool :=
  match team.launch with
  | none => true
  | some k =>
    match s.launches.get? k with
    | none => true
    | some l => (wbarMembers l scope team.wbarGroup team.number).all fun n => !s.memberWaits k l scope n

/-- A cluster-scope GROUP stands for a launch until every cluster-scope instance of it has completed: while a team of it, resident, saved
or spilled, has a cluster-scope arrival pending (spec/08 R209). -/
def State.settleGroup (s : State) (launch : Nat) : State :=
  match s.launches.get? launch with
  | none => s
  | some l =>
    let pending (t : Team) : Bool := decide (t.launch = some launch ∧ t.wbarScope = some .clus)
    if l.wbarGroup.isSome && !(s.teams.any fun e => pending e.2) && !(s.images.any fun e => pending e.2.team) &&
        !(s.spilled.any fun e => pending e.2.team) then
      { s with launches := s.launches.put launch { l with wbarGroup := none } }
    else s

/-- Complete whatever wide-barrier instances a change has completed: those of one team and those of its launch. DEDUCED, log entry 11. -/
def State.checkWbars (s : State) (launch : Option Nat) (teamKey : Nat) : State :=
  let own := s.teams.filter fun e => decide (e.1 = teamKey ∨ (launch.isSome ∧ e.2.launch = launch))
  let spilt := s.spilled.filter fun e => decide (launch.isSome ∧ e.2.team.launch = launch)
  let saved := s.images.filter fun e => decide (launch.isSome ∧ e.2.team.launch = launch)
  let cands := own.map (fun e => (e.1, e.2)) ++ spilt.map (fun e => (e.1, e.2.team)) ++ saved.map fun e => (e.1, e.2.team)
  let s1 := foldState (fun s e =>
    match e.2.wbarScope with
    | none => s
    | some sc =>
      let still := (s.teams.get? e.1).any (fun t => t.wbarScope.isSome) || (s.spilled.get? e.1).isSome ||
        (s.images.get? e.1).any fun m => m.team.wbarScope.isSome && m.team.allArrived (m.waves.map (·.waveNo))
      let ready := (s.teams.get? e.1).all fun t => t.allArrived (s.liveWaves e.1)
      if still && ready && s.wbarComplete e.2 sc then s.completeWbar e.2 sc else s) s cands
  match launch with
  | some k => s1.settleGroup k
  | none => s1

/-! ### The end of a wave -/

/-- A team leaves the machine: its claims are released (spec/01 R26), a bound collective fires (spec/08 R218) unless its tasks
were killed, whatever waited for it is tested again, and the scheduler decides again (spec/12 R315). -/
def State.exitTeam (s : State) (key : Nat) (fire : Bool) : State :=
  match s.teams.get? key with
  | none => s
  | some t =>
    let clus := clusOf t.core
    let s1 := if (s.cluster clus).tiles = [] ∧ (s.cluster clus).slots = [] then s
      else s.modCluster clus fun c => c.releaseClaims key (fun _ => true) (fun _ => true)
    let s2 : State := { s1 with teams := s1.teams.del key }
    let s3 := match t.launch with
      | none => s2
      | some k =>
        match s2.launches.get? k with
        | some l =>
          if fire ∧ l.collid ≠ 0 then
            let cmd : CollCmd :=
              { num := s2.nextNum, team := key, ctx := t.ctx, die := dieOf clus, task := 0, launches := [k], desc := 0,
                chunk := some t.number, after := [], joined := false, quiet := false }
            ({ s2 with nextNum := s2.nextNum + 1 } : State).modDie (dieOf clus) fun d => { d with waggleQ := d.waggleQ ++ [cmd] }
          else s2
        | none => s2
    let s4 := ((s3.checkWbars t.launch key).settlePreempt t.ctx).reschedule
    match t.launch with
    | some k => s4.settleLaunch k
    | none => s4

/-- The scratchpad run of a team in a core, by offset (spec/11 R285). -/
def State.saveRun (s : State) (core base lines : Nat) : SpadRun :=
  let c := s.core core
  { data := (c.spad.filter fun e => decide (base * 128 ≤ e.1 ∧ e.1 < (base + lines) * 128)).map fun e => (e.1 - base * 128, e.2)
    absent := (c.absent.filter fun l => decide (base ≤ l ∧ l < base + lines)).map (· - base)
    poison := (c.poison.filter fun l => decide (base ≤ l ∧ l < base + lines)).map (· - base)
    typed := (c.typed.filter fun o => decide (base * 128 ≤ o ∧ o < (base + lines) * 128)).map (· - base * 128) }

/-- The lines of a run zeroed, present, unpoisoned and untyped (spec/12 R306). -/
def State.clearRun (s : State) (core base lines : Nat) : State :=
  s.modCore core fun c =>
    { c with
      spad := c.spad.clearRange (base * 128) ((base + lines) * 128)
      absent := c.absent.filter fun l => !decide (base ≤ l ∧ l < base + lines)
      poison := c.poison.filter fun l => !decide (base ≤ l ∧ l < base + lines)
      typed := c.typed.filter fun o => !decide (base * 128 ≤ o ∧ o < (base + lines) * 128) }

/-- A saved run written back. -/
def State.loadRun (s : State) (core base lines : Nat) (r : SpadRun) : State :=
  (s.clearRun core base lines).modCore core fun c =>
    { c with
      spad := r.data.foldl (fun m e => m.set (base * 128 + e.1) e.2) c.spad
      absent := r.absent.foldl (fun l x => addNat (base + x) l) c.absent
      poison := r.poison.foldl (fun l x => addNat (base + x) l) c.poison
      typed := r.typed.foldl (fun l x => addNat (base * 128 + x) l) c.typed }

/-- The context slot of the helper of the task that runs in a wave slot: the deepest one. -/
def State.helperOf? (s : State) (slot : Nat) : Option (Nat × CtxSlot) :=
  (s.ctxSlots.filter fun e => decide (e.2.slot = slot ∧ e.2.use = .helper)).foldl (fun r e =>
    match r with
    | some x => if (x.2.wave.map (·.adopt)).getD 0 ≤ (e.2.wave.map (·.adopt)).getD 0 then some e else some x
    | none => some e) none

/-! ### The slot area (spec/09 R237) -/

/-- Where a context slot lies. -/
def State.slotPlace (s : State) (c : CtxSlot) : Nat :=
  let x := s.context c.ctx
  x.saveBase + x.saveSize - 4096 * x.cslotPages + 4096 * c.page

/-- The header and contents of a context slot: its size is the helper's, and its header names the claims of the task that it holds. DESIGN
CHOICE, log entry 84. -/
def State.slotBody (s : State) (c : CtxSlot) : List Byte :=
  let k := s.cluster c.clus
  let mine (h : Option Nat) : Bool := c.wave.any fun w => decide (h = some w.team)
  c.body ((c.wave.map (·.hdr.spad)).getD 0) (numMask ((k.tiles.filter fun e => mine e.2.holder).map (·.1)))
    (numMask ((k.slots.filter fun e => mine e.2.holder).map (·.1)))

/-- The slots of a context cannot be used: the context is reset next (spec/09 R237, spec/14 R360). -/
def State.spoilSlots (s : State) (ctx : Nat) : State := s.setContext ctx { s.context ctx with slotBad := true }

/-- A wave is saved to a context slot: the slot is written, where the access table lets it be. The write waits for a tile as any does. -/
def State.writeSlot (s : State) (key : Nat) (c : CtxSlot) : State :=
  let body := s.slotBody c
  if s.accessOk c.ctx (s.slotPlace c) (4096 * c.pages) true then
    ({ s with ctxSlots := s.ctxSlots.modify key fun x => { x with saved := body } } : State).storeRun (s.slotPlace c) body
  else s.spoilSlots c.ctx

/-- A wave is restored from a context slot: a slot that was altered, that meets an uncorrectable error, or that cannot be read, fails its
check. -/
def State.checkSlot (s : State) (c : CtxSlot) : State :=
  let n := 4096 * c.pages
  if s.accessOk c.ctx (s.slotPlace c) n false && !s.marked (s.slotPlace c) n then
    let r := s.readRange (s.slotPlace c) n
    if r.2 = c.saved then r.1 else r.1.spoilSlots c.ctx
  else s.spoilSlots c.ctx

/-- Restore a helper into its wave slot: its state and its scratchpad lines, with the acquire of a barrier that was released meanwhile; its
blocking instruction issues again, or ends for the owner that `fault` names (spec/09 R236, R238). -/
def State.restoreHelper (s : State) (slot key : Nat) (h : CtxSlot) (fault : Option Nat) : State :=
  match h.wave with
  | none => s
  | some w =>
    let s1 : State := { s.checkSlot h with ctxSlots := s.ctxSlots.del key }
    let w1 := { w with
      eligAt := s.now, nextIssue := s.now, resort := true
      ownerFault := match fault with
        | some task => some (h.blocked, task)
        | none => w.ownerFault }
    let s2 := s1.setWave slot w1
    let s3 := match s.teams.get? w.team with
      | some t => s2.loadRun (coreOf slot) t.spadBase h.lines h.spad
      | none => s2
    s3.acquireDue slot

/-! ### Objects that entries wait on (spec/09 R230, R244) -/

/-- Entries of a list that wait on the object at an address, but for the one of some lanes. -/
def waitersIn (pa : Nat) (except_ : Option DWord) (table : List Entry) : Nat :=
  (table.filter fun e => !decide (some e.lanes = except_) && (match e.park with
    | some (.object p _) => decide (p = pa)
    | _ => false)).length

/-- The number of entries that wait on an object: those of resident waves, of waves in context slots and of saved waves, but for one entry
of one slot. A discarded wave is parked no more (spec/11 R281, R285). DEDUCED, log entry 68. -/
def State.waitersBut (s : State) (pa : Nat) (but : Option (Nat × DWord)) : Nat :=
  (s.waves.map fun e => waitersIn pa (but.bind fun b => if b.1 = e.1 then some b.2 else none) e.2.table).sum +
    (s.ctxSlots.flatMap fun e => (e.2.wave.map fun w => waitersIn pa none w.table).toList).sum +
    ((s.images.filter fun e => !decide (e.2.kind = 1)).flatMap fun e => e.2.waves.map fun w => waitersIn pa none w.table).sum

/-- The ports that are up (spec/14 R346). -/
def State.upPorts (s : State) : List Nat := (List.range 24).filter fun n => (s.ports.get? n).all (·.up)

/-- The port that carries requests to the comb of a peer's address, of those that are up (spec/14 R347: the hash is the
device's own). DEDUCED, log entry 117. -/
def State.portFor (s : State) (pa : Nat) : Option Nat :=
  let up := s.upPorts
  if up = [] then none else some (up.getD (Config.portFor (remoteEntry pa) (pa % 2 ^ 37 / 1024) % up.length) 0)

/-- The request goes to the comb of the peer that a remote address lies in. -/
def RemoteOp.toComb (r : RemoteOp) (pa : Nat) : Bool := !r.local_ && decide (r.pa / 1024 = pa / 1024)

/-- The port on which a new request leaves; none while it is held, because an earlier request to the same comb of the peer, not yet
acknowledged, is held, has another port, or was sent again from a port that went down, or because no port is up (spec/14 R347). -/
def State.route (s : State) (earlier : List RemoteOp) (pa : Nat) : Option Nat :=
  let p := s.portFor pa
  if earlier.any fun r => r.toComb pa && (r.resent || decide (r.via ≠ p)) then none else p

/-- A remote operation takes its number and its port, and its place after the earlier ones. -/
def State.sendOp (s : State) (op : RemoteOp) : State :=
  { s with
    remoteOps := s.remoteOps ++ [{ op with num := s.nextNum, via := if op.local_ then none else s.route s.remoteOps op.pa }]
    nextNum := s.nextNum + 1 }

/-- The peer's entry of a remote address is not up. -/
def State.fencedAt (s : State) (pa : Nat) : Bool := inRemote pa && decide (peerState (s.peer (remoteEntry pa)) ≠ 0)

/-- A plain remote store of a task. -/
def remoteStore (w : Wave) (slot pa : Nat) (bs : List Byte) (after : List Nat) : RemoteOp :=
  { num := 0, via := none, resent := false, sent := false, slot := slot, task := w.task, core := coreOf slot, launches := w.launches, pa := pa,
    data := bs, local_ := false, signal := none, persist := none, after := after, performed := false }

/-- Bytes that the device writes to an object on behalf of a task that has ended or parked: here, or at a peer. -/
def State.deviceWrite (s : State) (w : Wave) (slot pa : Nat) (bs : List Byte) : State :=
  if inRemote pa then s.sendOp (remoteStore w slot pa bs []) else s.storeAt pa bs

/-- The device keeps the waiters of the objects that an ended wave was parked on: WHEAD becomes zero with the last entry, and WAITERS
counts those that are left (spec/09 R230, R244). -/
def State.recount (s : State) (slot : Nat) (w : Wave) : State :=
  foldState (fun s (e : Entry) =>
    match e.park with
    | some (.object pa r) =>
      let n := s.waitersBut pa none
      match r.instr with
      | .fwait _ _ _ =>
        if n ≠ 0 ∨ (inRemote pa = false ∧ s.valueAt (pa + 16) 8 = 0) then s else s.deviceWrite w slot (pa + 16) (leBytes 8 0)
      | _ => if s.valueAt (pa + 0x1C) 4 = n then s else s.deviceWrite w slot (pa + 0x1C) (leBytes 4 n)
    | _ => s) s w.table

/-- A wave leaves its slot: its version is dropped, its team ends with its last wave, and a helper is restored where it was
adopted (spec/04 R107, spec/09 R238). -/
def State.removeWave (s : State) (slot : Nat) (fire : Bool) (fault : Option Nat) : State :=
  match s.waves.get? slot with
  | none => s
  | some w =>
    let s1 := ({ s with waves := s.waves.del slot, versions := s.versions.del w.task } : State).recount slot w
    let s2 := match s1.teams.get? w.team with
      | none => s1
      | some t =>
        let t' : Team := { t with slots := delNat slot t.slots, arrived := delNat w.waveNo t.arrived }
        let s3 := s1.setTeam w.team t'
        if t'.slots = [] then s3.exitTeam w.team fire else s3.checkWbars t.launch w.team
    let s4 := foldState State.settleLaunch s2 w.launches
    let s5 : State := if w.adopt = 0 then s4
      else match s4.helperOf? slot with
        | none => s4
        | some h => ({ s4 with ctxSlots := s4.ctxSlots.del h.2.partner } : State).restoreHelper slot h.1 h.2 fault
    s5.retryOwned (w.task :: s5.taskAt slot)

/-- A fault record (spec/11 R277). DEDUCED, log entry 87. -/
def faultRecord (task tsw : Nat) (epc tmask : DWord) (launch kind flags : Nat) : List Byte :=
  leBytes 4 task ++ leBytes 4 tsw ++ leBytes 8 epc.toNat ++ leBytes 8 tmask.toNat ++ leBytes 4 launch ++
    [BitVec.ofNat 8 kind, BitVec.ofNat 8 flags] ++ leBytes 2 0

/-- The LAUNCHID of a task's launch; 0 for a spawned task (spec/11 R277). -/
def State.launchIdOf (s : State) (w : Wave) : Nat :=
  if w.spawned then 0
  else match (s.teams.get? w.team).bind (·.launch) with
    | some k => ((s.launches.get? k).map (·.id)).getD 0
    | none => 0

/-- Each launch that a task counts towards records the abort (spec/11 R277, spec/12 R297). -/
def State.countAbort (s : State) (ls : List Nat) : State :=
  { s with launches := s.launches.map fun e =>
      if ls.contains e.1 then (e.1, { e.2 with aborted := true, aborts := min (e.2.aborts + 1) (2 ^ 32 - 1) }) else e }

/-- The physical address of a global object of a wave, where its page still translates. -/
def State.objectAt? (s : State) (slot : Nat) (w : Wave) (va : DWord) : Option Nat :=
  match (s.translate w.ctx (dieOf (clusOf (coreOf slot))) (some (clusOf (coreOf slot))) va.toNat).2 with
  | .ok pa _ => some pa
  | .bad _ => none

/-- An aborted holder leaves its capsule FAULTED and not HELD (spec/09 R249). -/
def State.faultCapsule (s : State) (slot : Nat) (w : Wave) : State :=
  if w.ckey = 0 then s
  else match s.objectAt? slot w w.ckey with
    | none => s
    | some pa =>
      let flags := s.valueAt (pa + 6) 2
      if flags % 2 = 1 ∧ s.valueAt pa 4 = w.task then s.storeAt (pa + 6) (leBytes 2 (flags - 1 + (if flags / 4 % 2 = 0 then 4 else 0))) else s

/-- The object that the helper of an aborted adopted task waits on becomes FAULTED (spec/09 R238). A future that a helper adopted the
owner of is bound. -/
def State.faultAwaited (s : State) (slot : Nat) (w : Wave) (cause : Nat) : State :=
  if w.adopt = 0 then s
  else match s.helperOf? slot with
    | none => s
    | some h =>
      match h.2.await with
      | some (.object pa _) => s.deviceWrite w slot pa (leBytes 4 (6 + cause * 256))
      | some (.ring c off _ _) => s.spadStore c (off + 0x1E) (leBytes 2 (Nat.lor (s.spadValue c (off + 0x1E) 2) 8))
      | _ => s

/-- A task ends by abort, in the order of spec/11 R277: its version and step buffer are discarded, its objects are faulted, its
lanes exit, and a record is written, unless the caller writes one for many tasks. -/
def State.abort (s : State) (slot kind tsw : Nat) (epc : DWord) (record : Bool) : State :=
  match s.waves.get? slot with
  | none => s
  | some w =>
    let s1 := ({ s with versions := s.versions.del w.task } : State)
    let s2 := (s1.faultCapsule slot w).faultAwaited slot w (tsw % 256)
    let s3 := (s2.countAbort w.launches).removeWave slot true (some w.task)
    if record then s3.logFault w.ctx (faultRecord w.task tsw epc w.tmask (s.launchIdOf w) kind (if w.restart then 1 else 0))
    else s3

/-- The wave stands inside an issue group or runs its handler. -/
def Wave.midGroup (w : Wave) : Bool := w.first.isSome || w.handler.isSome

/-- The parked entry of some lanes of a wave, where it is decided again: never inside an issue group of the wave, where no trap intervenes
(spec/03 R67), nor in its handler, and for a presence park only when every line is present (spec/06 R156). DEDUCED, log entry 7. -/
def State.wakeable (s : State) (slot : Nat) (lanes : DWord) : Option (Entry × Retry) :=
  match s.waves.get? slot with
  | none => none
  | some w =>
    if w.midGroup then none
    else match w.table.find? fun e => decide (e.lanes = lanes) with
      | none => none
      | some e =>
        match e.park with
        | some (.present ls r) => if ls.any fun l => s.lineAbsent l.1 l.2 then none else some (e, r)
        | some (.object _ r) => some (e, r)
        | some (.ring _ _ _ r) => some (e, r)
        | _ => none

/-- An adopted task whose every entry is parked, and none to be decided again at once, is saved to its context slot, and its helper is
restored (spec/09 R234, R238). -/
def State.suspendOwner (s : State) (slot : Nat) : State :=
  match s.waves.get? slot with
  | none => s
  | some w =>
    if w.adopt = 0 ∨ w.hasReady = true ∨ w.handler.isSome = true ∨ s.wakes.any (fun x => decide (x.1 = slot) && (s.wakeable x.1 x.2).isSome) = true then s
    else match s.helperOf? slot with
      | none => s
      | some h =>
        let t := s.teams.get? w.team
        let run := match t with
          | some t => s.saveRun (coreOf slot) t.spadBase t.spadLines
          | none => { data := [], absent := [], poison := [], typed := [] }
        let s1 : State :=
          { s with
            waves := s.waves.del slot
            teams := s.teams.del w.team
            ctxSlots := s.ctxSlots.modify h.2.partner fun c =>
              { c with use := .owner, wave := some { w with adopt := 0 }, team := t.map fun t => { t with slots := [] }, spad := run } }
        let s2 := (match s1.ctxSlots.get? h.2.partner with
          | some c => s1.writeSlot h.2.partner c
          | none => s1).restoreHelper slot h.1 h.2 none
        s2.retryOwned (w.task :: s2.taskAt slot)

end Sys2Proof.Machine
end

