-- ==== Sys2Proof/Machine/Ops.lean ====
section
/-! DEFINITION. The operations that every instruction word shares: taking a trap and returning from one (spec/11 R269 to R278), a
restart, the checks made as a word issues (spec/03 R67, R68, R85, R86, spec/04 R122, R123, spec/09 R245), and what an issue does to
the wave's PC table and to the core's timing (spec/01 R19 to R21, spec/04 R120, spec/12 R312, R313). -/

namespace Sys2Proof.Machine

/-! ### Selection of a cause (spec/11 R269, R270) -/

/-- The priority of a cause; the lowest number wins. -/
def causePriority (c : Nat) : Nat :=
  match c with
  | 0x01 => 1 | 0x02 => 2 | 0x03 => 3 | 0x04 => 4 | 0x05 => 4 | 0x06 => 5 | 0x07 => 5 | 0x08 => 6
  | 0x09 => 7 | 0x0A => 7 | 0x0B => 7 | 0x0C => 8 | 0x0D => 8 | 0x0E => 8 | 0x0F => 9 | 0x10 => 10
  | 0x11 => 10 | _ => 11

/-- The cause a wins over b: by priority, then by code. -/
def causeBefore (a b : Nat) : Bool :=
  decide (causePriority a < causePriority b ∨ (causePriority a = causePriority b ∧ a < b))

/-- The raise that is reported: the winning cause, its lowest lane, and for that lane the lowest INFO. DEDUCED, log entry 105. -/
def raiseBefore (a b : Raise) : Bool :=
  causeBefore a.cause b.cause || (decide (a.cause = b.cause) &&
    decide (a.lane < b.lane ∨ (a.lane = b.lane ∧ a.info < b.info)))

/-- The reported raise of a list; `r` where the list names none better. -/
def reportedFrom (r : Raise) : List Raise → Raise
  | [] => r
  | x :: t => reportedFrom (if raiseBefore x r then x else r) t

/-- `sr.tsw` for a raise (spec/11 R271). -/
def tswOf (restart : Bool) (r : Raise) : Nat :=
  r.space % 4 * 2 ^ 18 + (if r.write then 2 ^ 17 else 0) + (if restart then 2 ^ 16 else 0) + r.info % 256 * 2 ^ 8 + r.cause % 256

/-- `sr.tmask`: every lane that raises the reported cause; the whole bundle for ILLEGAL_INSTR and STALL_UNDERSIZE (spec/03 R85,
spec/04 R123). DEDUCED, log entry 105. -/
def tmaskOf (bundle : DWord) (cause : Nat) (rs : List Raise) : DWord :=
  if cause = cIllegal ∨ cause = cStall then bundle
  else maskOf ((rs.filter fun r => decide (r.cause = cause)).map (·.lane))

/-- `sr.tpend`: a bit for each other cause that any lane raises (spec/11 R272). -/
def tpendOf (cause : Nat) (rs : List Raise) : Word :=
  rs.foldl (fun p r => if r.cause = cause ∨ r.cause = 0 ∨ 20 ≤ r.cause then p else p ||| (1#32 <<< r.cause)) 0

/-! ### Taking a trap and leaving the handler (spec/11 R273 to R276) -/

/-- The frame that a trap saves, and the handler that starts. -/
def Wave.handlerFor (w : Wave) (lanes : DWord) : Handler :=
  { pc := w.tvec, lanes := lanes, frameS := Sparse.getList w.regs.s 48 16, frameM10 := w.regs.m.get 10, frameM11 := w.regs.m.get 11,
    frameSc := w.regs.sc, frameFstat := w.fstat }

/-- The wave of a trap: its entry leaves the table, pending results land, the trap registers are written (steps 2 to 4 of R273). -/
def Wave.trapped (w : Wave) (bundle epc : DWord) (r : Raise) (rs : List Raise) : Wave :=
  { w.landAll with
    table := w.without bundle
    tsw := BitVec.ofNat 32 (tswOf w.restart r)
    epc := epc
    tmask := tmaskOf bundle r.cause rs
    tpend := tpendOf r.cause rs
    held := Hints.empty
    first := none }

/-- A trap of the bundle at the group whose first word stands at `epc` (spec/11 R273). A cause raised in the handler ends the task by
abort with KIND 2 (R276); with a zero `sr.tvec` the task ends by abort with KIND 1. DEDUCED, log entries 105, 106. -/
def State.takeTrap (s : State) (slot : Nat) (bundle epc : DWord) (r0 : Raise) (rest : List Raise) : State :=
  match s.waves.get? slot with
  | none => s
  | some w =>
    let rs := r0 :: rest
    let r := reportedFrom r0 rest
    match w.handler with
    | some _ => s.abort slot 2 (tswOf w.restart r) epc true
    | none =>
      let w1 := w.trapped bundle epc r rs
      if w.tvec = 0 then
        (s.setWave slot { w1 with handler := some (w1.handlerFor bundle) }).abort slot 1 w1.tsw.toNat epc true
      else s.setWave slot { w1 with handler := some (w1.handlerFor bundle) }

/-- The frame restored: s48 to s63, m10, m11, `sc` and `sr.fstat` (spec/11 R275). Results that the handler left pending to those
registers are discarded with its values. DEDUCED, log entry 39. -/
def Wave.restoreFrame (w : Wave) (h : Handler) : Wave :=
  let frameReg : RegName → Bool
    | .s n => decide (48 ≤ n)
    | .m n => decide (n = 10 ∨ n = 11)
    | .sc => true
    | .v _ => false
  { w with
    regs := { w.regs with s := Sparse.setList w.regs.s 48 h.frameS, m := (w.regs.m.set 10 h.frameM10).set 11 h.frameM11, sc := h.frameSc }
    pend := w.pend.filter fun p => !frameReg p.write.reg
    fstat := h.frameFstat }

/-- The end of a handler by `tret`: the trapping entry returns to the table at `sr.epc` (spec/11 R275). -/
def Wave.leaveHandler (w : Wave) (h : Handler) : Wave :=
  let w1 := w.restoreFrame h
  { w1 with
    handler := none
    table := mergeReady ({ pc := w.epc, lanes := h.lanes, park := none } :: w1.table)
    held := Hints.empty
    first := none
    resort := true }

/-! ### Restart (spec/04 R110, spec/09 R223, R228, spec/11 R278) -/

/-- The lanes that a task started with: all of them for a launched task, the children's for a spawned one (spec/09 R223). -/
def Wave.startLanes (w : Wave) : DWord := if w.spawned then laneMask (min w.laneArgs.length w.hdr.width) else w.mask

/-- The registers of a task at its start (spec/01 R24). -/
def startRegs (arg : DWord) : Regs :=
  { Regs.zero with s := Sparse.setList [] 0 [lowHalf arg, highHalf arg] }

/-- A wave restarted at its restart point: the open region's entry (R110), or the start of a spawned task (R223). DEDUCED, log entry 17. -/
def Wave.restarted (w : Wave) : Wave :=
  let clean : Wave :=
    { w with
      pend := [], varPend := [], handler := none, held := Hints.empty, first := none, rstack := [], stepBuf := [], mwait := none
      ownerFault := none, resort := true, count := 0 }
  match w.region with
  | some r =>
    { clean with
      table := [{ pc := r.pc, lanes := w.liveLanes, park := none }]
      regs := { Regs.zero with s := Sparse.setList [] 0 r.s }
      region := none
      restart := w.spawned && !w.committed }
  | none =>
    { clean with
      table := [{ pc := BitVec.ofNat 64 (w.hdr.va + w.hdr.entry), lanes := w.startLanes, park := none }]
      regs := startRegs (w.laneArgs.headD 0)
      fstat := 0
      fmode := 0
      tvec := if w.hdr.handler = 0 then 0 else BitVec.ofNat 64 (w.hdr.va + w.hdr.handler)
      chk := false
      seed := w.startSeed
      rxwin := 0
      ckey := 0
      tsw := 0
      epc := 0
      tmask := 0
      tpend := 0
      restart := true
      committed := false }

/-- The lane arguments of a spawned task in its own scratchpad allocation (spec/09 R223). -/
def State.writeLaneArgs (s : State) (core base lines : Nat) (args : List DWord) : State :=
  (s.clearRun core base lines).spadStore core (base * 128) (args.flatMap fun a => leBytes 8 a.toNat)

/-- Restart a resident task; its uncommitted version is discarded, and the objects that its entries waited on count them no more (spec/09
R230, R244). DEDUCED, log entry 17. -/
def State.restartWave (s : State) (slot : Nat) : State :=
  match s.waves.get? slot with
  | none => s
  | some w =>
    let s1 : State := { s with versions := s.versions.del w.task }
    let s2 := (s1.setWave slot { w.restarted with eligAt := max s.now w.nextIssue }).recount slot w
    match w.region, s.teams.get? w.team with
    | none, some t => s2.writeLaneArgs (coreOf slot) t.spadBase t.spadLines w.laneArgs
    | _, _ => s2

/-- Where a wave stands: its handler, or the head of its table; the PC and the lanes. -/
def Wave.headAt (w : Wave) : DWord × DWord :=
  match w.handler, w.table with
  | some h, _ => (h.pc, h.lanes)
  | none, e :: _ => (e.pc, e.lanes)
  | none, [] => (0, 0)

/-- An uncorrectable error in a wave's own state; its trap registers name the bundle that would issue next (spec/11 R271, R278). DEDUCED, log
entry 105. -/
def State.machineCheck (s : State) (slot info : Nat) : State :=
  match s.waves.get? slot with
  | none => s
  | some w =>
    let tsw := tswOf w.restart { lane := 0, cause := cMachineCheck, info := info, write := false, space := 0 }
    let at_ := w.headAt
    let epc := w.first.getD at_.1
    let s1 := s.setWave slot { w with tsw := BitVec.ofNat 32 tsw, epc := epc, tmask := at_.2, tpend := 0 }
    if info ≤ 2 ∧ w.restart = true ∧ w.softErrors = 0 then
      (((s1.modWave slot fun x => { x with softErrors := 1 }).restartWave slot)).logFault w.ctx
        (faultRecord w.task tsw epc at_.2 (s.launchIdOf w) 3 3)
    else s1.abort slot 3 tsw epc true

/-! ### What an instruction does, and what the issue does after it -/

/-- The result of performing an instruction for its bundle. -/
inductive Did where
  /-- Performed; the lanes go on at the next word. -/
  | done (s : State)
  /-- Performed; the lanes go to these PCs. Where they part, `front` names the side that becomes head; none stands for the ready entry
  with the lowest PC (spec/01 R21). -/
  | goto (s : State) (groups : List (DWord × DWord)) (front : Option DWord)
  /-- The lanes raise causes, and nothing is performed (spec/00 R11). -/
  | trap (s : State) (r : Raise) (rest : List Raise)
  /-- The wave waits at issue (spec/04 R122): nothing is performed, and the word issues again. -/
  | wait (s : State)
  /-- The entry parks (spec/01 R22). -/
  | park (s : State) (p : Park)
  /-- The instruction has rewritten the table itself. -/
  | left (s : State)
  deriving DecidableEq, Repr

/-- The state that it reached. -/
def Did.state : Did → State
  | .done s => s
  | .goto s _ _ => s
  | .trap s _ _ => s
  | .wait s => s
  | .park s _ => s
  | .left s => s

/-- A list of raises as a trap, or what is done without one. -/
def Did.orTrap (s : State) (rs : List Raise) (d : Did) : Did :=
  match rs with
  | [] => d
  | r :: t => .trap s r t

/-- A wave of the list is still ready (spec/04 R109). DEDUCED, log entry 9. -/
def State.stillReady (s : State) (slot : Nat) : Bool := (s.waves.get? slot).any fun w => w.hasReady || w.handler.isSome

/-- A wave that issued `yield` is passed over until the others have issued, and for at most 64 cycles (spec/04 R109, spec/12 R316). DEDUCED,
log entry 9. -/
def State.yielding (s : State) (w : Wave) : Bool :=
  decide (s.now < w.nextIssue + 63) && w.yieldTo.any s.stillReady

/-- The waves in the slots of a team. -/
def State.teamWaves (s : State) (t : Team) : List (Nat × Wave) :=
  t.slots.filterMap fun n => (s.waves.get? n).map fun w => (n, w)

/-- The task that runs as a team was adopted, or helps such a task. -/
def State.isOwnerTeam (s : State) (key : Nat) : Bool :=
  (s.waves.any fun e => decide (e.2.team = key ∧ 0 < e.2.adopt)) ||
    s.ctxSlots.any fun e => decide (e.2.use = .helper) && e.2.wave.any fun w => decide (w.team = key ∧ 0 < w.adopt)

/-- The teams of the adoption chains in a team's slots. DEDUCED, log entry 85. -/
def State.chainTeams (s : State) (key : Nat) (t : Team) : List (Nat × Team) :=
  s.teams.filter fun e => decide (e.1 ≠ key) && s.isOwnerTeam e.1 && decide (e.2.slots ≠ []) && e.2.slots.all t.slots.contains

/-- Every live wave of the team has its restartable flag set, and none runs an adopted task. -/
def State.discardable (s : State) (t : Team) : Bool :=
  (s.teamWaves t).all fun e => e.2.restart && decide (e.2.adopt = 0)

/-- The team is discarded and not saved; an adoption chain never is (spec/11 R281, R283). -/
def State.discards (s : State) (key : Nat) (t : Team) : Bool := decide (s.chainTeams key t = []) && s.discardable t

/-- No live wave of the team has a ready entry, and none runs a handler. -/
def State.allParked (s : State) (t : Team) : Bool := (s.teamWaves t).all fun e => !e.2.hasReady && e.2.handler.isNone

/-- A team whose save or whose discard begins: with a request pending for its context, no wave of it can go on, or every live wave of it is
restartable (spec/11 R280, R281). A discard ends unfinished where a commit clears a flag that it rests on (spec/09 R226, R228). DESIGN CHOICE,
log entry 122. -/
def State.stopDue? (s : State) : Option (Nat × Team) :=
  if !(s.contexts.any fun c => decide (c.2.state = 2)) then none
  else
    (s.teams.filterMap fun e =>
      let t := e.2
      if (s.context t.ctx).state ≠ 2 ∨ t.saving = true ∨ s.isOwnerTeam e.1 = true then none
      else if t.discarding then (if s.discards e.1 t then none else some (e.1, { t with discarding := false }))
      else if s.discards e.1 t then some (e.1, { t with discarding := true })
      else if s.allParked t then some (e.1, { t with saving := true })
      else none).head?

/-- The team of a wave is being saved or discarded, or the wave runs in the place of a wave of such a team (spec/11 R280, R283). -/
def State.haltedTeam (s : State) (slot : Nat) (w : Wave) : Bool :=
  let halted (t : Nat) : Bool := (s.teams.get? t).any fun t => t.saving || t.discarding
  halted w.team || (decide (w.adopt ≠ 0) && s.ctxSlots.any fun e => decide (e.2.slot = slot) && e.2.wave.any fun h => halted h.team)

/-- The wave may issue in this cycle, as far as the core can tell before the word is read (spec/12 R312). That its unit accepts no
word is a turn of the agenda. DEDUCED, log entry 9. -/
def State.eligible (s : State) (slot : Nat) (w : Wave) : Bool :=
  (w.hasReady || w.handler.isSome) && decide (w.nextIssue ≤ s.now) && decide (w.eligAt ≤ s.now) && (w.midGroup || !s.haltedTeam slot w)

/-- Another wave of the core sees a pick that it is not chosen in: one that yields becomes eligible in the next cycle at the earliest,
and one that is eligible has given way (spec/04 R109, spec/12 R313). A hint word of another wave counts as the one word that it may
issue. DEDUCED, log entry 9. -/
def State.passedOver (s : State) (slot : Nat) (e : Nat × Wave) : Wave :=
  let w := e.2
  if s.yielding w then { w with yieldTo := delNat slot w.yieldTo, eligAt := max w.eligAt (s.now + 1) }
  else { w with giveWay := w.giveWay && !s.eligible e.1 w }

/-- What a cluster does for a task counts towards the oldest of the task's launches (spec/15 R364). DESIGN CHOICE, log entry 19. -/
def State.addActivity (s : State) (clus : Nat) (launches : List Nat) (n : Nat) : State :=
  match launches with
  | [] => s
  | k :: ks =>
    let l := ks.foldl min k
    let a := s.activity.getD clus []
    { s with activity := s.activity.put clus (Assoc.put a l (Assoc.getD a l 0 + n)) }

/-- The issue of one word takes the cycle of its core; the wave's next word is at least gap cycles later (spec/04 R120), and the other
waves of the core see the pick. The word counts in the activity of the cluster, for the launches of the task that issued it (spec/15 R364). -/
def State.charge (s : State) (launches : List Nat) (slot gap : Nat) (giveWay : Bool) : State :=
  let c := coreOf slot
  { s.addActivity (clusOf c) launches 1 with
    cores := s.cores.put c { s.core c with free := s.now + 1 }
    waves := s.waves.map fun e =>
      if e.1 = slot then (e.1, { e.2 with nextIssue := s.now + 1 + gap, eligAt := s.now + 1 + gap, giveWay := giveWay, waits := false })
      else if coreOf e.1 = c then (e.1, s.passedOver slot e)
      else e }

/-- A wave that waits at issue is tried again in each cycle and takes no cycle of its core until it issues (spec/12 R312). DEDUCED, log entry
37. -/
def State.waitIssue (s : State) (slot : Nat) : State :=
  s.modWave slot fun w => { w with nextIssue := s.now + 1, eligAt := s.now + 1, waits := true, first := if w.held = Hints.empty then none else w.first }

/-- The bundle stands at other PCs after an issue: the entry is replaced, the issue is counted, and ready entries merge (spec/01 R19,
R20, R21). -/
def Wave.moveTo (w : Wave) (lanes : DWord) (groups : List (DWord × DWord)) (front : Option DWord) : Wave :=
  let others := w.table.filter fun e => !decide (e.lanes = lanes)
  let parts : List Entry := groups.map fun g => { pc := g.1, lanes := g.2, park := none }
  let first := parts.filter fun e => decide (some e.pc = front)
  let rest := parts.filter fun e => !decide (some e.pc = front)
  { w with
    table := mergeReady (first ++ rest ++ others)
    resort := w.resort || (if groups.length ≤ 1 then decide (w.count = 3) else front.isNone)
    count := if groups.length ≤ 1 then w.count + 1 else 0 }

/-- The group of the word has ended: hints are no longer held. DEDUCED, log entry 106. -/
def Wave.endGroup (w : Wave) : Wave := { w with held := Hints.empty, first := none }

/-- A resumed instruction is complete: its entry is ready at the next word (spec/01 R22). -/
def Wave.resumeAt (w : Wave) (now : Nat) (lanes : DWord) (groups : List (DWord × DWord)) : Wave :=
  let parts : List Entry := groups.map fun g => { pc := g.1, lanes := g.2, park := none }
  ({ w with
     table := (w.table.filter fun (e : Entry) => !decide (e.lanes = lanes)) ++ parts
     resort := true
     eligAt := if w.table.any fun e => e.park.isNone then w.eligAt else max w.nextIssue now }).merged

/-- The lanes of the word in issue move: in a handler the handler's PC, else the table. -/
def State.move (s : State) (i : Issue) (groups : List (DWord × DWord)) (front : Option DWord) : State :=
  s.modWave i.slot fun w =>
    if i.resumed then w.resumeAt s.now i.lanes groups
    else
      match w.handler with
      | some h => { w.endGroup with handler := some { h with pc := (groups.map (·.1)).headD h.pc } }
      | none => w.endGroup.moveTo i.lanes groups front

/-- The entry of the word in issue parks, at the word itself; a re-sort follows (spec/01 R19, R22). -/
def State.parkAt (s : State) (i : Issue) (p : Park) : State :=
  s.modWave i.slot fun w =>
    { (if i.resumed then w else w.endGroup) with
      table := w.table.map fun e => if e.lanes = i.lanes then { e with pc := i.pc, park := some p } else e
      resort := w.resort || !i.resumed }

/-- What follows the parking of an entry: a mask or a wide barrier that is now complete releases it, and an adopted task with no ready
entry is suspended (spec/01 R23, spec/08 R210, spec/09 R234, R238). DEDUCED, log entry 11. -/
def State.afterPark (s : State) (slot : Nat) (p : Park) : State :=
  let s1 := match p with
    | .waitm m => s.modWave slot fun w => w.recheck m
    | .wbar =>
      match s.waves.get? slot with
      | some w => s.checkWbars ((s.teams.get? w.team).bind (·.launch)) w.team
      | none => s
    | _ => s
  (s1.retryOwned (s1.taskAt slot)).suspendOwner slot

/-- An entry that became ready: the waiters of its task's objects are decided again (spec/09 R234). -/
def State.afterRelease (s : State) (i : Issue) : State := if i.resumed then s.retryOwned (s.taskAt i.slot) else s

/-- A parked entry waits at issue instead: it is ready at the first word of the group of its instruction, and the wave is eligible from the
next cycle (spec/01 R22, spec/07 R183). Its operands are read again. DEDUCED, log entry 7. -/
def Wave.reissue (w : Wave) (now : Nat) (lanes first : DWord) : Wave :=
  { w with
    table := w.table.map fun e => if e.lanes = lanes then { e with park := none, pc := first } else e
    resort := true
    eligAt := if w.hasReady then w.eligAt else max w.nextIssue (now + 1) }

/-- A word that has to wait: one that issues waits at issue, and one that was parked is ready again at its group. -/
def State.waitAgain (s : State) (i : Issue) : State :=
  if i.resumed then (s.modWave i.slot fun w => w.reissue s.now i.lanes i.first).afterRelease i else s.waitIssue i.slot

/-- The launches that the task in a slot counts towards. -/
def State.launchesAt (s : State) (slot : Nat) : List Nat := ((s.waves.get? slot).map (·.launches)).getD []

/-- What an issue does after its instruction, for a task of some launches. A resumed instruction is charged no cycle; where it has to wait, it
waits at issue. -/
def Did.settle (d : Did) (launches : List Nat) (i : Issue) (gap : Nat) (giveWay : Bool) : State :=
  let charge (t : State) : State := if i.resumed then t else t.charge launches i.slot gap giveWay
  match d with
  | .done t => ((charge t).move i [(i.pc + 4, i.lanes)] none).afterRelease i
  | .goto t gs front => ((charge t).move i gs front).afterRelease i
  | .trap t r rest =>
    ((if i.resumed then t.modWave i.slot fun w => { w with eligAt := max w.nextIssue t.now } else t.charge launches i.slot 0 false)).takeTrap
      i.slot i.lanes i.first r rest
  | .wait t => t.waitAgain i
  | .park t p => if i.resumed then t.parkAt i p else ((charge t).parkAt i p).afterPark i.slot p
  | .left t => (charge t).modWave i.slot fun w => if i.resumed then w else w.endGroup

/-- The wave of a stalled operation waits with a copying tile (spec/14 R353): an uncaptured tile starts copying, and the die's
counter of its stalls counts the wait once. DESIGN CHOICE, log entry 6. -/
def State.noteStall (s : State) (slot : Nat) : Stall → State
  | .copying t =>
    if s.snap.waiters.contains (t, slot) then s
    else
      let d := homeDie (t * 65536)
      ({ s with snap := { s.snap with
          uncaptured := delNat t s.snap.uncaptured
          copying := addNat t s.snap.copying
          waiters := s.snap.waiters ++ [(t, slot)] } } : State).modDie d fun x => { x with cowStall := x.cowStall + 1 }
  | .moving t =>
    let d := homeDie (t * 65536)
    let known := (s.die d).moves.any fun m => decide (m.tile = t) && m.waiters.contains slot
    if known then s
    else s.modDie d fun x =>
      { x with
        moves := x.moves.map fun m => if m.tile = t then { m with waiters := m.waiters ++ [slot] } else m
        tierStall := x.tierStall + 1 }
  | .closing _ => s
  | .persists => s
  | .remote => s

/-- What an issue leaves, or a wait of its word where the trap or the parking met a stall (spec/11 R277, spec/09 R238). DESIGN CHOICE, log
entry 6. -/
def State.orWait (u s : State) (i : Issue) : State :=
  if u.stall = [] then u else (foldState (fun t x => t.noteStall i.slot x) s u.stall).waitAgain i

/-- What an issue does after its instruction, from the state in which the word issued: a trap writes a record and an abort the objects of
its task, and a parked adopted task is saved, and all of these wait for a tile as a store does. -/
def Did.finish (d : Did) (s : State) (i : Issue) (gap : Nat) (giveWay : Bool) : State :=
  let u := d.settle (s.launchesAt i.slot) i gap giveWay
  match d with
  | .trap _ _ _ => u.orWait s i
  | .park _ _ => u.orWait s i
  | _ => u

/-- The number that stands for an agent other than a wave in the list of those that wait for a tile. DESIGN CHOICE, log entry 6. -/
def agentOf (n : Nat) : Nat := 1000000 + n

/-- An event that met a stall is undone, and its agent waits (spec/13 R331, spec/14 R353). DESIGN CHOICE, log entry 6. -/
def settleEvent (agent : Nat) (s t : State) : State :=
  if t.stall = [] then t else foldState (fun s x => s.noteStall (agentOf agent) x) s t.stall

/-- The agent that saves and restores teams, for the list of those that wait. -/
def imageAgent : Nat := 252

/-- The agent of the scheduler, for the list of those that wait. -/
def schedAgent : Nat := 251

/-- The agent of a cluster's matrix store port. The cluster's copy engine has the cluster's own number. -/
def storeAgent (clus : Nat) : Nat := 300 + clus

/-- The agent of a machine check. -/
def checkAgent : Nat := 249

/-- An operation that met a stall is undone, and it waits (spec/13 R331, spec/14 R353, spec/06 R169). DESIGN CHOICE, log entry 6. -/
def Did.unstalled (s : State) (slot : Nat) (d : Did) : Did :=
  let t := d.state
  if t.stall = [] then d else .wait (foldState (fun s x => s.noteStall slot x) s t.stall)

/-! ### The checks as a word issues -/

/-- Causes that every lane of the bundle raises (spec/11 R270). -/
def bundleRaise (lanes : DWord) (cause info : Nat) : List Raise :=
  (lanesOf lanes).map fun l => { lane := l, cause := cause, info := info, write := false, space := 0 }

/-- Instructions that raise their causes for each lane of the bundle; every other acts for the Leader (spec/03 R84, spec/11 R270). -/
def Instr.perLane : Instr → Bool
  | .brx _ _ | .br _ _ _ _ _ | .jmp _ _ | .call _ _ | .ret _ | .exit _ | .join _ _ | .leave _ _ | .waitm _ _ | .sleep _ _ _ | .yield _
  | .nop _ | .trap _ _ | .tret _ | .tretAbort _ | .brk _ _ | .isync _ | .ppt _ | .idem _ | .idemend _ | .spawn _ _ => true
  | .hintLitlo _ | .hintLithi _ | .hintGuard _ _ | .hintMod _ _ _ _ _ _ _ _ _ | .hintRnd _ | .hintScope _ | .hintCache _
  | .hintGap _ => true
  | i => (Instr.accepts i).guard

/-- The lanes that raise a cause of an instruction as a whole. -/
def Issue.raising (i : Issue) (instr : Instr) : DWord := if Instr.perLane instr then i.lanes else maskOf [i.leader]

/-- The encoding of the word is legal for the wave: well formed, legal under its version, with every v-register inside the footprint,
hints that it accepts and operands that they allow, and legal in a handler where the wave runs one (spec/01 R25, spec/03 R68, R71, R85,
R86, spec/11 R274). -/
def Instr.legal (i : Instr) (w : Wave) (h : Hints) : Bool :=
  decide (Instr.version i ≤ w.hdr.encv) && ((Instr.vregs h i).all fun n => decide (n < w.hdr.vregs)) &&
    (Instr.accepts i).ok h && Instr.operandsOk w.hdr.width h i && (w.handler.isNone || Instr.inHandler i)

/-- Hint words follow the count rule instead (spec/03 R67). -/
def Hints.list (h : Hints) : Nat :=
  (if h.litlo.isSome then 1 else 0) + (if h.lithi.isSome then 1 else 0) + (if h.guard.isSome then 1 else 0) + (if h.mod.isSome then 1 else 0) +
    (if h.rnd.isSome then 1 else 0) + (if h.scope.isSome then 1 else 0) + (if h.cache.isSome then 1 else 0) + (if h.gap.isSome then 1 else 0)

/-- A source has a pending fixed-latency result (spec/04 R120). DEDUCED, log entry 10. -/
def Wave.early (w : Wave) (rs : List RegName) : Bool := w.pend.any fun p => rs.contains p.write.reg

/-- A source waits for a variable-latency result (spec/04 R122). -/
def Wave.awaits (w : Wave) (rs : List RegName) : Bool := w.varPend.any fun d => rs.contains d.reg

/-- The task runs a capsule body, outside a handler (spec/09 R245). -/
def Wave.inBody (w : Wave) : Bool := decide (w.ckey ≠ 0) && w.handler.isNone

/-- The raise of one cause by the lanes of an instruction as a whole. -/
def Issue.raiseAll (i : Issue) (s : State) (instr : Instr) (cause info : Nat) : Did :=
  Did.orTrap s (bundleRaise (i.raising instr) cause info) (.left s)

/-- The words of the step so far count the word in issue (spec/09 R245). DEDUCED, log entry 14. -/
def State.countWord (s : State) (w : Wave) : State :=
  if w.inBody && !s.issue.resumed then s.setWave s.issue.slot { w with stepWords := w.stepWords + 1 } else s

/-- A wait is no issue: the word is not counted. -/
def Did.uncounted (d : Did) (slot : Nat) (w : Wave) : Did :=
  match d with
  | .wait t => if w.inBody then .wait (t.modWave slot fun x => { x with stepWords := w.stepWords }) else d
  | d => d

/-- The word may not issue in the capsule body that the task runs, or it is the 33rd of its step (spec/09 R245). DEDUCED, log entry 14. -/
def Wave.limited (w : Wave) (instr : Instr) (resumed : Bool) : Bool :=
  w.inBody && (!Instr.inCapsule instr || (!resumed && decide (32 ≤ w.stepWords)))

/-- The causes that an instruction raises. -/
def Did.raises : Did → List Raise
  | .trap _ r rest => r :: rest
  | _ => []

/-- A cause of an instruction rests on the values of its operands: every one that STALL_UNDERSIZE wins over, but for the capsule's and for
a reserved format code, and the check of the value that `smto` writes. DEDUCED, log entry 10. -/
def Instr.fromOperands (i : Instr) (cause : Nat) : Bool :=
  match i with
  | .smto _ _ _ => decide (cause = cIllegal)
  | .sfcvt _ _ _ _ _ => false
  | _ => decide (causePriority cStall ≤ causePriority cause ∧ cause ≠ cCapsule)

/-- The causes of a word that reads a fixed-latency source too early under the checking scoreboard: STALL_UNDERSIZE, and those that do not
rest on an operand (spec/04 R123, spec/11 R270). DEDUCED, log entry 10. -/
def Did.stalled (d : Did) (s : State) (instr : Instr) (lanes : DWord) : Did :=
  let early := d.raises.filter fun (x : Raise) => !Instr.fromOperands instr x.cause
  Did.orTrap s (early ++ bundleRaise lanes cStall 0) (.left s)

/-- A word that may not issue in a capsule body is not performed: the causes that it raises, and CAPSULE_LIMIT (spec/09 R245, spec/11
R270). -/
def Did.refused (d : Did) (s : State) (static : List Raise) : Did := Did.orTrap s (d.raises ++ static) (.left s)

/-- An instruction word issues: the checks, then what the instruction does for its bundle. The body is given the state, and the wave
as the word found it. DEDUCED, log entry 10. -/
def State.perform (s : State) (instr : Instr) (w : Wave) (body : State → Wave → Did) : Did :=
  let i := s.issue
  let reads := Instr.reads instr i.held (Instr.drawsRsr instr (i.mode w))
  let c := s.countWord w
  if (!instr.wf && !instr.formatCodeOnly) || !Instr.legal instr w i.held then i.raiseAll c instr cIllegal 0
  else if !i.resumed && w.awaits reads then .wait s
  else
    let act := if instr.wf then body c w else i.raiseAll c instr cSlot 0
    let did :=
      if w.limited instr i.resumed then act.refused c (bundleRaise (i.raising instr) cCapsule 0)
      else (act.unstalled c i.slot).uncounted i.slot w
    if w.chk && !i.resumed && w.early reads then did.stalled c instr i.lanes else did

/-- The gap of a word: its field, or the GAP hint that replaces it (spec/03 R64, R65). -/
def gapOf (q : Sched) (h : Hints) : Nat := match h.gap with
  | some g => g.toNat
  | none => q.gap.toNat

/-- Issue of an instruction word. -/
def issueWord (q : Sched) (instr : Instr) (s : State) (body : State → Wave → Did) : Host.Outcome State Fault Refusal :=
  match s.waves.get? s.issue.slot with
  | none => .fault .noIssuingWave
  | some w => .next ((s.perform instr w body).finish s s.issue (gapOf q s.issue.held) q.giveWay)

/-- The hint in force, added to those held (spec/03 R65, R67); none where the kind is held already. -/
def Hints.add (h : Hints) : Instr → Option Hints
  | .hintLitlo x => if h.litlo.isSome then none else some { h with litlo := some x }
  | .hintLithi x => if h.lithi.isSome then none else some { h with lithi := some x }
  | .hintGuard v m => if h.guard.isSome then none else some { h with guard := some (v, m) }
  | .hintMod sel hf ord w64 sat ab nb aa na =>
    if h.mod.isSome then none
    else some { h with mod := some { sel := sel, hf := hf, ord := ord, w64 := w64, sat := sat, ab := ab, nb := nb, aa := aa, na := na } }
  | .hintRnd m => if h.rnd.isSome then none else some { h with rnd := some m }
  | .hintScope c => if h.scope.isSome then none else some { h with scope := some c }
  | .hintCache p => if h.cache.isSome then none else some { h with cache := some p }
  | .hintGap g => if h.gap.isSome then none else some { h with gap := some g }
  | _ => none

/-- The wave after a hint word: the hint is held, and the bundle stands at the next word inside its group; no entry merges and no
re-sort is made (spec/01 R20, spec/03 R67). -/
def Wave.hinted (w : Wave) (i : Issue) (h : Hints) : Wave :=
  let w1 := { w with held := h, first := some i.first }
  match w.handler with
  | some x => { w1 with handler := some { x with pc := i.pc + 4 } }
  | none => { w1 with table := w.table.map fun e => if e.lanes = i.lanes then { e with pc := i.pc + 4 } else e }

/-- Issue of a hint word (spec/03 R65, R67, spec/09 R245). DEDUCED, log entry 14. -/
def issueHint (instr : Instr) (s : State) : Host.Outcome State Fault Refusal :=
  let i := s.issue
  match s.waves.get? i.slot with
  | none => .fault .noIssuingWave
  | some w =>
    let did :=
      if !instr.wf || decide (w.hdr.encv < Instr.version instr) || decide (2 ≤ Hints.list i.held) then i.raiseAll s instr cIllegal 0
      else
        match Hints.add i.held instr with
        | none => i.raiseAll s instr cIllegal 0
        | some h =>
          if w.inBody && !Instr.inCapsule instr then i.raiseAll s instr cCapsule 0
          else .left ((s.charge w.launches i.slot 0 false).modWave i.slot fun w => w.hinted i h)
    match did with
    | .left t => .next t
    | d => .next (d.finish s i 0 false)

/-- A word that decodes to no instruction (spec/03 R85). -/
def State.illegalWord (s : State) : State :=
  let c := match s.waves.get? s.issue.slot with
    | some w => s.countWord w
    | none => s
  (Did.orTrap c (bundleRaise s.issue.lanes cIllegal 0) (.left c)).finish s s.issue 0 false

/-! ### Writers of the wave in issue -/

/-- Change the wave in issue. -/
def State.wave (s : State) (f : Wave → Wave) : State := s.modWave s.issue.slot f

/-- A result of latency n (spec/04 R119, R120). -/
def State.later (s : State) (n : Nat) (l : Landing) : State := s.wave fun w => w.later (s.now + n) l

/-- A variable-latency result. -/
def State.putNow (s : State) (l : Landing) : State := s.wave fun w => w.now l

/-- Float flags are ORed in (spec/01 R28). -/
def State.raiseFlags (s : State) (f : FFlags) : State := s.wave fun w => { w with fstat := w.fstat ||| f }

/-- A mask result of latency n; the release of its waiters is tested (spec/01 R23). DEDUCED, log entry 16. -/
def State.laterMask (s : State) (n reg : Nat) (x : DWord) : State := s.wave fun w => (w.later (s.now + n) (.msk reg x)).recheck reg

/-- A 64-bit variable-latency result in a scalar pair. -/
def State.putPair (s : State) (reg : Nat) (x : DWord) : State := (s.putNow (.sca reg (lowHalf x))).putNow (.sca (reg + 1) (highHalf x))

/-- A status: `sc` is 0, sD holds the code, and sD+1 the task it concerns (spec/09 R220). -/
def State.putStatus (s : State) (sd code owner : Nat) : State :=
  ((s.putNow (.sca sd (BitVec.ofNat 32 code))).putNow (.sca (sd + 1) (BitVec.ofNat 32 owner))).putNow (.cond false)

end Sys2Proof.Machine
end

