-- ==== Sys2Proof/Machine/Persist.lean ====
section
/-! DEFINITION. Persistent stores and remote stores as a wave posts them, releases and acquires, and what a `qfence` orders (spec/06
R153, R163 to R169, spec/10 R255, R256, R262, R265, spec/13 R334 to R338). -/

namespace Sys2Proof.Machine

/-- The cluster, and the die, of the wave in issue. -/
def State.hereClus (s : State) : Nat := clusOf (coreOf s.issue.slot)
def State.hereDie (s : State) : Nat := dieOf s.hereClus

/-! ### The persist write-back queue -/

/-- The 32-byte lines of a group. -/
def WbqGroup.lines (g : WbqGroup) : List Nat := (g.bytes.map fun e => e.1 / 32).eraseDups

/-- Bytes of capacity that a list of groups takes (spec/13 R335). -/
def wbqUsed (gs : List WbqGroup) : Nat := (gs.map fun g => 32 * g.lines.length).sum

/-- Two groups have a line in common. -/
def WbqGroup.meets (g h : WbqGroup) : Bool := g.lines.any h.lines.contains

/-- The group finds capacity in the queue of its die, and no line of it is pending in another die's queue (spec/13 R335, R338). A queue
whose capacity is below 1 MiB runs write-through: a group finds it empty. -/
def State.fits (s : State) (g : WbqGroup) : Bool :=
  let d := s.die g.die
  (if d.wbqCap < 2 ^ 20 then decide (d.wbq = []) else decide (wbqUsed (g :: d.wbq) ≤ d.wbqCap)) &&
    (List.range 4).all fun k => decide (k = g.die) || !((s.die k).wbq.any fun h => h.meets g)

/-- The group writes every byte of the 64-byte granule of SCM that a row lies in. -/
def WbqGroup.covers (g : WbqGroup) (row : Nat) : Bool := (List.range 64).all fun k => g.bytes.any fun b => decide (b.1 = row / 64 * 64 + k)

/-- The bytes of a group are written to SCM. A granule takes the error mark that the group carries to it, and loses its own where the group
writes it whole (spec/13 R328, R336). -/
def State.writeHome (s : State) (g : WbqGroup) : State :=
  let granule (s : State) (n : Nat) : State :=
    let rows := granuleRows true (64 * n)
    if rows.any g.marks.contains then foldState (State.markScm · true) s rows
    else if g.covers (64 * n) then foldState (State.markScm · false) s rows
    else s
  foldState granule { s with scm := g.bytes.foldl (fun m b => Sparse.set m b.1 b.2) s.scm } (g.bytes.map fun b => b.1 / 64).eraseDups

/-- The cores whose L1 a write of a task leaves no older copy in: the one that issued it, and the one where the task runs now (spec/10 R252,
R258). -/
def State.writerCores (s : State) (core task : Nat) : List Nat :=
  core :: (s.waves.filterMap fun e => if e.2.task = task ∧ coreOf e.1 ≠ core then some (coreOf e.1) else none)

/-- A group enters: its bytes update the coherent copy without making a tile dirty, and they wait in the queue, or are written to SCM
at once where the queue runs write-through (spec/13 R335, R336, R338). Bytes that it found marked stay so (R328). -/
def State.enter (s : State) (g : WbqGroup) : State :=
  let t := s.store g.bytes
  if t.stall ≠ s.stall then t
  else
    let kept (a : Nat) : Bool := !(g.bytes.any fun b => decide (b.1 = a)) || s.dirty.contains a
    let t1 := foldState (fun u c => u.dropCells c g.bytes)
      { t with dirty := t.dirty.filter kept, marks := g.marks.foldl (fun l r => addNat r l) t.marks } (s.writerCores (coreOf g.slot) g.task)
    if (t1.die g.die).wbqCap < 2 ^ 20 then t1.writeHome g
    else t1.modDie g.die fun d => { d with wbq := d.wbq ++ [g] }

/-- The group that a store instruction of a wave makes of the bytes that it writes on PERSIST pages, later bytes last (spec/06 R168). -/
def Wave.group (w : Wave) (num slot : Nat) (bytes : List Host.Cell) : WbqGroup :=
  { num := num, slot := slot, task := w.task, launches := w.launches, epoch := w.pfences, die := dieOf (clusOf (coreOf slot)),
    bytes := bytes.foldl (fun m c => Assoc.put m c.1 c.2) [], marks := [] }

/-- An operation waits. DESIGN CHOICE, log entry 6. -/
def State.stallOn (s : State) (x : Stall) : State := { s with stall := x :: s.stall }

/-- A persistent store that must be performed now: it enters its queue, after every waiting group of its task, or the operation waits; `marked`
are the rows that it writes back with an error mark. DEDUCED, log entries 28, 41. -/
def State.enterNow (s : State) (w : Wave) (slot : Nat) (bytes : List Host.Cell) (marked : List Nat := []) : State :=
  if bytes = [] then s
  else
    let g : WbqGroup := { w.group s.nextNum slot bytes with marks := marked }
    if s.persists.any (fun h => decide (h.task = w.task)) || !s.fits g then s.stallOn .persists else s.enter g

/-- Persistent stores posted: they enter by an event of their own. -/
def State.post (s : State) (w : Wave) (slot : Nat) (bytes : List Host.Cell) : State :=
  if bytes = [] then s else { s with persists := s.persists ++ [w.group s.nextNum slot bytes], nextNum := s.nextNum + 1 }

/-- What a `pfence` orders waits until the earlier persistent stores of the wave have entered (spec/06 R169). DEDUCED, log entry 40. -/
def State.ordered (s : State) (slot : Nat) : State := if s.persistsPending slot then s.stallOn .persists else s

/-! ### Releases and acquires (spec/10 R255, R256) -/

/-- A remote store or `signal` of the wave has not been acknowledged (spec/10 R262). -/
def State.unacked (s : State) (w : Wave) : Bool := s.remoteOps.any fun r => decide (r.task = w.task)

/-- A release at a scope has to wait: for the wave's persistent stores to enter, and at system scope for the acknowledgements of its
remote operations (spec/10 R265, R262, spec/06 R166). DEDUCED, log entry 72. -/
def State.releaseWaits (s : State) (w : Wave) (scope : Nat) : Bool :=
  (s.persists.any fun g => decide (g.task = w.task)) ||
    (s.remoteOps.any fun r => decide (r.task = w.task) && r.persist.isSome && !r.performed) || (decide (scope = 5) && s.unacked w)

/-- A release of the wave in issue at a scope, and what it carries: at team scope or wider the version commits first; then the release
waits, and its instances count it (spec/10 R256, R265, R267). DEDUCED, log entries 15, 72. -/
def releasing (t : State) (w : Wave) (scope : Nat) (k : State → Did) : Did :=
  let slot := t.issue.slot
  let c := if 1 ≤ scope then t.commit slot else t
  if c.stall ≠ [] then .left c
  else if c.releaseWaits w scope then .wait c
  else k (c.release slot scope)

/-! ### What a `qfence` orders (spec/06 R167) -/

/-- The command is an `xfer`. DEDUCED, log entry 47. -/
def TierCmd.isXfer (c : TierCmd) : Bool := match c.op with
  | .tagc _ _ _ _ => false
  | _ => true

/-- The numbers of the operations that stand in some queue and have not been performed. -/
def State.outstanding (s : State) : List Nat :=
  (s.clusters.flatMap fun e => e.2.copies.map (·.num) ++ e.2.resv.map (·.num)) ++
    (s.dies.flatMap fun e => (e.2.tierQ.filter TierCmd.isXfer).map (·.num) ++ e.2.waggleQ.map (·.num)) ++
    ((s.remoteOps.filter fun r => !r.performed).map (·.num)) ++ s.invals.map (·.1)

/-- Every operation of a list has been performed. -/
def State.settled (s : State) (after : List Nat) : Bool :=
  after = [] || (let o := s.outstanding; after.all fun n => !o.contains n)

/-- The operations that precede one posted to a queue, by the `qfence` instructions of a list. -/
def orderedBefore (fs : List Qfence) (queue : Nat) : List Nat :=
  (fs.flatMap fun f => if f.queues.getLsbD queue then f.before else []).eraseDups

/-- What precedes a command that a wave posts to a queue of its team. -/
def State.teamAfter (s : State) (w : Wave) (queue : Nat) : List Nat :=
  match s.teams.get? w.team with
  | some t => (orderedBefore t.qfences queue).filter s.outstanding.contains
  | none => []

/-- What precedes a remote operation of a wave. DEDUCED, log entry 40. -/
def State.remoteAfter (s : State) (w : Wave) : List Nat := (orderedBefore w.qfences 4).filter s.outstanding.contains

/-! ### Remote stores (spec/10 R262) -/

/-- A remote store posted: the peer performs it by an event of its own. DESIGN CHOICE, log entry 12. -/
def State.postRemote (s : State) (w : Wave) (slot pa : Nat) (bs : List Byte) : State := s.sendOp (remoteStore w slot pa bs (s.remoteAfter w))

/-- Two ranges of bytes meet. -/
def rangesMeet (a n b m : Nat) : Bool := decide (a < b + m ∧ b < a + n)

/-- What an operation must follow before it is sent has been performed: operations that a `qfence` orders before it, earlier operations of
its task on the same location, and for a `signal` what its release covers: the persistent stores of its task posted before it, and at
system scope the acknowledgements of its task's earlier operations (spec/10 R262, R265, spec/06 R166, R167). -/
def State.sendable (s : State) (r : RemoteOp) : Bool :=
  !r.performed && s.settled r.after &&
    !(s.remoteOps.any fun x => decide (x.task = r.task ∧ x.num < r.num) && !x.performed &&
      (rangesMeet x.pa x.data.length r.pa r.data.length || (r.signal.isSome && x.persist.isSome))) &&
    (match r.signal with
     | none => true
     | some scope =>
       !(s.persists.any fun g => decide (g.task = r.task ∧ g.num < r.num)) &&
         (decide (scope ≠ 5) || !(s.remoteOps.any fun x => decide (x.task = r.task ∧ x.num < r.num))))

/-- The operation leaves through its peer's entry while that is fenced: it fails (spec/14 R349). -/
def State.turnedAway (s : State) (r : RemoteOp) : Bool := !r.sent && s.fencedAt r.pa

/-- The request is on its way to its peer. -/
def State.onItsWay (s : State) (r : RemoteOp) : Bool := r.via.isSome && s.sendable r && !s.turnedAway r

/-- An entry of the peer table changes: requests that have left already are not turned away by it (spec/14 R349). -/
def State.setPeer (s : State) (e : Nat) (x : DWord) : State :=
  { s with
    peerTable := s.peerTable.set e x
    remoteOps := s.remoteOps.map fun r => if inRemote r.pa && decide (remoteEntry r.pa = e) && s.onItsWay r then { r with sent := true } else r }

/-- An earlier request to the same comb of the peer is on its way: one port carries both, in their order (spec/14 R347). DEDUCED, log entry 117. -/
def State.combBusy (s : State) (before pa : Nat) : Bool :=
  s.remoteOps.any fun x => x.toComb pa && decide (x.num < before) && s.onItsWay x

/-- A new read of a peer's bytes waits: an earlier request to the comb is on its way, or its port is not to be taken yet. One that meets a
fenced entry fails at once (spec/14 R347, R349). DEDUCED, log entry 117. -/
def State.remoteHeld (s : State) (pa : Nat) : Bool :=
  inRemote pa && !s.fencedAt pa && (s.combBusy s.nextNum pa || (s.route s.remoteOps pa).isNone)

/-- The operation may be performed: a remote one on the port that carries it, after the earlier requests to its comb. -/
def State.remoteReady (s : State) (r : RemoteOp) : Bool := s.sendable r && (r.local_ || (r.via.isSome && !s.combBusy r.num r.pa))

/-- A later read of some bytes by a wave waits: the wave has a remote store or a `signal` to them that has not been performed, or the fabric
holds it (spec/10 R252, spec/14 R347). DESIGN CHOICE, log entry 12. -/
def State.remoteBusy (s : State) (w : Wave) (pa n : Nat) : Bool :=
  (s.remoteOps.any fun r => decide (r.task = w.task) && !r.performed && rangesMeet r.pa r.data.length pa n) ||
    s.remoteHeld pa

end Sys2Proof.Machine
end

