-- ==== Sys2Proof/Machine/Barriers.lean ====
section
/-! DEFINITION. Byte-counting barriers and wide barriers: minors 3 to 8 of major 0x17 (spec/08 R203 to R211). -/

namespace Sys2Proof.Machine

/-! ### Objects of a scalar-side instruction in a scratchpad -/

/-- The raises of an instruction at an object or record that it names (spec/11 R270, R271). DEDUCED, log entry 29. -/
def Issue.objectRaise (i : Issue) (instr : Instr) (cause info : Nat) (wr : Bool) : List Raise :=
  (lanesOf (i.raising instr)).map fun l => { lane := l, cause := cause, info := info, write := wr, space := 3 }

/-- The instruction parks until a list of scratchpad lines is present (spec/06 R156). -/
def parkLines (t : State) (instr : Instr) (lines : List (Nat × Nat)) : Did :=
  .park t (.present lines { instr := instr, held := t.issue.held, first := t.issue.first, src := t.issue.src })

/-- The checks of an object in a scratchpad, within one line, and of the further lines that it names: alignment, address, presence and
poison (spec/08 R205, spec/09 R240). -/
def spadObjectOver (t : State) (w : Wave) (instr : Instr) (va : Word) (align : Nat) (wr : Bool) (lines : Nat → Nat → List (Nat × Nat))
    (body : Nat → Nat → Did) : Did :=
  let i := t.issue
  let trap (cause info : Nat) : Did := Did.orTrap t (i.objectRaise instr cause info wr) (.left t)
  if va.toNat % align ≠ 0 then trap cMisaligned 0
  else
    match (t.teams.get? w.team).bind fun x => t.spadPlace x (coreOf i.slot) va.toNat with
    | none => trap cPermission 4
    | some p =>
      if t.lineAbsent p.1 (p.2 / 128) then parkLines t instr [(p.1, p.2 / 128)]
      else if (lines p.1 p.2).any fun l => t.lineAbsent l.1 l.2 then parkLines t instr ((lines p.1 p.2).filter fun l => t.lineAbsent l.1 l.2)
      else if t.linePoisoned p.1 (p.2 / 128) || (lines p.1 p.2).any (fun l => t.linePoisoned l.1 l.2) then trap cPoison 0
      else body p.1 p.2

/-- The checks of an object in a scratchpad, within one line. -/
def spadObject (t : State) (w : Wave) (instr : Instr) (va : Word) (align : Nat) (wr : Bool) (body : Nat → Nat → Did) : Did :=
  spadObjectOver t w instr va align wr (fun _ _ => []) body

/-! ### The barrier object (spec/08 R203, R204) -/

/-- The fields of a barrier. -/
structure Bar where
  expa : Nat
  arr : Nat
  expb : Nat
  rcvb : Nat
  phase : Nat
  flags : Nat
  deriving DecidableEq, Repr

def State.readBar (s : State) (core off : Nat) : Bar :=
  { expa := s.spadValue core off 2, arr := s.spadValue core (off + 2) 2, expb := s.spadValue core (off + 4) 4,
    rcvb := s.spadValue core (off + 8) 4, phase := s.spadValue core (off + 12) 2, flags := s.spadValue core (off + 14) 2 }

def Bar.bytes (b : Bar) : List Byte :=
  leBytes 2 b.expa ++ leBytes 2 b.arr ++ leBytes 4 b.expb ++ leBytes 4 b.rcvb ++ leBytes 2 b.phase ++ leBytes 2 b.flags

def State.writeBar (s : State) (core off : Nat) (b : Bar) : State := s.spadStore core off b.bytes

/-- The object is a barrier. -/
def State.isTyped (s : State) (core off : Nat) : Bool := (s.core core).typed.contains off

/-- How many phases a barrier completes now. -/
def Bar.completions (b : Bar) : Nat :=
  if b.expa = 0 then b.rcvb / b.expb else if b.expb = 0 then b.arr / b.expa else min (b.arr / b.expa) (b.rcvb / b.expb)

/-- The barrier after n completed phases. -/
def Bar.complete (b : Bar) (n : Nat) : Bar :=
  { b with arr := b.arr - n * b.expa, rcvb := b.rcvb - n * b.expb, phase := (b.phase + n) % 65536 }

/-- d of the phase test (spec/08 R206). -/
def phaseGap (phase p : Nat) : Nat := (phase + 65536 - p % 65536) % 65536

/-- The phase test holds. -/
def phaseTest (phase p : Nat) : Bool := decide (1 ≤ phaseGap phase p ∧ phaseGap phase p ≤ 32767)

/-- The phase test holds after some of n further completions. -/
def phaseReached (phase p n : Nat) : Bool :=
  if phaseGap phase p = 0 then decide (1 ≤ n) else phaseTest phase p || decide (65537 ≤ phaseGap phase p + n)

/-- A result that arrives from outside the wave; while a handler runs, the frame that it restores takes the value too (spec/11 R273).
DEDUCED, log entry 39. -/
def Wave.arrive (w : Wave) (l : Landing) : Wave :=
  let w1 := w.now l
  match w1.handler with
  | none => w1
  | some h =>
    { w1 with
      handler := some (match l with
        | .cond b => { h with frameSc := b }
        | .sca n x => if 48 ≤ n then { h with frameS := h.frameS.set (n - 48) x } else h
        | .msk n x => if n = 10 then { h with frameM10 := x } else if n = 11 then { h with frameM11 := x } else h
        | .vec _ _ => h) }

/-- Release the `barwait` entries on an object whose phase a predicate names, with `sc`; a release with `sc` = 1 is an acquire at
cluster scope, which a wave in a context slot makes as it is restored (spec/08 R204, R206, R208). -/
def State.releaseBar (s : State) (core off : Nat) (p : Nat → Bool) (sc : Bool) : State :=
  let here (k : Park) : Bool := match k with
    | .barwait c o ph => decide (c = core ∧ o = off) && p ph
    | _ => false
  let hit (w : Wave) : Bool := w.table.any fun e => e.park.any here
  let free (w : Wave) : Wave := if hit w then (w.releaseWhere s.now here).arrive (.cond sc) else w
  let later (w : Wave) : Wave := if hit w && sc then (free w).acquireLater 2 else free w
  let slots := (s.waves.filter fun e => hit e.2).map (·.1)
  if slots = [] ∧ s.ctxSlots.all (fun e => e.2.wave.all fun w => !hit w) = true then s
  else
    let s1 := ({ s with waves := s.waves.map fun e => (e.1, free e.2) } : State).modSlots later
    (if sc then foldState (fun s n => s.acquire n 2) s1 slots else s1).retryOwned (slots.flatMap s.taskAt)

/-- A change of a barrier, and the completion step that follows it at once (spec/08 R204). -/
def State.changeBar (s : State) (core off : Nat) (b : Bar) : State :=
  let n := b.completions
  let t := s.writeBar core off (b.complete n)
  if n = 0 then t else t.releaseBar core off (fun p => phaseReached b.phase p n) true

/-- A count that reaches a maximum is clamped and sets OVER (spec/08 R204). -/
def Bar.arrive (b : Bar) : Bar :=
  if 65535 < b.arr + 1 then { b with flags := Nat.lor b.flags 4 } else { b with arr := b.arr + 1 }

def Bar.receive (b : Bar) (n : Nat) : Bar :=
  if 2 ^ 32 - 1 < b.rcvb + n then { b with rcvb := 2 ^ 32 - 1, flags := Nat.lor b.flags 4 } else { b with rcvb := b.rcvb + n }

/-- A fault counted on a barrier: FAULT, and the first cause (spec/08 R200, R203). -/
def Bar.fail (b : Bar) (cause : Nat) : Bar :=
  if cause = 0 then b
  else { b with flags := Nat.lor (if b.flags / 256 = 0 then b.flags + 256 * cause else b.flags) 2 }

/-- A line of a core becomes present: what waits for its presence is decided again (spec/06 R156). -/
def State.linePresent (s : State) (core line : Nat) : State :=
  let here (k : Park) : Bool := match k with
    | .present ls _ => ls.contains (core, line)
    | _ => false
  (s.modCore core fun c => { c with absent := delNat line c.absent }).retryWhere here

/-- A line of a core is poisoned: it is present, and the waiters on barriers in it are released with `sc` = 0 (spec/08 R200, R204,
spec/13 R318). -/
def State.poisonLine (s : State) (core line : Nat) : State :=
  let s1 := (s.modCore core fun c => { c with poison := addNat line c.poison }).linePresent core line
  foldState (fun s off => s.releaseBar core off (fun _ => true) false) s1
    ((s.core core).typed.filter fun o => decide (o / 128 = line))

/-- The n-th count that waits in a cluster reaches its barrier: it waits while the line is not present, and is discarded where the line
is poisoned or the object is no barrier (spec/08 R200, R204). -/
def execBarrierByteCount (clus n : Nat) (s : State) : Host.Outcome State Fault Refusal :=
  match (s.cluster clus).counts[n]? with
  | none => .next s
  | some k =>
    if s.lineAbsent k.core (k.off / 128) then .next s
    else
      let s1 := s.modCluster clus fun c => { c with counts := dropAt n c.counts }
      if s.linePoisoned k.core (k.off / 128) || !s.isTyped k.core k.off then .next s1
      else
        let b := s.readBar k.core k.off
        .next (s1.changeBar k.core k.off ((b.receive (if k.toExpected then b.expb - b.rcvb else k.bytes)).fail k.cause))

/-! ### Barrier instructions (spec/08 R205 to R208) -/

/-- A barrier instruction at the object that a register names, with the typing that it needs. -/
def barrierOp (q : Sched) (instr : Instr) (sa : SReg) (wr typed : Bool) (body : State → Wave → Nat → Nat → Did) (s : State) :
    Host.Outcome State Fault Refusal :=
  issueWord q instr s fun t w =>
    spadObject t w instr (t.issue.src.scalar sa.toNat) 16 wr fun core off =>
      if t.isTyped core off = typed then body t w core off
      else Did.orTrap t (t.issue.objectRaise instr cSlot 0 wr) (.left t)

/-- `barinit sA` (spec/08 R205). -/
def execBarinit (q : Sched) (sa : SReg) (s : State) : Host.Outcome State Fault Refusal :=
  barrierOp q (.barinit q sa) sa true false (fun t _ core off =>
    let a := (t.issue.src.scalar (sa.toNat + 1)).toNat
    let b := (t.issue.src.scalar (sa.toNat + 2)).toNat
    if 65535 < a ∨ (a = 0 ∧ b = 0) then Did.orTrap t (t.issue.objectRaise (.barinit q sa) cSlot 0 true) (.left t)
    else
      let u := t.writeBar core off { expa := a, arr := 0, expb := b, rcvb := 0, phase := 0, flags := 1 }
      .done (u.modCore core fun c => { c with typed := addNat off c.typed })) s

/-- `bararr sA`: a release at cluster scope, then one arrival (spec/08 R205, R208). -/
def execBararr (q : Sched) (sa : SReg) (s : State) : Host.Outcome State Fault Refusal :=
  barrierOp q (.bararr q sa) sa true true (fun t w core off =>
    releasing t w 2 fun c => .done (c.changeBar core off (c.readBar core off).arrive)) s

/-- `bartest sD, sA, sB` (spec/08 R206). -/
def execBartest (q : Sched) (sd sa sb : SReg) (s : State) : Host.Outcome State Fault Refusal :=
  barrierOp q (.bartest q sd sa sb) sa false true (fun t _ core off =>
    let b := t.readBar core off
    let p := (t.issue.src.scalar sb.toNat).toNat
    let u := (t.putNow (.sca sd.toNat (BitVec.ofNat 32 (b.flags * 65536 + phaseGap b.phase p)))).putNow (.cond (phaseTest b.phase p))
    .done (if phaseTest b.phase p then u.acquire u.issue.slot 2 else u)) s

/-- `barwait sA, sB` (spec/08 R206). -/
def execBarwait (q : Sched) (sa sb : SReg) (s : State) : Host.Outcome State Fault Refusal :=
  barrierOp q (.barwait q sa sb) sa false true (fun t _ core off =>
    let b := t.readBar core off
    let p := (t.issue.src.scalar sb.toNat).toNat % 65536
    if phaseTest b.phase p then .done ((t.putNow (.cond true)).acquire t.issue.slot 2)
    else .park t (.barwait core off p)) s

/-- `barinv sA` (spec/08 R207). -/
def execBarinv (q : Sched) (sa : SReg) (s : State) : Host.Outcome State Fault Refusal :=
  barrierOp q (.barinv q sa) sa true true (fun t _ core off =>
    let b := t.readBar core off
    let u := (t.writeBar core off { b with flags := b.flags / 2 * 2 }).modCore core fun c => { c with typed := delNat off c.typed }
    .done (u.releaseBar core off (fun _ => true) false)) s

/-! ### Wide barriers (spec/08 R209, R210) -/

/-- The GROUP of a live-set descriptor. -/
def descGroup (d : Word) : Nat := d.toNat / 2 ^ 16 % 32

/-- The descriptor is valid for a scope and a footprint (spec/08 R209). -/
def descOk (d : Word) (scope : WbarScope) (vregs : Nat) : Bool :=
  let nv := d.toNat / 256 % 64
  decide (d.toNat / 2 ^ 21 = 0 ∧ d.toNat / 2 ^ 14 % 4 = 0 ∧ d.toNat / 128 % 2 = 0 ∧ nv ≤ 32 ∧ d.toNat % 128 + nv ≤ vregs) &&
    (if scope = .clus then decide (1 ≤ descGroup d ∧ descGroup d ≤ 16) else decide (descGroup d = 0))

/-- The arrival agrees with its team's pending arrival and with the GROUP that stands for its launch (spec/08 R209). -/
def State.wbarAgrees (s : State) (t : Team) (scope : WbarScope) (group : Nat) : Bool :=
  (t.wbarScope.all fun x => decide (x = scope)) &&
    (!decide (scope = .clus) || (match t.launch.bind s.launches.get? with
      | some l => l.wbarGroup.all fun g => decide (g = group)
      | none => true))

/-- An arrival recorded (spec/08 R209, R210). -/
def State.recordArrival (s : State) (w : Wave) (t : Team) (scope : WbarScope) (d : Word) : State :=
  let s1 := s.setTeam w.team
    { t with
      wbarScope := some scope, wbarGroup := descGroup d, arrived := addNat w.waveNo t.arrived,
      liveSets := Assoc.put t.liveSets w.waveNo d, arrivedAt := if t.arrived = [] then s.clock.toNat else t.arrivedAt }
  match t.launch, scope with
  | some k, .clus => { s1 with launches := s1.launches.modify k fun l => { l with wbarGroup := some (descGroup d) } }
  | _, _ => s1

/-- `wbar.scope sA` (spec/08 R209, R210). DEDUCED, log entry 11. -/
def execWbar (q : Sched) (scope : WbarScope) (sa : SReg) (s : State) : Host.Outcome State Fault Refusal :=
  issueWord q (.wbar q scope sa) s fun t w =>
    let i := t.issue
    let d := i.src.scalar sa.toNat
    if i.lanes ≠ w.liveLanes then i.raiseAll t (.wbar q scope sa) cIllegal 0
    else
      match t.teams.get? w.team with
      | none => i.raiseAll t (.wbar q scope sa) cSlot 0
      | some x =>
        if !descOk d scope w.hdr.vregs || !t.wbarAgrees x scope (descGroup d) then i.raiseAll t (.wbar q scope sa) cSlot 0
        else
          releasing t w (wbarScopeCode scope) fun c =>
            match c.teams.get? w.team with
            | none => .wait c
            | some y => .park (c.recordArrival w y scope d) .wbar

end Sys2Proof.Machine
end

