-- ==== Sys2Proof/Machine/Fetch.lean ====
section
/-! DEFINITION. What happens next: the clock (spec/15 R361), the pick of a wave (spec/12 R312, R313), the fetch of its word (spec/04
R105, R115, spec/13 R320), and the turns of the other agents. `State.plan` is the whole of a step but for the meaning of the
instruction that it names. -/

namespace Sys2Proof.Machine

/-! ### Time -/

/-- The arithmetic clock of a performance state, in MHz (spec/15 R361). -/
def pstateMhz (p : Nat) : Nat :=
  match p with
  | 0 => 850 | 1 => 780 | 2 => 700 | 3 => 620 | 4 => 540 | 5 => 450 | 6 => 350 | _ => 250

/-- n cycles of the arithmetic clock pass; `sr.clock` counts 850 MHz cycles. -/
def State.advance (s : State) (n : Nat) : State :=
  let f := pstateMhz s.regs.cur
  let x := s.clkFrac + 850 * n
  { s with now := s.now + n, clock := s.clock + BitVec.ofNat 64 (x / f), clkFrac := x % f, tried := [] }

/-! ### The pick -/

/-- The earlier of two candidates: eligibility time, then slot number. -/
def earlier (a b : Nat × Wave) : Bool := decide (a.2.eligAt < b.2.eligAt ∨ (a.2.eligAt = b.2.eligAt ∧ a.1 < b.1))

/-- The best of a list of candidates. -/
def bestOf : List (Nat × Wave) → Option (Nat × Wave)
  | [] => none
  | a :: t => match bestOf t with
    | none => some a
    | some b => if earlier b a then some b else some a

/-- The waves from which a core may issue in this cycle (spec/12 R312); one that issued `yield` is not eligible before the others have issued
(spec/04 R109). -/
def State.cands (s : State) (core : Nat) : List (Nat × Wave) :=
  if s.now < (s.core core).free then []
  else s.waves.filter fun e => decide (coreOf e.1 = core) && s.eligible e.1 e.2 && !s.yielding e.2

/-- The next word of a wave may have to wait at issue: a result of the wave is outstanding, or an engine, a queue, a tile or a port that a
word can wait for is not at rest. DEDUCED, log entry 37. -/
def State.mayWait (s : State) (slot : Nat) (w : Wave) : Bool :=
  let c := s.cluster (clusOf (coreOf slot))
  decide (w.varPend ≠ [] ∨ c.resv ≠ [] ∨ c.copies ≠ [] ∨ c.counts ≠ [] ∨ s.persists ≠ [] ∨ s.remoteOps ≠ [] ∨ s.invals ≠ [] ∨ s.snap.state = 1) ||
    (s.dies.any fun d => decide (d.2.moves ≠ [] ∨ d.2.wbq ≠ [])) || s.ports.any fun p => !p.2.up

/-- A wave of a core that is tried before the pick, in each cycle in which its word may have to wait: whether it waits decides whether it is
eligible, and its eligibility time is the cycle in which the wait ends (spec/12 R312, R313). DEDUCED, log entry 37. -/
def State.toProbe (s : State) (core : Nat) : Option (Nat × Wave) :=
  (s.cands core).find? fun e => e.2.waits || (decide (e.2.triedAt ≠ s.now + 1) && s.mayWait e.1 e.2)

/-- The wave from which a core issues (spec/12 R313). DEDUCED, log entry 9. -/
def State.pick (s : State) (core : Nat) : Option (Nat × Wave) :=
  if (s.toProbe core).isSome then none
  else
    let cands := s.cands core
    let first := cands.filter fun e => !e.2.giveWay
    if first = [] then bestOf cands else bestOf first

/-! ### The fetch -/

/-- What a fetch gives. -/
inductive Fetched where
  | word (w : Word)
  | fault (cause info : Nat)
  | wait
  deriving DecidableEq, Repr

/-- A word of four bytes. -/
def wordOf4 (bs : List Byte) : Word := wordOfBytes (bs.getD 0 0) (bs.getD 1 0) (bs.getD 2 0) (bs.getD 3 0)

/-- The instruction bytes at a physical address: the core's cached block, or a fill of 64 bytes; a block in which the task holds bytes
is read from L2 and is never cached (spec/13 R320, spec/04 R115). Without `isync`, old or new contents are taken for each block, not
for each word. A fill reads its two rows (R324). DEDUCED, log entry 18. -/
def State.readCode (s : State) (core task pa : Nat) : State × Fetched :=
  if inRemote pa then
    let r := (if s.remoteHeld pa then s.stallOn .remote else s).askPeer (dieOf (clusOf core)) pa 4
    (r.1, match r.2 with
      | some bs => .word (wordOf4 bs)
      | none => .fault cPoison 1)
  else
    let mine (v : Assoc Byte) : Bool := v.any fun e => decide (e.1 / 64 = pa / 64)
    if mine (s.version task) || mine (s.waiting task) then
      let r := s.readTask task pa 4
      ((r.1.combRead pa none).combRead pa none, .word (wordOf4 r.2))
    else
      match (s.core core).icache.get? (pa / 64) with
      | some b => (s, .word (wordOf4 (b.drop (pa % 64))))
      | none =>
        let r := s.readPoint (pa / 64 * 64) 64
        (((r.1.combRead pa none).combRead pa none).fillIcache core (pa / 64) r.2, .word (wordOf4 (r.2.drop (pa % 64))))

/-- Fetch the word at a device virtual address for a wave (spec/04 R105). DEDUCED, log entry 18. -/
def State.fetch (s : State) (slot : Nat) (w : Wave) (pc : DWord) : State × Fetched :=
  let core := coreOf slot
  let clus := clusOf core
  let x := s.translate w.ctx (dieOf clus) (some clus) pc.toNat
  match x.2 with
  | .bad i => (x.1, .fault cTranslation i)
  | .ok pa pte =>
    if !pteX pte then (x.1, .fault cPermission 2)
    else if inOnchip pa then (x.1, .fault cPermission 3)
    else if !inRemote pa && !s.accessOk w.ctx pa 4 false then (x.1, .fault cPermission 5)
    else if s.marked pa 4 then (x.1, .fault cPoison 1)
    else
      let r := x.1.readCode core w.task pa
      if r.1.stall = [] then r else (foldState (fun t y => t.noteStall slot y) x.1 r.1.stall, .wait)

/-! ### The issue of a core -/

/-- The head of a wave made ready for its issue at the present cycle: results land, and a re-sort that is due is made (spec/01 R19,
spec/04 R120). -/
def State.headed (s : State) (w : Wave) : Wave :=
  let w1 := w.landAt s.now
  let parked := (w1.table.head?).any fun e => e.park.isSome
  if (w1.resort || parked) && w1.first.isNone && w1.handler.isNone then w1.resorted else w1

/-- The word in issue: its bundle, and the registers as they stand. -/
def State.prepare (s : State) (slot : Nat) (w0 : Wave) : State :=
  let w := s.headed w0
  let first := w.first.getD w.headAt.1
  { s.setWave slot { w with first := some first, yieldTo := [] } with
    issue := { slot := slot, lanes := w.headAt.2, pc := w.headAt.1, first := first, held := w.held, src := w.regs, resumed := false } }

/-- What a step does: it runs one instruction in a state, or it goes to a state, or it finds whether a wave that waits at issue in a state
still waits, by an instruction tried. -/
inductive Plan where
  | run (i : Instr) (s : State)
  | rest (s : State)
  | probe (slot : Nat) (was : State) (i : Instr) (s : State)
  deriving DecidableEq, Repr

/-- The issue of a wave: fetch, then the instruction, or the trap of a word that has none. -/
def State.issueWave (s : State) (slot : Nat) (w : Wave) : Plan :=
  let p := s.prepare slot w
  match p.waves.get? slot with
  | none => .rest p
  | some x =>
    let f := p.fetch slot x p.issue.pc
    match f.2 with
    | .wait => .rest (f.1.waitIssue slot)
    | .fault cause info =>
      .rest ((Did.orTrap f.1 ((bundleRaise p.issue.lanes cause info).map fun r => { r with space := 2 }) (.left f.1)).finish f.1 p.issue 0 false)
    | .word v =>
      match decodeFields v.toNat with
      | some i => .run i f.1
      | none => .rest f.1.illegalWord

/-- What a try of a wave tells: where its word waits, the try stands; where it does not, the try is undone, and a wave that waited is
eligible from this cycle (spec/12 R312, R313). DEDUCED, log entry 37. -/
def State.probed (s : State) (slot : Nat) (t : State) : State :=
  if (t.waves.get? slot).any (·.waits) then t
  else s.modWave slot fun w => { w with waits := false, triedAt := s.now + 1, eligAt := if w.waits then s.now else w.eligAt }

/-- The plan of an issue made a try. DEDUCED, log entry 37. -/
def Plan.tried (slot : Nat) (s : State) : Plan → Plan
  | .run i t => .probe slot s i t
  | .rest t => .rest (s.probed slot t)
  | .probe n was i t => .probe n was i t

/-- A wave is tried. -/
def State.probeWave (s : State) (slot : Nat) (w : Wave) : Plan := (s.issueWave slot w).tried slot s

/-! ### Turns -/

/-- A word of the encoding, as against an event. -/
def isWord (i : Instr) : Bool := (encodeNat i).isSome

/-- Nothing runs: the supply is lost, the package is off, or its firmware failed verification (spec/13 R337, spec/15 R370). DEDUCED, log
entry 95. -/
def State.stopped (s : State) : Bool := !s.powered || s.holdUp || !s.regs.ready

/-- What still happens while nothing runs. DEDUCED, log entry 95. -/
def State.allowed (s : State) (e : Instr) : Bool :=
  match e with
  | .wbqDrainWrite _ => s.holdUp
  | .drainComplete => s.holdUp
  | .powerOn => true
  | .powerLoss => s.powered && !s.holdUp
  | .devctlReset _ => s.powered && !s.holdUp
  | .registerWrite _ _ _ => s.powered && !s.holdUp
  | _ => false

/-- An event of the agenda happens; a word of the encoding is none. -/
def State.happen (s : State) (e : Instr) : Plan := if isWord e || (s.stopped && !s.allowed e) then .rest s else .run e s

/-- What a turn does. DESIGN CHOICE, log entry 104. -/
def State.take (s : State) (t : Turn) : Plan :=
  match t with
  | .event e => s.happen e
  | .core c =>
    match s.pick c with
    | some x => s.issueWave x.1 x.2
    | none => .rest s
  | .unitBusy slot => .rest (if (s.waves.get? slot).any (s.eligible slot) then s.waitIssue slot else s)
  | .advance n => .rest (s.advance n)
  | .dropL1 c row => .rest (s.modCore c fun x => { x with l1 := x.l1.del row })
  | .dropIcache c b => .rest (s.modCore c fun x => { x with icache := x.icache.del b })
  | .dropTlb k p => .rest (s.modCluster k fun x => { x with tlb := x.tlb.filter fun e => !decide (e.page = p) })
  | .dropMmu d p => .rest (s.modDie d fun x => { x with mmu := x.mmu.filter fun e => !decide (e.page = p) })
  | .evictComb c => .rest (s.cleanComb c)
  | .spadError c l => .rest (s.poisonLine c l)
  | .spadCorrected c => .rest (s.modDie (dieOf (clusOf c)) fun d => { d with ceCount := d.ceCount + 1 })
  | .memError pa => .rest (s.markError pa)
  | .captureError => .rest s.captureError
  | .machineCheck slot info => .rest (settleEvent checkAgent s (s.machineCheck slot info))

/-! ### Wakes -/

/-- The first wake that can be performed now. DEDUCED, log entry 7. -/
def State.firstWake (s : State) : List (Nat × DWord) → Option (Nat × DWord × Entry × Retry)
  | [] => none
  | (n, l) :: t => match s.wakeable n l with
    | some x => some (n, l, x.1, x.2)
    | none => State.firstWake s t

/-- A wake that no longer names a parked entry of a resident wave. -/
def State.wakeStale (s : State) (x : Nat × DWord) : Bool :=
  match s.waves.get? x.1 with
  | none => true
  | some w => !(w.table.any fun e => decide (e.lanes = x.2) && e.park.isSome)

/-! ### What falls due by the clock -/

/-- Microseconds in `sr.clock` cycles. DEDUCED, log entry 108. -/
def clocksOf (us : Nat) : Nat := 850 * us

/-- The clock values at which the sleeping entries of a wave time out (spec/04 R108). -/
def Wave.sleepTimes (w : Wave) : List Nat :=
  w.table.flatMap fun e => match e.park with
    | some (.sleep _ (some t)) => [t]
    | _ => []

/-- The deadlines of the leases that the `center` waiters of a wave wait for, but for entries that are to be decided again, with their
capsules (spec/09 R234). -/
def State.leases (s : State) (slot : Nat) (w : Wave) : List (Nat × Instr) :=
  w.table.flatMap fun e => match e.park with
    | some (.object pa { instr := .center _ _ _, .. }) => if s.wakes.contains (slot, e.lanes) then [] else [(s.valueAt (pa + 8) 8, .capsuleLeaseExpiry pa)]
    | _ => []

/-- The timeouts that run, with the clock value at which each falls due: `sleep`, a capsule's lease, the brood unit, aging, a scan's drain
limit, a pre-emption deadline, and at once the reset of a context whose slot area failed its check (spec/12 R316, spec/09 R237). DEDUCED, log
entry 108. -/
def State.timers (s : State) : List (Nat × Instr) :=
  (s.waves.flatMap fun e => e.2.sleepTimes.map fun t => (t, .sleepTimeout e.1)) ++
  (s.ctxSlots.flatMap fun e => e.2.wave.toList.flatMap fun w => w.sleepTimes.map fun t => (t, .sleepTimeout (12288 + e.1))) ++
  (s.waves.flatMap fun e => s.leases e.1 e.2) ++
  (s.ctxSlots.flatMap fun e => e.2.wave.toList.flatMap fun w => s.leases 12288 w) ++
  (s.clusters.flatMap fun e => (e.2.brood.filter fun b => decide ((s.context b.ctx).state = 1)).map fun b => (b.openedAt + clocksOf 2, .broodTimeout e.1)) ++
  (s.items.flatMap fun e => if e.2.aged then [] else [(e.2.since + clocksOf 1000, .agingExpiry e.1)]) ++
  (s.launches.flatMap fun e =>
    if (e.2.phase = .ready ∨ e.2.phase = .running) ∧ e.2.nextTeam < e.2.total ∧ e.2.aged = false then [(e.2.readyAt + clocksOf 1000, .agingExpiry e.1)]
    else []) ++
  (match s.scanning with
   | some x => if x.phase = .drain then [(x.tstart + clocksOf x.drainMax, .scanDrainTimeout)] else []
   | none => []) ++
  s.contexts.flatMap fun e =>
    if e.2.slotBad then [(0, .preemptDeadlineExpiry e.1)]
    else if decide (e.2.state = 2) && s.teams.any (fun x => decide (x.2.ctx = e.1)) then [(e.2.preemptAt + clocksOf e.2.deadline, .preemptDeadlineExpiry e.1)]
    else []

/-- A timeout that is due and has not been taken in this cycle. DEDUCED, log entry 108. -/
def State.due? (s : State) : Option Instr :=
  (s.timers.find? fun x => decide (x.1 ≤ s.clock.toNat) && !s.tried.contains x.2).map (·.2)

/-- Cycles of the arithmetic clock until the clock reaches a value. -/
def State.cyclesTo (s : State) (t : Nat) : Nat := ((t - s.clock.toNat) * pstateMhz s.regs.cur - s.clkFrac + 849) / 850

/-- The cycles that may pass of n before the next timeout falls due: at least one. -/
def State.cyclesBefore (s : State) (n : Nat) : Nat :=
  s.timers.foldl (fun k x => if s.clock.toNat < x.1 then min k (max 1 (s.cyclesTo x.1)) else k) n

/-- A wave's parked entry whose condition comes to hold while the wave runs its handler: it becomes ready where it is decided again, and
issues after the handler (spec/11 R273). DEDUCED, log entry 7. -/
def State.handlerWake (s : State) (x : Nat × DWord) : Bool :=
  match s.waves.get? x.1 with
  | none => false
  | some w => w.handler.isSome && w.table.any fun e => decide (e.lanes = x.2) && match e.park with
      | some (.present ls _) => !(ls.any fun l => s.lineAbsent l.1 l.2)
      | some (.object _ _) => true
      | some (.ring _ _ _ _) => true
      | _ => false

/-- The entry made ready. -/
def State.readyInHandler (s : State) (x : Nat × DWord) : State :=
  { s.modWave x.1 fun w => match w.table.find? fun e => decide (e.lanes = x.2) with
      | some e => w.reissue s.now x.2 ((e.park.bind Park.retryPc).getD e.pc)
      | none => w
    with
    wakes := s.wakes.filter fun y => !decide (y = x) }

/-- The turn at the head of the agenda; a long wait stops where a timeout falls due, and before the issue of a core its waiting waves are
tried. -/
def State.turn (s : State) (t : Turn) (rest : List Turn) : Plan :=
  match t with
  | .core c =>
    match s.toProbe c with
    | some x => s.probeWave x.1 x.2
    | none => ({ s with turns := rest } : State).take (.core c)
  | .advance n =>
    let k := s.cyclesBefore n
    .rest (({ s with turns := if k < n then .advance (n - k) :: rest else rest } : State).advance k)
  | t => ({ s with turns := rest } : State).take t

/-- The plan of a step: a team that stops for its save, else an entry that is to be decided again, else what is due by the clock, else the turn at the head of the agenda, else
an issue of the focus core, else one cycle passes. While nothing runs, only the agenda's events happen. -/
def State.plan (s : State) : Plan :=
  if s.stopped then
    match s.turns with
    | .event e :: rest => ({ s with turns := rest } : State).happen e
    | _ :: rest => .rest { s with turns := rest }
    | [] => .rest s
  else
  match s.stopDue? with
  | some x => .rest (s.setTeam x.1 x.2)
  | none =>
  match s.wakes.find? s.handlerWake with
  | some x => .rest (s.readyInHandler x)
  | none =>
  match s.firstWake s.wakes with
  | some (n, l, e, r) =>
    .run r.instr
      { s with
        wakes := s.wakes.filter fun x => !decide (x = (n, l))
        issue := { slot := n, lanes := l, pc := e.pc, first := r.first, held := r.held, src := r.src, resumed := true } }
  | none =>
    match s.due? with
    | some e => .run e { s with tried := e :: s.tried }
    | none =>
      match s.turns with
      | t :: rest => s.turn t rest
      | [] =>
        match s.toProbe s.focus, s.pick s.focus with
        | some x, _ => s.probeWave x.1 x.2
        | none, some x => s.issueWave x.1 x.2
        | none, none => .rest (({ s with wakes := s.wakes.filter fun x => !s.wakeStale x } : State).advance 1)

/-! ### Placing a word where the next step fetches it -/

/-- A non-leaf page-table entry that names a table, or a readable, writable and executable leaf (spec/11 R289). -/
def tableEntry (pa : Nat) : DWord := BitVec.ofNat 64 (pa / 256 * 65536 + 1)
def codeLeaf (pa : Nat) : DWord := BitVec.ofNat 64 (pa / 256 * 65536 + 0x1F)

/-- The header of the loaded kernel: version 3, 16 lanes, 128 v-registers, 16 scratchpad lines, one wave. DESIGN CHOICE, log entry 13. -/
def loadedHeader : Header :=
  { va := 0x10000, encv := 3, width := 16, vregs := 128, sregs := 64, spad := 16, team := 1, paired := false, energy := 0, entry := 0x40,
    handler := 0, idemtab := 0, collop := 0, collfmt := 0, collhead := 0, collchunk := 0 }

/-- A task at its start (spec/01 R24): one ready entry with some lanes at the entry of its kernel. -/
def Wave.start (task ctx team waveNo : Nat) (hdr : Header) (prio : Nat) (lanes arg : DWord) (launches : List Nat) (at_ : Nat) : Wave :=
  { task := task, ctx := ctx, team := team, waveNo := waveNo, hdr := hdr, prio := prio, spawned := false, launches := launches,
    laneArgs := [], regs := startRegs arg, pend := [], varPend := [],
    table := [{ pc := BitVec.ofNat 64 (hdr.va + hdr.entry), lanes := lanes, park := none }], resort := false, count := 0, rstack := [],
    fstat := 0, fmode := 0, tvec := if hdr.handler = 0 then 0 else BitVec.ofNat 64 (hdr.va + hdr.handler), tsw := 0, epc := 0, tmask := 0,
    tpend := 0, chk := false, seed := 0, startSeed := 0, rxwin := 0, adopt := 0, depth := 0, ckey := 0, restart := false,
    committed := false, region := none, stepBuf := [], stepWords := 0, held := Hints.empty, first := none, handler := none,
    nextIssue := at_, eligAt := at_, giveWay := false, waits := false, triedAt := 0, yieldTo := [], obs := [0, 0, 0, 0], pfences := 0, qfences := [], mwait := none,
    acqDue := 0, ownerFault := none, softErrors := 0 }

/-- A team of one wave in slot 0 of core 0. DESIGN CHOICE, log entry 13. -/
def loadedTeam : Team :=
  { ctx := 0, launch := none, number := 0, x := 0, y := 0, z := 0, core := 0, paired := false, slots := [0], waves := 1, spadBase := 0,
    spadLines := 16, prio := 0, hdr := loadedHeader, qfences := [], wbarScope := none, wbarGroup := 0, arrived := [], liveSets := [], arrivedAt := 0,
    saving := false, discarding := false }

/-- A program loaded from outside: context 0 is enabled with a page at device virtual address 0x10000, whose master may read and write
HBM, and one task stands at its kernel's entry. DESIGN CHOICE, log entry 13. -/
def State.loaded (s : State) : State :=
  { s with
    contexts := [(0, { Context.off with state := 1, enabledOnce := true, root := 0x10000, desc := 0x40000 })]
    waves := [(0, Wave.start 1 0 0 0 loadedHeader 0 (laneMask 16) 0 [] s.now)]
    teams := [(0, loadedTeam)]
    powered := true, holdUp := false, regs := { s.regs with ready := true }
    cores := [], clusters := [], dies := [], ctxSlots := [], items := [], launches := [], scanning := none, versions := [], persists := []
    wakes := [], turns := [], tried := [], focus := 0
    access := { base := 0, limit := 0x8000000000, rd := true, wr := true } :: s.access.drop 1
    marks := []
    mem := (cellsAt 0x10000 (leBytes 8 (tableEntry 0x20000).toNat) ++ cellsAt 0x20000 (leBytes 8 (tableEntry 0x21000).toNat) ++
      cellsAt 0x21000 (leBytes 8 (tableEntry 0x22000).toNat) ++ cellsAt 0x22008 (leBytes 8 (codeLeaf 0x30000).toNat)).foldl
        (fun m c => Sparse.set m c.1 c.2) s.mem }

/-- Where the next step fetches, if it issues a word. DESIGN CHOICE, log entry 13. -/
def State.fetchPlace (s : State) : Option (Nat × Nat) :=
  match s.stopped || s.stopDue?.isSome, s.wakes, s.due?, s.turns, s.pick s.focus with
  | false, [], none, [], some x =>
    let p := s.prepare x.1 x.2
    match (p.translate x.2.ctx (dieOf (clusOf (coreOf x.1))) (some (clusOf (coreOf x.1))) p.issue.pc.toNat).2 with
    | .ok pa pte =>
      if pteX pte && !inOnchip pa && !inRemote pa && s.accessOk x.2.ctx pa 4 false && !s.moving pa && !s.marked pa 4 then some (x.1, pa) else none
    | .bad _ => none
  | _, _, _, _, _ => none

/-- The bytes of a word at a physical address, seen by the next fetch of a wave. DESIGN CHOICE, log entry 13. -/
def State.putCode (s : State) (slot pa : Nat) (bs : List Byte) : State :=
  let mem := (cellsAt pa bs).foldl (fun m c => Sparse.set m c.1 c.2) s.mem
  let task := ((s.waves.get? slot).map (·.task)).getD 0
  { (s.modCore (coreOf slot) fun c => { c with icache := c.icache.del (pa / 64) }) with
    mem := mem
    persists := s.persists.filter fun g => !(decide (g.task = task) && g.bytes.any fun e => decide (pa ≤ e.1 ∧ e.1 < pa + 4))
    versions := s.versions.modify task fun v => v.filter fun e => !decide (pa ≤ e.1 ∧ e.1 < pa + 4) }

/-- A word placed where the next step fetches it; where that step would fetch nothing, a program is loaded first. DESIGN CHOICE, log entry
13. -/
def State.placeWord (s : State) (w : Nat) : State :=
  let bs := bytesOfWord (BitVec.ofNat 32 w)
  match s.fetchPlace with
  | some x => s.putCode x.1 x.2 bs
  | none => s.loaded.putCode 0 0x30040 bs

end Sys2Proof.Machine
end

