-- ==== Sys2Proof/Machine/Engine.lean ====
section
/-! DEFINITION. What the engines share: their accesses to global memory (spec/08 R193, R200, spec/11 R291, spec/14 R360), the window of
a tensor (spec/08 R192 to R194), and the counts and faults that a copy command leaves (spec/08 R198 to R201). -/

namespace Sys2Proof.Machine

/-! ### Accesses -/

/-- Where an engine's access for a context lies, or its cause: an unpopulated, remote or on-chip address, or one that the page or the
access table does not permit, is PERMISSION (spec/01 R36, spec/08 R193, R196). DEDUCED, log entries 33, 63. -/
def State.enginePlace (s : State) (ctx die : Nat) (clus : Option Nat) (va : Nat) (wr comb : Bool) : State × Except Nat Nat :=
  let r := s.translate ctx die clus va
  match r.2 with
  | .bad i => (r.1, .error (if i = 9 then cPermission else cTranslation))
  | .ok pa pte =>
    if (wr && !pteWr pte) || (!wr && !pteRd pte) || (comb && !pteComb pte) || inOnchip pa || inRemote pa || !s.accessOk ctx pa 1 wr then
      (r.1, .error cPermission)
    else (r.1, .ok pa)

/-- One byte that an engine reads for a task: it sees the task's held stores (spec/09 R224), and an uncorrectable error is POISON
(spec/13 R328). -/
def State.engineByte (s : State) (ctx task die : Nat) (clus : Option Nat) (comb : Bool) (va : Nat) : State × Except Nat Byte :=
  let r := s.enginePlace ctx die clus va false comb
  match r.2 with
  | .error e => (r.1, .error e)
  | .ok pa =>
    if s.marked pa 1 then (r.1, .error cPoison)
    else
      let x := r.1.readTask task pa 1
      (x.1, .ok (x.2.headD 0))

/-- The row that holds a byte is read in its slice (spec/13 R324). -/
def State.rowRead (s : State) (ctx die : Nat) (clus : Option Nat) (va : Nat) : State :=
  match (s.enginePlace ctx die clus va false false).2 with
  | .ok pa => s.combRead pa none
  | .error _ => s

/-- n bytes that an engine reads, one read for each row of 32 bytes; `first` where the first of them begins a read. -/
def State.engineRun (s : State) (ctx task die : Nat) (clus : Option Nat) (first : Bool) (va : Nat) : Nat → State × Except Nat (List Byte)
  | 0 => (s, .ok [])
  | n + 1 =>
    let r := s.engineByte ctx task die clus false (va % 2 ^ 64)
    match r.2 with
    | .error e => (r.1, .error e)
    | .ok b =>
      let u := if first || decide (va % 32 = 0) then r.1.rowRead ctx die clus (va % 2 ^ 64) else r.1
      let t := State.engineRun u ctx task die clus false (va + 1) n
      (t.1, match t.2 with
        | .error e => .error e
        | .ok bs => .ok (b :: bs))

/-- n bytes that an engine reads. -/
def State.engineBytes (s : State) (ctx task die : Nat) (clus : Option Nat) (va n : Nat) : State × Except Nat (List Byte) :=
  s.engineRun ctx task die clus true va n

/-! ### Windows (spec/08 R192 to R194) -/

/-- Bytes of an element of a format code; BQ4 has half a byte. -/
def fmtBytes (f : Nat) : Nat := if f = 0 ∨ f = 7 then 4 else if f = 1 ∨ f = 2 then 2 else 1

/-- The format is BQ4. -/
def isBq (f : Nat) : Bool := decide (f = 5)

/-- The block length of a BLEN code (spec/02 R48). -/
def blockLen (code : Nat) : Nat := 16 * 2 ^ code

/-- Entry d of a list of numbers. -/
def nth (l : List Nat) (d : Nat) : Nat := l.getD d 0

/-- Elements of the window. -/
def Window.elems (w : Window) : Nat := w.boxes.foldl (· * ·) 1

/-- Bytes of the element image. -/
def Window.image (w : Window) : Nat := if isBq w.fmt then w.elems / 2 else w.elems * fmtBytes w.fmt

/-- Blocks of the scale image. -/
def Window.blocks (w : Window) : Nat := if isBq w.fmt then w.elems / blockLen w.blen else 0

/-- Where the scale image begins. -/
def Window.scaleAt (w : Window) : Nat := (w.image + 15) / 16 * 16

/-- Bytes of the packed image, gap and all. -/
def Window.span (w : Window) : Nat := if isBq w.fmt then w.scaleAt + w.blocks else w.image

/-- The window's byte count. -/
def Window.count (w : Window) : Nat := w.image + w.blocks

/-- The tensor index of each dimension for an element of the packed window. -/
def Window.index (w : Window) (pos : Nat) : List Nat :=
  let b := nth w.boxes
  [nth w.origin 0 + pos % b 0, nth w.origin 1 + pos / b 0 % b 1, nth w.origin 2 + pos / (b 0 * b 1) % b 2,
   nth w.origin 3 + pos / (b 0 * b 1 * b 2)]

/-- The index lies outside the tensor. -/
def Window.outside (w : Window) (x : List Nat) : Bool := (List.range 4).any fun d => decide (nth w.dims d ≤ nth x d)

/-- Byte offset of an index along dimensions 1 to 3. -/
def rowsAt (strides x : List Nat) : Nat := nth x 1 * nth strides 0 + nth x 2 * nth strides 1 + nth x 3 * nth strides 2

/-- What a byte of an image stands for. -/
inductive Piece where
  /-- A byte of the tensor. -/
  | byte (va : Nat)
  /-- A byte of two BQ4 elements of the tensor; a padded half is code 0. -/
  | pair (va : Nat) (low high : Bool)
  /-- Padding. -/
  | pad (b : Byte)
  /-- The alignment gap: neither written nor counted. -/
  | gap
  deriving DecidableEq, Repr

/-- The piece of one element byte. DEDUCED, log entry 32. -/
def Window.elemPiece (w : Window) (x : List Nat) (k : Nat) : Piece :=
  if w.outside x then .pad (BitVec.ofNat 8 (w.padval.toNat / 2 ^ (8 * k)))
  else .byte ((w.base + nth x 0 * fmtBytes w.fmt + rowsAt w.strides x + k) % 2 ^ 64)

/-- The piece of two BQ4 elements from an even index (spec/02 R46). DEDUCED, log entry 32. -/
def Window.bqPiece (w : Window) (x : List Nat) : Piece :=
  let y := (nth x 0 + 1) :: x.drop 1
  if w.outside x then .pad 0
  else .pair ((w.base + nth x 0 / 2 + rowsAt w.strides x) % 2 ^ 64) true (!w.outside y)

/-- The piece of the scale byte of the block that holds an element. DEDUCED, log entry 32. -/
def Window.scalePiece (w : Window) (x : List Nat) : Piece :=
  if w.outside x then .pad 0 else .byte ((w.sbase + nth x 0 / blockLen w.blen + rowsAt w.sstrides x) % 2 ^ 64)

/-- The piece of a byte of the packed image (spec/08 R194). -/
def Window.piece (w : Window) (o : Nat) : Piece :=
  if isBq w.fmt then
    if o < w.image then w.bqPiece (w.index (2 * o))
    else if o < w.scaleAt then .gap
    else w.scalePiece (w.index ((o - w.scaleAt) * blockLen w.blen))
  else w.elemPiece (w.index (o / fmtBytes w.fmt)) (o % fmtBytes w.fmt)

/-- Read the pieces of an image: bytes with their offsets, the gap left out, or the first cause. -/
def State.readPieces (s : State) (ctx task die : Nat) (clus : Option Nat) (comb : Bool) :
    List (Nat × Piece) → State × Except Nat (List (Nat × Byte))
  | [] => (s, .ok [])
  | (o, p) :: t =>
    let one : State × Except Nat (Option Byte) := match p with
      | .gap => (s, .ok none)
      | .pad b => (s, .ok (some b))
      | .byte va =>
        let r := s.engineByte ctx task die clus comb va
        (r.1, match r.2 with
          | .error e => .error e
          | .ok b => .ok (some b))
      | .pair va lo hi =>
        let r := s.engineByte ctx task die clus comb va
        (r.1, match r.2 with
          | .error e => .error e
          | .ok b => .ok (some ((if lo then b &&& 0x0F else 0) ||| (if hi then b &&& 0xF0 else 0))))
    match one.2 with
    | .error e => (one.1, .error e)
    | .ok x =>
      let rest := State.readPieces one.1 ctx task die clus comb t
      (rest.1, match rest.2 with
        | .error e => .error e
        | .ok l => .ok (match x with
          | some b => (o, b) :: l
          | none => l))

/-! ### Layout records (spec/08 R192, R193) -/

/-- What a layout record gives: a window, or a cause with the window where it is determined all the same (spec/08 R200). -/
inductive Layout where
  | ok (w : Window)
  | bad (cause : Nat) (w : Option Window)
  deriving DecidableEq, Repr

/-- A field of a record. -/
def fieldOf (bs : List Byte) (at_ n : Nat) : Nat := leNat ((bs.drop at_).take n)

/-- The window of a record for a copy with some coordinates. -/
def windowOf (bs : List Byte) (coords : List Nat) : Window :=
  let box := (List.range 4).map fun d => fieldOf bs (0x38 + 2 * d) 2
  { base := fieldOf bs 0 8, fmt := fieldOf bs 8 1 % 16, blen := fieldOf bs 10 1 % 4, padval := BitVec.ofNat 32 (fieldOf bs 12 4),
    dims := (List.range 4).map fun d => fieldOf bs (0x10 + 4 * d) 4, strides := (List.range 3).map fun d => fieldOf bs (0x20 + 8 * d) 8,
    boxes := box, origin := (List.range 4).map fun d => nth coords d * nth box d, sbase := fieldOf bs 0x40 8,
    sstrides := (List.range 3).map fun d => fieldOf bs (0x48 + 8 * d) 8 }

/-- The checks of a record that do not name its box (spec/08 R193). -/
def recordOk (bs : List Byte) : Bool :=
  let w := windowOf bs []
  let rank := fieldOf bs 9 1
  decide (w.fmt ≤ 8 ∧ fieldOf bs 8 1 / 16 = 0 ∧ 1 ≤ rank ∧ rank ≤ 4 ∧ fieldOf bs 10 1 / 4 = 0 ∧ fieldOf bs 11 1 = 0) &&
    ((List.range 4).all fun d => decide (nth w.dims d ≠ 0) && (decide (d < rank) || decide (nth w.dims d = 1))) &&
    (isBq w.fmt || decide (w.blen = 0 ∧ w.sbase = 0 ∧ w.sstrides = [0, 0, 0]))

/-- The format, the rank and the box are valid, so that the window's byte count is determined (spec/08 R193, R200). DEDUCED, log entry 34.
-/
def windowKnown (bs : List Byte) : Bool :=
  let w := windowOf bs []
  let rank := fieldOf bs 9 1
  decide (w.fmt ≤ 8 ∧ 1 ≤ rank ∧ rank ≤ 4) &&
    ((List.range 4).all fun d => decide (nth w.boxes d ≠ 0) && (decide (d < rank) || decide (nth w.boxes d = 1))) &&
    (!isBq w.fmt || decide (nth w.boxes 0 % blockLen w.blen = 0))

/-- The bytes of the record of a command. -/
def State.readLayout (s : State) (c : CopyCmd) (clus : Nat) : State × Except Nat (List Byte) :=
  if c.layout % 32 ≠ 0 then (s, .error cMisaligned) else s.engineBytes c.ctx c.task (dieOf clus) (some clus) c.layout 96

/-- The layout of a `cpy` or `cpym`. DEDUCED, log entry 34. -/
def layoutOf (c : CopyCmd) (bs : List Byte) : Layout :=
  let w := windowOf bs c.coords
  if !windowKnown bs then .bad cSlot none
  else if recordOk bs && decide (w.count ≤ 393216) then .ok w
  else .bad cSlot (some w)

/-! ### Destinations (spec/08 R198 to R201) -/

/-- A scratchpad place of a command: its number among the destinations, the core, the first byte and the end of the area. -/
structure Dest where
  num : Nat
  core : Nat
  off : Nat
  limit : Nat
  deriving DecidableEq, Repr

/-- The scratchpad places of a command. -/
def CopyCmd.dests (c : CopyCmd) (clus : Nat) : List Dest :=
  match c.kind with
  | .toSpad core off limit => [{ num := 0, core := core, off := off, limit := limit }]
  | .toTensor core off limit => [{ num := 0, core := core, off := off, limit := limit }]
  | .multi off mask =>
    ((List.range 4).filter fun k => mask.getLsbD k).map fun k => { num := k, core := clus * 4 + k, off := off, limit := 0x60000 }
  | .toRegs _ _ => [{ num := 0, core := 0, off := 0, limit := 0 }]
  | .oload _ => [{ num := 0, core := 0, off := 0, limit := 0 }]

/-- Portions of a window at a destination: scratchpad lines, registers, or rows of a slot. DESIGN CHOICE, log entry 30. -/
def CopyCmd.portions (c : CopyCmd) (w : Window) (d : Dest) : Nat :=
  match c.kind with
  | .toRegs _ _ => (w.span + 255) / 256
  | .oload _ => 128
  | _ => (d.off % 128 + w.span + 127) / 128

/-- The image offsets of a portion of a copy. DESIGN CHOICE, log entry 30. -/
def CopyCmd.offsets (c : CopyCmd) (w : Window) (d : Dest) (p : Nat) : List Nat :=
  let r : Nat × Nat := match c.kind with
    | .toRegs _ _ => (256 * p, 256 * p + 256)
    | _ => (128 * p - d.off % 128, 128 * (p + 1) - d.off % 128)
  (List.range (min r.2 w.span - r.1)).map (r.1 + ·)

/-- The scratchpad line of a portion. -/
def Dest.line (d : Dest) (p : Nat) : Nat := d.off / 128 + p

/-- A die is parked, or has not come back from it: its on-chip resources cannot be reached. One that is only parking still runs its teams
(spec/01 R37, spec/15 R365, R366). -/
def State.dieParked (s : State) (die : Nat) : Bool := decide (2 ≤ (s.die die).park)

/-- A line of a destination that a command of a context may touch (spec/01 R35, spec/08 R201). -/
def State.lineOk (s : State) (ctx : Nat) (d : Dest) (line : Nat) : Bool :=
  decide (line * 128 < d.limit) && !s.lineForeign ctx d.core line && !s.dieParked (dieOf (clusOf d.core))

/-- The number of a portion at a destination. DESIGN CHOICE, log entry 30. -/
def portionKey (d : Dest) (p : Nat) : Nat := d.num * 65536 + p

/-- The bytes that a portion counts: all but the gap. -/
def CopyCmd.portionCount (c : CopyCmd) (w : Window) (d : Dest) (p : Nat) : Nat :=
  match c.kind with
  | .oload _ => w.count / 128
  | _ => ((c.offsets w d p).filter fun o => !decide (w.piece o = .gap)).length

/-- The barrier of a destination. -/
def CopyCmd.barOf (c : CopyCmd) (d : Dest) : Option (Nat × Nat) :=
  match c.kind, c.bar with
  | .multi _ _, some b => some (d.core, b.2)
  | _, b => b

/-- A count for the barrier of a destination joins those that wait in the cluster. -/
def State.postCount (s : State) (clus : Nat) (c : CopyCmd) (d : Dest) (bytes : Nat) (toExpected : Bool) (cause : Nat) : State :=
  match c.barOf d with
  | none => s
  | some b =>
    s.modCluster clus fun k =>
      { k with counts := k.counts ++
          [{ core := b.1, off := b.2, bytes := bytes, toExpected := toExpected, cause := cause, launches := c.launches }] }

/-- The first command of a team's queue. -/
def State.headCopy (s : State) (clus team : Nat) : Option CopyCmd := (s.cluster clus).copies.find? fun c => decide (c.team = team)

/-- Replace a command of a cluster's copy engine. -/
def State.setCopy (s : State) (clus : Nat) (c : CopyCmd) : State :=
  s.modCluster clus fun k => { k with copies := k.copies.map fun x => if x.num = c.num then c else x }

/-- Two requests of one team conflict: one writes what the other reads or writes (spec/07 R184). -/
def Req.conflicts (a b : Req) : Bool :=
  let writes (r : Req) : List Nat := match r.kind with
    | .mstore _ => []
    | _ => r.tiles
  (writes a).any b.tiles.contains || (writes b).any a.tiles.contains

/-- A request may start: no earlier conflicting request of its team stands (spec/07 R184), and no `qfence` holds it back. -/
def State.reqReady (s : State) (clus : Nat) (r : Req) : Bool :=
  let k := s.cluster clus
  !(k.resv.any fun x => decide (x.team = r.team ∧ x.num < r.num) && x.conflicts r) &&
    !(k.copies.any fun c => decide (c.team = r.team ∧ c.num < r.num) && (match c.oslot? with
      | some n => r.slots.contains n
      | none => false)) && s.settled r.after

/-- Requests that have become eligible are marked with the cycle (spec/07 R185). -/
def State.stampReqs (s : State) (clus : Nat) : State :=
  if (s.cluster clus).resv.all fun r => r.eligible.isSome || !s.reqReady clus r then s
  else s.modCluster clus fun k =>
    { k with resv := k.resv.map fun r => if r.eligible.isNone && s.reqReady clus r then { r with eligible := some s.now } else r }

/-- A command leaves the copy engine; releases and requests that waited for it go on (spec/07 R176, R184). -/
def State.dropCopy (s : State) (clus num : Nat) : State :=
  (s.modCluster clus fun k => ({ k with copies := k.copies.filter fun x => !decide (x.num = num) } : Cluster).settle).stampReqs clus

/-- The portions of a destination that have been written. -/
def CopyCmd.doneAt (c : CopyCmd) (d : Dest) : List Nat :=
  (c.done.filter fun k => decide (k / 65536 = d.num)).map (· % 65536)

/-- A destination faults: the lines of a KIND 0 image that did not receive all their bytes are present and poisoned, and its barrier
gets the rest of the window's count, with the cause (spec/08 R200). DEDUCED, log entry 34. -/
def State.failDest (s : State) (clus : Nat) (c : CopyCmd) (w : Window) (cause : Nat) (d : Dest) : State :=
  let done := c.doneAt d
  let left := (List.range (c.portions w d)).filter fun p => !done.contains p
  let spad := match c.kind with
    | .toSpad _ _ _ | .multi _ _ => true
    | _ => false
  let s1 := if spad then foldState (fun s p => s.poisonLine d.core (d.line p)) s (left.filter fun p => s.lineOk c.ctx d (d.line p)) else s
  s1.postCount clus c d (w.count - (done.map (c.portionCount w d)).sum) false cause

/-- Every destination that is neither complete nor faulted faults, and the command ends. -/
def State.failCopy (s : State) (clus : Nat) (c : CopyCmd) (w : Option Window) (cause : Nat) : State :=
  let live := (c.dests clus).filter fun d => !c.failed.contains d.num
  let s1 := match w with
    | some w => foldState (fun s d => s.failDest clus c w cause d) s
        (live.filter fun d => decide ((c.doneAt d).length < c.portions w d))
    | none => foldState (fun s d => s.postCount clus c d 0 true cause) s live
  s1.dropCopy clus c.num

/-- The command has nothing left to do. -/
def CopyCmd.complete (c : CopyCmd) (clus : Nat) (w : Window) : Bool :=
  (c.dests clus).all fun d => c.failed.contains d.num || decide (c.portions w d ≤ (c.doneAt d).length)

/-- The state after a portion: the command is kept until it is complete. -/
def State.keepCopy (s : State) (clus : Nat) (c : CopyCmd) (w : Window) : State :=
  if c.complete clus w then s.dropCopy clus c.num else s.setCopy clus c

/-- The teams' queues are served in turn: a team whose head could start, and that comes after the last one served and before this one,
goes first (spec/08 R198). DESIGN CHOICE, log entry 36. -/
def turnOf (last team : Nat) (others : List Nat) : Bool :=
  let rank (t : Nat) : Nat := if last < t then t - last else t + 2 ^ 64 - last
  others.all fun t => decide (rank team ≤ rank t)

/-- An earlier request of the team keeps an `oload` from its slot (spec/07 R184). -/
def Cluster.slotNeeded (c : Cluster) (team num slot : Nat) : Bool :=
  c.resv.any fun r => decide (r.team = team ∧ r.num < num) && r.slots.contains slot

/-- The command may start: nothing that it must follow stands before it. DESIGN CHOICE, log entry 36. -/
def State.copyReady (s : State) (clus : Nat) (c : CopyCmd) : Bool :=
  c.started.isNone && s.settled c.after && (match c.kind with
    | .oload n => !(s.cluster clus).slotNeeded c.team c.num n
    | _ => true)

/-- The teams whose first command may start. DESIGN CHOICE, log entry 36. -/
def State.readyTeams (s : State) (clus : Nat) : List Nat :=
  (((s.cluster clus).copies.map (·.team)).eraseDups).filter fun t => (s.headCopy clus t).any (s.copyReady clus)

end Sys2Proof.Machine
end

