-- ==== Sys2Proof/Machine/OnChip.lean ====
section
/-! DEFINITION. The on-chip map: the resources that its addresses name, who may reach them, and one byte of them read or written
(spec/01 R36, R37). -/

namespace Sys2Proof.Machine

/-- A byte of a resource of the on-chip map. -/
inductive Spot where
  | reg (slot reg lane byte : Nat)
  | spad (core off : Nat)
  | oslot (clus slot byte : Nat)
  | acc (clus tile elem byte : Nat)
  deriving DecidableEq, Repr

/-- What an on-chip address names; none for a cluster, a kind, core bits or an offset that names nothing. -/
def spotOf (pa : Nat) : Option Spot :=
  let clus := pa / 2 ^ 36 % 4 * 48 + pa / 2 ^ 30 % 64
  let core := pa / 2 ^ 28 % 4
  let off := pa % 2 ^ 24
  if 48 ≤ pa / 2 ^ 30 % 64 then none
  else
    match pa / 2 ^ 24 % 16 with
    | 0 => if off < 2 ^ 19 then some (.reg ((clus * 4 + core) * 16 + off / 2 ^ 15) (off / 2 ^ 8 % 128) (off / 4 % 64) (off % 4)) else none
    | 1 => if off < 0x60000 then some (.spad (clus * 4 + core) off) else none
    | 2 => if core = 0 ∧ off < 2 ^ 21 then some (.oslot clus (off / 2 ^ 15) (off % 2 ^ 15)) else none
    | 3 => if core = 0 ∧ off < 2 ^ 20 then some (.acc clus (off / 2 ^ 16) (off / 4 % 2 ^ 14) (off % 4)) else none
    | _ => none

/-- The cluster of a resource. -/
def Spot.clus : Spot → Nat
  | .reg slot _ _ _ => clusOf (coreOf slot)
  | .spad core _ => clusOf core
  | .oslot c _ _ => c
  | .acc c _ _ _ => c

/-- The context of a team that holds a slot or tile, or whose requests keep it from being free; the team of a suspended owner holds its claims
still (spec/09 R237). -/
def State.teamCtx (s : State) (clus team : Nat) : Option Nat :=
  match s.teams.get? team with
  | some t => some t.ctx
  | none =>
    match (s.cluster clus).resv.find? fun r => decide (r.team = team) with
    | some r => some r.ctx
    | none =>
      match (s.cluster clus).copies.find? fun c => decide (c.team = team) with
      | some c => some c.ctx
      | none => (s.ctxSlots.find? fun e => e.2.wave.any fun w => decide (w.team = team)).map (·.2.ctx)

/-- A holder, if any, belongs to an issuer's context; an issuer that is no context may reach every resource. -/
def State.holderOk (s : State) (ctx : Option Nat) (clus : Nat) (holder releasing : Option Nat) : Bool :=
  match ctx with
  | none => true
  | some c => [holder, releasing].all fun o => o.all fun t => (s.teamCtx clus t).all fun x => decide (x = c)

/-- The resource may be reached for a context, or for system software (none). -/
def State.spotOk (s : State) (ctx : Option Nat) (x : Spot) : Bool :=
  !s.dieParked (dieOf x.clus) &&
    match x with
    | .reg slot _ _ _ => (s.waves.get? slot).any fun w => ctx.all fun c => decide (w.ctx = c)
    | .spad core off => ctx.all fun c => !s.lineForeign c core (off / 128)
    | .oslot c n _ => ((s.cluster c).slots.get? n).all fun o => s.holderOk ctx c o.holder o.releasing
    | .acc c n _ _ => ((s.cluster c).tiles.get? n).all fun o => s.holderOk ctx c o.holder o.releasing

/-- The outcome of a byte's access by an engine: done, a cause, or a wait for a line to be present. -/
inductive Got (α : Type) where
  | ok (a : α)
  | bad (cause : Nat)
  | wait
  deriving DecidableEq, Repr

/-- A byte of a resource read. DEDUCED, log entry 62. -/
def State.spotRead (s : State) (ctx : Option Nat) (x : Spot) : Got Byte :=
  if !s.spotOk ctx x then .bad cPermission
  else
    match x with
    | .reg slot r l k =>
      match s.waves.get? slot with
      | some w => .ok (((leBytes 4 ((w.landAt s.now).regs.lane r l).toNat).drop k).headD 0)
      | none => .bad cPermission
    | .spad core off =>
      if s.lineAbsent core (off / 128) then .wait
      else if s.linePoisoned core (off / 128) then .bad cPoison
      else .ok ((s.spadBytes core off 1).headD 0)
    | .oslot c n k => .ok (((s.cluster c).slots.get? n).elim 0 fun o => o.data.get k)
    | .acc c n e k => .ok (((leBytes 4 (((s.cluster c).tiles.get? n).elim 0 fun o => (o.data.get e).toNat)).drop k).headD 0)

/-- A slot that no team has claimed. -/
def OSlot.unclaimed : OSlot :=
  { data := [], holder := none, releasing := none, fmt := 0, blen := 0, trans := false, kext := 0, soff := 0, realK := 0, realR := 0,
    faulted := false }

/-- A tile that no team has claimed. -/
def Tile.unclaimed : Tile := { data := [], holder := none, releasing := none, fault := 0 }

/-- A register of a wave takes an engine's byte (spec/01 R32, spec/08 R199). -/
def Wave.rxOpen (w : Wave) (reg : Nat) : Bool :=
  w.rxwin.getLsbD 31 && decide (w.rxwin.toNat % 128 ≤ reg ∧ reg < w.rxwin.toNat % 128 + w.rxwin.toNat / 256 % 256)

/-- A word with byte k replaced. -/
def putByte (x : Word) (k : Nat) (b : Byte) : Word :=
  BitVec.ofNat 32 (x.toNat - x.toNat / 2 ^ (8 * k) % 256 * 2 ^ (8 * k) + b.toNat * 2 ^ (8 * k))

/-- A byte of a resource written: registers only inside an open window (spec/01 R32), and never a byte of a barrier (spec/08 R207). DEDUCED,
log entry 62. -/
def State.spotWrite (s : State) (ctx : Option Nat) (x : Spot) (b : Byte) : Got State :=
  if !s.spotOk ctx x then .bad cPermission
  else
    match x with
    | .reg slot r l k =>
      match s.waves.get? slot with
      | none => .bad cPermission
      | some w =>
        if w.rxOpen r && decide (l < w.hdr.width) then
          .ok (s.setWave slot { w with regs := { w.regs with v := w.regs.v.set (64 * r + l) (putByte (w.regs.lane r l) k b) } })
        else .bad cPermission
    | .spad core off =>
      if s.typedIn core off 1 then .bad cPermission
      else if s.lineAbsent core (off / 128) then .wait
      else .ok (s.spadStore core off [b])
    | .oslot c n k =>
      .ok (s.modCluster c fun x =>
        let o := x.slots.getD n OSlot.unclaimed
        { x with slots := x.slots.put n { o with data := o.data.set k b } })
    | .acc c n e k =>
      .ok (s.modCluster c fun x =>
        let o := x.tiles.getD n Tile.unclaimed
        { x with tiles := x.tiles.put n { o with data := o.data.set e (putByte (o.data.get e) k b) } })

/-- The scratchpad lines of which an engine command has written every byte without fault are poisoned no more (spec/13 R318). -/
def State.clearWhole (s : State) (spots : List (Nat × Nat)) : State :=
  if s.cores.all fun c => decide (c.2.poison = []) then s
  else
    foldState (fun s (x : Nat × Nat) =>
      if (List.range 128).all fun k => spots.contains (x.1, 128 * x.2 + k) then s.modCore x.1 fun c => { c with poison := delNat x.2 c.poison } else s)
      s ((spots.map fun x => (x.1, x.2 / 128)).eraseDups)

/-- The bits m of an old byte replaced. -/
def maskByte (old b m : Byte) : Byte := (b &&& m) ||| (old &&& ~~~m)

/-- Some bits of a byte of a resource written: the others keep the values that it holds. DEDUCED, log entry 63. -/
def State.spotMerge (s : State) (ctx : Option Nat) (x : Spot) (b m : Byte) : Got State :=
  if m = 0xFF then s.spotWrite ctx x b
  else
    match s.spotRead ctx x with
    | .ok old => s.spotWrite ctx x (maskByte old b m)
    | .bad e => .bad e
    | .wait => .wait

/-- The core and the byte of its scratchpad that an address of a context reaches through the on-chip map. -/
def State.spadSpot? (s : State) (ctx die : Nat) (clus : Option Nat) (va : Nat) : Option (Nat × Nat) :=
  match (s.translate ctx die clus va).2 with
  | .ok pa _ => match spotOf pa with
    | some (.spad core off) => if inOnchip pa then some (core, off) else none
    | _ => none
  | .bad _ => none

/-- Where an engine's copy writes a byte of a tensor: a page of the on-chip map names one of its resources, which the copy engine may
address as a destination (spec/01 R37, spec/07 R178); a remote page is refused (spec/08 R196). DEDUCED, log entry 63. -/
def State.engineDest (s : State) (ctx die : Nat) (clus : Option Nat) (va : Nat) : State × Except Nat (Nat × Option Spot) :=
  let r := s.translate ctx die clus va
  (r.1, match r.2 with
    | .bad i => .error (if i = 9 then cPermission else cTranslation)
    | .ok pa pte =>
      if !pteWr pte || inRemote pa || !s.accessOk ctx pa 1 true then .error cPermission
      else if inOnchip pa then
        match spotOf pa with
        | some x => .ok (pa, some x)
        | none => .error cPermission
      else .ok (pa, none))

end Sys2Proof.Machine
end

