-- ==== Sys2Proof/Machine/Copies.lean ====
section
/-! DEFINITION. Copies: `cpy` and `cpym`, and the steps of the cluster copy engine (spec/08 R196 to R202). -/

namespace Sys2Proof.Machine

/-! ### Posting (spec/08 R196, R197) -/

/-- A scratchpad address of a command: where it lies, and where the allocation or the window that holds it ends. DEDUCED, log entry 35. -/
def State.placeOf (s : State) (slot : Nat) (w : Wave) (a : Nat) : Option (Nat × Nat × Nat) :=
  match s.teams.get? w.team with
  | none => none
  | some t =>
    (s.spadPlace t (coreOf slot) a).map fun p => (p.1, p.2, if a / 2 ^ 22 % 4 = 2 then 0x60000 else (t.spadBase + t.spadLines) * 128)

/-- The BAR of a command: none, or where it lies; the cause where it is refused (spec/08 R197). DEDUCED, log entry 35. -/
def State.barOf (s : State) (slot : Nat) (w : Wave) (bar : Word) : Except (Nat × Nat) (Option (Nat × Nat)) :=
  if bar = 0xFFFFFFFF then .ok none
  else if bar.toNat % 16 ≠ 0 then .error (cMisaligned, 0)
  else match s.placeOf slot w bar.toNat with
    | none => .error (cPermission, 4)
    | some p => .ok (some (p.1, p.2.1))

/-- The coordinates of a command, from two registers. -/
def coordsOf (x y : Word) : List Nat := [x.toNat % 65536, x.toNat / 65536, y.toNat % 65536, y.toNat / 65536]

/-- The copy-engine commands of a team of a cluster. -/
def State.copiesOf (s : State) (clus team : Nat) : Nat := ((s.cluster clus).copies.filter fun c => decide (c.team = team)).length

/-- Post a command: the version commits first, and the wave waits where its team holds 64 commands (spec/08 R197, R202). DEDUCED, log
entries 15, 37. -/
def postCopy (t : State) (w : Wave) (commit : Bool) (kind : CopyKind) (bar : Option (Nat × Nat)) (sa : Nat) : Did :=
  let i := t.issue
  let clus := clusOf (coreOf i.slot)
  if 64 ≤ t.copiesOf clus w.team then .wait t
  else
    let c := if commit then t.commit i.slot else t
    let cmd : CopyCmd :=
      { num := c.nextNum, team := w.team, ctx := w.ctx, task := w.task, launches := w.launches, kind := kind, bar := bar,
        layout := (i.src.pair (sa + 2)).toNat, coords := coordsOf (i.src.scalar (sa + 4)) (i.src.scalar (sa + 5)),
        after := c.teamAfter w 0, started := none, done := [], failed := [], fetched := [] }
    .done ((({ c with nextNum := c.nextNum + 1 } : State).ordered i.slot).modCluster clus fun k => { k with copies := k.copies ++ [cmd] })

/-- The trap of a command that is refused at issue. -/
def refuseCommand (t : State) (instr : Instr) (cause info : Nat) : Did := Did.orTrap t (t.issue.objectRaise instr cause info false) (.left t)

/-- `cpy sA` (spec/08 R196, R197). -/
def execCpy (q : Sched) (sa : SReg) (s : State) : Host.Outcome State Fault Refusal :=
  issueWord q (.cpy q sa) s fun t w =>
    let i := t.issue
    let dst := (i.src.scalar sa.toNat).toNat
    let kind := dst / 2 ^ 30
    let waves := ((t.teams.get? w.team).map (·.waves)).getD 0
    let stop := refuseCommand t (.cpy q sa)
    if kind = 3 ∨ (kind ≠ 1 ∧ dst / 2 ^ 24 % 64 ≠ 0) ∨
        (kind = 1 ∧ (dst / 2 ^ 28 % 4 ≠ 0 ∨ dst / 2 ^ 23 % 2 ≠ 0 ∨ dst % 65536 ≠ 0 ∨ waves ≤ dst / 2 ^ 24 % 16)) then stop cSlot 0
    else if kind ≠ 1 ∧ dst % 16 ≠ 0 then stop cMisaligned 0
    else
      let place := t.placeOf i.slot w (dst % 2 ^ 24)
      match t.barOf i.slot w (i.src.scalar (sa.toNat + 1)) with
      | .error e => stop e.1 e.2
      | .ok bar =>
        if kind = 1 then postCopy t w true (.toRegs (dst / 2 ^ 24 % 16) (dst / 2 ^ 16 % 128)) bar sa.toNat
        else match place with
          | none => stop cPermission 4
          | some p => postCopy t w true (if kind = 0 then .toSpad p.1 p.2.1 p.2.2 else .toTensor p.1 p.2.1 p.2.2) bar sa.toNat

/-- The address names the cluster window with CORE 0. -/
def inWindow0 (a : Nat) : Bool := decide (a / 2 ^ 20 % 16 = 8)

/-- `cpym sA, sM` (spec/08 R197, R201). -/
def execCpym (q : Sched) (sa sm : SReg) (s : State) : Host.Outcome State Fault Refusal :=
  issueWord q (.cpym q sa sm) s fun t w =>
    let i := t.issue
    let dst := (i.src.scalar sa.toNat).toNat
    let mask := i.src.scalar sm.toNat
    let bar := i.src.scalar (sa.toNat + 1)
    let stop := refuseCommand t (.cpym q sa sm)
    if mask.toNat % 16 = 0 ∨ mask.toNat / 16 ≠ 0 ∨ dst / 2 ^ 24 ≠ 0 then stop cSlot 0
    else if dst % 16 ≠ 0 then stop cMisaligned 0
    else match t.barOf i.slot w bar with
      | .error e => stop e.1 e.2
      | .ok b =>
        match t.placeOf i.slot w dst with
        | none => stop cPermission 4
        | some p =>
          if !inWindow0 dst || (b.isSome && !inWindow0 bar.toNat) then stop cPermission 4
          else postCopy t w true (.multi p.2.1 (mask.setWidth 4)) b sa.toNat

/-! ### The start of a command (spec/08 R193, R198) -/

/-- A destination line before any byte of the command lands: its presence is clear. A poisoned line that the command does not cover
whole stays present and poisoned (spec/06 R156, spec/13 R318). DEDUCED, log entry 31. -/
def State.openLine (s : State) (d : Dest) (line covered : Nat) : State :=
  if s.linePoisoned d.core line then
    if covered = 128 then s.modCore d.core fun c => { c with poison := delNat line c.poison, absent := addNat line c.absent } else s
  else s.modCore d.core fun c => { c with absent := addNat line c.absent }

/-- Every line of a KIND 0 image is opened. -/
def State.openLines (s : State) (clus : Nat) (c : CopyCmd) (w : Window) : State :=
  match c.kind with
  | .toSpad _ _ _ | .multi _ _ =>
    foldState (fun s d =>
      foldState (fun s p => s.openLine d (d.line p) (c.portionCount w d p)) s
        ((List.range (c.portions w d)).filter fun p => s.lineOk c.ctx d (d.line p) && decide (0 < c.portionCount w d p))) s (c.dests clus)
  | _ => s

/-- A command is taken in hand: its layout record is read and checked. -/
def State.startCopy (s : State) (clus team : Nat) (c : CopyCmd) (layout : CopyCmd → List Byte → Layout) : State :=
  let r := s.readLayout c clus
  let u := r.1.modCluster clus fun k => { k with lastTeam := team }
  match r.2 with
  | .error e => u.failCopy clus c none e
  | .ok bs =>
    match layout c bs with
    | .bad e w => u.failCopy clus c w e
    | .ok w => (u.openLines clus c w).setCopy clus { c with started := some w }

/-- The command fills an operand slot. -/
def isOload : CopyKind → Bool
  | .oload _ => true
  | _ => false

/-- The copy engine starts the first command of a team's queue, the queues in turn (spec/08 R198). -/
def execCopyCommandStart (clus team : Nat) (s : State) : Host.Outcome State Fault Refusal :=
  .next (match s.headCopy clus team with
    | none => s
    | some c =>
      if s.copyReady clus c && !isOload c.kind && turnOf (s.cluster clus).lastTeam team (s.readyTeams clus) then
        settleEvent clus s (s.startCopy clus team c layoutOf)
      else s)

/-! ### Portions (spec/08 R198 to R201) -/

/-- The tensor byte that an image byte stands for, and the bits of it. -/
def Piece.target : Piece → Option (Nat × Byte)
  | .byte va => some (va, 0xFF)
  | .pair va lo hi => some (va, (if lo then 0x0F else 0) ||| (if hi then 0xF0 else 0))
  | _ => none

/-- The pieces of a portion read for a command: row reads, or column reads of a width of pages that must carry COMB, which set the tags
of their combs (spec/07 R177, spec/13 R324). -/
def State.readImage (s : State) (clus : Nat) (c : CopyCmd) (col : Option Nat) (ps : List (Nat × Piece)) :
    State × Except Nat (List (Nat × Byte)) :=
  let die := dieOf clus
  let r := s.readPieces c.ctx c.task die (some clus) col.isSome ps
  let reads := ps.filterMap fun p => p.2.target.bind fun x =>
    match (s.enginePlace c.ctx die (some clus) x.1 false false).2 with
    | .ok pa => some (pa / 1024, match col with
      | some w => pa % 32 / w
      | none => pa % 1024 / 32)
    | .error _ => none
  (foldState (fun s k => s.combRead (k.1 * 1024) col) r.1 reads.eraseDups, r.2)

/-- A portion whose bytes land in a scratchpad line: an inadmissible line, or bytes of a typed barrier, fault the destination
(spec/08 R200, R201). DEDUCED, log entry 31. -/
def State.landLine (s : State) (clus : Nat) (c : CopyCmd) (w : Window) (d : Dest) (p : Nat) (bytes : List (Nat × Byte)) : State :=
  let line := d.line p
  if !s.lineOk c.ctx d line || bytes.any (fun b => s.typedIn d.core (d.off + b.1) 1) then
    match c.kind with
    | .multi _ _ => (s.failDest clus c w cPermission d).keepCopy clus { c with failed := d.num :: c.failed } w
    | _ => s.failCopy clus c (some w) cPermission
  else
    let s1 := foldState (fun s b => s.spadStore d.core (d.off + b.1) [b.2]) s bytes
    let s2 := if bytes.length = 128 then s1.modCore d.core fun k => { k with poison := delNat line k.poison } else s1
    ((s2.linePresent d.core line).postCount clus c d bytes.length false 0).keepCopy clus { c with done := portionKey d p :: c.done } w

/-- Bytes of an image that land in the register window of a wave: those that it refuses are left out (spec/08 R199). DEDUCED, log entry 62.
-/
def Wave.landRegs (w : Wave) (first : Nat) (bytes : List (Nat × Byte)) : Wave × Bool :=
  bytes.foldl (fun (a : Wave × Bool) b =>
    let reg := first + b.1 / 256
    let lane := b.1 % 256 / 4
    if a.1.rxOpen reg && decide (lane < a.1.hdr.width) then
      ({ a.1 with regs := { a.1.regs with v := a.1.regs.v.set (64 * reg + lane) (putByte (a.1.regs.lane reg lane) (b.1 % 4) b.2) } }, a.2)
    else (a.1, true)) (w, false)

/-- A portion of a KIND 1 command: every byte is counted, and a refused one is a PERMISSION fault (spec/08 R199). A target wave that
stands in a context slot while an adopted owner runs in its place takes no element, as one that has ended. DESIGN CHOICE, log entry 124. -/
def State.landRegisters (s : State) (clus : Nat) (c : CopyCmd) (w : Window) (d : Dest) (p wave first : Nat) (bytes : List (Nat × Byte)) :
    State :=
  let target := s.waves.find? fun e => decide (e.2.team = c.team ∧ e.2.waveNo = wave)
  let r : State × Bool := match target with
    | none => (s, true)
    | some e =>
      let x := e.2.landRegs first bytes
      (s.setWave e.1 x.1, x.2)
  (r.1.postCount clus c d bytes.length false (if r.2 then cPermission else 0)).keepCopy clus
    { c with done := portionKey d p :: c.done } w

/-- The bits of a tensor byte that later portions, already performed, have written: they keep them (spec/08 R192). -/
def CopyCmd.laterBits (c : CopyCmd) (w : Window) (d : Dest) (p va : Nat) : Byte :=
  (((c.doneAt d).filter fun k => decide (p < k)).flatMap fun k => (c.offsets w d k).filterMap fun o => (w.piece o).target).foldl
    (fun m x => if x.1 = va then m ||| x.2 else m) 0

/-- The image bytes written to the tensor, one after another: those of memory as cells, those of the on-chip map at once; up to the
first that is refused, or that waits for a scratchpad line. DEDUCED, log entry 63. -/
def State.tensorCells (s : State) (clus : Nat) (c : CopyCmd) (w : Window) (d : Dest) (p : Nat) :
    List Nat → List Host.Cell → State × List Host.Cell × Got Unit
  | [], acc => (s, acc, .ok ())
  | o :: t, acc =>
    match (w.piece o).target with
    | none => State.tensorCells s clus c w d p t acc
    | some x =>
      let r := s.engineDest c.ctx (dieOf clus) (some clus) x.1
      let m := x.2 &&& ~~~(c.laterBits w d p x.1)
      let b := (s.spadBytes d.core (d.off + o) 1).headD 0
      match r.2 with
      | .error e => (r.1, acc, .bad e)
      | .ok (pa, none) =>
        let old := ((acc.filter fun k => decide (k.1 = pa)).map (·.2)).getLastD ((s.bytesAt pa 1).headD 0)
        State.tensorCells r.1 clus c w d p t (if m = 0 then acc else acc ++ [(pa, maskByte old b m)])
      | .ok (_, some y) =>
        if m = 0 then State.tensorCells r.1 clus c w d p t acc
        else
          match r.1.spotMerge (some c.ctx) y b m with
          | .ok u => State.tensorCells u clus c w d p t acc
          | .bad e => (r.1, acc, .bad e)
          | .wait => (r.1, acc, .wait)

/-- The bytes of scratchpads that a command writes whole through the on-chip map. -/
def State.tensorSpots (s : State) (clus : Nat) (c : CopyCmd) (w : Window) : List (Nat × Nat) :=
  (List.range w.span).filterMap fun o => (w.piece o).target.bind fun x =>
    if x.2 = 0xFF then s.spadSpot? c.ctx (dieOf clus) (some clus) x.1 else none

/-- A portion of a KIND 2 command: it waits while its line is not present (spec/08 R198). DEDUCED, log entry 63. -/
def State.landTensor (s : State) (clus : Nat) (c : CopyCmd) (w : Window) (d : Dest) (p : Nat) : State :=
  let line := d.line p
  if !s.lineOk c.ctx d line then s.failCopy clus c (some w) cPermission
  else if s.lineAbsent d.core line then s
  else if s.linePoisoned d.core line then s.failCopy clus c (some w) cPoison
  else
    let r := s.tensorCells clus c w d p (c.offsets w d p) []
    let s1 := if r.2.1 = [] then r.1 else r.1.store r.2.1
    match r.2.2 with
    | .wait => s
    | .bad e => s1.failCopy clus c (some w) e
    | .ok _ =>
      let c1 := { c with done := portionKey d p :: c.done }
      ((if c1.complete clus w then s1.clearWhole (s1.tensorSpots clus c w) else s1).postCount clus c d (c.portionCount w d p) false 0).keepCopy clus c1 w

/-! ### Rows of an operand slot (spec/07 R174, R177) -/

/-- The bytes of a row of an operand slot and what they stand for. -/
def oslotRow (x : OSlot) (w : Window) (r : Nat) : List (Nat × Piece) :=
  let k := x.kext
  let at_ (t : Nat) : List Nat := if x.trans then [nth w.origin 0 + r, nth w.origin 1 + t, nth w.origin 2, nth w.origin 3]
    else [nth w.origin 0 + t, nth w.origin 1 + r, nth w.origin 2, nth w.origin 3]
  if isBq x.fmt then
    ((List.range (k / 2)).map fun j => (r * k / 2 + j, w.bqPiece (at_ (2 * j)))) ++
      (List.range (k / blockLen x.blen)).map fun b => (x.soff + r * (k / blockLen x.blen) + b, w.scalePiece (at_ (b * blockLen x.blen)))
  else
    let sz := fmtBytes x.fmt
    (List.range (k * sz)).map fun o => (r * k * sz + o, w.elemPiece (at_ (o / sz)) (o % sz))

/-- A fault of an `oload` marks its slot (spec/07 R178). -/
def State.markSlot (s : State) (clus slot : Nat) (f : Bool) : State :=
  s.modCluster clus fun k => { k with slots := k.slots.modify slot fun x => { x with faulted := f } }

/-- A portion of an `oload`: one row of the slot. -/
def State.landRow (s : State) (clus : Nat) (c : CopyCmd) (w : Window) (d : Dest) (slot r : Nat) : State :=
  match (s.cluster clus).slots.get? slot with
  | none => s.failCopy clus c (some w) cSlot
  | some x =>
    let row := oslotRow x w r
    let got := s.readImage clus c (if x.trans then some (fmtBytes x.fmt) else none) row
    match got.2 with
    | .error e => (got.1.markSlot clus slot true).failCopy clus c (some w) e
    | .ok bytes =>
      let s1 := got.1.modCluster clus fun k => { k with slots := k.slots.modify slot fun x =>
        { x with data := bytes.foldl (fun m b => m.set b.1 b.2) x.data } }
      let s2 := s1.postCount clus c d (c.portionCount w d r) false 0
      let c2 := { c with done := portionKey d r :: c.done }
      (if c2.complete clus w then s2.markSlot clus slot false else s2).keepCopy clus c2 w

/-- The cycles of a portion count in the activity of the cluster, 16 for each (spec/15 R364). DESIGN CHOICE, log entry 19. -/
def State.copyWork (s : State) (clus : Nat) (c : CopyCmd) : State :=
  ({ s with free := s.free + 1 } : State).addActivity clus c.launches (16 * Config.copyCycles s.free)

/-- The copy engine performs a portion of the command that it has in hand for a team, in an order of its choice. A
`cpym` reads the tensor once for all its destinations, which share one alignment (spec/08 R201). DESIGN CHOICE, log entry 30. -/
def execCopyPortionWrite (clus team portion : Nat) (s : State) : Host.Outcome State Fault Refusal :=
  .next (match s.headCopy clus team with
    | none => s
    | some c =>
      match c.started, (c.dests clus).find? fun d => decide (d.num = portion / 65536) with
      | some w, some d =>
        let p := portion % 65536
        if c.done.contains (portionKey d p) || c.failed.contains d.num || decide (c.portions w d ≤ p) then s
        else
          settleEvent clus s (State.copyWork (
            match c.kind with
            | .toTensor _ _ _ => s.landTensor clus c w d p
            | .oload slot => s.landRow clus c w d slot p
            | .toRegs wave first =>
              let r := s.readImage clus c none ((c.offsets w d p).map fun o => (o, w.piece o))
              match r.2 with
              | .error e => r.1.failCopy clus c (some w) e
              | .ok bytes => r.1.landRegisters clus c w d p wave first bytes
            | .toSpad _ _ _ =>
              let r := s.readImage clus c none ((c.offsets w d p).map fun o => (o, w.piece o))
              match r.2 with
              | .error e => r.1.failCopy clus c (some w) e
              | .ok bytes => r.1.landLine clus c w d p bytes
            | .multi _ _ =>
              match c.fetched.get? p with
              | some bytes => s.landLine clus c w d p bytes
              | none =>
                let r := s.readImage clus c none ((c.offsets w d p).map fun o => (o, w.piece o))
                match r.2 with
                | .error e => r.1.failCopy clus c (some w) e
                | .ok bytes => r.1.landLine clus { c with fetched := c.fetched.put p bytes } w d p bytes) clus c)
      | _, _ => s)

end Sys2Proof.Machine
end

