-- ==== Sys2Proof/Machine/Matrix.lean ====
section
/-! DEFINITION. The matrix engine: major 0x19, the reservation table, the scoreboard and the arbiter (spec/07, spec/02 R55, R56). -/

namespace Sys2Proof.Machine

/-! ### Records (spec/07 R172) -/

/-- A record in the scratchpad, read as a load of its size. -/
def recordAt (t : State) (w : Wave) (instr : Instr) (sa : SReg) (n : Nat) (body : List Byte → Did) : Did :=
  spadObject t w instr (t.issue.src.scalar sa.toNat) n false fun core off => body (t.spadBytes core off n)

/-- SLOT_FAULT by the Leader. -/
def slotFault (t : State) (instr : Instr) : Did := t.issue.raiseAll t instr cSlot 0

/-- A team holds a tile, or a slot. -/
def Cluster.holdsTile (c : Cluster) (team n : Nat) : Bool := (c.tiles.get? n).any fun x => decide (x.holder = some team)
def Cluster.holdsSlot (c : Cluster) (team n : Nat) : Bool := (c.slots.get? n).any fun x => decide (x.holder = some team)

/-- A tile, or a slot, is neither held nor releasing. -/
def Cluster.tileFree (c : Cluster) (n : Nat) : Bool := (c.tiles.get? n).all fun x => x.holder.isNone && x.releasing.isNone
def Cluster.slotFree (c : Cluster) (n : Nat) : Bool := (c.slots.get? n).all fun x => x.holder.isNone && x.releasing.isNone

/-! ### Claims (spec/07 R173, R175, R176, R179) -/

/-- A claim that succeeds: `sc` is written when the zero fill is done (spec/07 R175). -/
def State.beginFill (s : State) (w : Wave) : State :=
  (s.wave fun x => { x with varPend := x.varPend.filter (fun d => !decide (d = .sc)) ++ [.sc], pend := x.pend.filter fun p => !decide (p.write.reg = .sc) }).modCluster
    s.hereClus fun k => { k with fills := k.fills ++ [{ slot := s.issue.slot, task := w.task }] }

/-- The slots, the descriptor and the validity of a claim record (spec/07 R173). -/
structure ClaimRec where
  slots : List Nat
  slot : OSlot
  valid : Bool
  deriving DecidableEq, Repr

def claimOf (team : Nat) (b : List Byte) : ClaimRec :=
  let fmt := fieldOf b 8 1
  let mode := fieldOf b 9 1
  let kext := fieldOf b 10 2
  let soff := fieldOf b 12 2
  let blen := mode % 4
  let trans := decide (mode / 4 % 2 = 1)
  let area := if isBq fmt then 64 * kext else 128 * kext * fmtBytes fmt
  let slots := (List.range 64).filter fun n => decide (fieldOf b 0 8 / 2 ^ n % 2 = 1)
  { slots := slots
    slot := { data := [], holder := some team, releasing := none, fmt := fmt, blen := blen, trans := trans, kext := kext, soff := soff,
              realK := kext, realR := 128, faulted := false }
    valid := decide (slots ≠ [] ∧ 1 ≤ fmt ∧ fmt ≤ 5 ∧ mode / 8 = 0 ∧ fieldOf b 14 2 = 0 ∧ kext ≠ 0 ∧ kext % 32 = 0 ∧ area ≤ 32768) &&
      (if isBq fmt then
        decide (kext % blockLen blen = 0 ∧ soff % 16 = 0 ∧ area ≤ soff ∧ soff + 128 * kext / blockLen blen ≤ 32768 ∧ trans = false)
       else decide (blen = 0 ∧ soff = 0)) }

/-- `oclaim sA` (spec/07 R175). -/
def execOclaim (q : Sched) (sa : SReg) (s : State) : Host.Outcome State Fault Refusal :=
  issueWord q (.oclaim q sa) s fun t w =>
    recordAt t w (.oclaim q sa) sa 16 fun b =>
      let r := claimOf w.team b
      let k := t.cluster t.hereClus
      if !r.valid || r.slots.any (k.holdsSlot w.team) then slotFault t (.oclaim q sa)
      else if !r.slots.all k.slotFree then .done (t.putNow (.cond false))
      else
        .done ((t.modCluster t.hereClus fun k => { k with slots := r.slots.foldl (fun m n => Assoc.put m n r.slot) k.slots }).beginFill w)

/-- The numbers that are set in a mask. -/
def bitsSet (n : Nat) (x : Nat) : List Nat := (List.range n).filter fun k => decide (x / 2 ^ k % 2 = 1)

/-- `orel sA` (spec/07 R176). -/
def execOrel (q : Sched) (sa : SReg) (s : State) : Host.Outcome State Fault Refusal :=
  issueWord q (.orel q sa) s fun t w =>
    let slots := bitsSet 64 (t.issue.src.pair sa.toNat).toNat
    if slots = [] ∨ slots.all ((t.cluster t.hereClus).holdsSlot w.team) = false then slotFault t (.orel q sa)
    else .done (t.modCluster t.hereClus fun k => k.releaseClaims w.team (fun _ => false) slots.contains)

/-- A tile just claimed: +0.0 in every element (spec/01 R26, spec/07 R179). -/
def Tile.claimed (team : Nat) : Tile := { data := [], holder := some team, releasing := none, fault := 0 }

/-- `aclaim sA` (spec/07 R179). -/
def execAclaim (q : Sched) (sa : SReg) (s : State) : Host.Outcome State Fault Refusal :=
  issueWord q (.aclaim q sa) s fun t w =>
    let x := (t.issue.src.scalar sa.toNat).toNat
    let tiles := bitsSet 16 x
    let k := t.cluster t.hereClus
    if tiles = [] ∨ x / 65536 ≠ 0 ∨ tiles.any (k.holdsTile w.team) = true then slotFault t (.aclaim q sa)
    else if !tiles.all k.tileFree then .done (t.putNow (.cond false))
    else
      .done ((t.modCluster t.hereClus fun k => { k with tiles := tiles.foldl (fun m n => Assoc.put m n (Tile.claimed w.team)) k.tiles }).beginFill w)

/-- `arel sA` (spec/07 R179). -/
def execArel (q : Sched) (sa : SReg) (s : State) : Host.Outcome State Fault Refusal :=
  issueWord q (.arel q sa) s fun t w =>
    let x := (t.issue.src.scalar sa.toNat).toNat
    let tiles := bitsSet 16 x
    if tiles = [] ∨ x / 65536 ≠ 0 ∨ tiles.all ((t.cluster t.hereClus).holdsTile w.team) = false then slotFault t (.arel q sa)
    else .done (t.modCluster t.hereClus fun k => k.releaseClaims w.team tiles.contains (fun _ => false))

/-- Change the wave of a task, wherever it is held. DEDUCED, log entry 107. -/
def State.modTask (s : State) (task : Nat) (f : Wave → Wave) : State :=
  let g (w : Wave) : Wave := if w.task = task then f w else w
  { s with
    waves := s.waves.map fun e => (e.1, g e.2)
    ctxSlots := s.ctxSlots.map fun e => (e.1, { e.2 with wave := e.2.wave.map g }) }

/-- The zero fill of a claim of the wave in a slot is done: `sc` := 1 (spec/07 R175). DEDUCED, log entry 107. -/
def execClaimZeroFillDone (slot : Nat) (s : State) : Host.Outcome State Fault Refusal :=
  let clus := clusOf (coreOf slot)
  .next (match (s.cluster clus).fills.find? fun f => decide (f.slot = slot) with
    | none => s
    | some f =>
      let rest := (s.cluster clus).fills.erase f
      let s1 := s.modCluster clus fun k => { k with fills := rest }
      if rest.contains f then s1
      else s1.modTask f.task fun w => if w.varPend.contains .sc then w.arrive (.cond true) else w)

/-! ### `oload` (spec/07 R177, R178) -/

/-- `oload sA`; it is no commit point (spec/07 R177, R190). A slot that is not held is reported before a refused BAR, an order that R177 leaves
open. DESIGN CHOICE, log entry 115. -/
def execOload (q : Sched) (sa : SReg) (s : State) : Host.Outcome State Fault Refusal :=
  issueWord q (.oload q sa) s fun t w =>
    let i := t.issue
    let slot := (i.src.scalar sa.toNat).toNat
    if 64 ≤ slot ∨ (t.cluster t.hereClus).holdsSlot w.team slot = false then slotFault t (.oload q sa)
    else match t.barOf i.slot w (i.src.scalar (sa.toNat + 1)) with
      | .error e => refuseCommand t (.oload q sa) e.1 e.2
      | .ok bar => postCopy t w false (.oload slot) bar sa.toNat

/-- The window of a slot: KEXT along K and 128 along the other axis, at the origin that the coordinates select (spec/07 R177,
spec/08 R194). -/
def slotWindow (x : OSlot) (coords : List Nat) (bs : List Byte) : Window :=
  let box := if x.trans then [128, x.kext, 1, 1] else [x.kext, 128, 1, 1]
  { windowOf bs coords with
    boxes := box, origin := (List.range 4).map fun d => nth coords d * nth box d, padval := 0, fmt := x.fmt, blen := x.blen }

/-- The layout of an `oload`: the record's format and block length must be the slot's (spec/08 R193, R194). -/
def slotLayout (x : OSlot) (c : CopyCmd) (bs : List Byte) : Layout :=
  let w := slotWindow x c.coords bs
  if recordOk bs && decide ((windowOf bs []).fmt = x.fmt ∧ (windowOf bs []).blen = x.blen) then .ok w else .bad cSlot (some w)

/-- How many positions of a window along a dimension lie in the tensor. -/
def Window.realAlong (w : Window) (d : Nat) : Nat := min (nth w.boxes d) (nth w.dims d - nth w.origin d)

/-- The padding of the window in a slot (spec/07 R177, spec/02 R54). -/
def OSlot.withReal (x : OSlot) (w : Window) : OSlot :=
  let inside := decide (0 < w.realAlong 2 ∧ 0 < w.realAlong 3)
  let k := if x.trans then 1 else 0
  { x with realK := if inside then w.realAlong k else 0, realR := if inside then w.realAlong (1 - k) else 0 }

/-- The copy engine takes an `oload` in hand; a fault marks the slot, and counts the slot's bytes (spec/07 R178, spec/08 R200). -/
def State.startOload (s : State) (clus team : Nat) (c : CopyCmd) (slot : Nat) (x : OSlot) : State :=
  let r := s.readLayout c clus
  let u := r.1.modCluster clus fun k => { k with lastTeam := team }
  match r.2 with
  | .error e => (u.markSlot clus slot true).failCopy clus c (some (slotWindow x c.coords [])) e
  | .ok bs =>
    match slotLayout x c bs with
    | .bad e w => (u.markSlot clus slot true).failCopy clus c w e
    | .ok w => (u.modCluster clus fun k => { k with slots := k.slots.modify slot fun x => x.withReal w }).setCopy clus { c with started := some w }

/-- The copy engine starts the `oload` at the head of a team's queue (spec/07 R177, R184). -/
def execOloadStart (clus team : Nat) (s : State) : Host.Outcome State Fault Refusal :=
  .next (match s.headCopy clus team with
    | none => s
    | some c =>
      match c.kind with
      | .oload slot =>
        match (s.cluster clus).slots.get? slot with
        | some x =>
          if s.copyReady clus c && turnOf (s.cluster clus).lastTeam team (s.readyTeams clus) then
            settleEvent clus s (s.startOload clus team c slot x)
          else s
        | none => s
      | _ => s)

/-! ### Posting requests (spec/07 R180 to R183, R186, R189) -/

/-- Post a request; the wave waits at issue while all 32 entries are taken (spec/07 R183), and while a `pfence` orders earlier persistent
stores before the request (spec/06 R169). DEDUCED, log entries 37, 40. -/
def postReq (t : State) (w : Wave) (kind : ReqKind) : Did :=
  let i := t.issue
  let clus := t.hereClus
  if 32 ≤ (t.cluster clus).resv.length then .wait t
  else
    let r : Req :=
      { num := t.nextNum, team := w.team, ctx := w.ctx, slot := i.slot, task := w.task, launches := w.launches,
        prio := ((t.teams.get? w.team).map (·.prio)).getD w.prio, kind := kind, after := t.teamAfter w 3, fmode := w.fmode, seed := w.seed,
        eligible := none, granted := false }
    .done (((({ t with nextNum := t.nextNum + 1 } : State).ordered i.slot).modCluster clus fun k => { k with resv := k.resv ++ [r] }).stampReqs clus)

/-- `mma sA` (spec/07 R180, R181). -/
def execMma (q : Sched) (sa : SReg) (s : State) : Host.Outcome State Fault Refusal :=
  issueWord q (.mma q sa) s fun t w =>
    recordAt t w (.mma q sa) sa 32 fun b =>
      let k := t.cluster t.hereClus
      let acc := fieldOf b 0 1
      let a := fieldOf b 1 1
      let bs := fieldOf b 2 1
      let kcnt := fieldOf b 4 2
      let kext (n : Nat) : Nat := ((k.slots.get? n).map (·.kext)).getD 0
      if acc / 16 ≠ 0 ∨ a / 64 ≠ 0 ∨ bs / 64 ≠ 0 ∨ fieldOf b 3 1 / 2 ≠ 0 ∨ fieldOf b 6 26 ≠ 0 ∨ k.holdsTile w.team acc = false ∨
          k.holdsSlot w.team a = false ∨ k.holdsSlot w.team bs = false ∨ kcnt = 0 ∨ min (kext a) (kext bs) < kcnt then slotFault t (.mma q sa)
      else postReq t w (.pass acc a bs (decide (fieldOf b 3 1 % 2 = 1)) kcnt)

/-- `mzero aN` (spec/07 R186). -/
def execMzero (q : Sched) (tile : BitVec 4) (s : State) : Host.Outcome State Fault Refusal :=
  issueWord q (.mzero q tile) s fun t w =>
    if (t.cluster t.hereClus).holdsTile w.team tile.toNat then postReq t w (.mzero tile.toNat) else slotFault t (.mzero q tile)

/-- The number of the first request that an `mwait` does not wait for: the next one when it began to wait. -/
def State.mwaitFrom (t : State) (w : Wave) : Nat :=
  match w.mwait with
  | some (pc, n) => if pc = t.issue.first then n else t.nextNum
  | none => t.nextNum

/-- `mwait aN`: it waits for the requests that the team posted before it (spec/07 R187). DEDUCED, log entry 37. -/
def execMwait (q : Sched) (tile : BitVec 4) (s : State) : Host.Outcome State Fault Refusal :=
  issueWord q (.mwait q tile) s fun t w =>
    let k := t.cluster t.hereClus
    let from_ := t.mwaitFrom w
    let u := t.wave fun x => { x with mwait := none }
    if !k.holdsTile w.team tile.toNat then slotFault u (.mwait q tile)
    else if k.resv.any fun r => decide (r.team = w.team ∧ r.num < from_) && r.tiles.contains tile.toNat then
      .wait (t.wave fun x => { x with mwait := some (t.issue.first, from_) })
    else
      let f := ((k.tiles.get? tile.toNat).map (·.fault)).getD 0
      if f = 0 then .done u
      else
        (t.issue.raiseAll (u.modCluster t.hereClus fun k => { k with tiles := k.tiles.modify tile.toNat fun x => { x with fault := 0 } })
          (.mwait q tile) f 0)

/-- Bytes of an element of a destination format of `mstore`. -/
def dfmtBytes (f : Nat) : Nat := if f = 0 then 4 else if f ≤ 2 then 2 else 1

/-- A store record in a team's hands (spec/07 R188). -/
def storeRecOf (t : State) (w : Wave) (team : Team) (bar : Option (Nat × Nat)) (b : List Byte) : StoreRec :=
  let ctl := fieldOf b 2 1
  let rm := fieldOf b 3 1
  { team := team, core := coreOf t.issue.slot, tile := fieldOf b 0 1, dfmt := fieldOf b 1 1, spadSpace := decide (ctl % 2 = 1),
    sat := decide (ctl / 2 % 2 = 1), scale := decide (ctl / 4 % 2 = 1), trans := decide (ctl / 8 % 2 = 1),
    rm := if rm = 5 then w.fmode.toNat else rm, stride := fieldOf b 4 4, dst := fieldOf b 8 8, scaddr := fieldOf b 16 8, bar := bar,
    ctr := BitVec.ofNat 32 (fieldOf b 28 4) }

/-- The fields of a store record are in their ranges, and the team holds its tile (spec/07 R188). -/
def storeRecOk (k : Cluster) (team : Nat) (b : List Byte) : Bool :=
  let tile := fieldOf b 0 1
  let f := fieldOf b 1 1
  let ctl := fieldOf b 2 1
  let scale := decide (ctl / 4 % 2 = 1)
  decide (tile < 16 ∧ f ≤ 4 ∧ ctl / 16 = 0 ∧ fieldOf b 3 1 ≤ 5 ∧ fieldOf b 4 4 % 16 = 0 ∧ 128 * dfmtBytes f ≤ fieldOf b 4 4) &&
    (!scale || decide (f = 3 ∨ f = 4)) && (scale || decide (fieldOf b 16 8 = 0)) &&
    (decide (ctl % 2 = 0) || decide (fieldOf b 8 8 / 2 ^ 32 = 0)) && k.holdsTile team tile

/-- `mstore sA` (spec/07 R188, R189). Under SPACE 1 with SCALE the whole of SCADDR is taken as a scratchpad address, so one with bits above 31 is
refused. DESIGN CHOICE, log entry 123. -/
def execMstore (q : Sched) (sa : SReg) (s : State) : Host.Outcome State Fault Refusal :=
  issueWord q (.mstore q sa) s fun t w =>
    recordAt t w (.mstore q sa) sa 32 fun b =>
      let i := t.issue
      let ctl := fieldOf b 2 1
      let scale := decide (ctl / 4 % 2 = 1)
      let spad := decide (ctl % 2 = 1)
      let stop := refuseCommand t (.mstore q sa)
      match t.teams.get? w.team with
      | none => stop cSlot 0
      | some team =>
        let refused (a : Nat) : Bool := spad && (t.spadPlace team (coreOf i.slot) a).isNone
        let bar := t.barOf i.slot w (BitVec.ofNat 32 (fieldOf b 24 4))
        if fieldOf b 8 8 % 16 ≠ 0 ∨ (scale ∧ fieldOf b 16 8 % 4 ≠ 0) ∨ (fieldOf b 24 4 ≠ 2 ^ 32 - 1 ∧ fieldOf b 24 4 % 16 ≠ 0) then
          stop cMisaligned 0
        else match bar with
          | .error e => stop e.1 e.2
          | .ok bar =>
            if refused (fieldOf b 8 8 % 2 ^ 32) || (scale && refused (fieldOf b 16 8)) then stop cPermission 4
            else if !storeRecOk (t.cluster t.hereClus) w.team b then stop cSlot 0
            else postReq t w (.mstore (storeRecOf t w team bar b))

/-! ### The arbiter (spec/07 R185) -/

/-- The request uses the tile port. -/
def Req.tilePort (r : Req) : Bool := match r.kind with
  | .pass _ _ _ _ _ => false
  | _ => true

/-- The effective priority of an eligible request. -/
def Req.effective (r : Req) (now : Nat) : Nat := min 7 (r.prio + (now - r.eligible.getD now) / 8192)

/-- The request that the arbiter grants: the highest effective priority, then the oldest. -/
def bestReq (now : Nat) : List Req → Option Req
  | [] => none
  | r :: t => match bestReq now t with
    | none => some r
    | some b => if b.effective now < r.effective now ∨ (b.effective now = r.effective now ∧ r.num < b.num) then some r else some b

/-- The arbiter grants the array, or the tile port where `port` is set. -/
def execMatrixGrant (clus : Nat) (port : Bool) (s : State) : Host.Outcome State Fault Refusal :=
  let t := s.stampReqs clus
  let mine := (t.cluster clus).resv.filter fun r => r.tilePort == port
  .next (
    if mine.any (·.granted) then t
    else match bestReq t.now (mine.filter fun r => r.eligible.isSome) with
      | none => t
      | some r => t.modCluster clus fun k => { k with resv := k.resv.map fun x => if x.num = r.num then { x with granted := true } else x })

/-- A request has been performed: it leaves the table, and releases and requests that waited for it go on. -/
def State.dropReq (s : State) (clus num : Nat) : State :=
  (s.modCluster clus fun k => ({ k with resv := k.resv.filter fun x => !decide (x.num = num) } : Cluster).settle).stampReqs clus

/-- The granted request of some kind. -/
def State.grantedReq (s : State) (clus : Nat) (p : Req → Bool) : Option Req := (s.cluster clus).resv.find? fun r => r.granted && p r

/-- A tile fault: the first cause is kept (spec/07 R186). -/
def State.faultTile (s : State) (clus tile cause : Nat) : State :=
  s.modCluster clus fun k => { k with tiles := k.tiles.modify tile fun x => { x with fault := if x.fault = 0 then cause else x.fault } }

/-- Flags of an engine ORed into the `sr.fstat` of a task, and into the frame that its handler restores (spec/01 R28, spec/02 R54). DEDUCED,
log entries 38, 39. -/
def Wave.orFlags (w : Wave) (f : FFlags) : Wave :=
  { w with fstat := w.fstat ||| f, handler := w.handler.map fun h => { h with frameFstat := h.frameFstat ||| f } }

/-! ### The pass (spec/02 R46, R47, R55, R56, spec/07 R181) -/

/-- The value of a BQ4 code, in eighths (spec/02 R47). -/
def bqEighths (type code : Nat) : Int :=
  let mag := code % 8
  let signed (m : Int) : Int := if 8 ≤ code then -m else m
  match type with
  | 0 => 8 * (if code < 8 then (code : Int) else (code : Int) - 16)
  | 1 => signed (nth [0, 4, 8, 12, 16, 24, 32, 48] mag)
  | 2 => signed (if mag = 0 then 0 else 2 ^ (mag - 1))
  | _ => signed (nth [0, 8, 16, 24, 32, 48, 64, 96] mag)

/-- The value of a BQ4 element under its scale byte (spec/02 R46). -/
def bqValue (code scale : Nat) : Val :=
  let v := bqEighths (scale / 64) code
  if scale % 64 = 0 then .fin false 0 0 else .fin (decide (v < 0)) v.natAbs ((scale % 64 : Nat) - 35)

/-- Element t of row r of a slot (spec/07 R174). -/
def OSlot.elem (x : OSlot) (r t : Nat) : Val :=
  if isBq x.fmt then
    let b := (x.data.get (r * x.kext / 2 + t / 2)).toNat
    bqValue (if t % 2 = 0 then b % 16 else b / 16) (x.data.get (x.soff + r * (x.kext / blockLen x.blen) + t / blockLen x.blen)).toNat
  else
    let sz := fmtBytes x.fmt
    match FFmt.ofCode? x.fmt with
    | some f => f.decode (leNat (Sparse.getList x.data (r * x.kext * sz + t * sz) sz))
    | none => .nan

/-- The element is no padding (spec/02 R54). The zeros of a slot that no `oload` has filled count as real, and bytes that another engine
writes over an `oload`'s padding still count as padding: the spec names neither case. DESIGN CHOICE, log entry 113. -/
def OSlot.real (x : OSlot) (r t : Nat) : Bool := decide (t < x.realK ∧ r < x.realR)

/-- The group length of a pass (spec/02 R55). -/
def groupLen (a b : OSlot) : Nat :=
  if isBq a.fmt && isBq b.fmt then min (blockLen a.blen) (blockLen b.blen)
  else if isBq a.fmt then blockLen a.blen
  else if isBq b.fmt then blockLen b.blen
  else 32

/-- A product of a group, and whether it may set INVALID. -/
structure Product where
  val : Val
  invalid : Bool
  real : Bool
  deriving DecidableEq, Repr

def Val.isInf (x : Val) (neg : Bool) : Bool := decide (x = .inf neg)

/-- The exact sum of a group's products and its flags (spec/02 R55, R56). -/
def groupSum (ps : List Product) : Val × FFlags :=
  let bad := ps.any (·.invalid)
  let opposed := ps.any (fun p => Val.isInf p.val false) && ps.any fun p => Val.isInf p.val true
  let flags : FFlags := (if ps.any (fun p => p.invalid && p.real) || opposed then fInvalid else 0)
  if bad || opposed || ps.any (fun p => p.val.isNan) then (.nan, flags)
  else match ps with
    | [] => (.fin false 0 0, flags)
    | p :: t => (t.foldl (fun x y => (Val.add .rne x y.val).1) p.val, flags)

/-- One element of a tile after the groups from K index k on. -/
def passGroups (a b : OSlot) (i j g kcnt : Nat) : Nat → Nat → Nat × FFlags → Nat × FFlags
  | 0, _, acc => acc
  | fuel + 1, k, acc =>
    if kcnt ≤ k then acc
    else
      let ps := (List.range (min g (kcnt - k))).map fun d =>
        let x := a.elem i (k + d)
        let y := b.elem j (k + d)
        let z := Val.mul x y
        ({ val := z.1, invalid := decide (z.2 ≠ 0), real := a.real i (k + d) && b.real j (k + d) } : Product)
      let sum := groupSum ps
      let s := FFmt.fp32.finish .rne false 0 sum
      let r := FFmt.fp32.finish .rne false 0 (Val.add .rne (FFmt.fp32.decode acc.1) (FFmt.fp32.decode s.1))
      passGroups a b i j g kcnt fuel (k + g) (r.1, acc.2 ||| s.2 ||| r.2)

/-- A pass on a tile: the new elements and the flags. -/
def passTile (tile : Sparse 32) (a b : OSlot) (zacc : Bool) (kcnt : Nat) : Sparse 32 × FFlags :=
  let g := groupLen a b
  (List.range 16384).foldl (fun (r : Sparse 32 × FFlags) e =>
    let x := passGroups a b (e / 128) (e % 128) g kcnt (kcnt / g + 1) 0 (if zacc then 0 else (tile.get e).toNat, 0)
    (r.1.set e (BitVec.ofNat 32 x.1), r.2 ||| x.2)) (tile, 0)

/-- K elements that the array takes in a clock for an operand of a format (spec/00 R3). -/
def arrayRate (fmt : Nat) : Nat := if fmt = 5 then 4 else if fmt = 3 ∨ fmt = 4 then 2 else 1

/-- Clocks that the array spends on a pass: 128 for each Kc of K (spec/07 R182). -/
def passClocks (a b : OSlot) (kcnt : Nat) : Nat :=
  let r := min (arrayRate a.fmt) (arrayRate b.fmt)
  128 * ((kcnt + 128 * r - 1) / (128 * r))

/-- The granted pass is performed (spec/07 R181); the clocks of the array count in the activity of the cluster, 64 for each (spec/15
R364). -/
def State.performPass (s : State) (clus : Nat) (r : Req) (acc a b : Nat) (zacc : Bool) (kcnt : Nat) : State :=
  let k := s.cluster clus
  match k.tiles.get? acc, k.slots.get? a, k.slots.get? b with
  | some t, some x, some y =>
    if x.faulted || y.faulted then s.faultTile clus acc cSlot
    else
      let z := passTile t.data x y zacc kcnt
      ((s.modCluster clus fun k => { k with tiles := k.tiles.modify acc fun t => { t with data := z.1 } }).modTask r.task fun x =>
        x.orFlags z.2).addActivity clus r.launches (64 * passClocks x y kcnt)
  | _, _, _ => s

/-- The granted pass completes. -/
def execPassComplete (clus : Nat) (s : State) : Host.Outcome State Fault Refusal :=
  .next (match s.grantedReq clus fun r => !r.tilePort with
    | some r =>
      match r.kind with
      | .pass acc a b zacc kcnt => (s.performPass clus r acc a b zacc kcnt).dropReq clus r.num
      | _ => s
    | none => s)

/-- The granted `mzero` completes: +0.0 in every element (spec/07 R186). -/
def execMzeroComplete (clus : Nat) (s : State) : Host.Outcome State Fault Refusal :=
  .next (match s.grantedReq clus fun r => r.tilePort with
    | some r =>
      match r.kind with
      | .mzero n => (s.modCluster clus fun k => { k with tiles := k.tiles.modify n fun t => { t with data := [] } }).dropReq clus r.num
      | _ => s
    | none => s)

/-! ### Storing a tile (spec/07 R189, R190) -/

/-- The destination format of a code of `mstore`. -/
def dfmtOf (f : Nat) : FFmt := (FFmt.ofCode? f).getD .fp32

/-- The magnitude of a finite element. -/
def finiteMag : Val → Option (Nat × Int)
  | .fin _ m e => some (m, e)
  | _ => none

/-- x · 2^k for a finite or special value. -/
def Val.scaled (x : Val) (k : Int) : Val := match x with
  | .fin neg m e => .fin neg m (e + k)
  | v => v

/-- The magnitude m · 2^e is at most the largest finite value of a format. -/
def withinMax (f : FFmt) (m : Nat) (e : Int) : Bool :=
  match f.decode f.maxCode with
  | .fin _ m2 e2 =>
    let lo := min e e2
    decide (m * 2 ^ (e - lo).toNat ≤ m2 * 2 ^ (e2 - lo).toNat)
  | _ => false

/-- The largest exponent from a list, highest first, that keeps the value in range; the last where none does. -/
def scaleSearch (f : FFmt) (m : Nat) (e : Int) : Nat → Int → Int
  | 0, k => k
  | n + 1, k => if withinMax f m (e + k) then k else scaleSearch f m e n (k - 1)

/-- A magnitude is smaller than another. -/
def magLt (a b : Nat × Int) : Bool :=
  let lo := min a.2 b.2
  decide (a.1 * 2 ^ (a.2 - lo).toNat < b.1 * 2 ^ (b.2 - lo).toNat)

/-- The scale exponent k of a tile (spec/07 R189). -/
def tileScale (tile : Sparse 32) (f : FFmt) : Int :=
  let amax := (tile.filterMap fun e => finiteMag (FFmt.fp32.decode e.2.toNat)).foldl (fun a b => if magLt a b then b else a) (0, 0)
  if amax.1 = 0 then 0 else scaleSearch f amax.1 amax.2 252 126

/-- The converted element (i, j) of a tile, and its flags. -/
def StoreRec.element (x : StoreRec) (seed : DWord) (tile : Sparse 32) (k : Int) (i j : Nat) : Nat × FFlags :=
  let bits := (tile.get (128 * i + j)).toNat
  if x.dfmt = 0 then (bits, 0)
  else
    let q := (vrand seed (x.ctr + BitVec.ofNat 32 (2 * i + j / 64)) (j % 64)).toNat % 65536
    (dfmtOf x.dfmt).round (RMode.ofCode x.rm) (x.sat || x.scale) q ((FFmt.fp32.decode bits).scaled k)

/-- The address of element (i, j). -/
def StoreRec.at (x : StoreRec) (i j : Nat) : Nat :=
  let sz := dfmtBytes x.dfmt
  if x.trans then x.dst + j * x.stride + i * sz else x.dst + i * x.stride + j * sz

/-- The writes of an `mstore` in order: the elements row by row, then the scale. DEDUCED, log entry 38. -/
def StoreRec.writes (x : StoreRec) (seed : DWord) (tile : Sparse 32) : List (Nat × List Byte) × FFlags :=
  let k := if x.scale then tileScale tile (dfmtOf x.dfmt) else 0
  let sz := dfmtBytes x.dfmt
  let es := (List.range 16384).map fun e => (x.at (e / 128) (e % 128), x.element seed tile k (e / 128) (e % 128))
  ((es.map fun e => (e.1, leBytes sz e.2.1)) ++
    (if x.scale then [(x.scaddr, leBytes 4 (FFmt.fp32.round .rne false 0 (.fin false 1 (-k))).1)] else []),
   es.foldl (fun f e => f ||| e.2.2) 0)

/-- One write of an `mstore`: it is performed, it waits, or it faults. -/
inductive Wrote where
  | ok (s : State)
  | wait
  | fault (s : State) (cause : Nat)

/-- A global write (spec/06 R150 steps 2 to 4; a remote destination is PERMISSION). DEDUCED, log entry 33. -/
def State.storeGlobal (s : State) (clus : Nat) (r : Req) (va : Nat) (bs : List Byte) : Wrote :=
  let x := s.translate r.ctx (dieOf clus) (some clus) va
  match x.2 with
  | .bad _ => .fault x.1 cTranslation
  | .ok pa pte =>
    if !pteWr pte || inOnchip pa || inRemote pa || !s.accessOk r.ctx pa bs.length true then .fault x.1 cPermission
    else .ok (x.1.holdFor r.task pa bs)

/-- A scratchpad write (spec/07 R189, spec/08 R207). An element's address that exceeds 32 bits is taken modulo 2^32, where the spec gives no
rule. DESIGN CHOICE, log entry 114. -/
def State.storeSpad (s : State) (x : StoreRec) (a : Nat) (bs : List Byte) : Wrote :=
  match s.spadPlace x.team x.core (a % 2 ^ 32) with
  | none => .fault s cPermission
  | some p =>
    if s.lineAbsent p.1 (p.2 / 128) then .wait
    else if s.linePoisoned p.1 (p.2 / 128) then .fault s cPoison
    else if s.typedIn p.1 p.2 bs.length then .fault s cPermission
    else .ok (s.spadStore p.1 p.2 bs)

/-- The writes of a request in order, up to the first fault. DEDUCED, log entry 38. -/
def State.storeAll (s : State) (clus : Nat) (r : Req) (x : StoreRec) : List (Nat × List Byte) → Wrote
  | [] => .ok s
  | e :: t =>
    match (if x.spadSpace then s.storeSpad x e.1 e.2 else s.storeGlobal clus r (e.1 % 2 ^ 64) e.2) with
    | .ok u => State.storeAll u clus r x t
    | o => o

/-- The count of an `mstore` on its barrier (spec/07 R189). -/
def State.countStore (s : State) (clus : Nat) (r : Req) (x : StoreRec) (cause : Nat) : State :=
  match x.bar with
  | none => s
  | some b =>
    s.modCluster clus fun k =>
      { k with counts := k.counts ++
          [{ core := b.1, off := b.2, bytes := 16384 * dfmtBytes x.dfmt + (if x.scale then 4 else 0), toExpected := false, cause := cause,
             launches := r.launches }] }

/-- The granted `mstore` is performed and completes (spec/07 R189). DEDUCED, log entry 38. -/
def execMstoreComplete (clus : Nat) (s : State) : Host.Outcome State Fault Refusal :=
  .next (match s.grantedReq clus fun r => r.tilePort with
    | some r =>
      match r.kind with
      | .mstore x =>
        let w := x.writes r.seed (((s.cluster clus).tiles.get? x.tile).map (·.data) |>.getD [])
        match s.storeAll clus r x w.1 with
        | .wait => s
        | .ok t => settleEvent (storeAgent clus) s (((t.countStore clus r x 0).modTask r.task fun x => x.orFlags w.2).dropReq clus r.num)
        | .fault t cause =>
          settleEvent (storeAgent clus) s ((((t.faultTile clus x.tile cause).countStore clus r x cause).modTask r.task fun x => x.orFlags w.2).dropReq clus r.num)
      | _ => s
    | none => s)

end Sys2Proof.Machine
end

