-- ==== Sys2Proof/Machine/Tier.lean ====
section
/-! DEFINITION. The tier engine: `xfer`, `tagc` and `tagq`, the moves of tiles, the residency policy unit and completion records
(spec/08 R212, R213, R216, R217, spec/13 R329 to R333). -/

namespace Sys2Proof.Machine

/-! ### Objects and records in global memory -/

/-- The checks of an object or record that a scalar-side instruction names in global memory (spec/06 R150 steps 2 to 4). DEDUCED, log entry
29. -/
def globalObject (t : State) (w : Wave) (instr : Instr) (space : Nat) (va n align : Nat) (want : Want) (body : State → Nat → DWord → Did) :
    Did :=
  let clus := clusOf (coreOf t.issue.slot)
  let r := t.check w.ctx (dieOf clus) (some clus) va n align want
  match r.2 with
  | .error e => Did.orTrap r.1 ((t.issue.objectRaise instr e.1 e.2 want.wr).map fun x => { x with space := space }) (.left r.1)
  | .ok (pa, pte) => body r.1 pa pte

/-- An error of the package's error status: its bit, and the context of the first one (spec/15 R374). -/
def State.setError (s : State) (bit ctx : Nat) : State :=
  let e := s.regs.errstat
  let e1 : BitVec 12 := if e.toNat % 16 = 0 then BitVec.ofNat 12 (ctx * 256) else e
  { s with regs := { s.regs with errstat := e1 ||| (1#12 <<< bit) } }

/-- DEDUCED, log entry 74. -/
def errQdesc : Nat := 0
/-- DEDUCED, log entry 48. -/
def errRing : Nat := 1
def errCtxdesc : Nat := 2
def errImage : Nat := 3

/-! ### Issue -/

/-- A command joins a tier queue. DEDUCED, log entry 37. -/
def State.postTier (s : State) (w : Wave) (op : TierOp) (ring tag : Nat) (after : List Nat) : State :=
  let cmd : TierCmd :=
    { num := s.nextNum, team := w.team, ctx := w.ctx, launches := w.launches, op := op, ring := ring, tag := tag, after := after,
      accepted := false, bytes := 0, tiles := [], cause := 0, quiet := false }
  ({ s with nextNum := s.nextNum + 1 } : State).modDie s.hereDie fun d => { d with tierQ := d.tierQ ++ [cmd] }

/-- `xfer sA` (spec/08 R212). -/
def execXfer (q : Sched) (sa : SReg) (s : State) : Host.Outcome State Fault Refusal :=
  issueWord q (.xfer q sa) s fun t w =>
    let i := t.issue
    let src := (i.src.pair sa.toNat).toNat
    let dst := (i.src.pair (sa.toNat + 2)).toNat
    let len := (i.src.scalar (sa.toNat + 4)).toNat
    let code := (i.src.scalar (sa.toNat + 5)).toNat
    let ring := (i.src.pair (sa.toNat + 6)).toNat
    globalObject t w (.xfer q sa) 3 ring 32 32 { rd := true, wr := true } fun u _ _ =>
      let op : Option TierOp := match code % 16 with
        | 0 => some (.copy src dst len)
        | 1 => if dst = 0 then some (.fetch src len) else none
        | 2 => if dst = 0 then some (.evict src len) else none
        | _ => none
      match op, decide (code / 16 % 4096 = 0) with
      | some x, true =>
        let c := u.commit i.slot
        .done ((c.ordered i.slot).postTier w x ring (code / 65536) (c.teamAfter w 1))
      | _, _ => slotFault u (.xfer q sa)

/-- The tiles of an address, as virtual addresses. -/
def tilesFrom (va n : Nat) : List Nat := (List.range n).map fun k => va + 65536 * k

/-- The first of a list of tiles that a `tagc` may not write: its cause and INFO. DESIGN CHOICE, log entry 46. -/
def State.checkTiles (s : State) (ctx clus : Nat) : List Nat → State × Option (Nat × Nat)
  | [] => (s, none)
  | va :: t =>
    let r := s.check ctx (dieOf clus) (some clus) va 65536 1 { rd := false, wr := true }
    match r.2 with
    | .error e => (r.1, some e)
    | .ok _ => State.checkTiles r.1 ctx clus t

/-- `tagc [sA:sA+1], sB` (spec/08 R216). DEDUCED, log entry 59. -/
def execTagc (q : Sched) (sa sb : SReg) (s : State) : Host.Outcome State Fault Refusal :=
  issueWord q (.tagc q sa sb) s fun t w =>
    let i := t.issue
    let va := (i.src.pair sa.toNat).toNat
    let tag := (i.src.scalar sb.toNat).toNat
    let raise (u : State) (c info : Nat) : Did :=
      Did.orTrap u ((i.objectRaise (.tagc q sa sb) c info true).map fun x => { x with space := 0 }) (.left u)
    if va % 65536 ≠ 0 then raise t cMisaligned 0
    else
      let r := t.checkTiles w.ctx t.hereClus (tilesFrom va (tag / 4096))
      match r.2 with
      | some e => raise r.1 e.1 e.2
      | none =>
        if tag / 4096 = 0 then slotFault r.1 (.tagc q sa sb)
        else .done (((r.1.commit i.slot).ordered i.slot).postTier w (.tagc va (tag / 4096) (tag / 16 % 256) (tag % 16)) 0 0 [])

/-- `tagq sD, [sA:sA+1]`: the query is performed by an event of its own (spec/08 R217). DEDUCED, log entry 59. -/
def execTagq (q : Sched) (sd sa : SReg) (s : State) : Host.Outcome State Fault Refusal :=
  issueWord q (.tagq q sd sa) s fun t w =>
    globalObject t w (.tagq q sd sa) 0 (t.issue.src.pair sa.toNat).toNat 1 1 { rd := true, wr := false } fun u pa _ =>
      let dst := VarDst.s sd.toNat
      .done ((({ u with nextNum := u.nextNum + 1 } : State).wave fun x =>
          { x with
            varPend := x.varPend.filter (fun d => !decide (d = dst)) ++ [dst]
            pend := x.pend.filter fun p => !decide (p.write.reg = dst.reg) }).modDie u.hereDie fun d =>
        { d with tagqs := d.tagqs ++ [{ num := u.nextNum, slot := u.issue.slot, task := w.task, reg := sd.toNat, pa := pa }] })

/-! ### Queues -/

/-- A record of a command waits for its ring. -/
def Die.finishing (d : Die) (num : Nat) : Bool := d.completions.any fun c => decide (c.num = num)

/-- The first command of a team's tier queue, where it can go on: what precedes it has been performed, and it has no record to write. -/
def State.headTier (s : State) (die team : Nat) : Option TierCmd :=
  match (s.die die).tierQ.find? fun c => decide (c.team = team) with
  | none => none
  | some c => if (s.die die).finishing c.num || !s.settled c.after then none else some c

/-- Replace a command of a tier queue. -/
def State.setTier (s : State) (die : Nat) (c : TierCmd) : State :=
  s.modDie die fun d => { d with tierQ := d.tierQ.map fun x => if x.num = c.num then c else x }

/-- A command leaves its tier queue. -/
def State.dropTier (s : State) (die num : Nat) : State :=
  s.modDie die fun d => { d with tierQ := d.tierQ.filter fun x => !decide (x.num = num) }

/-- A command has ended: its record waits for the ring (spec/08 R213), and the command holds its queue until then. DEDUCED, log entry 42. -/
def State.finishTier (s : State) (die : Nat) (c : TierCmd) : State :=
  if c.quiet then s.dropTier die c.num
  else
    let rec_ : Completion :=
      { ctx := c.ctx, num := c.num, ring := c.ring, tag := c.tag, status := if c.cause = 0 then 1 else 2, cause := c.cause, flags := 0,
        bytes := c.bytes }
    (s.setTier die c).modDie die fun d => { d with completions := d.completions ++ [rec_] }

/-- The agents of the tier engine and of the completion writer, for the list of those that wait. -/
def tierAgent (die : Nat) : Nat := 200 + die
def recordAgent (die : Nat) : Nat := 210 + die

/-! ### COPY (spec/08 R212) -/

/-- Where an engine access of n bytes lies, within one page. -/
def State.engineSpan (s : State) (ctx die va n : Nat) (wr : Bool) : State × Except Nat Nat :=
  let r := s.enginePlace ctx die none va wr false
  match r.2 with
  | .error e => (r.1, .error e)
  | .ok pa => if s.accessOk ctx pa n wr then (r.1, .ok pa) else (r.1, .error cPermission)

/-- The next 64-byte block of a COPY, of two rows (spec/13 R324). -/
def State.copyBlock (s : State) (die : Nat) (c : TierCmd) (src dst len : Nat) : State :=
  let a := s.engineSpan c.ctx die (src + c.bytes) 64 false
  match a.2 with
  | .error e => a.1.finishTier die { c with cause := e }
  | .ok src_ =>
    if s.marked src_ 64 then a.1.finishTier die { c with cause := cPoison }
    else
      let b := a.1.engineSpan c.ctx die (dst + c.bytes) 64 true
      match b.2 with
      | .error e => b.1.finishTier die { c with cause := e }
      | .ok there =>
        let r := b.1.readPoint src_ 64
        let u := ((r.1.combRead src_ none).combRead (src_ + 32) none).storeAt there r.2
        let c1 := { c with bytes := c.bytes + 64 }
        if c1.bytes = len then u.finishTier die c1 else u.setTier die c1

/-- The tier engine copies a block of the COPY at the head of a team's queue. DEDUCED, log entry 42. -/
def execTierCopy (die team : Nat) (s : State) : Host.Outcome State Fault Refusal :=
  .next (match s.headTier die team with
    | none => s
    | some c =>
      match c.op with
      | .copy src dst len =>
        settleEvent (tierAgent die) s (
          if len = 0 then s.finishTier die { c with cause := cSlot }
          else if src % 64 ≠ 0 ∨ dst % 64 ≠ 0 ∨ len % 64 ≠ 0 then s.finishTier die { c with cause := cMisaligned }
          else s.copyBlock die c src dst len)
      | _ => s)

/-! ### Tile moves (spec/13 R331, R332) -/

/-- The tiles that a command covers, up to the first that cannot be translated, and its cause. DEDUCED, log entry 43. -/
def State.namedTiles (s : State) (ctx die : Nat) (wr : Bool) : List Nat → State × List Nat × Nat
  | [] => (s, [], 0)
  | va :: t =>
    let r := s.engineSpan ctx die va 65536 wr
    match r.2 with
    | .error e => (r.1, [], e)
    | .ok pa =>
      let rest := State.namedTiles r.1 ctx die wr t
      (rest.1, pa / 65536 :: rest.2.1, rest.2.2)

/-- The tile is in the tier that a FETCH, or an EVICT, asks for. DEDUCED, log entry 43. -/
def State.inTier (s : State) (hbm : Bool) (tile : Nat) : Bool := decide ((s.dirOf tile).state = 0) == hbm

/-- A FETCH or EVICT accepted: every tile that has to move starts to move. -/
def State.acceptMoves (s : State) (die : Nat) (c : TierCmd) (hbm : Bool) (src len : Nat) : State :=
  if len = 0 then s.finishTier die { c with cause := cSlot }
  else if src % 65536 ≠ 0 ∨ len % 65536 ≠ 0 then s.finishTier die { c with cause := cMisaligned }
  else
    let r := s.namedTiles c.ctx die false (tilesFrom src (len / 65536))
    let tiles := r.2.1.filter r.1.movable
    let u := foldState (fun s t => if (s.dirOf t).state = 1 ∨ s.inTier hbm t = true then s
        else s.startMove t (if hbm then .fetch else .offload)) r.1 tiles
    u.setTier die { c with accepted := true, tiles := tiles, cause := r.2.2 }

/-- A FETCH or EVICT goes on: tiles that have ended in the requested tier are counted, one that moved the other way since moves again,
and the command ends with its last tile. A tile whose pool has been disabled is left as it is (spec/13 R332). DEDUCED, log entry 43. -/
def State.continueMoves (s : State) (die : Nat) (c : TierCmd) (hbm : Bool) : State :=
  let moving (t : Nat) : Bool := decide ((s.dirOf t).state = 1)
  let there := c.tiles.filter fun t => !moving t && s.inTier hbm t
  let left := c.tiles.filter fun t => moving t || (!s.inTier hbm t && s.movable t)
  let c1 := { c with bytes := c.bytes + 65536 * there.length, tiles := left }
  let u := foldState (fun s t => s.startMove t (if hbm then .fetch else .offload)) s (left.filter fun t => !moving t)
  if left = [] then u.finishTier die c1 else u.setTier die c1

/-- A step of a FETCH or an EVICT at the head of a team's queue. DEDUCED, log entry 42. -/
def State.moveStep (s : State) (die : Nat) (c : TierCmd) (hbm : Bool) (src len : Nat) : State :=
  if c.accepted then s.continueMoves die c hbm else s.acceptMoves die c hbm src len

/-- The tier engine goes on with the FETCH at the head of a team's queue. -/
def execTierFetch (die team : Nat) (s : State) : Host.Outcome State Fault Refusal :=
  .next (match s.headTier die team with
    | none => s
    | some c =>
      match c.op with
      | .fetch src len => settleEvent (tierAgent die) s (s.moveStep die c true src len)
      | _ => s)

/-- The tier engine goes on with the EVICT at the head of a team's queue. -/
def execTierEvict (die team : Nat) (s : State) : Host.Outcome State Fault Refusal :=
  .next (match s.headTier die team with
    | none => s
    | some c =>
      match c.op with
      | .evict src len => settleEvent (tierAgent die) s (s.moveStep die c false src len)
      | _ => s)

/-- The combs of a tile. -/
def combsOf (tile : Nat) : List Nat := (List.range 64).map (tile * 64 + ·)

/-- The bytes of some combs written from the coherent image to SCM. -/
def State.writeScm (s : State) (inComb : Nat → Bool) : State :=
  { s with scm := (s.scm.filter fun e => !inComb (e.1 / 1024)) |> fun kept =>
      (s.mem.filter fun e => inComb (e.1 / 1024)).foldl (fun m e => Sparse.set m e.1 e.2) kept }

/-- The bytes of a tile in the coherent image replaced by those of SCM. -/
def State.readScm (s : State) (tile : Nat) : State :=
  { s with mem := (s.mem.filter fun e => !decide (e.1 / 65536 = tile)) |> fun kept =>
      (s.scm.filter fun e => decide (e.1 / 65536 = tile)).foldl (fun m e => Sparse.set m e.1 e.2) kept }

/-- A write-back queue holds a line of the tile. -/
def State.queued (s : State) (tile : Nat) : Bool := s.dies.any fun d => d.2.wbq.any fun g => g.bytes.any fun b => decide (b.1 / 65536 = tile)

/-- The address of a frame of a die's pool (spec/13 R329). -/
def State.frameAt (s : State) (die frame : Nat) : Nat := 65536 * s.frameBlock die frame

/-- The windows of the package controller permit a tile's move between its frame and SCM (spec/14 R360, master 20). -/
def State.moveOk (s : State) (die tile frame : Nat) (fetch : Bool) : Bool :=
  s.accessOk 20 (tile * 65536) 65536 (!fetch) && s.accessOk 20 (s.frameAt die frame) 65536 fetch

/-- The marked rows of a tile where its bytes lie beneath L2. -/
def State.marksBelow (s : State) (tile : Nat) : List Nat :=
  s.marks.filter (fun r => decide (r / 65536 = tile) && !s.l2.contains (r / 1024)) ++ s.lowMarks.filter fun r => decide (r / 65536 = tile)

/-- The rows of a tile that are marked beneath L2, replaced by others. -/
def State.setBelow (s : State) (tile : Nat) (rows : List Nat) : State :=
  foldState (State.markBelow · true)
    { s with
      marks := s.marks.filter fun r => !(decide (r / 65536 = tile) && !s.l2.contains (r / 1024))
      lowMarks := s.lowMarks.filter fun r => !decide (r / 65536 = tile) } rows

/-- The marks of a tile are to be those of its granules in SCM: of the combs that were written there, the frame's, and of the others those that
SCM has (spec/13 R328). -/
def State.homeMarks (s : State) (tile : Nat) (written : Nat → Bool) : State :=
  let frame := ((s.marksBelow tile).filter fun r => written (r / 1024)).flatMap (granuleRows true)
  let scm := s.scmMarks.filter fun r => decide (r / 65536 = tile) && !written (r / 1024)
  { s.setBelow tile (frame ++ scm) with scmMarks := s.scmMarks.filter fun r => !decide (r / 65536 = tile) }

/-- A tile takes a frame: its bytes in SCM are copied there with their marks, over what the frame held, and nothing of it is dirty there (spec/13
R328, R332). -/
def State.takeFrame (s : State) (die tile frame : Nat) : State :=
  let b := s.frameBlock die frame
  { s with
    frameDirty := s.frameDirty.filter fun c => !decide (c / 64 = tile)
    scmMarks := (s.marksBelow tile).foldl (fun l r => addNat r l) s.scmMarks
    marks := s.marks.filter fun r => !decide (r / 65536 = b)
    frames := s.frames.put b ((s.scm.filter fun e => decide (e.1 / 65536 = tile)).map fun e => (e.1 % 65536, e.2)) }

/-- A tile leaves its frame: the frame keeps what it holds, with its marks, as long as it is in the pool (spec/13 R328, R329). -/
def State.freeFrameOf (s : State) (die tile frame : Nat) : State :=
  let b := s.frameBlock die frame
  { s with
    marks := (s.marksBelow tile).foldl (fun l r => addNat (b * 65536 + r % 65536) l) s.marks
    dirty := s.dirty.filter fun a => !decide (a / 65536 = tile)
    frameDirty := s.frameDirty.filter fun c => !decide (c / 64 = tile) }

/-- A move is performed, where it can be: a fetch needs a free frame, and an offload the queue's writes to the tile; the offload first writes
the tile's dirty bytes of L2 into the frame (spec/13 R332). A move that the access table refuses changes no byte, and waits. DESIGN CHOICE, log
entries 44, 118. -/
def State.performMove (s : State) (die : Nat) (m : TileMove) : Option State :=
  let tile := m.tile
  let frame := (s.dirOf tile).frame
  match m.kind with
  | .fetch =>
    (freeFrame (s.usedFrames die) (s.die die).poolFrames).bind fun f =>
      if s.moveOk die tile f true then some ((s.takeFrame die tile f).setDir tile fun e => { e with state := 0, frame := f }) else none
  | .offload =>
    if s.queued tile || !s.moveOk die tile frame false then none
    else
      let t := foldState State.writeBack s ((combsOf tile).filter fun c => s.l2.contains c || s.dirty.any fun a => decide (a / 1024 = c))
      let changed (c : Nat) : Bool := decide (c / 64 = tile) && t.frameDirty.contains c
      some ((((t.freeFrameOf die tile frame).homeMarks tile changed).writeScm changed).setDir tile fun e => { e with state := 2, frame := 0 })
  | .discard =>
    let t := s.freeFrameOf die tile frame
    let u := foldState State.leaveSlice t (t.l2.filter fun c => decide (c / 64 = tile))
    some (((u.homeMarks tile fun _ => false).readScm tile).setDir tile fun e => { e with state := 3, frame := 0 })

/-- A pool that is being disabled is off once it is empty (spec/13 R329). DEDUCED, log entry 100. -/
def State.settlePool (s : State) (die : Nat) : State :=
  let pooled := (s.dirHere die).any fun e => decide (e.2.state ≤ 1)
  s.modDie die fun d => if d.polDisabling && !pooled then { d with polEnable := false, polDisabling := false } else d

/-- The tier engine of a die completes the move of a tile; a tile that an access waits for goes first, if its move can be performed (spec/13
R331). DESIGN CHOICE, log
entry 44. -/
def execTileMoveComplete (die tile : Nat) (s : State) : Host.Outcome State Fault Refusal :=
  let ms := (s.die die).moves
  .next (match ms.find? fun m => decide (m.tile = tile) with
    | none => s
    | some m =>
      if m.waiters = [] ∧ ms.any (fun x => !decide (x.waiters = []) && (s.performMove die x).isSome) = true then s
      else
        match s.performMove die m with
        | none => s
        | some t => (t.modDie die fun d => { d with moves := d.moves.filter fun x => !decide (x.tile = tile) }).settlePool die)

/-! ### Tags (spec/08 R216, R217, spec/13 R330) -/

/-- The tag of a `tagc` set on a tile: nothing for one homed in HBM; a discarded tile is in SCM again (spec/13 R332). -/
def State.setTag (s : State) (tile run reuse cost : Nat) : State :=
  if inScm (tile * 65536) then
    s.setDir tile fun e => { e with cost := cost, reuse := reuse, run := run, state := if e.state = 3 then 2 else e.state }
  else s

/-- The `tagc` at the head of a team's queue is performed. -/
def execTagcPerform (die team : Nat) (s : State) : Host.Outcome State Fault Refusal :=
  .next (match s.headTier die team with
    | none => s
    | some c =>
      match c.op with
      | .tagc va tiles reuse cost =>
        let r := s.namedTiles c.ctx die true (tilesFrom va tiles)
        (foldState (fun s t => s.setTag t tiles reuse cost) r.1 r.2.1).dropTier die c.num
      | _ => s)

/-- What the directory tells of the tile of an address: COST, REUSE and STATE. A tile homed in HBM is resident and untagged; of a peer's
tile the spec says nothing (log entry 4). -/
def State.tagWord (s : State) (pa : Nat) : Word :=
  if inScm pa then
    let e := s.dirOf (pa / 65536)
    BitVec.ofNat 32 (e.cost % 16 + e.reuse % 256 * 16 + e.state % 4 * 4096)
  else if inHbm pa then 15
  else Config.remoteTag s.free &&& 0x3FFF

/-- The n-th query that waits at a die is performed. DESIGN CHOICE, log entry 46; DEDUCED, log entry 107. -/
def execTagqPerform (die n : Nat) (s : State) : Host.Outcome State Fault Refusal :=
  .next (match (s.die die).tagqs[n]? with
    | none => s
    | some x =>
      let s1 := s.modDie die fun d => { d with tagqs := dropAt n d.tagqs }
      let s2 : State := if inScm x.pa || inHbm x.pa then s1 else { s1 with free := s1.free + 1 }
      s2.modTask x.task fun w => if w.varPend.contains (.s x.reg) then w.arrive (.sca x.reg (s.tagWord x.pa)) else w)

/-! ### The residency policy unit (spec/13 R333) -/

/-- The pressure level: 0 for none. -/
def Die.level (d : Die) (occupied : Nat) : Nat :=
  let above (t : Nat) : Bool := decide (t * d.poolFrames ≤ 256 * occupied)
  if above d.thresh3 then 3 else if above d.thresh2 then 2 else if above d.thresh1 then 1 else 0

/-- A candidate comes before another. -/
def victimBefore (a b : Nat × DirEntry) : Bool :=
  if a.2.reuse ≠ b.2.reuse then decide (b.2.reuse < a.2.reuse)
  else if a.2.run ≠ b.2.run then decide (b.2.run < a.2.run)
  else if a.2.cost ≠ b.2.cost then decide (a.2.cost < b.2.cost)
  else decide (a.1 < b.1)

/-- The first candidate of a list. -/
def firstVictim : List (Nat × DirEntry) → Option (Nat × DirEntry)
  | [] => none
  | a :: t => match firstVictim t with
    | none => some a
    | some b => if victimBefore a b then some a else some b

/-- The tiles in STATE 0 of a die that no command waits on. -/
def State.victims (s : State) (die : Nat) : List (Nat × DirEntry) :=
  (s.dirHere die).filter fun e => decide (e.2.state = 0) && !(s.dies.any fun d => d.2.tierQ.any fun c => c.tiles.contains e.1)

/-- The page of a tile carries PERSIST or STEP. -/
def State.guarded (s : State) (tile : Nat) : Bool := (s.tilesWhere fun e => ptePersist e || pteStep e).contains tile

/-- The policy unit of a die chooses a victim; while the pool is being disabled every tile is offloaded (spec/13 R329, R333). -/
def execPolicyVictimChoose (die : Nat) (s : State) : Host.Outcome State Fault Refusal :=
  let d := s.die die
  let occupied := ((s.dirHere die).filter fun e => decide (e.2.state = 0)).length
  let level := d.level occupied
  .next (match firstVictim (s.victims die) with
    | none => s
    | some v =>
      if !d.polEnable then s
      else if d.polDisabling then s.startMove v.1 .offload
      else if level = 0 ∨ d.poolFrames = 0 ∨ (level = 1 ∧ v.2.reuse < 128) then s
      else if level = 3 ∧ v.2.cost ≤ d.discMax ∧ v.2.cost ≠ 15 ∧ s.guarded v.1 = false then s.startMove v.1 .discard
      else s.startMove v.1 .offload)

/-! ### Completion records (spec/08 R213) -/

/-- A command whose record has been written, or discarded, leaves its queue. -/
def State.retire (s : State) (die n num : Nat) : State :=
  s.modDie die fun d =>
    { d with
      completions := dropAt n d.completions
      tierQ := d.tierQ.filter fun x => !decide (x.num = num)
      waggleQ := d.waggleQ.filter fun x => !decide (x.num = num) }

/-- COUNT of a ring is a power of two from 1 to 65,536. DEDUCED, log entry 48. -/
def ringCountOk (n : Nat) : Bool := (List.range 17).any fun k => decide (n = 2 ^ k)

/-- Where a ring's bytes lie, readable and writable. DEDUCED, log entry 48. -/
def State.ringPlace (s : State) (ctx die va n : Nat) : State × Option Nat :=
  let a := s.engineSpan ctx die va n false
  let b := a.1.engineSpan ctx die va n true
  (b.1, match a.2, b.2 with
    | .ok pa, .ok _ => if s.marked pa n then none else some pa
    | _, _ => none)

/-- Bytes 2 to 15 of a record, then its STATUS. -/
def Completion.tail (c : Completion) : List Byte :=
  leBytes 2 c.tag ++ [BitVec.ofNat 8 c.cause, BitVec.ofNat 8 c.flags.toNat] ++ leBytes 2 0 ++ leBytes 8 c.bytes

/-- The record of a completion written: it waits while its ring is full, and is discarded with an error where the ring, or the record's
place, cannot be used. DEDUCED, log entries 42, 48. -/
def State.writeRecord (s : State) (die n : Nat) (c : Completion) : State :=
  let fail (t : State) : State := (t.setError errRing c.ctx).retire die n c.num
  let r := s.ringPlace c.ctx die c.ring 32
  match r.2 with
  | none => fail r.1
  | some ring =>
    let r : State × Option Nat := ((r.1.readRange ring 32).1, r.2)
    let base := s.valueAt ring 8
    let count := s.valueAt (ring + 8) 4
    let wr := s.valueAt (ring + 12) 4
    let rd := s.valueAt (ring + 16) 4
    if c.ring % 32 ≠ 0 ∨ ringCountOk count = false ∨ base % 16 ≠ 0 then fail r.1
    else if count ≤ (wr + 2 ^ 32 - rd) % 2 ^ 32 then s
    else
      let p := r.1.ringPlace c.ctx die (base + 16 * (wr % count)) 16
      match p.2 with
      | none => fail p.1
      | some pa =>
        (((p.1.storeAt (ring + 12) (leBytes 4 (wr + 1))).storeAt (pa + 2) c.tail).storeAt pa (leBytes 2 c.status)).retire die n c.num

/-- The n-th completion that waits at a die is written. -/
def execCompletionRecordWrite (die n : Nat) (s : State) : Host.Outcome State Fault Refusal :=
  .next (match (s.die die).completions[n]? with
    | none => s
    | some c => settleEvent (recordAgent die) s (s.writeRecord die n c))

end Sys2Proof.Machine
end

