-- ==== Sys2Proof/Machine/Adopt.lean ====
section
/-! DEFINITION. Task identifiers, tasks at their start, the brood unit, and the adoption of a task by a helper (spec/01 R17, R24, R33,
spec/09 R221 to R223, R235 to R238, spec/11 R283). -/

namespace Sys2Proof.Machine

/-! ### Task identifiers (spec/01 R17) -/

/-- The identifiers of the live tasks. -/
def State.taskIds (s : State) : List Nat :=
  s.waves.map (·.2.task) ++ (s.ctxSlots.flatMap fun e => (e.2.wave.map (·.task)).toList) ++ (s.images.flatMap fun e => e.2.waves.map (·.task)) ++
    (s.spilled.flatMap fun e => e.2.waves.map (·.task)) ++ (s.clusters.flatMap fun e => e.2.brood.map (·.task)) ++
    s.items.flatMap fun e => match e.2.kind with
      | .brood b => [b.task]
      | .continuation sp => sp.waves.map (·.task)
      | _ => []

/-- The task is live. -/
def State.live (s : State) (task : Nat) : Bool := decide (task ≠ 0) && s.taskIds.contains task

/-- The sequence number after another. -/
def seqAfter (n : Nat) : Nat := if 2 ^ 28 - 1 ≤ n then 1 else n + 1

/-- The first sequence number from n that no live task of a context holds. -/
def freeSeq (ctx : Nat) (used : List Nat) : Nat → Nat → Nat
  | 0, n => n
  | fuel + 1, n => if used.contains (ctx * 2 ^ 28 + n) then freeSeq ctx used fuel (seqAfter n) else n

/-- A new task of a context, and its identifier. -/
def State.newTask (s : State) (ctx : Nat) : State × Nat :=
  let used := s.taskIds
  let n := freeSeq ctx used (used.length + 1) (s.context ctx).nextSeq
  (s.setContext ctx { s.context ctx with nextSeq := seqAfter n }, ctx * 2 ^ 28 + n)

/-! ### Kernel headers (spec/03 R90, R92) -/

/-- A signed value of 8 bytes. -/
def signed64 (n : Nat) : DWord := BitVec.ofNat 64 n

/-- The header at an address; none where a check of LAUNCH_BAD_HEADER fails. -/
def parseHeader (va : Nat) (b : List Byte) : Option Header :=
  let f := fieldOf b
  let encv := f 4 1
  let width := f 5 1
  let vregs := f 6 1
  let sregs := f 7 1
  let ok := decide (f 0 4 = 0x4E444541 ∧ 1 ≤ encv ∧ encv ≤ 3 ∧ (width = 16 ∨ width = 32 ∨ width = 64) ∧ 8 ≤ vregs ∧ vregs % 8 = 0 ∧
      vregs ≤ (if encv = 1 then 64 else 128) ∧ 8 ≤ sregs ∧ sregs % 8 = 0 ∧ sregs ≤ 64 ∧ f 8 2 ≤ 3072 ∧ 1 ≤ f 10 1 ∧ f 10 1 ≤ 16) &&
    decide (f 11 1 ≤ 1 ∧ f 12 1 ≤ 7 ∧ f 0x23 1 ≤ 30 ∧ f 13 3 = 0 ∧ f 0x28 8 = 0 ∧ f 0x34 12 = 0 ∧ f 0x10 4 % 4 = 0 ∧ f 0x14 4 % 4 = 0 ∧
      f 0x18 8 % 4 = 0)
  if ok then
    some { va := va, encv := encv, width := width, vregs := vregs, sregs := sregs, spad := f 8 2, team := f 10 1,
           paired := decide (f 11 1 = 1), energy := f 12 1, entry := f 0x10 4, handler := f 0x14 4, idemtab := signed64 (f 0x18 8),
           collop := f 0x20 2, collfmt := f 0x22 1, collhead := f 0x23 1, collchunk := f 0x24 4 }
  else none

/-! ### Tasks at their start (spec/01 R24, spec/09 R223) -/

/-- The wave of a spawned task. -/
def Brood.wave (b : Brood) (team at_ : Nat) : Wave :=
  { Wave.start b.task b.ctx team 0 b.hdr b.prio (laneMask (min b.args.length b.hdr.width)) (b.args.headD 0) b.launches at_ with
    spawned := true, laneArgs := b.args, seed := b.seed, startSeed := b.seed, depth := b.depth, restart := true }

/-- The team of a spawned task. -/
def Brood.team (b : Brood) (core slot base : Nat) : Team :=
  { ctx := b.ctx, launch := none, number := 0, x := 0, y := 0, z := 0, core := core, paired := false, slots := [slot], waves := 1,
    spadBase := base, spadLines := b.hdr.spad, prio := b.prio, hdr := b.hdr, qfences := [], wbarScope := none, wbarGroup := 0,
    arrived := [], liveSets := [], arrivedAt := 0, saving := false, discarding := false }

/-- A task starts in a wave slot: it observes the release counters, and its start acquires at device scope (spec/10 R255, R267). DEDUCED,
log entry 70. -/
def State.startWave (s : State) (slot : Nat) (w : Wave) : State :=
  (s.setWave slot { w with obs := s.observe slot w }).acquire slot 4

/-- A spawned task starts in a slot, with its scratchpad run at a line. -/
def State.startBrood (s : State) (b : Brood) (slot base adopt : Nat) : State :=
  let key := s.nextNum
  let s1 := ({ s with nextNum := s.nextNum + 1 } : State).setTeam key (b.team (coreOf slot) slot base)
  (s1.writeLaneArgs (coreOf slot) base b.hdr.spad b.args).startWave slot { b.wave key s.now with adopt := adopt }

/-! ### The brood unit (spec/09 R222) -/

/-- A forming wave leaves the brood unit for the context's task queues. -/
def State.queueBrood (s : State) (b : Brood) : State :=
  { s.distributable b.prio with
    items := s.items.put s.nextNum
      { ctx := b.ctx, kind := .brood b, prio := b.prio, since := s.clock.toNat, aged := false, clus := none, hdr := b.hdr }
    nextNum := s.nextNum + 1 }

/-- The oldest forming wave of a cluster is dispatched. -/
def State.dispatchOldest (s : State) (clus : Nat) : State :=
  match (s.cluster clus).brood with
  | [] => s
  | b :: rest => (s.modCluster clus fun c => { c with brood := rest }).queueBrood b

/-- The forming wave has the key of a lane-child. -/
def Brood.keyed (b : Brood) (w : Wave) (hdr : Header) : Bool :=
  decide (b.ctx = w.ctx ∧ b.hdr.va = hdr.va ∧ b.depth = w.depth + 1 ∧ b.seed = w.seed ∧ b.prio = w.prio)

/-- A lane-child of a wave enters the brood unit of a cluster: its task and its lane there. -/
def State.broodEnter (s : State) (clus : Nat) (w : Wave) (hdr : Header) (arg : DWord) : State × Nat × Nat :=
  let full (b : Brood) : Bool := decide (hdr.width ≤ b.args.length)
  match (s.cluster clus).brood.find? fun b => b.keyed w hdr with
  | some b =>
    let b1 := { b with args := b.args ++ [arg], launches := (b.launches ++ w.launches).eraseDups }
    let others := (s.cluster clus).brood.filter fun x => !decide (x.task = b.task)
    let t := if full b1 then (s.modCluster clus fun c => { c with brood := others }).queueBrood b1
      else s.modCluster clus fun c => { c with brood := c.brood.map fun x => if x.task = b.task then b1 else x }
    (t, b.task, b.args.length)
  | none =>
    let s1 := if 16 ≤ (s.cluster clus).brood.length then s.dispatchOldest clus else s
    let n := s1.newTask w.ctx
    let b : Brood :=
      { ctx := w.ctx, hdr := hdr, depth := w.depth + 1, seed := w.seed, prio := w.prio, task := n.2, args := [arg], launches := w.launches,
        openedAt := s.clock.toNat }
    (n.1.modCluster clus fun c => { c with brood := c.brood ++ [b] }, n.2, 0)

/-- The 2 µs of a cluster's oldest forming wave have passed; those of a pre-empted context stay where they are (spec/11 R279). -/
def execBroodTimeout (clus : Nat) (s : State) : Host.Outcome State Fault Refusal :=
  .next (match (s.cluster clus).brood.find? fun b => decide (b.openedAt + clocksOf 2 ≤ s.clock.toNat ∧ (s.context b.ctx).state = 1) with
    | none => s
    | some b => (s.modCluster clus fun c => { c with brood := c.brood.filter fun x => !decide (x.task = b.task) }).queueBrood b)

/-! ### Owners (spec/09 R235) -/

/-- Where a task that a helper may adopt stands. -/
inductive OwnerAt where
  | forming (clus : Nat) (b : Brood)
  | queued (item : Nat) (b : Brood)
  | suspended (key : Nat)
  | saved (image : Nat)
  deriving DecidableEq, Repr

/-- The header of the owner. -/
def State.ownerHdr (s : State) : OwnerAt → Option Header
  | .forming _ b => some b.hdr
  | .queued _ b => some b.hdr
  | .suspended k => ((s.ctxSlots.get? k).bind (·.wave)).map (·.hdr)
  | .saved k => (s.images.get? k).map (·.team.hdr)

/-- Where a task stands that is unstarted, or suspended and ready, in a context; no task of a context that is
being pre-empted is placed (spec/11 R279). DEDUCED, log entry 68. -/
def State.ownerAt? (s : State) (ctx task : Nat) : Option OwnerAt :=
  if (s.context ctx).state ≠ 1 then none
  else
  (s.clusters.findSome? fun e => (e.2.brood.find? fun b => decide (b.task = task ∧ b.ctx = ctx)).map fun b => OwnerAt.forming e.1 b)
  <|> (s.items.findSome? fun e => match e.2.kind with
    | .brood b => if b.task = task ∧ b.ctx = ctx then some (OwnerAt.queued e.1 b) else none
    | _ => none)
  <|> (s.ctxSlots.findSome? fun e => if e.2.ready && decide (e.2.ctx = ctx) && e.2.wave.any (fun w => decide (w.task = task)) then
      some (OwnerAt.suspended e.1) else none)
  <|> (s.images.findSome? fun e =>
      if decide (e.2.ctx = ctx ∧ e.2.kind ≠ 2 ∧ e.2.team.waves = 1 ∧ e.2.team.paired = false) &&
          e.2.waves.any (fun w => decide (w.task = task)) then some (OwnerAt.saved e.1) else none)

/-- The owner's claims allow its adoption in a cluster. -/
def State.claimsOk (s : State) (clus : Nat) : OwnerAt → Bool
  | .forming _ _ => true
  | .queued _ _ => true
  | .suspended k =>
    match s.ctxSlots.get? k with
    | some c => c.wave.all fun w => decide (c.clus = clus) || !(s.cluster c.clus).claimed w.team
    | none => false
  | .saved k =>
    match s.images.get? k with
    | some m => (m.tiles.all fun t => (s.cluster clus).tileFree t.1) && m.slots.all fun t => (s.cluster clus).slotFree t.1
    | none => false

/-! ### Images in memory (spec/11 R284, R285) -/

/-- The contents of saved waves, allocations and claims, in bytes; the states of all lines of a team are padded together. DEDUCED, log
entry 85. -/
def imageBytes (kind : Nat) (ws : List Wave) (runs lines tiles slots : Nat) : Nat :=
  let perWave (w : Wave) : Nat :=
    if kind = 1 then 64 + 576
    else 2048 + 128 * w.hdr.width + 4 * w.hdr.vregs * w.hdr.width + 384 + 64 + (if w.region.isSome then 576 else 0)
  64 + (ws.map perWave).sum + (128 * (runs * lines) + 16 * ((runs * lines + 7) / 8)) + 65536 * tiles + 32800 * slots

/-- The team header of an image, with its place in its part. DESIGN CHOICE, log entry 84. -/
def State.imageHeader (s : State) (m : Image) (dx dy : Nat) : List Byte :=
  leBytes 4 0x4D494354 ++ leBytes 4 m.size ++
    [BitVec.ofNat 8 m.kind, BitVec.ofNat 8 m.oldSlots.length, BitVec.ofNat 8 dx, BitVec.ofNat 8 dy, BitVec.ofNat 8 m.coreNo,
     if m.team.paired then 1 else 0] ++
    leBytes 2 (m.team.spadLines * m.spad.length) ++ leBytes 8 m.team.hdr.va ++
    leBytes 4 (((m.team.launch.bind s.launches.get?).map (·.id)).getD 0) ++ leBytes 4 m.team.number ++
    leBytes 2 (numMask (m.tiles.map (·.1))) ++ leBytes 6 0 ++ leBytes 8 (numMask (m.slots.map (·.1))) ++ leBytes 16 0

/-- The check of an image: it can be read without an uncorrectable error, its MAGIC and SIZE are those of the image, and every field of its
header is in its range (spec/11 R284, R285, spec/14 R360). DESIGN CHOICE, log entry 84. -/
def State.imageOk (s : State) (m : Image) : Bool :=
  let f := fieldOf (s.bytesAt m.address 64)
  s.accessOk m.ctx m.address m.size false && !s.marked m.address m.size &&
    decide (f 0 4 = 0x4D494354 ∧ f 4 4 = m.size ∧ f 8 1 ≤ 2 ∧ 1 ≤ f 9 1 ∧ f 9 1 ≤ 16 ∧ f 10 1 ≤ 7 ∧ f 11 1 ≤ 5 ∧ f 12 1 ≤ 3 ∧ f 13 1 ≤ 1 ∧
      f 14 2 ≤ 6144 ∧ f 0x22 6 = 0 ∧ f 0x30 16 = 0)

/-- An image as a restore reads it: the registers, lines and claims that its sections in memory hold. The read waits for a tile as any does
(spec/13 R331). DESIGN CHOICE, log entry 84. -/
def State.recallImage (s : State) (m : Image) : State × Image :=
  let r := s.readRange m.address m.size
  (r.1, m.read (r.2.drop 64))

/-- A task is restored from an image: one that fails its check resets the context (spec/11 R285). -/
def State.checkImage (s : State) (m : Image) : State := if s.imageOk m then s else s.spoilSlots m.ctx

/-! ### Context slots (spec/09 R237) -/

/-- Pages of a context slot for a helper. -/
def slotPages (h : Header) : Nat :=
  (64 + 2048 + 128 * h.width + 4 * h.vregs * h.width + 384 + 64 + 576 + 128 * h.spad + 16 * ((h.spad + 7) / 8) + 4095) / 4096

/-- The pages of a context's slot area that are in use. -/
def State.usedPages (s : State) (ctx : Nat) : List (Nat × Nat) :=
  (s.ctxSlots.filter fun e => decide (e.2.ctx = ctx)).map fun e => (e.2.page, e.2.pages)

/-- Room for two context slots of a size. -/
def State.twoSlots (s : State) (ctx n : Nat) : Option (Nat × Nat) :=
  let used := s.usedPages ctx
  let limit := (s.context ctx).cslotPages
  (firstFit used limit n).bind fun a => (firstFit ((a, n) :: used) limit n).map fun b => (a, b)

/-- The owner of an object may be adopted by the wave in a slot. DEDUCED, log entry 68. -/
def State.adoptable? (s : State) (slot : Nat) (w : Wave) (task : Nat) : Option OwnerAt :=
  match s.ownerAt? w.ctx task with
  | none => none
  | some o =>
    match s.ownerHdr o with
    | none => none
    | some h =>
      let spad := ((s.teams.get? w.team).map (·.spadLines)).getD 0
      if decide (h.vregs ≤ w.hdr.vregs ∧ h.spad ≤ spad ∧ h.width ≤ w.hdr.width ∧ w.adopt < 4) && s.claimsOk (clusOf (coreOf slot)) o &&
          (s.twoSlots w.ctx (slotPages w.hdr)).isSome then some o
      else none

/-! ### Restoring a wave elsewhere -/

/-- A place in a team's allocation moves with the allocation. -/
def movePlace (core base lines core1 base1 : Nat) (c off : Nat) : Nat × Nat :=
  if c = core ∧ base * 128 ≤ off ∧ off < (base + lines) * 128 then (core1, off - base * 128 + base1 * 128) else (c, off)

/-- A condition on a place, where what stands at a core and a byte moves (spec/11 R280). -/
def Park.moved (f : Nat → Nat → Nat × Nat) : Park → Park
  | .present ls r => .present (ls.map fun l => let p := f l.1 (l.2 * 128); (p.1, p.2 / 128)) r
  | .barwait c off ph => let p := f c off; .barwait p.1 p.2 ph
  | .ring c off ws r => let p := f c off; .ring p.1 p.2 (ws.map fun x => f x.1 x.2) r
  | p => p

/-- Every condition of a wave moved. -/
def Wave.movedParks (w : Wave) (f : Nat → Nat → Nat × Nat) : Wave :=
  { w with table := w.table.map fun e => { e with park := e.park.map (Park.moved f) } }

/-- A suspended wave resumes in a slot of a core: its conditions move with its allocation, and the core's L1 holds nothing older than what
it has seen (spec/10 R252). -/
def State.resumeWave (s : State) (slot : Nat) (w : Wave) (t : Team) (base : Nat) : State :=
  let core := coreOf slot
  let w1 := w.movedParks (movePlace t.core t.spadBase t.spadLines core base)
  ((s.setWave slot { w1 with nextIssue := s.now, eligAt := s.now, resort := true }).clearL1 core).acquireDue slot

/-- A restored wave: a `sleep` ends at once, and other conditions are tested (spec/11 R280, spec/08 R206, spec/06 R156, spec/09 R234). -/
def State.retest (s : State) (slot : Nat) : State :=
  match s.waves.get? slot with
  | none => s
  | some w =>
    let s1 := s.modWave slot fun w => w.releaseWhere s.now fun p => match p with
      | .sleep _ _ => true
      | _ => false
    let bars := w.table.filterMap fun e => match e.park with
      | some (.barwait c off _) => some (c, off)
      | _ => none
    let s2 := foldState (fun s (b : Nat × Nat) =>
      if s.isTyped b.1 b.2 then s.releaseBar b.1 b.2 (phaseTest (s.readBar b.1 b.2).phase) true else s) s1 bars
    let again := (w.table.filter fun e => match e.park with
      | some (.present _ _) => true
      | some (.object _ _) => true
      | some (.ring _ _ _ _) => true
      | _ => false).map fun e => (slot, e.lanes)
    { s2 with wakes := s2.wakes ++ again.filter fun x => !s2.wakes.contains x }

/-- No cache holds a translation of a context: what is restored walks afresh (spec/11 R287, R293). -/
def State.forgetPages (s : State) (ctx : Nat) : State :=
  { s with
    clusters := s.clusters.map fun e => (e.1, { e.2 with tlb := e.2.tlb.filter fun c => !decide (c.ctx = ctx) })
    dies := s.dies.map fun e => (e.1, { e.2 with mmu := e.2.mmu.filter fun c => !decide (c.ctx = ctx) }) }

/-- The tiles and slots of an image placed in a cluster for a team. -/
def Cluster.takeClaims (c : Cluster) (team : Nat) (tiles : List (Nat × Tile)) (slots : List (Nat × OSlot)) : Cluster :=
  { c with
    tiles := tiles.foldl (fun m t => Assoc.put m t.1 { t.2 with holder := some team, releasing := none }) c.tiles
    slots := slots.foldl (fun m t => Assoc.put m t.1 { t.2 with holder := some team, releasing := none }) c.slots }

/-- Items that name an owner leave the queues. -/
def State.unqueue (s : State) (p : ItemKind → Bool) : State := { s with items := s.items.filter fun e => !p e.2.kind }

/-- The owner's state placed in the helper's slot and in the first lines of its allocation (spec/09 R236 step 2). -/
def State.placeOwner (s : State) (slot base adopt : Nat) : OwnerAt → State
  | .forming clus b =>
    (s.modCluster clus fun c => { c with brood := c.brood.filter fun x => !decide (x.task = b.task) }).startBrood b slot base adopt
  | .queued item b => ({ s with items := s.items.del item } : State).startBrood b slot base adopt
  | .suspended key =>
    match s.ctxSlots.get? key with
    | none => s
    | some c =>
      match c.wave, c.team with
      | some w, some t =>
        let s1 := ({ s.checkSlot c with ctxSlots := s.ctxSlots.del key } : State).unqueue fun k => decide (k = .owner key)
        let s2 := (s1.setTeam w.team { t with core := coreOf slot, spadBase := base, slots := [slot] }).resumeWave slot { w with adopt := adopt } t base
        s2.loadRun (coreOf slot) base t.spadLines c.spad
      | _, _ => s
  | .saved key =>
    match (s.images.get? key).map fun m => s.recallImage m with
    | none => s
    | some (u, m) =>
      match m.waves with
      | [] => s
      | w :: _ =>
        let s1 := ({ u.checkImage m with images := s.images.del key } : State).unqueue fun k => decide (k = .saved key)
        let team := w.team
        let s2 := (s1.modCluster (clusOf (coreOf slot)) fun c => c.takeClaims team m.tiles m.slots).setTeam team
          { m.team with core := coreOf slot, spadBase := base, slots := [slot], saving := false, discarding := false }
        let s3 := (s2.resumeWave slot { w with adopt := adopt } m.team base).loadRun (coreOf slot) base m.team.spadLines
          (m.spad.headD { data := [], absent := [], poison := [], typed := [] })
        let s4 := s3.forgetPages m.ctx
        if m.kind = 1 then s4.restartWave slot else s4.retest slot

/-! ### Adoption (spec/09 R236) -/

/-- The helper as its context slot keeps it: the entry of the word in issue stands at its group again, to be executed when the helper
is restored. -/
def Wave.blockedAt (w : Wave) (i : Issue) : Wave :=
  { w with
    table := w.table.map fun e => if e.lanes = i.lanes then { pc := i.first, lanes := e.lanes, park := none } else e
    held := Hints.empty
    first := none }

/-- The wave in issue adopts the owner of the object that it waits on; an item that leaves the queues for it ends its reservation, and the
scheduler decides again (spec/12 R307). -/
def State.adopt (s : State) (w : Wave) (o : OwnerAt) (await : Park) : State :=
  let i := s.issue
  let slot := i.slot
  match s.teams.get? w.team, s.twoSlots w.ctx (slotPages w.hdr), s.ownerHdr o, s.waves.get? slot with
  | some t, some pg, some h, some x =>
    let core := coreOf slot
    let pages := slotPages w.hdr
    let k := s.nextNum
    let c : CtxSlot :=
      { ctx := w.ctx, page := pg.1, pages := pages, use := .helper, wave := some (x.blockedAt i), team := none,
        spad := s.saveRun core t.spadBase h.spad, lines := h.spad, await := some await, blocked := i.lanes,
        slot := slot, partner := k + 1, clus := clusOf core, saved := [] }
    let s1 : State :=
      { s with
        nextNum := k + 2
        ctxSlots := (s.ctxSlots.put k c).put (k + 1)
          { c with page := pg.2, use := .room, wave := none, spad := { data := [], absent := [], poison := [], typed := [] }, await := none,
                   partner := k } }
    let s2 := (s1.writeSlot k c).placeOwner slot t.spadBase (w.adopt + 1) o
    ((s2.retryOwned (s2.arrived s)).suspendOwner slot).reschedule
  | _, _, _, _ => s

/-- The helping decision: the wave adopts the owner where it can, and parks otherwise (spec/09 R235). -/
def helpOrPark (t : State) (w : Wave) (owner : Option Nat) (park : Park) (parked : State) : Did :=
  match owner.bind (t.adoptable? t.issue.slot w) with
  | some o => .left (t.adopt w o park)
  | none => .park parked park

end Sys2Proof.Machine
end

