-- ==== Sys2Proof/Machine/Access.lean ====
section
/-! DEFINITION. The accesses of the lanes of one instruction: their addresses, the checks of spec/06 R150, and what is read and
written (spec/06 R147 to R157, R160 to R163). -/

namespace Sys2Proof.Machine

/-! ### Addresses (spec/06 R147) -/

/-- The v-offset of a lane; the field 0x7F stands for 0. -/
def Issue.voffset (i : Issue) (voff : BitVec 7) (l : Nat) : Word := if voff = 0x7F then 0 else i.src.lane voff.toNat l

/-- The address of a lane in the global spaces. -/
def Issue.globalVa (i : Issue) (base : BitVec 5) (voff : BitVec 7) (l : Nat) : Nat :=
  (i.src.pair (2 * base.toNat) + (i.voffset voff l).setWidth 64 + i.held.literal.signExtend 64).toNat

/-- The address of a lane in the scratchpad space. -/
def Issue.spadVa (i : Issue) (base : BitVec 5) (voff : BitVec 7) (l : Nat) : Nat :=
  (i.src.scalar (2 * base.toNat) + i.voffset voff l + i.held.literal).toNat

/-! ### Checks -/

/-- A lane's access that passed its checks: a global one at a physical address, under a leaf entry. -/
structure Acc where
  lane : Nat
  va : Nat
  pa : Nat
  pte : DWord
  deriving DecidableEq, Repr

/-- A lane's access to a scratchpad: the core and the byte offset there. -/
structure SpadAcc where
  lane : Nat
  core : Nat
  off : Nat
  deriving DecidableEq, Repr

/-- Steps 2 to 4 of spec/06 R150 for lanes with their addresses, in ascending order. -/
def State.checkLanes (s : State) (slot : Nat) (w : Wave) (n align space : Nat) (want : Want) : List (Nat × Nat) → State × List Raise × List Acc
  | [] => (s, [], [])
  | (l, va) :: t =>
    let clus := clusOf (coreOf slot)
    let r := s.check w.ctx (dieOf clus) (some clus) va n align want
    let rest := State.checkLanes r.1 slot w n align space want t
    match r.2 with
    | .error e => (rest.1, { lane := l, cause := e.1, info := e.2, write := want.wr, space := space } :: rest.2.1, rest.2.2)
    | .ok (pa, pte) => (rest.1, rest.2.1, { lane := l, va := va, pa := pa, pte := pte } :: rest.2.2)

/-- Step 5 for the lanes that passed steps 2 to 4, in ascending order (spec/10 R267). DEDUCED, log entry 27. -/
def State.raceLanes (s : State) (slot : Nat) (store : Bool) : List Acc → State × List Raise
  | [] => (s, [])
  | a :: t =>
    let r := s.race slot a.lane a.va a.pa a.pte store
    let rest := State.raceLanes r.1 slot store t
    (rest.1, if r.2 then { lane := a.lane, cause := cRace, info := 0, write := store, space := 0 } :: rest.2 else rest.2)

/-- A global access of the lanes of an instruction: steps 2 to 5, and what is done where no lane traps. `race` names the kind of a
checked access, and is none for an access that the race detector passes over. DEDUCED, log entry 27. -/
def globalAccess (t : State) (w : Wave) (n align space : Nat) (want : Want) (race : Option Bool) (addr : List (Nat × Nat))
    (body : State → List Acc → Did) : Did :=
  let slot := t.issue.slot
  let c := t.checkLanes slot w n align space want addr
  let r := match race with
    | none => (c.1, [])
    | some store => c.1.raceLanes slot store c.2.2
  Did.orTrap c.1 (c.2.1 ++ r.2) (body r.1 c.2.2)

/-- A scratchpad access of the lanes of an instruction: steps 2 to 4, the presence park, and step 6 (spec/06 R150, R156). -/
def spadAccess (t : State) (w : Wave) (instr : Instr) (n : Nat) (wr : Bool) (addr : List (Nat × Nat)) (body : List SpadAcc → Did) : Did :=
  let i := t.issue
  let core := coreOf i.slot
  let raise (l cause info : Nat) : Raise := { lane := l, cause := cause, info := info, write := wr, space := 1 }
  let place (a : Nat) : Option (Nat × Nat) := (t.teams.get? w.team).bind fun x => t.spadPlace x core a
  let bad := addr.filterMap fun x =>
    if x.2 % n ≠ 0 then some (raise x.1 cMisaligned 0)
    else match place x.2 with
      | none => some (raise x.1 cPermission 4)
      | some _ => none
  let accs : List SpadAcc := addr.filterMap fun x => (place x.2).map fun p => { lane := x.1, core := p.1, off := p.2 }
  let lines := (accs.map fun a => (a.core, a.off / 128)).eraseDups
  Did.orTrap t bad (
    if lines.any fun l => t.lineAbsent l.1 l.2 then
      .park t (.present lines { instr := instr, held := i.held, first := i.first, src := i.src })
    else
      let poisoned := accs.filter fun a => t.linePoisoned a.core (a.off / 128)
      let typed := accs.filter fun a => wr && t.typedIn a.core a.off n && !t.linePoisoned a.core (a.off / 128)
      Did.orTrap t ((poisoned.map fun a => raise a.lane cPoison 0) ++ (typed.map fun a => raise a.lane cClobber 0)) (body accs))

/-- The POISON of lanes whose global bytes are marked (step 6, spec/13 R328). -/
def State.markedLanes (s : State) (n space : Nat) (wr : Bool) (as : List Acc) : List Raise :=
  (as.filter fun a => s.marked a.pa n).map fun a => { lane := a.lane, cause := cPoison, info := 1, write := wr, space := space }

/-- A lane waits for an earlier remote store or `signal` of its wave to the same bytes, and for the earlier requests to a peer's comb
(spec/10 R252, spec/14 R347). -/
def State.afterRemote (s : State) (w : Wave) (n : Nat) (as : List Acc) : State :=
  if as.any fun a => s.remoteBusy w a.pa n then s.stallOn .remote else s

/-! ### Reads -/

/-- The lanes that a peer refused raise POISON with INFO 1 (spec/14 R349). DESIGN CHOICE, log entry 12. -/
def refusedLanes (ls : List Nat) (wr : Bool) : List Raise :=
  ls.map fun l => { lane := l, cause := cPoison, info := 1, write := wr, space := 0 }

/-- Bytes at an address, each as it was read before in the same operation. -/
def seenFirst (seen : Assoc (Option Byte)) (pa : Nat) : List Byte → List Byte
  | [] => []
  | b :: t => (seen.getD pa (some b)).getD b :: seenFirst seen (pa + 1) t

/-- Bytes at an address added to those that an operation has read or written. -/
def seeAll (seen : Assoc (Option Byte)) (cs : List Host.Cell) : Assoc (Option Byte) :=
  cs.foldl (fun m c => m.put c.1 (some c.2)) seen

/-- The bytes of each lane, or the lanes that a peer refuses, in ascending order: lanes that name one byte get one value (spec/06 R151, R152,
spec/13 R319, spec/14 R349). -/
def State.readLanesFrom (s : State) (seen : Assoc (Option Byte)) (core : Nat) (w : Wave) (n : Nat) (bypass : Bool) :
    List Acc → State × List Nat × List (Nat × List Byte)
  | [] => (s, [], [])
  | a :: t =>
    let r := if inRemote a.pa then s.askAgain seen (dieOf (clusOf core)) a.pa n
      else
        let x := s.readGlobal core w.task a.pa n bypass (pteMside a.pte)
        let bs := x.2.map (seenFirst seen a.pa)
        (x.1, seeAll seen (cellsAt a.pa (bs.getD [])), bs)
    let rest := State.readLanesFrom r.1 r.2.1 core w n bypass t
    match r.2.2 with
    | none => (rest.1, a.lane :: rest.2.1, rest.2.2)
    | some bs => (rest.1, rest.2.1, (a.lane, bs) :: rest.2.2)

/-- The bytes of each lane of one instruction. -/
def State.readLanes (s : State) (core : Nat) (w : Wave) (n : Nat) (bypass : Bool) (as : List Acc) : State × List Nat × List (Nat × List Byte) :=
  s.readLanesFrom [] core w n bypass as

/-- The bytes of each lane for a column load: on the package they are read at the ordering point, in one column read for each column
of each comb (spec/06 R157, spec/13 R324). DEDUCED, log entry 23. -/
def State.readColumns (s : State) (core : Nat) (w : Wave) (n : Nat) (as : List Acc) : State × List Nat × List (Nat × List Byte) :=
  let near := as.filter fun a => !inRemote a.pa
  let cols := (near.map fun a => (a.pa / 1024, a.pa % 32 / n)).eraseDups
  let s1 := foldState (fun s c => s.combRead (c.1 * 1024) (some n)) s cols
  let s2 := foldState (fun s a => ((s.readTask w.task a.pa n).1).dropRows core a.pa n) s1 near
  let far := s2.readLanes core w n true (as.filter fun a => inRemote a.pa)
  (far.1, far.2.1, far.2.2 ++ near.map fun a => (a.lane, (s.readTask w.task a.pa n).2))

/-- The registers that a load of a width writes, from its bytes (spec/06 R148). -/
def Width.load (k : Width) (bs : List Byte) : List Word :=
  match k with
  | .i8 => [((BitVec.ofNat 8 (leNat bs)).signExtend 32)]
  | .i16 => [((BitVec.ofNat 16 (leNat bs)).signExtend 32)]
  | _ => (List.range (Width.count k)).map fun j => BitVec.ofNat 32 (leNat bs / 2 ^ (32 * j))

/-- The bytes that a store of a width writes, from consecutive registers (spec/06 R148). -/
def storeBytes (n : Nat) (vals : List Word) : List Byte := (vals.flatMap fun v => leBytes 4 v.toNat).take n

/-- The results of lanes written to consecutive v-registers from vd: all of the first register's lanes, then the next's. -/
def State.putLanes (s : State) (vd count : Nat) (res : List (Nat × List Word)) : State :=
  foldState (fun s k => s.putNow (.vec (vd + k) (res.map fun x => (x.1, x.2.getD k 0)))) s (List.range count)

/-! ### Writes -/

/-- A store of lanes performed, in ascending order: a persistent or remote store is a commit point; persistent bytes form one group,
remote ones are sent, and the others are held in the version (spec/06 R152, R153, R168, spec/10 R262). DEDUCED, log entry 15. -/
def State.storeLanes (s : State) (w : Wave) (as : List (Acc × List Byte)) : State :=
  let slot := s.issue.slot
  let core := coreOf slot
  let persist := as.filter fun a => ptePersist a.1.pte && !inRemote a.1.pa
  let remote := as.filter fun a => inRemote a.1.pa
  let others := as.filter fun a => !ptePersist a.1.pte && !inRemote a.1.pa
  let s1 := if persist = [] ∧ remote = [] then s else s.commit slot
  let s2 := if remote = [] then s1 else s1.ordered slot
  let s3 := foldState (fun s a => s.postRemote w slot a.1.pa a.2) s2 remote
  let s4 := foldState (fun s a => s.dropRows core a.1.pa a.2.length) s3 persist
  let s5 := s4.post w slot (persist.flatMap fun a => cellsAt a.1.pa a.2)
  foldState (fun s a => s.hold slot a.1.pa a.2) s5 others

end Sys2Proof.Machine
end

