-- ==== Sys2Proof/Machine/Atomics.lean ====
section
/-! DEFINITION. Atomics: majors 0x13 and the atomic minors of 0x14 (spec/06 R160 to R165). -/

namespace Sys2Proof.Machine

/-! ### New values (spec/06 R160) -/

/-- The signed value of n bytes. -/
def signedOf (n v : Nat) : Int := if v < 2 ^ (8 * n - 1) then v else (v : Int) - 2 ^ (8 * n)

/-- An FP32 operation with RNE, whose flags are dropped. -/
def atomFloat (o : FOp) (x y : Nat) : Nat := (FFmt.fp32.apply o Hints.empty .rne 0 x y 0).1

/-- The new value of an atomic on n bytes, from the old value and the operand. -/
def AtomOp.new (op : AtomOp) (n o v : Nat) : Nat :=
  match op with
  | .add => (o + v) % 2 ^ (8 * n)
  | .fadd => atomFloat .add o v
  | .min => if signedOf n v < signedOf n o then v else o
  | .max => if signedOf n o < signedOf n v then v else o
  | .fmin => atomFloat .min o v
  | .fmax => atomFloat .max o v
  | .and => Nat.land o v
  | .or => Nat.lor o v
  | .xor => Nat.xor o v
  | .exch => v
  | .incw => if v ≤ o then 0 else o + 1
  | .minu => min o v
  | .maxu => max o v

/-- What one atomic does: the value that it writes, if it writes, from the old value and the lane's registers. -/
abbrev AtomFun := Nat → List Word → Option Nat

/-- The value of registers from the j-th, n bytes. -/
def wordsAt (n j : Nat) (rs : List Word) : Nat := leNat (storeBytes n (rs.drop j))

/-- An operation of the table. -/
def atomFun (op : AtomOp) (n : Nat) : AtomFun := fun o rs => some (AtomOp.new op n o (wordsAt n 0 rs))

/-- Compare and swap (spec/06 R162). -/
def casFun (n : Nat) : AtomFun := fun o rs => if o = wordsAt n 0 rs then some (wordsAt n (n / 4) rs) else none

/-! ### The lanes of one atomic -/

/-- A step of the fold over lanes: what the lanes before have written, what they have read and left at peers, and each lane's old value. -/
structure AtomAcc where
  state : State
  far : Assoc (Option Byte)
  writes : Assoc Byte
  persist : List Host.Cell
  plain : List Host.Cell
  old : List (Nat × Nat)
  refused : List Nat

/-- One lane of a global atomic, over the writes of the lanes before it and the task's persistent stores that have not entered their queue
(spec/06 R152). A remote one is answered by its peer, and sees what an earlier lane left there (R160). -/
def AtomAcc.lane (core task n : Nat) (f : AtomFun) (a : AtomAcc) (x : Acc × List Word) : AtomAcc :=
  if inRemote x.1.pa then
    let r := a.state.readRemote a.far x.1.pa n
    match r.2.2 with
    | none => { a with state := r.1, far := r.2.1, refused := a.refused ++ [x.1.lane] }
    | some bs =>
      let left := match f (leNat bs) x.2 with
        | some v => cellsAt x.1.pa (leBytes n v)
        | none => []
      { a with state := r.1, far := seeAll r.2.1 left, old := a.old ++ [(x.1.lane, leNat bs)] }
  else
    let r := a.state.readPoint x.1.pa n
    let s1 := if pteMside x.1.pte then r.1 else (r.1.dropRows core x.1.pa n).combRead x.1.pa none
    let o := leNat (overlay a.writes x.1.pa (overlay (a.state.waiting task) x.1.pa r.2))
    let cells := match f o x.2 with
      | some v => cellsAt x.1.pa (leBytes n v)
      | none => []
    { a with
      state := s1
      writes := cells.foldl (fun m c => m.put c.1 c.2) a.writes
      persist := if ptePersist x.1.pte then a.persist ++ cells else a.persist
      plain := if ptePersist x.1.pte then a.plain else a.plain ++ cells
      old := a.old ++ [(x.1.lane, o)] }

/-- The lanes of a global atomic in ascending order, after the commit that it is (spec/06 R160, R163, R164). DEDUCED, log entries 15, 41. -/
def State.atomLanes (s : State) (w : Wave) (n : Nat) (f : AtomFun) (as : List (Acc × List Word)) : AtomAcc :=
  let slot := s.issue.slot
  let c := (s.commit slot).ordered slot
  let r := as.foldl (AtomAcc.lane (coreOf slot) w.task n f) { state := c, far := [], writes := [], persist := [], plain := [], old := [], refused := [] }
  { r with state := (if r.plain = [] then r.state else r.state.store r.plain).enterNow w slot r.persist }

/-- What follows a global atomic: the acquire that its ordering asks for (spec/06 R163). -/
def State.atomAcquire (s : State) (ord scope : Nat) : State :=
  if ord = 1 ∨ ord = 3 then s.acquire s.issue.slot scope else s

/-- A release that an ordering asks for, then what follows it. -/
def orderedRelease (t : State) (w : Wave) (ord scope : Nat) (k : State → Did) : Did :=
  if 2 ≤ ord then releasing t w scope k else k t

/-- Bytes that a handler writes while the task has a capsule step open: its own later loads see them over the buffered ones (spec/06 R152,
spec/09 R245). -/
def State.noteOwn (s : State) (w : Wave) (bytes : List Host.Cell) : State :=
  if w.stepBuf = [] ∨ bytes = [] then s
  else s.wave fun x => { x with stepBuf := x.stepBuf ++ bytes.map fun b => { num := 0, pa := b.1, persist := false, own := true, data := [b.2] } }

/-- A global atomic of some lanes: the checks, the release, the operations and the acquire; with no active lane nothing changes (spec/03
R68). -/
def globalAtomic (t : State) (w : Wave) (n : Nat) (f : AtomFun) (addr : List (Nat × Nat)) (operand : Nat → List Word)
    (write : State → List (Nat × Nat) → State) : Did :=
  let i := t.issue
  let ord := i.held.ord
  let scope := i.held.scopeOr
  if addr = [] then .done t
  else
    globalAccess t w n n 0 { rd := true, wr := true } none addr fun u as =>
      Did.orTrap u (u.markedLanes n 0 true as) (
        orderedRelease (u.afterRemote w n as) w ord scope fun c =>
          let r := c.atomLanes w n f (as.map fun a => (a, operand a.lane))
          Did.orTrap (foldState (fun s _ => s.peerFailure u.hereDie) { u with free := r.state.free } r.refused) (refusedLanes r.refused true)
            (.done (((write r.state r.old).noteOwn w r.writes).atomAcquire ord scope)))

/-- A scratchpad atomic of some lanes; a scope wider than cluster acts as cluster, and a release at team scope or wider commits
(spec/06 R163); with no active lane nothing changes (spec/03 R68). -/
def spadAtomic (t : State) (w : Wave) (instr : Instr) (n : Nat) (f : AtomFun) (addr : List (Nat × Nat)) (operand : Nat → List Word)
    (write : State → List (Nat × Nat) → State) : Did :=
  let i := t.issue
  let ord := i.held.ord
  let scope := min i.held.scopeOr 2
  if addr = [] then .done t
  else
    spadAccess t w instr n true addr fun as =>
      orderedRelease t w ord scope fun c =>
        let r := as.foldl (fun (a : State × List (Nat × Nat)) x =>
          let o := a.1.spadValue x.core x.off n
          (match f o (operand x.lane) with
           | some v => a.1.spadStore x.core x.off (leBytes n v)
           | none => a.1,
           a.2 ++ [(x.lane, o)])) (c, [])
        .done ((write r.1 r.2).atomAcquire ord scope)

/-- The old values of lanes as registers. -/
def oldWords (n : Nat) (old : List (Nat × Nat)) : List (Nat × List Word) :=
  old.map fun x => (x.1, (List.range (n / 4)).map fun j => BitVec.ofNat 32 (x.2 / 2 ^ (32 * j)))

/-- The old values written to v-registers. -/
def putOld (vd : VReg) (n : Nat) (s : State) (old : List (Nat × Nat)) : State :=
  if old = [] then s else s.putLanes vd.toNat (n / 4) (oldWords n old)

/-- Bytes of an atomic (spec/03 R79). -/
def Issue.atomBytes (i : Issue) : Nat := if i.held.w64 then 8 else 4

/-- A vector atomic on global memory. -/
def vatomGlobal (q : Sched) (instr : Instr) (vd : VReg) (voff : BitVec 7) (base : BitVec 5) (cas : Bool) (f : Nat → AtomFun) (s : State) :
    Host.Outcome State Fault Refusal :=
  issueWord q instr s fun t w =>
    let i := t.issue
    let n := i.atomBytes
    globalAtomic t w n (f n) (i.activeLanes.map fun l => (l, i.globalVa base voff l))
      (fun l => (run vd.toNat (atomCount i.held cas)).map fun r => i.src.lane r l) (putOld vd n)

/-- A vector atomic on a scratchpad. -/
def vatomSpad (q : Sched) (instr : Instr) (vd : VReg) (voff : BitVec 7) (base : BitVec 5) (cas : Bool) (f : Nat → AtomFun) (s : State) :
    Host.Outcome State Fault Refusal :=
  issueWord q instr s fun t w =>
    let i := t.issue
    let n := i.atomBytes
    spadAtomic t w instr n (f n) (i.activeLanes.map fun l => (l, i.spadVa base voff l))
      (fun l => (run vd.toNat (atomCount i.held cas)).map fun r => i.src.lane r l) (putOld vd n)

/-- `vatom.op` (spec/06 R160). -/
def execVatom (q : Sched) (op : AtomOp) (vd : VReg) (voff : BitVec 7) (base : BitVec 5) (s : State) : Host.Outcome State Fault Refusal :=
  vatomGlobal q (.vatom q op vd voff base) vd voff base false (atomFun op) s

/-- `vatoms.op` (spec/06 R160). -/
def execVatoms (q : Sched) (op : AtomOp) (vd : VReg) (voff : BitVec 7) (base : BitVec 5) (s : State) : Host.Outcome State Fault Refusal :=
  vatomSpad q (.vatoms q op vd voff base) vd voff base false (atomFun op) s

/-- `vcas` (spec/06 R162). -/
def execVcas (q : Sched) (vd : VReg) (voff : BitVec 7) (base : BitVec 5) (s : State) : Host.Outcome State Fault Refusal :=
  vatomGlobal q (.vcas q vd voff base) vd voff base true casFun s

/-- `vatoms.cas` (spec/06 R162). -/
def execVatomsCas (q : Sched) (vd : VReg) (voff : BitVec 7) (base : BitVec 5) (s : State) : Host.Outcome State Fault Refusal :=
  vatomSpad q (.vatomsCas q vd voff base) vd voff base true casFun s

/-! ### Scalar atomics (spec/06 R161, R162) -/

/-- The old value written to scalar registers. -/
def putOldScalar (sd : SReg) (n : Nat) (s : State) (old : List (Nat × Nat)) : State :=
  match old with
  | [] => s
  | x :: _ => if n = 8 then s.putPair sd.toNat (BitVec.ofNat 64 x.2) else s.putNow (.sca sd.toNat (BitVec.ofNat 32 x.2))

/-- A scalar atomic of the Leader. -/
def scalarAtomic (q : Sched) (instr : Instr) (sd : SReg) (base : BitVec 5) (w64 : Bool) (cas : Bool) (f : Nat → AtomFun) (s : State) :
    Host.Outcome State Fault Refusal :=
  issueWord q instr s fun t w =>
    let i := t.issue
    let n := if w64 then 8 else 4
    globalAtomic t w n (f n) [(i.leader, (i.src.pair (2 * base.toNat)).toNat)]
      (fun _ => (run sd.toNat ((if w64 then 2 else 1) * (if cas then 2 else 1))).map i.src.scalar) (putOldScalar sd n)

/-- `satom.op` (spec/06 R161). -/
def execSatom (q : Sched) (sd : SReg) (base : BitVec 5) (w64 : Bool) (op : AtomOp) (s : State) : Host.Outcome State Fault Refusal :=
  scalarAtomic q (.satom q sd base w64 op) sd base w64 false (atomFun op) s

/-- `scas` (spec/06 R162). -/
def execScas (q : Sched) (sd : SReg) (base : BitVec 5) (w64 : Bool) (s : State) : Host.Outcome State Fault Refusal :=
  scalarAtomic q (.scas q sd base w64) sd base w64 true casFun s

/-! ### The block-float add (spec/06 R165, spec/02 R60, R61) -/

/-- The signed value of a number of bits. -/
def signedBits (bits v : Nat) : Int := if v < 2 ^ (bits - 1) then v else (v : Int) - 2 ^ bits

/-- A value of some bits in two's complement. -/
def natBits (bits : Nat) (v : Int) : Nat := (v % 2 ^ bits).toNat

/-- The object at a 64-byte block. -/
def readBlock (bs : List Byte) : BlockFloat :=
  { e := signedBits 16 (leNat (bs.take 2)), flags := BitVec.ofNat 3 (leNat (bs.drop 2)),
    m := (List.range 7).map fun k => signedBits 64 (leNat ((bs.drop (8 * k + 8)).take 8)) }

/-- The bytes of an object. -/
def BlockFloat.bytes (b : BlockFloat) : List Byte :=
  leBytes 2 (natBits 16 b.e) ++ leBytes 6 b.flags.toNat ++ b.m.flatMap fun m => leBytes 8 (natBits 64 m)

/-- A lane of a `bfadd`: its object's block, the element that it names and its addend. -/
structure BfLane where
  lane : Nat
  block : Nat
  elem : Nat
  addend : Word
  deriving DecidableEq, Repr

/-- The lanes of the first operation on one block: for each element the lowest lane that names it. -/
def firstLanes : List Nat → List BfLane → List BfLane
  | _, [] => []
  | seen, x :: t => if seen.contains x.elem then firstLanes seen t else x :: firstLanes (x.elem :: seen) t

/-- The operations on one block, one after the other; each lane gets its status word. -/
def bfRounds (b : BlockFloat) : Nat → List BfLane → BlockFloat × List (Nat × Word)
  | 0, _ => (b, [])
  | fuel + 1, ls =>
    if ls = [] then (b, [])
    else
      let now := firstLanes [] ls
      let b1 := b.add ((List.range 7).map fun k => (now.find? fun x => decide (x.elem = k)).map fun x => FFmt.fp32.decode x.addend.toNat)
      let status := (if b.e < b1.e then 2 ^ 19 else 0) + b1.flags.toNat * 2 ^ 16 + natBits 16 b1.e
      let rest := bfRounds b1 fuel (ls.filter fun x => !now.contains x)
      (rest.1, (now.map fun x => (x.lane, BitVec.ofNat 32 status)) ++ rest.2)

/-- The operations of one instruction on the blocks of a list. -/
def State.bfBlocks (s : State) (ls : List BfLane) : List Nat → State × List (Nat × Word)
  | [] => (s, [])
  | blk :: t =>
    let r := bfRounds (readBlock (s.bytesAt (blk * 64) 64)) 64 (ls.filter fun x => decide (x.block = blk))
    let rest := State.bfBlocks (s.storeAt (blk * 64) r.1.bytes) ls t
    (rest.1, r.2 ++ rest.2)

/-- The raise of a lane whose address names no mantissa. -/
def bfAligned (va : Nat) : Bool := decide (va % 8 = 0 ∧ 8 ≤ va % 64)

/-- `bfadd`; with no active lane nothing changes (spec/06 R165, spec/03 R68). -/
def execBfadd (q : Sched) (vd : VReg) (voff : BitVec 7) (base : BitVec 5) (s : State) : Host.Outcome State Fault Refusal :=
  issueWord q (.bfadd q vd voff base) s fun t w =>
    let i := t.issue
    let ord := i.held.ord
    let scope := i.held.scopeOr
    let addr := i.activeLanes.map fun l => (l, i.globalVa base voff l)
    let bad : List Raise := (addr.filter fun x => !bfAligned x.2).map fun x =>
      { lane := x.1, cause := cMisaligned, info := 0, write := true, space := 0 }
    let c := t.checkLanes i.slot w 8 8 0 { rd := true, wr := true, mside := true } (addr.filter fun x => bfAligned x.2)
    let block (a : Acc) : Nat := a.pa / 64
    let marked : List Raise := (c.2.2.filter fun a => c.1.marked (block a * 64) 64).map fun a =>
      { lane := a.lane, cause := cPoison, info := 1, write := true, space := 0 }
    if addr = [] then .done t
    else
      Did.orTrap c.1 (bad ++ c.2.1) (Did.orTrap c.1 marked (
        orderedRelease c.1 w ord scope fun u =>
          let ls : List BfLane := c.2.2.map fun a =>
            { lane := a.lane, block := block a, elem := a.pa % 64 / 8 - 1, addend := i.src.lane vd.toNat a.lane }
          let r := State.bfBlocks ((u.commit i.slot).ordered i.slot) ls (ls.map (·.block)).eraseDups
          .done ((r.1.putNow (.vec vd.toNat r.2)).atomAcquire ord scope)))

end Sys2Proof.Machine
end

