-- ==== Sys2Proof/Machine/Control.lean ====
section
/-! DEFINITION. The control instructions: majors 0x0E and 0x0F (spec/04 R102 to R115, spec/11 R275). -/

namespace Sys2Proof.Machine

/-! ### Branches and jumps (spec/04 R102 to R104) -/

/-- A word offset from the PC of the word in issue. DEDUCED, log entry 106. -/
def Issue.target {n : Nat} (i : Issue) (off : BitVec n) : DWord := i.pc + 4 * off.signExtend 64

/-- Lanes by the PC that they go to, one group for each distinct PC. -/
def groupByPc : List (Nat × DWord) → List (DWord × DWord)
  | [] => []
  | (l, pc) :: t =>
    let rest := groupByPc t
    if rest.any fun g => decide (g.1 = pc) then rest.map fun g => if g.1 = pc then (pc, g.2 ||| maskOf [l]) else g
    else (pc, maskOf [l]) :: rest

/-- The lanes of a bundle that take a branch (spec/04 R102). -/
def Issue.taken (i : Issue) (inv : Bool) (cond : BitVec 4) : DWord :=
  let yes := if cond = 0 then i.lanes
    else if cond.toNat ≤ 12 then i.lanes &&& i.src.mask (cond.toNat - 1)
    else if i.src.sc then i.lanes else 0
  if inv then i.lanes &&& ~~~yes else yes

/-- The side that a branch hint makes head (spec/01 R21). -/
def frontOf (hint : BrHint) (target next : DWord) : Option DWord :=
  match hint with
  | .likely => some target
  | .unlikely => some next
  | .none | .uniform => none

/-- `br` (spec/04 R102). -/
def execBr (q : Sched) (hint : BrHint) (inv : Bool) (cond : BitVec 4) (off : BitVec 17) (s : State) : Host.Outcome State Fault Refusal :=
  issueWord q (.br q hint inv cond off) s fun t _ =>
    let i := t.issue
    let yes := i.taken inv cond
    let no := i.lanes &&& ~~~yes
    let target := i.target off
    if hint = .uniform ∧ yes ≠ 0 ∧ no ≠ 0 then i.raiseAll t (.br q hint inv cond off) cDivergent 0
    else if no = 0 then .goto t [(target, i.lanes)] none
    else if yes = 0 then .done t
    else if target = i.pc + 4 then .done t
    else .goto t [(target, yes), (i.pc + 4, no)] (frontOf hint target (i.pc + 4))

/-- `jmp` (spec/04 R103). -/
def execJmp (q : Sched) (off : BitVec 19) (s : State) : Host.Outcome State Fault Refusal :=
  issueWord q (.jmp q off) s fun t _ => .goto t [(t.issue.target off, t.issue.lanes)] none

/-- `brx va`: each lane to PC + 4 × va, one entry for each distinct target (spec/04 R103). -/
def execBrx (q : Sched) (va : VReg) (s : State) : Host.Outcome State Fault Refusal :=
  issueWord q (.brx q va) s fun t _ =>
    let i := t.issue
    .goto t (groupByPc ((lanesOf i.lanes).map fun l => (l, i.target (i.src.lane va.toNat l)))) none

/-- The return stack of a lane, top first. -/
def Wave.stack (w : Wave) (l : Nat) : List DWord := w.rstack.getD l []

/-- Raises of some lanes of the bundle. -/
def lanesRaise (ls : List Nat) (cause info : Nat) : List Raise :=
  ls.map fun l => { lane := l, cause := cause, info := info, write := false, space := 0 }

/-- PC + 4 pushed on the return stack of each lane. -/
def Wave.pushAll (w : Wave) (pc : DWord) (ls : List Nat) : Wave :=
  { w with rstack := ls.foldl (fun r l => r.put l (pc :: w.stack l)) w.rstack }

/-- A transfer as `call` makes it, to a target (spec/04 R104). -/
def callTo (t : State) (w : Wave) (target : DWord) : Did :=
  let i := t.issue
  let full := (lanesOf i.lanes).filter fun l => decide (16 ≤ (w.stack l).length)
  Did.orTrap t (lanesRaise full cNest 1)
    (.goto (t.wave fun x => x.pushAll (i.pc + 4) (lanesOf i.lanes)) [(target, i.lanes)] none)

/-- `call` (spec/04 R104). -/
def execCall (q : Sched) (off : BitVec 19) (s : State) : Host.Outcome State Fault Refusal :=
  issueWord q (.call q off) s fun t w => callTo t w (t.issue.target off)

/-- `ret`: each lane to the top of its stack (spec/04 R104). -/
def execRet (q : Sched) (s : State) : Host.Outcome State Fault Refusal :=
  issueWord q (.ret q) s fun t w =>
    let ls := lanesOf t.issue.lanes
    let empty := ls.filter fun l => decide (w.stack l = [])
    Did.orTrap t (lanesRaise empty cIllegalReturn 1)
      (.goto (t.wave fun x => { x with rstack := ls.foldl (fun r l => r.put l (w.stack l).tail) w.rstack })
        (groupByPc (ls.map fun l => (l, (w.stack l).headD 0))) none)

/-! ### Reconvergence and exit (spec/04 R106, R107) -/

/-- A write of a mask by `join` or `leave`: the bundle's bits of its final value change, its waiters are tested, and a re-sort follows
(spec/04 R106, spec/01 R19, R23). DEDUCED, log entry 16. -/
def joinOp (q : Sched) (instr : Instr) (m : BitVec 4) (f : DWord → DWord → DWord) (s : State) : Host.Outcome State Fault Refusal :=
  issueWord q instr s fun t _ =>
    .done (t.wave fun w => { ((w.now (.msk m.toNat (f (w.maskFinal m.toNat) t.issue.lanes))).recheck m.toNat) with resort := true })

/-- `join mX` (spec/04 R106). -/
def execJoin (q : Sched) (m : BitVec 4) (s : State) : Host.Outcome State Fault Refusal := joinOp q (.join q m) m (fun x l => x ||| l) s

/-- `leave mX` (spec/04 R106). -/
def execLeave (q : Sched) (m : BitVec 4) (s : State) : Host.Outcome State Fault Refusal := joinOp q (.leave q m) m (fun x l => x &&& ~~~l) s

/-- `waitm mX`: the bundle parks, and is released at once where the condition holds (spec/04 R106, spec/01 R23). DEDUCED, log entry 11. -/
def execWaitm (q : Sched) (m : BitVec 4) (s : State) : Host.Outcome State Fault Refusal :=
  issueWord q (.waitm q m) s fun t _ => .park t (.waitm m.toNat)

/-- Global `mstore` requests of a task whose writes are still in flight, in any cluster (spec/07 R190, spec/09 R229). -/
def State.globalStores (s : State) (w : Wave) : Bool :=
  s.clusters.any fun e => e.2.resv.any fun r => decide (r.task = w.task) && match r.kind with
    | .mstore x => !x.spadSpace
    | _ => false

/-- `exit`: the lanes leave; the last exit commits the version and ends the task, after its global `mstore` writes (spec/04 R107,
spec/09 R225, spec/07 R190). An adopted task whose other entries are parked is then suspended (spec/09 R238). DEDUCED, log entry 11. -/
def execExit (q : Sched) (s : State) : Host.Outcome State Fault Refusal :=
  issueWord q (.exit q) s fun t w =>
    let i := t.issue
    if w.without i.lanes ≠ [] then .left ((t.wave fun x => (x.dropLanes i.lanes).endGroup).suspendOwner i.slot)
    else if t.globalStores w then .wait t
    else
      let c := t.commit i.slot
      if c.stall ≠ [] then .left c else .left (c.removeWave i.slot true none)

/-! ### Waiting and yielding (spec/04 R108, R109) -/

/-- Raises of an instruction of the bundle, in a space. -/
def raisesOf (lanes : DWord) (cause info space : Nat) (write : Bool) : List Raise :=
  (lanesOf lanes).map fun l => { lane := l, cause := cause, info := info, write := write, space := space }

/-- `sleep s(2n):s(2n+1), b` (spec/04 R108). -/
def execSleep (q : Sched) (n : BitVec 5) (b : SSrc) (s : State) : Host.Outcome State Fault Refusal :=
  issueWord q (.sleep q n b) s fun t w =>
    let i := t.issue
    let clus := clusOf (coreOf i.slot)
    let r := t.check w.ctx (dieOf clus) (some clus) (i.src.pair (2 * n.toNat)).toNat 4 4 { rd := true, wr := false }
    match r.2 with
    | .error e => Did.orTrap r.1 (raisesOf i.lanes e.1 e.2 0 false) (.left r.1)
    | .ok (pa, _) =>
      let time := (i.sint b).toNat
      .park r.1 (.sleep (pa / 32) (if time = 0 then none else some (t.clock.toNat + 64 * time)))

/-- `yield`: the ready waves of the core may each issue once first (spec/04 R109). DEDUCED, log entry 9. -/
def execYield (q : Sched) (s : State) : Host.Outcome State Fault Refusal :=
  issueWord q (.yield q) s fun t _ =>
    let slot := t.issue.slot
    let ready := (t.waves.filter fun e => decide (coreOf e.1 = coreOf slot ∧ e.1 ≠ slot) && (e.2.hasReady || e.2.handler.isSome)).map (·.1)
    .done (t.wave fun w => { w with yieldTo := ready })

/-- `nop` (spec/04 R109). -/
def execNop (q : Sched) (s : State) : Host.Outcome State Fault Refusal := issueWord q (.nop q) s fun t _ => .done t

/-! ### Traps, handlers and instruction fetch (spec/04 R112, R113, R115, spec/11 R275) -/

/-- `trap code` raises SOFTWARE (spec/04 R112). -/
def execTrap (q : Sched) (code : BitVec 8) (s : State) : Host.Outcome State Fault Refusal :=
  issueWord q (.trap q code) s fun t _ => t.issue.raiseAll t (.trap q code) cSoftware code.toNat

/-- `brk code` raises BREAKPOINT (spec/04 R112). -/
def execBrk (q : Sched) (code : BitVec 8) (s : State) : Host.Outcome State Fault Refusal :=
  issueWord q (.brk q code) s fun t _ => t.issue.raiseAll t (.brk q code) cBreakpoint code.toNat

/-- The saved status is valid (spec/11 R275). -/
def Wave.statusOk (w : Wave) : Bool :=
  decide (w.tsw.toNat / 2 ^ 20 = 0 ∧ 1 ≤ w.tsw.toNat % 256 ∧ w.tsw.toNat % 256 ≤ 0x13 ∧ w.epc.toNat % 4 = 0 ∧ w.epc.toNat / 2 ^ 52 = 0)

/-- The end of a handler: the checks, then what follows (spec/11 R275). -/
def endHandler (q : Sched) (instr : Instr) (f : State → Wave → Handler → State) (s : State) : Host.Outcome State Fault Refusal :=
  issueWord q instr s fun t w =>
    match w.handler with
    | none => t.issue.raiseAll t instr cIllegalReturn 0
    | some h => if w.statusOk then .left (f t w h) else t.issue.raiseAll t instr cBadStatus 0

/-- `tret` resumes the trapping entry at `sr.epc` (spec/11 R275). -/
def execTret (q : Sched) (s : State) : Host.Outcome State Fault Refusal :=
  endHandler q (.tret q) (fun t _ h => t.wave fun x => x.leaveHandler h) s

/-- `tret.abort` ends the task by abort with KIND 0 (spec/11 R275, R277). -/
def execTretAbort (q : Sched) (s : State) : Host.Outcome State Fault Refusal :=
  endHandler q (.tretAbort q) (fun t w _ => t.abort t.issue.slot 0 w.tsw.toNat w.epc true) s

/-- `isync` empties the core's instruction cache (spec/04 R115). -/
def execIsync (q : Sched) (s : State) : Host.Outcome State Fault Refusal :=
  issueWord q (.isync q) s fun t _ => .done (t.modCore (coreOf t.issue.slot) fun c => { c with icache := [] })

/-! ### Pre-emption points and idempotent regions (spec/04 R110, R111) -/

/-- The team that a wave slot belongs to: that of the first helper of the chain in it, or the wave's own (spec/11 R283). -/
def State.rootTeam (s : State) (slot : Nat) (w : Wave) : Nat :=
  ((s.ctxSlots.filter fun e => decide (e.2.slot = slot ∧ e.2.use = .helper)).findSome? fun e => match e.2.wave with
    | some h => if h.adopt = 0 then some h.team else none
    | none => none).getD w.team

/-- `ppt`: where a request is pending for the team, its save starts, or its discard where every live wave of it is restartable (spec/04
R111, spec/11 R280, R281). -/
def execPpt (q : Sched) (s : State) : Host.Outcome State Fault Refusal :=
  issueWord q (.ppt q) s fun t w =>
    let root := t.rootTeam t.issue.slot w
    .done (match t.teams.get? root with
      | none => t
      | some x =>
        if (t.context w.ctx).state ≠ 2 ∨ x.saving = true ∨ x.discarding = true then t
        else t.setTeam root (if t.discards root x then { x with discarding := true } else { x with saving := true }))

/-- A 4-byte global load of the task for the Leader's side of an instruction, in SPACE 3: the value, or the cause and its INFO
(spec/06 R150 steps 2 to 4 and 6). DEDUCED, log entry 29. -/
def State.readRecord4 (s : State) (slot : Nat) (w : Wave) (va : Nat) : State × Except (Nat × Nat) Nat :=
  let clus := clusOf (coreOf slot)
  let r := s.check w.ctx (dieOf clus) (some clus) va 4 4 { rd := true, wr := false }
  match r.2 with
  | .error e => (r.1, .error e)
  | .ok (pa, pte) =>
    if s.marked pa 4 then (r.1, .error (cPoison, 1))
    else
      let x := r.1.readGlobal (coreOf slot) w.task pa 4 false (pteMside pte)
      match x.2 with
      | some bs => (x.1, .ok (leNat bs))
      | none => (x.1, .error (cPoison, 1))

/-- The end offset of the first of n table entries from an address that starts at an offset; none where none does. DEDUCED, log entry 17. -/
def State.findRegion (s : State) (slot : Nat) (w : Wave) (off : Nat) : Nat → Nat → State × Except (Nat × Nat) (Option Nat)
  | 0, _ => (s, .ok none)
  | n + 1, va =>
    let r := s.readRecord4 slot w va
    match r.2 with
    | .error e => (r.1, .error e)
    | .ok start =>
      let x := r.1.readRecord4 slot w (va + 4)
      match x.2 with
      | .error e => (x.1, .error e)
      | .ok stop =>
        let rest := State.findRegion x.1 slot w off n (va + 8)
        (rest.1, match rest.2 with
          | .error e => .error e
          | .ok found => .ok (if start = off then some stop else found))

/-- The idempotent-region table of the kernel, read for a start offset (spec/03 R90, spec/04 R110). A count above 255, which the spec does
not give, is taken as 255. DESIGN CHOICE, log entry 116. -/
def State.regionAt (s : State) (slot : Nat) (w : Wave) (off : Nat) : State × Except (Nat × Nat) (Option Nat) :=
  if w.hdr.idemtab = 0 then (s, .ok none)
  else
    let base := (BitVec.ofNat 64 w.hdr.va + w.hdr.idemtab).toNat
    let r := s.readRecord4 slot w base
    match r.2 with
    | .error e => (r.1, .error e)
    | .ok n => r.1.findRegion slot w off (min n 255) ((base + 4) % 2 ^ 64)

/-- The offset of the group's first word from the kernel header. -/
def Issue.offset (i : Issue) (w : Wave) : Nat := (i.first - BitVec.ofNat 64 w.hdr.va).toNat

/-- `idem` opens a region (spec/04 R110, spec/09 R228). A fault of its table read is the Leader's alone, as that of any record (spec/11 R270,
R271). DEDUCED, log entry 17. -/
def execIdem (q : Sched) (s : State) : Host.Outcome State Fault Refusal :=
  issueWord q (.idem q) s fun t w =>
    let i := t.issue
    if i.lanes ≠ w.liveLanes ∨ w.region.isSome = true then i.raiseAll t (.idem q) cIllegal 0
    else
      let r := t.regionAt i.slot w (i.offset w)
      match r.2 with
      | .error e => Did.orTrap r.1 (raisesOf (maskOf [i.leader]) e.1 e.2 3 false) (.left r.1)
      | .ok none => i.raiseAll r.1 (.idem q) cIllegal 0
      | .ok (some stop) =>
        .done (r.1.wave fun x =>
          { x with region := some { pc := i.first, s := Sparse.getList i.src.s 0 16, endOff := stop }, restart := true })

/-- `idemend` closes the region (spec/04 R110, spec/09 R228). -/
def execIdemend (q : Sched) (s : State) : Host.Outcome State Fault Refusal :=
  issueWord q (.idemend q) s fun t w =>
    let i := t.issue
    match w.region with
    | none => i.raiseAll t (.idemend q) cIllegal 0
    | some r =>
      if i.lanes ≠ w.liveLanes ∨ i.offset w ≠ r.endOff then i.raiseAll t (.idemend q) cIllegal 0
      else .done (t.wave fun x => { x with region := none, restart := x.restart && x.spawned && !x.committed })

/-! ### Hint words (spec/03 R65 to R67) -/

/-- HINT_LITLO: bits [19:0] of the literal (spec/03 R65). -/
def execHintLitlo (lit : BitVec 20) (s : State) : Host.Outcome State Fault Refusal := issueHint (.hintLitlo lit) s

/-- HINT_LITHI: bits [31:20] of the literal (spec/03 R65). -/
def execHintLithi (lit : BitVec 12) (s : State) : Host.Outcome State Fault Refusal := issueHint (.hintLithi lit) s

/-- HINT_GUARD: the guard mask (spec/03 R65). -/
def execHintGuard (inv : Bool) (m : BitVec 4) (s : State) : Host.Outcome State Fault Refusal := issueHint (.hintGuard inv m) s

/-- HINT_MOD: modifiers (spec/03 R66). -/
def execHintMod (sel : BitVec 4) (hf : Bool) (ord : BitVec 2) (w64 sat ab nb aa na : Bool) (s : State) : Host.Outcome State Fault Refusal :=
  issueHint (.hintMod sel hf ord w64 sat ab nb aa na) s

/-- HINT_RND: the rounding override (spec/03 R65). -/
def execHintRnd (mode : BitVec 3) (s : State) : Host.Outcome State Fault Refusal := issueHint (.hintRnd mode) s

/-- HINT_SCOPE: the scope of an atomic or a `signal` (spec/03 R65). -/
def execHintScope (scope : BitVec 3) (s : State) : Host.Outcome State Fault Refusal := issueHint (.hintScope scope) s

/-- HINT_CACHE: the cache policy (spec/03 R65). -/
def execHintCache (policy : BitVec 2) (s : State) : Host.Outcome State Fault Refusal := issueHint (.hintCache policy) s

/-- HINT_GAP: the gap of the instruction (spec/03 R65). -/
def execHintGap (gap : BitVec 8) (s : State) : Host.Outcome State Fault Refusal := issueHint (.hintGap gap) s

end Sys2Proof.Machine
end

