-- ==== Sys2Proof/Machine/Futures.lean ====
section
/-! DEFINITION. `spawn`, `publ` and futures: major 0x1A, minors 0 to 3 and 9, and the timeout of `sleep` (spec/09 R219 to R223, R229 to
R234, spec/04 R108). -/

namespace Sys2Proof.Machine

/-! ### `spawn` (spec/09 R221) -/

/-- Bytes that a wave's core reads at the ordering point: no older copy of their rows stays in its L1, and each row is read in its slice
(spec/10 R252, spec/13 R319, R324). -/
def State.readHome (s : State) (core task pa n : Nat) : State × List Byte :=
  let r := s.readTask task pa n
  ((r.1.dropRows core pa n).rangeRead pa n, r.2)

/-- A read by a wave waits for its earlier remote store or `signal` to the same bytes, and where the fabric holds it (spec/10 R252, spec/14
R347). -/
def State.afterBusy (s : State) (w : Wave) (pa n : Nat) : State := if s.remoteBusy w pa n then s.stallOn .remote else s

/-- A kernel header read for a lane, or the cause and INFO of the lane. DEDUCED, log entry 69. -/
def State.readHeader (s : State) (slot : Nat) (w : Wave) (va : Nat) : State × Except (Nat × Nat) (Option Header) :=
  let clus := clusOf (coreOf slot)
  if va % 64 ≠ 0 then (s, .error (cMisaligned, 0))
  else
    let r := s.translate w.ctx (dieOf clus) (some clus) va
    match r.2 with
    | .bad i => (r.1, .error (cTranslation, i))
    | .ok pa pte =>
      if !pteRd pte then (r.1, .error (cPermission, 0))
      else if !pteX pte then (r.1, .error (cPermission, 2))
      else if inOnchip pa then (r.1, .error (cPermission, 3))
      else if !inRemote pa && !s.accessOk w.ctx pa 64 false then (r.1, .error (cPermission, 5))
      else if s.marked pa 64 then (r.1, .error (cPoison, 1))
      else if inRemote pa then
        let x := (r.1.afterBusy w pa 64).askPeer (dieOf clus) pa 64
        (x.1, match x.2 with
          | some b => .ok (parseHeader va b)
          | none => .error (cPoison, 1))
      else
        let x := (r.1.afterBusy w pa 64).readHome (coreOf slot) w.task pa 64
        (x.1, .ok (parseHeader va x.2))

/-- The header serves a spawned task. DEDUCED, log entry 69. -/
def spawnable (h : Header) : Bool := decide (h.team = 1 ∧ h.width / 16 ≤ h.spad) && !h.paired

/-- The headers of the lanes, and the causes of those that fail. DEDUCED, log entry 69. -/
def State.spawnLanes (s : State) (slot : Nat) (w : Wave) : List (Nat × Nat) → State × List Raise × List (Nat × Header)
  | [] => (s, [], [])
  | (l, va) :: t =>
    let r := s.readHeader slot w va
    let rest := State.spawnLanes r.1 slot w t
    let bad (c info space : Nat) : State × List Raise × List (Nat × Header) :=
      (rest.1, { lane := l, cause := c, info := info, write := false, space := space } :: rest.2.1, rest.2.2)
    match r.2 with
    | .error e => bad e.1 e.2 3
    | .ok none => bad cSlot 0 3
    | .ok (some h) =>
      if !spawnable h then bad cSlot 0 3
      else if 8 ≤ w.depth then bad cNest 0 0
      else (rest.1, rest.2.1, (l, h) :: rest.2.2)

/-- The lanes enter the brood unit in ascending order: the task and the lane of each child. -/
def State.broodLanes (s : State) (clus : Nat) (w : Wave) (i : Issue) (va : Nat) : List (Nat × Header) → State × List (Nat × List Word)
  | [] => (s, [])
  | (l, h) :: t =>
    let r := s.broodEnter clus w h (pairOf (i.src.lane (va + 2) l) (i.src.lane (va + 3) l))
    let rest := State.broodLanes r.1 clus w i va t
    (rest.1, (l, [BitVec.ofNat 32 r.2.1, BitVec.ofNat 32 r.2.2]) :: rest.2)

/-- `spawn vA`: a commit and a release at device scope, then one lane-child for each lane of the bundle. DEDUCED, log entry 15. -/
def execSpawn (q : Sched) (va : VReg) (s : State) : Host.Outcome State Fault Refusal :=
  issueWord q (.spawn q va) s fun t w =>
    let i := t.issue
    let entry (l : Nat) : Nat := (pairOf (i.src.lane va.toNat l) (i.src.lane (va.toNat + 1) l)).toNat
    let r := t.spawnLanes i.slot w ((lanesOf i.lanes).map fun l => (l, entry l))
    Did.orTrap r.1 r.2.1 (
      releasing r.1 w 4 fun c =>
        let b := c.broodLanes c.hereClus w i va.toNat r.2.2
        .done (b.1.putLanes va.toNat 2 b.2))

/-- `publ` waits for the global `mstore` writes of the task, and commits (spec/09 R229). -/
def execPubl (q : Sched) (s : State) : Host.Outcome State Fault Refusal :=
  issueWord q (.publ q) s fun t w => if t.globalStores w then .wait t else .done (t.commit t.issue.slot)

/-! ### Objects in memory (spec/09 R230, R244) -/

/-- The n bytes of an object as the task of a wave sees them: its own stores lie over those at the home, so that an operation acts on the
values that it finds after them (spec/09 R230, spec/10 R252); a peer's are what it answers. The read waits for an earlier `signal` or remote
store of the wave to the same bytes. DEDUCED, log entries 64, 67. -/
def State.readObject (s : State) (w : Wave) (pa n : Nat) : State × Option (List Byte) :=
  let u := s.afterBusy w pa n
  if inRemote pa then u.askPeer u.hereDie pa n
  else
    let r := u.readHome (coreOf u.issue.slot) w.task pa n
    (r.1, some r.2)

/-- Bytes of an object written at its home, with no older copy left in the L1 of the core (spec/10 R252); a peer's are sent. DEDUCED, log
entry 64. -/
def State.writeObject (s : State) (w : Wave) (pa : Nat) (bs : List Byte) : State :=
  if inRemote pa then s.postRemote w s.issue.slot pa bs
  else (s.storeAt pa bs).dropRows (coreOf s.issue.slot) pa bs.length

/-- The bytes of an object are marked, but for rows that the task's version replaces whole (spec/13 R328). -/
def State.objectMarked (s : State) (w : Wave) (pa n : Nat) : Bool :=
  s.marks.any fun g => decide (g < pa + n ∧ pa < g + 32) && !((List.range 32).all fun k => ((s.version w.task).get? (g + k)).isSome)

/-- The checks of an object of n bytes in global memory, through step 6 (spec/09 R230): what is done with its bytes. DEDUCED, log entries
29, 64. -/
def memObject (t : State) (w : Wave) (instr : Instr) (va n : Nat) (mside : Bool) (body : State → Nat → List Byte → Did) : Did :=
  globalObject t w instr 3 va n n { rd := true, wr := true, mside := mside } fun u pa _ =>
    let poison (x : State) : Did := Did.orTrap x (x.issue.objectRaise instr cPoison 1 true) (.left x)
    if u.objectMarked w pa n then poison u
    else
      let r := u.readObject w pa n
      match r.2 with
      | none => poison r.1
      | some bs => body r.1 pa bs

/-- The SLOT_FAULT of an object. -/
def objectSlot (t : State) (instr : Instr) : Did := Did.orTrap t (t.issue.objectRaise instr cSlot 0 true) (.left t)

/-- The number of entries that wait on an object, but for the one in issue. DEDUCED, log entry 68. -/
def State.waitersOn (s : State) (pa : Nat) : Nat := s.waitersBut pa (some (s.issue.slot, s.issue.lanes))

/-- The instruction that waited on an object whose adopted owner has ended by abort ends with OWNER_FAULTED, and the owner's identifier (spec/09
R238); any other is performed. -/
def ownerEnded (t : State) (w : Wave) (sd : SReg) (body : Did) : Did :=
  match w.ownerFault with
  | some (ls, task) =>
    if ls &&& t.issue.lanes ≠ 0 then .done ((t.wave fun x => { x with ownerFault := none }).putStatus sd.toNat 3 task) else body
  | none => body

/-! ### Futures (spec/09 R230 to R233) -/

/-- The words of a future. -/
structure Future where
  state : Nat
  owner : Nat
  value : DWord
  whead : DWord
  deriving DecidableEq, Repr

def readFuture (b : List Byte) : Future :=
  { state := fieldOf b 0 4, owner := fieldOf b 4 4, value := BitVec.ofNat 64 (fieldOf b 8 8), whead := BitVec.ofNat 64 (fieldOf b 16 8) }

/-- A reserved bit is set, or the state is 3. -/
def futureBad (b : List Byte) : Bool :=
  let x := fieldOf b 0 4
  decide (x % 4 = 3 ∨ x / 8 % 32 ≠ 0 ∨ x / 2 ^ 16 ≠ 0 ∨ fieldOf b 0x18 8 ≠ 0)

/-- What is done at the future that a pair names. DEDUCED, log entry 67. -/
def futureAct (t : State) (w : Wave) (instr : Instr) (sa : SReg) (body : State → Wave → Nat → Future → Did) : Did :=
  memObject t w instr (t.issue.src.pair sa.toNat).toNat 32 false fun u pa b =>
    if futureBad b then objectSlot u instr else body u w pa (readFuture b)

/-- An instruction on the future that a pair names. -/
def futureOp (q : Sched) (instr : Instr) (sa : SReg) (body : State → Wave → Nat → Future → Did) (s : State) :
    Host.Outcome State Fault Refusal :=
  issueWord q instr s fun t w => futureAct t w instr sa body

/-- WHEAD made to agree with the entries that wait: zero for none, and otherwise a value of the device's choice (log entry 4). -/
def State.setWhead (s : State) (w : Wave) (pa : Nat) (f : Future) (waiting : Bool) : State :=
  if waiting then
    if f.whead ≠ 0 then s
    else
      let v := Config.whead s.free
      ({ s with free := s.free + 1 } : State).writeObject w (pa + 16) (leBytes 8 (if v = 0 then 1 else v.toNat))
  else if f.whead = 0 then s else s.writeObject w (pa + 16) (leBytes 8 0)

/-- `fbind sA` (spec/09 R231). -/
def execFbind (q : Sched) (sa : SReg) (s : State) : Host.Outcome State Fault Refusal :=
  futureOp q (.fbind q sa) sa (fun t w pa f =>
    if t.waitersOn pa ≠ 0 then objectSlot t (.fbind q sa)
    else
      let c := (t.commit t.issue.slot).ordered t.issue.slot
      .done ((c.setWhead w pa f false).writeObject w pa (leBytes 4 4 ++ leBytes 4 (t.issue.src.scalar (sa.toNat + 2)).toNat ++ leBytes 8 0))) s

/-- `fset sA, sB` (spec/09 R232). -/
def execFset (q : Sched) (sa sb : SReg) (s : State) : Host.Outcome State Fault Refusal :=
  futureOp q (.fset q sa sb) sa (fun t w pa f =>
    releasing t w 4 fun c =>
      if f.state % 4 ≠ 0 then .done (c.putNow (.cond false))
      else
        let u := c.ordered c.issue.slot
        let x := (u.setWhead w pa f false).writeObject w pa
          (leBytes 4 (f.state + 1) ++ leBytes 4 f.owner ++ leBytes 8 (t.issue.src.pair sb.toNat).toNat)
        .done (x.putNow (.cond true))) s

/-- The tasks that the wave in issue runs on top of. -/
def State.chainOf (s : State) (slot : Nat) : List Nat :=
  s.ctxSlots.flatMap fun e => if e.2.slot = slot ∧ e.2.use = .helper then (e.2.wave.map (·.task)).toList else []

/-- `fwait sD, sA` (spec/09 R233). -/
def execFwait (q : Sched) (sd sa : SReg) (s : State) : Host.Outcome State Fault Refusal :=
  issueWord q (.fwait q sd sa) s fun t w => ownerEnded t w sd (futureAct t w (.fwait q sd sa) sa fun t w pa f =>
    let i := t.issue
    let others := decide (t.waitersOn pa ≠ 0)
    let free := t.setWhead w pa f others
    let park : Park := .object pa { instr := .fwait q sd sa, held := i.held, first := i.first, src := i.src }
    let bound := decide (f.state / 4 % 2 = 1)
    if f.state % 4 = 1 then .done (((free.putPair sd.toNat f.value).putNow (.cond true)).acquire i.slot 4)
    else if f.state % 4 = 2 then .done (free.putStatus sd.toNat 3 f.owner)
    else if !bound then .park (t.setWhead w pa f true) park
    else if f.owner = w.task ∨ (t.chainOf i.slot).contains f.owner = true then .done (free.putStatus sd.toNat 5 f.owner)
    else if !t.live f.owner then .done (free.putStatus sd.toNat 4 f.owner)
    else
      match t.adoptable? i.slot w f.owner with
      | some o => .left (free.adopt w o park)
      | none => .park (t.setWhead w pa f true) park)

/-! ### The timeout of `sleep` (spec/04 R108) -/

/-- A sleeping entry whose timeout has passed. -/
def sleepOver (clock : Nat) : Park → Bool
  | .sleep _ (some t) => decide (t ≤ clock)
  | _ => false

/-- The sleeping entries of a wave are released at their timeout: the wave in a slot, or from 12,288 on the one in a context slot. -/
def execSleepTimeout (slot : Nat) (s : State) : Host.Outcome State Fault Refusal :=
  let free (w : Wave) : Wave := (w.releaseWhere s.now (sleepOver s.clock.toNat)).merged
  .next (if slot < 12288 then (s.modWave slot free).retryOwned (s.taskAt slot)
    else
      s.modSlots fun w => if (s.ctxSlots.get? (slot - 12288)).any fun c => decide (c.wave = some w) then free w else w)

end Sys2Proof.Machine
end

