-- ==== Sys2Proof/Machine/Capsules.lean ====
section
/-! DEFINITION. Capsules: major 0x1B (spec/09 R244 to R249). -/

namespace Sys2Proof.Machine

/-- The fields of a capsule. -/
structure Capsule where
  holder : Nat
  step : Nat
  flags : Nat
  deadline : Nat
  code : Nat
  lease : Nat
  waiters : Nat
  result : DWord
  ckpt : List Word
  deriving DecidableEq, Repr

/-- DEDUCED, log entry 66. -/
def readCapsule (b : List Byte) : Capsule :=
  { holder := fieldOf b 0 4, step := fieldOf b 4 2, flags := fieldOf b 6 2, deadline := fieldOf b 8 8, code := fieldOf b 16 8,
    lease := fieldOf b 0x18 4, waiters := fieldOf b 0x1C 4, result := BitVec.ofNat 64 (fieldOf b 0x20 8),
    ckpt := (List.range 16).map fun k => BitVec.ofNat 32 (fieldOf b (0x40 + 4 * k) 4) }

/-- A reserved bit is set, STEP is above 15, or CODE is no word address. DEDUCED, log entry 66. -/
def capsuleBad (b : List Byte) : Bool :=
  decide (fieldOf b 4 2 > 15 ∨ fieldOf b 6 2 / 8 ≠ 0 ∨ fieldOf b 16 8 % 4 ≠ 0 ∨ fieldOf b 0x28 24 ≠ 0 ∨ fieldOf b 0x80 128 ≠ 0)

def Capsule.held (c : Capsule) : Bool := decide (c.flags % 2 = 1)
def Capsule.done (c : Capsule) : Bool := decide (c.flags / 2 % 2 = 1)
def Capsule.faulted (c : Capsule) : Bool := decide (c.flags / 4 % 2 = 1)

/-- The lease in cycles of `sr.clock`. -/
def Capsule.leaseCycles (c : Capsule) : Nat := if c.lease = 0 then clocksOf 20 else 64 * c.lease

/-- An instruction on the capsule that a pair names. DEDUCED, log entry 67. -/
def capsuleOp (t : State) (w : Wave) (instr : Instr) (sa : SReg) (body : State → Nat → Capsule → Did) : Did :=
  memObject t w instr (t.issue.src.pair sa.toNat).toNat 256 true fun u pa b =>
    if capsuleBad b then objectSlot u instr else body u pa (readCapsule b)

/-- WAITERS made to agree with the entries that wait. -/
def State.setWaiters (s : State) (w : Wave) (pa : Nat) (c : Capsule) (n : Nat) : State :=
  if c.waiters = n then s else s.writeObject w (pa + 0x1C) (leBytes 4 n)

/-- The park of an instruction on a capsule. -/
def capsulePark (t : State) (w : Wave) (instr : Instr) (pa : Nat) (c : Capsule) : Did :=
  .park (t.setWaiters w pa c (t.waitersOn pa + 1))
    (.object pa { instr := instr, held := t.issue.held, first := t.issue.first, src := t.issue.src })

/-- The task is resident: it runs in a wave slot. -/
def State.resident (s : State) (task : Nat) : Bool := s.waves.any fun e => decide (e.2.task = task)

/-- The values of s48 to s63 as an instruction reads them. -/
def Issue.ckpt (i : Issue) : List Word := (run 48 16).map i.src.scalar

/-- s48 to s63 written. -/
def State.putCkpt (s : State) (ws : List Word) : State :=
  foldState (fun s x => s.putNow (.sca (48 + x.1) x.2)) s ((List.range ws.length).zip ws)

/-- The wave that has acquired or adopted a capsule: the body starts a step. -/
def Wave.openStep (w : Wave) (key : DWord) : Wave := { w with ckey := key, stepWords := 0, stepBuf := [] }

/-- `center sD, sA` (spec/09 R246). -/
def execCenter (q : Sched) (sd sa : SReg) (s : State) : Host.Outcome State Fault Refusal :=
  issueWord q (.center q sd sa) s fun t w =>
    let i := t.issue
    let instr := Instr.center q sd sa
    capsuleOp t w instr sa fun u pa c =>
      let full := (lanesOf i.lanes).filter fun l => decide (16 ≤ (w.stack l).length)
      let parks := !c.done && !c.faulted && c.held && u.resident c.holder && decide (u.clock.toNat < c.deadline)
      if w.ckey ≠ 0 then i.raiseAll u instr cCapsule 0
      else
        Did.orTrap u (if c.done || c.faulted || parks then [] else lanesRaise full cNest 1) (
          let v := u.commit i.slot
          if v.stall ≠ [] then .left v
          else
            let free := v.setWaiters w pa c (v.waitersOn pa)
            let deadline := leBytes 8 (v.clock.toNat + c.leaseCycles)
            let enter (x : State) (step : Nat) : Did :=
              let y := ((x.putNow (.sca sd.toNat (BitVec.ofNat 32 step))).putNow (.cond true)).wave (·.openStep (i.src.pair sa.toNat))
              callTo (y.acquire i.slot 4) w (BitVec.ofNat 64 c.code)
            if c.done then .done (free.putStatus sd.toNat 6 0)
            else if c.faulted then .done (free.putStatus sd.toNat 3 c.holder)
            else if parks then capsulePark v w instr pa c
            else if c.held then
              enter (((free.writeObject w pa (leBytes 4 w.task)).writeObject w (pa + 8) deadline).putCkpt c.ckpt) c.step
            else
              enter (((free.writeObject w pa (leBytes 4 w.task ++ leBytes 2 0 ++ leBytes 2 (c.flags + 1))).writeObject w (pa + 8) deadline).writeObject
                w (pa + 0x40) (i.ckpt.flatMap fun x => leBytes 4 x.toNat)) 0)

/-- The step buffer's stores become visible: persistent ones enter their queue at once, remote ones are sent (spec/09 R245, R247). DEDUCED,
log entry 28. -/
def State.publishStep (s : State) (w : Wave) : State :=
  let slot := s.issue.slot
  let buf := w.stepBuf.filter fun b => !b.own
  let plain := buf.filter fun b => !b.persist && !inRemote b.pa
  let persist := buf.filter fun b => b.persist && !inRemote b.pa
  let remote := buf.filter fun b => inRemote b.pa
  let cells (bs : List BufStore) : List Host.Cell :=
    (bs.foldl (fun m b => (cellsAt b.pa b.data).foldl (fun m c => Assoc.put m c.1 c.2) m) ([] : Assoc Byte))
  let s1 := if plain = [] then s else (s.store (cells plain)).dropCells (coreOf slot) (cells plain)
  let s2 := s1.enterNow w slot (cells persist)
  foldState (fun s b => s.postRemote w slot b.pa b.data) s2 remote

/-- The compare of a commit fails: the step buffer is discarded, and the task no longer holds the capsule (spec/09 R247). -/
def displaced (t : State) : Did :=
  .done ((t.wave fun x => { x with stepBuf := [], ckey := 0 }).putNow (.cond false))

/-- The compare of spec/09 R247. -/
def Capsule.mine (c : Capsule) (w : Wave) (k : Nat) : Bool := c.held && decide (c.holder = w.task ∧ c.step = k) && !c.done

/-- `cstep sA, sB` (spec/09 R247). DEDUCED, log entry 28. -/
def execCstep (q : Sched) (sa sb : SReg) (s : State) : Host.Outcome State Fault Refusal :=
  issueWord q (.cstep q sa sb) s fun t w =>
    let i := t.issue
    let instr := Instr.cstep q sa sb
    capsuleOp t w instr sa fun u pa c =>
      let k := (i.src.scalar sb.toNat).toNat
      if !c.mine w k then displaced u
      else if k = 15 then i.raiseAll u instr cCapsule 0
      else
        releasing u w 4 fun v =>
          let x := (((v.publishStep w).writeObject w (pa + 4) (leBytes 2 (k + 1))).writeObject w (pa + 8)
            (leBytes 8 (u.clock.toNat + c.leaseCycles))).writeObject w (pa + 0x40) (i.ckpt.flatMap fun x => leBytes 4 x.toNat)
          .done ((x.wave fun y => { y with stepBuf := [], stepWords := 0 }).putNow (.cond true))

/-- `cexit sA, sB` (spec/09 R248). -/
def execCexit (q : Sched) (sa sb : SReg) (s : State) : Host.Outcome State Fault Refusal :=
  issueWord q (.cexit q sa sb) s fun t w =>
    let i := t.issue
    let instr := Instr.cexit q sa sb
    capsuleOp t w instr sa fun u pa c =>
      if !c.mine w c.step then displaced u
      else
        releasing u w 4 fun v =>
          let x := ((v.publishStep w).writeObject w (pa + 0x20) (leBytes 8 (i.src.pair sb.toNat).toNat)).writeObject w (pa + 6)
            (leBytes 2 (c.flags - 1 + 2))
          .done ((x.wave fun y => { y with stepBuf := [], stepWords := 0, ckey := 0 }).putNow (.cond true))

/-- `cres sD, sA` (spec/09 R248). -/
def execCres (q : Sched) (sd sa : SReg) (s : State) : Host.Outcome State Fault Refusal :=
  issueWord q (.cres q sd sa) s fun t w =>
    let i := t.issue
    let instr := Instr.cres q sd sa
    capsuleOp t w instr sa fun u pa c =>
      let free := u.setWaiters w pa c (u.waitersOn pa)
      if c.done then .done (((free.putPair sd.toNat c.result).putNow (.cond true)).acquire i.slot 4)
      else if c.faulted then .done (free.putStatus sd.toNat 3 c.holder)
      else capsulePark u w instr pa c

/-- The lease of the capsule at an address has run out: the entries parked in `center` are decided again, those of
waves in context slots too (spec/09 R234). -/
def execCapsuleLeaseExpiry (pa : Nat) (s : State) : Host.Outcome State Fault Refusal :=
  let here (p : Park) : Bool := match p with
    | .object a { instr := .center _ _ _, .. } => decide (a = pa)
    | _ => false
  .next (if s.valueAt (pa + 8) 8 ≤ s.clock.toNat then s.retryWhere here else s)

end Sys2Proof.Machine
end

