-- ==== Sys2Proof/Machine/Snapshot.lean ====
section
/-! DEFINITION. The snapshot engine: `sr.snap`, the capture of STEP tiles and recovery (spec/14 R350 to R356, R389, R390). -/

namespace Sys2Proof.Machine

/-- A field of a 64-bit register. -/
def bitsOf (x : DWord) (lo n : Nat) : Nat := x.toNat / 2 ^ lo % 2 ^ n

/-- SNAPCFG (spec/14 R351). -/
def Regfile.unit (r : Regfile) : Nat := bitsOf r.snapcfg 18 4
def Regfile.gpos (r : Regfile) : Nat := bitsOf r.snapcfg 16 2
def Regfile.stripe (r : Regfile) : Bool := r.snapcfg.getLsbD 0
def Regfile.shardSize (r : Regfile) : Nat := 32 * 2 ^ r.unit
def Regfile.stripePeers (r : Regfile) : List Nat := [bitsOf r.snapcfg 26 12, bitsOf r.snapcfg 38 12, bitsOf r.snapcfg 50 12]

/-- The address of the slot of a step (spec/14 R351). -/
def Regfile.slotOf (r : Regfile) (step : Nat) : Nat := r.slotbase + step % 2 * (4096 + r.shards * r.shardSize)

/-- A range lies in SCM, or in HBM outside every pool. -/
def rangeScm (a n : Nat) : Bool := decide (0x1000000000000 ≤ a ∧ a + n ≤ 0x1040000000000)

/-- The range shares no frame with the tier pool of any die (spec/13 R329). -/
def State.clearOfPools (s : State) (a n : Nat) : Bool :=
  (List.range 4).all fun d =>
    let x := s.die d
    let lo := d * 2 ^ 37 + x.poolBase * 65536
    decide (x.poolFrames = 0 ∨ a + n ≤ lo ∨ lo + x.poolFrames * 65536 ≤ a)

/-- The snapshot configuration is valid (spec/14 R351). -/
def State.snapConfigOk (s : State) : Bool :=
  let r := s.regs
  let peers := r.stripePeers
  decide (r.unit < 12) && decide (r.shards ≠ 0 ∧ r.shards % 4 = 0) && decide (r.slotbase % 4096 = 0) &&
    rangeScm r.slotbase (2 * (4096 + r.shards * r.shardSize)) &&
    decide (r.stagebase % 65536 = 0 ∧ r.stagesize ≠ 0 ∧ r.stagesize % 65536 = 0 ∧ r.stagebase + r.stagesize ≤ 0x8000000000) &&
    s.clearOfPools r.stagebase r.stagesize &&
    (!r.stripe || (peers.all (fun e => decide (2 ≤ e) && peerValid (s.peer e)) && decide peers.Nodup))

/-- The windows of the snapshot agents permit an access (spec/14 R360, master 18). -/
def State.snapOk (s : State) (pa n : Nat) (wr : Bool) : Bool := s.accessOk 18 pa n wr

/-- Bytes that the snapshot agents write durably: the coherent image and the SCM medium (spec/13 R335). A refused write changes no byte
and is a write error of the capture, which then writes nothing more (spec/14 R350, R360). DEDUCED, log entries 22, 102. -/
def State.durable (s : State) (pa : Nat) (bs : List Byte) : State :=
  if s.snap.state = 3 then s
  else if !s.snapOk pa bs.length true then s.failCapture 3
  else
    let t := s.storeRun pa bs
    { t with
      scm := if inScm pa then Sparse.splice t.scm pa bs else t.scm
      dirty := t.dirty.filter fun a => !decide (pa ≤ a ∧ a < pa + bs.length) }

/-- A write of `sr.snap` (spec/14 R350, R351, R355, R359): START begins a capture where none runs, and clears the slot's valid mark.
DEDUCED, log entry 20. -/
def State.snapWrite (s : State) (v : Word) : State :=
  if v.getLsbD 31 = false ∨ s.regs.featAccept.getLsbD 4 = false ∨ s.snap.state = 1 ∨ s.snap.state = 2 then s
  else
    let step := v.toNat % 65536
    let base : Snap :=
      { s.snap with fcode := 0, step := step, cut := false, uncaptured := [], copying := [], waiters := [], staged := [], image := [] }
    if s.snapConfigOk then
      ({ s with snap := { base with state := 0 } } : State).durable (s.regs.slotOf step + 0x38) (leBytes 8 0) |> fun t =>
        if t.snap.state = 3 then t else { t with snap := { t.snap with state := 1 } }
    else { s with snap := { base with state := 3, fcode := 4 } }

/-- A stripe peer is fenced, or no port reaches one. DEDUCED, log entry 103. -/
def State.stripeLost (s : State) : Bool :=
  s.regs.stripe && (s.regs.stripePeers.any (fun e => !peerValid (s.peer e) || decide (peerState (s.peer e) ≠ 0)) ||
    (List.range 24).all fun n => (s.ports.get? n).any fun p => !p.up)

/-- A capture in progress fails with its stripe (spec/14 R355). -/
def State.checkStripe (s : State) : State := if (s.snap.state = 1 ∨ s.snap.state = 2) ∧ s.stripeLost = true then s.failCapture 1 else s

/-- The value of `sr.snap` (spec/14 R350). DEDUCED, log entry 20. -/
def Snap.word (x : Snap) : Word := BitVec.ofNat 32 (x.state * 2 ^ 29 + x.fcode * 2 ^ 24 + x.step)

end Sys2Proof.Machine
end

