-- ==== Sys2Proof/Machine/Reduce.lean ====
section
/-! DEFINITION. What the operations of the waggle engine compute (spec/14 R341 to R343, spec/02 R57 to R59). -/

namespace Sys2Proof.Machine

/-- The values of n-byte elements. -/
def elemsOf (n : Nat) : Nat → List Byte → List Nat
  | 0, _ => []
  | k + 1, bs => leNat (bs.take n) :: elemsOf n k (bs.drop n)

/-! ### Floating-point SUM (spec/02 R57, R58) -/

/-- e(x) of a finite non-zero value: the least integer with |x| below 2 to it. -/
def binadeOf : Val → Option Int
  | .fin _ m e => if m = 0 then none else some (e + Nat.log2 m + 1)
  | _ => none

/-- The greatest of a list of integers. -/
def maxInt : List Int → Option Int
  | [] => none
  | a :: t => match maxInt t with
    | none => some a
    | some b => some (max a b)

/-- The value is a NaN or an infinity. -/
def notFinite : Val → Bool
  | .fin _ _ _ => false
  | _ => true

/-- One element of a block: the sum over ranks of the values aligned at 2^(-N), then one rounding (spec/02 R57). -/
def sumElem (f : FFmt) (n : Int) (xs : List Val) : Flagged Nat :=
  let parts := xs.map fun v => match v with
    | .fin neg m e => if m = 0 then ((0 : Int), false) else roundInt .rne 0 neg m (e + n)
    | _ => (0, false)
  let t : Int := parts.foldl (fun a p => a + p.1) 0
  let y := if t = 0 then (0, 0) else f.round .rne false 0 (.fin (decide (t < 0)) t.natAbs (-n))
  (y.1, y.2 ||| (if parts.any (·.2) then fInexact else 0))

/-- A block of up to 256 elements, given as its ranks' values for each element (spec/02 R57, R58). -/
def sumBlock (f : FFmt) (h : Nat) (cols : List (List Val)) : List Nat × FFlags :=
  if cols.any fun c => c.any notFinite then (cols.map fun _ => f.nan, fInvalid)
  else
    match maxInt (cols.flatMap fun c => c.filterMap binadeOf) with
    | none => (cols.map fun _ => 0, 0)
    | some e =>
      let ys := cols.map (sumElem f (62 - e - h))
      (ys.map (·.1), ys.foldl (fun a y => a ||| y.2) 0)

/-- The blocks of a tensor, one after the other. -/
def sumBlocks (f : FFmt) (h : Nat) : Nat → List (List Val) → List Nat × FFlags
  | 0, _ => ([], 0)
  | k + 1, cols =>
    if cols = [] then ([], 0)
    else
      let a := sumBlock f h (cols.take 256)
      let b := sumBlocks f h k (cols.drop 256)
      (a.1 ++ b.1, a.2 ||| b.2)

/-! ### Element-wise operations -/

/-- The values of element i at each rank. -/
def columnsOf (count : Nat) (ranks : List (List Nat)) : List (List Nat) := (List.range count).map fun i => ranks.map fun r => r.getD i 0

/-- The integer that a code of an integer format stands for (spec/02 R41). -/
def intOf (fmt x : Nat) : Int :=
  if fmt = 8 then x
  else
    let bits := if fmt = 6 then 8 else 32
    if x < 2 ^ (bits - 1) then x else (x : Int) - 2 ^ bits

/-- The greatest, or the least, element of a format over the ranks (spec/14 R342). -/
def bestElem (fmt : Nat) (greatest : Bool) (xs : List Nat) : Nat :=
  match FFmt.ofCode? fmt with
  | some f =>
    let pick := if greatest then maxVal else minVal
    (f.round .rne false 0 ((xs.map f.decode).foldl pick .nan)).1
  | none =>
    match xs with
    | [] => 0
    | a :: t => t.foldl (fun x y => if (if greatest then decide (intOf fmt x < intOf fmt y) else decide (intOf fmt y < intOf fmt x)) then y else x) a

/-! ### DRAW (spec/14 R343) -/

/-- A draw triple and the rank of the leaf that it came from. -/
abbrev Drawn := Option (Triple × Nat)

/-- The leaf of a rank's record: empty without a mass above zero. -/
def drawLeaf (idx mass top rank : Nat) : Flagged Drawn :=
  let t := Triple.cleaned { idx := BitVec.ofNat 32 idx, mass := mass, top := top }
  (if t.1.isEmpty then none else some (t.1, rank), t.2)

/-- A node merges its children as `drawm` does; the order of the indices is kept, so that the side of the survivor is known. -/
def joinDrawn (c coin : Nat) (l r : Drawn) : Flagged Drawn :=
  let il := (l.map (·.1.idx)).getD 0
  let ir := (r.map (·.1.idx)).getD 0
  let a : Word := if ir < il then 1 else 0
  let side (d : Drawn) (k : Word) : Triple := d.elim Triple.zero fun x => { x.1 with idx := k }
  let m := mergeDraws c coin (side l a) (side r (1 - a))
  if m.1.isEmpty then (none, m.2)
  else
    match if m.1.idx = a then l else r with
    | some x => (some ({ m.1 with idx := x.1.idx }, x.2), m.2)
    | none => (none, m.2)

/-- The tree below a node, of some depth. -/
def drawHeap (leaf : Nat → Flagged Drawn) (c : Nat) (coin : Nat → Nat) : Nat → Nat → Flagged Drawn
  | 0, n => leaf n
  | d + 1, n =>
    let l := drawHeap leaf c coin d (2 * n)
    let r := drawHeap leaf c coin d (2 * n + 1)
    let x := joinDrawn c (coin n) l.1 r.1
    (x.1, l.2 ||| r.2 ||| x.2)

/-- The least d with at least p leaves at depth d. -/
def drawDepth (p : Nat) : Nat := if p ≤ 1 then 0 else Nat.log2 (p - 1) + 1

/-- The bytes of record e of the result, over the records of the ranks that contribute, of a group of p ranks. The leaf of a rank that
does not contribute is empty, and c is the lowest rank's. DESIGN CHOICE, log entry 52. -/
def drawRecord (key : DWord) (round e p : Nat) (ranks : List (Nat × List Nat)) : List Byte × FFlags :=
  let d := drawDepth p
  let word (l : List Nat) (k : Nat) : Nat := l.getD (4 * e + k) 0
  let leaf (n : Nat) : Flagged Drawn :=
    match Assoc.get? ranks (n - 2 ^ d) with
    | some l => drawLeaf (word l 0) (word l 1) (word l 2) (n - 2 ^ d)
    | none => (none, 0)
  let r := drawHeap leaf (word (((List.map (fun x => x.2) ranks).headD [])) 3) (fun n => coinBits key (BitVec.ofNat 32 (round * 2 ^ 20 + e * 8192 + n))) d 1
  (match r.1 with
   | some x => leBytes 4 x.1.idx.toNat ++ leBytes 4 x.1.mass ++ leBytes 4 x.1.top ++ leBytes 4 x.2
   | none => leBytes 4 0xFFFFFFFF ++ leBytes 4 0 ++ leBytes 4 0xFF800000 ++ leBytes 4 0xFFFFFFFF, r.2)

/-! ### Operations (spec/14 R341, R342) -/

/-- Bytes of an element, or of a record of DRAW. -/
def CollSpec.size (c : CollSpec) : Nat := if c.op = 4 then 16 else if c.fmt = 0 ∨ c.fmt = 7 then 4 else if c.fmt = 1 ∨ c.fmt = 2 then 2 else 1

/-- Bytes that a rank contributes. -/
def CollSpec.bytes (c : CollSpec) : Nat := c.count * c.size

/-- The operation accepts the format and the count (spec/14 R341). -/
def CollSpec.ok (c : CollSpec) : Bool :=
  let many := decide (1 ≤ c.count ∧ c.count ≤ 2 ^ 28)
  decide (c.head ≤ 30) &&
    match c.op with
    | 1 => many && decide (c.fmt ≤ 4 ∨ c.fmt = 7)
    | 2 | 3 | 6 | 7 => many && decide (c.fmt ≤ 4 ∨ (6 ≤ c.fmt ∧ c.fmt ≤ 8))
    | 4 => decide (c.fmt = 0 ∧ 1 ≤ c.count ∧ c.count ≤ 128)
    | 5 => decide (c.fmt = 0 ∧ c.count = 0)
    | _ => false

/-- The headroom in force (spec/02 R58, spec/08 R214). -/
def CollSpec.room (c : CollSpec) : Nat := if c.head = 0 then 12 else c.head

/-- Bytes of every rank's result, for a number of ranks. -/
def CollSpec.resultBytes (c : CollSpec) (p : Nat) : Nat := if c.op = 7 then p * c.bytes else c.bytes

/-- SUM (spec/14 R342). -/
def CollSpec.sum (c : CollSpec) (ranks : List (List Byte)) : List Byte × FFlags :=
  let cols := columnsOf c.count (ranks.map (elemsOf c.size c.count))
  match FFmt.ofCode? c.fmt with
  | some f =>
    let r := sumBlocks f c.room (c.count / 256 + 1) (cols.map fun x => x.map f.decode)
    (r.1.flatMap (leBytes c.size), r.2)
  | none => (cols.flatMap fun x => leBytes 4 (x.foldl (· + ·) 0), 0)

/-- MAX and MIN. -/
def CollSpec.best (c : CollSpec) (greatest : Bool) (ranks : List (List Byte)) : List Byte × FFlags :=
  ((columnsOf c.count (ranks.map (elemsOf c.size c.count))).flatMap fun x => leBytes c.size (bestElem c.fmt greatest x), 0)

/-- DRAW of a round. -/
def CollSpec.draw (c : CollSpec) (key : DWord) (round p : Nat) (ranks : List (Nat × List Byte)) : List Byte × FFlags :=
  let words := ranks.map fun x => (x.1, elemsOf 4 (4 * c.count) x.2)
  let rs := (List.range c.count).map fun e => drawRecord key round e p words
  (rs.flatMap (·.1), rs.foldl (fun a r => a ||| r.2) 0)

end Sys2Proof.Machine
end

