-- ==== Sys2Proof/Machine/Waggle.lean ====
section
/-! DEFINITION. The waggle engine: `coll`, the group table, rounds and their completion (spec/08 R214, R218, spec/10 R263, spec/14
R339 to R345). -/

namespace Sys2Proof.Machine

/-! ### Accesses of the waggle engine (spec/01 R36, R37) -/

/-- A byte that the waggle engine reads for a context, which may lie in the on-chip map; the first byte of a row reads its comb
(spec/13 R324). -/
def State.waggleRead (s : State) (ctx die va : Nat) (first : Bool) : State × Got Byte :=
  let r := s.translate ctx die none va
  match r.2 with
  | .bad i => (r.1, .bad (if i = 9 then cPermission else cTranslation))
  | .ok pa pte =>
    if !pteRd pte || inRemote pa || !s.accessOk ctx pa 1 false then (r.1, .bad cPermission)
    else if inOnchip pa then (r.1, match spotOf pa with
      | some x => s.spotRead (some ctx) x
      | none => .bad cPermission)
    else if s.marked pa 1 then (r.1, .bad cPoison)
    else
      let x := r.1.readPoint pa 1
      (if first || decide (pa % 32 = 0) then x.1.combRead pa none else x.1, .ok (x.2.headD 0))

/-- n bytes that the waggle engine reads, the first of them the first of the whole read or not. -/
def State.waggleRun (s : State) (ctx die va : Nat) (first : Bool) : Nat → State × Got (List Byte)
  | 0 => (s, .ok [])
  | n + 1 =>
    let r := s.waggleRead ctx die (va % 2 ^ 64) first
    match r.2 with
    | .bad c => (r.1, .bad c)
    | .wait => (r.1, .wait)
    | .ok b =>
      let t := State.waggleRun r.1 ctx die (va + 1) false n
      (t.1, match t.2 with
        | .ok bs => .ok (b :: bs)
        | .bad c => .bad c
        | .wait => .wait)

/-- n bytes that the waggle engine reads. -/
def State.waggleBytes (s : State) (ctx die va n : Nat) : State × Got (List Byte) := s.waggleRun ctx die va true n

/-- Where a byte that the waggle engine writes for a context goes: one of the on-chip map is written, one of memory is left to the store of
the whole result. -/
def State.waggleWrite (s : State) (ctx die va : Nat) (b : Byte) : Got (State × List Host.Cell) :=
  let r := s.translate ctx die none va
  match r.2 with
  | .bad i => .bad (if i = 9 then cPermission else cTranslation)
  | .ok pa pte =>
    if !pteWr pte || inRemote pa || !s.accessOk ctx pa 1 true then .bad cPermission
    else if inOnchip pa then (match spotOf pa with
      | some x => match r.1.spotWrite (some ctx) x b with
        | .ok t => .ok (t, [])
        | .bad c => .bad c
        | .wait => .wait
      | none => .bad cPermission)
    else .ok (r.1, [(pa, b)])

/-- The bytes of one element, all of them or none. -/
def State.waggleElem (s : State) (ctx die : Nat) : List (Nat × Byte) → Got (State × List Host.Cell)
  | [] => .ok (s, [])
  | (va, b) :: t =>
    match s.waggleWrite ctx die va b with
    | .ok u => match State.waggleElem u.1 ctx die t with
      | .ok v => .ok (v.1, u.2 ++ v.2)
      | x => x
    | x => x

/-- Elements in order, up to the first that faults: the bytes for memory, the bytes written and the cause (spec/14 R345). -/
def State.waggleElems (s : State) (ctx die : Nat) : List (List (Nat × Byte)) → Got (State × List Host.Cell × Nat × Nat)
  | [] => .ok (s, [], 0, 0)
  | e :: t =>
    match s.waggleElem ctx die e with
    | .wait => .wait
    | .bad c => .ok (s, [], 0, c)
    | .ok u =>
      match State.waggleElems u.1 ctx die t with
      | .ok r => .ok (r.1, u.2 ++ r.2.1, e.length + r.2.2.1, r.2.2.2)
      | x => x

/-- A list in pieces of n. -/
def pieces {α : Type} (n : Nat) : Nat → List α → List (List α)
  | 0, _ => []
  | k + 1, l => if l = [] then [] else l.take n :: pieces n k (l.drop n)

/-! ### The group table (spec/14 R339) -/

/-- An entry of the group table; its members are (package, die), with die 15 for a package rank. -/
structure Group where
  entry : Nat
  collid : Nat
  p : Nat
  reach : Nat
  key : DWord
  members : List (Nat × Nat)
  timeout : Nat
  deriving DecidableEq, Repr

/-- A field of an entry. -/
def State.groupField (s : State) (entry off n : Nat) : Nat := leNat (Sparse.getList s.groupTable (32 * entry + off) n)

/-- The member words that an entry addresses. DESIGN CHOICE, log entry 52. -/
def State.groupMembers (s : State) (addr p : Nat) : List (Nat × Nat) :=
  (List.range p).map fun r =>
    let x := s.valueAt (addr + 4 * r) 4
    (x % 4096, x / 4096 % 16)

/-- The entry of a group, where the table holds a usable one. DESIGN CHOICE, log entry 52. -/
def State.group? (s : State) (collid : Nat) : Option Group :=
  match (List.range 1024).find? fun e => decide (collid ≠ 0 ∧ s.groupField e 0 4 = collid) with
  | none => none
  | some e =>
    let p := s.groupField e 4 2
    let reach := s.groupField e 6 1 % 8
    if 1 ≤ p ∧ p ≤ 4096 ∧ 3 ≤ reach ∧ reach ≤ 5 then
      some { entry := e, collid := collid, p := p, reach := reach, key := BitVec.ofNat 64 (s.groupField e 8 8),
             members := s.groupMembers (s.groupField e 16 8) p, timeout := s.groupField e 24 4 }
    else none

/-- The entry of a group as the waggle engine reads it: the member words lie in memory, and the read of a tile that moves waits (spec/13
R331). -/
def State.readGroup (s : State) (collid : Nat) : State × Option Group :=
  match s.group? collid with
  | none => (s, none)
  | some g => ((s.readRange (s.groupField g.entry 16 8) (4 * g.p)).1, some g)

/-- The members that contribute to posted rounds, or to bound ones, in rank order: the rank, which is the index in MEMBERS, the package and
the die (spec/14 R339, R340). -/
def Group.ranks (g : Group) (bound : Bool) : List (Nat × Nat × Nat) :=
  (g.members.mapIdx fun k m => (k, m.1, m.2)).filter fun x => decide (x.2.2 = 15) == bound

/-- The rank that a BROADCAST takes its data from: rank 0, or the lowest that contributes. DESIGN CHOICE, log entry 52. -/
def Group.root (g : Group) (bound : Bool) : Nat := ((g.ranks bound).map (·.1)).headD 0

/-- The first number of a bound round: round (b, c) is this number + b · 2^32 + c, above every posted round. DEDUCED, log entry 77. -/
def boundBase : Nat := 2 ^ 64

/-- The number of a bound round (spec/14 R340). DEDUCED, log entry 77. -/
def boundRound (b c : Nat) : Nat := boundBase + b * 2 ^ 32 + c

/-- The round holds bound chunks. -/
def isBound (round : Nat) : Bool := decide (boundBase ≤ round)

/-! ### The end of a command -/

/-- A chunk has completed: its launch records its cause and its flags (spec/12 R297). -/
def State.reportChunk (s : State) (launches : List Nat) (cause : Nat) (flags : BitVec 5) : State :=
  { s with launches := s.launches.map fun e =>
      if launches.contains e.1 then
        (e.1, { e.2 with
          cfault := e.2.cfault || decide (cause ≠ 0)
          ccause := if e.2.cfault then e.2.ccause else cause
          cfloat := e.2.cfloat ||| flags })
      else e }

/-- A command leaves its waggle queue. -/
def State.dropColl (s : State) (c : CollCmd) : State :=
  s.modDie c.die fun d => { d with waggleQ := d.waggleQ.filter fun x => !decide (x.num = c.num) }

/-- A command ends: a chunk reports to its launch, and a `coll` waits for its ring with a record. -/
def State.finishColl (s : State) (c : CollCmd) (ring tag cause : Nat) (flags : BitVec 5) (bytes : Nat) : State :=
  if c.chunk.isSome then (s.reportChunk c.launches cause flags).dropColl c
  else if c.quiet then s.dropColl c
  else
    let rec_ : Completion :=
      { ctx := c.ctx, num := c.num, ring := ring, tag := tag, status := if cause = 0 then 1 else 2, cause := cause, flags := flags,
        bytes := bytes }
    s.modDie c.die fun d =>
      { d with
        waggleQ := d.waggleQ.map fun x => if x.num = c.num then { x with joined := true } else x
        completions := d.completions ++ [rec_] }

/-! ### Joining a round (spec/14 R340, R341) -/

/-- The agent of a command of the waggle engine. -/
def CollCmd.agent (c : CollCmd) : Nat := 1002 + 3 * c.num

/-- The agent of a round: that of the first command in it. -/
def Round.agent (r : Round) : Nat := ((r.members.head?).map fun m => m.cmd.agent).getD 220

def codeMismatch : Nat := 0x20
def codePeerLost : Nat := 0x21
def codeTimeout : Nat := 0x22
def codeMemberFault : Nat := 0x23

/-- What a member brings to a round. -/
structure Entrant where
  cmd : CollCmd
  collid : Nat
  spec : CollSpec
  src : Nat
  dst : Nat
  ring : Nat
  tag : Nat
  deriving DecidableEq, Repr

/-- The addresses of a result overlap the range of the source without being the same addresses (spec/14 R341). -/
def overlapBad (src n : Nat) (dst : List Nat) : Bool :=
  (dst.any fun a => decide (src ≤ a ∧ a < src + n)) && decide (dst ≠ (List.range n).map (src + ·))

/-- The range of a result overlaps the range of the source and does not begin where it begins (spec/14 R341). -/
def rangeBad (src n dst m : Nat) : Bool := decide (src ≠ dst ∧ src < dst + m ∧ dst < src + n)

/-- The command is marked as begun. -/
def State.markJoined (s : State) (c : CollCmd) : State :=
  s.modDie c.die fun d => { d with waggleQ := d.waggleQ.map fun x => if x.num = c.num then { x with joined := true } else x }

/-- A member joins its round, which opens with its first member. DEDUCED, log entry 50. -/
def State.joinRound (s : State) (e : Entrant) (g : Group) (rank round : Nat) (cause : Nat) : State :=
  let m : Member := { rank := rank, cmd := e.cmd, src := e.src, dst := e.dst, ring := e.ring, tag := e.tag, cause := cause }
  let s1 := s.markJoined e.cmd
  let bad (r : Round) : Nat := if r.cause ≠ 0 then r.cause else if cause ≠ 0 then codeMemberFault else if r.spec ≠ e.spec then codeMismatch else 0
  if s1.rounds.any fun r => decide (r.collid = e.collid ∧ r.round = round) then
    { s1 with rounds := s1.rounds.map fun r =>
        if r.collid = e.collid ∧ r.round = round then
          { r with members := r.members ++ [m], cause := if r.result.isSome ∧ cause = 0 ∧ r.spec = e.spec then r.cause else bad r }
        else r }
  else
    let r : Round :=
      { collid := e.collid, round := round, spec := e.spec, members := [m], gone := [], result := none, flags := 0,
        cause := if cause ≠ 0 then codeMemberFault else 0, openedAt := s.clock.toNat }
    { s1 with
      rounds := s1.rounds ++ [r]
      groupTable := Sparse.setList s1.groupTable (32 * g.entry + 28) (leBytes 4 (s1.groupField g.entry 28 4 + 1)) }

/-- An entrant meets its group: the checks that end its command with SLOT_FAULT, then its round; `overlap` where the box of a bound chunk
meets its source otherwise than exactly. DEDUCED, log entries 49, 50, 54. -/
def State.enterGroup (s : State) (e : Entrant) (bound : Option Nat) (die : Nat) (overlap : Bool) : State :=
  let stop := s.finishColl e.cmd e.ring e.tag cSlot 0 0
  if !e.spec.ok || decide (e.collid = 0) then stop
  else
    let q := s.readGroup e.collid
    let s := q.1
    match q.2 with
    | none => stop
    | some g =>
      let ranks := g.ranks bound.isSome
      match ranks.find? fun x => decide (x.2 = (s.regs.pkgid, if bound.isSome then 15 else die)) with
      | none => stop
      | some (rank, _) =>
        if 2 ^ e.spec.room < ranks.length then stop
        else
          let cause := if overlap || (bound.isNone && rangeBad e.src e.spec.bytes e.dst (e.spec.resultBytes ranks.length)) then cSlot else 0
          match bound with
          | some n => s.joinRound e g rank n cause
          | none =>
            let k := g.entry * 8 + die
            let r := s.groupPosted.getD k 0
            ({ s with groupPosted := s.groupPosted.put k (r + 1) } : State).joinRound e g rank r cause

/-- A `coll` begins: its descriptor is read (spec/08 R214). DEDUCED, log entry 49. -/
def State.beginColl (s : State) (c : CollCmd) : State :=
  let r := s.waggleBytes c.ctx c.die c.desc 64
  match r.2 with
  | .wait => s
  | .bad _ => ((r.1.setError errRing c.ctx).dropColl c)
  | .ok b =>
    let spec : CollSpec := { op := fieldOf b 0 2, fmt := fieldOf b 2 1, head := fieldOf b 3 1, count := fieldOf b 0x18 8 }
    let e : Entrant :=
      { cmd := c, collid := fieldOf b 4 4, spec := spec, src := fieldOf b 8 8, dst := fieldOf b 0x10 8, ring := fieldOf b 0x20 8,
        tag := fieldOf b 0x28 2 }
    if fieldOf b 0x2A 22 ≠ 0 ∨ (spec.op = 5 ∧ (e.src ≠ 0 ∨ e.dst ≠ 0)) then r.1.finishColl c e.ring e.tag cSlot 0 0
    else r.1.enterGroup e none c.die false

/-- The bytes of a chunk's result with their addresses: the box of the result tensor that its index selects (spec/08 R218). -/
def State.chunkBytes (s : State) (c : CollCmd) (dst layout size : Nat) (bs : List Byte) : State × Got (List (List (Nat × Byte))) :=
  if layout % 32 ≠ 0 then (s, .bad cMisaligned)
  else
    let r := s.waggleBytes c.ctx c.die layout 96
    match r.2 with
    | .wait => (r.1, .wait)
    | .bad e => (r.1, .bad e)
    | .ok b =>
      let w := windowOf b [dst % 65536, dst / 65536, 0, 0]
      if !windowKnown b || !recordOk b || isBq w.fmt || decide (w.image ≠ bs.length) then (r.1, .bad cSlot)
      else
        (r.1, .ok (((pieces size (bs.length + 1) ((List.range bs.length).zip bs)).map fun e =>
          e.filterMap fun x => (w.piece x.1).target.map fun y => (y.1, x.2)).filter fun e => !decide (e = [])))

/-- A chunk that a binding fired begins: its entry of the chunk map is read (spec/08 R218). -/
def State.beginChunk (s : State) (c : CollCmd) (team : Nat) : State :=
  match (c.launches.head?).bind s.launches.get? with
  | none => s.dropColl c
  | some l =>
    let r := s.waggleBytes c.ctx c.die (l.chunkMap + 16 * team) 16
    match r.2 with
    | .wait => s
    | .bad e => r.1.finishColl c 0 0 e 0 0
    | .ok b =>
      let size := if l.collfmt = 0 ∨ l.collfmt = 7 then 4 else if l.collfmt = 1 ∨ l.collfmt = 2 then 2 else 1
      let e : Entrant :=
        { cmd := c, collid := l.collid, spec := { op := l.collop, fmt := l.collfmt, head := l.collhead, count := l.hdr.collchunk / size },
          src := fieldOf b 0 8, dst := fieldOf b 8 4, ring := 0, tag := 0 }
      if fieldOf b 12 4 ≠ 0 then r.1.finishColl c 0 0 cSlot 0 0
      else
        let x := r.1.chunkBytes c e.dst l.resLayout size (List.replicate (e.spec.count * size) 0)
        match x.2 with
        | .wait => s
        | .bad _ => x.1.enterGroup e (some (boundRound l.boundNo e.dst)) c.die false
        | .ok es => x.1.enterGroup e (some (boundRound l.boundNo e.dst)) c.die (overlapBad e.src (e.spec.count * size) (es.flatten.map (·.1)))

/-- The first command of a team's waggle queue, where it has not begun and nothing that it must follow stands before it. -/
def State.headColl (s : State) (die team : Nat) : Option CollCmd :=
  match (s.die die).waggleQ.find? fun c => decide (c.team = team) with
  | none => none
  | some c => if c.joined || !s.settled c.after then none else some c

/-- A command begins. -/
def State.begin (s : State) (c : CollCmd) : State := match c.chunk with
  | some n => s.beginChunk c n
  | none => s.beginColl c

/-- Every queue's first command begins, where it can. -/
def State.joinAll (s : State) : State :=
  foldState (fun s die =>
    foldState (fun s team => match s.headColl die team with
      | some c => settleEvent c.agent s (s.begin c)
      | none => s) s (((s.die die).waggleQ.map (·.team)).eraseDups)) s [0, 1, 2, 3]

/-- `coll sA` (spec/08 R214). -/
def execColl (q : Sched) (sa : SReg) (s : State) : Host.Outcome State Fault Refusal :=
  issueWord q (.coll q sa) s fun t w =>
    let i := t.issue
    let desc := (i.src.pair sa.toNat).toNat
    globalObject t w (.coll q sa) 3 desc 64 64 { rd := true, wr := false } fun u _ _ =>
      let c := (u.commit i.slot).ordered i.slot
      if c.stall ≠ [] then .left c
      else
        let cmd : CollCmd :=
          { num := c.nextNum, team := w.team, ctx := w.ctx, die := t.hereDie, task := w.task, launches := w.launches, desc := desc,
            chunk := none, after := u.teamAfter w 2, joined := false, quiet := false }
        .done ((({ c with nextNum := c.nextNum + 1 } : State).modDie t.hereDie fun d => { d with waggleQ := d.waggleQ ++ [cmd] }).joinAll)

/-! ### The operation of a round (spec/14 R341 to R345) -/

/-- A package can be reached: a port is up, and a valid entry of the peer table names it that is not fenced (spec/14 R344). DESIGN CHOICE,
log entry 53; DEDUCED, log entry 103. -/
def State.reachable (s : State) (pkg : Nat) : Bool :=
  decide (s.upPorts ≠ []) && s.peerTable.any fun e => decide (2 ≤ e.1) && peerValid e.2 && decide (peerState e.2 = 0 ∧ peerPkg e.2 = pkg)

/-- What is known of one rank's contribution. -/
inductive Contribution where
  | bytes (b : List Byte)
  /-- Not here yet. -/
  | missing
  | lost
  | mismatch
  | faulted
  deriving DecidableEq, Repr

/-- The contribution of a rank on another package: its bytes as they arrived; nothing where its own package reports a fault; an entry 4,096
above the rank says that the package refused the request (spec/14 R349). DESIGN CHOICE, log entry 53. -/
def State.remoteContribution (s : State) (spec : CollSpec) (remote : List (Nat × List (BitVec 8))) (root rank pkg : Nat) : Contribution :=
  let want := if spec.op = 6 ∧ rank ≠ root then 0 else spec.bytes
  if remote.any fun x => decide (x.1 = 4096 + rank) then .lost
  else
    match remote.find? fun x => decide (x.1 = rank) with
    | some x => if x.2.length = want then .bytes x.2 else if x.2 = [] then .faulted else .mismatch
    | none => if s.reachable pkg then .missing else .lost

/-- The SRC of a member of this package, as the waggle engine reads it. DEDUCED, log entry 55. -/
def State.sourceOf (s : State) (spec : CollSpec) (root : Nat) (m : Member) : State × Got (List Byte) :=
  if spec.op = 6 ∧ m.rank ≠ root then (s, .ok []) else s.waggleBytes m.cmd.ctx m.cmd.die m.src spec.bytes

/-- The contributions of the ranks in order, and the members whose read faulted, with their causes; none where one must wait. DESIGN CHOICE,
log entry 53. -/
def State.gather (s : State) (r : Round) (root : Nat) (remote : List (Nat × List (BitVec 8))) :
    List (Nat × Nat × Nat) → State × Option (List Contribution × List (Nat × Nat))
  | [] => (s, some ([], []))
  | (rank, pkg, _) :: t =>
    let one : State × Got (Contribution × List (Nat × Nat)) :=
      if pkg ≠ s.regs.pkgid then (s, .ok (s.remoteContribution r.spec remote root rank pkg, []))
      else
        match r.members.find? fun m => decide (m.rank = rank) with
        | none => (s, .ok (.missing, []))
        | some m =>
          let x := s.sourceOf r.spec root m
          (x.1, match x.2 with
            | .ok b => .ok (.bytes b, [])
            | .bad c => .ok (.faulted, [(rank, c)])
            | .wait => .wait)
    match one.2 with
    | .ok x =>
      let rest := State.gather one.1 r root remote t
      (rest.1, rest.2.map fun y => (x.1 :: y.1, x.2 ++ y.2))
    | _ => (one.1, none)

/-- The result of a round over its contributions, in rank order. -/
def Round.compute (r : Round) (g : Group) (bs : List (List Byte)) : List Byte × FFlags :=
  let ranks := (g.ranks (isBound r.round)).map (·.1)
  match r.spec.op with
  | 1 => r.spec.sum bs
  | 2 => r.spec.best true bs
  | 3 => r.spec.best false bs
  | 4 => r.spec.draw g.key r.round g.p (ranks.zip bs)
  | 6 => (bs.headD [], 0)
  | 7 => (bs.flatten, 0)
  | _ => ([], 0)

/-- The die that counts a round's lost peer: that of the first command in it (spec/14 R349). DESIGN CHOICE, log entry 53. -/
def Round.homeDie (r : Round) : Nat := ((r.members.head?).map fun m => m.cmd.die).getD 0

/-- Replace a round. -/
def State.setRound (s : State) (r : Round) : State :=
  { s with rounds := s.rounds.map fun x => if x.collid = r.collid ∧ x.round = r.round then r else x }

/-- An operation of a round, where every member has contributed, or where one never will. -/
def State.reduce (s : State) (op collid round : Nat) (remote : List (Nat × List (BitVec 8))) : State :=
  let s0 := s.joinAll
  let q := s0.readGroup collid
  match s0.rounds.find? (fun r => decide (r.collid = collid ∧ r.round = round)), q.2 with
  | some r, some g =>
    if r.spec.op ≠ op ∨ r.result.isSome ∨ r.cause ≠ 0 then s0
    else
      let x := q.1.gather r (g.root (isBound round)) remote (g.ranks (isBound round))
      match x.2 with
      | none => s0
      | some (cs, faults) =>
        if cs.contains .lost then settleEvent r.agent s0 ((x.1.setRound { r with cause := codePeerLost }).peerFailure r.homeDie)
        else if cs.contains .mismatch then settleEvent r.agent s0 (x.1.setRound { r with cause := codeMismatch })
        else if cs.contains .faulted then
          settleEvent r.agent s0 (x.1.setRound { r with
            cause := codeMemberFault
            members := r.members.map fun m => match faults.find? fun f => decide (f.1 = m.rank) with
              | some f => { m with cause := f.2 }
              | none => m })
        else if cs.contains .missing then s0
        else
          let y := r.compute g (cs.map fun c => match c with
            | .bytes b => b
            | _ => [])
          settleEvent r.agent s0 (x.1.setRound { r with result := some y.1, flags := y.2 })
  | _, _ => s0

/-- SUM of a round (spec/14 R342). -/
def execCollSum (collid round : Nat) (remote : List (Nat × List (BitVec 8))) (s : State) : Host.Outcome State Fault Refusal :=
  .next (s.reduce 1 collid round remote)

/-- MAX of a round (spec/14 R342). -/
def execCollMax (collid round : Nat) (remote : List (Nat × List (BitVec 8))) (s : State) : Host.Outcome State Fault Refusal :=
  .next (s.reduce 2 collid round remote)

/-- MIN of a round (spec/14 R342). -/
def execCollMin (collid round : Nat) (remote : List (Nat × List (BitVec 8))) (s : State) : Host.Outcome State Fault Refusal :=
  .next (s.reduce 3 collid round remote)

/-- DRAW of a round (spec/14 R343). -/
def execCollDraw (collid round : Nat) (remote : List (Nat × List (BitVec 8))) (s : State) : Host.Outcome State Fault Refusal :=
  .next (s.reduce 4 collid round remote)

/-- BARRIER of a round (spec/10 R263, spec/14 R341). DEDUCED, log entry 56. -/
def execCollBarrier (collid round : Nat) (remote : List (Nat × List (BitVec 8))) (s : State) : Host.Outcome State Fault Refusal :=
  .next (s.reduce 5 collid round remote)

/-- BROADCAST of a round (spec/14 R342). -/
def execCollBroadcast (collid round : Nat) (remote : List (Nat × List (BitVec 8))) (s : State) : Host.Outcome State Fault Refusal :=
  .next (s.reduce 6 collid round remote)

/-- ALLGATHER of a round (spec/14 R342). -/
def execCollAllgather (collid round : Nat) (remote : List (Nat × List (BitVec 8))) (s : State) : Host.Outcome State Fault Refusal :=
  .next (s.reduce 7 collid round remote)

/-! ### Completion (spec/14 R344, R345) -/

/-- A round that reaches the system waits for the acknowledgements of the waves that posted it (spec/10 R263). DEDUCED, log entry 56. -/
def State.barrierWaits (s : State) (r : Round) (g : Option Group) : Bool :=
  decide (r.spec.op = 5 ∧ r.cause = 0) && (g.any fun g => decide (g.reach = 5)) &&
    r.members.any fun m => s.remoteOps.any fun x => decide (x.task = m.cmd.task)

/-- The bytes of a member's result with their addresses, in elements. -/
def State.resultBytes (s : State) (r : Round) (m : Member) (bs : List Byte) : State × Got (List (List (Nat × Byte))) :=
  match m.cmd.chunk with
  | none => (s, .ok (pieces r.spec.size (bs.length + 1) ((List.range bs.length).zip bs |>.map fun x => ((m.dst + x.1) % 2 ^ 64, x.2))))
  | some _ =>
    match (m.cmd.launches.head?).bind s.launches.get? with
    | none => (s, .bad cSlot)
    | some l => s.chunkBytes m.cmd m.dst l.resLayout r.spec.size bs

/-- A member completes: its result is written, up to a fault of its own, its bytes in memory by one store (spec/14 R345, spec/13 R328).
DEDUCED, log entry 55. -/
def State.completeMember (s : State) (r : Round) (m : Member) : Got State :=
  let stop (t : State) (cause bytes : Nat) : Got State := .ok (t.finishColl m.cmd m.ring m.tag cause (if cause < 0x20 then r.flags else 0) bytes)
  if m.cause ≠ 0 then stop s m.cause 0
  else if r.cause ≠ 0 then stop s r.cause 0
  else
    let x := s.resultBytes r m (r.result.getD [])
    match x.2 with
    | .wait => .wait
    | .bad c => stop x.1 c 0
    | .ok es =>
      match x.1.waggleElems m.cmd.ctx m.cmd.die es with
      | .ok y =>
        let t := y.1.store y.2.1
        stop (if y.2.2.2 = 0 then t.clearWhole (es.flatten.filterMap fun x => t.spadSpot? m.cmd.ctx m.cmd.die none x.1) else t) y.2.2.2 y.2.2.1
      | .bad c => stop x.1 c 0
      | .wait => .wait

/-- The members of a list complete. -/
def State.completeMembers (s : State) (r : Round) : List Member → Got State
  | [] => .ok s
  | m :: t =>
    match s.completeMember r m with
    | .ok u => State.completeMembers u r t
    | x => x

/-- The ranks of this package in a round. DEDUCED, log entry 56. -/
def State.localRanks (s : State) (g : Group) (round : Nat) : List Nat :=
  ((g.ranks (isBound round)).filter fun x => decide (x.2.1 = s.regs.pkgid)).map (·.1)

/-- A round that has its result, or its code, completes at the members of this package that have joined it; it stays for those that
have not. DEDUCED, log entry 55. -/
def execCollRoundComplete (collid round : Nat) (s : State) : Host.Outcome State Fault Refusal :=
  let s0 := s.joinAll
  .next (match s0.rounds.find? fun r => decide (r.collid = collid ∧ r.round = round) with
    | none => s0
    | some r =>
      let q := s0.readGroup collid
      let g := q.2
      if (r.result.isNone ∧ r.cause = 0) ∨ s0.barrierWaits r g = true then s0
      else
        match q.1.completeMembers r r.members with
        | .ok t =>
          let gone := r.gone ++ r.members.map (·.rank)
          let all := g.all fun g => (s0.localRanks g round).all gone.contains
          settleEvent r.agent s0 (
            if all then { t with rounds := t.rounds.filter fun x => !decide (x.collid = collid ∧ x.round = round) }
            else t.setRound { r with members := [], gone := gone })
        | _ => s0)

/-- The TIMEOUT of a round expires, here or at a member of another package (spec/14 R345). DESIGN CHOICE, log entry 53. -/
def execCollTimeout (collid round : Nat) (s : State) : Host.Outcome State Fault Refusal :=
  .next (match s.rounds.find? (fun r => decide (r.collid = collid ∧ r.round = round)), s.group? collid with
    | some r, some g =>
      let here := decide (g.timeout ≠ 0 ∧ r.openedAt + 850 * g.timeout ≤ s.clock.toNat)
      let away := (g.ranks (isBound round)).any fun m => decide (m.2.1 ≠ s.regs.pkgid)
      if r.result.isNone ∧ r.cause = 0 ∧ (here || away) = true then s.setRound { r with cause := codeTimeout } else s
    | _, _ => s)

/-! ### Writes of the group table (spec/14 R339, R340) -/

/-- An open round ends here with TIMEOUT: its members complete, a member that has faulted with its own cause (spec/14 R340, R345). -/
def State.timeOut (s : State) (r : Round) : State :=
  foldState (fun s (m : Member) => s.finishColl m.cmd m.ring m.tag (if m.cause ≠ 0 then m.cause else if r.cause ≠ 0 then r.cause else codeTimeout) 0 0)
    s r.members

/-- An entry is rewritten: its open rounds end with TIMEOUT, its members count from 0 again, and ROUND is 0. DEDUCED, log entry 51. -/
def State.resetGroup (s : State) (entry : Nat) : State :=
  let collid := s.groupField entry 0 4
  let open_ := s.rounds.filter fun r => decide (r.collid = collid)
  let t := foldState State.timeOut s open_
  { t with
    rounds := t.rounds.filter fun r => !decide (r.collid = collid)
    groupPosted := s.groupPosted.filter fun e => !decide (e.1 / 8 = entry)
    groupTable := Sparse.setList s.groupTable (32 * entry + 28) (leBytes 4 0) }

/-- A 4- or 8-byte unit of the group table is written; ROUND is read-only. DEDUCED, log entry 51. -/
def execGroupTableWrite (off width : Nat) (value : BitVec 64) (s : State) : Host.Outcome State Fault Refusal :=
  if (width ≠ 4 ∧ width ≠ 8) ∨ off % width ≠ 0 ∨ 32768 ≤ off ∨ (width = 4 ∧ off % 32 = 28) then .next s
  else
    let entry := off / 32
    let t := s.resetGroup entry
    let kept := (leBytes width value.toNat).take (if off % 32 + width = 32 then width - 4 else width)
    .next { t with groupTable := Sparse.setList t.groupTable off kept }

end Sys2Proof.Machine
end

