-- ==== Sys2Proof/Machine/Remote.lean ====
section
/-! DEFINITION. `signal`, remote operations and peers, the fabric ports, and the host mailboxes (spec/08 R215, spec/10 R262, R264,
spec/14 R346 to R349, R357, R358). -/

namespace Sys2Proof.Machine

/-! ### `signal` (spec/08 R215) -/

/-- `signal [sA:sA+1], sB`: a commit, and a command that the remote queue performs. DEDUCED, log entries 15, 59. -/
def execSignal (q : Sched) (sa sb : SReg) (s : State) : Host.Outcome State Fault Refusal :=
  issueWord q (.signal q sa sb) s fun t w =>
    let i := t.issue
    let scope := i.held.scopeOr
    globalObject t w (.signal q sa sb) 0 (i.src.pair sa.toNat).toNat 4 4 { rd := false, wr := true } fun u pa pte =>
      let c := u.commit i.slot
      let op : RemoteOp :=
        { num := 0, via := none, resent := false, sent := false, slot := i.slot, task := w.task, core := coreOf i.slot, launches := w.launches, pa := pa,
          data := leBytes 4 (i.src.scalar sb.toNat).toNat, local_ := !inRemote pa, signal := some scope,
          persist := if ptePersist pte && !inRemote pa then some w.pfences else none, after := c.remoteAfter w,
          performed := false }
      let d := c.sendOp op
      .done (if 1 ≤ scope then d.release i.slot scope else d)

/-! ### Remote operations (spec/10 R262) -/

/-- An operation is marked as performed. -/
def State.setPerformed (s : State) (n : Nat) : State :=
  { s with remoteOps := s.remoteOps.map fun x => if x.num = n then { x with performed := true } else x }

/-- The ports of the operations of a list, after those that stand before them: one that a lost port held is sent again on another, one that
had not left is a new request, and one that is held leaves where it may (spec/14 R347). DEDUCED, log entry 117. -/
def State.routeAll (s : State) (earlier : List RemoteOp) : List RemoteOp → List RemoteOp
  | [] => earlier
  | r :: t =>
    let lost := r.via.any fun p => !s.upPorts.contains p
    let again := r.resent || (lost && (r.performed || s.onItsWay r))
    let r1 : RemoteOp :=
      if r.local_ || !(lost || r.via.isNone) then r
      else if again then { r with via := s.portFor r.pa, resent := true }
      else { r with via := s.route earlier r.pa }
    State.routeAll s (earlier ++ [r1]) t

/-- The ports are chosen again (spec/14 R347). -/
def State.reroute (s : State) : State := { s with remoteOps := s.routeAll [] s.remoteOps }

/-- An operation leaves the counters of its core; what it held back may leave. -/
def State.dropRemote (s : State) (n : Nat) : State :=
  ({ s with remoteOps := s.remoteOps.filter fun x => !decide (x.num = n) } : State).reroute

/-- The agents of the remote operations, the mailboxes, and the accesses that come from outside. -/
def RemoteOp.agent (r : RemoteOp) : Nat := 1000 + 3 * r.num
def mailboxAgent (port : Nat) : Nat := 232 + port
def inboundAgent (pkg off len : Nat) : Nat := 1001 + 3 * (pkg + 2 ^ 12 * (off + 2 ^ 38 * len))

/-- A local flag written at the ordering point; on a PERSIST page it enters the queue of its core's die where it fits (spec/08 R215,
spec/06 R168). No older copy of its row stays in the L1 of its core (spec/10 R252). DEDUCED, log entry 59. -/
def State.writeFlag (s : State) (r : RemoteOp) : State :=
  match r.persist with
  | none => foldState (fun u c => u.dropRows c r.pa r.data.length) (s.storeAt r.pa r.data) (s.writerCores r.core r.task)
  | some epoch =>
    let g : WbqGroup := { num := r.num, launches := r.launches, slot := r.slot, task := r.task, epoch := epoch, die := dieOf (clusOf r.core), bytes := cellsAt r.pa r.data, marks := [] }
    if s.fits g then s.enter g else s.stallOn .persists

/-- The operation of a number is performed: at its peer, or here. A request that a fenced entry turns away fails instead. DEDUCED, log
entry 59. -/
def execRemoteStorePerform (n : Nat) (s : State) : Host.Outcome State Fault Refusal :=
  .next (match s.remoteOps.find? fun r => decide (r.num = n) with
    | none => s
    | some r =>
      if !s.remoteReady r || s.turnedAway r then s
      else
        let t := if r.local_ then s.writeFlag r else s
        settleEvent r.agent s (t.setPerformed n))

/-- The acknowledgement of an operation that has been performed (spec/10 R262). -/
def execRemoteAck (n : Nat) (s : State) : Host.Outcome State Fault Refusal :=
  .next (if s.remoteOps.any fun r => decide (r.num = n) && r.performed then s.dropRemote n else s)

/-- An operation that its peer refuses, or that met a fenced entry, is dropped, and its counter is decremented (spec/14 R349). -/
def execRemoteFailure (n : Nat) (s : State) : Host.Outcome State Fault Refusal :=
  .next (match s.remoteOps.find? fun r => decide (r.num = n) with
    | none => s
    | some r =>
      if r.local_ || !(if s.turnedAway r then s.sendable r else s.remoteReady r) then s else (s.dropRemote n).peerFailure (dieOf (clusOf r.core)))

/-! ### Inbound accesses (spec/14 R348) -/

/-- A valid entry accepts inbound accesses of a package. -/
def State.admits (s : State) (pkg : Nat) : Bool :=
  s.peerTable.any fun e => decide (2 ≤ e.1) && peerValid e.2 && peerInbound e.2 && decide (peerState e.2 = 0 ∧ peerPkg e.2 = pkg)

/-- Every byte of a range exists on this package, outside the on-chip map. -/
def State.exists_ (s : State) (pa n : Nat) : Bool :=
  (List.range n).all fun k => s.populated (pa + k) && !inRemote (pa + k) && !inOnchip (pa + k)

/-- The operands of a peer's access of some bytes hold that many each. -/
def peerHolds (len : Nat) (a : PeerAccess) : Bool := match a with
  | .read => true
  | .write bs => decide (bs.length = len)
  | .atomic _ v => decide (v.length = len)
  | .cas v w => decide (v.length = len) && decide (w.length = len)

/-- What an access of a peer writes, from the bytes that stand there (spec/06 R160, R162). -/
def peerWrite (a : PeerAccess) (old : List Byte) : Option (List Byte) := match a with
  | .read => none
  | .write bs => some bs
  | .atomic op v => some (leBytes v.length (AtomOp.new op v.length (leNat old) (leNat v)))
  | .cas v w => if old = v then some w else none

/-- An access of a peer to the exported window, performed at the ordering point: a read, an atomic and a compare and swap are answered with
the bytes that stood there. Operands of another length than the access are no access. DEDUCED, log entry 58. -/
def execInboundAccess (pkg off len : Nat) (access : PeerAccess) (s : State) : Host.Outcome State Fault Refusal :=
  let pa := s.regs.expbase + off
  let reads := match access with
    | .write _ => false
    | _ => true
  let writes := match access with
    | .read => false
    | _ => true
  let reply (t : State) (r : PeerReply) : State := { t with peerReplies := t.peerReplies ++ [r] }
  .next (
    if !peerHolds len access then s
    else if !s.admits pkg || decide (s.regs.expsize < off + len) || (reads && !s.accessOk 19 pa len false) ||
        (writes && !s.accessOk 19 pa len true) || !s.exists_ pa len || (reads && s.marked pa len) then reply s (.refused pkg)
    else
      let r := if reads then s.readPoint pa len else (s, [])
      let t := if reads then r.1.rangeRead pa len else s
      let u := match peerWrite access r.2 with
        | some bs => t.storeAt pa bs
        | none => t
      settleEvent (inboundAgent pkg off len) s (reply u (.data pkg r.2)))

/-- The peer table is written; entries 0 and 1 do not exist, and reserved bits read zero (spec/14 R348). A capture fails with a stripe
peer that it fences (spec/14 R355). -/
def execPeerTableWrite (off width : Nat) (value : BitVec 64) (s : State) : Host.Outcome State Fault Refusal :=
  if (width ≠ 4 ∧ width ≠ 8) ∨ off % width ≠ 0 ∨ 32768 ≤ off ∨ off < 16 then .next s
  else
    let e := off / 8
    let old := s.peer e
    let new : DWord :=
      if width = 8 then value
      else if off % 8 = 0 then pairOf (lowHalf value) (highHalf old)
      else pairOf (lowHalf old) (lowHalf value)
    .next (s.setPeer e (new &&& 0xFFFF0000003FFFFF)).checkStripe

/-! ### Ports (spec/14 R346, R347) -/

/-- A port that has trained at its full rate. -/
def Port.trained : Port := { up := true, fast := true, replays := 0 }

/-- A port's state. -/
def State.port (s : State) (n : Nat) : Port := s.ports.getD n Port.trained

/-- A flit of a port is replayed: nothing is lost or reordered, and the port counts it. -/
def execFlitReplay (port : Nat) (s : State) : Host.Outcome State Fault Refusal :=
  .next (if 24 ≤ port ∨ (s.port port).up = false then s
    else { s with ports := s.ports.put port { s.port port with replays := (s.port port).replays + 1 } })

/-- A port goes down: what it held is sent again on another port, and each peer applies it once. A capture fails where no port
is left (spec/14 R355). -/
def execPortDown (port : Nat) (s : State) : Host.Outcome State Fault Refusal :=
  .next (if 24 ≤ port then s else ({ s with ports := s.ports.put port { s.port port with up := false } } : State).reroute.checkStripe)

/-! ### Mailboxes (spec/10 R264, spec/14 R358) -/

/-- A host access of n bytes at an offset of BAR2 is carried out: it lies in the window and in one 8-byte unit, its bytes exist, and the
port's master may make it, to a peer's window as well (spec/14 R358). DESIGN CHOICE, log entry 127. -/
def State.mailboxOk (s : State) (port off n : Nat) (wr : Bool) : Bool :=
  let pa := s.regs.mbwin + off
  decide (port < 2 ∧ 0 < n ∧ off + n ≤ 2 ^ 28 ∧ off / 8 = (off + n - 1) / 8) &&
    (List.range n).all (fun k => s.populated (pa + k)) && s.accessOk (16 + port) pa n wr

/-- A mailbox write of a resource of the on-chip map: a byte that the resource refuses is not written. -/
def State.spotStore (s : State) (pa : Nat) : List Byte → Got State
  | [] => .ok s
  | b :: t =>
    match spotOf pa with
    | none => .bad cPermission
    | some x =>
      match s.spotWrite none x b with
      | .ok u => State.spotStore u (pa + 1) t
      | r => r

/-- A mailbox read of a resource: its bytes, and whether one of them is poisoned. -/
def State.spotLoad (s : State) (pa : Nat) : Nat → Got (List Byte × Bool)
  | 0 => .ok ([], false)
  | n + 1 =>
    match spotOf pa with
    | none => .bad cPermission
    | some x =>
      let one : Got (Byte × Bool) := match s.spotRead none x, x with
        | .ok b, _ => .ok (b, false)
        | .bad c, .spad core off => if c = cPoison then .ok ((s.spadBytes core off 1).headD 0, true) else .bad c
        | .bad c, _ => .bad c
        | .wait, _ => .wait
      match one, State.spotLoad s (pa + 1) n with
      | .ok b, .ok r => .ok (b.1 :: r.1, b.2 || r.2)
      | .bad c, _ => .bad c
      | _, .bad c => .bad c
      | _, _ => .wait

/-- A refused write is dropped and counted. -/
def State.dropHost (s : State) : State := { s with hostDropped := s.hostDropped + 1 }

/-- A write of a port's mailbox to a peer's window is under way (spec/10 R264). -/
def State.mailboxBusy (s : State) (port : Nat) : Bool := s.remoteOps.any fun r => decide (r.task = 0 ∧ r.slot = port) && !r.performed

/-- A host write through a port's mailbox; each is performed before the next begins. DEDUCED, log entry 58. -/
def execMailboxWrite (port off : Nat) (data : List (BitVec 8)) (s : State) : Host.Outcome State Fault Refusal :=
  let pa := s.regs.mbwin + off
  .next (
    if !s.mailboxOk port off data.length true then s.dropHost
    else if s.mailboxBusy port then s
    else if inRemote pa then
      s.sendOp
        { num := 0, via := none, resent := false, sent := false, slot := port, task := 0, core := 0, launches := [], pa := pa, data := data,
          local_ := false, signal := none, persist := none, after := [], performed := false }
    else if inOnchip pa then
      match s.spotStore pa data with
      | .ok t => t
      | .bad _ => s.dropHost
      | .wait => s
    else settleEvent (mailboxAgent port) s (s.storeAt pa data))

/-- A host read through a port's mailbox: a poisoned granule is answered with its bytes and the mark (spec/14 R358). One of a peer's window that
the peer, or a fence, refuses completes with Completer Abort. DESIGN CHOICE, log entry 126. -/
def execMailboxRead (port off len : Nat) (s : State) : Host.Outcome State Fault Refusal :=
  let pa := s.regs.mbwin + off
  let reply (t : State) (r : HostReply) : State := { t with hostReplies := t.hostReplies ++ [r] }
  .next (
    if !s.mailboxOk port off len false then reply s (.completerAbort port)
    else if s.mailboxBusy port then s
    else if s.remoteHeld pa then s
    else if inRemote pa then
      let r := s.askPeer 0 pa len
      reply r.1 (match r.2 with
        | some bs => .data port bs false
        | none => .completerAbort port)
    else if inOnchip pa then
      match s.spotLoad pa len with
      | .ok r => reply s (.data port r.1 r.2)
      | .bad _ => reply s (.completerAbort port)
      | .wait => s
    else
      let r := s.readPoint pa len
      settleEvent (mailboxAgent port) s (reply (r.1.rangeRead pa len) (.data port r.2 (s.marked pa len))))

end Sys2Proof.Machine
end

