-- ==== Sys2Proof/Machine/Capture.lean ====
section
/-! DEFINITION. The events of a snapshot capture, and the recovery of a lost stripe position (spec/14 R350 to R356, R389, R390). -/

namespace Sys2Proof.Machine

/-- The agent of the snapshot engine, for the list of those that wait. -/
def snapAgent : Nat := 253

/-- A capture begins by a write of START (spec/14 R350). -/
def execSnapCaptureStart (value : BitVec 32) (s : State) : Host.Outcome State Fault Refusal :=
  .next (settleEvent snapAgent s (s.snapWrite value))

/-! ### The image (spec/14 R354) -/

/-- Where the tiles of an image of n tiles begin: after the manifest, at the next 64 KiB boundary. DEDUCED, log entry 101. -/
def imageBody (n : Nat) : Nat := (16 + 8 * n + 65535) / 65536 * 65536

/-- The length of an image of n tiles. -/
def imageLength (n : Nat) : Nat := imageBody n + 65536 * n

/-- Data units of a slot. -/
def Regfile.units (r : Regfile) : Nat := 3 * r.shards / 4

/-- A byte of an image: the tile count, the addresses of the tiles, zeros, and the tiles. DEDUCED, log entry 101. -/
def imageByte (tiles : List (Nat × Sparse 8)) (n : Nat) : Byte :=
  if n < 8 then BitVec.ofNat 8 (tiles.length / 256 ^ n)
  else if n < 16 then 0
  else if n < 16 + 8 * tiles.length then
    BitVec.ofNat 8 (((tiles[(n - 16) / 8]?).map fun e => e.1 * 65536).getD 0 / 256 ^ ((n - 16) % 8))
  else if n < imageBody tiles.length then 0
  else match tiles[(n - imageBody tiles.length) / 65536]? with
    | some e => e.2.get ((n - imageBody tiles.length) % 65536)
    | none => 0

/-- A data unit of an image. -/
def dataUnit (tiles : List (Nat × Sparse 8)) (size k : Nat) : List Byte := (List.range size).map fun n => imageByte tiles (k * size + n)

/-- The other positions of a stripe group, in ascending order. -/
def otherPositions (p : Nat) : List Nat := [0, 1, 2, 3].filter fun n => decide (n ≠ p)

/-- The place of a position among the positions other than p. -/
def placeAmong (p n : Nat) : Nat := (indexWhere (fun x => decide (x = n)) (otherPositions p)).getD 0

/-- The data unit of position p in a stripe whose parity stands elsewhere. -/
def unitIn (p stripe : Nat) : Nat := 3 * (stripe / 4) + placeAmong p (stripe % 4)

/-- The bytewise exclusive or of lists of n bytes. -/
def xorBytes (n : Nat) (ls : List (List Byte)) : List Byte := (List.range n).map fun i => ls.foldl (fun x l => x ^^^ l.getD i 0) 0

/-- A shard of this package's slot; `peers` holds the data units of the other positions in ascending order, one unit after another. -/
def Regfile.shard (r : Regfile) (tiles : List (Nat × Sparse 8)) (peers : List (List Byte)) (s : Nat) : List Byte :=
  let u := r.shardSize
  if !r.stripe then dataUnit tiles u s
  else if s % 4 = r.gpos then
    xorBytes u ((otherPositions r.gpos).map fun p => ((peers.getD (placeAmong r.gpos p) []).drop (unitIn p s * u)).take u)
  else dataUnit tiles u (unitIn r.gpos s)

/-! ### The capture (spec/14 R352, R353) -/

/-- A capture whose every tile is in the image goes on to striping. -/
def State.settleCapture (s : State) : State :=
  let x := s.snap
  if x.state = 1 ∧ x.cut = true ∧ x.uncaptured = [] ∧ x.copying = [] ∧ x.staged = [] then { s with snap := { x with state := 2 } } else s

/-- The cut closes: every STEP tile is uncaptured. An image longer than the slot's data units fails the capture. -/
def execCutClose (s : State) : Host.Outcome State Fault Refusal :=
  .next (
    if s.snap.state ≠ 1 ∨ s.snap.cut = true then s
    else
      let tiles := s.stepTiles
      if s.regs.units * s.regs.shardSize < imageLength tiles.length then s.failCapture 2
      else ({ s with snap := { s.snap with cut := true, uncaptured := tiles } } : State).settleCapture)

/-- Tiles that the staging area holds. -/
def Regfile.stageRoom (r : Regfile) : Nat := r.stagesize / 65536

/-- The staging area is full, and a write waits for room in it. -/
def State.stagingFull (s : State) : Bool := decide (s.regs.stageRoom ≤ s.snap.staged.length) && decide (s.snap.copying ≠ [])

/-- The snapshot agents may read a tile. -/
def State.tileOk (s : State) (tile : Nat) : Bool := s.snapOk (tile * 65536) 65536 false

/-- An agent copies the lowest uncaptured tile into the image; a staged tile goes first while a write waits for its space. A tile that the
agents may not read fails the capture (spec/14 R360). DEDUCED, log entries 22, 102. -/
def execTileCapture (s : State) : Host.Outcome State Fault Refusal :=
  .next (match s.snap.uncaptured with
    | [] => s
    | t :: rest =>
      if s.snap.state ≠ 1 ∨ s.snap.cut = false ∨ s.stagingFull = true then s
      else if !s.tileOk t then s.failCapture 3
      else ({ s with snap := { s.snap with uncaptured := rest, image := Assoc.put s.snap.image t (s.tileImage t) } } : State).settleCapture)

/-- The lowest place of the staging area that holds no tile. -/
def Snap.freePlace (x : Snap) (room : Nat) : Option Nat := (List.range room).find? fun n => !(x.staged.any fun e => decide (e.2 = n))

/-- The address of a place of the staging area. -/
def Regfile.stageAt (r : Regfile) (n : Nat) : Nat := r.stagebase + 65536 * n

/-- A tile that a write waits for is copied to the staging area, and is captured. A tile that the agents may not read, or a place that
they may not write, fails the capture (spec/14 R360). DEDUCED, log entry 102. -/
def execCowCopy (tile : Nat) (s : State) : Host.Outcome State Fault Refusal :=
  .next (
    if s.snap.state ≠ 1 ∨ s.snap.copying.contains tile = false then s
    else match s.snap.freePlace s.regs.stageRoom with
      | none => s
      | some n =>
        if !s.tileOk tile || !s.snapOk (s.regs.stageAt n) 65536 true then s.failCapture 3
        else
          let t := s.storeRun (s.regs.stageAt n) (s.bytesAt (tile * 65536) 65536)
          settleEvent snapAgent s
            { t with snap := { t.snap with
                copying := delNat tile t.snap.copying
                waiters := t.snap.waiters.filter fun x => !decide (x.1 = tile)
                staged := Assoc.put t.snap.staged tile n } })

/-- The 64 KiB of a place of the staging area. -/
def State.stagedImage (s : State) (n : Nat) : Sparse 8 :=
  let a := s.regs.stageAt n
  (s.mem.filter fun c => decide (a ≤ c.1 ∧ c.1 < a + 65536)).map fun c => (c.1 - a, c.2)

/-- The staged tile with the lowest address is written into the image, and its place is free. -/
def execStagedTileWrite (s : State) : Host.Outcome State Fault Refusal :=
  .next (match s.snap.staged with
    | [] => s
    | e :: rest =>
      if s.snap.state ≠ 1 then s
      else if !s.snapOk (s.regs.stageAt e.2) 65536 false then s.failCapture 3
      else ({ s with snap := { s.snap with staged := rest, image := Assoc.put s.snap.image e.1 (s.stagedImage e.2) } } : State).settleCapture)

/-! ### Shards (spec/14 R354, R355, R389) -/

/-- The package identifier of a stripe position; zero for another position of an image kept in this package only. DEDUCED, log entry 101. -/
def State.positionPkg (s : State) (p : Nat) : Nat :=
  if p = s.regs.gpos then s.regs.pkgid
  else if !s.regs.stripe then 0
  else peerPkg (s.peer (s.regs.stripePeers.getD ((p + 4 - s.regs.gpos) % 4 - 1) 0))

/-- A slot header, but for its valid mark. DEDUCED, log entry 101. -/
def State.slotHeader (s : State) : List Byte :=
  let r := s.regs
  leBytes 4 0x534E4150 ++ leBytes 2 s.snap.step ++ [BitVec.ofNat 8 r.gpos, BitVec.ofNat 8 r.unit] ++ leBytes 4 r.shards ++
    [if r.stripe then 1 else 0] ++ leBytes 3 0 ++ leBytes 8 s.snap.image.length ++
    leBytes 8 ((List.range 4).map fun p => s.positionPkg p * 2 ^ (16 * p)).sum ++ leBytes 24 0

/-- The shards that a capture writes. -/
def Regfile.shardCount (r : Regfile) : Nat := if r.stripe then r.shards else r.units

/-- Every shard is written, and once all packages report theirs durable, the header and then the valid mark; a lost peer fails it. DEDUCED,
log entry 22. -/
def execShardsDurable (peerShards : List (List (BitVec 8))) (s : State) : Host.Outcome State Fault Refusal :=
  let slot := s.regs.slotOf s.snap.step
  .next (
    if s.snap.state ≠ 2 then s
    else if s.stripeLost then s.failCapture 1
    else
      let t := foldState (fun t k => t.durable (slot + 4096 + k * s.regs.shardSize) (s.regs.shard s.snap.image peerShards k)) s
        (List.range s.regs.shardCount)
      let u := (t.durable slot s.slotHeader).durable (slot + 0x38) (leBytes 8 1)
      settleEvent snapAgent s <| if u.snap.state = 3 then u else { u with snap := { u.snap with state := 0, cut := false, image := [], waiters := [] } })

/-! ### Recovery (spec/14 R356, spec/15 R374) -/

/-- The peer entry of SNAPCFG for a position. -/
def Regfile.entryOf (r : Regfile) (p : Nat) : Nat := r.stripePeers.getD ((p + 4 - r.gpos) % 4 - 1) 0

/-- What a valid slot holds. -/
structure SlotInfo where
  base : Nat
  step : Nat
  gpos : Nat
  size : Nat
  stripe : Bool
  deriving DecidableEq, Repr

/-- The slot of a number, where its mark says that it is complete. -/
def State.slotInfo (s : State) (k : Nat) : Option SlotInfo :=
  let base := s.regs.slotOf k
  if s.snapOk base 4096 false = true ∧ s.valueAt base 4 = 0x534E4150 ∧ s.valueAt (base + 0x38) 8 = 1 then
    some { base := base, step := s.valueAt (base + 4) 2, gpos := s.valueAt (base + 6) 1 % 4, size := 32 * 2 ^ (s.valueAt (base + 7) 1 % 16),
           stripe := decide (s.valueAt (base + 12) 1 % 2 = 1) }
  else none

/-- The valid slot with the greater STEP. -/
def State.lastSlot (s : State) : Option SlotInfo :=
  match s.slotInfo 0, s.slotInfo 1 with
  | some a, some b => some (if a.step < b.step then b else a)
  | some a, none => some a
  | none, b => b

/-- Where a byte of a slot's image lies. -/
def SlotInfo.at (x : SlotInfo) (n : Nat) : Nat :=
  let k := n / x.size
  let s := if x.stripe then 4 * (k / 3) + (otherPositions x.gpos).getD (k % 3) 0 else k
  x.base + 4096 + s * x.size + n % x.size

/-- Bytes of a slot's image. -/
def State.slotBytes (s : State) (x : SlotInfo) (a n : Nat) : List Byte := (List.range n).map fun i => Sparse.get s.mem (x.at (a + i))

/-- The step in hand ends at once with FAILED, and changes nothing. -/
def State.failStep (s : State) : State := { s with recover := { s.recover with running := false, failed := true, done := true } }

/-- The step in hand has acted; its completion is reported by an event of its own. -/
def State.actStep (s : State) : State := { s with recover := { s.recover with acted := true } }

/-- A recovery step of a number, where it is the one in hand: it fails, or it acts. -/
def State.recoveryStep (s : State) (step : Nat) (ok : State → Bool) (act : State → State) : State :=
  let r := s.recover
  if r.running = false ∨ r.acted = true ∨ r.step ≠ step then s
  else
    let own := decide (s.regs.gpos = r.lost)
    let order := decide (step = 1) || own || r.good.contains (step - 1, r.lost)
    if !order || (own && decide (step ≠ 5)) || !ok s then s.failStep else (act s).actStep

/-- The package at the lost position. -/
def State.lostPkg (s : State) : Nat := peerPkg (s.peer (s.regs.entryOf s.recover.lost))

/-- The entries that name a package. -/
def State.naming (s : State) (pkg : Nat) : List Nat :=
  (s.peerTable.filter fun e => decide (2 ≤ e.1) && peerValid e.2 && decide (peerPkg e.2 = pkg)).map (·.1)

/-- A peer entry with another STATE and PKG. -/
def peerWith (e : DWord) (state pkg : Nat) : DWord :=
  BitVec.ofNat 64 (e.toNat / 2 ^ 63 * 2 ^ 63 + state * 2 ^ 61 + e.toNat / 2 ^ 60 % 2 * 2 ^ 60 + pkg * 2 ^ 48 + e.toNat % 2 ^ 48)

/-- Entries changed. -/
def State.setPeers (s : State) (es : List Nat) (state pkg : Nat) : State :=
  foldState (fun s e => s.setPeer e (peerWith (s.peer e) state pkg)) s es

/-- Step 1: every peer entry that names the lost position is fenced. -/
def execRecoverFence (s : State) : Host.Outcome State Fault Refusal :=
  .next (s.recoveryStep 1 (fun s => decide (2 ≤ s.regs.entryOf s.recover.lost) && peerValid (s.peer (s.regs.entryOf s.recover.lost)))
    fun s => (s.setPeers (s.naming s.lostPkg) 1 s.lostPkg).checkStripe)

/-- Step 2: the election, which every survivor computes alike. DEDUCED, log entry 60. -/
def execRecoverElect (s : State) : Host.Outcome State Fault Refusal := .next (s.recoveryStep 2 (fun _ => true) id)

/-- Step 3: this package's rebuilt shards go to the replacement's slot, outside this package (log entry 60). -/
def execRecoverRebuild (ok : Bool) (s : State) : Host.Outcome State Fault Refusal :=
  .next (s.recoveryStep 3 (fun s => ok && s.lastSlot.isSome) id)

/-- Step 4: the entries that named the lost position name the replacement, and are up. -/
def execRecoverRemap (s : State) : Host.Outcome State Fault Refusal :=
  .next (s.recoveryStep 4 (fun _ => true) fun s => s.setPeers (s.naming s.lostPkg) 0 s.recover.newpkg)

/-- Bytes of a slot's image as the agents read them, in whole units of its shards; none where they may not read one (spec/14 R360). The read
waits for a tile as any does (spec/13 R331). -/
def State.slotRead (s : State) (x : SlotInfo) (a n : Nat) : State × Option (List Byte) :=
  let units := (List.range ((a + n + x.size - 1) / x.size - a / x.size)).map (a / x.size + ·)
  if units.all fun k => s.snapOk (x.at (k * x.size)) x.size false then
    (foldState (fun t k => (t.readRange (x.at (k * x.size)) x.size).1) s units, some (s.slotBytes x a n))
  else (s, none)

/-- A tile of a slot's image written back to its address; one that the agents may not read, or may not write, keeps its bytes (spec/14 R360).
DESIGN CHOICE, log entry 118. -/
def State.restoreTile (s : State) (x : SlotInfo) (count k : Nat) : State :=
  let d := s.slotRead x (16 + 8 * k) 8
  match d.2 with
  | none => s
  | some b =>
    let a := leNat b
    let r := d.1.slotRead x (imageBody count + 65536 * k) 65536
    match r.2 with
    | none => s
    | some bs => if s.snapOk a 65536 true then r.1.storeRun a bs else r.1

/-- The tiles of a slot's image written back. -/
def State.restoreTiles (s : State) (x : SlotInfo) : State :=
  let r := s.slotRead x 0 8
  match r.2 with
  | none => s
  | some b => foldState (fun u k => u.restoreTile x (leNat b) k) r.1 (List.range (leNat b))

/-- Step 5: this package restores its slot. -/
def execRecoverResume (s : State) : Host.Outcome State Fault Refusal :=
  .next (settleEvent snapAgent s (s.recoveryStep 5 (fun s => s.lastSlot.isSome) fun s => match s.lastSlot with
    | some x => s.restoreTiles x
    | none => s))

/-- A request to the lost package is outstanding. -/
def State.requestsTo (s : State) (pkg : Nat) : Bool :=
  s.remoteOps.any fun r => inRemote r.pa && decide (peerPkg (s.peer (remoteEntry r.pa)) = pkg)

/-- The step in hand reports its completion; a fence does once no request to the lost package is outstanding. -/
def execRecoverStepDone (s : State) : Host.Outcome State Fault Refusal :=
  let r := s.recover
  .next (
    if r.running = false ∨ r.acted = false ∨ (r.step = 1 ∧ s.requestsTo s.lostPkg = true) then s
    else { s with recover := { r with running := false, done := true, good := if r.good.contains (r.step, r.lost) then r.good else r.good ++ [(r.step, r.lost)] } })

end Sys2Proof.Machine
end

