-- ==== Sys2Proof/Machine/VectorInt.lean ====
section
/-! DEFINITION. The integer vector instructions: majors 0x00 to 0x03, the integer unary forms of major 0x08, `vrand`, `vcmp` and
`vshfl` (spec/05 R124 to R126, R130 to R132, R136, R137, R143). -/

namespace Sys2Proof.Machine

/-- A result in vd of the active lanes, ready after lat cycles; with no active lane nothing changes (spec/05 R124, spec/04 R120). -/
def State.vecResult (s : State) (lat : Nat) (vd : VReg) (f : Nat → Word) : State :=
  if s.issue.activeLanes = [] then s else s.later lat (.vec vd.toNat (s.issue.activeLanes.map fun l => (l, f l)))

/-- An integer vector operation on each active lane, of latency 2 (spec/05 R126, R131, spec/04 R119). -/
def vecInt (q : Sched) (instr : Instr) (vd : VReg) (f : Issue → Nat → Word) (s : State) : Host.Outcome State Fault Refusal :=
  issueWord q instr s fun t _ => .done (t.vecResult 2 vd (f t.issue))

/-- A source lane of va. -/
def Issue.va (i : Issue) (va : VReg) (l : Nat) : Word := i.src.lane va.toNat l

/-- `vadd vd, va, b`: (va + b) mod 2^32 (spec/05 R126). -/
def execVadd (q : Sched) (vd va : VReg) (b : VSrc) (s : State) : Host.Outcome State Fault Refusal :=
  vecInt q (.vadd q vd va b) vd (fun i l => let x := i.va va l; let y := i.vint b l; x + y) s

/-- `vsub vd, va, b`: (va − b) mod 2^32 (spec/05 R126). -/
def execVsub (q : Sched) (vd va : VReg) (b : VSrc) (s : State) : Host.Outcome State Fault Refusal :=
  vecInt q (.vsub q vd va b) vd (fun i l => let x := i.va va l; let y := i.vint b l; x - y) s

/-- `vmul vd, va, b`: bits [31:0] of va × b (spec/05 R126). -/
def execVmul (q : Sched) (vd va : VReg) (b : VSrc) (s : State) : Host.Outcome State Fault Refusal :=
  vecInt q (.vmul q vd va b) vd (fun i l => let x := i.va va l; let y := i.vint b l; x * y) s

/-- `vmulhi vd, va, b`: bits [63:32] of the signed product (spec/05 R126). -/
def execVmulhi (q : Sched) (vd va : VReg) (b : VSrc) (s : State) : Host.Outcome State Fault Refusal :=
  vecInt q (.vmulhi q vd va b) vd (fun i l => let x := i.va va l; let y := i.vint b l; mulHigh x y) s

/-- `vand vd, va, b`: va AND b (spec/05 R126). -/
def execVand (q : Sched) (vd va : VReg) (b : VSrc) (s : State) : Host.Outcome State Fault Refusal :=
  vecInt q (.vand q vd va b) vd (fun i l => let x := i.va va l; let y := i.vint b l; x &&& y) s

/-- `vor vd, va, b`: va OR b (spec/05 R126). -/
def execVor (q : Sched) (vd va : VReg) (b : VSrc) (s : State) : Host.Outcome State Fault Refusal :=
  vecInt q (.vor q vd va b) vd (fun i l => let x := i.va va l; let y := i.vint b l; x ||| y) s

/-- `vxor vd, va, b`: va XOR b (spec/05 R126). -/
def execVxor (q : Sched) (vd va : VReg) (b : VSrc) (s : State) : Host.Outcome State Fault Refusal :=
  vecInt q (.vxor q vd va b) vd (fun i l => let x := i.va va l; let y := i.vint b l; x ^^^ y) s

/-- `vshl vd, va, b`: va shifted left by b[4:0] (spec/05 R126). -/
def execVshl (q : Sched) (vd va : VReg) (b : VSrc) (s : State) : Host.Outcome State Fault Refusal :=
  vecInt q (.vshl q vd va b) vd (fun i l => let x := i.va va l; let y := i.vint b l; x <<< shiftBy y) s

/-- `vshr vd, va, b`: va shifted right by b[4:0], zeros entering (spec/05 R126). -/
def execVshr (q : Sched) (vd va : VReg) (b : VSrc) (s : State) : Host.Outcome State Fault Refusal :=
  vecInt q (.vshr q vd va b) vd (fun i l => let x := i.va va l; let y := i.vint b l; x >>> shiftBy y) s

/-- `vsra vd, va, b`: va shifted right by b[4:0], copies of the sign entering (spec/05 R126). -/
def execVsra (q : Sched) (vd va : VReg) (b : VSrc) (s : State) : Host.Outcome State Fault Refusal :=
  vecInt q (.vsra q vd va b) vd (fun i l => let x := i.va va l; let y := i.vint b l; x.sshiftRight (shiftBy y)) s

/-- `vmin vd, va, b`: the lesser, signed (spec/05 R126). -/
def execVmin (q : Sched) (vd va : VReg) (b : VSrc) (s : State) : Host.Outcome State Fault Refusal :=
  vecInt q (.vmin q vd va b) vd (fun i l => let x := i.va va l; let y := i.vint b l; minS x y) s

/-- `vmax vd, va, b`: the greater, signed (spec/05 R126). -/
def execVmax (q : Sched) (vd va : VReg) (b : VSrc) (s : State) : Host.Outcome State Fault Refusal :=
  vecInt q (.vmax q vd va b) vd (fun i l => let x := i.va va l; let y := i.vint b l; maxS x y) s

/-- `vminu vd, va, b`: the lesser, unsigned (spec/05 R126). -/
def execVminu (q : Sched) (vd va : VReg) (b : VSrc) (s : State) : Host.Outcome State Fault Refusal :=
  vecInt q (.vminu q vd va b) vd (fun i l => let x := i.va va l; let y := i.vint b l; minU x y) s

/-- `vmaxu vd, va, b`: the greater, unsigned (spec/05 R126). -/
def execVmaxu (q : Sched) (vd va : VReg) (b : VSrc) (s : State) : Host.Outcome State Fault Refusal :=
  vecInt q (.vmaxu q vd va b) vd (fun i l => let x := i.va va l; let y := i.vint b l; maxU x y) s

/-- `vabsd vd, va, b`: |va − b|, the difference exact (spec/05 R126). -/
def execVabsd (q : Sched) (vd va : VReg) (b : VSrc) (s : State) : Host.Outcome State Fault Refusal :=
  vecInt q (.vabsd q vd va b) vd (fun i l => let x := i.va va l; let y := i.vint b l; absDiff x y) s

/-- `vmad vd, va, b`: (va × b + vd) mod 2^32 (spec/05 R126). -/
def execVmad (q : Sched) (vd va : VReg) (b : VSrc) (s : State) : Host.Outcome State Fault Refusal :=
  vecInt q (.vmad q vd va b) vd (fun i l => i.va va l * i.vint b l + i.va vd l) s

/-- `vmov vd, b`: b (spec/05 R131). -/
def execVmov (q : Sched) (vd : VReg) (b : VSrc) (s : State) : Host.Outcome State Fault Refusal :=
  vecInt q (.vmov q vd b) vd (fun i l => let x := i.vint b l; x) s

/-- `vnot vd, b`: NOT b (spec/05 R131). -/
def execVnot (q : Sched) (vd : VReg) (b : VSrc) (s : State) : Host.Outcome State Fault Refusal :=
  vecInt q (.vnot q vd b) vd (fun i l => let x := i.vint b l; ~~~x) s

/-- `vneg vd, b`: (0 − b) mod 2^32 (spec/05 R131). -/
def execVneg (q : Sched) (vd : VReg) (b : VSrc) (s : State) : Host.Outcome State Fault Refusal :=
  vecInt q (.vneg q vd b) vd (fun i l => let x := i.vint b l; 0 - x) s

/-- `vabs vd, b`: |b| for signed b, mod 2^32 (spec/05 R131). -/
def execVabs (q : Sched) (vd : VReg) (b : VSrc) (s : State) : Host.Outcome State Fault Refusal :=
  vecInt q (.vabs q vd b) vd (fun i l => let x := i.vint b l; if x.msb then 0 - x else x) s

/-- `vpopc vd, b`: the number of set bits (spec/05 R131). -/
def execVpopc (q : Sched) (vd : VReg) (b : VSrc) (s : State) : Host.Outcome State Fault Refusal :=
  vecInt q (.vpopc q vd b) vd (fun i l => let x := i.vint b l; BitVec.ofNat 32 (popCount x)) s

/-- `vclz vd, b`: the number of leading zero bits (spec/05 R131). -/
def execVclz (q : Sched) (vd : VReg) (b : VSrc) (s : State) : Host.Outcome State Fault Refusal :=
  vecInt q (.vclz q vd b) vd (fun i l => let x := i.vint b l; BitVec.ofNat 32 (leadingZeros x)) s

/-- `vbrev vd, b`: bit i moved to bit 31 − i (spec/05 R131). -/
def execVbrev (q : Sched) (vd : VReg) (b : VSrc) (s : State) : Host.Outcome State Fault Refusal :=
  vecInt q (.vbrev q vd b) vd (fun i l => let x := i.vint b l; reverseBits x) s

/-- The offset and the width of a field descriptor (spec/05 R132). -/
def bitFieldOf (lit : Word) : Nat × Nat := (lit.toNat % 32, lit.toNat / 256 % 64)

/-- `vbfe vd, b, o, w`: a field of b, zero-extended (spec/05 R132). -/
def execVbfe (q : Sched) (vd : VReg) (b : VSrc) (s : State) : Host.Outcome State Fault Refusal :=
  vecInt q (.vbfe q vd b) vd (fun i l => let f := bitFieldOf i.held.literal; extractField (i.vint b l) f.1 f.2) s

/-- `vbfi vd, b, o, w`: vd with a field replaced by the low bits of b (spec/05 R132). -/
def execVbfi (q : Sched) (vd : VReg) (b : VSrc) (s : State) : Host.Outcome State Fault Refusal :=
  vecInt q (.vbfi q vd b) vd (fun i l => let f := bitFieldOf i.held.literal; insertField (i.va vd l) (i.vint b l) f.1 f.2) s

/-- `vbcast vd, b, n`: b as lane n holds it (spec/05 R132); constants and the lane index are taken as in `vmov` of lane n. -/
def execVbcast (q : Sched) (vd : VReg) (b : VSrc) (s : State) : Host.Outcome State Fault Refusal :=
  vecInt q (.vbcast q vd b) vd (fun i _ => i.vint b i.held.literal.toNat) s

/-- `vrand vd, b`: the counter generator for each lane, of latency 4 (spec/05 R143). -/
def execVrand (q : Sched) (vd : VReg) (b : VSrc) (s : State) : Host.Outcome State Fault Refusal :=
  issueWord q (.vrand q vd b) s fun t w => .done (t.vecResult 4 vd fun l => vrand w.seed (t.issue.vint b l) l)

/-- A compare: the bits of the active lanes of md, the other bits kept (spec/05 R136). -/
def State.compare (s : State) (lat : Nat) (md : BitVec 4) (w : Wave) (f : Nat → Bool) : State :=
  if s.issue.activeLanes = [] then s
  else s.laterMask lat md.toNat ((w.maskFinal md.toNat &&& ~~~s.issue.active) ||| maskOf (s.issue.activeLanes.filter f))

/-- `vcmp.cond md, va, b` (spec/05 R136). -/
def execVcmp (q : Sched) (cond : ICond) (md : BitVec 4) (va : VReg) (b : VSrc) (s : State) : Host.Outcome State Fault Refusal :=
  issueWord q (.vcmp q cond md va b) s fun t w =>
    .done (t.compare 2 md w fun l => ICond.eval cond (t.issue.va va l) (t.issue.vint b l))

/-- The source lane of a shuffle, before the range and activity test (spec/05 R137). -/
def shuffleSource (m : ShflMode) (l k : Nat) : Int :=
  match m with
  | .idx => k
  | .xor => (Nat.xor l k : Nat)
  | .up => (l : Int) - k
  | .down => (l : Int) + k

/-- `vshfl.mode vd, va, b`, a variable-latency result (spec/05 R137). -/
def execVshfl (q : Sched) (mode : ShflMode) (vd va : VReg) (b : VSrc) (s : State) : Host.Outcome State Fault Refusal :=
  issueWord q (.vshfl q mode vd va b) s fun t w =>
    let i := t.issue
    let val (l : Nat) : Word :=
      let n := shuffleSource mode l (i.vint b l).toNat
      if 0 ≤ n ∧ n < w.hdr.width ∧ i.active.getLsbD n.toNat = true then i.va va n.toNat else i.va va l
    .done (if i.activeLanes = [] then t else t.putNow (.vec vd.toNat (i.activeLanes.map fun l => (l, val l))))

end Sys2Proof.Machine
end

