-- ==== Sys2Proof/Machine/CrossLane.lean ====
section
/-! DEFINITION. The mask instructions of major 0x16 and the cross-lane instructions of major 0x15 (spec/05 R138 to R141, R144 to
R146). -/

namespace Sys2Proof.Machine

/-- A mask operation of latency 1; the waiters of the mask are tested (spec/05 R141, spec/01 R23). -/
def maskOp (q : Sched) (instr : Instr) (md : BitVec 6) (f : Issue → DWord) (s : State) : Host.Outcome State Fault Refusal :=
  issueWord q instr s fun t w => .done (t.laterMask 1 md.toNat (f t.issue &&& w.mask))

/-- `mand md, ma, mb`: ma AND mb (spec/05 R141). -/
def execMand (q : Sched) (md ma : BitVec 6) (mb : BitVec 4) (s : State) : Host.Outcome State Fault Refusal :=
  maskOp q (.mand q md ma mb) md (fun i => let x := i.src.mask ma.toNat; let y := i.src.mask mb.toNat; x &&& y) s

/-- `mor md, ma, mb`: ma OR mb (spec/05 R141). -/
def execMor (q : Sched) (md ma : BitVec 6) (mb : BitVec 4) (s : State) : Host.Outcome State Fault Refusal :=
  maskOp q (.mor q md ma mb) md (fun i => let x := i.src.mask ma.toNat; let y := i.src.mask mb.toNat; x ||| y) s

/-- `mxor md, ma, mb`: ma XOR mb (spec/05 R141). -/
def execMxor (q : Sched) (md ma : BitVec 6) (mb : BitVec 4) (s : State) : Host.Outcome State Fault Refusal :=
  maskOp q (.mxor q md ma mb) md (fun i => let x := i.src.mask ma.toNat; let y := i.src.mask mb.toNat; x ^^^ y) s

/-- `mandn md, ma, mb`: ma AND NOT mb (spec/05 R141). -/
def execMandn (q : Sched) (md ma : BitVec 6) (mb : BitVec 4) (s : State) : Host.Outcome State Fault Refusal :=
  maskOp q (.mandn q md ma mb) md (fun i => let x := i.src.mask ma.toNat; let y := i.src.mask mb.toNat; x &&& ~~~y) s

/-- `mmov md, ma` (spec/05 R141). -/
def execMmov (q : Sched) (md ma : BitVec 6) (s : State) : Host.Outcome State Fault Refusal := maskOp q (.mmov q md ma) md (fun i => i.src.mask ma.toNat) s

/-- `mpopc sd, ma`: the number of set bits (spec/05 R141). -/
def execMpopc (q : Sched) (sd : SReg) (ma : BitVec 6) (s : State) : Host.Outcome State Fault Refusal :=
  issueWord q (.mpopc q sd ma) s fun t _ => .done (t.later 1 (.sca sd.toNat (BitVec.ofNat 32 (popCount (t.issue.src.mask ma.toNat)))))

/-- The lowest set bit alone. -/
def lowestBit (x : DWord) : DWord := x &&& (0 - x)

/-- `mfirst md, ma`: the lowest set bit alone, 0 for 0 (spec/05 R141). -/
def execMfirst (q : Sched) (md ma : BitVec 6) (s : State) : Host.Outcome State Fault Refusal :=
  maskOp q (.mfirst q md ma) md (fun i => lowestBit (i.src.mask ma.toNat)) s

/-- `mset md, sA`: the scalar pair, low word in sA (spec/05 R141). -/
def execMset (q : Sched) (md : BitVec 6) (sa : SReg) (s : State) : Host.Outcome State Fault Refusal := maskOp q (.mset q md sa) md (fun i => i.src.pair sa.toNat) s

/-- `mget sD, ma`: the mask in a scalar pair (spec/05 R141). -/
def execMget (q : Sched) (sd : SReg) (ma : BitVec 6) (s : State) : Host.Outcome State Fault Refusal :=
  issueWord q (.mget q sd ma) s fun t _ =>
    let x := t.issue.src.mask ma.toNat
    .done ((t.later 1 (.sca sd.toNat (lowHalf x))).later 1 (.sca (sd.toNat + 1) (highHalf x)))

/-- The effect of a cross-lane instruction, none where no lane is active (spec/05 R124, R138). -/
def crossOp (q : Sched) (instr : Instr) (f : State → Wave → State) (s : State) : Host.Outcome State Fault Refusal :=
  issueWord q instr s fun t w => .done (if t.issue.activeLanes = [] then t else f t w)

/-- `vrfl sd, va`: va of the lowest active lane (spec/05 R138). -/
def execVrfl (q : Sched) (sd : SReg) (va : VReg) (s : State) : Host.Outcome State Fault Refusal :=
  crossOp q (.vrfl q sd va) (fun t _ => t.later 6 (.sca sd.toNat (t.issue.va va (leaderOf t.issue.active)))) s

/-- A lane access acts where a lane is active, and always inside a handler (spec/05 R138, R146). -/
def laneOp (q : Sched) (instr : Instr) (f : State → Wave → State) (s : State) : Host.Outcome State Fault Refusal :=
  issueWord q instr s fun t w => .done (if t.issue.activeLanes = [] ∧ w.handler = none then t else f t w)

/-- A result of latency 6 outside a handler, and of variable latency inside it (spec/04 R119, spec/05 R146). -/
def State.crossResult (s : State) (w : Wave) (l : Landing) : State := if w.handler.isSome then s.putNow l else s.later 6 l

/-- `vrdln sd, va, sL`: lane sL of va, 0 beyond the width (spec/05 R138). -/
def execVrdln (q : Sched) (sd sl : SReg) (va : VReg) (s : State) : Host.Outcome State Fault Refusal :=
  laneOp q (.vrdln q sd sl va) (fun t w =>
    let n := (t.issue.src.scalar sl.toNat).toNat
    t.crossResult w (.sca sd.toNat (if n < w.hdr.width then t.issue.va va n else 0))) s

/-- `vwrln vd, sb, sL`: sb into lane sL of vd, nothing beyond the width (spec/05 R138). -/
def execVwrln (q : Sched) (sl : SReg) (vd : VReg) (sb : SReg) (s : State) : Host.Outcome State Fault Refusal :=
  laneOp q (.vwrln q sl vd sb) (fun t w =>
    let n := (t.issue.src.scalar sl.toNat).toNat
    if n < w.hdr.width then t.crossResult w (.vec vd.toNat [(n, t.issue.src.scalar sb.toNat)]) else t) s

/-- `vmatch vd, va`: the mask of the active lanes with an equal value, low word in vd (spec/05 R139). -/
def execVmatch (q : Sched) (vd va : VReg) (s : State) : Host.Outcome State Fault Refusal :=
  crossOp q (.vmatch q vd va) (fun t _ =>
    let i := t.issue
    let m (l : Nat) : DWord := maskOf (i.activeLanes.filter fun k => decide (i.va va k = i.va va l))
    (t.later 6 (.vec vd.toNat (i.activeLanes.map fun l => (l, lowHalf (m l))))).later 6
      (.vec (vd.toNat + 1) (i.activeLanes.map fun l => (l, highHalf (m l))))) s

/-- `vballot md, va`: the active lanes whose value is not zero (spec/05 R138). -/
def execVballot (q : Sched) (md : BitVec 4) (va : VReg) (s : State) : Host.Outcome State Fault Refusal :=
  crossOp q (.vballot q md va) (fun t _ =>
    t.laterMask 6 md.toNat (maskOf (t.issue.activeLanes.filter fun l => decide (t.issue.va va l ≠ 0)))) s

/-- The fold of the active lanes (spec/05 R140). -/
def Issue.fold (i : Issue) (w : Wave) (op : RedOp) (fl : Bool) (va : VReg) : List (Nat × Option (Flagged Word) × Flagged Word) :=
  foldLanes op fl (i.mode w) (fun l => i.rsr w l false) (i.va va) none i.activeLanes

/-- `vredu.op sd, va` (spec/05 R140). -/
def execVredu (q : Sched) (sd : SReg) (fl : Bool) (op : RedOp) (va : VReg) (s : State) : Host.Outcome State Fault Refusal :=
  crossOp q (.vredu q sd fl op va) (fun t w =>
    match (t.issue.fold w op fl va).getLast? with
    | some r => (t.later 6 (.sca sd.toNat r.2.2.1)).raiseFlags r.2.2.2
    | none => t) s

/-- `vscan.op vd, va`: the running fold, or the fold before each lane (spec/05 R140). -/
def execVscan (q : Sched) (excl fl : Bool) (op : RedOp) (vd va : VReg) (s : State) : Host.Outcome State Fault Refusal :=
  crossOp q (.vscan q excl fl op vd va) (fun t w =>
    let rs := t.issue.fold w op fl va
    let out (r : Nat × Option (Flagged Word) × Flagged Word) : Flagged Word :=
      if excl then (match r.2.1 with
        | some x => x
        | none => (RedOp.identity op fl, 0))
      else r.2.2
    (t.later 6 (.vec vd.toNat (rs.map fun r => (r.1, (out r).1)))).raiseFlags (rs.foldl (fun f r => f ||| (out r).2) 0)) s

/-- `vdraw sD, va, sC`: a weighted draw of one active lane, a variable-latency result (spec/05 R144, R145). -/
def execVdraw (q : Sched) (sd sc : SReg) (va : VReg) (s : State) : Host.Outcome State Fault Refusal :=
  issueWord q (.vdraw q sd sc va) s fun t w =>
    let i := t.issue
    let coin (n : Nat) : Nat := coinBits w.seed (i.src.scalar 63 * 64 + BitVec.ofNat 32 n)
    match drawLanes (Nat.log2 w.hdr.width) i.activeLanes (fun l => (i.va va l).toNat) (i.src.scalar sc.toNat).toNat coin with
    | none => .done t
    | some r =>
      .done ((((t.putNow (.sca sd.toNat r.1.idx)).putNow (.sca (sd.toNat + 1) (BitVec.ofNat 32 r.1.mass))).putNow
        (.sca (sd.toNat + 2) (BitVec.ofNat 32 r.1.top))).raiseFlags r.2)

end Sys2Proof.Machine
end

