-- ==== Sys2Proof/Machine/Queues.lean ====
section
/-! DEFINITION. The persist write-back queues and the background scrub (spec/06 R168, R169, spec/13 R328, R335, R336). -/

namespace Sys2Proof.Machine

/-! ### Entry (spec/13 R335) -/

/-- The group has a byte in common with another. -/
def WbqGroup.shares (g h : WbqGroup) : Bool := g.bytes.any fun b => h.bytes.any fun c => decide (b.1 = c.1)

/-- A group posted earlier keeps a later one from entering: it stands before a `pfence` between them, it writes one of its bytes, or it
waits for room itself (spec/06 R169, spec/13 R335). -/
def State.holdsBack (s : State) (h g : WbqGroup) : Bool :=
  decide (h.task = g.task) && (decide (h.epoch < g.epoch) || h.shares g || !s.fits h)

/-- A persistent `signal` of the task that a `pfence` puts before the group has not been performed (spec/06 R169). -/
def State.signalBefore (s : State) (g : WbqGroup) : Bool :=
  s.remoteOps.any fun r => decide (r.task = g.task) && !r.performed && r.persist.any fun e => decide (e < g.epoch)

/-- The agent that enters a group. -/
def WbqGroup.agent (g : WbqGroup) : Nat := 1000 + 3 * g.num

/-- The n-th waiting group enters its queue, where its order and the queue's room allow it; none starts once power is lost
(spec/13 R335, R337). -/
def execPersistGroupEnter (n : Nat) (s : State) : Host.Outcome State Fault Refusal :=
  .next (match s.persists[n]? with
    | none => s
    | some g =>
      if s.holdUp || !s.fits g || s.signalBefore g || (s.persists.take n).any (fun h => s.holdsBack h g) then s
      else settleEvent g.agent s { (s.enter g) with persists := dropAt n s.persists })

/-! ### The drain (spec/13 R336) -/

/-- A byte that a drain left different from the coherent copy, in a tile served from SCM, is dirty again: a later write of it has been
evicted before. DEDUCED, log entry 91. -/
def State.redirty (s : State) (bytes : List Host.Cell) : State :=
  let stale := bytes.filter fun b => decide ((s.dirOf (b.1 / 65536)).state ≠ 0) && decide (Sparse.get s.mem b.1 ≠ Sparse.get s.scm b.1) &&
    !(s.dies.any fun d => d.2.wbq.any fun g => g.bytes.any fun c => decide (c.1 = b.1))
  { s with dirty := stale.foldl (fun d b => addNat b.1 d) s.dirty }

/-- The package controller may write the lines of a group to SCM (spec/14 R360, master 20). DESIGN CHOICE, log entry 118. -/
def State.drainOk (s : State) (g : WbqGroup) : Bool := g.lines.all fun l => s.accessOk 20 (32 * l) 32 true

/-- The first group of a die's queue is written to SCM and freed. A write that the access table refuses changes no byte, and waits. DEDUCED, log entry 91; DESIGN CHOICE, log entry 118. -/
def execWbqDrainWrite (die : Nat) (s : State) : Host.Outcome State Fault Refusal :=
  .next (match (s.die die).wbq with
    | [] => s
    | g :: rest =>
      if !s.drainOk g then s
      else
        ((s.writeHome g).modDie die fun d => { d with wbq := rest }).redirty g.bytes)

/-! ### Scrub (spec/13 R328) -/

/-- The tile that stands in a frame of the pool, if any, at an address of HBM. -/
def State.tileIn (s : State) (pa : Nat) : Option Nat :=
  (s.dir.find? fun e => s.framed e.1 && decide (s.frameBlock (homeDie (e.1 * 65536)) e.2.frame = pa / 65536)).map (·.1)

/-- A granule of HBM or SCM is marked, whatever copies of its bytes lie above it: in HBM, where a frame holds a tile, that of the tile's bytes
(spec/13 R328, R331). -/
def State.markStored (s : State) (pa : Nat) : State :=
  if inScm pa then foldState (State.markScm · true) s (granuleRows true pa)
  else match s.tileIn pa with
    | some t => s.markBelow true (t * 65536 + pa % 65536 / 32 * 32)
    | none => s.markBelow true (pa / 32 * 32)

/-- The scrub reads a granule of HBM or SCM, where the access table permits it: a single-bit error is corrected and counted, and an
uncorrectable one marks the granule (spec/14 R360, master 20). -/
def execScrub (pa : Nat) (found : ScrubResult) (s : State) : Host.Outcome State Fault Refusal :=
  .next (
    if (!inHbm pa && !inScm pa) || !s.accessOk 20 pa 1 false then s
    else match found with
      | .clean => s
      | .corrected => s.modDie (homeDie pa) fun d => { d with ceCount := (d.ceCount + 1) % 2 ^ 64 }
      | .uncorrectable => s.markStored pa)

end Sys2Proof.Machine
end

