-- ==== Sys2Proof/Machine/Targets.lean ====
section
/-! DEFINITION. The in-field scan facility: its targets, its descriptors and its status record (spec/15 R367, R368, spec/17 R382). -/

namespace Sys2Proof.Machine

/-! ### The status record (spec/15 R368) -/

/-- The status record is written, STATUS last; a write that the access table or a page refuses is dropped (spec/14 R360). DEDUCED, log entry
98. -/
def State.scanRecord (s : State) (ctx va status failmask tstart : Nat) : State :=
  let r := s.engineSpan ctx 0 va 64 true
  match r.2 with
  | .error _ => r.1
  | .ok pa =>
    (r.1.storeAt (pa + 1) ([BitVec.ofNat 8 failmask] ++ leBytes 6 0 ++ leBytes 8 tstart ++ leBytes 8 s.clock.toNat ++ leBytes 40 0)).storeAt pa
      [BitVec.ofNat 8 status]

/-- The scan in hand ends with a status: its record is written and the facility is free. -/
def State.endScan (s : State) (x : Scan) (status failmask : Nat) : State :=
  { s.scanRecord x.ctx x.status status failmask x.tstart with scanning := none }

/-- A scan whose ABORTPRIO an item has reached ends with STATUS 3, and its targets rejoin unchanged. DEDUCED, log entry 98. -/
def State.settleScan (s : State) : State :=
  match s.scanning with
  | some x => if x.abort then s.endScan x 3 0 else s
  | none => s

/-! ### Targets -/

/-- A team is resident on a core. -/
def State.teamOn (s : State) (core : Nat) : Bool :=
  s.teams.any fun e => decide (e.2.core = core ∨ (e.2.paired = true ∧ e.2.core + 1 = core))

/-- The local-queue items of some clusters return to distribution (spec/12 R304). -/
def State.withdraw (s : State) (p : Nat → Bool) : State :=
  { s with items := s.items.map fun e => match e.2.clus with
      | some c => if p c then (e.1, { e.2 with clus := none }) else e
      | none => e }

/-! ### Descriptors (spec/15 R367, spec/17 R382) -/

/-- The scan that a descriptor asks for, with no check of the platform's state; none where the descriptor is invalid. -/
def parseScan (ctx va clock : Nat) (b : List Byte) : Option Scan :=
  let f := fieldOf b
  let mask := f 2 1 % 16
  let matrix := decide (f 2 1 / 16 % 2 = 1)
  if f 0 1 ≤ 3 ∧ f 1 1 ≤ 47 ∧ mask ≠ 0 ∧ f 2 1 / 32 = 0 ∧ (matrix = true → mask = 15) ∧ f 3 1 ≤ 8 ∧ f 4 1 ≤ 15 ∧ f 5 3 = 0 ∧ f 12 4 = 0 ∧
      f 16 8 % 64 = 0 ∧ f 24 40 = 0 then
    some { ctx := ctx, descVa := va, phase := .drain, die := f 0 1, clus := f 1 1, mask := BitVec.ofNat 4 mask, matrix := matrix,
           abortPrio := f 3 1, pattern := f 4 1, drainMax := if f 8 4 = 0 then 10000 else f 8 4, status := f 16 8, tstart := clock,
           abort := false }
  else none

end Sys2Proof.Machine
end

