-- ==== Sys2Proof/Machine/Sched.lean ====
section
/-! DEFINITION. Distribution and placement: what waits, the order of candidates, the room of a core, the reservation, aging, and the
scheduler's pre-emption requests (spec/12 R301 to R308, R315, spec/01 R16, R24, spec/08 R211). -/

namespace Sys2Proof.Machine

/-! ### Aging (spec/12 R301) -/

/-- An item, or a launch's undistributed teams, have waited for 1 ms (spec/12 R301). -/
def execAgingExpiry (item : Nat) (s : State) : Host.Outcome State Fault Refusal :=
  let due (since : Nat) : Bool := decide (since + clocksOf 1000 ≤ s.clock.toNat)
  .next (match s.items.get? item with
    | some it => if due it.since then ({ s with items := s.items.put item { it with aged := true } } : State).reschedule else s
    | none =>
      match s.launches.get? item with
      | some l =>
        if due l.readyAt && (s.launchCand item l).isSome then
          ({ s with launches := s.launches.put item { l with aged := true } } : State).reschedule
        else s
      | none => s)

/-! ### Distribution (spec/12 R304) -/

/-- The rooms of a cluster once the items of its local queue are placed. DESIGN CHOICE, log entry 78. -/
def State.plannedRooms (s : State) (clus : Nat) : List Room :=
  let queue := s.localQueue clus
  (inOrder (fun _ => 0) queue.length queue).foldl (fun rs c => match findPlace c.hdr (s.mayUse c) rs with
    | some x => takeRoom c.hdr x.1 x.2 rs
    | none => rs) (s.rooms clus)

/-- A candidate is distributed to a cluster: a team leaves its launch, and an item joins the local queue. -/
def State.sendTo (s : State) (clus : Nat) (c : Cand) : State :=
  match s.items.get? c.key with
  | some it => { s with items := s.items.put c.key { it with clus := some clus } }
  | none =>
    match s.launches.get? c.key with
    | none => s
    | some l =>
      let key := s.nextNum
      { s with
        nextNum := key + 1
        launches := s.launches.put c.key { l with nextTeam := l.nextTeam + 1, phase := .running }
        items := s.items.put key
          { ctx := l.ctx, kind := .team c.key l.nextTeam, prio := c.prio, since := c.since, aged := c.aged, clus := some clus, hdr := l.hdr }
        reservation := match s.reservation with
          | some (k, r) => if k = c.key then some (key, r) else some (k, r)
          | none => none }

/-- The instance of a cluster-scope `wbar` that a candidate belongs to: its launch, GROUP, and the number of the group (spec/08 R210). -/
def State.wbarGroupOf (s : State) (c : Cand) : Option (Nat × Nat × Nat) :=
  match c.launch with
  | none => none
  | some k =>
    let g := match (s.items.get? c.key).map (·.kind) with
      | some (.continuation sp) => sp.team.wbarGroup
      | _ => ((s.launches.get? k).bind (·.wbarGroup)).getD 0
    if g = 0 then none else some (k, g, c.number / g)

/-- The clusters where teams of the candidate's group stand, resident or in a local queue. -/
def State.groupClusters (s : State) (c : Cand) : List Nat :=
  match s.wbarGroupOf c with
  | none => []
  | some (k, g, n) =>
    (s.teams.filterMap fun e => if e.2.launch = some k ∧ e.2.number / g = n then some (clusOf e.2.core) else none) ++
      s.items.filterMap fun e => match s.itemCand e.1 e.2 with
        | some x => if x.launch = some k ∧ x.number / g = n ∧ x.key ≠ c.key then e.2.clus else none
        | none => none

/-- A local queue takes the candidate. -/
def State.takes (s : State) (clus : Nat) (c : Cand) : Bool :=
  decide ((s.localQueue clus).length < 8) && (findPlace c.hdr (s.mayUse c) (s.plannedRooms clus)).isSome

/-- The candidate's group is kept in one cluster: where a team of it stands in another that takes the candidate, and none in this one, it
goes there (spec/08 R210). DESIGN CHOICE, log entry 79. -/
def State.together (s : State) (clus : Nat) (c : Cand) : Bool :=
  let ks := s.groupClusters c
  ks.contains clus || ks.all fun k => !s.takes k c

/-! ### Placement (spec/12 R306) -/

/-- The lowest free wave slot of a core. DESIGN CHOICE, log entry 78. -/
def State.freeSlot (s : State) (core : Nat) : Option Nat :=
  ((List.range 16).map (core * 16 + ·)).find? fun n => (s.waves.get? n).isNone

/-- The waves of a team from the i-th on start (spec/01 R16, R24). -/
def State.startWaves (s : State) (key : Nat) (t : Team) (arg : DWord) (launch i : Nat) : Nat → State
  | 0 => s
  | n + 1 =>
    let core := if t.paired ∧ evenWaves t.waves ≤ i then t.core + 1 else t.core
    match s.freeSlot core with
    | none => s
    | some slot =>
      let r := s.newTask t.ctx
      let w := Wave.start r.2 t.ctx key i t.hdr t.prio (laneMask t.hdr.width) arg [launch] s.now
      let u : State := { r.1 with teams := r.1.teams.modify key fun x => { x with slots := addNat slot x.slots } }
      State.startWaves (u.startWave slot w) key t arg launch (i + 1) n

/-- The lines of an allocation are cleared, in both cores of a pair (spec/12 R306). -/
def State.clearAllocation (s : State) (paired : Bool) (core base lines : Nat) : State :=
  let s1 := s.clearRun core base lines
  if paired then s1.clearRun (core + 1) base lines else s1

/-- A team of a launch is placed. -/
def State.placeTeam (s : State) (launch number core base prio : Nat) : State :=
  match s.launches.get? launch with
  | none => s
  | some l =>
    let key := s.nextNum
    let t : Team :=
      { ctx := l.ctx, launch := some launch, number := number, x := number % l.gx, y := number / l.gx % l.gy, z := number / (l.gx * l.gy),
        core := core, paired := l.hdr.paired, slots := [], waves := l.hdr.team, spadBase := base, spadLines := l.hdr.spad, prio := prio,
        hdr := l.hdr, qfences := [], wbarScope := none, wbarGroup := 0, arrived := [], liveSets := [], arrivedAt := 0, saving := false,
        discarding := false }
    (({ s with nextNum := key + 1 } : State).setTeam key t |>.clearAllocation l.hdr.paired core base l.hdr.spad).startWaves key t l.args launch 0
      l.hdr.team

/-- Waves resume one after another in the free slots of a team's cores (spec/08 R211). -/
def State.resumeWaves (s : State) (key : Nat) (t : Team) : List Wave → State
  | [] => s
  | w :: rest =>
    let core := if t.paired ∧ evenWaves t.waves ≤ w.waveNo then t.core + 1 else t.core
    match s.freeSlot core with
    | none => s
    | some slot =>
      let u : State := { s with teams := s.teams.modify key fun x => { x with slots := addNat slot x.slots } }
      State.resumeWaves (u.startWave slot { w with team := key, nextIssue := s.now, eligAt := s.now, resort := true }) key t rest

/-- A continuation is placed: its phase record is freed, and its allocation reads zero. DEDUCED, log entry 88. -/
def State.placeContinuation (s : State) (sp : Spilled) (core base prio : Nat) : State :=
  let key := s.nextNum
  let t : Team := { sp.team with core := core, spadBase := base, prio := prio, slots := [], saving := false, discarding := false }
  ((({ s with nextNum := key + 1 } : State).setTeam key t).clearAllocation t.paired core base t.spadLines).resumeWaves key t sp.waves

/-- An item is placed at a core and a line. -/
def State.placeItem (s : State) (key : Nat) (it : Item) (core base : Nat) : State :=
  let s1 : State := { s with items := s.items.del key }
  match it.kind with
  | .team k n => s1.placeTeam k n core base it.prio
  | .brood b =>
    match s1.freeSlot core with
    | some slot => s1.startBrood b slot base 0
    | none => s
  | .continuation sp => s1.placeContinuation sp core base it.prio
  | .owner x =>
    match s1.freeSlot core with
    | some slot => s1.placeOwner slot base 0 (.suspended x)
    | none => s
  | .saved _ => s

/-- The candidate may be placed on a core, or on the pair whose even core it is. DESIGN CHOICE, log entry 78. -/
def State.mayPlace (s : State) (c : Cand) (core k : Nat) : Bool :=
  s.mayUse c k && (decide (k = core) || (c.hdr.paired && decide (k = core + 1)))

/-- The items of a cluster's local queue that may start: those of enabled contexts. Their energy classes were admitted when they were
distributed (spec/12 R303). DESIGN CHOICE, log entry 78. -/
def State.startable (s : State) (clus : Nat) : List Cand := (s.localQueue clus).filter fun c => decide ((s.context c.ctx).state = 1)

/-- A cluster places on a core, or on the pair whose even core it is, the first item of its local queue that fits there. DESIGN CHOICE, log
entry 78. -/
def execPlace (core : Nat) (affinity : List Nat) (s : State) : Host.Outcome State Fault Refusal :=
  let rooms := s.rooms (clusOf core)
  .next (match firstCand (s.affinity affinity core) ((s.startable (clusOf core)).filter fun c => (findPlace c.hdr (s.mayPlace c core) rooms).isSome) with
    | none => s
    | some c =>
      match s.items.get? c.key, findPlace c.hdr (s.mayPlace c core) rooms with
      | some it, some x => (let t := s.placeItem c.key it x.1 x.2
          (t.retryOwned (t.arrived s)).reschedule)
      | _, _ => s)

end Sys2Proof.Machine
end

