-- ==== Sys2Proof/Machine/Scan.lean ====
section
/-! DEFINITION. The `scan` instruction, the phases of a scan, and the logical core map (spec/04 R118, spec/15 R367 to R369, spec/17
R382). -/

namespace Sys2Proof.Machine

/-! ### `scan` (spec/04 R118, spec/15 R367, spec/17 R382) -/

/-- The facility accepts a descriptor: it reads it, and starts the drain or writes STATUS 4 at once; the scheduler decides again, since the
targets take no placement (spec/12 R307, R315). DEDUCED, log entry 98. -/
def State.acceptScan (s : State) (ctx va : Nat) : State :=
  let r := s.engineSpan ctx 0 va 64 false
  match r.2 with
  | .error _ => r.1
  | .ok pa =>
    if va % 64 ≠ 0 || s.marked pa 64 then r.1
    else
      let d := r.1.readRange pa 64
      match parseScan ctx va s.clock.toNat d.2 with
      | none => if fieldOf d.2 16 8 % 64 = 0 then d.1.scanRecord ctx (fieldOf d.2 16 8) 4 0 s.clock.toNat else d.1
      | some x =>
        if Config.patternSigned x.pattern = false ∨ (s.die x.die).park = 1 ∨ (s.die x.die).park = 2 then
          d.1.scanRecord ctx x.status 4 0 s.clock.toNat
        else (({ d.1 with scanning := some x } : State).withdraw fun c => decide (c = x.die * 48 + x.clus)).reschedule

/-- `scan sA` (spec/04 R118). -/
def execScan (q : Sched) (sa : SReg) (s : State) : Host.Outcome State Fault Refusal :=
  issueWord q (.scan q sa) s fun t w =>
    if !(t.context w.ctx).priv then t.issue.raiseAll t (.scan q sa) cPriv 0xFF
    else if t.scanning.isSome then .done (t.putNow (.cond false))
    else .done ((t.acceptScan w.ctx (t.issue.src.pair sa.toNat).toNat).putNow (.cond true))

/-! ### The phases of a scan (spec/15 R368) -/

/-- The agent of the scan facility, for the list of those that wait. -/
def scanAgent : Nat := 250

/-- The drain ends: no team is resident on a target that the core map holds. -/
def execScanDrainDone (s : State) : Host.Outcome State Fault Refusal :=
  .next (match s.scanning with
    | none => s
    | some x =>
      if x.abort then settleEvent scanAgent s s.settleScan.reschedule
      else if x.phase = .drain ∧ x.cores.all (fun c => s.cmapOff.contains c || !s.teamOn c) = true then
        { s with scanning := some { x with phase := .run } }
      else s)

/-- A core that rejoins after a scan: scratchpad and registers read zero, and no line is poisoned. -/
def State.rejoin (s : State) (core : Nat) : State := s.clearRun core 0 3072

/-- The patterns have run: the signatures of some targets differ, which leave the map; the others rejoin. DEDUCED, log entry 99. -/
def execScanRunDone (failmask : BitVec 8) (s : State) : Host.Outcome State Fault Refusal :=
  .next (match s.scanning with
    | none => s
    | some x =>
      if x.abort then settleEvent scanAgent s s.settleScan.reschedule
      else if x.phase = .drain then s
      else
        let engine := x.matrix && failmask.getLsbD 4
        let bad (c : Nat) : Bool := engine || failmask.getLsbD (c % 4)
        let failed := x.cores.filter bad
        let passed := x.cores.filter fun c => !bad c
        let t := foldState State.rejoin s (passed.filter fun c => !s.cmapOff.contains c)
        let u : State :=
          { t with
            cmapOff := failed.foldl (fun l c => addNat c l) t.cmapOff
            scanPassed := passed.foldl (fun l c => addNat c l) (t.scanPassed.filter fun c => !failed.contains c) }
        let mask := (failmask.toNat % 16) &&& x.mask.toNat
        let fail := mask + (if engine then 16 else 0)
        settleEvent scanAgent s (u.endScan x (if fail = 0 then 1 else 2) fail).reschedule)

/-- The drain has taken longer than DRAINMAX. -/
def execScanDrainTimeout (s : State) : Host.Outcome State Fault Refusal :=
  .next (match s.scanning with
    | none => s
    | some x =>
      if x.abort then settleEvent scanAgent s s.settleScan.reschedule
      else if x.phase = .drain ∧ x.tstart + clocksOf x.drainMax ≤ s.clock.toNat then settleEvent scanAgent s (s.endScan x 5 0).reschedule
      else s)

/-! ### The core map (spec/15 R369) -/

/-- A bit of the core map written: 1 restores a core whose last scan passed, and 0 removes it. -/
def State.writeCoreBit (s : State) (core : Nat) (b : Bool) : State :=
  if b then (if s.scanPassed.contains core then { s with cmapOff := delNat core s.cmapOff } else s)
  else { s with cmapOff := addNat core s.cmapOff }

/-- A 4- or 8-byte unit of CMAP is written; the scheduler decides again (spec/12 R307, R315). -/
def execCmapWrite (off width : Nat) (value : BitVec 64) (s : State) : Host.Outcome State Fault Refusal :=
  .next (
    if (width ≠ 4 ∧ width ≠ 8) ∨ off % width ≠ 0 ∨ 96 < off + width then s
    else (foldState (fun s k => s.writeCoreBit (8 * off + k) (value.getLsbD k)) s (List.range (8 * width))).reschedule)

end Sys2Proof.Machine
end

