-- ==== Sys2Proof/Machine/Launches.lean ====
section
/-! DEFINITION. Launch queues: doorbells, acceptance, priority commands, and the completion of launches (spec/03 R90 to R92, spec/08 R218,
spec/12 R294 to R302, R314, spec/14 R359, R360, spec/15 R374). -/

namespace Sys2Proof.Machine

/-! ### Accesses of the scheduler (spec/14 R360) -/

/-- The scheduler may make an access to a physical address for a context: it lies in HBM or SCM. DEDUCED, log entry 45. -/
def State.physOk (s : State) (ctx pa n : Nat) (wr : Bool) : Bool :=
  ((inHbm pa && inHbm (pa + n - 1)) || (inScm pa && inScm (pa + n - 1))) && s.populated pa && s.populated (pa + n - 1) && s.accessOk ctx pa n wr

/-- Bytes that the scheduler reads at a physical address. DEDUCED, log entry 73. -/
def State.physRead (s : State) (ctx pa n : Nat) : State × Option (List Byte) :=
  if s.physOk ctx pa n false && !s.marked pa n then
    let r := s.readRange pa n
    (r.1, some r.2)
  else (s, none)

/-- Bytes that the scheduler reads at a device virtual address, aligned to their number (spec/12 R295, R296). DEDUCED, log entry 73; DESIGN
CHOICE, log entry 76. -/
def State.virtRead (s : State) (ctx va n : Nat) : State × Option (List Byte) :=
  let r := s.check ctx 0 none va n n { rd := true, wr := false }
  match r.2 with
  | .error _ => (r.1, none)
  | .ok (pa, _) =>
    if inRemote pa then (if s.remoteHeld pa then r.1.stallOn .remote else r.1).askPeer 0 pa n
    else if s.marked pa n then (r.1, none)
    else
      let x := r.1.readRange pa n
      (x.1, some x.2)

/-! ### Completion records (spec/12 R297) -/

/-- What a completion record tells. -/
structure Report where
  id : Nat
  status : Nat
  code : Nat
  flags : Nat
  ccause : Nat
  aborts : Nat
  cfloat : Nat
  energy : Nat
  deriving DecidableEq, Repr

/-- A completion record written, STATUS last; a refused write is dropped and sets QDESC. DEDUCED, log entry 73. -/
def State.writeReport (s : State) (ctx pa : Nat) (r : Report) : State :=
  if s.physOk ctx pa 32 true then
    ((s.storeAt pa (leBytes 4 r.id)).storeAt (pa + 5) ([BitVec.ofNat 8 r.code, BitVec.ofNat 8 r.flags, BitVec.ofNat 8 r.ccause] ++
      leBytes 4 r.aborts ++ [BitVec.ofNat 8 r.cfloat] ++ leBytes 3 0 ++ leBytes 8 r.energy ++ leBytes 8 s.clock.toNat)).storeAt (pa + 4)
      [BitVec.ofNat 8 r.status]
  else s.setError errQdesc ctx

/-- The record of a launch that completes, or fails with a code. DEDUCED, log entry 90. -/
def Launch.report (l : Launch) (code : Nat) : Report :=
  { id := l.id, status := if code = 0 then 1 else 2, code := code,
    flags := (if l.overBudget then 1 else 0) + (if l.aborted then 2 else 0) + (if l.cfault then 4 else 0),
    ccause := l.ccause, aborts := l.aborts, cfloat := l.cfloat.toNat, energy := l.energy / 100 }

/-- Where the record of a launch lies. -/
def Launch.reportAt (l : Launch) : Nat := l.cplBase + 32 * (l.entry % l.subCount)

/-- A launch becomes distributable (spec/12 R298, R301). -/
def State.makeReady (s : State) (key : Nat) : State :=
  match s.launches.get? key with
  | none => s
  | some l =>
    ({ s with launches := s.launches.put key { l with phase := .ready, readyAt := s.clock.toNat } } : State).distributable (s.launchPrio l)

/-- A launch ends: its record is written, and the launches that wait for it alone become ready (spec/12 R299, R314). DEDUCED, log entry 90.
-/
def State.endLaunch (s : State) (key : Nat) (l : Launch) (code : Nat) : State :=
  let s1 := s.writeReport l.ctx l.reportAt (l.report code)
  let freed := (s1.launches.filter fun e => decide (e.2.deps = [key])).map (·.1)
  let s2 : State :=
    { s1 with launches := (s1.launches.del key).map fun e => (e.1, { e.2 with deps := delNat key e.2.deps }) }
  foldState State.makeReady s2 freed

/-! ### Queues (spec/12 R294, R295) -/

/-- A queue descriptor. -/
structure QueueDesc where
  pa : Nat
  subBase : Nat
  subCount : Nat
  tail : Nat
  head : Nat
  retired : Nat
  cplBase : Nat
  serial : Bool
  deriving DecidableEq, Repr

/-- A queue's state. -/
def State.queue (s : State) (ctx q : Nat) : LaunchQueue := s.queues.getD (ctx * 64 + q) { rung := false, override := none, last := none }

def State.setQueue (s : State) (ctx q : Nat) (x : LaunchQueue) : State := { s with queues := s.queues.put (ctx * 64 + q) x }

/-- The descriptor of a queue, where it is valid and the scheduler may read and write it. DEDUCED, log entry 73. -/
def State.queueDesc (s : State) (ctx q : Nat) : State × Option QueueDesc :=
  let r := s.physRead ctx ((s.context ctx).qtable + 8 * q) 8
  match r.2 with
  | none => (r.1, none)
  | some b =>
    let pa := leNat b
    let d := r.1.physRead ctx pa 64
    match d.2 with
    | none => (d.1, none)
    | some x =>
      let f := fieldOf x
      if pa % 64 = 0 ∧ inHbm pa = true ∧ s.physOk ctx pa 64 true = true ∧ f 0 8 % 8 = 0 ∧ ringCountOk (f 8 4) = true ∧ f 0x18 8 % 32 = 0 ∧
          f 0x20 1 ≤ 1 ∧ f 0x21 31 = 0 then
        (d.1, some { pa := pa, subBase := f 0 8, subCount := f 8 4, tail := f 12 4, head := f 16 4, retired := f 20 4, cplBase := f 0x18 8,
                     serial := decide (f 0x20 1 = 1) })
      else (d.1, none)

/-- The doorbells that a context's queues have received go unheard. DEDUCED, log entry 61. -/
def State.unring (s : State) (ctx : Nat) : State :=
  { s with queues := s.queues.map fun e => if e.1 / 64 = ctx then (e.1, { e.2 with rung := false }) else e }

/-- A doorbell: reserved bits must be zero (spec/15 R374), and none is served while no feature is accepted (spec/14 R359). DEDUCED, log
entry 61. -/
def execDoorbell (value : BitVec 32) (s : State) : Host.Outcome State Fault Refusal :=
  let v := value.toNat
  .next (if v / 1024 ≠ 0 ∨ s.regs.featAccept = 0 then s else s.setQueue (v / 64) (v % 64) { s.queue (v / 64) (v % 64) with rung := true })

/-- A priority command (spec/12 R302); the scheduler decides again (spec/12 R307, R315). -/
def execPriocmd (value : BitVec 32) (s : State) : Host.Outcome State Fault Refusal :=
  let v := value.toNat
  let prio := v / 2 ^ 16 % 256
  let ctx := v / 2 ^ 10 % 16
  let q := v / 16 % 64
  if v / 2 ^ 24 ≠ 0 ∨ v / 2 ^ 14 % 4 ≠ 0 ∨ v % 16 ≠ 0 ∨ (8 ≤ prio ∧ prio ≠ 255) then .next s
  else
    let s1 := s.setQueue ctx q { s.queue ctx q with override := if prio = 255 then none else some prio }
    let mine (k : Nat) : Option Launch := (s.launches.get? k).filter fun l => decide (l.ctx = ctx ∧ l.queue = q)
    let set (it : Item) : Item := match it.kind with
      | .team k _ => match mine k with
        | some l => if it.clus.isNone then { it with prio := if prio = 255 then l.prio else prio } else it
        | none => it
      | .continuation sp => if (sp.team.launch.bind mine).isSome then { it with prio := if prio = 255 then sp.team.prio else prio } else it
      | _ => it
    .next ({ s1 with items := s1.items.map fun e => (e.1, set e.2) } : State).reschedule

/-! ### Acceptance (spec/12 R295, R296, R299) -/

/-- The effective operation, headroom and format of a binding (spec/08 R218). -/
def bindOp (f : Nat → Nat → Nat) (h : Header) : Nat := if f 0x44 2 = 0 then h.collop else f 0x44 2
def bindHead (f : Nat → Nat → Nat) (h : Header) : Nat := if f 0x46 1 = 0 then h.collhead else f 0x46 1
def bindFmt (f : Nat → Nat → Nat) (h : Header) : Nat := if f 0x47 1 = 0xFF then h.collfmt else f 0x47 1

/-- A binding is acceptable (spec/08 R218, spec/14 R341). DEDUCED, log entry 77. -/
def bindOk (f : Nat → Nat → Nat) (h : Header) : Bool :=
  let op := bindOp f h
  let fmt := bindFmt f h
  decide (1 ≤ op ∧ op ≤ 3 ∧ fmt ≤ 8 ∧ fmt ≠ 5 ∧ h.collchunk ≠ 0 ∧ h.collchunk % fmtBytes fmt = 0)

/-- The launch record is acceptable (spec/03 R92, spec/08 R218). -/
def launchRecordOk (f : Nat → Nat → Nat) (h : Header) : Bool :=
  let n := f 8 4 * f 12 4 * f 16 4
  decide (1 ≤ n ∧ n ≤ 2 ^ 32 ∧ f 0x14 1 * f 0x15 1 * f 0x16 1 = h.team ∧ f 0x17 1 ≤ 7 ∧ f 0x38 4 ≠ 0 ∧ f 0x3C 4 = 0 ∧ f 0x58 40 = 0) &&
    (decide (f 0x40 4 = 0) || bindOk f h)

/-- The live launch of a context with an identifier. -/
def State.launchNamed (s : State) (ctx id : Nat) : Option (Nat × Launch) := s.launches.find? fun e => decide (e.2.ctx = ctx ∧ e.2.id = id)

/-- The map holds a core, or a pair, for a kernel. -/
def State.mapFits (s : State) (paired : Bool) : Bool :=
  (List.range 768).any fun c => !s.cmapOff.contains c && (!paired || (decide (c % 2 = 0) && !s.cmapOff.contains (c + 1)))

/-- The failure code of a launch at acceptance; 0 where it is accepted (spec/12 R296, spec/14 R359). DESIGN CHOICE, log entry 76. -/
def State.acceptCode (s : State) (ctx : Nat) (f : Nat → Nat → Nat) (h : Option Header) : Nat :=
  match h with
  | none => 1
  | some h =>
    if s.regs.featAccept.getLsbD (h.encv - 1) = false then 1
    else if launchRecordOk f h = false then 2
    else if (s.launchNamed ctx (f 0x38 4)).isSome then 3
    else if s.mapFits h.paired = false then 4
    else 0

/-- A launch accepted: its predecessors that are live become dependencies, and without one it is ready. -/
def State.addLaunch (s : State) (ctx q : Nat) (d : QueueDesc) (f : Nat → Nat → Nat) (h : Header) : State :=
  let key := s.nextNum
  let queue := s.queue ctx q
  let preds := ([0x20, 0x24, 0x28, 0x2C].filterMap fun o => if f o 4 = 0 then none else (s.launchNamed ctx (f o 4)).map (·.1)) ++
    (if d.serial then (queue.last.filter fun k => (s.launches.get? k).isSome).toList else [])
  let collid := f 0x40 4
  let l : Launch :=
    { ctx := ctx, id := f 0x38 4, queue := q, entry := d.head, cplBase := d.cplBase, subCount := d.subCount, hdr := h, gx := f 8 4,
      gy := f 12 4, gz := f 16 4, prio := f 0x17 1, args := BitVec.ofNat 64 (f 0x18 8), budget := f 0x30 8, collid := collid,
      collop := bindOp f h, collhead := bindHead f h, collfmt := bindFmt f h, resLayout := f 0x48 8, chunkMap := f 0x50 8,
      boundNo := s.boundCount.getD collid 0, phase := .waiting, deps := preds.eraseDups, nextTeam := 0, readyAt := 0, aged := false,
      overBudget := false, aborted := false, cfault := false, ccause := 0, aborts := 0, cfloat := 0, energy := 0, code := 0,
      wbarGroup := none }
  let s1 := ({ s with
      nextNum := key + 1
      launches := s.launches.put key l
      boundCount := if collid = 0 then s.boundCount else s.boundCount.put collid (l.boundNo + 1) } : State).setQueue ctx q
    { queue with last := some key }
  if l.deps = [] then s1.makeReady key else s1

/-- The entry at HEAD of a queue is accepted, or its failure reported, and HEAD advances. DEDUCED, log entry 74. -/
def State.acceptEntry (s : State) (ctx q : Nat) (d : QueueDesc) (va : Nat) : State :=
  let r := s.virtRead ctx va 128
  let h := match r.2 with
    | some b => r.1.virtRead ctx (fieldOf b 0 8) 64
    | none => (r.1, none)
  let advance (t : State) : State := t.storeAt (d.pa + 0x10) (leBytes 4 (d.head + 1))
  let failed (id code : Nat) : Report :=
    { id := id, status := 2, code := code, flags := 0, ccause := 0, aborts := 0, cfloat := 0, energy := 0 }
  let at_ := d.cplBase + 32 * (d.head % d.subCount)
  match r.2, h.2 with
  | some b, some hb =>
    let f := fieldOf b
    let hdr := parseHeader (f 0 8) hb
    match hdr, h.1.acceptCode ctx f hdr with
    | some hd, 0 => advance (h.1.addLaunch ctx q d f hd)
    | _, code => advance (h.1.writeReport ctx at_ (failed (f 0x38 4) code))
  | _, _ => advance (h.1.writeReport ctx at_ (failed 0 5))

/-- The scheduler takes the next entry of a queue whose doorbell has rung (spec/12 R294, R295). DEDUCED, log entries 74, 75. -/
def execLaunchAccept (ctx queue : Nat) (s : State) : Host.Outcome State Fault Refusal :=
  let c := s.context ctx
  let q := s.queue ctx queue
  .next (
    if !q.rung || decide (c.state = 0 ∨ c.state = 4 ∨ 64 ≤ queue) || !c.qenable.getLsbD queue || decide (s.regs.featAccept = 0) then s
    else
      let r := s.queueDesc ctx queue
      let bad (t : State) : State := (t.setError errQdesc ctx).setQueue ctx queue { q with rung := false }
      match r.2 with
      | none => settleEvent schedAgent s (bad r.1)
      | some d =>
        if d.head = d.tail then settleEvent schedAgent s (r.1.setQueue ctx queue { q with rung := false })
        else if d.subCount ≤ (d.head + 2 ^ 32 - d.retired) % 2 ^ 32 then s
        else
          let e := r.1.physRead ctx (d.subBase + 8 * (d.head % d.subCount)) 8
          match e.2 with
          | none => settleEvent schedAgent s (bad e.1)
          | some b => settleEvent schedAgent s ((e.1.acceptEntry ctx queue d (leNat b)).settleScan.reschedule))

/-! ### Completion (spec/12 R314) -/

/-- An operation that counts towards a launch has not completed: copies, requests and their barrier counts, tier and waggle commands, and
remote operations; and the persistent stores of its tasks that have not entered their queue, which the release of STATUS covers (spec/12
R300, spec/10 R265). -/
def State.counting (s : State) (key : Nat) : Bool :=
  (s.clusters.any fun e => (e.2.copies.any fun c => c.launches.contains key) || (e.2.resv.any fun r => r.launches.contains key) ||
    e.2.counts.any fun b => b.launches.contains key) ||
  (s.dies.any fun e => (e.2.tierQ.any fun c => c.launches.contains key) || e.2.waggleQ.any fun c => c.launches.contains key) ||
  (s.remoteOps.any fun r => r.launches.contains key) || s.persists.any fun g => g.launches.contains key

/-- A draining launch completes: its record is written, with the code of a failed one. -/
def execLaunchComplete (ctx launch : Nat) (s : State) : Host.Outcome State Fault Refusal :=
  .next (match s.launchNamed ctx launch with
    | none => s
    | some x =>
      match (s.settleLaunch x.1).launches.get? x.1 with
      | none => s
      | some l =>
        if l.phase = .draining ∧ s.counting x.1 = false ∧ s.launchBusy x.1 = false then
          settleEvent schedAgent s ((s.endLaunch x.1 l l.code).settleScan.reschedule)
        else s)

end Sys2Proof.Machine
end

