-- ==== Sys2Proof/Machine/Images.lean ====
section
/-! DEFINITION. Teams that leave the machine and return: wide-barrier spills, context images and their restore, the reset of a context,
and the context controls (spec/08 R210, R211, spec/11 R279 to R287, spec/12 R309, R310, spec/15 R371, R372, R391). -/

namespace Sys2Proof.Machine

/-! ### The work of a team -/

/-- A copy command, `oload`, matrix request or barrier count of a team has not completed. -/
def State.teamBusy (s : State) (key : Nat) (t : Team) : Bool :=
  let c := s.cluster (clusOf t.core)
  (c.copies.any fun x => decide (x.team = key)) || (c.resv.any fun x => decide (x.team = key)) ||
    c.counts.any fun x => decide ((x.core = t.core ∨ (t.paired = true ∧ x.core = t.core + 1)) ∧ t.spadBase * 128 ≤ x.off ∧
      x.off < (t.spadBase + t.spadLines) * 128)

/-- A team leaves its slots, and its claims are released. -/
def State.vacate (s : State) (key : Nat) : State :=
  match s.teams.get? key with
  | none => s
  | some t =>
    ({ s with
        waves := s.waves.filter fun e => !decide (e.2.team = key)
        teams := s.teams.del key } : State).modCluster (clusOf t.core) fun c => c.releaseClaims key (fun _ => true) (fun _ => true)

/-! ### Tasks that are killed -/

/-- A resident task ends by abort with no record and no collective (spec/11 R277, R282). -/
def State.killWave (s : State) (slot : Nat) : State :=
  match s.waves.get? slot with
  | none => s
  | some w =>
    let s1 : State := { s with versions := s.versions.del w.task }
    (((s1.faultCapsule slot w).faultAwaited slot w 0).countAbort w.launches).removeWave slot false (some w.task)

/-- Some wave in a slot, or some helper under it, is named by a predicate. -/
def State.chainHas (s : State) (slot : Nat) (p : Wave → Bool) : Bool :=
  (s.waves.get? slot).any p || s.ctxSlots.any fun e => decide (e.2.slot = slot ∧ e.2.use = .helper) && e.2.wave.any p

/-- Every resident task that a predicate names ends, after the tasks that it adopted and with each helper that its end restores. DEDUCED, log
entry 86. -/
def State.killResident (s : State) (p : Wave → Bool) : State :=
  foldState (fun s _ => foldState (fun s n => if s.chainHas n p then s.killWave n else s) s (s.waves.map (·.1))) s (List.range 5)

/-- The root image of a saved slot's number. -/
def rootOf (slot : Nat) : Nat := (slot - 2 ^ 20) / 16

/-- The root of the chain that an image belongs to: the image itself, but for KIND 2. -/
def Image.root (m : Image) (key : Nat) : Nat := if m.kind = 2 then rootOf (m.oldSlots.headD 0) else key

/-- The roots of the saved teams and chains in which a predicate names a task. -/
def State.namedRoots (s : State) (p : Wave → Bool) : List Nat :=
  (s.images.filterMap fun e => if e.2.waves.any p then some (e.2.root e.1) else none) ++
    s.ctxSlots.filterMap fun e => if decide (2 ^ 20 ≤ e.2.slot) && e.2.wave.any p then some (rootOf e.2.slot) else none

/-- The tasks that a predicate names end where they are saved, suspended or spilled, with what they hold; a saved chain ends whole, its
helpers too (spec/09 R238). Their capsules are FAULTED (spec/09 R249), and the objects that they waited on count them no more. DEDUCED, log
entry 86. -/
def State.killAbsent (s : State) (p : Wave → Bool) : State :=
  let roots := s.namedRoots p
  let slots := s.ctxSlots.filter fun e =>
    if 2 ^ 20 ≤ e.2.slot then roots.contains (rootOf e.2.slot) else decide (e.2.use = .owner) && e.2.wave.any p
  let images := s.images.filter fun e => roots.contains (e.2.root e.1)
  let spilled := s.spilled.filter fun e => e.2.waves.any p
  let conts := s.items.filter fun e => match e.2.kind with
    | .continuation sp => sp.waves.any p
    | _ => false
  let at_ (t : Team) (ws : List Wave) : List (Nat × Wave) := ws.map fun w => (16 * t.core, w)
  let waves : List (Nat × Wave) := (slots.flatMap fun e => e.2.wave.toList.map fun w => (64 * e.2.clus, w)) ++
    (images.flatMap fun e => at_ e.2.team e.2.waves) ++ (spilled.flatMap fun e => at_ e.2.team e.2.waves) ++
    conts.flatMap fun e => match e.2.kind with
      | .continuation sp => at_ sp.team sp.waves
      | _ => []
  let s1 := foldState (fun s (e : Nat × Wave) =>
    (({ s with versions := s.versions.del e.2.task } : State).faultCapsule e.1 e.2).countAbort e.2.launches) s waves
  let s2 := foldState (fun s (e : Nat × CtxSlot) =>
    s.modCluster e.2.clus fun c => c.releaseClaims ((e.2.wave.map (·.team)).getD 0) (fun _ => true) (fun _ => true)) s1
      (slots.filter fun e => decide (e.2.use = .owner))
  let s3 : State := { s2 with
    ctxSlots := s2.ctxSlots.filter fun e => (findKey e.1 slots).isNone
    images := s2.images.filter fun e => (findKey e.1 images).isNone
    spilled := s2.spilled.filter fun e => (findKey e.1 spilled).isNone
    items := s2.items.filter fun e => (findKey e.1 conts).isNone && (match e.2.kind with
      | .owner x => (findKey x slots).isNone
      | .saved x => (findKey x images).isNone
      | _ => true) }
  foldState (fun s (e : Nat × Wave) => s.recount e.1 e.2) s3 waves

/-- The forming and queued brood waves that a predicate names end. -/
def State.killBroods (s : State) (p : Brood → Bool) : State :=
  let queued := s.items.filter fun e => match e.2.kind with
    | .brood b => p b
    | _ => false
  let gone := (s.clusters.flatMap fun e => e.2.brood.filter p) ++ queued.filterMap fun e => match e.2.kind with
    | .brood b => some b
    | _ => none
  let s1 := foldState (fun s (b : Brood) => s.countAbort b.launches) s gone
  { s1 with
    clusters := s1.clusters.map fun e => (e.1, { e.2 with brood := e.2.brood.filter fun b => !p b })
    items := s1.items.filter fun e => (findKey e.1 queued).isNone }

/-! ### The reset of a context (spec/11 R282) -/

/-- Copy commands of a context are dropped, and its tier and waggle commands end without a record. -/
def State.silence (s : State) (ctx : Nat) : State :=
  let s1 : State :=
    { s with clusters := s.clusters.map fun e => (e.1, ({ e.2 with copies := e.2.copies.filter fun c => !decide (c.ctx = ctx) } : Cluster).settle) }
  let nums (d : Die) : List Nat := (d.completions.filter fun c => decide (c.ctx = ctx)).map (·.num)
  { s1 with dies := s1.dies.map fun e =>
      (e.1, { e.2 with
        completions := e.2.completions.filter fun c => !decide (c.ctx = ctx)
        tierQ := (e.2.tierQ.filter fun c => !(nums e.2).contains c.num).map fun c => if c.ctx = ctx then { c with quiet := true } else c
        waggleQ := (e.2.waggleQ.filter fun c => !(nums e.2).contains c.num).map fun c => if c.ctx = ctx then { c with quiet := true } else c }) }

/-- The tasks of a state that are live no more in a later one. -/
def State.endedIn (s t : State) : List Nat := s.taskIds.filter fun k => !t.taskIds.contains k

/-- A context is reset: its tasks, images, launches and forming waves end, and it accepts no work until it is enabled again. DEDUCED, log
entries 87, 90. -/
def State.resetContext (s : State) (ctx : Nat) : State :=
  let any := s.taskIds.any fun t => decide (t / 2 ^ 28 = ctx)
  let mine (w : Wave) : Bool := decide (w.ctx = ctx)
  let s1 := (((s.killResident mine).killAbsent mine).killBroods fun b => decide (b.ctx = ctx)).silence ctx
  let s2 : State :=
    { s1 with
      ctxSlots := s1.ctxSlots.filter fun e => !decide (e.2.ctx = ctx)
      images := s1.images.filter fun e => !decide (e.2.ctx = ctx)
      items := s1.items.filter fun e => !decide (e.2.ctx = ctx) }
  let ended := s2.launches.filter fun e => decide (e.2.ctx = ctx)
  let s3 := foldState (fun s (e : Nat × Launch) => s.writeReport ctx e.2.reportAt (e.2.report 6)) s2 ended
  let s4 : State := { s3 with launches := s3.launches.filter fun e => !decide (e.2.ctx = ctx) }
  let s5 := if any then s4.logFault ctx (faultRecord 0 0 0 0 0 4 0) else s4
  ((s5.setContext ctx { s5.context ctx with state := 4 }).retryOwned (s.endedIn s5)).reschedule

/-- The deadline of a pre-emption request has passed with a team still resident, or a slot of the context's slot area failed its check: the
context is reset (spec/11 R282, spec/09 R237). -/
def execPreemptDeadlineExpiry (ctx : Nat) (s : State) : Host.Outcome State Fault Refusal :=
  let c := s.context ctx
  .next (
    if c.slotBad then settleEvent imageAgent s ((s.setContext ctx { c with slotBad := false }).resetContext ctx)
    else if c.state = 2 ∧ c.preemptAt + clocksOf c.deadline ≤ s.clock.toNat ∧ s.teams.any (fun e => decide (e.2.ctx = ctx)) = true then
      settleEvent imageAgent s (s.resetContext ctx)
    else s)

/-! ### Wide-barrier spills (spec/08 R210, R211, spec/12 R309, R310) -/

/-- NV of a wave's arrival. -/
def Team.nv (t : Team) (w : Wave) : Nat := (Assoc.getD t.liveSets w.waveNo 0).toNat / 256 % 64

/-- Bytes of the phase record of a team. DEDUCED, log entry 89. -/
def phaseBytes (t : Team) (ws : List Wave) : Nat :=
  (64 + (ws.map fun w => 64 + 4 * w.hdr.sregs + 4 * t.nv w * w.hdr.width).sum + 255) / 256 * 256

/-- What a spill keeps of a wave. DEDUCED, log entry 88. -/
def Wave.spilledAs (w : Wave) (d : Word) : Wave :=
  let first := d.toNat % 128
  let nv := d.toNat / 256 % 64
  let l := w.landAll
  { l with
    regs :=
      { v := l.regs.v.filter fun e => decide (64 * first ≤ e.1 ∧ e.1 < 64 * (first + nv))
        s := l.regs.s.filter fun e => decide (e.1 < w.hdr.sregs)
        m := []
        sc := false }
    varPend := []
    table := [{ pc := ((w.table.head?).map (·.pc)).getD 0 + 4, lanes := w.liveLanes, park := none }]
    rstack := [], rxwin := 0, tsw := 0, epc := 0, tmask := 0, tpend := 0, restart := false, resort := true, count := 0 }

/-- The phase records in use by a context, in bytes. DEDUCED, log entry 89. -/
def State.phaseUsed (s : State) (ctx : Nat) : Nat :=
  ((s.spilled.filter fun e => decide (e.2.team.ctx = ctx)).map (·.2.recordBytes)).sum +
    (s.items.filterMap fun e => match e.2.kind with
      | .continuation sp => if e.2.ctx = ctx then some sp.recordBytes else none
      | _ => none).sum

/-- The phase area takes a record of some bytes. DEDUCED, log entry 89. -/
def State.phaseFits (s : State) (ctx n : Nat) : Bool :=
  let c := s.context ctx
  let span := s.phaseUsed ctx + n
  decide (span ≤ c.phaseSize) && s.accessOk ctx c.phaseBase span true && s.accessOk ctx c.phaseBase span false

/-- A team is spilled. DEDUCED, log entry 88. -/
def State.spill (s : State) (key : Nat) (t : Team) : State :=
  let ws := (s.teamWaves t).map (·.2)
  let sp : Spilled :=
    { team := { t with slots := [] }, waves := ws.map fun w => w.spilledAs (Assoc.getD t.liveSets w.waveNo 0), recordBytes := phaseBytes t ws,
      arrivedAt := t.arrivedAt }
  { s.vacate key with spilled := s.spilled.put s.nextNum sp, nextNum := s.nextNum + 1 }

/-- A launch fails for want of room in its phase area: its tasks end, with one record of KIND 5 for all of them (spec/12 R310). DEDUCED, log
entries 86, 87. -/
def State.failLaunch (s : State) (key : Nat) (l : Launch) : State :=
  let mine (w : Wave) : Bool := decide (w.launches = [key])
  let s1 := ((s.killResident mine).killAbsent mine).killBroods fun b => decide (b.launches = [key])
  let s2 : State :=
    { s1 with
      items := s1.items.filter fun e => match e.2.kind with
        | .team k _ => !decide (k = key)
        | _ => true
      launches := s1.launches.modify key fun x => { x with phase := .draining, nextTeam := x.total, code := 7, wbarGroup := none } }
  (s2.retryOwned (s.endedIn s2)).logFault l.ctx (faultRecord 0 0 0 0 l.id 5 0)

/-- A member of an incomplete instance of the launch waits to be placed: a team not started, in a queue, or resuming. -/
def State.memberMissing (s : State) (key : Nat) (l : Launch) : Bool :=
  let missing (n : Nat) : Bool := decide (l.nextTeam ≤ n) || s.items.any fun e => match e.2.kind with
    | .team k m => decide (k = key ∧ m = n)
    | .continuation sp => decide (sp.team.launch = some key ∧ sp.team.number = n)
    | _ => false
  let waits (t : Team) : Bool := decide (t.launch = some key) && (match t.wbarScope with
    | some sc => (wbarMembers l sc t.wbarGroup t.number).any missing
    | none => false)
  (s.teams.any fun e => waits e.2) || s.spilled.any fun e => waits e.2.team

/-- The waiting members of a launch fit on no core. -/
def State.stuck (s : State) (key : Nat) (l : Launch) : Bool :=
  let cands := ((s.items.filterMap fun e => s.itemCand e.1 e.2) ++ (s.launchCand key l).toList).filter fun c =>
    decide (c.launch = some key) && s.placeable c
  cands ≠ [] && cands.all fun c => !s.fitsSomewhere c

/-- A tier or waggle command, or a tier query, of a team has not completed (spec/08 R196, R210). -/
def State.commandBusy (s : State) (key : Nat) (t : Team) : Bool :=
  (s.teamWaves t).any (fun e => decide (e.2.varPend ≠ [])) ||
    s.dies.any fun d => (d.2.tierQ.any fun c => decide (c.team = key)) || (d.2.waggleQ.any fun c => decide (c.team = key)) ||
      d.2.tagqs.any fun q => (s.teamWaves t).any fun e => decide (e.2.task = q.task)

/-- The teams of a launch that may be spilled: every wave has arrived, none runs a handler, and no operation and no engine command of the
team is in flight. -/
def State.spillable (s : State) (key : Nat) : List (Nat × Team) :=
  s.teams.filter fun e => decide (e.2.launch = some key) && e.2.wbarScope.isSome && e.2.allArrived (s.liveWaves e.1) &&
    (s.teamWaves e.2).all (fun w => decide (w.2.team = e.1) && w.2.handler.isNone && !w.2.hasReady) && !s.teamBusy e.1 e.2 && !s.commandBusy e.1 e.2 &&
    decide ((s.teamWaves e.2).length = e.2.slots.length)

/-- The scheduler spills the team of a launch that arrived first, where a waiting member fits nowhere. -/
def execWbarSpill (ctx launch : Nat) (s : State) : Host.Outcome State Fault Refusal :=
  .next (match s.launchNamed ctx launch with
    | none => s
    | some x =>
      if !s.memberMissing x.1 x.2 || !s.stuck x.1 x.2 then s
      else
        let first := (s.spillable x.1).foldl (fun (b : Option (Nat × Team)) e => match b with
          | none => some e
          | some y => if e.2.arrivedAt < y.2.arrivedAt then some e else some y) none
        match first with
        | none => s
        | some e =>
          if s.phaseFits ctx (phaseBytes e.2 ((s.teamWaves e.2).map (·.2))) then (s.spill e.1 e.2).reschedule
          else settleEvent imageAgent s ((s.failLaunch x.1 x.2).reschedule))

/-! ### Images (spec/11 R284, R285) -/

/-- The images of a part. DESIGN CHOICE, log entry 82. -/
def State.partOf (s : State) (ctx part : Nat) : List (Nat × Image) := s.images.filter fun e => decide (e.2.ctx = ctx ∧ e.2.part = part)

/-- The least of a list of numbers. -/
def least : List Nat → Nat
  | [] => 0
  | [a] => a
  | a :: t => min a (least t)

/-- The origin of a part. -/
def origin (ms : List (Nat × Image)) : Nat × Nat := (least (ms.map (·.2.dx)), least (ms.map (·.2.dy)))

/-- The headers of a part's images, as they stand in the save area. DESIGN CHOICE, log entry 84. -/
def State.writeHeaders (s : State) (ctx part : Nat) : State :=
  let ms := s.partOf ctx part
  let o := origin ms
  foldState (fun s (e : Nat × Image) => s.storeAt e.2.address (s.imageHeader e.2 (e.2.dx - o.1) (e.2.dy - o.2))) s ms

/-- The number that stands for a slot of a saved team in the context slots of its chains. -/
def savedSlot (image index : Nat) : Nat := 2 ^ 20 + 16 * image + index

/-- The index of a slot among a team's. -/
def seatOf (slots : List Nat) (n : Nat) : Nat := (indexWhere (fun x => decide (x = n)) slots).getD 0

/-- What is saved of a team: its waves, allocation and claims; `oldSlots` are given. DESIGN CHOICE, log entry 84; DEDUCED, log entry 85. -/
def State.imageOf (s : State) (key kind : Nat) (t : Team) (oldSlots : List Nat) : Image :=
  let ws := s.waves.filter fun e => decide (e.2.team = key)
  let c := s.cluster (clusOf t.core)
  let runs := s.saveRun t.core t.spadBase t.spadLines :: (if t.paired then [s.saveRun (t.core + 1) t.spadBase t.spadLines] else [])
  let tiles := c.tiles.filter fun e => decide (e.2.holder = some key)
  let slots := c.slots.filter fun e => decide (e.2.holder = some key)
  let die := dieOf (clusOf t.core)
  { key := key, kind := kind, ctx := t.ctx, part := (s.context t.ctx).request * 4 + die, dx := clusOf t.core % 48 % 8,
    dy := clusOf t.core % 48 / 8, coreNo := t.core % 4, team := { t with saving := false, discarding := false },
    waves := ws.map fun e => e.2.landAll, oldSlots := oldSlots, seats := ws.map fun e => seatOf t.slots e.1, spad := runs, tiles := tiles,
    slots := slots, address := 0, saved := [],
    size := imageBytes kind (ws.map (·.2)) runs.length t.spadLines tiles.length slots.length }

/-- Where an image finds room in the save area, below the slot area, in units of 64 bytes. DESIGN CHOICE, log entry 84. -/
def State.imageRoom (s : State) (ctx size : Nat) : Option Nat :=
  let c := s.context ctx
  let used := (s.images.filter fun e => decide (e.2.ctx = ctx)).map fun e => ((e.2.address - c.saveBase) / 64, (e.2.size + 63) / 64)
  (firstFit used ((c.saveSize - 4096 * c.cslotPages) / 64) ((size + 63) / 64)).map fun n => c.saveBase + 64 * n

/-- An image placed in the save area; none where there is no room. -/
def State.addImage (s : State) (m : Image) : Option State :=
  (s.imageRoom m.ctx m.size).map fun a =>
    { s with images := s.images.put s.nextNum { m with address := a }, nextNum := s.nextNum + 1 }

/-- The access table lets the images of a context be written (spec/14 R360). -/
def State.imagesWritable (s : State) (ctx part : Nat) : Bool :=
  (s.partOf ctx part).all fun e => s.accessOk ctx e.2.address e.2.size true && s.accessOk ctx e.2.address e.2.size false

/-- Images of several teams. -/
def State.addImages (s : State) : List Image → Option State
  | [] => some s
  | m :: t => (s.addImage m).bind fun u => State.addImages u t

/-- The sections of n images, from the number of the first, are written (spec/11 R285). -/
def State.writeBodies (s : State) (first n : Nat) : State :=
  foldState (fun s k => match s.images.get? k with
    | some m =>
      let body := m.body
      ({ s with images := s.images.put k { m with saved := body } } : State).storeRun (m.address + 64) body
    | none => s) s ((List.range n).map (first + ·))

/-- The helpers in the slots of a saved team are linked to its image. DEDUCED, log entry 85. -/
def State.linkChains (s : State) (image : Nat) (slots : List Nat) : State :=
  { s with ctxSlots := s.ctxSlots.map fun e =>
      if e.2.use ≠ .owner ∧ slots.contains e.2.slot = true then (e.1, { e.2 with slot := savedSlot image (seatOf slots e.2.slot) }) else e }

/-- A team, with the chains in its slots, is saved as images of a kind and leaves the machine; none where the save area has no room. A
discarded wave waits on no object any more. DEDUCED, log entry 85. -/
def State.saveTeam (s : State) (key kind : Nat) (t : Team) : Option State :=
  let image := s.nextNum
  let chains := s.chainTeams key t
  let ms := s.imageOf key kind t t.slots :: chains.map fun e =>
    s.imageOf e.1 2 e.2 (e.2.slots.map fun n => savedSlot image (seatOf t.slots n))
  (s.addImages ms).map fun u =>
    let part := (s.context t.ctx).request * 4 + dieOf (clusOf t.core)
    if !u.imagesWritable t.ctx part then s.resetContext t.ctx
    else
      let v := foldState (fun s k => s.vacate k) (u.linkChains image t.slots) (key :: chains.map (·.1))
      let x := if kind = 1 then foldState (fun s (e : Nat × Wave) => s.recount e.1 e.2) v (s.teamWaves t) else v
      (((x.writeBodies image ms.length).writeHeaders t.ctx part).settlePreempt t.ctx).reschedule

/-! ### Saving and discarding (spec/11 R280, R281) -/

/-- Every wave in the team's slots stands at a group boundary, outside a handler, with no result outstanding, and no operation of the
team is in flight. DEDUCED, log entry 35. -/
def State.quiet (s : State) (key : Nat) (t : Team) : Bool :=
  (s.teamWaves t).all (fun e => !e.2.midGroup && decide (e.2.varPend = [])) && !s.teamBusy key t &&
    (s.chainTeams key t).all fun e => !s.teamBusy e.1 e.2

/-- Each wave's version commits, those of the helpers in its slots among them (spec/09 R225, spec/11 R280). -/
def State.commitTeam (s : State) (t : Team) : State :=
  foldState (fun s (e : Nat × CtxSlot) => match e.2.wave with
    | some w => if decide (e.2.use = .helper) && t.slots.contains e.2.slot then s.commitSlot w.task else s
    | none => s) (foldState (fun s n => s.commit n) s t.slots) s.ctxSlots

/-- A team of a pre-empted context is saved: the save starts where it may and the team is not discarded first, and ends once the team's
operations have drained. -/
def execTeamSave (team : Nat) (s : State) : Host.Outcome State Fault Refusal :=
  .next (match s.teams.get? team with
    | none => s
    | some t =>
      if (s.context t.ctx).state ≠ 2 ∨ t.discarding = true ∨ s.isOwnerTeam team = true ∨ (!t.saving && (!s.allParked t || s.discards team t)) = true then s
      else
        let s1 := s.setTeam team { t with saving := true }
        if !s1.quiet team t then s1
        else
          let c := s1.commitTeam t
          if c.stall ≠ [] then settleEvent imageAgent s1 c
          else
            match c.teams.get? team with
            | none => s1
            | some u =>
              match c.saveTeam team 0 u with
              | none => s1
              | some v => settleEvent imageAgent s1 v)

/-- A team of a pre-empted context is discarded: its waves stop, its operations drain, and its image has KIND 1 (spec/11 R281). A discard that has
begun is given up, and the team runs on, where a wave's restartable flag is cleared before it ends. DESIGN CHOICE, log entry 122. -/
def execTeamDiscard (team : Nat) (s : State) : Host.Outcome State Fault Refusal :=
  .next (match s.teams.get? team with
    | none => s
    | some t =>
      if (s.context t.ctx).state ≠ 2 ∨ t.saving = true ∨ s.chainTeams team t ≠ [] then s
      else if !s.discardable t then s.setTeam team { t with discarding := false }
      else
        let s1 := s.setTeam team { t with discarding := true }
        if !s1.quiet team t then s1
        else
          let c : State := { s1 with versions := (s1.teamWaves t).foldl (fun v e => v.del e.2.task) s1.versions }
          match c.saveTeam team 1 { t with discarding := false } with
          | none => s1
          | some v => settleEvent imageAgent s1 v)

/-! ### Restoring a part (spec/11 R286, R287) -/

/-- The saved item of an image. DESIGN CHOICE, log entry 82. -/
def State.savedItem (s : State) (image : Nat) : Option Nat :=
  (s.items.find? fun e => decide (e.2.kind = .saved image)).map (·.1)

/-- The core that an image's team takes for a part at an origin, where it fits; and the first line of its run. -/
def State.imagePlace (s : State) (key : Nat) (m : Image) (die x y : Nat) (o : Nat × Nat) : Option (Nat × Nat) :=
  let cx := x + (m.dx - o.1)
  let cy := y + (m.dy - o.2)
  let clus := die * 48 + cy * 8 + cx
  let core := clus * 4 + m.coreNo
  let odd := (m.oldSlots.filter fun n => decide (coreOf n ≠ m.team.core)).length
  let even := m.oldSlots.length - odd
  let free (k : Nat) : Bool :=
    s.usable k && (match s.reservation with
      | none => true
      | some (i, r) => decide (s.savedItem key = some i) || !(decide (k = r) || ((s.hdrOf i).any (·.paired) && decide (k = r + 1))))
  let a := s.room core
  let b := s.room (core + 1)
  if decide (die < 4 ∧ cx ≤ 7 ∧ cy ≤ 5) && free core && decide (even ≤ a.free) &&
      (!m.team.paired || (free (core + 1) && decide (odd ≤ b.free))) &&
      (m.tiles.all fun t => (s.cluster clus).tileFree t.1) && m.slots.all (fun t => (s.cluster clus).slotFree t.1) then
    (firstFit (if m.team.paired then a.used ++ b.used else a.used) 3072 m.team.spadLines).map fun n => (core, n)
  else none

/-- New slots for old ones, one after another in the cores of a team. -/
def State.seatSlots (s : State) (oldCore core : Nat) (taken : List Nat) : List Nat → List Nat
  | [] => []
  | n :: t =>
    let c := if coreOf n = oldCore then core else core + 1
    let slot := (((List.range 16).map (c * 16 + ·)).find? fun k => (s.waves.get? k).isNone && !taken.contains k).getD 0
    slot :: State.seatSlots s oldCore core (slot :: taken) t

/-- A saved run restored into the cores of a team. -/
def State.loadRuns (s : State) (core base lines : Nat) : List SpadRun → State
  | [] => s
  | r :: t => State.loadRuns (s.loadRun core base lines r) (core + 1) base lines t

/-- Waves set in slots, each with the acquire that a barrier left for it (spec/08 R210). -/
def State.seatWaves (s : State) (slots : List Nat) : List (Wave × Nat) → State
  | [] => s
  | (w, n) :: t =>
    let slot := slots.getD n 0
    State.seatWaves (((s.setWave slot { w with nextIssue := s.now, eligAt := s.now, resort := true }).clearL1 (coreOf slot)).acquireDue slot) slots t

/-- What a restore has done so far: where each team stood and stands, as (old core, first line, lines, new core, new first line), and the
new slot of each slot of a saved team. -/
structure Moves where
  runs : List (Nat × Nat × Nat × Nat × Nat)
  seats : List (Nat × Nat)
  deriving DecidableEq, Repr

/-- A place moves with the allocation that holds it. -/
def Moves.place (m : Moves) (core off : Nat) : Nat × Nat :=
  match m.runs.find? fun r => decide (core = r.1 ∧ r.2.1 * 128 ≤ off ∧ off < (r.2.1 + r.2.2.1) * 128) with
  | some r => (r.2.2.2.1, off - r.2.1 * 128 + r.2.2.2.2 * 128)
  | none => (core, off)

/-- A team of a part is restored, but for its chains. -/
def State.restoreImage (s : State) (mv : Moves) (key : Nat) (m : Image) (die x y : Nat) (o : Nat × Nat) : Option (State × Moves) :=
  let r := s.recallImage m
  let s := r.1
  let m := r.2
  (s.imagePlace key m die x y o).map fun p =>
    let t := m.team
    let slots := s.seatSlots t.core p.1 [] m.oldSlots
    let team : Team := { t with core := p.1, spadBase := p.2, slots := slots.foldl (fun l n => addNat n l) [] }
    let s1 := (s.modCluster (clusOf p.1) fun c => c.takeClaims m.key m.tiles m.slots).setTeam m.key team
    let s2 := (s1.seatWaves slots (m.waves.zip m.seats)).loadRuns p.1 p.2 t.spadLines m.spad
    let run (k : Nat) : Nat × Nat × Nat × Nat × Nat := (t.core + k, t.spadBase, t.spadLines, p.1 + k, p.2)
    (s2, { runs := run 0 :: (if t.paired then [run 1] else []) ++ mv.runs
           seats := (slots.zip (List.range slots.length)).map (fun e => (savedSlot key e.2, e.1)) ++ mv.seats })

/-- The teams of a part restored one after another. -/
def State.restoreImages (s : State) (mv : Moves) (die x y : Nat) (o : Nat × Nat) : List (Nat × Image) → Option (State × Moves)
  | [] => some (s, mv)
  | e :: t => (s.restoreImage mv e.1 e.2 die x y o).bind fun r => State.restoreImages r.1 r.2 die x y o t

/-- An adopted task of a chain is restored into its helper's slot, where its tiles and slots are free (spec/11 R286). -/
def State.restoreChain (s : State) (mv : Moves) (m : Image) : Option State :=
  let r := s.recallImage m
  let s := r.1
  let m := r.2
  let slots := m.oldSlots.map fun n => ((mv.seats.find? fun e => decide (e.1 = n)).map (·.2)).getD 0
  let p := mv.place m.team.core (m.team.spadBase * 128)
  let c := s.cluster (clusOf p.1)
  if (m.tiles.all fun t => c.tileFree t.1) && m.slots.all fun t => c.slotFree t.1 then
    let s1 := (s.modCluster (clusOf p.1) fun c => c.takeClaims m.key m.tiles m.slots).setTeam m.key
      { m.team with core := p.1, spadBase := p.2 / 128, slots := slots }
    some ((s1.seatWaves slots (m.waves.map fun w => (w, 0))).loadRuns p.1 (p.2 / 128) m.team.spadLines m.spad)
  else none

/-- The chains of a part are restored one after another. -/
def State.restoreChains (s : State) (mv : Moves) : List (Nat × Image) → Option State
  | [] => some s
  | e :: t => (s.restoreChain mv e.2).bind fun u => State.restoreChains u mv t

/-- The context slots of restored chains name their new slots. -/
def State.relinkChains (s : State) (mv : Moves) : State :=
  { s with ctxSlots := s.ctxSlots.map fun e =>
      match mv.seats.find? fun x => decide (x.1 = e.2.slot) with
      | some x =>
        (e.1, { e.2 with
          slot := x.2
          clus := clusOf (coreOf x.2)
          wave := e.2.wave.map fun w => w.movedParks mv.place
          await := e.2.await.map (Park.moved mv.place) })
      | none => e }

/-- A part restored whole at an origin of a die; none where some team of it does not fit. Its pages are walked afresh (spec/11 R287, R293).
DESIGN CHOICE, log entry 82. -/
def State.restorePart (s : State) (ctx part die x y : Nat) : Option State :=
  let ms := s.partOf ctx part
  let roots := ms.filter fun e => decide (e.2.kind ≠ 2)
  let chains := ms.filter fun e => decide (e.2.kind = 2)
  (s.restoreImages { runs := [], seats := [] } die x y (origin ms) roots).bind fun r => (r.1.restoreChains r.2 chains).map fun s0 =>
    let s1 := s0.forgetPages ctx
    let slots := r.2.seats.map (·.2)
    let s2 := (foldState (fun s n => s.modWave n fun w => w.movedParks r.2.place) s1 slots).relinkChains r.2
    let gone := ms.map (·.1)
    let s3 : State :=
      { s2 with
        images := s2.images.filter fun e => !gone.contains e.1
        items := s2.items.filter fun e => match e.2.kind with
          | .saved k => !gone.contains k
          | _ => true }
    let fresh := (roots.filter fun e => decide (e.2.kind = 1)).map (·.2.key)
    let s4 := foldState (fun s n => if (s.waves.get? n).any fun w => fresh.contains w.team then s.restartWave n else s.retest n) s3 slots
    (s4.retryOwned (s4.arrived s)).reschedule

/-! ### The context controls (spec/15 R371, R372, R391) -/

/-- A range lies in HBM, or in SCM; an empty range lies anywhere. -/
def rangeHbm (a n : Nat) : Bool := decide (n = 0 ∨ a + n ≤ 0x8000000000)
def rangeBacked (a n : Nat) : Bool := rangeHbm a n || rangeScm a n

/-- The range is populated: none of it is a pool frame (spec/13 R329). -/
def State.rangePopulated (s : State) (a n : Nat) : Bool := rangeBacked a n && (decide (n = 0) || !inHbm a || s.clearOfPools a n)

/-- What a context descriptor gives; none where it is invalid. -/
def State.parseContext (s : State) (old : Context) (desc : Nat) (b : List Byte) : Option Context :=
  let f := fieldOf b
  let saveSize := f 0x38 8
  let pages := f 0x6C 4
  if decide (f 0 4 ≤ 3 ∧ f 0x70 16 = 0 ∧ f 8 8 % 65536 = 0 ∧ f 8 8 < 0x8000000000 ∧ f 0x18 8 % 8 = 0 ∧ f 0x20 8 % 256 = 0 ∧
      f 0x30 8 % 4096 = 0 ∧ saveSize % 4096 = 0 ∧ pages ≤ saveSize / 4096 ∧ f 0x40 8 % 32 = 0 ∧ f 0x50 8 % 32 = 0) &&
      s.rangePopulated (f 0x18 8) 512 && rangeHbm (f 0x20 8) (f 0x28 8) && rangeBacked (f 0x30 8) saveSize &&
      s.rangePopulated (f 0x40 8) (32 * f 0x48 4) && s.rangePopulated (f 0x50 8) (32 * f 0x58 4) then
    some { old with
      state := 1, enabledOnce := true, priv := decide (f 0 4 % 2 = 1), preempting := decide (f 0 4 / 2 = 1), deadline := if f 4 4 = 0 then 500 else f 4 4,
      root := f 8 8, qenable := BitVec.ofNat 64 (f 0x10 8), qtable := f 0x18 8, phaseBase := f 0x20 8, phaseSize := f 0x28 8,
      saveBase := f 0x30 8, saveSize := saveSize, flogBase := f 0x40 8, flogCount := f 0x48 4, rlogBase := f 0x50 8, rlogCount := f 0x58 4,
      cslotPages := pages, desc := desc, nextSeq := 1 }
  else none

/-- ENABLE: the device reads and checks the descriptor; one that is invalid or cannot be read sets CTXDESC (spec/15 R372, R391), and so does one
that is not aligned or does not lie in HBM (R371), which is DESIGN CHOICE, log entry 121. A doorbell that rang while the context was disabled or
killed has no effect (log entry 61). -/
def execCtxEnable (ctx : Nat) (s : State) : Host.Outcome State Fault Refusal :=
  let c := s.context ctx
  let pa := s.regs.ctxbase + 128 * ctx
  .next (
    if 16 ≤ ctx ∨ (c.state ≠ 0 ∧ c.state ≠ 4) then s
    else
      let r := s.physRead ctx pa 128
      match r.2 with
      | none => s.setError errCtxdesc ctx
      | some b =>
        match (if pa % 128 = 0 ∧ inHbm pa = true then s.parseContext c pa b else none) with
        | none => s.setError errCtxdesc ctx
        | some x => settleEvent schedAgent s ((r.1.setContext ctx x).unring ctx))

/-- DISABLE: with no live launch or saved team. -/
def execCtxDisable (ctx : Nat) (s : State) : Host.Outcome State Fault Refusal :=
  let c := s.context ctx
  .next (
    if (c.state ≠ 1 ∧ c.state ≠ 3) ∨ s.launches.any (fun e => decide (e.2.ctx = ctx)) = true ∨
        s.images.any (fun e => decide (e.2.ctx = ctx)) = true then s
    else s.setContext ctx { c with state := 0 })

/-- PREEMPT: a pre-emption request from system software. -/
def execCtxPreempt (ctx : Nat) (s : State) : Host.Outcome State Fault Refusal :=
  .next (if (s.context ctx).state = 1 then s.startPreempt ctx else s)

/-- RESUME: saved teams wait to be restored again. -/
def execCtxResume (ctx : Nat) (s : State) : Host.Outcome State Fault Refusal :=
  let c := s.context ctx
  .next (
    if c.state ≠ 3 then s
    else
      let saved := s.images.filter fun e => decide (e.2.ctx = ctx ∧ e.2.kind ≠ 2) && (s.savedItem e.1).isNone
      let t := foldState (fun s (e : Nat × Image) =>
        { s.distributable e.2.team.prio with
          items := s.items.put s.nextNum
            { ctx := ctx, kind := .saved e.1, prio := e.2.team.prio, since := s.clock.toNat, aged := false, clus := none, hdr := e.2.team.hdr }
          nextNum := s.nextNum + 1 }) (s.setContext ctx { c with state := 1 }) saved
      settleEvent schedAgent s (t.settleScan.reschedule))

/-- RESET: the context is reset at once. -/
def execCtxReset (ctx : Nat) (s : State) : Host.Outcome State Fault Refusal :=
  let c := s.context ctx
  .next (if 1 ≤ c.state ∧ c.state ≤ 3 then settleEvent imageAgent s (s.resetContext ctx) else s)

end Sys2Proof.Machine
end

