-- ==== Sys2Proof/Machine/Distribute.lean ====
section
/-! DEFINITION. What the scheduler chooses among everything that waits: the teams and items that it distributes, and the saved parts that it
restores (spec/12 R303 to R305, R315, spec/11 R286). -/

namespace Sys2Proof.Machine

/-! ### Saved parts as candidates -/

/-- The teams of a part, but for the chains in their slots. -/
def State.partRoots (s : State) (ctx part : Nat) : List (Nat × Image) := (s.partOf ctx part).filter fun e => decide (e.2.kind ≠ 2)

/-- The saved teams of a part as candidates (spec/12 R301, R305). -/
def State.partCands (s : State) (ctx part : Nat) : List Cand :=
  (s.partRoots ctx part).filterMap fun e => (s.savedItem e.1).bind fun k => (s.items.get? k).bind fun it => s.itemCand k it

/-- The saved team that an item stands for. -/
def State.savedOf? (s : State) (item : Nat) : Option Image :=
  (s.items.get? item).bind fun it => match it.kind with
    | .saved k => s.images.get? k
    | _ => none

/-- A part may be restored: every team of it is admitted, and one of a launch over its budget only where no other admitted item of its context
waits (spec/12 R303). The teams of one part, which are restored together, do not wait for each other. DEDUCED, log entry 80. -/
def State.partMay (s : State) (ctx part : Nat) : Bool :=
  let mine := s.partCands ctx part
  let others := (s.undistributed ++ s.localCands).filter fun c => !mine.any fun x => decide (x.key = c.key)
  mine.all fun c => s.admitted c && withinBudget others c

/-- A saved team fits a cluster: its part may be restored, and fits with this team there (spec/11 R286, spec/12 R305). -/
def State.savedFits (s : State) (clus : Nat) (c : Cand) : Bool :=
  match s.savedOf? c.key with
  | none => false
  | some m =>
    let o := origin (s.partOf m.ctx m.part)
    let x := clus % 8
    let y := clus % 48 / 8
    s.partMay m.ctx m.part && decide (m.dx - o.1 ≤ x ∧ m.dy - o.2 ≤ y) &&
      (s.restorePart m.ctx m.part (dieOf clus) (x - (m.dx - o.1)) (y - (m.dy - o.2))).isSome

/-- The cores that the teams of a part take at an origin of a die. -/
def State.partCores (s : State) (ctx part die x y : Nat) : List Nat :=
  let o := origin (s.partOf ctx part)
  (s.partRoots ctx part).flatMap fun e =>
    let core := (die * 48 + (y + (e.2.dy - o.2)) * 8 + (x + (e.2.dx - o.1))) * 4 + e.2.coreNo
    core :: (if e.2.team.paired then [core + 1] else [])

/-- Another candidate precedes every team of a part and fits in the room that the part would take: one that is not distributed or waits in the
local queue of a cluster of the part, on a core of the part; and a saved team of another part, on the die. Key 4 of the order is left open.
DESIGN CHOICE, log entries 79, 82. -/
def State.partBehind (s : State) (ctx part die x y : Nat) : Bool :=
  let mine := s.partCands ctx part
  let cores := s.partCores ctx part die x y
  let all := s.undistributed ++ s.localCands
  match firstCand (fun _ => 0) mine with
  | none => false
  | some p =>
    (s.undistributed ++ ((cores.map clusOf).eraseDups.flatMap s.startable)).any fun c =>
      !(mine.any fun m => decide (m.key = c.key)) && candBefore (fun _ => 0) c p && withinBudget all c &&
        (if (s.savedOf? c.key).isSome then (List.range 48).any fun k => s.savedFits (die * 48 + k) c
         else (cores.map clusOf).any fun k => (findPlace c.hdr (fun n => cores.contains n && s.mayUse c n) (s.rooms k)).isSome)

/-- A saved part of an enabled context is restored, where it may and no other candidate goes before it; an image that fails its check resets the
context (spec/11 R285, spec/12 R303, R305). DESIGN CHOICE, log entry 82. -/
def execPartRestore (ctx part die x y : Nat) (s : State) : Host.Outcome State Fault Refusal :=
  let ms := s.partOf ctx part
  .next (
    if (s.context ctx).state ≠ 1 ∨ ms = [] ∨ s.partMay ctx part = false ∨ s.partBehind ctx part die x y = true then s
    else if ms.any fun e => !s.imageOk e.2 then settleEvent imageAgent s ((s.setError errImage ctx).resetContext ctx)
    else match s.restorePart ctx part die x y with
      | none => s
      | some t => settleEvent imageAgent s t)

/-! ### Distribution (spec/12 R304) -/

/-- The scheduler distributes the first candidate that fits to a cluster. Where that is a saved team, its part is to be restored there, and
nothing is distributed. DESIGN CHOICE, log entry 79. -/
def execDistribute (clus : Nat) (affinity : List Nat) (s : State) : Host.Outcome State Fault Refusal :=
  let waiting := s.undistributed
  let rooms := s.plannedRooms clus
  let at_ (c : Cand) : Option (Nat × Nat) := findPlace c.hdr (s.mayUse c) rooms
  let aff (c : Cand) : Nat := match at_ c with
    | some x => s.affinity affinity x.1 c
    | none => 0
  let fits (c : Cand) : Bool :=
    if (s.savedOf? c.key).isSome then s.savedFits clus c
    else withinBudget (waiting ++ s.localCands) c && (at_ c).isSome && s.together clus c
  .next (
    if 192 ≤ clus ∨ 8 ≤ (s.localQueue clus).length then s
    else match firstCand aff (waiting.filter fits) with
      | none => s
      | some c => if (s.savedOf? c.key).isSome then s else s.sendTo clus c)

end Sys2Proof.Machine
end

