-- ==== Sys2Proof/Machine/Fences.lean ====
section
/-! DEFINITION. Fences: minors 0 to 2 of major 0x17 (spec/06 R166, R167, R169). -/

namespace Sys2Proof.Machine

/-- `fence.kind.scope`: loads have returned by the time a later word issues, so an acquire fence has only its acquire to do; a release
fence commits and waits as `releasing` says (spec/06 R166). DEDUCED, log entry 72. -/
def execFence (q : Sched) (kind : FenceKind) (scope : BitVec 3) (s : State) : Host.Outcome State Fault Refusal :=
  issueWord q (.fence q kind scope) s fun t w =>
    let slot := t.issue.slot
    match kind with
    | .acq => .done (t.acquire slot scope.toNat)
    | .rel => releasing t w scope.toNat .done
    | .full => releasing t w scope.toNat fun c => .done (c.acquire slot scope.toNat)

/-- The operations of the named queues that have been posted and not performed (spec/06 R167). DEDUCED, log entry 47. -/
def State.inQueues (s : State) (w : Wave) (queues : BitVec 6) : List Nat :=
  let named (b : Nat) (l : List Nat) : List Nat := if queues.getLsbD b then l else []
  let mine (x : Inval) : Bool := match x.kind with
    | .page c _ => decide (c = w.ctx)
    | .context c => decide (c = w.ctx)
    | .all => true
  named 0 (s.clusters.flatMap fun e => (e.2.copies.filter fun c => decide (c.team = w.team)).map (·.num)) ++
    named 1 (s.dies.flatMap fun e => (e.2.tierQ.filter fun c => decide (c.team = w.team) && c.isXfer).map (·.num)) ++
    named 2 (s.dies.flatMap fun e => (e.2.waggleQ.filter fun c => decide (c.team = w.team)).map (·.num)) ++
    named 3 (s.clusters.flatMap fun e => (e.2.resv.filter fun c => decide (c.team = w.team)).map (·.num)) ++
    named 4 ((s.remoteOps.filter fun r => decide (r.task = w.task) && !r.performed).map (·.num)) ++
    named 5 ((s.invals.filter fun e => mine e.2).map (·.1))

/-- The orders that still bind something. -/
def State.liveFences (s : State) (fs : List Qfence) : List Qfence := fs.filter fun f => !s.settled f.before

/-- `qfence`: later operations of the named queues wait for the earlier ones (spec/06 R167). DEDUCED, log entry 47. -/
def execQfence (q : Sched) (queues : BitVec 6) (s : State) : Host.Outcome State Fault Refusal :=
  issueWord q (.qfence q queues) s fun t w =>
    let f : Qfence := { queues := queues, before := t.inQueues w queues }
    .done ({ t with teams := t.teams.modify w.team fun x => { x with qfences := t.liveFences (x.qfences ++ [f]) } }.wave fun x =>
      { x with qfences := t.liveFences (x.qfences ++ [f]) })

/-- `pfence`: later persistent stores belong to a later epoch, which enters after the earlier ones (spec/06 R169). DEDUCED, log entry 40. -/
def execPfence (q : Sched) (s : State) : Host.Outcome State Fault Refusal :=
  issueWord q (.pfence q) s fun t _ => .done (t.wave fun x => { x with pfences := x.pfences + 1 })

end Sys2Proof.Machine
end

