-- ==== Sys2Proof/Machine/Loads.lean ====
section
/-! DEFINITION. Vector loads and stores, prefetch and write-back: majors 0x11 and 0x12 (spec/06 R147 to R158, R168, R170). -/

namespace Sys2Proof.Machine

/-- A load from the global spaces, whose bytes a reading function gives (spec/06 R151). All lanes, and both halves of a 16-byte access, are
read in one step, so one load returns no part of a block-float object from before an addition and another from after it, which
spec/02 R62 lets happen. DESIGN CHOICE, log entry 112. -/
def loadGlobal (q : Sched) (instr : Instr) (vd : VReg) (base : BitVec 5) (voff : BitVec 7) (k : Width) (comb : Bool)
    (read : State → Nat → Wave → Nat → List Acc → State × List Nat × List (Nat × List Byte)) (s : State) : Host.Outcome State Fault Refusal :=
  issueWord q instr s fun t w =>
    let i := t.issue
    let n := Width.bytes k
    globalAccess t w n n 0 { rd := true, wr := false, comb := comb } (some false)
      (i.activeLanes.map fun l => (l, i.globalVa base voff l)) fun u as =>
      Did.orTrap u (u.markedLanes n 0 false as) (
        let r := read (u.afterRemote w n as) (coreOf i.slot) w n as
        Did.orTrap r.1 (refusedLanes r.2.1 false)
          (.done (if as = [] then r.1 else r.1.putLanes vd.toNat (Width.count k) (r.2.2.map fun x => (x.1, Width.load k x.2)))))

/-- A read through the L1, or past it where the hint says so (spec/13 R319). -/
def rowRead (bypass : Bool) (s : State) (core : Nat) (w : Wave) (n : Nat) (as : List Acc) : State × List Nat × List (Nat × List Byte) :=
  s.readLanes core w n bypass as

/-- `vld` (spec/06 R151). -/
def execVld (q : Sched) (vd : VReg) (base : BitVec 5) (voff : BitVec 7) (width : Width) (s : State) : Host.Outcome State Fault Refusal :=
  loadGlobal q (.vld q vd base voff width) vd base voff width false (rowRead s.issue.held.bypass) s

/-- `vldc`: what `vld` returns, through the constant path (spec/06 R154). -/
def execVldc (q : Sched) (vd : VReg) (base : BitVec 5) (voff : BitVec 7) (width : Width) (s : State) : Host.Outcome State Fault Refusal :=
  loadGlobal q (.vldc q vd base voff width) vd base voff width false (rowRead s.issue.held.bypass) s

/-- `vldt`: a column load of a COMB page (spec/06 R157). DEDUCED, log entry 23. -/
def execVldt (q : Sched) (vd : VReg) (base : BitVec 5) (voff : BitVec 7) (width : Width) (s : State) : Host.Outcome State Fault Refusal :=
  loadGlobal q (.vldt q vd base voff width) vd base voff width true State.readColumns s

/-- `vlds`: a load from a scratchpad (spec/06 R151, R156). -/
def execVlds (q : Sched) (vd : VReg) (base : BitVec 5) (voff : BitVec 7) (width : Width) (s : State) : Host.Outcome State Fault Refusal :=
  issueWord q (.vlds q vd base voff width) s fun t w =>
    let i := t.issue
    let n := Width.bytes width
    spadAccess t w (.vlds q vd base voff width) n false (i.activeLanes.map fun l => (l, i.spadVa base voff l)) fun as =>
      .done (if as = [] then t
        else t.putLanes vd.toNat (Width.count width) (as.map fun a => (a.lane, Width.load width (t.spadBytes a.core a.off n))))

/-- The bytes that a lane stores (spec/06 R148). -/
def Issue.storeData (i : Issue) (vs : VReg) (k : Width) (l : Nat) : List Byte :=
  storeBytes (Width.bytes k) ((run vs.toNat (Width.count k)).map fun r => i.src.lane r l)

/-- `vst`: a store to global memory (spec/06 R151 to R153, R168). -/
def execVst (q : Sched) (vs : VReg) (base : BitVec 5) (voff : BitVec 7) (width : Width) (s : State) : Host.Outcome State Fault Refusal :=
  issueWord q (.vst q vs base voff width) s fun t w =>
    let i := t.issue
    let n := Width.bytes width
    globalAccess t w n n 0 { rd := false, wr := true } (some true)
      (i.activeLanes.map fun l => (l, i.globalVa base voff l)) fun u as =>
      .done (u.storeLanes w (as.map fun a => (a, i.storeData vs width a.lane)))

/-- `vsts`: a store to a scratchpad; lanes in ascending order (spec/06 R151, R152, R156, spec/08 R207). -/
def execVsts (q : Sched) (vs : VReg) (base : BitVec 5) (voff : BitVec 7) (width : Width) (s : State) : Host.Outcome State Fault Refusal :=
  issueWord q (.vsts q vs base voff width) s fun t w =>
    let i := t.issue
    spadAccess t w (.vsts q vs base voff width) (Width.bytes width) true (i.activeLanes.map fun l => (l, i.spadVa base voff l)) fun as =>
      .done (foldState (fun u a => u.spadStore a.core a.off (i.storeData vs width a.lane)) t as)

/-- A tile that is resident in SCM is asked of the tier engine, which moves it into a free frame where its pool is enabled (spec/06 R158,
spec/13 R331, R332). DEDUCED, log entry 25. -/
def State.requestTile (s : State) (tile : Nat) : State :=
  let die := homeDie (tile * 65536)
  if s.movable tile && decide (2 ≤ (s.dirOf tile).state) && (freeFrame (s.usedFrames die) (s.die die).poolFrames).isSome then s.startMove tile .fetch
  else s

/-- The row of one lane brought towards the core: into its L1, but for a row that the L1 never holds, one that holds bytes of the task's
version, or one asked for past the L1; a lane whose address would fault is dropped (spec/06 R158, spec/13 R319). DEDUCED, log
entry 25. -/
def State.prefetch (s : State) (slot : Nat) (w : Wave) (bypass : Bool) (va : Nat) : State :=
  let core := coreOf slot
  let r := s.check w.ctx (dieOf (clusOf core)) (some (clusOf core)) va 1 1 { rd := true, wr := false }
  match r.2 with
  | .error _ => r.1
  | .ok (pa, pte) =>
    let row := pa / 32
    let mine (v : Assoc Byte) : Bool := v.any fun e => decide (e.1 / 32 = row)
    if inRemote pa || s.marked pa 1 then r.1
    else
      let u := r.1.requestTile (pa / 65536)
      if bypass || pteMside pte || mine (s.version w.task) || mine (s.waiting w.task) || ((u.core core).l1.get? row).isSome || u.moving pa then u
      else
        let t := (u.combRead pa none).fillL1 core row (u.bytesAt (row * 32) 32)
        if t.stall = u.stall then t else u

/-- `vpref`: a request that writes no register and raises nothing (spec/06 R158). DEDUCED, log entry 25. -/
def execVpref (q : Sched) (base : BitVec 5) (voff : BitVec 7) (s : State) : Host.Outcome State Fault Refusal :=
  issueWord q (.vpref q base voff) s fun t w =>
    let i := t.issue
    .done (foldState (fun s l => s.prefetch i.slot w i.held.bypass (i.globalVa base voff l)) t i.activeLanes)

/-- The bytes of the 32-byte lines of some lanes, as the ordering point holds them. DEDUCED, log entry 26. -/
def State.lineBytes (s : State) (as : List Acc) : List Host.Cell :=
  ((as.map fun a => a.pa / 32).eraseDups).flatMap fun l => cellsAt (l * 32) (s.bytesAt (l * 32) 32)

/-- The lines among them that carry an error mark. -/
def State.markedLines (s : State) (as : List Acc) : List Nat :=
  ((as.map fun a => a.pa / 32).eraseDups.map (32 * ·)).filter s.marks.contains

/-- The lanes of a `vpwb` with no PERSIST page do nothing and raise nothing (spec/06 R170). DEDUCED, log entry 26. -/
def State.persistLane (s : State) (slot : Nat) (w : Wave) (va : Nat) : Bool :=
  match (s.translate w.ctx (dieOf (clusOf (coreOf slot))) (some (clusOf (coreOf slot))) va).2 with
  | .ok _ pte => ptePersist pte
  | .bad _ => true

/-- `vpwb`: the line of each lane's address enters the write-back queue as it stands at the ordering point; no byte of it changes, so
its error marks stay (spec/06 R170, spec/13 R328). A `pfence` orders it as any persistent store, and with no active lane it changes
nothing (R169, spec/03 R68). DEDUCED, log entry 26. -/
def execVpwb (q : Sched) (base : BitVec 5) (voff : BitVec 7) (s : State) : Host.Outcome State Fault Refusal :=
  issueWord q (.vpwb q base voff) s fun t w =>
    let i := t.issue
    let lanes := (i.activeLanes.map fun l => (l, i.globalVa base voff l)).filter fun x => t.persistLane i.slot w x.2
    if i.activeLanes = [] then .done t
    else
      globalAccess t w 1 1 0 { rd := false, wr := true } none lanes fun u as =>
        let c := u.commit i.slot
        if as = [] then .done c else .done ((c.ordered i.slot).enterNow w i.slot (c.lineBytes as) (c.markedLines as))

end Sys2Proof.Machine
end

