-- ==== Sys2Proof/Machine/Platform.lean ====
section
/-! DEFINITION. The package controller: translation invalidations, die parking, performance states and energy, features, attestation,
management registers, reset, bring-up and power loss (spec/11 R292, spec/13 R329, R337, R338, spec/14 R359, R360, R390, spec/15 R361 to
R366, R370, R373, R374). -/

namespace Sys2Proof.Machine

/-! ### Invalidations (spec/11 R292) -/

/-- An invalidation is posted. -/
def State.postInval (s : State) (k : InvalKind) : State :=
  { s with invals := s.invals.put s.nextNum { kind := k, before := none }, nextNum := s.nextNum + 1 }

/-- INVAL of one page of a context; the register holds VA[63:16]. -/
def execInvalPage (ctx va : Nat) (s : State) : Host.Outcome State Fault Refusal :=
  .next (if 16 ≤ ctx ∨ 2 ^ 64 ≤ va then s else s.postInval (.page ctx (va / 65536 * 65536)))

/-- INVAL of one context. -/
def execInvalContext (ctx : Nat) (s : State) : Host.Outcome State Fault Refusal :=
  .next (if 16 ≤ ctx then s else s.postInval (.context ctx))

/-- INVAL of everything. -/
def execInvalAll (s : State) : Host.Outcome State Fault Refusal := .next (s.postInval .all)

/-- An invalidation covers a cached entry. -/
def InvalKind.covers : InvalKind → Cached → Bool
  | .page ctx va, c => decide (c.ctx = ctx ∧ c.page = va / 2 ^ levelShift c.level)
  | .context ctx, c => decide (c.ctx = ctx)
  | .all, _ => true

/-- An invalidation names a context. -/
def InvalKind.names (k : InvalKind) (ctx : Nat) : Bool :=
  match k with
  | .page c _ => decide (c = ctx)
  | .context c => decide (c = ctx)
  | .all => true

/-- An invalidation names the context of a task, or of a task that has ended, whose context is not known any more. -/
def State.inKind (s : State) (k : InvalKind) (task : Nat) : Bool :=
  match s.waves.find? fun e => decide (e.2.task = task) with
  | some e => k.names e.2.ctx
  | none => (s.slotWave? task).all fun x => k.names x.2.ctx

/-- An access of a context that an invalidation names, begun before a number with an address translated then, has not been performed at
device scope: a held store of a task or of a capsule step, a persistent store outside its queue, a remote store or `signal`, an accepted tier
command, or a `tagq`. Every other access translates at the event that performs it. DEDUCED, log entry 120. -/
def State.begunBefore (s : State) (k : InvalKind) (n : Nat) : Bool :=
  let buffered (w : Wave) : Bool := s.inKind k w.task && w.stepBuf.any fun b => !b.own && decide (b.num < n)
  (s.heldFrom.any fun e => decide (e.2 < n) && decide (s.version e.1 ≠ []) && s.inKind k e.1) ||
    (s.waves.any fun e => buffered e.2) || (s.ctxSlots.any fun e => e.2.wave.any buffered) ||
    (s.persists.any fun g => decide (g.num < n) && s.inKind k g.task) ||
    (s.remoteOps.any fun r => !r.performed && decide (r.num < n) && s.inKind k r.task) ||
    s.dies.any fun e => (e.2.tierQ.any fun c => c.accepted && decide (c.num < n) && k.names c.ctx) || e.2.tagqs.any fun x => decide (x.num < n) && s.inKind k x.task

/-- The oldest posted invalidation goes on: first every TLB and non-leaf cache drops what it covers; then, once no access begun before that
is left, INVALDONE counts it (spec/11 R292). DEDUCED, log entry 120. -/
def execInvalidationPerformed (s : State) : Host.Outcome State Fault Refusal :=
  .next (match s.invals with
    | [] => s
    | i :: rest =>
      match i.2.before with
      | none =>
        { s with
          invals := (i.1, { i.2 with before := some (s.nextNum + 1) }) :: rest
          nextNum := s.nextNum + 1
          clusters := s.clusters.map fun e => (e.1, { e.2 with tlb := e.2.tlb.filter fun c => !i.2.kind.covers c })
          dies := s.dies.map fun e => (e.1, { e.2 with mmu := e.2.mmu.filter fun c => !i.2.kind.covers c }) }
      | some n =>
        if s.begunBefore i.2.kind n then s else { s with invals := rest, regs := { s.regs with invalDone := (s.regs.invalDone + 1) % 2 ^ 32 } })

/-! ### Die parking (spec/15 R365, R366) -/

/-- Every other die is parked or parking. -/
def State.lastRunning (s : State) (die : Nat) : Bool :=
  (List.range 4).all fun d => decide (d = die) || decide ((s.die d).park = 1 ∨ (s.die d).park = 2)

/-- The clusters of a die. -/
def diesClusters (die : Nat) : List Nat := (List.range 48).map (die * 48 + ·)

/-- A write of REQ = 1 to a die's PARK. DEDUCED, log entry 96. -/
def execParkRequest (die : Nat) (s : State) : Host.Outcome State Fault Refusal :=
  let d := s.die die
  let refused := s.modDie die fun x => { x with parkRefused := true }
  .next (
    if 4 ≤ die then s
    else if d.park = 3 then refused
    else if d.park ≠ 0 then s.modDie die fun x => { x with parkRefused := false }
    else if !s.regs.featAccept.getLsbD 6 || s.lastRunning die || (s.scanning.any fun x => !x.abort && decide (x.die = die)) then refused
    else
      ((s.modDie die fun x => { x with park := 1, parkReq := true, parkRefused := false, powerDown := false, unparkAfter := false }).withdraw
        fun c => decide (dieOf c = die)).reschedule)

/-- A write of REQ = 0 to a die's PARK, by the die's state. DEDUCED, log entry 96. -/
def State.unparkWrite (s : State) (die : Nat) : State :=
  let d := s.die die
  if 4 ≤ die then s
  else
    let s1 := s.modDie die fun x => { x with parkRefused := false }
    if d.park = 1 then
      (s1.modDie die fun x => if x.powerDown then { x with parkReq := false, unparkAfter := true } else { x with park := 0, parkReq := false }).reschedule
    else if d.park = 2 then s1.modDie die fun x => { x with park := 3, parkReq := false }
    else s1

/-- A park in progress is cancelled; once power-down has begun, the die unparks after it. -/
def execParkCancel (die : Nat) (s : State) : Host.Outcome State Fault Refusal :=
  .next (if (s.die die).park = 2 then s else s.unparkWrite die)

/-- A parked die starts to unpark. -/
def execUnpark (die : Nat) (s : State) : Host.Outcome State Fault Refusal :=
  .next (if (s.die die).park = 1 then s else s.unparkWrite die)

/-- The clusters and cores of a die lose their contents. -/
def State.clearDie (s : State) (die : Nat) : State :=
  { s with
    clusters := s.clusters.filter fun e => !decide (dieOf e.1 = die)
    cores := s.cores.filter fun e => !decide (dieOf (clusOf e.1) = die) }

/-- Work stands in the clusters of a die: a resident team, a forming wave, or an operation in flight. DEDUCED, log entry 96. -/
def State.dieBusy (s : State) (die : Nat) : Bool :=
  (s.teams.any fun e => decide (dieOf (clusOf e.2.core) = die)) ||
    s.clusters.any fun e => decide (dieOf e.1 = die) &&
      (decide (e.2.brood ≠ []) || decide (e.2.copies ≠ []) || decide (e.2.resv ≠ []) || decide (e.2.counts ≠ []))

/-- A parking die with no resident team begins to power down, and has powered down with the next event. DEDUCED, log entry 96. -/
def execDiePowerDown (die : Nat) (s : State) : Host.Outcome State Fault Refusal :=
  let d := s.die die
  .next (
    if d.park ≠ 1 ∨ s.dieBusy die = true then s
    else if d.powerDown = false then s.modDie die fun x => { x with powerDown := true }
    else (s.clearDie die).modDie die fun x => { x with park := if x.unparkAfter then 3 else 2, powerDown := false, unparkAfter := false })

/-- A die has unparked: its scratchpads and vector registers are zero. -/
def execUnparkComplete (die : Nat) (s : State) : Host.Outcome State Fault Refusal :=
  .next (if (s.die die).park ≠ 3 then s
    else ((s.clearDie die).modDie die fun x => { x with park := 0 }).reschedule)

/-! ### Performance states and energy (spec/15 R361 to R364) -/

/-- The effective state moves towards the slower of REQ and what the ceiling permits. DEDUCED, log entry 97. -/
def State.retarget (s : State) : State :=
  let t := max s.regs.req s.regs.permit
  { s with regs := { s.regs with target := t, trans := decide (t ≠ s.regs.cur) } }

/-- A write of PCEIL: WATTS outside 500 to 2,200 is ignored whole. -/
def execPceilWrite (value : BitVec 32) (s : State) : Host.Outcome State Fault Refusal :=
  let w := value.toNat % 4096
  .next (if w < 500 ∨ 2200 < w then s else { s with regs := { s.regs with pceil := w } })

/-- A write of PSTATE: only REQ is writable. -/
def execPstateWrite (value : BitVec 32) (s : State) : Host.Outcome State Fault Refusal :=
  .next ({ s with regs := { s.regs with req := value.toNat % 8 } } : State).retarget

/-- A transition completes. DEDUCED, log entry 97. -/
def execPstateTransitionDone (s : State) : Host.Outcome State Fault Refusal :=
  .next (if s.regs.trans then (({ s with regs := { s.regs with cur := s.regs.target, trans := false } } : State).retarget).reschedule else s)

/-- The shares of a number in proportion to the weights of a list; what truncation leaves stays out. -/
def shares (e : Nat) (ws : Assoc Nat) : Assoc Nat :=
  let total := (ws.map (·.2)).sum
  if total = 0 then [] else ws.map fun x => (x.1, e * x.2 / total)

/-- Energy in units of 10 nJ goes to the accounts of the launches that are live at the measurement (spec/12 R303): one that completed in the
interval gets none of it. DESIGN CHOICE, log entry 19. -/
def State.account (s : State) (es : Assoc Nat) : State :=
  { s with launches := s.launches.map fun x =>
      let e := ((es.filter fun y => decide (y.1 = x.1)).map (·.2)).sum
      let l := { x.2 with energy := x.2.energy + e }
      (x.1, { l with overBudget := l.overBudget || decide (l.budget ≠ 0 ∧ 100 * l.budget < l.energy) }) }

/-- The energy of an interval, in units of 10 nJ, is divided among the clusters in proportion to their activity, a cluster's share among the
launches that it worked for in the same proportion, and what is left among the launches in proportion to what they have got (spec/15 R364).
DESIGN CHOICE, log entry 19. -/
def State.attribute (s : State) (e : Nat) : State :=
  let given := (shares e (s.activity.map fun c => (c.1, (List.map (fun x => x.2) c.2).sum))).flatMap fun c =>
    shares c.2 (s.activity.getD c.1 [])
  let t := s.account (given ++ shares (e - (List.map (fun x => x.2) given).sum) given)
  { t with
    activity := []
    regs := { s.regs with energy := s.regs.energy + e } }

/-- The controller's decision of an interval: slower where the projected average would exceed the ceiling, and one state faster after
1 ms at least 5 % below it, where the average projected for the faster state stays within it (spec/15 R362). DEDUCED, log entry 97. -/
def Regfile.govern (r : Regfile) (milliwatts projected faster : Nat) : Regfile :=
  let ceiling := 1000 * r.pceil
  let sum := r.pwSum + milliwatts
  let full := decide (99 ≤ r.pwCount)
  let r1 := { r with pwSum := if full then 0 else sum, pwCount := if full then 0 else r.pwCount + 1 }
  if ceiling < projected then { r1 with permit := min 7 (max r.req r.permit + 1) }
  else if full && decide (sum ≤ 95 * ceiling) && decide (faster ≤ ceiling) && decide (r.req < r.permit) then { r1 with permit := r.permit - 1 }
  else r1

/-- A measurement of 10 µs: the power in milliwatts, the average projected, and the one projected for the next faster state. DESIGN CHOICE,
log entry 19; DEDUCED, log entry 97. -/
def execPowerMeasure (milliwatts projected faster : Nat) (s : State) : Host.Outcome State Fault Refusal :=
  let t := s.attribute milliwatts
  .next ({ t with regs := t.regs.govern milliwatts projected faster } : State).retarget

/-! ### Features and attestation (spec/14 R359, spec/15 R373) -/

/-- A write of FEATACCEPT. -/
def execFeatacceptWrite (value : BitVec 64) (s : State) : Host.Outcome State Fault Refusal :=
  .next (if 256 ≤ value.toNat ∨ value.toNat % 8 = 0 ∨ s.regs.featAccept ≠ 0 then s
    else { s with regs := { s.regs with featAccept := value.setWidth 8 } })

/-- A write of ATTCMD: 1 starts a quote, unless one is being formed. DEDUCED, log entry 94. -/
def execAttcmd (value : BitVec 32) (s : State) : Host.Outcome State Fault Refusal :=
  .next (if value = 1 then { s with regs := { s.regs with attcmd := true } } else s)

/-- The bytes of the core map (spec/15 R369, R374). -/
def State.cmapBytes (s : State) : List Byte :=
  (List.range 96).map fun i => BitVec.ofNat 8 ((List.range 8).map fun k => if s.cmapOff.contains (8 * i + k) then 0 else 2 ^ k).sum

/-- What a quote signs: nonce, serial, measurements, core map, FEATOFFER, FEATACCEPT and DRAIN. DEDUCED, log entry 94. -/
def State.quoteBody (s : State) : List Byte :=
  s.regs.attnonce ++ leBytes 8 Config.serial.toNat ++ s.regs.meas.flatten ++ s.cmapBytes ++ leBytes 8 0xFF ++ leBytes 8 s.regs.featAccept.toNat ++
    [BitVec.ofNat 8 s.regs.drain]

/-- The RSA-4096 signature over the SHA-512 digest of some bytes, 512 bytes with the most significant first. DEDUCED, log entry 94. -/
def signature (body : List Byte) : List Byte :=
  bigBytes 512 (Config.rsaSign (BitVec.ofNat 512 ((sha512 body).foldl (fun n b => 256 * n + b.toNat) 0))).toNat

/-- The quote is written to ATTBUF, and ATTCMD becomes 0. DEDUCED, log entry 94. -/
def execQuoteComplete (s : State) : Host.Outcome State Fault Refusal :=
  .next (if s.regs.attcmd then
      { s with regs := { s.regs with attcmd := false, attbuf := s.quoteBody ++ signature s.quoteBody } }
    else s)

/-! ### Tier registers and the error status (spec/13 R329, spec/15 R374) -/

/-- What the tiles of a die's pool have left in its frames stands in HBM: the pages there may be populated again (spec/13 R329, R332). -/
def State.exposeFrames (s : State) (die : Nat) : State :=
  let mine (b : Nat) : Bool := decide (b / 2 ^ 21 = die)
  let t := foldState (fun s (e : Nat × Sparse 8) => { s with mem := Sparse.splice s.mem (65536 * e.1) (dense e.2 0 65536) }) s
    (s.frames.filter fun e => mine e.1)
  let fresh (a : Nat) : Bool := (s.frames.get? (a / 65536)).isSome && mine (a / 65536)
  { t with
    frames := t.frames.filter fun e => !mine e.1
    l2 := t.l2.filter fun c => !fresh (c * 1024)
    combTags := t.combTags.filter fun e => !fresh (e.1 * 1024)
    dirty := t.dirty.filter fun a => !fresh a
    lowMarks := t.lowMarks.filter fun r => !fresh r }

/-- A write of TIERPOOL. -/
def execTierpoolWrite (die : Nat) (value : BitVec 64) (s : State) : Host.Outcome State Fault Refusal :=
  let frames := value.toNat % 2 ^ 22
  let base := value.toNat / 2 ^ 22 % 2 ^ 21
  .next (if 4 ≤ die ∨ (s.die die).polEnable = true ∨ 2097152 < base + frames then s
    else (s.exposeFrames die).modDie die fun d => { d with poolBase := base, poolFrames := frames })

/-- A write of TIERPOL; while the pool empties after a write of ENABLE := 0, the bit reads 1. DEDUCED, log entry 100. -/
def execTierpolWrite (die : Nat) (value : BitVec 32) (s : State) : Host.Outcome State Fault Refusal :=
  let t1 := value.toNat % 256
  let t2 := value.toNat / 2 ^ 8 % 256
  let t3 := value.toNat / 2 ^ 16 % 256
  let on := value.getLsbD 31
  .next (if 4 ≤ die ∨ ¬(t1 < t2 ∧ t2 < t3) then s
    else
      (s.modDie die fun d =>
        { d with
          thresh1 := t1, thresh2 := t2, thresh3 := t3, discMax := value.toNat / 2 ^ 24 % 16
          polEnable := on || d.polEnable
          polDisabling := !on && d.polEnable }).settlePool die)

/-- A write of ERRSTAT: bits written as 1 clear, and CTX clears with the last of them. -/
def execErrstatWrite (value : BitVec 64) (s : State) : Host.Outcome State Fault Refusal :=
  let e := s.regs.errstat &&& ~~~(value.setWidth 12 &&& 0x00F)
  .next { s with regs := { s.regs with errstat := if e.toNat % 16 = 0 then 0 else e } }

/-! ### Registers with no behaviour of their own (spec/15 R374) -/

/-- A unit of the access table written: BASE with RD in bit 0 and WR in bit 1, or LIMIT, in whole or in halves (spec/14 R360). -/
def AccWin.write (w : AccWin) (off width value : Nat) : AccWin :=
  let low := value % 2 ^ (8 * width)
  let base := w.base / 65536 * 65536 + (if w.rd then 1 else 0) + (if w.wr then 2 else 0)
  let put (old at_ : Nat) : Nat :=
    if width = 8 then low else if at_ = 0 then old / 2 ^ 32 * 2 ^ 32 + low else low * 2 ^ 32 + old % 2 ^ 32
  if off < 8 then
    let x := put base off
    { w with base := x / 65536 * 65536, rd := decide (x % 2 = 1), wr := decide (x / 2 % 2 = 1) }
  else { w with limit := put w.limit (off - 8) / 65536 * 65536 }

/-- A write of RECOVER: a step number from 1 to 5 starts that step. Another number starts nothing, and while a step runs it leaves that
step what it works with (spec/14 R356). DEDUCED, log entry 103. -/
def Recover.write (r : Recover) (value : Nat) : Recover :=
  let step := value % 8
  let r1 := { r with step := step, lost := value / 16 % 4, newpkg := value / 2 ^ 16 % 4096 }
  if 1 ≤ step ∧ step ≤ 5 then { r1 with running := true, acted := false, done := false, failed := false }
  else if r.running then r
  else r1

/-- An aligned value. DEDUCED, log entry 100. -/
def alignTo (n v : Nat) : Nat := v / n * n

/-- The 8-byte registers: new registers by offset. -/
def Regfile.write8 (r : Regfile) (off v : Nat) : Regfile :=
  match off with
  | 0x10 => { r with pkgid := v % 4096 }
  | 0x28 => { r with mbwin := alignTo (2 ^ 28) v }
  | 0x2000 => { r with ctxbase := v }
  | 0x5000 => { r with snapcfg := BitVec.ofNat 64 v &&& 0x3FFFFFFFFC3F0001#64 }
  | 0x5008 => { r with slotbase := v }
  | 0x5018 => { r with stagebase := v }
  | 0x5020 => { r with stagesize := v }
  | 0x6000 => { r with expbase := alignTo 65536 v }
  | 0x6008 => { r with expsize := alignTo 65536 v }
  | _ => r

/-- A write to a register, by its offset and width; of another width, misaligned, or to a read-only or reserved place, it is ignored.
DEDUCED, log entry 100. -/
def execRegisterWrite (off width : Nat) (value : BitVec 64) (s : State) : Host.Outcome State Fault Refusal :=
  let v := value.toNat % 2 ^ (8 * width)
  .next (
    if (width ≠ 4 ∧ width ≠ 8) ∨ off % width ≠ 0 then s
    else if 0x40000 ≤ off ∧ off < 0x42000 then
      { s with access := updAt (fun w => w.write (off % 16) width v) ((off - 0x40000) / 16) s.access }
    else if 0x3000 ≤ off ∧ off + width ≤ 0x3020 then
      { s with regs := { s.regs with attnonce := s.regs.attnonce.take (off - 0x3000) ++ leBytes width v ++ s.regs.attnonce.drop (off - 0x3000 + width) } }
    else if off = 0x5028 then (if width = 4 then { s with recover := s.recover.write v } else s)
    else if off = 0x5010 then (if width = 4 then { s with regs := { s.regs with shards := v } } else s)
    else if width = 8 then { s with regs := s.regs.write8 off v }
    else s)

/-! ### Hold-up energy (spec/13 R338) -/

/-- The capacity of a queue for an energy in millijoules. -/
def queueCapacity (mj : Nat) : Nat := min 67108864 (67108864 * mj / 480) / 32 * 32

/-- Every queue gets a capacity. -/
def State.setCapacity (s : State) (cap : Nat) : State := foldState (fun s d => s.modDie d fun x => { x with wbqCap := cap }) s (List.range 4)

/-- The hold-up bank is measured. DEDUCED, log entry 93. -/
def execHoldupMeasure (millijoules : Nat) (s : State) : Host.Outcome State Fault Refusal :=
  let cap := queueCapacity millijoules
  let t := s.setCapacity cap
  .next { t with regs := { t.regs with holdup := millijoules, holdlow := decide (cap < 2 ^ 20) } }

/-! ### Reset, bring-up and power loss (spec/13 R337, spec/14 R390, spec/15 R370) -/

/-- The controller's state and the memories' after a package reset, before its firmware is verified: what SCM holds stays, with its marks and
the groups that a write-back queue still holds, and the core map, the results of scans and the drain record. DEDUCED, log entries 92, 93. -/
def State.restarted (s : State) : State :=
  { State.reset with
    mem := s.mem
    scm := s.scm
    dies := s.dies.filterMap fun e => if e.2.wbq = [] ∧ e.2.wbqCap = Die.idle.wbqCap then none else some (e.1, { Die.idle with wbq := e.2.wbq, wbqCap := e.2.wbqCap })
    marks := (s.marks.filter (fun r => !s.framed (r / 65536) && !s.l2.contains (r / 1024)) ++ s.lowMarks.filter fun r => !s.framed (r / 65536)).foldl
      (fun l r => addNat r l) s.scmMarks
    cmapOff := s.cmapOff
    scanPassed := s.scanPassed
    drainRecord := s.drainRecord
    hostReplies := s.hostReplies
    peerReplies := s.peerReplies
    nextNum := s.nextNum
    turns := s.turns
    focus := s.focus
    free := s.free + 1
    regs :=
      { Regfile.reset with
        ready := false, fwfail := true, holdup := s.regs.holdup, holdlow := s.regs.holdlow, drain := s.regs.drain, meas := List.replicate 4 (List.replicate 64 0)
        attcert := Config.certificates } }

/-- The package after a bring-up (spec/15 R370). Where the firmware does not verify, the controller stops after step 1. Else every image is
measured, HBM reads zero and is unmarked, the hold-up bank is measured, and DRAIN tells how the last loss drained. DEDUCED, log entries 92,
93. -/
def State.bringUp (s : State) (drain : Nat) : State :=
  let t := s.restarted
  if !Config.firmwareOk s.free then t
  else
    let energy := Config.holdupEnergy s.free
    let cap := queueCapacity energy
    { t.setCapacity cap with
      mem := (s.dies.flatMap fun e => e.2.wbq.flatMap (·.bytes)).foldl (fun m c => Sparse.set m c.1 c.2) s.scm
      marks := t.marks.filter fun r => inScm r
      regs :=
        { t.regs with
          ready := true, fwfail := false, holdup := energy, holdlow := decide (cap < 2 ^ 20), drain := drain
          meas := (List.range 4).map fun k => measured (List.replicate 64 0) (Config.imageDigest (4 * s.free + k)) } }

/-- A write of DEVCTL: 1 resets the package. DEDUCED, log entry 92. -/
def execDevctlReset (value : BitVec 64) (s : State) : Host.Outcome State Fault Refusal :=
  .next (if value = 1 then s.bringUp 0 else s)

/-- The supply is lost: every core and engine stops, and the queues drain on the hold-up bank. DEDUCED, log entry 91. -/
def execPowerLoss (s : State) : Host.Outcome State Fault Refusal :=
  .next (if s.powered = false ∨ s.holdUp = true then s
    else { s with holdUp := true, drainRecord := some ((s.dies.map fun e => e.2.wbq.length).sum, false) })

/-- The last queue is empty: the drain record gets its completion mark, and the package powers off. DEDUCED, log entry 91. -/
def execDrainComplete (s : State) : Host.Outcome State Fault Refusal :=
  .next (if s.holdUp = false ∨ s.dies.any (fun e => decide (e.2.wbq ≠ [])) = true then s
    else { s with holdUp := false, powered := false, drainRecord := s.drainRecord.map fun r => (r.1, true) })

/-- Power returns: the controller brings the package up, and reports how the last loss drained. Where the hold-up bank gave out first,
what the queues still held is lost. DEDUCED, log entry 92. -/
def execPowerOn (s : State) : Host.Outcome State Fault Refusal :=
  .next (if s.powered = true ∧ s.holdUp = false then s
    else
      let t : State := { s with dies := s.dies.map fun e => (e.1, { e.2 with wbq := [] }) }
      t.bringUp (match s.drainRecord with
        | some (_, true) => 1
        | some (_, false) => 2
        | none => 3))

end Sys2Proof.Machine
end

