-- ==== Sys2Proof/Machine/Rings.lean ====
section
/-! DEFINITION. Elastic rings: major 0x1A, minors 4 to 8 (spec/09 R239 to R243). -/

namespace Sys2Proof.Machine

/-! ### The header and the slots (spec/09 R239) -/

/-- The fields of a ring header. -/
structure Ring where
  nslot : Nat
  ssize : Nat
  slots : Nat
  lend : Nat
  lendmax : Nat
  lent : Nat
  producer : Nat
  consumer : Nat
  resseq : Nat
  takeseq : Nat
  occ : Nat
  stat : Nat
  deriving DecidableEq, Repr

def State.readRing (s : State) (core off : Nat) : Ring :=
  let f := fun o n => s.spadValue core (off + o) n
  { nslot := f 0 2, ssize := f 2 2, slots := f 4 4, lend := f 8 4, lendmax := f 12 2, lent := f 14 2, producer := f 16 4, consumer := f 20 4,
    resseq := f 24 2, takeseq := f 26 2, occ := f 28 2, stat := f 30 2 }

/-- The fields that ring instructions change. -/
def State.writeRing (s : State) (core off : Nat) (r : Ring) : State :=
  (s.spadStore core (off + 14) (leBytes 2 r.lent)).spadStore core (off + 24)
    (leBytes 2 r.resseq ++ leBytes 2 r.takeseq ++ leBytes 2 r.occ ++ leBytes 2 r.stat)

def Ring.closed (r : Ring) : Bool := decide (r.stat % 2 = 1)
def Ring.faulted (r : Ring) : Bool := decide (r.stat / 8 % 2 = 1)
def Ring.owner (r : Ring) (bit task : Nat) : Option Nat := if r.stat / 2 ^ bit % 2 = 1 then some task else none

/-- The fields that say where the slots lie are in their ranges. -/
def Ring.placed (r : Ring) : Bool :=
  decide (1 ≤ r.nslot ∧ r.nslot ≤ 64 ∧ 16 ≤ r.ssize ∧ r.ssize ≤ 4096 ∧ r.ssize % 16 = 0 ∧ r.slots % 16 = 0 ∧ r.lendmax ≤ 8 * r.nslot ∧
    (r.lendmax = 0 ∨ r.lend % 16 = 0) ∧ r.lent ≤ r.lendmax)

/-- Every field is in its range. -/
def Ring.ok (r : Ring) : Bool := r.placed && decide (r.occ ≤ r.nslot + r.lendmax ∧ r.stat / 16 = 0)

/-- A slot: its number, the address of its payload, and where its word lies. -/
structure RSlot where
  num : Nat
  payload : Nat
  core : Nat
  off : Nat
  deriving DecidableEq, Repr

/-- Slot k of a ring: its own slots first, then the lent ones; none where its address names no scratchpad byte. DEDUCED, log entry 65. -/
def State.ringSlot (s : State) (t : Team) (core : Nat) (r : Ring) (k : Nat) : Option RSlot :=
  let a := if k < r.nslot then r.slots + k * r.ssize else r.lend + (k - r.nslot) * r.ssize
  (s.spadPlace t core a).map fun p => { num := k, payload := a + 8, core := p.1, off := p.2 }

/-- The first n slots of a ring. DEDUCED, log entry 65. -/
def State.ringSlots (s : State) (t : Team) (core : Nat) (r : Ring) (n : Nat) : Option (List RSlot) :=
  (List.range n).mapM (s.ringSlot t core r)

/-- The slot word. -/
def State.slotWord (s : State) (x : RSlot) : Nat := s.spadValue x.core x.off 8
def State.slotState (s : State) (x : RSlot) : Nat := s.slotWord x / 2 ^ 16 % 4
def State.slotSeq (s : State) (x : RSlot) : Nat := s.slotWord x % 2 ^ 16

/-- A slot takes a sequence number and a state. -/
def State.setSlot (s : State) (x : RSlot) (seq state : Nat) : State := s.spadStore x.core x.off (leBytes 8 (state * 2 ^ 16 + seq % 2 ^ 16))

/-- What a ring instruction works on. -/
structure RingAt where
  core : Nat
  off : Nat
  ring : Ring
  /-- The own slots, and the lent slots below LENT. -/
  slots : List RSlot
  /-- The slot that would be lent next. -/
  next : Option RSlot
  deriving DecidableEq, Repr

/-- The slot lines of a ring, where its header says where they lie: the lines that hold the words of the own slots, of the lent ones, and of the
one that would be lent next; no line of a payload is one. DESIGN CHOICE, log entry 128. -/
def State.slotLines (s : State) (w : Wave) (core off : Nat) : List (Nat × Nat) :=
  let r := s.readRing core off
  match s.teams.get? w.team with
  | none => []
  | some team =>
    if r.placed then
      ((List.range (r.nslot + min (r.lent + 1) r.lendmax)).filterMap fun k =>
        (s.ringSlot team (coreOf s.issue.slot) r k).map fun x => (x.core, x.off / 128)).eraseDups
    else []

/-- The checks of spec/09 R240 in their order, then what a ring instruction does. DEDUCED, log entry 65. -/
def ringAct (t : State) (w : Wave) (instr : Instr) (sa : SReg) (body : State → Wave → RingAt → Did) : Did :=
  let i := t.issue
  spadObjectOver t w instr (i.src.scalar sa.toNat) 32 true (t.slotLines w) fun core off =>
    let r := t.readRing core off
    let bad := objectSlot t instr
    match t.teams.get? w.team with
    | none => bad
    | some team =>
      if !r.ok then bad
      else
        match t.ringSlots team (coreOf i.slot) r (r.nslot + r.lent) with
        | none => bad
        | some slots =>
          let next := if r.lent < r.lendmax then t.ringSlot team (coreOf i.slot) r (r.nslot + r.lent) else none
          if r.lent < r.lendmax ∧ next.isNone = true then bad
          else if slots.any fun x => decide (t.slotWord x / 2 ^ 18 ≠ 0) then bad
          else body t w { core := core, off := off, ring := r, slots := slots, next := next }

/-- A ring instruction. -/
def ringOp (q : Sched) (instr : Instr) (sa : SReg) (body : State → Wave → RingAt → Did) (s : State) : Host.Outcome State Fault Refusal :=
  issueWord q instr s fun t w => ringAct t w instr sa body

/-- A ring instruction that may have waited: where the owner that it waited for, adopted, has ended by abort, it ends so (spec/09 R238). -/
def ringWait (q : Sched) (instr : Instr) (sd sa : SReg) (body : State → Wave → RingAt → Did) (s : State) : Host.Outcome State Fault Refusal :=
  issueWord q instr s fun t w => ownerEnded t w sd (ringAct t w instr sa body)

/-- The ring has changed: what waits on it is decided again (spec/09 R234). -/
def State.ringChanged (s : State) (x : RingAt) : State := s.retryWhere (ringAt x.core x.off 32)

/-- The park of a ring instruction. -/
def RingAt.park (x : RingAt) (t : State) (instr : Instr) : Park :=
  .ring x.core x.off (x.slots.map fun y => (y.core, y.off)) { instr := instr, held := t.issue.held, first := t.issue.first, src := t.issue.src }

/-- A slot given to the wave: its payload in sD, with `sc`. -/
def State.giveSlot (s : State) (sd : SReg) (x : RSlot) : State :=
  (s.putNow (.sca sd.toNat (BitVec.ofNat 32 x.payload))).putNow (.cond true)

/-! ### Transfer instructions (spec/09 R241, R242) -/

/-- `qres sD, sA`. -/
def execQres (q : Sched) (sd sa : SReg) (s : State) : Host.Outcome State Fault Refusal :=
  ringWait q (.qres q sd sa) sd sa (fun t w x =>
    let r := x.ring
    if r.faulted then .done (t.putStatus sd.toNat 3 r.consumer)
    else if r.closed then .done (t.putStatus sd.toNat 2 0)
    else
      let take (y : RSlot) (lent : Nat) : Did :=
        let u := (t.setSlot y r.resseq 1).writeRing x.core x.off { r with lent := lent, resseq := (r.resseq + 1) % 65536, occ := r.occ + 1 }
        .done ((u.giveSlot sd y).ringChanged x)
      match x.slots.find? fun y => decide (t.slotState y = 0), x.next with
      | some y, _ => take y r.lent
      | none, some y => take y (r.lent + 1)
      | none, none => helpOrPark t w (r.owner 2 r.consumer) (x.park t (.qres q sd sa)) t) s

/-- The slot whose payload a register names, in a state; SLOT_FAULT otherwise. DEDUCED, log entry 65. -/
def RingAt.named (x : RingAt) (t : State) (instr : Instr) (payload : Word) (state : Nat) (body : RSlot → Did) : Did :=
  match x.slots.find? fun y => decide (y.payload = payload.toNat) with
  | some y => if t.slotState y = state then body y else objectSlot t instr
  | none => objectSlot t instr

/-- `qpub sA, sB`. -/
def execQpub (q : Sched) (sa sb : SReg) (s : State) : Host.Outcome State Fault Refusal :=
  ringOp q (.qpub q sa sb) sa (fun t w x =>
    x.named t (.qpub q sa sb) (t.issue.src.scalar sb.toNat) 1 fun y =>
      releasing t w 2 fun c => .done ((c.setSlot y (t.slotSeq y) 2).ringChanged x)) s

/-- `qtake sD, sA`. -/
def execQtake (q : Sched) (sd sa : SReg) (s : State) : Host.Outcome State Fault Refusal :=
  ringWait q (.qtake q sd sa) sd sa (fun t w x =>
    let r := x.ring
    match x.slots.find? fun y => decide (t.slotState y = 2 ∧ t.slotSeq y = r.takeseq) with
    | some y =>
      let u := (t.setSlot y r.takeseq 3).writeRing x.core x.off { r with takeseq := (r.takeseq + 1) % 65536 }
      .done (((u.giveSlot sd y).acquire u.issue.slot 2).ringChanged x)
    | none =>
      if r.faulted then .done (t.putStatus sd.toNat 3 r.producer)
      else if r.closed ∧ r.takeseq = r.resseq then .done (t.putStatus sd.toNat 1 0)
      else helpOrPark t w (r.owner 1 r.producer) (x.park t (.qtake q sd sa)) t) s

/-- Lent slots return while the last of them is free (spec/09 R241). -/
def reclaimed (s : State) (slots : List RSlot) (nslot : Nat) : Nat → Nat
  | 0 => 0
  | lent + 1 =>
    match slots.find? fun y => decide (y.num = nslot + lent) with
    | some y => if s.slotState y = 0 then reclaimed s slots nslot lent else lent + 1
    | none => lent + 1

/-- `qdone sA, sB`. -/
def execQdone (q : Sched) (sa sb : SReg) (s : State) : Host.Outcome State Fault Refusal :=
  ringOp q (.qdone q sa sb) sa (fun t _ x =>
    x.named t (.qdone q sa sb) (t.issue.src.scalar sb.toNat) 3 fun y =>
      let u := t.setSlot y (t.slotSeq y) 0
      let r := x.ring
      .done ((u.writeRing x.core x.off
        { r with occ := (r.occ + 65535) % 65536, lent := reclaimed u x.slots r.nslot r.lent }).ringChanged x)) s

/-- `qclose sA` (spec/09 R243). -/
def execQclose (q : Sched) (sa : SReg) (s : State) : Host.Outcome State Fault Refusal :=
  ringOp q (.qclose q sa) sa (fun t w x =>
    releasing t w 2 fun c => .done ((c.writeRing x.core x.off { x.ring with stat := Nat.lor x.ring.stat 1 }).ringChanged x)) s

end Sys2Proof.Machine
end

