-- ==== Sys2Proof/Machine/Scalar.lean ====
section
/-! DEFINITION. The scalar instructions: majors 0x0B to 0x0D (spec/04 R93 to R101). -/

namespace Sys2Proof.Machine

/-- A scalar operation of latency 1 without flags (spec/04 R93, R119). -/
def scaInt (q : Sched) (instr : Instr) (sd : SReg) (f : Issue → Word) (s : State) : Host.Outcome State Fault Refusal :=
  issueWord q instr s fun t _ => .done (t.later 1 (.sca sd.toNat (f t.issue)))

/-- The value of scalar operand a. -/
def Issue.sa (i : Issue) (sa : SReg) : Word := i.src.scalar sa.toNat

/-- `sadd sd, sa, b`: (sa + b) mod 2^32 (spec/04 R95). -/
def execSadd (q : Sched) (sd sa : SReg) (b : SSrc) (s : State) : Host.Outcome State Fault Refusal :=
  scaInt q (.sadd q sd sa b) sd (fun i => let x := i.sa sa; let y := i.sint b; x + y) s

/-- `ssub sd, sa, b`: (sa − b) mod 2^32 (spec/04 R95). -/
def execSsub (q : Sched) (sd sa : SReg) (b : SSrc) (s : State) : Host.Outcome State Fault Refusal :=
  scaInt q (.ssub q sd sa b) sd (fun i => let x := i.sa sa; let y := i.sint b; x - y) s

/-- `smul sd, sa, b`: bits [31:0] of sa × b (spec/04 R95). -/
def execSmul (q : Sched) (sd sa : SReg) (b : SSrc) (s : State) : Host.Outcome State Fault Refusal :=
  scaInt q (.smul q sd sa b) sd (fun i => let x := i.sa sa; let y := i.sint b; x * y) s

/-- `smulhi sd, sa, b`: bits [63:32] of the signed product (spec/04 R95). -/
def execSmulhi (q : Sched) (sd sa : SReg) (b : SSrc) (s : State) : Host.Outcome State Fault Refusal :=
  scaInt q (.smulhi q sd sa b) sd (fun i => let x := i.sa sa; let y := i.sint b; mulHigh x y) s

/-- `sand sd, sa, b`: sa AND b (spec/04 R95). -/
def execSand (q : Sched) (sd sa : SReg) (b : SSrc) (s : State) : Host.Outcome State Fault Refusal :=
  scaInt q (.sand q sd sa b) sd (fun i => let x := i.sa sa; let y := i.sint b; x &&& y) s

/-- `sor sd, sa, b`: sa OR b (spec/04 R95). -/
def execSor (q : Sched) (sd sa : SReg) (b : SSrc) (s : State) : Host.Outcome State Fault Refusal :=
  scaInt q (.sor q sd sa b) sd (fun i => let x := i.sa sa; let y := i.sint b; x ||| y) s

/-- `sxor sd, sa, b`: sa XOR b (spec/04 R95). -/
def execSxor (q : Sched) (sd sa : SReg) (b : SSrc) (s : State) : Host.Outcome State Fault Refusal :=
  scaInt q (.sxor q sd sa b) sd (fun i => let x := i.sa sa; let y := i.sint b; x ^^^ y) s

/-- `sshl sd, sa, b`: sa shifted left by b[4:0] (spec/04 R95). -/
def execSshl (q : Sched) (sd sa : SReg) (b : SSrc) (s : State) : Host.Outcome State Fault Refusal :=
  scaInt q (.sshl q sd sa b) sd (fun i => let x := i.sa sa; let y := i.sint b; x <<< shiftBy y) s

/-- `sshr sd, sa, b`: sa shifted right by b[4:0], zeros entering (spec/04 R95). -/
def execSshr (q : Sched) (sd sa : SReg) (b : SSrc) (s : State) : Host.Outcome State Fault Refusal :=
  scaInt q (.sshr q sd sa b) sd (fun i => let x := i.sa sa; let y := i.sint b; x >>> shiftBy y) s

/-- `ssra sd, sa, b`: sa shifted right by b[4:0], copies of the sign entering (spec/04 R95). -/
def execSsra (q : Sched) (sd sa : SReg) (b : SSrc) (s : State) : Host.Outcome State Fault Refusal :=
  scaInt q (.ssra q sd sa b) sd (fun i => let x := i.sa sa; let y := i.sint b; x.sshiftRight (shiftBy y)) s

/-- `smin sd, sa, b`: the lesser, signed (spec/04 R95). -/
def execSmin (q : Sched) (sd sa : SReg) (b : SSrc) (s : State) : Host.Outcome State Fault Refusal :=
  scaInt q (.smin q sd sa b) sd (fun i => let x := i.sa sa; let y := i.sint b; minS x y) s

/-- `smax sd, sa, b`: the greater, signed (spec/04 R95). -/
def execSmax (q : Sched) (sd sa : SReg) (b : SSrc) (s : State) : Host.Outcome State Fault Refusal :=
  scaInt q (.smax q sd sa b) sd (fun i => let x := i.sa sa; let y := i.sint b; maxS x y) s

/-- `sminu sd, sa, b`: the lesser, unsigned (spec/04 R95). -/
def execSminu (q : Sched) (sd sa : SReg) (b : SSrc) (s : State) : Host.Outcome State Fault Refusal :=
  scaInt q (.sminu q sd sa b) sd (fun i => let x := i.sa sa; let y := i.sint b; minU x y) s

/-- `smaxu sd, sa, b`: the greater, unsigned (spec/04 R95). -/
def execSmaxu (q : Sched) (sd sa : SReg) (b : SSrc) (s : State) : Host.Outcome State Fault Refusal :=
  scaInt q (.smaxu q sd sa b) sd (fun i => let x := i.sa sa; let y := i.sint b; maxU x y) s

/-- A scalar operation that also writes `sc` (spec/04 R95). -/
def scaCarry (q : Sched) (instr : Instr) (sd : SReg) (f : Issue → Word) (c : Issue → Bool) (s : State) : Host.Outcome State Fault Refusal :=
  issueWord q instr s fun t _ => .done ((t.later 1 (.sca sd.toNat (f t.issue))).later 1 (.cond (c t.issue)))

/-- A Boolean as a word. -/
def boolWord (b : Bool) : Word := if b then 1 else 0

/-- `saddc sd, sa, b`: sa + b + `sc`, and the carry out of bit 31 (spec/04 R95). -/
def execSaddc (q : Sched) (sd sa : SReg) (b : SSrc) (s : State) : Host.Outcome State Fault Refusal :=
  scaCarry q (.saddc q sd sa b) sd (fun i => i.sa sa + i.sint b + boolWord i.src.sc) (fun i => carryOut (i.sa sa) (i.sint b) i.src.sc) s

/-- `ssubb sd, sa, b`: sa − b − `sc`, and the borrow (spec/04 R95). -/
def execSsubb (q : Sched) (sd sa : SReg) (b : SSrc) (s : State) : Host.Outcome State Fault Refusal :=
  scaCarry q (.ssubb q sd sa b) sd (fun i => i.sa sa - i.sint b - boolWord i.src.sc) (fun i => borrowOut (i.sa sa) (i.sint b) i.src.sc) s

/-- `scmp.cond sa, b`: `sc` is the condition (spec/04 R96). -/
def execScmp (q : Sched) (cond : ICond) (sa : SReg) (b : SSrc) (s : State) : Host.Outcome State Fault Refusal :=
  issueWord q (.scmp q cond sa b) s fun t _ => .done (t.later 1 (.cond (ICond.eval cond (t.issue.sa sa) (t.issue.sint b))))

/-- `ssel sd, sa, b`: sa where `sc` is 1, else b (spec/04 R96). -/
def execSsel (q : Sched) (sd sa : SReg) (b : SSrc) (s : State) : Host.Outcome State Fault Refusal :=
  scaInt q (.ssel q sd sa b) sd (fun i => if i.src.sc then i.sa sa else i.sint b) s

/-- `smov sd, b` (spec/04 R96). -/
def execSmov (q : Sched) (sd : SReg) (b : SSrc) (s : State) : Host.Outcome State Fault Refusal := scaInt q (.smov q sd b) sd (fun i => i.sint b) s

/-- `spopc sd, b`: the number of set bits (spec/04 R96). -/
def execSpopc (q : Sched) (sd : SReg) (b : SSrc) (s : State) : Host.Outcome State Fault Refusal :=
  scaInt q (.spopc q sd b) sd (fun i => BitVec.ofNat 32 (popCount (i.sint b))) s

/-- `sclz sd, b`: the number of leading zero bits (spec/04 R96). -/
def execSclz (q : Sched) (sd : SReg) (b : SSrc) (s : State) : Host.Outcome State Fault Refusal :=
  scaInt q (.sclz q sd b) sd (fun i => BitVec.ofNat 32 (leadingZeros (i.sint b))) s

/-- `sbfe sd, sa, b`: the field of sa that the descriptor b names; 0 for width 0 (spec/04 R96). -/
def execSbfe (q : Sched) (sd sa : SReg) (b : SSrc) (s : State) : Host.Outcome State Fault Refusal :=
  scaInt q (.sbfe q sd sa b) sd
    (fun i => let y := (i.sint b).toNat; if y / 256 % 64 = 0 then 0 else extractField (i.sa sa) (y % 32) (y / 256 % 64)) s

/-- A scalar float result with its flags (spec/04 R97). The random bits of RSR are those of the Leader (spec/02 R50). -/
def scaFloat (q : Sched) (instr : Instr) (lat : Nat) (sd : SReg) (f : Issue → Wave → Flagged Nat) (s : State) : Host.Outcome State Fault Refusal :=
  issueWord q instr s fun t w =>
    let r := f t.issue w
    .done ((t.later lat (.sca sd.toNat (BitVec.ofNat 32 r.1))).raiseFlags r.2)

/-- A scalar FP32 operation on sa, b and sd (spec/04 R97, spec/02 R50). -/
def scaFp32 (q : Sched) (instr : Instr) (o : FOp) (sd sa : SReg) (b : SSrc) (s : State) : Host.Outcome State Fault Refusal :=
  scaFloat q instr 1 sd
    (fun i w => FFmt.fp32.apply o i.held (i.mode w) (i.rsr w i.leader false) (i.sa sa).toNat (i.sflt b) (i.sa sd).toNat) s

/-- `sfadd sd, sa, b`: sa + b (spec/04 R97). -/
def execSfadd (q : Sched) (sd sa : SReg) (b : SSrc) (s : State) : Host.Outcome State Fault Refusal := scaFp32 q (.sfadd q sd sa b) .add sd sa b s

/-- `sfmul sd, sa, b`: sa × b (spec/04 R97). -/
def execSfmul (q : Sched) (sd sa : SReg) (b : SSrc) (s : State) : Host.Outcome State Fault Refusal := scaFp32 q (.sfmul q sd sa b) .mul sd sa b s

/-- `sffma sd, sa, b`: sa × b + sd, rounded once (spec/04 R97). -/
def execSffma (q : Sched) (sd sa : SReg) (b : SSrc) (s : State) : Host.Outcome State Fault Refusal := scaFp32 q (.sffma q sd sa b) .fma sd sa b s

/-- `sfmin sd, sa, b`: the lesser, −0 below +0 (spec/04 R97). -/
def execSfmin (q : Sched) (sd sa : SReg) (b : SSrc) (s : State) : Host.Outcome State Fault Refusal := scaFp32 q (.sfmin q sd sa b) .min sd sa b s

/-- `sfmax sd, sa, b`: the greater, −0 below +0 (spec/04 R97). -/
def execSfmax (q : Sched) (sd sa : SReg) (b : SSrc) (s : State) : Host.Outcome State Fault Refusal := scaFp32 q (.sfmax q sd sa b) .max sd sa b s

/-- `sfexp2 sd, b`: 2^b, of latency 8 (spec/04 R98, R119). -/
def execSfexp2 (q : Sched) (sd : SReg) (b : SSrc) (s : State) : Host.Outcome State Fault Refusal :=
  scaFloat q (.sfexp2 q sd b) 8 sd
    (fun i w => FFmt.fp32.finish (i.mode w) false (i.rsr w i.leader false) (FFun.exp2.eval (FFmt.fp32.decode (i.sflt b)))) s

/-- `sfcvt.dst.src sd, sa` (spec/04 R99). -/
def execSfcvt (q : Sched) (sd sa : SReg) (dst src : BitVec 4) (s : State) : Host.Outcome State Fault Refusal :=
  scaFloat q (.sfcvt q sd sa dst src) 1 sd
    (fun i w => CvtFmt.result (cvtOfCode dst) (i.mode w) i.held.sat (i.rsr w i.leader false) (CvtFmt.source (cvtOfCode src) (i.sa sa).toNat)) s

/-- A draw triple in three scalar registers (spec/04 R100). -/
def Issue.triple (i : Issue) (n : Nat) : Triple :=
  { idx := i.src.scalar n, mass := (i.src.scalar (n + 1)).toNat, top := (i.src.scalar (n + 2)).toNat }

/-- `drawm sd, sa`: the merge of two draws, of latency 8 (spec/04 R100, R119). -/
def execDrawm (q : Sched) (sd sa : SReg) (s : State) : Host.Outcome State Fault Refusal :=
  issueWord q (.drawm q sd sa) s fun t w =>
    let i := t.issue
    let r := mergeDraws (i.src.scalar 62).toNat (coinBits w.seed (i.src.scalar 63)) (i.triple sd.toNat) (i.triple sa.toNat)
    .done ((((t.later 8 (.sca sd.toNat r.1.idx)).later 8 (.sca (sd.toNat + 1) (BitVec.ofNat 32 r.1.mass))).later 8
      (.sca (sd.toNat + 2) (BitVec.ofNat 32 r.1.top))).raiseFlags r.2)

/-- `smovi sd, imm` (spec/04 R101). -/
def execSmovi (q : Sched) (sd : SReg) (imm : BitVec 16) (s : State) : Host.Outcome State Fault Refusal :=
  scaInt q (.smovi q sd imm) sd (fun _ => imm.signExtend 32) s

/-- `sori sd, imm`: the upper half ORed (spec/04 R101). -/
def execSori (q : Sched) (sd : SReg) (imm : BitVec 16) (s : State) : Host.Outcome State Fault Refusal :=
  scaInt q (.sori q sd imm) sd (fun i => i.sa sd ||| (imm ++ (0 : BitVec 16))) s

/-- `saddi sd, imm` (spec/04 R101). -/
def execSaddi (q : Sched) (sd : SReg) (imm : BitVec 16) (s : State) : Host.Outcome State Fault Refusal :=
  scaInt q (.saddi q sd imm) sd (fun i => i.sa sd + imm.signExtend 32) s

/-- `scmpi sd, imm` (spec/04 R101). -/
def execScmpi (q : Sched) (sd : SReg) (imm : BitVec 16) (s : State) : Host.Outcome State Fault Refusal :=
  issueWord q (.scmpi q sd imm) s fun t _ => .done (t.later 1 (.cond (decide (t.issue.sa sd = imm.signExtend 32))))

end Sys2Proof.Machine
end

