-- ==== Sys2Proof/Machine/ScalarMemory.lean ====
section
/-! DEFINITION. Scalar loads and stores: minors 0 to 2 of major 0x14 (spec/06 R159, spec/09 R245). -/

namespace Sys2Proof.Machine

/-- The address of a scalar load or store. -/
def Issue.scalarVa (i : Issue) (base : BitVec 5) (off : BitVec 8) : Nat :=
  (i.src.pair (2 * base.toNat) + 4 * off.setWidth 64).toNat

/-- The bytes of the open capsule step's stores, the latest in force. -/
def Wave.stepBytes (w : Wave) : Assoc Byte :=
  w.stepBuf.foldl (fun m b => (cellsAt b.pa b.data).foldl (fun m c => Assoc.put m c.1 c.2) m) []

/-- A scalar load of the Leader; the task's own stores of a capsule step, and those of its handler since, lie over what it reads
(spec/06 R152, spec/09 R245). -/
def scalarLoad (q : Sched) (instr : Instr) (sd : SReg) (base : BitVec 5) (w64 : Bool) (off : BitVec 8) (s : State) :
    Host.Outcome State Fault Refusal :=
  issueWord q instr s fun t w =>
    let i := t.issue
    let n := if w64 then 8 else 4
    globalAccess t w n n 0 { rd := true, wr := false } (some false) [(i.leader, i.scalarVa base off)] fun u as =>
      Did.orTrap u (u.markedLanes n 0 false as) (
        let r := (u.afterRemote w n as).readLanes (coreOf i.slot) w n false as
        Did.orTrap r.1 (refusedLanes r.2.1 false) (
          let x := leNat (overlay w.stepBytes ((as.map (·.pa)).headD 0) ((r.2.2.map (·.2)).headD []))
          .done (if w64 then r.1.putPair sd.toNat (BitVec.ofNat 64 x) else r.1.putNow (.sca sd.toNat (BitVec.ofNat 32 x)))))

/-- `sld` (spec/06 R159). -/
def execSld (q : Sched) (sd : SReg) (base : BitVec 5) (w64 : Bool) (off : BitVec 8) (s : State) : Host.Outcome State Fault Refusal :=
  scalarLoad q (.sld q sd base w64 off) sd base w64 off s

/-- `sldk`: what `sld` returns, through the constant path (spec/06 R154, R159). -/
def execSldk (q : Sched) (sd : SReg) (base : BitVec 5) (w64 : Bool) (off : BitVec 8) (s : State) : Host.Outcome State Fault Refusal :=
  scalarLoad q (.sldk q sd base w64 off) sd base w64 off s

/-- `sst`: held like a vector store, and in a capsule body buffered for the step's commit (spec/06 R159, spec/09 R245). -/
def execSst (q : Sched) (sd : SReg) (base : BitVec 5) (w64 : Bool) (off : BitVec 8) (s : State) : Host.Outcome State Fault Refusal :=
  issueWord q (.sst q sd base w64 off) s fun t w =>
    let i := t.issue
    let n := if w64 then 8 else 4
    let data := storeBytes n ((run sd.toNat (n / 4)).map i.src.scalar)
    globalAccess t w n n 0 { rd := false, wr := true } (some true) [(i.leader, i.scalarVa base off)] fun u as =>
      .done (
        if w.inBody then
          ({ u with nextNum := u.nextNum + 1 } : State).wave fun x =>
            { x with stepBuf := x.stepBuf ++ as.map fun a => { num := u.nextNum, pa := a.pa, persist := ptePersist a.pte, own := false, data := data } }
        else (u.storeLanes w (as.map fun a => (a, data))).noteOwn w (as.flatMap fun a => cellsAt a.pa data))

end Sys2Proof.Machine
end

