-- ==== Sys2Proof/Machine/System.lean ====
section
/-! DEFINITION. `smfr` and `smto` (spec/01 R27 to R33, spec/04 R116, R117). -/

namespace Sys2Proof.Machine

/-- A Boolean as a 64-bit value. -/
def boolDWord (b : Bool) : DWord := if b then 1 else 0

/-- The value of a system register for the Leader of a bundle (spec/01 R27 to R33). -/
def State.sysRead (s : State) (i : Issue) (w : Wave) (num : Nat) : DWord :=
  let t := s.teams.get? w.team
  let field (f : Team → Nat) : DWord := BitVec.ofNat 64 ((t.map f).getD 0)
  let core := coreOf i.slot
  match num with
  | 0x00 => BitVec.ofNat 64 i.leader
  | 0x01 => BitVec.ofNat 64 w.waveNo
  | 0x02 => field (·.number)
  | 0x03 => field (·.x)
  | 0x04 => field (·.y)
  | 0x05 => field (·.z)
  | 0x06 => BitVec.ofNat 64 w.task
  | 0x07 => BitVec.ofNat 64 (core % 4)
  | 0x08 => BitVec.ofNat 64 (clusOf core % 48)
  | 0x09 => BitVec.ofNat 64 (dieOf (clusOf core))
  | 0x0A => BitVec.ofNat 64 s.regs.pkgid
  | 0x0B => s.clock
  | 0x0C => w.fstat.setWidth 64
  | 0x0D => w.fmode.setWidth 64
  | 0x0E => w.tvec
  | 0x0F => w.tsw.setWidth 64
  | 0x10 => w.epc
  | 0x11 => w.tmask
  | 0x12 => w.tpend.setWidth 64
  | 0x13 => boolDWord w.chk
  | 0x14 => w.seed
  | 0x15 => w.rxwin.setWidth 64
  | 0x16 => w.ckey
  | 0x17 => BitVec.ofNat 64 (w.adopt * 16 + w.depth)
  | 0x18 => s.snap.word.setWidth 64
  | _ => 0

/-- An access of `sr.fstat` waits until every earlier vector and scalar word of the wave has written its result (spec/01 R28). Engine,
matrix and task results, which only `varPend` holds, are not waited for. DEDUCED, log entry 8. -/
def Wave.flagsDue (w : Wave) (num : BitVec 8) : Bool := decide (num = 0x0C) && decide (w.pend ≠ [])

/-- `smfr sd, sr.name`: latency 1, and variable-latency for `sr.fstat` (spec/04 R116, R119). DEDUCED, log entry 8. -/
def execSmfr (q : Sched) (sd : SReg) (num : BitVec 8) (s : State) : Host.Outcome State Fault Refusal :=
  issueWord q (.smfr q sd num) s fun t w =>
    let x := t.sysRead t.issue w num.toNat
    if w.flagsDue num then .wait t
    else .done (
      if sysReg64? num = some true then (t.later 1 (.sca sd.toNat (lowHalf x))).later 1 (.sca (sd.toNat + 1) (highHalf x))
      else if num = 0x0C then t.putNow (.sca sd.toNat (lowHalf x))
      else t.later 1 (.sca sd.toNat (lowHalf x)))

/-- Who may write a system register (spec/01 R27). -/
def State.mayWrite (s : State) (w : Wave) (num : Nat) : Bool :=
  match num with
  | 0x0C | 0x0D | 0x0E | 0x13 | 0x14 | 0x15 => true
  | 0x0F | 0x10 | 0x11 | 0x12 => w.handler.isSome
  | 0x18 => (s.context w.ctx).priv
  | _ => false

/-- The value is one that the register takes (spec/01 R29, R32, spec/04 R116). -/
def Wave.valueOk (w : Wave) (num : Nat) (v : DWord) : Bool :=
  match num with
  | 0x0D => decide (v.toNat % 8 ≤ 4)
  | 0x0E => decide (v.toNat % 4 = 0 ∧ v.toNat / 2 ^ 52 = 0)
  | 0x15 => !v.getLsbD 31 || decide (v.toNat / 256 % 256 ≠ 0 ∧ v.toNat % 128 + v.toNat / 256 % 256 ≤ w.hdr.vregs)
  | _ => true

/-- A system register written; reserved bits keep reading zero, but for those of `sr.tsw` (spec/00 R9, spec/11 R271, R272). -/
def Wave.sysWrite (w : Wave) (num : Nat) (v : DWord) : Wave :=
  match num with
  | 0x0C => { w with fstat := v.setWidth 5 }
  | 0x0D => { w with fmode := v.setWidth 3 }
  | 0x0E => { w with tvec := v }
  | 0x0F => { w with tsw := v.setWidth 32 }
  | 0x10 => { w with epc := v }
  | 0x11 => { w with tmask := v &&& w.mask }
  | 0x12 => { w with tpend := v.setWidth 32 &&& 0x000FFFFE }
  | 0x13 => { w with chk := v.getLsbD 0 }
  | 0x14 => { w with seed := v }
  | 0x15 => { w with rxwin := v.setWidth 32 &&& 0x8000FF7F }
  | _ => w

/-- `smto sr.name, sa` (spec/04 R116, R117). DEDUCED, log entry 8. -/
def execSmto (q : Sched) (sa : SReg) (num : BitVec 8) (s : State) : Host.Outcome State Fault Refusal :=
  issueWord q (.smto q sa num) s fun t w =>
    let i := t.issue
    let v : DWord := if sysReg64? num = some true then i.src.pair sa.toNat else (i.src.scalar sa.toNat).setWidth 64
    if w.flagsDue num then .wait t
    else if !t.mayWrite w num.toNat then i.raiseAll t (.smto q sa num) cPriv num.toNat
    else if !w.valueOk num.toNat v then i.raiseAll t (.smto q sa num) cIllegal 0
    else if num = 0x18 then .done (t.snapWrite (v.setWidth 32))
    else .done (t.wave fun x => x.sysWrite num.toNat v)

end Sys2Proof.Machine
end

