-- ==== Sys2Proof/Machine/VectorFloat.lean ====
section
/-! DEFINITION. The float vector instructions: majors 0x04 to 0x06, the float unary forms and `vcvt` of major 0x08, and `vfcmp`
(spec/05 R127 to R130, R133 to R136). -/

namespace Sys2Proof.Machine

/-- The values of the active lanes with their flags, ready after lat cycles (spec/05 R124, spec/01 R28). -/
def State.vecFlagged (s : State) (lat : Nat) (vd : VReg) (f : Nat → Flagged Nat) : State :=
  if s.issue.activeLanes = [] then s
  else
    let rs := s.issue.activeLanes.map fun l => (l, f l)
    (s.later lat (.vec vd.toNat (rs.map fun r => (r.1, BitVec.ofNat 32 r.2.1)))).raiseFlags (rs.foldl (fun x r => x ||| r.2.2) 0)

/-- A float vector operation on each active lane; its latency is given (spec/04 R119). -/
def vecFloat (q : Sched) (instr : Instr) (lat : Nat) (vd : VReg) (f : Issue → Wave → Nat → Flagged Nat) (s : State) : Host.Outcome State Fault Refusal :=
  issueWord q instr s fun t w => .done (t.vecFlagged lat vd (f t.issue w))

/-- An FP32 operation on va, b and vd (spec/05 R127, R128). -/
def fp32Op (q : Sched) (instr : Instr) (o : FOp) (vd va : VReg) (b : VSrc) (s : State) : Host.Outcome State Fault Refusal :=
  vecFloat q instr 4 vd
    (fun i w l => FFmt.fp32.apply o i.held (i.mode w) (i.rsr w l false) (i.va va l).toNat (i.vflt .fp32 b l) (i.va vd l).toNat) s

/-- A packed-half operation on va, b and vd (spec/05 R129). -/
def halfOp (q : Sched) (instr : Instr) (o : FOp) (vd va : VReg) (b : VSrc) (s : State) : Host.Outcome State Fault Refusal :=
  vecFloat q instr 8 vd
    (fun i w l =>
      packed (fun r x y z => i.held.half.apply o i.held (i.mode w) r x y z) (i.rsr w l false) (i.rsr w l true)
        (i.va va l).toNat (i.vhalf i.held.half b l) (i.va vd l).toNat) s

/-- `vfadd vd, va, b`: x + y (spec/05 R127). -/
def execVfadd (q : Sched) (vd va : VReg) (b : VSrc) (s : State) : Host.Outcome State Fault Refusal := fp32Op q (.vfadd q vd va b) .add vd va b s

/-- `vfsub vd, va, b`: x − y (spec/05 R127). -/
def execVfsub (q : Sched) (vd va : VReg) (b : VSrc) (s : State) : Host.Outcome State Fault Refusal := fp32Op q (.vfsub q vd va b) .sub vd va b s

/-- `vfmul vd, va, b`: x × y (spec/05 R127). -/
def execVfmul (q : Sched) (vd va : VReg) (b : VSrc) (s : State) : Host.Outcome State Fault Refusal := fp32Op q (.vfmul q vd va b) .mul vd va b s

/-- `vffma vd, va, b`: x × y + vd, rounded once (spec/05 R127). -/
def execVffma (q : Sched) (vd va : VReg) (b : VSrc) (s : State) : Host.Outcome State Fault Refusal := fp32Op q (.vffma q vd va b) .fma vd va b s

/-- `vfmin vd, va, b`: the lesser (spec/05 R128). -/
def execVfmin (q : Sched) (vd va : VReg) (b : VSrc) (s : State) : Host.Outcome State Fault Refusal := fp32Op q (.vfmin q vd va b) .min vd va b s

/-- `vfmax vd, va, b`: the greater (spec/05 R128). -/
def execVfmax (q : Sched) (vd va : VReg) (b : VSrc) (s : State) : Host.Outcome State Fault Refusal := fp32Op q (.vfmax q vd va b) .max vd va b s

/-- `vhfma vd, va, b`: x × y + vd in each half (spec/05 R129). -/
def execVhfma (q : Sched) (vd va : VReg) (b : VSrc) (s : State) : Host.Outcome State Fault Refusal := halfOp q (.vhfma q vd va b) .fma vd va b s

/-- `vhadd vd, va, b`: x + y in each half (spec/05 R129). -/
def execVhadd (q : Sched) (vd va : VReg) (b : VSrc) (s : State) : Host.Outcome State Fault Refusal := halfOp q (.vhadd q vd va b) .add vd va b s

/-- `vhmul vd, va, b`: x × y in each half (spec/05 R129). -/
def execVhmul (q : Sched) (vd va : VReg) (b : VSrc) (s : State) : Host.Outcome State Fault Refusal := halfOp q (.vhmul q vd va b) .mul vd va b s

/-- A move of bits in a float operation format: latency 4 and no flag (spec/05 R130). -/
def vecBits (q : Sched) (instr : Instr) (vd : VReg) (f : Issue → Nat → Word) (s : State) : Host.Outcome State Fault Refusal :=
  issueWord q instr s fun t _ => .done (t.vecResult 4 vd (f t.issue))

/-- `vsel vd, va, b, mN`: va where the SEL mask has the lane's bit, else b (spec/05 R130). -/
def execVsel (q : Sched) (vd va : VReg) (b : VSrc) (s : State) : Host.Outcome State Fault Refusal :=
  vecBits q (.vsel q vd va b) vd
    (fun i l => if (i.src.mask i.held.sel).getLsbD l then i.va va l else BitVec.ofNat 32 (i.vflt .fp32 b l)) s

/-- `vpack2 vd, va, b`: b[15:0] above va[15:0] (spec/05 R130). -/
def execVpack2 (q : Sched) (vd va : VReg) (b : VSrc) (s : State) : Host.Outcome State Fault Refusal :=
  vecBits q (.vpack2 q vd va b) vd (fun i l => (i.vint b l <<< 16) ||| (i.va va l &&& 0xFFFF)) s

/-- `vcopysign vd, va, b`: the magnitude of va with the sign of b; NaN gives the canonical NaN (spec/05 R130). -/
def execVcopysign (q : Sched) (vd va : VReg) (b : VSrc) (s : State) : Host.Outcome State Fault Refusal :=
  vecBits q (.vcopysign q vd va b) vd
    (fun i l =>
      if (FFmt.fp32.decode (i.va va l).toNat).isNan then 0x7FC00000
      else (i.va va l &&& 0x7FFFFFFF) ||| (BitVec.ofNat 32 (i.vflt .fp32 b l) &&& 0x80000000)) s

/-- A function of one operand in FP32, or in both halves (spec/05 R133, R134). -/
def unaryOp (q : Sched) (instr : Instr) (packed_ : Bool) (lat : Nat) (vd : VReg) (b : VSrc)
    (g : FFmt → RMode → Nat → Nat → Flagged Nat) (s : State) : Host.Outcome State Fault Refusal :=
  if packed_ then
    vecFloat q instr 8 vd
      (fun i w l => packed (fun r x _ _ => g i.held.half (i.mode w) r x) (i.rsr w l false) (i.rsr w l true) (i.vhalf i.held.half b l) 0 0) s
  else vecFloat q instr lat vd (fun i w l => g .fp32 (i.mode w) (i.rsr w l false) (i.vflt .fp32 b l)) s

/-- A correctly rounded function (spec/05 R133). -/
def funOp (q : Sched) (instr : Instr) (packed_ : Bool) (f : FFun) (vd : VReg) (b : VSrc) (s : State) : Host.Outcome State Fault Refusal :=
  unaryOp q instr packed_ 8 vd b (fun fmt m r x => fmt.finish m false r (f.eval (fmt.decode x))) s

/-- `vfrcp vd, b`: 1/x (spec/05 R133). -/
def execVfrcp (q : Sched) (pk : Bool) (vd : VReg) (b : VSrc) (s : State) : Host.Outcome State Fault Refusal := funOp q (.vfrcp q pk vd b) pk .rcp vd b s

/-- `vfrsq vd, b`: 1/√x (spec/05 R133). -/
def execVfrsq (q : Sched) (pk : Bool) (vd : VReg) (b : VSrc) (s : State) : Host.Outcome State Fault Refusal := funOp q (.vfrsq q pk vd b) pk .rsq vd b s

/-- `vfsqrt vd, b`: √x (spec/05 R133). -/
def execVfsqrt (q : Sched) (pk : Bool) (vd : VReg) (b : VSrc) (s : State) : Host.Outcome State Fault Refusal := funOp q (.vfsqrt q pk vd b) pk .sqrt vd b s

/-- `vfexp2 vd, b`: 2^x (spec/05 R133). -/
def execVfexp2 (q : Sched) (pk : Bool) (vd : VReg) (b : VSrc) (s : State) : Host.Outcome State Fault Refusal := funOp q (.vfexp2 q pk vd b) pk .exp2 vd b s

/-- `vflog2 vd, b`: log₂ x (spec/05 R133). -/
def execVflog2 (q : Sched) (pk : Bool) (vd : VReg) (b : VSrc) (s : State) : Host.Outcome State Fault Refusal := funOp q (.vflog2 q pk vd b) pk .log2 vd b s

/-- `vfsin vd, b`: sin x (spec/05 R133). -/
def execVfsin (q : Sched) (pk : Bool) (vd : VReg) (b : VSrc) (s : State) : Host.Outcome State Fault Refusal := funOp q (.vfsin q pk vd b) pk .sin vd b s

/-- `vfcos vd, b`: cos x (spec/05 R133). -/
def execVfcos (q : Sched) (pk : Bool) (vd : VReg) (b : VSrc) (s : State) : Host.Outcome State Fault Refusal := funOp q (.vfcos q pk vd b) pk .cos vd b s

/-- `vftanh vd, b`: tanh x (spec/05 R133). -/
def execVftanh (q : Sched) (pk : Bool) (vd : VReg) (b : VSrc) (s : State) : Host.Outcome State Fault Refusal := funOp q (.vftanh q pk vd b) pk .tanh vd b s

/-- `vfrnd vd, b`: the integral value in the same format, with no flag (spec/05 R134). -/
def execVfrnd (q : Sched) (pk : Bool) (vd : VReg) (b : VSrc) (s : State) : Host.Outcome State Fault Refusal :=
  unaryOp q (.vfrnd q pk vd b) pk 4 vd b (fun fmt m r x => (fmt.roundIntegral m r x, 0)) s

/-- `vfclass vd, b`: the class mask (spec/05 R134). -/
def execVfclass (q : Sched) (pk : Bool) (vd : VReg) (b : VSrc) (s : State) : Host.Outcome State Fault Refusal :=
  unaryOp q (.vfclass q pk vd b) pk 4 vd b (fun fmt _ _ x => (fmt.classOf x, 0)) s

/-- The rounding mode of a conversion: its selector, or the mode in force (spec/05 R135). -/
def cvtMode (sel : CvtRound) (m : RMode) : RMode :=
  match sel with
  | .dynamic => m
  | .rne => .rne
  | .rtz => .rtz
  | .rsr => .rsr

/-- The source bits of a conversion: constants stand for their value in the source format (spec/05 R125, R135). -/
def Issue.cvtBits (i : Issue) (src : CvtFmt) (b : VSrc) (l : Nat) : Nat :=
  match CvtFmt.float? src with
  | some f => i.vflt f b l
  | .none => (i.vint b l).toNat

/-- `vcvt.dst.src vd, b` (spec/05 R135). -/
def execVcvt (q : Sched) (dst src : CvtFmt) (sel : CvtRound) (vd : VReg) (b : VSrc) (s : State) : Host.Outcome State Fault Refusal :=
  vecFloat q (.vcvt q dst src sel vd b) 4 vd
    (fun i w l => CvtFmt.result dst (cvtMode sel (i.mode w)) i.held.sat (i.rsr w l false) (CvtFmt.source src (i.cvtBits src b l))) s

/-- `vfcmp.cond md, va, b` (spec/05 R136). -/
def execVfcmp (q : Sched) (cond : FCond) (md : BitVec 4) (va : VReg) (b : VSrc) (s : State) : Host.Outcome State Fault Refusal :=
  issueWord q (.vfcmp q cond md va b) s fun t w =>
    let i := t.issue
    .done (t.compare 4 md w fun l =>
      FCond.eval cond (i.held.modA (FFmt.fp32.decode (i.va va l).toNat)) (i.held.modB (FFmt.fp32.decode (i.vflt .fp32 b l))))

end Sys2Proof.Machine
end

