-- ==== Sys2Proof/Machine/Dispatch.lean ====
section
/-! DEFINITION. The meaning of every instruction, one arm for each. -/

namespace Sys2Proof.Machine

def exec (i : Instr) (s : State) : Host.Outcome State Fault Refusal :=
  match i with
  | .vadd x1 x2 x3 x4 => Sys2Proof.Machine.execVadd x1 x2 x3 x4 s
  | .vsub x1 x2 x3 x4 => Sys2Proof.Machine.execVsub x1 x2 x3 x4 s
  | .vmul x1 x2 x3 x4 => Sys2Proof.Machine.execVmul x1 x2 x3 x4 s
  | .vmulhi x1 x2 x3 x4 => Sys2Proof.Machine.execVmulhi x1 x2 x3 x4 s
  | .vand x1 x2 x3 x4 => Sys2Proof.Machine.execVand x1 x2 x3 x4 s
  | .vor x1 x2 x3 x4 => Sys2Proof.Machine.execVor x1 x2 x3 x4 s
  | .vxor x1 x2 x3 x4 => Sys2Proof.Machine.execVxor x1 x2 x3 x4 s
  | .vshl x1 x2 x3 x4 => Sys2Proof.Machine.execVshl x1 x2 x3 x4 s
  | .vshr x1 x2 x3 x4 => Sys2Proof.Machine.execVshr x1 x2 x3 x4 s
  | .vsra x1 x2 x3 x4 => Sys2Proof.Machine.execVsra x1 x2 x3 x4 s
  | .vmin x1 x2 x3 x4 => Sys2Proof.Machine.execVmin x1 x2 x3 x4 s
  | .vmax x1 x2 x3 x4 => Sys2Proof.Machine.execVmax x1 x2 x3 x4 s
  | .vminu x1 x2 x3 x4 => Sys2Proof.Machine.execVminu x1 x2 x3 x4 s
  | .vmaxu x1 x2 x3 x4 => Sys2Proof.Machine.execVmaxu x1 x2 x3 x4 s
  | .vmad x1 x2 x3 x4 => Sys2Proof.Machine.execVmad x1 x2 x3 x4 s
  | .vabsd x1 x2 x3 x4 => Sys2Proof.Machine.execVabsd x1 x2 x3 x4 s
  | .vfadd x1 x2 x3 x4 => Sys2Proof.Machine.execVfadd x1 x2 x3 x4 s
  | .vfsub x1 x2 x3 x4 => Sys2Proof.Machine.execVfsub x1 x2 x3 x4 s
  | .vfmul x1 x2 x3 x4 => Sys2Proof.Machine.execVfmul x1 x2 x3 x4 s
  | .vffma x1 x2 x3 x4 => Sys2Proof.Machine.execVffma x1 x2 x3 x4 s
  | .vfmin x1 x2 x3 x4 => Sys2Proof.Machine.execVfmin x1 x2 x3 x4 s
  | .vfmax x1 x2 x3 x4 => Sys2Proof.Machine.execVfmax x1 x2 x3 x4 s
  | .vhfma x1 x2 x3 x4 => Sys2Proof.Machine.execVhfma x1 x2 x3 x4 s
  | .vhadd x1 x2 x3 x4 => Sys2Proof.Machine.execVhadd x1 x2 x3 x4 s
  | .vhmul x1 x2 x3 x4 => Sys2Proof.Machine.execVhmul x1 x2 x3 x4 s
  | .vsel x1 x2 x3 x4 => Sys2Proof.Machine.execVsel x1 x2 x3 x4 s
  | .vpack2 x1 x2 x3 x4 => Sys2Proof.Machine.execVpack2 x1 x2 x3 x4 s
  | .vcopysign x1 x2 x3 x4 => Sys2Proof.Machine.execVcopysign x1 x2 x3 x4 s
  | .vshfl x1 x2 x3 x4 x5 => Sys2Proof.Machine.execVshfl x1 x2 x3 x4 x5 s
  | .vmov x1 x2 x3 => Sys2Proof.Machine.execVmov x1 x2 x3 s
  | .vnot x1 x2 x3 => Sys2Proof.Machine.execVnot x1 x2 x3 s
  | .vneg x1 x2 x3 => Sys2Proof.Machine.execVneg x1 x2 x3 s
  | .vabs x1 x2 x3 => Sys2Proof.Machine.execVabs x1 x2 x3 s
  | .vpopc x1 x2 x3 => Sys2Proof.Machine.execVpopc x1 x2 x3 s
  | .vclz x1 x2 x3 => Sys2Proof.Machine.execVclz x1 x2 x3 s
  | .vbrev x1 x2 x3 => Sys2Proof.Machine.execVbrev x1 x2 x3 s
  | .vbfe x1 x2 x3 => Sys2Proof.Machine.execVbfe x1 x2 x3 s
  | .vbfi x1 x2 x3 => Sys2Proof.Machine.execVbfi x1 x2 x3 s
  | .vrand x1 x2 x3 => Sys2Proof.Machine.execVrand x1 x2 x3 s
  | .vbcast x1 x2 x3 => Sys2Proof.Machine.execVbcast x1 x2 x3 s
  | .vfrcp x1 x2 x3 x4 => Sys2Proof.Machine.execVfrcp x1 x2 x3 x4 s
  | .vfrsq x1 x2 x3 x4 => Sys2Proof.Machine.execVfrsq x1 x2 x3 x4 s
  | .vfsqrt x1 x2 x3 x4 => Sys2Proof.Machine.execVfsqrt x1 x2 x3 x4 s
  | .vfexp2 x1 x2 x3 x4 => Sys2Proof.Machine.execVfexp2 x1 x2 x3 x4 s
  | .vflog2 x1 x2 x3 x4 => Sys2Proof.Machine.execVflog2 x1 x2 x3 x4 s
  | .vfsin x1 x2 x3 x4 => Sys2Proof.Machine.execVfsin x1 x2 x3 x4 s
  | .vfcos x1 x2 x3 x4 => Sys2Proof.Machine.execVfcos x1 x2 x3 x4 s
  | .vftanh x1 x2 x3 x4 => Sys2Proof.Machine.execVftanh x1 x2 x3 x4 s
  | .vfrnd x1 x2 x3 x4 => Sys2Proof.Machine.execVfrnd x1 x2 x3 x4 s
  | .vfclass x1 x2 x3 x4 => Sys2Proof.Machine.execVfclass x1 x2 x3 x4 s
  | .vcvt x1 x2 x3 x4 x5 x6 => Sys2Proof.Machine.execVcvt x1 x2 x3 x4 x5 x6 s
  | .vcmp x1 x2 x3 x4 x5 => Sys2Proof.Machine.execVcmp x1 x2 x3 x4 x5 s
  | .vfcmp x1 x2 x3 x4 x5 => Sys2Proof.Machine.execVfcmp x1 x2 x3 x4 x5 s
  | .sadd x1 x2 x3 x4 => Sys2Proof.Machine.execSadd x1 x2 x3 x4 s
  | .ssub x1 x2 x3 x4 => Sys2Proof.Machine.execSsub x1 x2 x3 x4 s
  | .smul x1 x2 x3 x4 => Sys2Proof.Machine.execSmul x1 x2 x3 x4 s
  | .smulhi x1 x2 x3 x4 => Sys2Proof.Machine.execSmulhi x1 x2 x3 x4 s
  | .sand x1 x2 x3 x4 => Sys2Proof.Machine.execSand x1 x2 x3 x4 s
  | .sor x1 x2 x3 x4 => Sys2Proof.Machine.execSor x1 x2 x3 x4 s
  | .sxor x1 x2 x3 x4 => Sys2Proof.Machine.execSxor x1 x2 x3 x4 s
  | .sshl x1 x2 x3 x4 => Sys2Proof.Machine.execSshl x1 x2 x3 x4 s
  | .sshr x1 x2 x3 x4 => Sys2Proof.Machine.execSshr x1 x2 x3 x4 s
  | .ssra x1 x2 x3 x4 => Sys2Proof.Machine.execSsra x1 x2 x3 x4 s
  | .smin x1 x2 x3 x4 => Sys2Proof.Machine.execSmin x1 x2 x3 x4 s
  | .smax x1 x2 x3 x4 => Sys2Proof.Machine.execSmax x1 x2 x3 x4 s
  | .sminu x1 x2 x3 x4 => Sys2Proof.Machine.execSminu x1 x2 x3 x4 s
  | .smaxu x1 x2 x3 x4 => Sys2Proof.Machine.execSmaxu x1 x2 x3 x4 s
  | .saddc x1 x2 x3 x4 => Sys2Proof.Machine.execSaddc x1 x2 x3 x4 s
  | .ssubb x1 x2 x3 x4 => Sys2Proof.Machine.execSsubb x1 x2 x3 x4 s
  | .scmp x1 x2 x3 x4 => Sys2Proof.Machine.execScmp x1 x2 x3 x4 s
  | .ssel x1 x2 x3 x4 => Sys2Proof.Machine.execSsel x1 x2 x3 x4 s
  | .smov x1 x2 x3 => Sys2Proof.Machine.execSmov x1 x2 x3 s
  | .spopc x1 x2 x3 => Sys2Proof.Machine.execSpopc x1 x2 x3 s
  | .sclz x1 x2 x3 => Sys2Proof.Machine.execSclz x1 x2 x3 s
  | .sbfe x1 x2 x3 x4 => Sys2Proof.Machine.execSbfe x1 x2 x3 x4 s
  | .sfadd x1 x2 x3 x4 => Sys2Proof.Machine.execSfadd x1 x2 x3 x4 s
  | .sfmul x1 x2 x3 x4 => Sys2Proof.Machine.execSfmul x1 x2 x3 x4 s
  | .sffma x1 x2 x3 x4 => Sys2Proof.Machine.execSffma x1 x2 x3 x4 s
  | .sfmin x1 x2 x3 x4 => Sys2Proof.Machine.execSfmin x1 x2 x3 x4 s
  | .sfmax x1 x2 x3 x4 => Sys2Proof.Machine.execSfmax x1 x2 x3 x4 s
  | .sfcvt x1 x2 x3 x4 x5 => Sys2Proof.Machine.execSfcvt x1 x2 x3 x4 x5 s
  | .drawm x1 x2 x3 => Sys2Proof.Machine.execDrawm x1 x2 x3 s
  | .sfexp2 x1 x2 x3 => Sys2Proof.Machine.execSfexp2 x1 x2 x3 s
  | .smovi x1 x2 x3 => Sys2Proof.Machine.execSmovi x1 x2 x3 s
  | .sori x1 x2 x3 => Sys2Proof.Machine.execSori x1 x2 x3 s
  | .saddi x1 x2 x3 => Sys2Proof.Machine.execSaddi x1 x2 x3 s
  | .scmpi x1 x2 x3 => Sys2Proof.Machine.execScmpi x1 x2 x3 s
  | .br x1 x2 x3 x4 x5 => Sys2Proof.Machine.execBr x1 x2 x3 x4 x5 s
  | .jmp x1 x2 => Sys2Proof.Machine.execJmp x1 x2 s
  | .call x1 x2 => Sys2Proof.Machine.execCall x1 x2 s
  | .ret x1 => Sys2Proof.Machine.execRet x1 s
  | .brx x1 x2 => Sys2Proof.Machine.execBrx x1 x2 s
  | .exit x1 => Sys2Proof.Machine.execExit x1 s
  | .join x1 x2 => Sys2Proof.Machine.execJoin x1 x2 s
  | .leave x1 x2 => Sys2Proof.Machine.execLeave x1 x2 s
  | .waitm x1 x2 => Sys2Proof.Machine.execWaitm x1 x2 s
  | .sleep x1 x2 x3 => Sys2Proof.Machine.execSleep x1 x2 x3 s
  | .yield x1 => Sys2Proof.Machine.execYield x1 s
  | .nop x1 => Sys2Proof.Machine.execNop x1 s
  | .trap x1 x2 => Sys2Proof.Machine.execTrap x1 x2 s
  | .tret x1 => Sys2Proof.Machine.execTret x1 s
  | .tretAbort x1 => Sys2Proof.Machine.execTretAbort x1 s
  | .brk x1 x2 => Sys2Proof.Machine.execBrk x1 x2 s
  | .isync x1 => Sys2Proof.Machine.execIsync x1 s
  | .ppt x1 => Sys2Proof.Machine.execPpt x1 s
  | .idem x1 => Sys2Proof.Machine.execIdem x1 s
  | .idemend x1 => Sys2Proof.Machine.execIdemend x1 s
  | .hintLitlo x1 => Sys2Proof.Machine.execHintLitlo x1 s
  | .hintLithi x1 => Sys2Proof.Machine.execHintLithi x1 s
  | .hintGuard x1 x2 => Sys2Proof.Machine.execHintGuard x1 x2 s
  | .hintMod x1 x2 x3 x4 x5 x6 x7 x8 x9 => Sys2Proof.Machine.execHintMod x1 x2 x3 x4 x5 x6 x7 x8 x9 s
  | .hintRnd x1 => Sys2Proof.Machine.execHintRnd x1 s
  | .hintScope x1 => Sys2Proof.Machine.execHintScope x1 s
  | .hintCache x1 => Sys2Proof.Machine.execHintCache x1 s
  | .hintGap x1 => Sys2Proof.Machine.execHintGap x1 s
  | .vld x1 x2 x3 x4 x5 => Sys2Proof.Machine.execVld x1 x2 x3 x4 x5 s
  | .vpref x1 x2 x3 => Sys2Proof.Machine.execVpref x1 x2 x3 s
  | .vlds x1 x2 x3 x4 x5 => Sys2Proof.Machine.execVlds x1 x2 x3 x4 x5 s
  | .vldc x1 x2 x3 x4 x5 => Sys2Proof.Machine.execVldc x1 x2 x3 x4 x5 s
  | .vldt x1 x2 x3 x4 x5 => Sys2Proof.Machine.execVldt x1 x2 x3 x4 x5 s
  | .vst x1 x2 x3 x4 x5 => Sys2Proof.Machine.execVst x1 x2 x3 x4 x5 s
  | .vsts x1 x2 x3 x4 x5 => Sys2Proof.Machine.execVsts x1 x2 x3 x4 x5 s
  | .vpwb x1 x2 x3 => Sys2Proof.Machine.execVpwb x1 x2 x3 s
  | .vatom x1 x2 x3 x4 x5 => Sys2Proof.Machine.execVatom x1 x2 x3 x4 x5 s
  | .vatoms x1 x2 x3 x4 x5 => Sys2Proof.Machine.execVatoms x1 x2 x3 x4 x5 s
  | .vcas x1 x2 x3 x4 => Sys2Proof.Machine.execVcas x1 x2 x3 x4 s
  | .vatomsCas x1 x2 x3 x4 => Sys2Proof.Machine.execVatomsCas x1 x2 x3 x4 s
  | .bfadd x1 x2 x3 x4 => Sys2Proof.Machine.execBfadd x1 x2 x3 x4 s
  | .sld x1 x2 x3 x4 x5 => Sys2Proof.Machine.execSld x1 x2 x3 x4 x5 s
  | .sst x1 x2 x3 x4 x5 => Sys2Proof.Machine.execSst x1 x2 x3 x4 x5 s
  | .sldk x1 x2 x3 x4 x5 => Sys2Proof.Machine.execSldk x1 x2 x3 x4 x5 s
  | .satom x1 x2 x3 x4 x5 => Sys2Proof.Machine.execSatom x1 x2 x3 x4 x5 s
  | .scas x1 x2 x3 x4 => Sys2Proof.Machine.execScas x1 x2 x3 x4 s
  | .vrfl x1 x2 x3 => Sys2Proof.Machine.execVrfl x1 x2 x3 s
  | .vrdln x1 x2 x3 x4 => Sys2Proof.Machine.execVrdln x1 x2 x3 x4 s
  | .vwrln x1 x2 x3 x4 => Sys2Proof.Machine.execVwrln x1 x2 x3 x4 s
  | .vmatch x1 x2 x3 => Sys2Proof.Machine.execVmatch x1 x2 x3 s
  | .vballot x1 x2 x3 => Sys2Proof.Machine.execVballot x1 x2 x3 s
  | .vredu x1 x2 x3 x4 x5 => Sys2Proof.Machine.execVredu x1 x2 x3 x4 x5 s
  | .vscan x1 x2 x3 x4 x5 x6 => Sys2Proof.Machine.execVscan x1 x2 x3 x4 x5 x6 s
  | .vdraw x1 x2 x3 x4 => Sys2Proof.Machine.execVdraw x1 x2 x3 x4 s
  | .mand x1 x2 x3 x4 => Sys2Proof.Machine.execMand x1 x2 x3 x4 s
  | .mor x1 x2 x3 x4 => Sys2Proof.Machine.execMor x1 x2 x3 x4 s
  | .mxor x1 x2 x3 x4 => Sys2Proof.Machine.execMxor x1 x2 x3 x4 s
  | .mandn x1 x2 x3 x4 => Sys2Proof.Machine.execMandn x1 x2 x3 x4 s
  | .mmov x1 x2 x3 => Sys2Proof.Machine.execMmov x1 x2 x3 s
  | .mpopc x1 x2 x3 => Sys2Proof.Machine.execMpopc x1 x2 x3 s
  | .mfirst x1 x2 x3 => Sys2Proof.Machine.execMfirst x1 x2 x3 s
  | .mset x1 x2 x3 => Sys2Proof.Machine.execMset x1 x2 x3 s
  | .mget x1 x2 x3 => Sys2Proof.Machine.execMget x1 x2 x3 s
  | .fence x1 x2 x3 => Sys2Proof.Machine.execFence x1 x2 x3 s
  | .qfence x1 x2 => Sys2Proof.Machine.execQfence x1 x2 s
  | .pfence x1 => Sys2Proof.Machine.execPfence x1 s
  | .barinit x1 x2 => Sys2Proof.Machine.execBarinit x1 x2 s
  | .bararr x1 x2 => Sys2Proof.Machine.execBararr x1 x2 s
  | .bartest x1 x2 x3 x4 => Sys2Proof.Machine.execBartest x1 x2 x3 x4 s
  | .barwait x1 x2 x3 => Sys2Proof.Machine.execBarwait x1 x2 x3 s
  | .barinv x1 x2 => Sys2Proof.Machine.execBarinv x1 x2 s
  | .wbar x1 x2 x3 => Sys2Proof.Machine.execWbar x1 x2 x3 s
  | .cpy x1 x2 => Sys2Proof.Machine.execCpy x1 x2 s
  | .cpym x1 x2 x3 => Sys2Proof.Machine.execCpym x1 x2 x3 s
  | .xfer x1 x2 => Sys2Proof.Machine.execXfer x1 x2 s
  | .coll x1 x2 => Sys2Proof.Machine.execColl x1 x2 s
  | .signal x1 x2 x3 => Sys2Proof.Machine.execSignal x1 x2 x3 s
  | .tagc x1 x2 x3 => Sys2Proof.Machine.execTagc x1 x2 x3 s
  | .tagq x1 x2 x3 => Sys2Proof.Machine.execTagq x1 x2 x3 s
  | .oclaim x1 x2 => Sys2Proof.Machine.execOclaim x1 x2 s
  | .orel x1 x2 => Sys2Proof.Machine.execOrel x1 x2 s
  | .oload x1 x2 => Sys2Proof.Machine.execOload x1 x2 s
  | .aclaim x1 x2 => Sys2Proof.Machine.execAclaim x1 x2 s
  | .arel x1 x2 => Sys2Proof.Machine.execArel x1 x2 s
  | .mma x1 x2 => Sys2Proof.Machine.execMma x1 x2 s
  | .mzero x1 x2 => Sys2Proof.Machine.execMzero x1 x2 s
  | .mstore x1 x2 => Sys2Proof.Machine.execMstore x1 x2 s
  | .mwait x1 x2 => Sys2Proof.Machine.execMwait x1 x2 s
  | .spawn x1 x2 => Sys2Proof.Machine.execSpawn x1 x2 s
  | .fbind x1 x2 => Sys2Proof.Machine.execFbind x1 x2 s
  | .fset x1 x2 x3 => Sys2Proof.Machine.execFset x1 x2 x3 s
  | .fwait x1 x2 x3 => Sys2Proof.Machine.execFwait x1 x2 x3 s
  | .qres x1 x2 x3 => Sys2Proof.Machine.execQres x1 x2 x3 s
  | .qpub x1 x2 x3 => Sys2Proof.Machine.execQpub x1 x2 x3 s
  | .qtake x1 x2 x3 => Sys2Proof.Machine.execQtake x1 x2 x3 s
  | .qdone x1 x2 x3 => Sys2Proof.Machine.execQdone x1 x2 x3 s
  | .qclose x1 x2 => Sys2Proof.Machine.execQclose x1 x2 s
  | .publ x1 => Sys2Proof.Machine.execPubl x1 s
  | .center x1 x2 x3 => Sys2Proof.Machine.execCenter x1 x2 x3 s
  | .cstep x1 x2 x3 => Sys2Proof.Machine.execCstep x1 x2 x3 s
  | .cexit x1 x2 x3 => Sys2Proof.Machine.execCexit x1 x2 x3 s
  | .cres x1 x2 x3 => Sys2Proof.Machine.execCres x1 x2 x3 s
  | .smfr x1 x2 x3 => Sys2Proof.Machine.execSmfr x1 x2 x3 s
  | .smto x1 x2 x3 => Sys2Proof.Machine.execSmto x1 x2 x3 s
  | .scan x1 x2 => Sys2Proof.Machine.execScan x1 x2 s
  | .broodTimeout x1 => Sys2Proof.Machine.execBroodTimeout x1 s
  | .capsuleLeaseExpiry x1 => Sys2Proof.Machine.execCapsuleLeaseExpiry x1 s
  | .sleepTimeout x1 => Sys2Proof.Machine.execSleepTimeout x1 s
  | .wbarSpill x1 x2 => Sys2Proof.Machine.execWbarSpill x1 x2 s
  | .barrierByteCount x1 x2 => Sys2Proof.Machine.execBarrierByteCount x1 x2 s
  | .copyCommandStart x1 x2 => Sys2Proof.Machine.execCopyCommandStart x1 x2 s
  | .copyPortionWrite x1 x2 x3 => Sys2Proof.Machine.execCopyPortionWrite x1 x2 x3 s
  | .oloadStart x1 x2 => Sys2Proof.Machine.execOloadStart x1 x2 s
  | .claimZeroFillDone x1 => Sys2Proof.Machine.execClaimZeroFillDone x1 s
  | .matrixGrant x1 x2 => Sys2Proof.Machine.execMatrixGrant x1 x2 s
  | .passComplete x1 => Sys2Proof.Machine.execPassComplete x1 s
  | .mzeroComplete x1 => Sys2Proof.Machine.execMzeroComplete x1 s
  | .mstoreComplete x1 => Sys2Proof.Machine.execMstoreComplete x1 s
  | .tierCopy x1 x2 => Sys2Proof.Machine.execTierCopy x1 x2 s
  | .tierFetch x1 x2 => Sys2Proof.Machine.execTierFetch x1 x2 s
  | .tierEvict x1 x2 => Sys2Proof.Machine.execTierEvict x1 x2 s
  | .tileMoveComplete x1 x2 => Sys2Proof.Machine.execTileMoveComplete x1 x2 s
  | .tagcPerform x1 x2 => Sys2Proof.Machine.execTagcPerform x1 x2 s
  | .tagqPerform x1 x2 => Sys2Proof.Machine.execTagqPerform x1 x2 s
  | .policyVictimChoose x1 => Sys2Proof.Machine.execPolicyVictimChoose x1 s
  | .completionRecordWrite x1 x2 => Sys2Proof.Machine.execCompletionRecordWrite x1 x2 s
  | .collSum x1 x2 x3 => Sys2Proof.Machine.execCollSum x1 x2 x3 s
  | .collMax x1 x2 x3 => Sys2Proof.Machine.execCollMax x1 x2 x3 s
  | .collMin x1 x2 x3 => Sys2Proof.Machine.execCollMin x1 x2 x3 s
  | .collDraw x1 x2 x3 => Sys2Proof.Machine.execCollDraw x1 x2 x3 s
  | .collBarrier x1 x2 x3 => Sys2Proof.Machine.execCollBarrier x1 x2 x3 s
  | .collBroadcast x1 x2 x3 => Sys2Proof.Machine.execCollBroadcast x1 x2 x3 s
  | .collAllgather x1 x2 x3 => Sys2Proof.Machine.execCollAllgather x1 x2 x3 s
  | .collRoundComplete x1 x2 => Sys2Proof.Machine.execCollRoundComplete x1 x2 s
  | .collTimeout x1 x2 => Sys2Proof.Machine.execCollTimeout x1 x2 s
  | .remoteStorePerform x1 => Sys2Proof.Machine.execRemoteStorePerform x1 s
  | .remoteAck x1 => Sys2Proof.Machine.execRemoteAck x1 s
  | .remoteFailure x1 => Sys2Proof.Machine.execRemoteFailure x1 s
  | .inboundAccess x1 x2 x3 x4 => Sys2Proof.Machine.execInboundAccess x1 x2 x3 x4 s
  | .flitReplay x1 => Sys2Proof.Machine.execFlitReplay x1 s
  | .portDown x1 => Sys2Proof.Machine.execPortDown x1 s
  | .mailboxWrite x1 x2 x3 => Sys2Proof.Machine.execMailboxWrite x1 x2 x3 s
  | .mailboxRead x1 x2 x3 => Sys2Proof.Machine.execMailboxRead x1 x2 x3 s
  | .persistGroupEnter x1 => Sys2Proof.Machine.execPersistGroupEnter x1 s
  | .wbqDrainWrite x1 => Sys2Proof.Machine.execWbqDrainWrite x1 s
  | .scrub x1 x2 => Sys2Proof.Machine.execScrub x1 x2 s
  | .launchAccept x1 x2 => Sys2Proof.Machine.execLaunchAccept x1 x2 s
  | .distribute x1 x2 => Sys2Proof.Machine.execDistribute x1 x2 s
  | .place x1 x2 => Sys2Proof.Machine.execPlace x1 x2 s
  | .agingExpiry x1 => Sys2Proof.Machine.execAgingExpiry x1 s
  | .launchComplete x1 x2 => Sys2Proof.Machine.execLaunchComplete x1 x2 s
  | .teamSave x1 => Sys2Proof.Machine.execTeamSave x1 s
  | .teamDiscard x1 => Sys2Proof.Machine.execTeamDiscard x1 s
  | .preemptDeadlineExpiry x1 => Sys2Proof.Machine.execPreemptDeadlineExpiry x1 s
  | .partRestore x1 x2 x3 x4 x5 => Sys2Proof.Machine.execPartRestore x1 x2 x3 x4 x5 s
  | .ctxEnable x1 => Sys2Proof.Machine.execCtxEnable x1 s
  | .ctxDisable x1 => Sys2Proof.Machine.execCtxDisable x1 s
  | .ctxPreempt x1 => Sys2Proof.Machine.execCtxPreempt x1 s
  | .ctxResume x1 => Sys2Proof.Machine.execCtxResume x1 s
  | .ctxReset x1 => Sys2Proof.Machine.execCtxReset x1 s
  | .doorbell x1 => Sys2Proof.Machine.execDoorbell x1 s
  | .priocmd x1 => Sys2Proof.Machine.execPriocmd x1 s
  | .invalPage x1 x2 => Sys2Proof.Machine.execInvalPage x1 x2 s
  | .invalContext x1 => Sys2Proof.Machine.execInvalContext x1 s
  | .invalAll => Sys2Proof.Machine.execInvalAll s
  | .invalidationPerformed => Sys2Proof.Machine.execInvalidationPerformed s
  | .parkRequest x1 => Sys2Proof.Machine.execParkRequest x1 s
  | .parkCancel x1 => Sys2Proof.Machine.execParkCancel x1 s
  | .unpark x1 => Sys2Proof.Machine.execUnpark x1 s
  | .diePowerDown x1 => Sys2Proof.Machine.execDiePowerDown x1 s
  | .unparkComplete x1 => Sys2Proof.Machine.execUnparkComplete x1 s
  | .pceilWrite x1 => Sys2Proof.Machine.execPceilWrite x1 s
  | .pstateWrite x1 => Sys2Proof.Machine.execPstateWrite x1 s
  | .pstateTransitionDone => Sys2Proof.Machine.execPstateTransitionDone s
  | .powerMeasure x1 x2 x3 => Sys2Proof.Machine.execPowerMeasure x1 x2 x3 s
  | .featacceptWrite x1 => Sys2Proof.Machine.execFeatacceptWrite x1 s
  | .attcmd x1 => Sys2Proof.Machine.execAttcmd x1 s
  | .quoteComplete => Sys2Proof.Machine.execQuoteComplete s
  | .tierpoolWrite x1 x2 => Sys2Proof.Machine.execTierpoolWrite x1 x2 s
  | .tierpolWrite x1 x2 => Sys2Proof.Machine.execTierpolWrite x1 x2 s
  | .errstatWrite x1 => Sys2Proof.Machine.execErrstatWrite x1 s
  | .cmapWrite x1 x2 x3 => Sys2Proof.Machine.execCmapWrite x1 x2 x3 s
  | .devctlReset x1 => Sys2Proof.Machine.execDevctlReset x1 s
  | .powerOn => Sys2Proof.Machine.execPowerOn s
  | .registerWrite x1 x2 x3 => Sys2Proof.Machine.execRegisterWrite x1 x2 x3 s
  | .powerLoss => Sys2Proof.Machine.execPowerLoss s
  | .drainComplete => Sys2Proof.Machine.execDrainComplete s
  | .holdupMeasure x1 => Sys2Proof.Machine.execHoldupMeasure x1 s
  | .scanDrainDone => Sys2Proof.Machine.execScanDrainDone s
  | .scanRunDone x1 => Sys2Proof.Machine.execScanRunDone x1 s
  | .scanDrainTimeout => Sys2Proof.Machine.execScanDrainTimeout s
  | .snapCaptureStart x1 => Sys2Proof.Machine.execSnapCaptureStart x1 s
  | .cutClose => Sys2Proof.Machine.execCutClose s
  | .tileCapture => Sys2Proof.Machine.execTileCapture s
  | .cowCopy x1 => Sys2Proof.Machine.execCowCopy x1 s
  | .stagedTileWrite => Sys2Proof.Machine.execStagedTileWrite s
  | .shardsDurable x1 => Sys2Proof.Machine.execShardsDurable x1 s
  | .recoverFence => Sys2Proof.Machine.execRecoverFence s
  | .recoverElect => Sys2Proof.Machine.execRecoverElect s
  | .recoverRebuild x1 => Sys2Proof.Machine.execRecoverRebuild x1 s
  | .recoverRemap => Sys2Proof.Machine.execRecoverRemap s
  | .recoverResume => Sys2Proof.Machine.execRecoverResume s
  | .recoverStepDone => Sys2Proof.Machine.execRecoverStepDone s
  | .groupTableWrite x1 x2 x3 => Sys2Proof.Machine.execGroupTableWrite x1 x2 x3 s
  | .peerTableWrite x1 x2 x3 => Sys2Proof.Machine.execPeerTableWrite x1 x2 x3 s

end Sys2Proof.Machine
end

