-- ==== Sys2Proof/Machine/Step.lean ====
section
/-! DEFINITION. One step of the package, and a word placed where the next step fetches it. -/

namespace Sys2Proof.Machine

/-- One step: what `State.plan` says happens next, with the meaning of the instruction where it names one; a try of a waiting
wave is its own outcome (`State.probed`). -/
def step (s : State) : Host.Outcome State Fault Refusal :=
  match s.plan with
  | .run i t => exec i t
  | .rest t => .next t
  | .probe slot was i t =>
    match exec i t with
    | .next u => .next (was.probed slot u)
    | .fault f => .fault f
    | .refused r => .refused r

/-- The state with an instruction word where the next step fetches it. DESIGN CHOICE, log entry 13. -/
def State.withFetchWord (s : State) (nbits w : Nat) : State := if nbits = 0 then s else s.placeWord w

end Sys2Proof.Machine
end

