-- ==== Sys2Proof/Safety.lean ====
section
/-! DEFINITION. The terms in which claims are made: the canonical form of memory, the conditions under which a word has its own
effect, and the state that this effect leaves. -/

namespace Sys2Proof.Machine

/-! ### Memory -/

/-- The canonical form of a memory: ascending addresses, and no entry that holds what an unlisted address reads as. -/
def Memory.wf (m : List Host.Cell) : Bool := Sparse.wf m

/-- Every task's held bytes stand in ascending order, each address once. -/
def versionsOk (v : Assoc (Assoc Byte)) : Bool := v.all fun e => ascending e.2

/-- The ceiling is one that PCEIL takes, and the performance states are states that PSTATE names (spec/15 R361 to R363). -/
def Regfile.legal (r : Regfile) : Bool :=
  decide (500 ≤ r.pceil ∧ r.pceil ≤ 2200 ∧ r.req < 8 ∧ r.permit < 8 ∧ r.cur < 8 ∧ r.target < 8)

/-- The invariant of the machine: the coherent image and the SCM medium stay in canonical form, the versions that tasks hold stay in order,
and the power registers stay legal. -/
def State.Inv (s : State) : Bool := Memory.wf s.mem && Memory.wf s.scm && versionsOk s.versions && s.regs.legal

/-- One byte of the coherent image. -/
def State.byteAt (s : State) (a : Nat) : Byte := Sparse.get s.mem a

/-- What y leaves of a byte of s, for a task: the byte and what the task holds of it stand as they were; or the task has committed, so that
memory holds the byte as the task saw it, and the task holds nothing of it (spec/09 R224, R225). -/
def State.leaves (s y : State) (task a : Nat) : Prop :=
  (y.byteAt a = s.byteAt a ∧ (y.version task).get? a = (s.version task).get? a) ∨
    (y.byteAt a = (s.version task).getD a (s.byteAt a) ∧ (y.version task).get? a = none)

/-- The byte lies in the count of forced commits of some context (spec/15 R371). -/
def State.inForced (s : State) (a : Nat) : Prop := ∃ c, (s.context c).desc + 0x68 ≤ a ∧ a < (s.context c).desc + 0x6C

/-- The byte lies in one of some ranges, each an address and a number of bytes. -/
def inRanges (rs : List (Nat × Nat)) (a : Nat) : Prop := ∃ r ∈ rs, r.1 ≤ a ∧ a < r.1 + r.2

/-! ### A word that issues -/

/-- The word in issue belongs to a wave, is legal for it, and waits for nothing: no source awaits a variable-latency result (spec/04
R122), no fixed-latency source is read early under the checking scoreboard (spec/04 R123), and a capsule body may hold it (spec/09
R245). -/
def issues (i : Instr) (s : State) (w : Wave) : Bool :=
  let reads := Instr.reads i s.issue.held (Instr.drawsRsr i (s.issue.mode w))
  decide (s.waves.get? s.issue.slot = some w) && i.wf && Instr.legal i w s.issue.held && decide (s.stall = []) &&
    (s.issue.resumed || !w.awaits reads) && !w.limited i s.issue.resumed && (!w.chk || s.issue.resumed || !w.early reads)

/-- As `issues`, but of a word that the capsule body may not hold: one that may not stand there, or the 33rd of its step (spec/09 R245). -/
def bodyRefuses (i : Instr) (s : State) (w : Wave) : Bool :=
  let reads := Instr.reads i s.issue.held (Instr.drawsRsr i (s.issue.mode w))
  decide (s.waves.get? s.issue.slot = some w) && i.wf && Instr.legal i w s.issue.held && decide (s.stall = []) &&
    (s.issue.resumed || !w.awaits reads) && w.limited i s.issue.resumed && (!w.chk || s.issue.resumed || !w.early reads)

/-- A word performed as d leaves this state: the issue is charged to its core, and its entry moves (spec/04 R120, spec/01 R18 to R22). -/
def State.after (s : State) (q : Sched) (d : Did) : State := d.finish s s.issue (gapOf q s.issue.held) q.giveWay

/-- The word is performed: exec answers the state that d leaves, where d is made from the state at issue. -/
def performs (i : Instr) (q : Sched) (s : State) (w : Wave) (d : State → Did) : Prop :=
  exec i s = .next (s.after q (d (s.countWord w)))

/-- The word is performed, and its lanes go on at the next word. -/
def completes (i : Instr) (q : Sched) (s : State) (w : Wave) (d : State → State) : Prop :=
  performs i q s w fun c => .done (d c)

/-! ### What an access is granted (spec/06 R150) -/

/-- One access of the word in issue passes steps 2 to 4: the state that translation leaves, the physical address and the leaf entry. -/
def State.granted (s : State) (w : Wave) (va n align : Nat) (want : Want) : Option (State × Nat × DWord) :=
  let clus := clusOf (coreOf s.issue.slot)
  let r := s.check w.ctx (dieOf clus) (some clus) va n align want
  match r.2 with
  | .ok (pa, pte) => some (r.1, pa, pte)
  | .error _ => none

/-- The global accesses of the lanes at their addresses pass steps 2 to 5, where the race detector sees loads or stores, or none: they
leave the state u, with the lanes' places in as. -/
def State.grants (s : State) (w : Wave) (n : Nat) (want : Want) (race : Option Bool) (addr : List (Nat × Nat)) (u : State) (as : List Acc) : Prop :=
  let c := s.checkLanes s.issue.slot w n n 0 want addr
  c.2 = ([], as) ∧ (match race with
    | none => u = c.1
    | some store => c.1.raceLanes s.issue.slot store as = (u, []))

/-- The scratchpad accesses of the lanes pass the checks, with present lines, no poison, and no barrier under a store. -/
def State.grantsSpad (s : State) (w : Wave) (n : Nat) (store : Bool) (addr : List (Nat × Nat)) (as : List SpadAcc) : Prop :=
  (∃ t, s.teams.get? w.team = some t ∧
    addr.map (fun x => s.spadPlace t (coreOf s.issue.slot) x.2) = as.map (fun a => some (a.core, a.off)) ∧
    addr.map (·.1) = as.map (·.lane) ∧ ∀ x ∈ addr, x.2 % n = 0) ∧
  ∀ a ∈ as, s.lineAbsent a.core (a.off / 128) = false ∧ s.linePoisoned a.core (a.off / 128) = false ∧
    (store = true → s.typedIn a.core a.off n = false)

/-- Where an object that the word in issue names in a scratchpad lies, on a line that is present and not poisoned. -/
def State.objectAt (s : State) (w : Wave) (va align : Nat) : Option (Nat × Nat) :=
  if va % align ≠ 0 then none
  else ((s.teams.get? w.team).bind fun t => s.spadPlace t (coreOf s.issue.slot) va).filter fun p =>
    !s.lineAbsent p.1 (p.2 / 128) && !s.linePoisoned p.1 (p.2 / 128)

/-- An object of n bytes in global memory that the word in issue may work on: the state that the read leaves, its physical address and
its bytes. -/
def State.objectBytes (s : State) (w : Wave) (va n : Nat) (mside : Bool) : Option (State × Nat × List Byte) :=
  match s.granted w va n n { rd := true, wr := true, mside := mside } with
  | none => none
  | some (u, pa, _) => if u.objectMarked w pa n then none else (u.readObject w pa n).2.map fun b => ((u.readObject w pa n).1, pa, b)

/-- The state after a release at a scope that need not wait, and whose commit, at team scope or wider, does not wait (spec/10 R256). -/
def State.released (s : State) (w : Wave) (scope : Nat) : Option State :=
  let c := if 1 ≤ scope then s.commit s.issue.slot else s
  if c.stall = [] ∧ c.releaseWaits w scope = false then some (c.release s.issue.slot scope) else none

/-- A ring header at an address of the scratchpad that passes the checks of a ring instruction (spec/09 R240): the header's fields are in
their ranges, and its slots, with the one that would be lent next, lie on lines that are present and not poisoned. -/
def State.ringReady (s : State) (w : Wave) (va : Nat) (x : RingAt) : Prop :=
  let core := coreOf s.issue.slot
  ∃ t, s.teams.get? w.team = some t ∧ s.objectAt w va 32 = some (x.core, x.off) ∧ x.ring = s.readRing x.core x.off ∧ x.ring.ok = true ∧
    s.ringSlots t core x.ring (x.ring.nslot + x.ring.lent) = some x.slots ∧
    (if x.ring.lent < x.ring.lendmax then
      x.next.isSome = true ∧ x.next = s.ringSlot t core x.ring (x.ring.nslot + x.ring.lent)
     else x.next = none) ∧
    (∀ y ∈ x.slots ++ x.next.toList, s.lineAbsent y.core (y.off / 128) = false ∧ s.linePoisoned y.core (y.off / 128) = false) ∧
    ∀ y ∈ x.slots, s.slotWord y / 2 ^ 18 = 0

/-! ### Words that work on registers alone -/

/-- The registers that a register-only word may write; none for any other instruction. -/
def Instr.dests : Instr → Option (List RegName)
  | .vadd _ vd _ _ | .vsub _ vd _ _ | .vmul _ vd _ _ | .vmulhi _ vd _ _ | .vand _ vd _ _ | .vor _ vd _ _ | .vxor _ vd _ _
  | .vshl _ vd _ _ | .vshr _ vd _ _ | .vsra _ vd _ _ | .vmin _ vd _ _ | .vmax _ vd _ _ | .vminu _ vd _ _ | .vmaxu _ vd _ _
  | .vmad _ vd _ _ | .vabsd _ vd _ _ | .vfadd _ vd _ _ | .vfsub _ vd _ _ | .vfmul _ vd _ _ | .vffma _ vd _ _ | .vfmin _ vd _ _
  | .vfmax _ vd _ _ | .vhfma _ vd _ _ | .vhadd _ vd _ _ | .vhmul _ vd _ _ | .vsel _ vd _ _ | .vpack2 _ vd _ _ | .vcopysign _ vd _ _
  | .vshfl _ _ vd _ _ | .vmov _ vd _ | .vnot _ vd _ | .vneg _ vd _ | .vabs _ vd _ | .vpopc _ vd _ | .vclz _ vd _ | .vbrev _ vd _
  | .vbfe _ vd _ | .vbfi _ vd _ | .vrand _ vd _ | .vbcast _ vd _ | .vfrcp _ _ vd _ | .vfrsq _ _ vd _ | .vfsqrt _ _ vd _
  | .vfexp2 _ _ vd _ | .vflog2 _ _ vd _ | .vfsin _ _ vd _ | .vfcos _ _ vd _ | .vftanh _ _ vd _ | .vfrnd _ _ vd _ | .vfclass _ _ vd _
  | .vcvt _ _ _ _ vd _ | .vwrln _ _ vd _ | .vscan _ _ _ _ vd _ => some [.v vd.toNat]
  | .vmatch _ vd _ => some [.v vd.toNat, .v (vd.toNat + 1)]
  | .vcmp _ _ md _ _ | .vfcmp _ _ md _ _ | .vballot _ md _ => some [.m md.toNat]
  | .mand _ md _ _ | .mor _ md _ _ | .mxor _ md _ _ | .mandn _ md _ _ | .mmov _ md _ | .mfirst _ md _ | .mset _ md _ => some [.m md.toNat]
  | .sadd _ sd _ _ | .ssub _ sd _ _ | .smul _ sd _ _ | .smulhi _ sd _ _ | .sand _ sd _ _ | .sor _ sd _ _ | .sxor _ sd _ _
  | .sshl _ sd _ _ | .sshr _ sd _ _ | .ssra _ sd _ _ | .smin _ sd _ _ | .smax _ sd _ _ | .sminu _ sd _ _ | .smaxu _ sd _ _
  | .ssel _ sd _ _ | .smov _ sd _ | .spopc _ sd _ | .sclz _ sd _ | .sbfe _ sd _ _ | .sfadd _ sd _ _ | .sfmul _ sd _ _ | .sffma _ sd _ _
  | .sfmin _ sd _ _ | .sfmax _ sd _ _ | .sfcvt _ sd _ _ _ | .sfexp2 _ sd _ | .smovi _ sd _ | .sori _ sd _ | .saddi _ sd _
  | .vrfl _ sd _ | .vrdln _ sd _ _ | .vredu _ sd _ _ _ | .mpopc _ sd _ => some [.s sd.toNat]
  | .saddc _ sd _ _ | .ssubb _ sd _ _ => some [.s sd.toNat, .sc]
  | .scmp _ _ _ _ | .scmpi _ _ _ => some [.sc]
  | .mget _ sd _ => some [.s sd.toNat, .s (sd.toNat + 1)]
  | .drawm _ sd _ | .vdraw _ sd _ _ => some [.s sd.toNat, .s (sd.toNat + 1), .s (sd.toNat + 2)]
  | _ => none

/-- The register-only words that raise float flags. -/
def Instr.floats : Instr → Bool
  | .vfadd _ _ _ _ | .vfsub _ _ _ _ | .vfmul _ _ _ _ | .vffma _ _ _ _ | .vfmin _ _ _ _ | .vfmax _ _ _ _ | .vhfma _ _ _ _
  | .vhadd _ _ _ _ | .vhmul _ _ _ _ | .vfrcp _ _ _ _ | .vfrsq _ _ _ _ | .vfsqrt _ _ _ _ | .vfexp2 _ _ _ _ | .vflog2 _ _ _ _
  | .vfsin _ _ _ _ | .vfcos _ _ _ _ | .vftanh _ _ _ _ | .vfrnd _ _ _ _ | .vfclass _ _ _ _ | .vcvt _ _ _ _ _ _ | .vscan _ _ _ _ _ _
  | .vredu _ _ _ _ _ | .vdraw _ _ _ _ | .drawm _ _ _ | .sfadd _ _ _ _ | .sfmul _ _ _ _ | .sffma _ _ _ _ | .sfmin _ _ _ _
  | .sfmax _ _ _ _ | .sfcvt _ _ _ _ _ | .sfexp2 _ _ _ => true
  | _ => false

/-- The value of a register of a wave once every pending result has landed; for a v-register, of one lane. -/
def Wave.settled (w : Wave) (r : RegName) (l : Nat) : DWord :=
  let g := w.landAll.regs
  match r with
  | .v n => (g.v.get (64 * n + l)).setWidth 64
  | .s n => (g.s.get n).setWidth 64
  | .m n => g.m.get n
  | .sc => if g.sc then 1 else 0

/-- The special registers of a wave other than `sr.fstat`. -/
def Wave.specials (w : Wave) : List DWord :=
  [w.fmode.setWidth 64, w.tvec, w.tsw.setWidth 64, w.epc, w.tmask, w.tpend.setWidth 64, if w.chk then 1 else 0, w.seed,
   w.rxwin.setWidth 64, w.ckey]

/-- A wave whose registers are as they were but for some destinations, its float flags, special registers and return stack among them. -/
def Wave.keeps (w x : Wave) (ds : List RegName) : Prop :=
  (∀ r l, r ∉ ds → l < 64 → x.settled r l = w.settled r l) ∧ x.fstat = w.fstat ∧ x.specials = w.specials ∧ x.rstack = w.rstack

/-- What the machine does of the other waves is no change of their registers. -/
def State.othersKeep (s y : State) (slot : Nat) : Prop :=
  ∀ n, n ≠ slot → (y.waves.get? n).map (fun x => (x.regs, x.pend, x.fstat, x.specials, x.rstack)) =
    (s.waves.get? n).map fun x => (x.regs, x.pend, x.fstat, x.specials, x.rstack)

/-! ### The PC table (spec/01 R18) -/

/-- The entries of a wave that a lane stands in, the trapping entry that its handler keeps among them. -/
def Wave.stands (w : Wave) (l : Nat) : Nat :=
  (w.table.countP fun e => e.lanes.getLsbD l) + (if w.handler.any fun h => h.lanes.getLsbD l then 1 else 0)

/-- No entry of the PC table is empty, and no lane stands in two (spec/01 R18). -/
def Wave.tableOk (w : Wave) : Prop := (∀ e ∈ w.table, e.lanes ≠ 0) ∧ ∀ l, w.stands l ≤ 1

/-- A wave in whose PC table the same lanes stand as in another's. -/
def Wave.sameLanes (w x : Wave) : Prop := x.tableOk ∧ ∀ l, x.stands l = w.stands l

end Sys2Proof.Machine
end

