-- ==== Sys2Proof/Certificates/Slice0/Obligations.lean ====
section
/-! DEFINITION. The statements for the provers. Each says what an instruction, an event, the decoder or the whole step does, for every
state and every operand that meets its hypotheses; the rule of spec/ that it formalises stands in its docstring. -/

open Sys2Proof Sys2Proof.Machine

/-! ### Encoding and stepping -/

/-- Decoding the word of a well-formed instruction gives the instruction back, whatever its operands (spec/03 R63 to R84). -/
def Obligations.DecodeEncode : Prop :=
  ∀ (i : Instr) (w : Word), i.wf = true → encode i = some w → decode w = .ok i

/-- The words that spec/03 to spec/09 write out decode to the instructions beside them. -/
def Obligations.WordsOfTheSpecDecode : Prop :=
  decode 0x0BE28406 = .ok (.saddc ⟨0, false⟩ 10 4 (.s 6)) ∧
  decode 0x080482BF = .ok (.vrand ⟨0, false⟩ 2 (.s 63)) ∧
  decode 0x0E47FFFC = .ok (.br ⟨0, false⟩ .likely false 3 (-4)) ∧
  decode 0x12042034 = .ok (.vst ⟨0, false⟩ 2 2 1 .b64) ∧
  decode 0x13D0A044 = .ok (.vatom ⟨0, false⟩ .minu 5 1 2) ∧
  decode 0x14638800 = .ok (.satom ⟨0, false⟩ 7 2 false .add) ∧
  decode 0x17100003 = .ok (.qfence ⟨0, false⟩ 3) ∧
  decode 0x18151A00 = .ok (.cpym ⟨0, false⟩ 20 26) ∧
  decode 0x19318000 = .ok (.aclaim ⟨0, false⟩ 6) ∧
  decode 0x1A630800 = .ok (.qtake ⟨0, false⟩ 12 8) ∧
  decode 0x1B17E800 = .ok (.cstep ⟨0, false⟩ 40 31) ∧
  decode 0x1C4A0018 = .ok (.smto ⟨0, false⟩ 10 0x18)

/-- The 8-bit b field of the scalar binary formats selects s0 to s63 for 0 to 63, and the integer b - 128 for 64 to 255
(spec/03 R70). -/
def Obligations.ScalarOperandCodes : Prop :=
  ∀ (c : Nat) (i : Issue), c < 256 → i.held.hasLiteral = false → ∃ b, SSrc.ofCode c = some b ∧
    i.sint b = if c < 64 then i.src.scalar c else BitVec.ofInt 32 ((c : Int) - 128)

/-- A word that the next step issues is run: where the machine is not stopped, nothing is to be decided again, no turn is set and
nothing is due, and the picked wave's fetch gives a word that decodes, the step is exec of that instruction at the state that the
fetch leaves (spec/04 R105, spec/12 R312, R313). An event of the agenda happens in its turn, once nothing
is to be decided again and nothing is due: the step is exec of the event at the state without that turn; a timeout that is due comes
first, once in a cycle (the agenda and this order are the model's, log entry 2). A wave that waited at issue, or whose word may
have to wait, is tried before the pick: where it does not wait, the try is undone, and one that waited is eligible from this cycle (R312; that it
is tried is the model's, log entry 37). A team's save or discard that has come due begins before all else (log entry 122).
The operations that it names rest on readings of the model, log entries 7, 9, 18, 95 and 108. -/
def Obligations.StepRunsTheDecodedWord : Prop :=
  (∀ (s : State) (slot : Nat) (w x : Wave) (v : Word) (i : Instr) (f : State),
    s.stopped = false → s.stopDue? = none → s.wakes.find? s.handlerWake = none → s.firstWake s.wakes = none → s.turns = [] → s.due? = none →
    s.pick s.focus = some (slot, w) → (s.prepare slot w).waves.get? slot = some x →
    (s.prepare slot w).fetch slot x (s.prepare slot w).issue.pc = (f, .word v) →
    decode v = .ok i → step s = exec i f) ∧
  (∀ (s : State) (e : Instr) (rest : List Turn), s.stopped = false →
    (∀ x, s.stopDue? = some x → step s = .next (s.setTeam x.1 x.2)) ∧
    (s.stopDue? = none → s.wakes.find? s.handlerWake = none → s.firstWake s.wakes = none →
      (s.turns = .event e :: rest → isWord e = false → s.due? = none → step s = exec e { s with turns := rest }) ∧
      (s.due? = some e → step s = exec e { s with tried := e :: s.tried }))) ∧
  (∀ (s : State) (slot : Nat) (w x : Wave) (v : Word) (i : Instr) (f u : State),
    s.stopped = false → s.stopDue? = none → s.wakes.find? s.handlerWake = none → s.firstWake s.wakes = none → s.turns = [] → s.due? = none →
    s.toProbe s.focus = some (slot, w) → (s.prepare slot w).waves.get? slot = some x →
    (s.prepare slot w).fetch slot x (s.prepare slot w).issue.pc = (f, .word v) →
    decode v = .ok i → exec i f = .next u →
    step s = .next (if (u.waves.get? slot).any (·.waits) then u
      else s.modWave slot fun y => { y with waits := false, triedAt := s.now + 1, eligAt := if y.waits then s.now else y.eligAt }))

/-- The word that is fetched is the four bytes of memory at the page's address, least significant first, where the page is executable and
stands in HBM or in SCM, in a tile that is not moving, the context may read it, no byte is marked, neither the core's instruction cache nor
the task's version holds the block, and its comb stands in its slice or finds a way there (spec/03 R63, spec/04 R105, spec/13 R320, R322).
The operations that it names rest on readings of the model, log entry 18. -/
def Obligations.FetchReadsMemory : Prop :=
  ∀ (s t : State) (slot : Nat) (w : Wave) (pc : DWord) (pa : Nat) (pte : DWord),
    s.translate w.ctx (dieOf (clusOf (coreOf slot))) (some (clusOf (coreOf slot))) pc.toNat = (t, .ok pa pte) →
    pteX pte = true → (inHbm pa = true ∨ inScm pa = true) → t.moving pa = false → s.accessOk w.ctx pa 4 false = true →
    s.marked pa 4 = false → pa % 4 = 0 → t.stall = [] → t.version w.task = [] → t.waiting w.task = [] →
        (t.core (coreOf slot)).icache.get? (pa / 64) = none →
    (t.fetchComb (pa / 1024)).stall = [] →
      (s.fetch slot w pc).2 = .word (wordOfBytes (t.byteAt pa) (t.byteAt (pa + 1)) (t.byteAt (pa + 2)) (t.byteAt (pa + 3)))

/-- The package after reset: no context is enabled, no task and no launch exists, no word is in issue, the access table lets masters
18 and 20 reach every address and no other master any, P0 is current and requested, and the first power-on reports DRAIN 3
(spec/14 R360, spec/15 R361, R370, R374). -/
def Obligations.ResetState : Prop :=
  State.reset.waves = [] ∧ State.reset.teams = [] ∧ State.reset.launches = [] ∧ State.reset.items = [] ∧
  (∀ c, (State.reset.context c).state = 0) ∧ State.reset.regs.cur = 0 ∧ State.reset.regs.req = 0 ∧ State.reset.regs.drain = 3 ∧
  State.reset.regs.featAccept = 0 ∧ State.reset.regs.errstat = 0 ∧
  (∀ k pa n wr, pa + n ≤ 2 ^ 50 → State.reset.accessOk k pa n wr = decide (k = 18 ∨ k = 20))

/-- The invariant holds after reset: memory is in canonical form, the held versions are in order (forms of the model's own, log entry 3), and
the power ceiling and the performance states are legal (spec/15 R361 to R363). -/
def Obligations.ResetKeepsInv : Prop := State.reset.Inv = true

/-- Every step keeps the invariant, from any state that has it: the coherent image and the SCM medium stay in canonical form and the held
versions in order (spec/13 R317, R321, spec/09 R224; the forms are the model's own, log entry 3), and the power ceiling and the
performance states stay legal, whatever software writes to them (spec/15 R361 to R363). -/
def Obligations.StepKeepsInv : Prop := ∀ s t : State, s.Inv = true → step s = .next t → t.Inv = true

/-- No step stops: whatever the state, a step answers a next state. -/
def Obligations.StepNeverStops : Prop := ∀ s : State, ∃ t, step s = .next t

/-! ### Vector words -/

/-- The integer instructions of majors 0x00 to 0x03 write, in every active lane and after two cycles, the value that spec/05 R126
gives for the sources read at issue; with no active lane they write nothing (R124). -/
def Obligations.VectorIntegerResults : Prop :=
  ∀ (q : Sched) (vd va : VReg) (b : VSrc) (s : State) (w : Wave),
    let x := s.issue.src.lane va.toNat
    let y := s.issue.vint b
    let z := s.issue.src.lane vd.toNat
    let n (l : Nat) := (y l).toNat % 32
    let gives (i : Instr) (f : Nat → Word) : Prop := issues i s w = true → completes i q s w fun c => c.vecResult 2 vd f
    gives (.vadd q vd va b) (fun l => BitVec.ofNat 32 ((x l).toNat + (y l).toNat)) ∧
    gives (.vsub q vd va b) (fun l => BitVec.ofInt 32 ((x l).toInt - (y l).toInt)) ∧
    gives (.vmul q vd va b) (fun l => BitVec.ofNat 32 ((x l).toNat * (y l).toNat)) ∧
    gives (.vmulhi q vd va b) (fun l => BitVec.ofInt 32 ((x l).toInt * (y l).toInt / 2 ^ 32)) ∧
    gives (.vand q vd va b) (fun l => x l &&& y l) ∧
    gives (.vor q vd va b) (fun l => x l ||| y l) ∧
    gives (.vxor q vd va b) (fun l => x l ^^^ y l) ∧
    gives (.vshl q vd va b) (fun l => BitVec.ofNat 32 ((x l).toNat * 2 ^ n l)) ∧
    gives (.vshr q vd va b) (fun l => BitVec.ofNat 32 ((x l).toNat / 2 ^ n l)) ∧
    gives (.vsra q vd va b) (fun l => BitVec.ofInt 32 ((x l).toInt / 2 ^ n l)) ∧
    gives (.vmin q vd va b) (fun l => if (x l).toInt ≤ (y l).toInt then x l else y l) ∧
    gives (.vmax q vd va b) (fun l => if (x l).toInt ≤ (y l).toInt then y l else x l) ∧
    gives (.vminu q vd va b) (fun l => if (x l).toNat ≤ (y l).toNat then x l else y l) ∧
    gives (.vmaxu q vd va b) (fun l => if (x l).toNat ≤ (y l).toNat then y l else x l) ∧
    gives (.vmad q vd va b) (fun l => BitVec.ofNat 32 ((x l).toNat * (y l).toNat + (z l).toNat)) ∧
    gives (.vabsd q vd va b) (fun l => BitVec.ofNat 32 ((x l).toInt - (y l).toInt).natAbs)

/-- The integer unary instructions, the field instructions, `vbcast` and the bit moves (spec/05 R130, R131, R132): what each writes in
every active lane, after two cycles for the integer formats and after four for major 0x06. -/
def Obligations.VectorMoveResults : Prop :=
  ∀ (q : Sched) (vd va : VReg) (b : VSrc) (s : State) (w : Wave),
    let x := s.issue.src.lane va.toNat
    let y := s.issue.vint b
    let o := s.issue.held.literal.toNat % 32
    let k := min (o + s.issue.held.literal.toNat / 256 % 64) 32 - o
    let float (l : Nat) : Word := BitVec.ofNat 32 (s.issue.vflt .fp32 b l)
    let gives (i : Instr) (lat : Nat) (f : Nat → Word) : Prop := issues i s w = true → completes i q s w fun c => c.vecResult lat vd f
    gives (.vmov q vd b) 2 y ∧
    gives (.vnot q vd b) 2 (fun l => BitVec.ofNat 32 (2 ^ 32 - 1 - (y l).toNat)) ∧
    gives (.vneg q vd b) 2 (fun l => BitVec.ofInt 32 (- (y l).toInt)) ∧
    gives (.vabs q vd b) 2 (fun l => BitVec.ofNat 32 (y l).toInt.natAbs) ∧
    gives (.vpopc q vd b) 2 (fun l => BitVec.ofNat 32 ((List.range 32).countP fun j => (y l).getLsbD j)) ∧
    gives (.vclz q vd b) 2 (fun l => BitVec.ofNat 32 (32 - Nat.size (y l).toNat)) ∧
    gives (.vbrev q vd b) 2 (fun l => (y l).reverse) ∧
    gives (.vbfe q vd b) 2 (fun l => BitVec.ofNat 32 ((y l).toNat / 2 ^ o % 2 ^ k)) ∧
    gives (.vbfi q vd b) 2 (fun l => insertField (s.issue.src.lane vd.toNat l) (y l) o (s.issue.held.literal.toNat / 256 % 64)) ∧
    gives (.vbcast q vd b) 2 (fun _ => y s.issue.held.literal.toNat) ∧
    gives (.vsel q vd va b) 4 (fun l => if (s.issue.src.mask s.issue.held.sel).getLsbD l then x l else float l) ∧
    gives (.vpack2 q vd va b) 4 (fun l => (y l).extractLsb' 0 16 ++ (x l).extractLsb' 0 16) ∧
    gives (.vcopysign q vd va b) 4 (fun l =>
      if (FFmt.fp32.decode (x l).toNat).isNan then 0x7FC00000 else (float l).extractLsb' 31 1 ++ (x l).extractLsb' 0 31)

/-- `vrand` writes the counter-based random word of each active lane after four cycles; a v-register, a lane-index or a float-constant
operand traps ILLEGAL_INSTR in every lane of the bundle; and `vrand v2, s63` is the word 0x080482BF (spec/05 R143). -/
def Obligations.VrandWritesItsWord : Prop :=
  (∀ (q : Sched) (vd : VReg) (b : VSrc) (s : State) (w : Wave), issues (.vrand q vd b) s w = true →
    completes (.vrand q vd b) q s w fun c => c.vecResult 4 vd fun l => vrand w.seed (s.issue.vint b l) l) ∧
  (∀ (q : Sched) (vd n : VReg) (k : Fin 8) (b : VSrc) (s : State) (w : Wave), b = .v n ∨ b = .lane ∨ b = .flt k →
    s.waves.get? s.issue.slot = some w → s.stall = [] → (Instr.vrand q vd b).wf = true →
    performs (.vrand q vd b) q s w fun c => Did.orTrap c (bundleRaise s.issue.lanes cIllegal 0) (.left c)) ∧
  encode (.vrand ⟨0, false⟩ 2 (.s 63)) = some 0x080482BF

/-- The float instructions of majors 0x04 to 0x06 (spec/05 R127 to R129): each active lane gets the operation on its operands under the
mode in force, once rounded, and the flags of the active lanes are ORed into `sr.fstat`; FP32 after four cycles, packed halves after
eight, each half with its own random bits. -/
def Obligations.VectorFloatResults : Prop :=
  ∀ (q : Sched) (vd va : VReg) (b : VSrc) (s : State) (w : Wave),
    let i := s.issue
    let x (l : Nat) := (i.src.lane va.toNat l).toNat
    let z (l : Nat) := (i.src.lane vd.toNat l).toNat
    let full (j : Instr) (o : FOp) : Prop := issues j s w = true → completes j q s w fun c =>
      c.vecFlagged 4 vd fun l => FFmt.fp32.apply o i.held (i.mode w) (i.rsr w l false) (x l) (i.vflt .fp32 b l) (z l)
    let half (j : Instr) (o : FOp) : Prop := issues j s w = true → completes j q s w fun c =>
      c.vecFlagged 8 vd fun l =>
        let op (r x y z : Nat) := i.held.half.apply o i.held (i.mode w) r x y z
        let lo := op (i.rsr w l false) (x l % 65536) (i.vhalf i.held.half b l % 65536) (z l % 65536)
        let hi := op (i.rsr w l true) (x l / 65536) (i.vhalf i.held.half b l / 65536) (z l / 65536)
        (hi.1 % 65536 * 65536 + lo.1 % 65536, lo.2 ||| hi.2)
    full (.vfadd q vd va b) .add ∧ full (.vfsub q vd va b) .sub ∧ full (.vfmul q vd va b) .mul ∧ full (.vffma q vd va b) .fma ∧
    full (.vfmin q vd va b) .min ∧ full (.vfmax q vd va b) .max ∧
    half (.vhfma q vd va b) .fma ∧ half (.vhadd q vd va b) .add ∧ half (.vhmul q vd va b) .mul

/-- The float functions of one operand, `vfrnd`, `vfclass` and `vcvt` (spec/05 R133 to R135): FP32 functions and all packed forms after
eight cycles, FP32 `vfrnd` and `vfclass` and `vcvt` after four. That `vfexp2`, `vflog2`, `vfsin`, `vfcos` and `vftanh` are evaluated with 320
fraction bits and rounded once is the model's choice (log entry 5). -/
def Obligations.VectorFunctionResults : Prop :=
  ∀ (q : Sched) (packed_ : Bool) (vd : VReg) (b : VSrc) (s : State) (w : Wave),
    let i := s.issue
    let m := i.mode w
    let gives (j : Instr) (lat : Nat) (g : FFmt → Nat → Nat → Flagged Nat) : Prop := issues j s w = true → completes j q s w fun c =>
      if packed_ then
        c.vecFlagged 8 vd fun l =>
          let y := i.vhalf i.held.half b l
          let lo := g i.held.half (i.rsr w l false) (y % 65536)
          let hi := g i.held.half (i.rsr w l true) (y / 65536)
          (hi.1 % 65536 * 65536 + lo.1 % 65536, lo.2 ||| hi.2)
      else c.vecFlagged lat vd fun l => g .fp32 (i.rsr w l false) (i.vflt .fp32 b l)
    let function (f : Val → Val × FFlags) (fmt : FFmt) (r x : Nat) : Flagged Nat := fmt.finish m false r (f (fmt.decode x))
    gives (.vfrcp q packed_ vd b) 8 (function rcpVal) ∧ gives (.vfrsq q packed_ vd b) 8 (function rsqVal) ∧
    gives (.vfsqrt q packed_ vd b) 8 (function sqrtOf) ∧ gives (.vfexp2 q packed_ vd b) 8 (function exp2Val) ∧
    gives (.vflog2 q packed_ vd b) 8 (function log2Val) ∧ gives (.vfsin q packed_ vd b) 8 (function sinVal) ∧
    gives (.vfcos q packed_ vd b) 8 (function cosVal) ∧ gives (.vftanh q packed_ vd b) 8 (function tanhVal) ∧
    gives (.vfrnd q packed_ vd b) 4 (fun fmt r x => (fmt.roundIntegral m r x, 0)) ∧
    gives (.vfclass q packed_ vd b) 4 (fun fmt _ x => (fmt.classOf x, 0)) ∧
    ∀ (dst src : CvtFmt) (sel : CvtRound), issues (.vcvt q dst src sel vd b) s w = true →
      completes (.vcvt q dst src sel vd b) q s w fun c => c.vecFlagged 4 vd fun l =>
        CvtFmt.result dst (cvtMode sel m) i.held.sat (i.rsr w l false) (CvtFmt.source src (i.cvtBits src b l))

/-- The compares write the bits of the active lanes of md, keeping the others, after two cycles for `vcmp` and four for `vfcmp` (spec/05
R136); and `vshfl` gives each active lane the value of its source lane where that lane exists and is active, else its own (R137).
The operations that it names rest on readings of the model, log entry 16. -/
def Obligations.CompareAndShuffleResults : Prop :=
  ∀ (q : Sched) (vd va : VReg) (md : BitVec 4) (b : VSrc) (s : State) (w : Wave),
    let i := s.issue
    let kept := w.maskFinal md.toNat &&& ~~~i.active
    let result (j : Instr) (lat : Nat) (f : Nat → Bool) : Prop := issues j s w = true → completes j q s w fun c =>
      if i.activeLanes = [] then c else c.laterMask lat md.toNat (kept ||| maskOf (i.activeLanes.filter f))
    (∀ cond, result (.vcmp q cond md va b) 2 fun l => ICond.eval cond (i.src.lane va.toNat l) (i.vint b l)) ∧
    (∀ cond, result (.vfcmp q cond md va b) 4 fun l =>
      FCond.eval cond (i.held.modA (FFmt.fp32.decode (i.src.lane va.toNat l).toNat)) (i.held.modB (FFmt.fp32.decode (i.vflt .fp32 b l)))) ∧
    ∀ mode, issues (.vshfl q mode vd va b) s w = true → completes (.vshfl q mode vd va b) q s w fun c =>
      if i.activeLanes = [] then c
      else c.putNow (.vec vd.toNat (i.activeLanes.map fun l =>
        let n := shuffleSource mode l (i.vint b l).toNat
        (l, i.src.lane va.toNat (if 0 ≤ n ∧ n < w.hdr.width ∧ i.active.getLsbD n.toNat = true then n.toNat else l))))


/-! ### Scalar words -/

/-- The integer operations of major 0x0B write sd after one cycle as spec/04 R95 gives, `saddc` and `ssubb` also `sc`; the other integer
operations of majors 0x0C and 0x0D (spec/04 R96, R101) write sd, and the compares `sc` alone, all after one cycle. -/
def Obligations.ScalarIntegerResults : Prop :=
  (∀ (q : Sched) (sd sa : SReg) (b : SSrc) (s : State) (w : Wave),
    let x := s.issue.src.scalar sa.toNat
    let y := s.issue.sint b
    let k := if s.issue.src.sc then 1 else 0
    let n := y.toNat % 32
    let gives (i : Instr) (v : Word) : Prop := issues i s w = true → completes i q s w fun c => c.later 1 (.sca sd.toNat v)
    let carries (i : Instr) (v : Word) (c : Bool) : Prop := issues i s w = true →
      completes i q s w fun u => (u.later 1 (.sca sd.toNat v)).later 1 (.cond c)
    gives (.sadd q sd sa b) (BitVec.ofNat 32 (x.toNat + y.toNat)) ∧
    gives (.ssub q sd sa b) (BitVec.ofInt 32 (x.toInt - y.toInt)) ∧
    gives (.smul q sd sa b) (BitVec.ofNat 32 (x.toNat * y.toNat)) ∧
    gives (.smulhi q sd sa b) (BitVec.ofInt 32 (x.toInt * y.toInt / 2 ^ 32)) ∧
    gives (.sand q sd sa b) (x &&& y) ∧
    gives (.sor q sd sa b) (x ||| y) ∧
    gives (.sxor q sd sa b) (x ^^^ y) ∧
    gives (.sshl q sd sa b) (BitVec.ofNat 32 (x.toNat * 2 ^ n)) ∧
    gives (.sshr q sd sa b) (BitVec.ofNat 32 (x.toNat / 2 ^ n)) ∧
    gives (.ssra q sd sa b) (BitVec.ofInt 32 (x.toInt / 2 ^ n)) ∧
    gives (.smin q sd sa b) (if x.toInt ≤ y.toInt then x else y) ∧
    gives (.smax q sd sa b) (if x.toInt ≤ y.toInt then y else x) ∧
    gives (.sminu q sd sa b) (if x.toNat ≤ y.toNat then x else y) ∧
    gives (.smaxu q sd sa b) (if x.toNat ≤ y.toNat then y else x) ∧
    carries (.saddc q sd sa b) (BitVec.ofNat 32 (x.toNat + y.toNat + k)) (decide (2 ^ 32 ≤ x.toNat + y.toNat + k)) ∧
    carries (.ssubb q sd sa b) (BitVec.ofInt 32 (x.toInt - y.toInt - k)) (decide (x.toNat < y.toNat + k))) ∧
  (∀ (q : Sched) (sd sa : SReg) (b : SSrc) (imm : BitVec 16) (s : State) (w : Wave),
    let x := s.issue.src.scalar sa.toNat
    let y := s.issue.sint b
    let d := s.issue.src.scalar sd.toNat
    let o := y.toNat % 32
    let n := y.toNat / 256 % 64
    let gives (i : Instr) (v : Word) : Prop := issues i s w = true → completes i q s w fun c => c.later 1 (.sca sd.toNat v)
    let tests (i : Instr) (v : Bool) : Prop := issues i s w = true → completes i q s w fun c => c.later 1 (.cond v)
    (∀ cond, tests (.scmp q cond sa b) (ICond.eval cond x y)) ∧
    gives (.ssel q sd sa b) (if s.issue.src.sc then x else y) ∧
    gives (.smov q sd b) y ∧
    gives (.spopc q sd b) (BitVec.ofNat 32 ((List.range 32).countP fun j => y.getLsbD j)) ∧
    gives (.sclz q sd b) (BitVec.ofNat 32 (32 - Nat.size y.toNat)) ∧
    gives (.sbfe q sd sa b) (BitVec.ofNat 32 (if n = 0 then 0 else x.toNat / 2 ^ o % 2 ^ (min (o + n) 32 - o))) ∧
    gives (.smovi q sd imm) (BitVec.ofInt 32 imm.toInt) ∧
    gives (.sori q sd imm) (d ||| BitVec.ofNat 32 (imm.toNat * 65536)) ∧
    gives (.saddi q sd imm) (BitVec.ofInt 32 (d.toInt + imm.toInt)) ∧
    tests (.scmpi q sd imm) (decide (d.toInt = imm.toInt)))

/-- The condition field stands for the conditions in the order of the table, and a code past the last one for none (spec/03 R75); the
integer conditions hold as their names say, signed or unsigned, and the float conditions compare values: a comparison with a NaN is
false but for `ne` and `unord`, and −0 equals +0 (spec/05 R136). -/
def Obligations.ConditionsCompare : Prop :=
  (∀ c, ICond.ofCode c = ([.eq, .ne, .lt, .le, .gt, .ge, .ltu, .leu, .gtu, .geu] : List ICond)[c]?) ∧
  (∀ c, FCond.ofCode c = ([.eq, .ne, .lt, .le, .gt, .ge, .ord, .unord] : List FCond)[c]?) ∧
  ∀ (x y : Word),
    (ICond.eval .eq x y = decide (x = y) ∧ ICond.eval .ne x y = decide (x ≠ y) ∧
      ICond.eval .lt x y = decide (x.toInt < y.toInt) ∧ ICond.eval .le x y = decide (x.toInt ≤ y.toInt) ∧
      ICond.eval .gt x y = decide (y.toInt < x.toInt) ∧ ICond.eval .ge x y = decide (y.toInt ≤ x.toInt) ∧
      ICond.eval .ltu x y = decide (x.toNat < y.toNat) ∧ ICond.eval .leu x y = decide (x.toNat ≤ y.toNat) ∧
      ICond.eval .gtu x y = decide (y.toNat < x.toNat) ∧ ICond.eval .geu x y = decide (y.toNat ≤ x.toNat)) ∧
    ∀ v : Val, (∀ c, c ≠ .ne → c ≠ .unord → FCond.eval c .nan v = false ∧ FCond.eval c v .nan = false) ∧
      FCond.eval .ne .nan v = true ∧ FCond.eval .unord .nan v = true ∧ FCond.eval .unord v .nan = true ∧ FCond.eval .ne v .nan = true ∧
      FCond.eval .eq (FFmt.fp32.decode 0x80000000) (FFmt.fp32.decode 0) = true

/-- The scalar float operations round once under the mode in force, write sd, and OR their flags into `sr.fstat`; `sfexp2` after eight
cycles, the others after one; `drawm` writes the merge of the two triples, with the coin of the wave's seed and s63 in lane 0, after
eight (spec/04 R97 to R100, spec/02 R50). That `sfexp2` is evaluated in fixed point is the model's choice (log entry 5), and so is the tie of
+0 and -0 in the merge (log entry 21). -/
def Obligations.ScalarFloatResults : Prop :=
  (∀ (q : Sched) (sd sa : SReg) (b : SSrc) (s : State) (w : Wave),
    let i := s.issue
    let m := i.mode w
    let r := i.rsr w i.leader false
    let writes (j : Instr) (lat : Nat) (v : Flagged Nat) : Prop := issues j s w = true →
      completes j q s w fun c => (c.later lat (.sca sd.toNat (BitVec.ofNat 32 v.1))).raiseFlags v.2
    let op (o : FOp) := FFmt.fp32.apply o i.held m r (i.src.scalar sa.toNat).toNat (i.sflt b) (i.src.scalar sd.toNat).toNat
    writes (.sfadd q sd sa b) 1 (op .add) ∧ writes (.sfmul q sd sa b) 1 (op .mul) ∧ writes (.sffma q sd sa b) 1 (op .fma) ∧
    writes (.sfmin q sd sa b) 1 (op .min) ∧ writes (.sfmax q sd sa b) 1 (op .max) ∧
    writes (.sfexp2 q sd b) 8 (FFmt.fp32.finish m false r (exp2Val (FFmt.fp32.decode (i.sflt b)))) ∧
    ∀ dst src, writes (.sfcvt q sd sa dst src) 1
      (CvtFmt.result (cvtOfCode dst) m i.held.sat r (CvtFmt.source (cvtOfCode src) (i.src.scalar sa.toNat).toNat))) ∧
  (∀ (q : Sched) (sd sa : SReg) (s : State) (w : Wave), issues (.drawm q sd sa) s w = true →
    completes (.drawm q sd sa) q s w fun c =>
      let r := mergeDraws (s.issue.src.scalar 62).toNat ((vrand w.seed (s.issue.src.scalar 63) 0).toNat / 256) (s.issue.triple sd.toNat)
        (s.issue.triple sa.toNat)
      (((c.later 8 (.sca sd.toNat r.1.idx)).later 8 (.sca (sd.toNat + 1) (BitVec.ofNat 32 r.1.mass))).later 8
        (.sca (sd.toNat + 2) (BitVec.ofNat 32 r.1.top))).raiseFlags r.2)

/-- The mask instructions write md, bits of lanes that do not exist staying zero, or a scalar, after one cycle (spec/05 R141).
The operations that it names rest on readings of the model, log entries 16 and 71. -/
def Obligations.MaskResults : Prop :=
  ∀ (q : Sched) (md ma : BitVec 6) (mb : BitVec 4) (sd : SReg) (s : State) (w : Wave),
    let x := s.issue.src.mask ma.toNat
    let y := s.issue.src.mask mb.toNat
    let gives (i : Instr) (v : DWord) : Prop := issues i s w = true → completes i q s w fun c => c.laterMask 1 md.toNat (v &&& w.mask)
    gives (.mand q md ma mb) (x &&& y) ∧ gives (.mor q md ma mb) (x ||| y) ∧ gives (.mxor q md ma mb) (x ^^^ y) ∧
    gives (.mandn q md ma mb) (x &&& ~~~y) ∧ gives (.mmov q md ma) x ∧
    gives (.mfirst q md ma) (x &&& (0 - x)) ∧ gives (.mset q md sd) (s.issue.src.pair sd.toNat) ∧
    (issues (.mpopc q sd ma) s w = true → completes (.mpopc q sd ma) q s w fun c =>
      c.later 1 (.sca sd.toNat (BitVec.ofNat 32 ((List.range 64).countP fun j => x.getLsbD j)))) ∧
    (issues (.mget q sd ma) s w = true → completes (.mget q sd ma) q s w fun c =>
      (c.later 1 (.sca sd.toNat (lowHalf x))).later 1 (.sca (sd.toNat + 1) (highHalf x)))

/-- The cross-lane instructions act on the lanes that are active, after six cycles; with no active lane they change nothing, and a lane
access inside a handler acts at once (spec/05 R138 to R140, R146).
The operations that it names rest on readings of the model, log entry 16. -/
def Obligations.CrossLaneResults : Prop :=
  ∀ (q : Sched) (sd sl sb : SReg) (vd va : VReg) (md : BitVec 4) (s : State) (w : Wave),
    let i := s.issue
    let x := i.src.lane va.toNat
    let on := i.activeLanes
    let n := (i.src.scalar sl.toNat).toNat
    let acts (j : Instr) (f : State → State) : Prop := issues j s w = true → completes j q s w fun c => if on = [] then c else f c
    let put (c : State) (l : Landing) : State := if w.handler.isSome then c.putNow l else c.later 6 l
    acts (.vrfl q sd va) (fun c => c.later 6 (.sca sd.toNat (x (leaderOf i.active)))) ∧
    acts (.vballot q md va) (fun c => c.laterMask 6 md.toNat (maskOf (on.filter fun l => decide (x l ≠ 0)))) ∧
    acts (.vmatch q vd va) (fun c =>
      let same (l : Nat) := maskOf (on.filter fun k => decide (x k = x l))
      (c.later 6 (.vec vd.toNat (on.map fun l => (l, lowHalf (same l))))).later 6 (.vec (vd.toNat + 1) (on.map fun l => (l, highHalf (same l))))) ∧
    (issues (.vrdln q sd sl va) s w = true → completes (.vrdln q sd sl va) q s w fun c =>
      if on = [] ∧ w.handler = none then c else put c (.sca sd.toNat (if n < w.hdr.width then x n else 0))) ∧
    (issues (.vwrln q sl vd sb) s w = true → completes (.vwrln q sl vd sb) q s w fun c =>
      if on = [] ∧ w.handler = none then c else if n < w.hdr.width then put c (.vec vd.toNat [(n, i.src.scalar sb.toNat)]) else c)

/-- The folds of the active lanes in ascending order, and the draw over them (spec/05 R140, R144, R145): `vredu` writes the last partial
result, `vscan` each lane's own or, exclusive, the one before it.
The operations that it names rest on readings of the model, log entry 21. -/
def Obligations.FoldResults : Prop :=
  ∀ (q : Sched) (sd sc : SReg) (excl fl : Bool) (op : RedOp) (vd va : VReg) (s : State) (w : Wave),
    let i := s.issue
    let on := i.activeLanes
    let parts := i.fold w op fl va
    let out (r : Nat × Option (Flagged Word) × Flagged Word) : Flagged Word :=
      if excl then r.2.1.getD (RedOp.identity op fl, 0) else r.2.2
    let coin (n : Nat) := (vrand w.seed (i.src.scalar 63 * 64 + BitVec.ofNat 32 n) 0).toNat / 256
    (issues (.vredu q sd fl op va) s w = true → completes (.vredu q sd fl op va) q s w fun c =>
      if on = [] then c
      else match parts.getLast? with
        | some r => (c.later 6 (.sca sd.toNat r.2.2.1)).raiseFlags r.2.2.2
        | none => c) ∧
    (issues (.vscan q excl fl op vd va) s w = true → completes (.vscan q excl fl op vd va) q s w fun c =>
      if on = [] then c
      else (c.later 6 (.vec vd.toNat (parts.map fun r => (r.1, (out r).1)))).raiseFlags (parts.foldl (fun f r => f ||| (out r).2) 0)) ∧
    (issues (.vdraw q sd sc va) s w = true → completes (.vdraw q sd sc va) q s w fun c =>
      match drawLanes (Nat.log2 w.hdr.width) on (fun l => (i.src.lane va.toNat l).toNat) (i.src.scalar sc.toNat).toNat coin with
      | none => c
      | some r =>
        (((c.putNow (.sca sd.toNat r.1.idx)).putNow (.sca (sd.toNat + 1) (BitVec.ofNat 32 r.1.mass))).putNow
          (.sca (sd.toNat + 2) (BitVec.ofNat 32 r.1.top))).raiseFlags r.2)


/-! ### Control words -/

/-- `br` sends the lanes whose condition holds to PC + 4 × offset and the others on, as one entry where they go together; where they
part, the hint names the side that becomes head, and a `uniform` branch that parts traps DIVERGENT in every lane instead (spec/04 R102,
spec/01 R21).
The operations that it names rest on readings of the model, log entry 106. -/
def Obligations.BranchMovesLanes : Prop :=
  ∀ (q : Sched) (hint : BrHint) (inv : Bool) (cond : BitVec 4) (off : BitVec 17) (s : State) (w : Wave),
    let i := s.issue
    let holds : DWord := if cond = 0 then BitVec.allOnes 64 else if cond.toNat ≤ 12 then i.src.mask (cond.toNat - 1)
      else if i.src.sc then BitVec.allOnes 64 else 0
    let yes := i.lanes &&& (if inv then ~~~holds else holds)
    let no := i.lanes &&& ~~~yes
    let target := i.pc + 4 * off.signExtend 64
    let front : Option DWord := match hint with
      | .likely => some target
      | .unlikely => some (i.pc + 4)
      | _ => none
    issues (.br q hint inv cond off) s w = true →
      performs (.br q hint inv cond off) q s w fun c =>
        if hint = .uniform ∧ yes ≠ 0 ∧ no ≠ 0 then Did.orTrap c (bundleRaise i.lanes cDivergent 0) (.left c)
        else if no = 0 then .goto c [(target, i.lanes)] none
        else if yes = 0 ∨ target = i.pc + 4 then .done c
        else .goto c [(target, yes), (i.pc + 4, no)] front

/-- `jmp` and `call` go to PC + 4 × offset, `brx` sends each lane to PC + 4 × va, `call` pushes PC + 4 on the stack of each lane, and
`ret` pops it; a full stack traps NEST_LIMIT and an empty one ILLEGAL_RETURN in the lanes concerned, and then no lane moves (spec/04
R103, R104).
The operations that it names rest on readings of the model, log entry 106. -/
def Obligations.JumpsMoveLanes : Prop :=
  ∀ (q : Sched) (off : BitVec 19) (va : VReg) (s : State) (w : Wave),
    let i := s.issue
    let ls := lanesOf i.lanes
    let target := i.pc + 4 * off.signExtend 64
    let stack (l : Nat) := w.rstack.getD l []
    let raise (bad : List Nat) (cause : Nat) : List Raise := bad.map fun l => { lane := l, cause := cause, info := 1, write := false, space := 0 }
    (issues (.jmp q off) s w = true → performs (.jmp q off) q s w fun c => .goto c [(target, i.lanes)] none) ∧
    (issues (.brx q va) s w = true → performs (.brx q va) q s w fun c =>
      .goto c (groupByPc (ls.map fun l => (l, i.pc + 4 * (i.src.lane va.toNat l).signExtend 64))) none) ∧
    (issues (.call q off) s w = true → performs (.call q off) q s w fun c =>
      Did.orTrap c (raise (ls.filter fun l => decide (16 ≤ (stack l).length)) cNest)
        (.goto (c.wave fun x => { x with rstack := ls.foldl (fun r l => r.put l ((i.pc + 4) :: x.rstack.getD l [])) x.rstack })
          [(target, i.lanes)] none)) ∧
    (issues (.ret q) s w = true → performs (.ret q) q s w fun c =>
      Did.orTrap c (raise (ls.filter fun l => decide (stack l = [])) cIllegalReturn)
        (.goto (c.wave fun x => { x with rstack := ls.foldl (fun r l => r.put l (stack l).tail) w.rstack })
          (groupByPc (ls.map fun l => (l, (stack l).headD 0))) none))

/-- `join` ORs the bundle into a mask's final value and `leave` removes it, each with a test of the mask's waiters and a re-sort, and
`waitm` parks the bundle on the mask (spec/04 R106, spec/01 R23; that the pending results of the mask count is the model's reading, log
entry 16). `exit` with other lanes live takes the bundle out of the table and
of every mask, and an adopted task whose other entries are parked is then suspended; as the last exit it waits for the task's global
`mstore` requests, commits the task's version and ends the task (spec/04 R107, spec/09 R225, R238).
The operations that it names rest on readings of the model, log entries 11, 14, 106 and 125. -/
def Obligations.MaskControl : Prop :=
  (∀ (q : Sched) (m : BitVec 4) (s : State) (w : Wave),
    let n := m.toNat
    let set (i : Instr) (f : DWord → DWord) : Prop := issues i s w = true → completes i q s w fun c =>
      c.wave fun x => { ((x.now (.msk n (f (x.maskFinal n)))).recheck n) with resort := true }
    set (.join q m) (fun x => x ||| s.issue.lanes) ∧ set (.leave q m) (fun x => x &&& ~~~s.issue.lanes) ∧
    (issues (.waitm q m) s w = true → performs (.waitm q m) q s w fun c => .park c (.waitm n))) ∧
  (∀ (q : Sched) (s : State) (w : Wave), issues (.exit q) s w = true →
    let c := s.countWord w
    let leave (c : State) := (c.wave fun x => (x.dropLanes s.issue.lanes).endGroup).suspendOwner s.issue.slot
    let last (c : State) := (c.commit s.issue.slot).removeWave s.issue.slot true none
    (w.without s.issue.lanes ≠ [] → (leave c).stall = [] → performs (.exit q) q s w fun c => .left (leave c)) ∧
    (w.without s.issue.lanes = [] → c.globalStores w = true → performs (.exit q) q s w fun c => .wait c) ∧
    (w.without s.issue.lanes = [] → c.globalStores w = false → (c.commit s.issue.slot).stall = [] → (last c).stall = [] →
      performs (.exit q) q s w fun c => .left (last c)))

/-- `yield` lets every other ready wave of the core issue once, `nop` does nothing, `isync` empties the core's instruction cache, `ppt`
starts the save of its team where a pre-emption is pending, or its discard where every wave is restartable (spec/11 R280, R281), and
`idemend` closes the open region (spec/04 R109 to R111, R115); `idem` of all live lanes, outside a region, at a start that the kernel's
table lists, opens the region there with s0 to s15 as its restart values and makes the task restartable, and traps ILLEGAL_INSTR for another
bundle or inside a region, and a cause of the table's read is the Leader's, in SPACE 3 (spec/04 R110, spec/09 R228; the Leader is log entry
17); `sleep` parks on the 32-byte block of its address, until a write to it or 64 × b cycles of `sr.clock`, and without a limit where b is
0, and a refused address traps in every lane of the bundle (spec/04 R108). The operations that it names rest on readings of the model, log
entries 14 and 116. -/
def Obligations.SmallControlWords : Prop :=
  (∀ (q : Sched) (s : State) (w : Wave),
    let i := s.issue
    (issues (.nop q) s w = true → completes (.nop q) q s w fun c => c) ∧
    (issues (.yield q) s w = true → completes (.yield q) q s w fun c => c.wave fun x =>
      { x with yieldTo := (c.waves.filter fun e =>
          decide (coreOf e.1 = coreOf i.slot ∧ e.1 ≠ i.slot) && (e.2.hasReady || e.2.handler.isSome)).map (·.1) }) ∧
    (issues (.isync q) s w = true → completes (.isync q) q s w fun c => c.modCore (coreOf i.slot) fun k => { k with icache := [] }) ∧
    (issues (.ppt q) s w = true → completes (.ppt q) q s w fun c =>
      let root := c.rootTeam i.slot w
      match c.teams.get? root with
      | none => c
      | some x =>
        if (c.context w.ctx).state = 2 ∧ x.saving = false ∧ x.discarding = false then
          c.setTeam root (if c.discards root x then { x with discarding := true } else { x with saving := true })
        else c) ∧
    (∀ r, w.region = some r → i.lanes = w.liveLanes → i.offset w = r.endOff → issues (.idemend q) s w = true →
      completes (.idemend q) q s w fun c => c.wave fun x => { x with region := none, restart := x.restart && x.spawned && !x.committed })) ∧
  (∀ (q : Sched) (s : State) (w : Wave), issues (.idem q) s w = true →
    let i := s.issue
    let r (c : State) := c.regionAt i.slot w (i.offset w)
    let open_ := i.lanes = w.liveLanes ∧ w.region = none ∧ (r (s.countWord w)).1.stall = []
    (i.lanes ≠ w.liveLanes ∨ w.region.isSome = true →
      performs (.idem q) q s w fun c => Did.orTrap c (bundleRaise i.lanes cIllegal 0) (.left c)) ∧
    (open_ → (r (s.countWord w)).2 = .ok none →
      performs (.idem q) q s w fun c => Did.orTrap (r c).1 (bundleRaise i.lanes cIllegal 0) (.left (r c).1)) ∧
    (∀ cause info, open_ → (r (s.countWord w)).2 = .error (cause, info) → performs (.idem q) q s w fun c =>
      Did.orTrap (r c).1 (raisesOf (maskOf [i.leader]) cause info 3 false) (.left (r c).1)) ∧
    (∀ stop, open_ → (r (s.countWord w)).2 = .ok (some stop) →
      completes (.idem q) q s w fun c => (r c).1.wave fun x =>
        { x with region := some { pc := i.first, s := Sparse.getList i.src.s 0 16, endOff := stop }, restart := true })) ∧
  (∀ (q : Sched) (n : BitVec 5) (b : SSrc) (s : State) (w : Wave), issues (.sleep q n b) s w = true →
    let i := s.issue
    let clus := clusOf (coreOf i.slot)
    let time := (i.sint b).toNat
    let r (c : State) := c.check w.ctx (dieOf clus) (some clus) (i.src.pair (2 * n.toNat)).toNat 4 4 { rd := true, wr := false }
    (r (s.countWord w)).1.stall = [] →
    performs (.sleep q n b) q s w fun c =>
      match (r c).2 with
      | .error e => Did.orTrap (r c).1
          ((lanesOf i.lanes).map fun l => { lane := l, cause := e.1, info := e.2, write := false, space := 0 }) (.left (r c).1)
      | .ok (pa, _) => .park (r c).1 (.sleep (pa / 32) (if time = 0 then none else some (c.clock.toNat + 64 * time))))

/-- A trap of the wave in issue (spec/11 R269 to R273): `trap` and `brk` raise SOFTWARE and BREAKPOINT in every lane of the bundle with
their code as INFO, and outside a handler with a non-zero `sr.tvec` the wave then runs its handler: `sr.epc` holds the first word of
the group, `sr.tsw` the cause, INFO and restartable flag, `sr.tmask` the bundle, `sr.tpend` nothing; the bundle's entry leaves the
table, and the frame holds s48 to s63, m10, m11, `sc` and `sr.fstat` as they stand with every pending result landed. -/
def Obligations.SoftwareTrapEntersHandler : Prop :=
  ∀ (q : Sched) (code : BitVec 8) (s : State) (w : Wave),
    let i := s.issue
    let enters (j : Instr) (cause : Nat) : Prop := issues j s w = true → w.handler = none → w.tvec ≠ 0 → i.lanes ≠ 0 → i.resumed = false →
      ∃ t x, exec j s = .next t ∧ t.waves.get? i.slot = some x ∧
          x.tsw = BitVec.ofNat 32 ((if w.restart then 65536 else 0) + code.toNat * 256 + cause) ∧
        x.epc = i.first ∧ x.tmask = i.lanes ∧ x.tpend = 0 ∧ x.table = w.without i.lanes ∧ x.regs = w.landAll.regs ∧ x.pend = [] ∧
        x.handler = some {
          pc := w.tvec, lanes := i.lanes, frameS := Sparse.getList w.landAll.regs.s 48 16, frameM10 := w.landAll.regs.m.get 10
          frameM11 := w.landAll.regs.m.get 11, frameSc := w.landAll.regs.sc, frameFstat := w.fstat } ∧
        t.mem = s.mem ∧ t.scm = s.scm
    enters (.trap q code) 0x12 ∧ enters (.brk q code) 0x13

/-- `tret` with a legal saved status leaves the handler: the frame's registers and flags come back, and the trapping lanes return to the
table at `sr.epc`; `tret.abort` ends the task by abort with KIND 0. Outside a handler both trap ILLEGAL_RETURN, and a status with
reserved bits traps BAD_STATUS (spec/04 R113, spec/11 R275, R277).
The operations that it names rest on readings of the model, log entry 14. -/
def Obligations.HandlerReturns : Prop :=
  ∀ (q : Sched) (s : State) (w : Wave),
    let raise (j : Instr) (cause : Nat) : Prop :=
      performs j q s w fun c => Did.orTrap c (bundleRaise s.issue.lanes cause 0) (.left c)
    let legal := w.tsw.toNat / 2 ^ 20 = 0 ∧ 1 ≤ w.tsw.toNat % 256 ∧ w.tsw.toNat % 256 ≤ 0x13 ∧ w.epc.toNat % 4 = 0 ∧ w.epc.toNat / 2 ^ 52 = 0
    (∀ h, issues (.tret q) s w = true → w.handler = some h → legal →
      performs (.tret q) q s w fun c => .left (c.wave fun x => x.leaveHandler h)) ∧
    (∀ h, issues (.tretAbort q) s w = true → w.handler = some h → legal →
      ((s.countWord w).abort s.issue.slot 0 w.tsw.toNat w.epc true).stall = [] →
      performs (.tretAbort q) q s w fun c => .left (c.abort s.issue.slot 0 w.tsw.toNat w.epc true)) ∧
    (w.handler = none → (issues (.tret q) s w = true → raise (.tret q) cIllegalReturn) ∧
      (issues (.tretAbort q) s w = true → raise (.tretAbort q) cIllegalReturn)) ∧
    (w.handler.isSome = true → ¬legal → (issues (.tret q) s w = true → raise (.tret q) cBadStatus) ∧
      (issues (.tretAbort q) s w = true → raise (.tretAbort q) cBadStatus))

/-- Each hint word, as the first of its kind and at most the second of its group, is held for the next instruction word, its bundle
standing at the next word and the first word of the group kept (spec/03 R65 to R67).
The operations that it names rest on readings of the model, log entry 14. -/
def Obligations.HintsAreHeld : Prop :=
  ∀ (x20 : BitVec 20) (x12 : BitVec 12) (inv : Bool) (m : BitVec 4) (d : ModHint) (x3 : BitVec 3) (x2 : BitVec 2) (x8 : BitVec 8) (s : State) (w :
      Wave),
    let i := s.issue
    let held (j : Instr) (h : Hints) : Prop :=
      s.waves.get? i.slot = some w → j.wf = true → Instr.version j ≤ w.hdr.encv → Hints.list i.held < 2 →
      (w.inBody = true → Instr.inCapsule j = true) →
      exec j s = .next ((s.charge w.launches i.slot 0 false).modWave i.slot fun x => x.hinted i h)
    (i.held.litlo = none → held (.hintLitlo x20) { i.held with litlo := some x20 }) ∧
    (i.held.lithi = none → held (.hintLithi x12) { i.held with lithi := some x12 }) ∧
    (i.held.guard = none → held (.hintGuard inv m) { i.held with guard := some (inv, m) }) ∧
    (i.held.mod = none → held (.hintMod d.sel d.hf d.ord d.w64 d.sat d.ab d.nb d.aa d.na) { i.held with mod := some d }) ∧
    (i.held.rnd = none → held (.hintRnd x3) { i.held with rnd := some x3 }) ∧
    (i.held.scope = none → held (.hintScope x3) { i.held with scope := some x3 }) ∧
    (i.held.cache = none → held (.hintCache x2) { i.held with cache := some x2 }) ∧
    (i.held.gap = none → held (.hintGap x8) { i.held with gap := some x8 })

/-- `smfr` reads a system register for the Leader into sd, or into sd and sd + 1 where it is 64 bits wide, `sr.fstat` with variable
latency and the others after one cycle (spec/04 R116, R119). `smto` (spec/01 R26 to R32, spec/04 R117): a register that the wave may
write takes a value that it accepts, reserved bits apart; `sr.snap` posts a snapshot command; a register that is read-only, that only a
handler may write, or that needs privilege traps PRIV with the register's number, and a value that the register refuses traps
ILLEGAL_INSTR. An access of `sr.fstat` waits until the earlier words have written their results (spec/01 R28).
The operations that it names rest on readings of the model, log entries 14 and 20. -/
def Obligations.SystemRegisters : Prop :=
  (∀ (q : Sched) (sd : SReg) (num : BitVec 8) (s : State) (w : Wave), issues (.smfr q sd num) s w = true →
    (num = 0x0C → w.pend ≠ [] → performs (.smfr q sd num) q s w fun c => (Did.wait c).uncounted s.issue.slot w) ∧
    ((num = 0x0C → w.pend = []) → completes (.smfr q sd num) q s w fun c =>
      let x := c.sysRead s.issue w num.toNat
      if num.toNat ∈ [0x0B, 0x0E, 0x10, 0x11, 0x14, 0x16] then (c.later 1 (.sca sd.toNat (lowHalf x))).later 1 (.sca (sd.toNat + 1) (highHalf x))
      else if num = 0x0C then c.putNow (.sca sd.toNat (lowHalf x))
      else c.later 1 (.sca sd.toNat (lowHalf x)))) ∧
  (∀ (q : Sched) (sa : SReg) (num : BitVec 8) (s : State) (w : Wave), issues (.smto q sa num) s w = true →
    let i := s.issue
    let n := num.toNat
    let v : DWord := if n ∈ [0x0B, 0x0E, 0x10, 0x11, 0x14, 0x16] then i.src.pair sa.toNat else (i.src.scalar sa.toNat).setWidth 64
    let open_ := n ∈ [0x0C, 0x0D, 0x0E, 0x13, 0x14, 0x15] ∨ (n ∈ [0x0F, 0x10, 0x11, 0x12] ∧ w.handler.isSome = true) ∨
      (n = 0x18 ∧ (s.context w.ctx).priv = true)
    let raise (cause info : Nat) : Prop :=
      performs (.smto q sa num) q s w fun c => Did.orTrap c (bundleRaise (maskOf [i.leader]) cause info) (.left c)
    (num = 0x0C → w.pend ≠ [] → performs (.smto q sa num) q s w fun c => (Did.wait c).uncounted s.issue.slot w) ∧
    (¬open_ → raise cPriv n) ∧
    (open_ → w.valueOk n v = false → raise cIllegal 0) ∧
    (open_ → w.valueOk n v = true → n ≠ 0x18 → (num = 0x0C → w.pend = []) →
        completes (.smto q sa num) q s w fun c => c.wave fun x => x.sysWrite n v) ∧
    (open_ → n = 0x18 → ((s.countWord w).snapWrite (v.setWidth 32)).stall = [] →
      completes (.smto q sa num) q s w fun c => c.snapWrite (v.setWidth 32)))

/-- `scan` in a privileged context posts its descriptor and sets `sc`, or clears `sc` where the facility holds a request already; in
another context it traps PRIV (spec/04 R118).
The operations that it names rest on readings of the model, log entries 14 and 98. -/
def Obligations.ScanNeedsPrivilege : Prop :=
  ∀ (q : Sched) (sa : SReg) (s : State) (w : Wave), issues (.scan q sa) s w = true →
    ((s.context w.ctx).priv = false →
      performs (.scan q sa) q s w fun c => Did.orTrap c (bundleRaise (maskOf [s.issue.leader]) cPriv 0xFF) (.left c)) ∧
    ((s.context w.ctx).priv = true → s.scanning.isSome = true → completes (.scan q sa) q s w fun c => c.putNow (.cond false)) ∧
    ((s.context w.ctx).priv = true → s.scanning = none → ((s.countWord w).acceptScan w.ctx (s.issue.src.pair sa.toNat).toNat).stall = [] →
      completes (.scan q sa) q s w fun c => (c.acceptScan w.ctx (s.issue.src.pair sa.toNat).toNat).putNow (.cond true))


/-! ### Memory words -/

/-- The vector loads (spec/06 R147 to R151, R154, R156, R157): where every active lane's access is granted and no byte is marked or
refused, each lane gets the bytes at its own address, sign-extended or spread over consecutive registers as the width says; `vldt`
reads columns, and `vlds` the scratchpad.
The operations that it names rest on readings of the model, log entries 14, 23 and 112. -/
def Obligations.VectorLoads : Prop :=
  ∀ (q : Sched) (vd : VReg) (base : BitVec 5) (voff : BitVec 7) (k : Width) (s : State) (w : Wave),
    let i := s.issue
    let t := s.countWord w
    let n := Width.bytes k
    let at_ (f : BitVec 5 → BitVec 7 → Nat → Nat) := i.activeLanes.map fun l => (l, f base voff l)
    let loads (j : Instr) (comb : Bool) (read : State → List Acc → State × List Nat × List (Nat × List Byte)) : Prop :=
      issues j s w = true → ∀ u as, t.grants w n { rd := true, wr := false, comb := comb } (some false) (at_ i.globalVa) u as →
        u.markedLanes n 0 false as = [] → (read (u.afterRemote w n as) as).2.1 = [] →
        let r := read (u.afterRemote w n as) as
        let z := if as = [] then r.1 else r.1.putLanes vd.toNat (Width.count k) (r.2.2.map fun x => (x.1, Width.load k x.2))
        z.stall = [] → exec j s = .next (s.after q (.done z))
    loads (.vld q vd base voff k) false (fun u as => u.readLanes (coreOf i.slot) w n i.held.bypass as) ∧
    loads (.vldc q vd base voff k) false (fun u as => u.readLanes (coreOf i.slot) w n i.held.bypass as) ∧
    loads (.vldt q vd base voff k) true (fun u as => u.readColumns (coreOf i.slot) w n as) ∧
    (issues (.vlds q vd base voff k) s w = true → ∀ as, as ≠ [] → t.grantsSpad w n false (at_ i.spadVa) as →
      exec (.vlds q vd base voff k) s = .next (s.after q (.done (t.putLanes vd.toNat (Width.count k)
        (as.map fun a => (a.lane, Width.load k (t.spadBytes a.core a.off n)))))))

/-- The scalar loads and the scalar store (spec/06 R159, spec/09 R245): the Leader's 4 or 8 bytes at the pair plus 4 × offset, into sd
or the pair at sd, the task's own buffered bytes of a capsule step over them; `sst` is held like a vector store, and in a capsule
body it joins the step's buffer. What a handler stores while a step is open lies over its own loads too (R152, R245, R274).
The operations that it names rest on readings of the model, log entries 14 and 15. -/
def Obligations.ScalarMemoryWords : Prop :=
  ∀ (q : Sched) (sd : SReg) (base : BitVec 5) (w64 : Bool) (off : BitVec 8) (s : State) (w : Wave),
    let i := s.issue
    let t := s.countWord w
    let n := if w64 then 8 else 4
    let va := (i.src.pair (2 * base.toNat) + 4 * off.setWidth 64).toNat
    let loads (j : Instr) : Prop :=
      issues j s w = true → ∀ u a b, t.grants w n { rd := true, wr := false } (some false) [(i.leader, va)] u [a] →
        u.markedLanes n 0 false [a] = [] → ((u.afterRemote w n [a]).readLanes (coreOf i.slot) w n false [a]).2 = ([], [(i.leader, b)]) →
        let r := (u.afterRemote w n [a]).readLanes (coreOf i.slot) w n false [a]
        let x := leNat (overlay w.stepBytes a.pa b)
        let z := if w64 then r.1.putPair sd.toNat (BitVec.ofNat 64 x) else r.1.putNow (.sca sd.toNat (BitVec.ofNat 32 x))
        z.stall = [] → exec j s = .next (s.after q (.done z))
    let data := ((if w64 then [i.src.scalar sd.toNat, i.src.scalar (sd.toNat + 1)] else [i.src.scalar sd.toNat]).flatMap fun v => leBytes 4 v.toNat)
    loads (.sld q sd base w64 off) ∧ loads (.sldk q sd base w64 off) ∧
    (issues (.sst q sd base w64 off) s w = true → ∀ u a, t.grants w n { rd := false, wr := true } (some true) [(i.leader, va)] u [a] →
      let z := if w.inBody then
          ({ u with nextNum := u.nextNum + 1 } : State).wave fun x =>
            { x with stepBuf := x.stepBuf ++ [{ num := u.nextNum, pa := a.pa, persist := ptePersist a.pte, own := false, data := data }] }
        else (u.storeLanes w [(a, data)]).noteOwn w (cellsAt a.pa data)
      z.stall = [] → exec (.sst q sd base w64 off) s = .next (s.after q (.done z)))

/-- The vector stores (spec/06 R148, R152, R153, R156) write the registers' bytes of each active lane at its own address; `vpref` brings
the row of each active lane towards the core and writes no register (R158; what it asks of the tier engine and of the L1 is the model's
choice, log entry 25); and `vpwb` commits and sends the line of each lane with a PERSIST page to the write-back queue, the error marks
kept (R170; log entry 26), and changes nothing where no lane is active (spec/03 R68).
The operations that it names rest on readings of the model, log entries 14, 15, 28, 40 and 41. -/
def Obligations.VectorStores : Prop :=
  ∀ (q : Sched) (vs : VReg) (base : BitVec 5) (voff : BitVec 7) (k : Width) (s : State) (w : Wave),
    let i := s.issue
    let t := s.countWord w
    let n := Width.bytes k
    let data (l : Nat) : List Byte := ((List.range (Width.count k)).flatMap fun j => leBytes 4 (i.src.lane (vs.toNat + j) l).toNat).take n
    (issues (.vst q vs base voff k) s w = true → ∀ u as,
      t.grants w n { rd := false, wr := true } (some true) (i.activeLanes.map fun l => (l, i.globalVa base voff l)) u as →
      (u.storeLanes w (as.map fun a => (a, data a.lane))).stall = [] →
      exec (.vst q vs base voff k) s = .next (s.after q (.done (u.storeLanes w (as.map fun a => (a, data a.lane)))))) ∧
    (issues (.vsts q vs base voff k) s w = true → ∀ as, t.grantsSpad w n true (i.activeLanes.map fun l => (l, i.spadVa base voff l)) as →
      exec (.vsts q vs base voff k) s = .next (s.after q (.done (foldState (fun u a => u.spadStore a.core a.off (data a.lane)) t as)))) ∧
    (issues (.vpref q base voff) s w = true →
      let z := foldState (fun s l => s.prefetch i.slot w i.held.bypass (i.globalVa base voff l)) t i.activeLanes
      z.stall = [] → exec (.vpref q base voff) s = .next (s.after q (.done z))) ∧
    (issues (.vpwb q base voff) s w = true → i.activeLanes = [] → completes (.vpwb q base voff) q s w fun c => c) ∧
    (issues (.vpwb q base voff) s w = true → i.activeLanes ≠ [] → ∀ u as,
      t.grants w 1 { rd := false, wr := true } none
        ((i.activeLanes.map fun l => (l, i.globalVa base voff l)).filter fun x => t.persistLane i.slot w x.2) u as →
      let c := u.commit i.slot
      let z : State := if as = [] then c else { (c.ordered i.slot).enterNow w i.slot (c.lineBytes as) with marks := c.marks }
      z.stall = [] → exec (.vpwb q base voff) s = .next (s.after q (.done z)))

/-- `publ` waits at issue while global writes of the task's `mstore` requests are in flight; it then commits the version, and has no other
effect (spec/09 R229).
The operations that it names rest on readings of the model, log entry 14. -/
def Obligations.PublWaitsAndCommits : Prop :=
  ∀ (q : Sched) (s : State) (w : Wave), issues (.publ q) s w = true →
    ((s.countWord w).globalStores w = true → performs (.publ q) q s w fun c => .wait c) ∧
    ((s.countWord w).globalStores w = false → ((s.countWord w).commit s.issue.slot).stall = [] →
      completes (.publ q) q s w fun c => c.commit s.issue.slot)

/-- The atomics on global memory (spec/06 R160 to R164): the release that the ordering asks for, then each active lane in ascending
order reads the old value and writes the new one, over what the lanes before it wrote; the old values go to the operand registers, and
the acquire that the ordering asks for follows. The scratchpad atomics and `bfadd` (R163, R165): each lane's old and new value in
ascending order, a wider scope acting as cluster; and the block-float adds of each block in rounds, with one status word for each lane. With
no active lane a vector form changes nothing (spec/03 R68). The new values (R160, R162): integers wrap or compare at their own width, `incw`
goes back to zero from the limit on; `fadd`, `fmin` and `fmax` work on FP32 values and round with RNE; and a `cas` writes its swap value
where the old value is the compare value, and nothing otherwise.
The operations that it names rest on readings of the model, log entries 14, 15, 21, 40 and 41. -/
def Obligations.Atomics : Prop :=
  (∀ (q : Sched) (vd : VReg) (sd : SReg) (voff : BitVec 7) (base : BitVec 5) (w64 : Bool) (s : State) (w : Wave),
    let i := s.issue
    let t := s.countWord w
    let ord := i.held.ord
    let scope := i.held.scopeOr
    let acts (j : Instr) (n : Nat) (f : AtomFun) (addr : List (Nat × Nat)) (operand : Nat → List Word)
        (write : State → List (Nat × Nat) → State) : Prop :=
      issues j s w = true → addr ≠ [] →
        ∀ u as c, t.grants w n { rd := true, wr := true } none addr u as → u.markedLanes n 0 true as = [] →
        (if 2 ≤ ord then (u.afterRemote w n as).released w scope = some c else c = u.afterRemote w n as) →
        let r := c.atomLanes w n f (as.map fun a => (a, operand a.lane))
        let y := ((write r.state r.old).noteOwn w r.writes).atomAcquire ord scope
        r.refused = [] → y.stall = [] → exec j s = .next (s.after q (.done y))
    let n := if i.held.w64 then 8 else 4
    let m := if w64 then 8 else 4
    let lanes := i.activeLanes.map fun l => (l, i.globalVa base voff l)
    let regs (c l : Nat) := (List.range c).map fun k => i.src.lane (vd.toNat + k) l
    let sregs (c : Nat) := (List.range c).map fun k => i.src.scalar (sd.toNat + k)
    let idle (j : Instr) : Prop := issues j s w = true → i.activeLanes = [] → completes j q s w fun c => c
    (∀ op, acts (.vatom q op vd voff base) n (atomFun op n) lanes (regs (n / 4)) (putOld vd n) ∧ idle (.vatom q op vd voff base)) ∧
    acts (.vcas q vd voff base) n (casFun n) lanes (regs (n / 2)) (putOld vd n) ∧ idle (.vcas q vd voff base) ∧
    (∀ op, acts (.satom q sd base w64 op) m (atomFun op m) [(i.leader, (i.src.pair (2 * base.toNat)).toNat)] (fun _ => sregs (m / 4))
      (putOldScalar sd m)) ∧
    acts (.scas q sd base w64) m (casFun m) [(i.leader, (i.src.pair (2 * base.toNat)).toNat)] (fun _ => sregs (m / 2)) (putOldScalar sd m)) ∧
  (∀ (n o v : Nat), n = 4 ∨ n = 8 → o < 2 ^ (8 * n) → v < 2 ^ (8 * n) →
    AtomOp.new .add n o v = (o + v) % 2 ^ (8 * n) ∧ AtomOp.new .exch n o v = v ∧
    AtomOp.new .and n o v = o &&& v ∧ AtomOp.new .or n o v = o ||| v ∧ AtomOp.new .xor n o v = o ^^^ v ∧
    AtomOp.new .minu n o v = min o v ∧ AtomOp.new .maxu n o v = max o v ∧
    AtomOp.new .incw n o v = (if v ≤ o then 0 else o + 1) ∧
    signedOf n (AtomOp.new .min n o v) = min (signedOf n o) (signedOf n v) ∧
    signedOf n (AtomOp.new .max n o v) = max (signedOf n o) (signedOf n v) ∧
    (∀ op, op ≠ .fadd → op ≠ .fmin → op ≠ .fmax → AtomOp.new op n o v < 2 ^ (8 * n)) ∧
    (let x := FFmt.fp32.decode o
     let y := FFmt.fp32.decode v
     let code (z : Val) := (FFmt.fp32.round .rne false 0 z).1
     AtomOp.new .fadd 4 o v = code (x.add .rne y).1 ∧ AtomOp.new .fmin 4 o v = code (minVal x y) ∧
     AtomOp.new .fmax 4 o v = code (maxVal x y)) ∧
    (let words (x : Nat) : List Word := (List.range (n / 4)).map fun j => BitVec.ofNat 32 (x / 2 ^ (32 * j))
     ∀ swap, swap < 2 ^ (8 * n) →
      casFun n o (words v ++ words swap) = (if o = v then some swap else none) ∧
      ∀ op, atomFun op n o (words v) = some (AtomOp.new op n o v))) ∧
  (∀ (q : Sched) (vd : VReg) (voff : BitVec 7) (base : BitVec 5) (s : State) (w : Wave),
    let i := s.issue
    let t := s.countWord w
    let ord := i.held.ord
    let n := if i.held.w64 then 8 else 4
    let idle (j : Instr) : Prop := issues j s w = true → i.activeLanes = [] → completes j q s w fun c => c
    let spad (j : Instr) (f : AtomFun) (count : Nat) : Prop :=
      issues j s w = true → i.activeLanes ≠ [] →
        ∀ as c, t.grantsSpad w n true (i.activeLanes.map fun l => (l, i.spadVa base voff l)) as →
        (if 2 ≤ ord then t.released w (min i.held.scopeOr 2) = some c else c = t) →
        let r := as.foldl (fun (a : State × List (Nat × Nat)) x =>
          let o := a.1.spadValue x.core x.off n
          (match f o ((List.range count).map fun k => i.src.lane (vd.toNat + k) x.lane) with
           | some v => a.1.spadStore x.core x.off (leBytes n v)
           | none => a.1,
           a.2 ++ [(x.lane, o)])) (c, [])
        let y := (putOld vd n r.1 r.2).atomAcquire ord (min i.held.scopeOr 2)
        y.stall = [] → exec j s = .next (s.after q (.done y))
    (∀ op, spad (.vatoms q op vd voff base) (atomFun op n) (n / 4) ∧ idle (.vatoms q op vd voff base)) ∧
    spad (.vatomsCas q vd voff base) (casFun n) (n / 2) ∧ idle (.vatomsCas q vd voff base) ∧
    idle (.bfadd q vd voff base) ∧
    (issues (.bfadd q vd voff base) s w = true → i.activeLanes ≠ [] →
      let addr := i.activeLanes.map fun l => (l, i.globalVa base voff l)
      let r := t.checkLanes i.slot w 8 8 0 { rd := true, wr := true, mside := true } addr
      ∀ as c, (∀ x ∈ addr, x.2 % 8 = 0 ∧ 8 ≤ x.2 % 64) → r.2 = ([], as) → (∀ a ∈ as, r.1.marked (a.pa / 64 * 64) 64 = false) →
        (if 2 ≤ ord then r.1.released w i.held.scopeOr = some c else c = r.1) →
        let ls : List BfLane := as.map fun a =>
          { lane := a.lane, block := a.pa / 64, elem := a.pa % 64 / 8 - 1, addend := i.src.lane vd.toNat a.lane }
        let x := State.bfBlocks ((c.commit i.slot).ordered i.slot) ls (ls.map (·.block)).eraseDups
        let y := (x.1.putNow (.vec vd.toNat x.2)).atomAcquire ord i.held.scopeOr
        y.stall = [] → exec (.bfadd q vd voff base) s = .next (s.after q (.done y))))

/-- The fences (spec/06 R166, R167, R169): an acquire fence acquires at its scope, a release fence releases, a full fence does both;
`qfence` records what later operations of the named queues must follow, and `pfence` opens the next epoch of persistent stores.
The operations that it names rest on readings of the model, log entries 14, 47, 70 and 72. -/
def Obligations.FenceWords : Prop :=
  ∀ (q : Sched) (scope : BitVec 3) (queues : BitVec 6) (s : State) (w : Wave),
    let slot := s.issue.slot
    let t := s.countWord w
    (issues (.fence q .acq scope) s w = true → completes (.fence q .acq scope) q s w fun c => c.acquire slot scope.toNat) ∧
    (issues (.fence q .rel scope) s w = true → ∀ c, t.released w scope.toNat = some c → c.stall = [] →
      exec (.fence q .rel scope) s = .next (s.after q (.done c))) ∧
    (issues (.fence q .full scope) s w = true → ∀ c, t.released w scope.toNat = some c → c.stall = [] →
      exec (.fence q .full scope) s = .next (s.after q (.done (c.acquire slot scope.toNat)))) ∧
    (issues (.qfence q queues) s w = true → completes (.qfence q queues) q s w fun c =>
      let f : Qfence := { queues := queues, before := c.inQueues w queues }
      let add (l : List Qfence) := c.liveFences (l ++ [f])
      { c with
        teams := c.teams.modify w.team fun x => { x with qfences := add x.qfences }
        waves := c.waves.modify slot fun x => { x with qfences := add x.qfences } }) ∧
    (issues (.pfence q) s w = true → completes (.pfence q) q s w fun c => c.wave fun x => { x with pfences := x.pfences + 1 })

/-- The barrier instructions at an object in a scratchpad (spec/08 R203 to R208): `barinit` types it, `bararr` arrives after a release at
cluster scope, `bartest` and `barwait` test the phase and acquire where it holds, `barwait` parking otherwise, and `barinv` untypes the
object and releases its waiters with `sc` = 0. `wbar` by all live lanes, with a valid descriptor that agrees with the pending arrival,
releases at its scope, records the wave's arrival and parks (spec/08 R209, R210).
The operations that it names rest on readings of the model, log entries 14, 39 and 70. -/
def Obligations.BarrierWords : Prop :=
  (∀ (q : Sched) (sd sa sb : SReg) (s : State) (w : Wave) (core off : Nat),
    let i := s.issue
    let t := s.countWord w
    let reg (k : Nat) := (i.src.scalar (sa.toNat + k)).toNat
    let p := (i.src.scalar sb.toNat).toNat
    let b := t.readBar core off
    t.objectAt w (reg 0) 16 = some (core, off) →
    (issues (.barinit q sa) s w = true → t.isTyped core off = false → reg 1 ≤ 65535 → (reg 1 ≠ 0 ∨ reg 2 ≠ 0) →
      completes (.barinit q sa) q s w fun c =>
        (c.writeBar core off { expa := reg 1, arr := 0, expb := reg 2, rcvb := 0, phase := 0, flags := 1 }).modCore core fun x =>
          { x with typed := addNat off x.typed }) ∧
    (t.isTyped core off = true →
      (issues (.bararr q sa) s w = true → ∀ c, t.released w 2 = some c → (c.changeBar core off (c.readBar core off).arrive).stall = [] →
        exec (.bararr q sa) s = .next (s.after q (.done (c.changeBar core off (c.readBar core off).arrive)))) ∧
      (issues (.bartest q sd sa sb) s w = true → completes (.bartest q sd sa sb) q s w fun c =>
        let holds := decide (1 ≤ (b.phase + 65536 - p % 65536) % 65536 ∧ (b.phase + 65536 - p % 65536) % 65536 ≤ 32767)
        let u := (c.putNow (.sca sd.toNat (BitVec.ofNat 32 (b.flags * 65536 + (b.phase + 65536 - p % 65536) % 65536)))).putNow (.cond holds)
        if holds then u.acquire i.slot 2 else u) ∧
      (issues (.barwait q sa sb) s w = true → performs (.barwait q sa sb) q s w fun c =>
        if phaseTest b.phase (p % 65536) then .done ((c.putNow (.cond true)).acquire i.slot 2) else .park c (.barwait core off (p % 65536))) ∧
      (issues (.barinv q sa) s w = true → completes (.barinv q sa) q s w fun c =>
        ((c.writeBar core off { b with flags := b.flags / 2 * 2 }).modCore core fun x => { x with typed := delNat off x.typed }).releaseBar
          core off (fun _ => true) false))) ∧
  (∀ (q : Sched) (scope : WbarScope) (sa : SReg) (s : State) (w : Wave) (x y : Team) (c : State),
    let d := s.issue.src.scalar sa.toNat
    let t := s.countWord w
    issues (.wbar q scope sa) s w = true → s.issue.lanes = w.liveLanes → t.teams.get? w.team = some x →
    descOk d scope w.hdr.vregs = true → t.wbarAgrees x scope (descGroup d) = true →
    t.released w (wbarScopeCode scope) = some c → c.teams.get? w.team = some y → c.stall = [] →
      exec (.wbar q scope sa) s = .next (s.after q (.park (c.recordArrival w y scope d) .wbar)))

/-! ### Copies, the matrix engine, tasks, rings and capsules -/

/-- A copy command whose operands pass is posted in the cluster's copy engine, after the task's commit; with 64 commands of its team
there, the wave waits at issue (spec/08 R196, R197, R201, R202, spec/07 R177). `oload` is no commit point. A destination with KIND 3, a
reserved bit or a wave that the team does not have, a mask of no core, or a slot that is not held traps SLOT_FAULT; a misaligned
destination or barrier MISALIGNED; and an address that is refused PERMISSION with INFO 4, all for the Leader. That the places are resolved
at posting, that an order after `pfence` delays the posting, and that an `oload` reports its slot before its barrier are the model's choices
(log entries 35, 40, 115); the SPACE of the traps is its reading (log entry 29).
The operations that it names rest on readings of the model, log entries 14 and 37. -/
def Obligations.CopyWordsPost : Prop :=
  ∀ (q : Sched) (sa sm : SReg) (s : State) (w : Wave),
    let i := s.issue
    let t := s.countWord w
    let clus := clusOf (coreOf i.slot)
    let reg (k : Nat) := i.src.scalar (sa.toNat + k)
    let dst := (reg 0).toNat
    let kind := dst / 2 ^ 30
    let mask := (i.src.scalar sm.toNat).toNat
    let posts (j : Instr) (commit : Bool) (kind : CopyKind) (bar : Option (Nat × Nat)) : Prop :=
      (64 ≤ t.copiesOf clus w.team → performs j q s w fun c => .wait c) ∧
      (t.copiesOf clus w.team < 64 →
        let c := if commit then t.commit i.slot else t
        let cmd : CopyCmd :=
          { num := c.nextNum, team := w.team, ctx := w.ctx, task := w.task, launches := w.launches, kind := kind, bar := bar,
            layout := (i.src.pair (sa.toNat + 2)).toNat
            coords := [(reg 4).toNat % 65536, (reg 4).toNat / 65536, (reg 5).toNat % 65536, (reg 5).toNat / 65536]
            after := c.teamAfter w 0, started := none, done := [], failed := [], fetched := [] }
        let z := (({ c with nextNum := c.nextNum + 1 } : State).ordered i.slot).modCluster clus fun k => { k with copies := k.copies ++ [cmd] }
        z.stall = [] → exec j s = .next (s.after q (.done z)))
    let traps (j : Instr) (cause info : Nat) : Prop := performs j q s w fun c =>
      .trap c { lane := i.leader, cause := cause, info := info, write := false, space := 3 } []
    let inSpad := kind ≠ 1 ∧ kind ≠ 3 ∧ dst / 2 ^ 24 % 64 = 0
    let inRegs := kind = 1 ∧ dst / 2 ^ 28 % 4 = 0 ∧ dst / 2 ^ 23 % 2 = 0 ∧ dst % 65536 = 0 ∧
      dst / 2 ^ 24 % 16 < ((t.teams.get? w.team).map (·.waves)).getD 0
    let masked := 1 ≤ mask ∧ mask < 16 ∧ dst / 2 ^ 24 = 0
    (issues (.cpy q sa) s w = true →
      (¬ inSpad → ¬ inRegs → traps (.cpy q sa) cSlot 0) ∧
      (inSpad → dst % 16 ≠ 0 → traps (.cpy q sa) cMisaligned 0) ∧
      (∀ e, (inSpad ∧ dst % 16 = 0) ∨ inRegs → t.barOf i.slot w (reg 1) = .error e → traps (.cpy q sa) e.1 e.2) ∧
      (∀ bar, inSpad → dst % 16 = 0 → t.barOf i.slot w (reg 1) = .ok bar → t.placeOf i.slot w (dst % 2 ^ 24) = none →
        traps (.cpy q sa) cPermission 4) ∧
      (∀ bar p, inSpad → dst % 16 = 0 → t.barOf i.slot w (reg 1) = .ok bar → t.placeOf i.slot w (dst % 2 ^ 24) = some p →
        posts (.cpy q sa) true (if kind = 0 then .toSpad p.1 p.2.1 p.2.2 else .toTensor p.1 p.2.1 p.2.2) bar) ∧
      (∀ bar, inRegs → t.barOf i.slot w (reg 1) = .ok bar →
        posts (.cpy q sa) true (.toRegs (dst / 2 ^ 24 % 16) (dst / 2 ^ 16 % 128)) bar)) ∧
    (issues (.cpym q sa sm) s w = true →
      (¬ masked → traps (.cpym q sa sm) cSlot 0) ∧
      (masked → dst % 16 ≠ 0 → traps (.cpym q sa sm) cMisaligned 0) ∧
      (∀ e, masked → dst % 16 = 0 → t.barOf i.slot w (reg 1) = .error e → traps (.cpym q sa sm) e.1 e.2) ∧
      (∀ bar, masked → dst % 16 = 0 → t.barOf i.slot w (reg 1) = .ok bar →
        t.placeOf i.slot w dst = none ∨ inWindow0 dst = false ∨ (bar.isSome = true ∧ inWindow0 (reg 1).toNat = false) →
        traps (.cpym q sa sm) cPermission 4) ∧
      (∀ bar p, masked → dst % 16 = 0 → t.barOf i.slot w (reg 1) = .ok bar → t.placeOf i.slot w dst = some p → inWindow0 dst = true →
        (bar.isSome = true → inWindow0 (reg 1).toNat = true) →
        posts (.cpym q sa sm) true (.multi p.2.1 ((i.src.scalar sm.toNat).setWidth 4)) bar)) ∧
    (issues (.oload q sa) s w = true →
      let held := dst < 64 ∧ (t.cluster t.hereClus).holdsSlot w.team dst = true
      (¬ held → performs (.oload q sa) q s w fun c => .trap c { lane := i.leader, cause := cSlot, info := 0, write := false, space := 0 } []) ∧
      (∀ e, held → t.barOf i.slot w (reg 1) = .error e → traps (.oload q sa) e.1 e.2) ∧
      (∀ bar, held → t.barOf i.slot w (reg 1) = .ok bar → posts (.oload q sa) false (.oload dst) bar))

/-- The words that hand work to other engines (spec/08 R212, R214, R216, R217, R263, spec/10 R262): where their objects may be reached,
`xfer` and `tagc` commit and join the die's tier queue, `tagq` leaves sd pending until the query is performed, `coll` commits and joins
the waggle queue, and `signal` commits and joins the remote operations, with the release of its scope.
The operations that it names rest on readings of the model, log entries 14, 37, 40, 46 and 59. -/
def Obligations.EngineWordsPost : Prop :=
  ∀ (q : Sched) (sd sa sb : SReg) (s : State) (w : Wave),
    let i := s.issue
    let t := s.countWord w
    let pair (k : Nat) := (i.src.pair (sa.toNat + k)).toNat
    let gives (j : Instr) (z : State) : Prop := z.stall = [] → exec j s = .next (s.after q (.done z))
    let code := (i.src.scalar (sa.toNat + 5)).toNat
    let len := (i.src.scalar (sa.toNat + 4)).toNat
    let xfers (op : TierOp) : Prop := ∀ u x, issues (.xfer q sa) s w = true →
      t.granted w (pair 6) 32 32 { rd := true, wr := true } = some (u, x) →
      gives (.xfer q sa) (((u.commit i.slot).ordered i.slot).postTier w op (pair 6) (code / 65536) ((u.commit i.slot).teamAfter w 1))
    (code % 65536 = 0 → xfers (.copy (pair 0) (pair 2) len)) ∧
    (code % 65536 = 1 → pair 2 = 0 → xfers (.fetch (pair 0) len)) ∧
    (code % 65536 = 2 → pair 2 = 0 → xfers (.evict (pair 0) len)) ∧
    (let tag := (i.src.scalar sb.toNat).toNat
     ∀ u, issues (.tagc q sa sb) s w = true → pair 0 % 65536 = 0 → 4096 ≤ tag →
      t.checkTiles w.ctx t.hereClus ((List.range (tag / 4096)).map fun k => pair 0 + 65536 * k) = (u, none) →
      gives (.tagc q sa sb) (((u.commit i.slot).ordered i.slot).postTier w (.tagc (pair 0) (tag / 4096) (tag / 16 % 256) (tag % 16)) 0 0 [])) ∧
    (∀ u pa pte, issues (.tagq q sd sa) s w = true → t.granted w (pair 0) 1 1 { rd := true, wr := false } = some (u, pa, pte) →
      gives (.tagq q sd sa) ((({ u with nextNum := u.nextNum + 1 } : State).wave fun x =>
          { x with
            varPend := x.varPend.filter (fun d => !decide (d = .s sd.toNat)) ++ [.s sd.toNat]
            pend := x.pend.filter fun p => !decide (p.write.reg = .s sd.toNat) }).modDie u.hereDie fun d =>
        { d with tagqs := d.tagqs ++ [{ num := u.nextNum, slot := u.issue.slot, task := w.task, reg := sd.toNat, pa := pa }] })) ∧
    (∀ u x, issues (.coll q sa) s w = true → t.granted w (pair 0) 64 64 { rd := true, wr := false } = some (u, x) →
      let c := (u.commit i.slot).ordered i.slot
      let cmd : CollCmd :=
        { num := c.nextNum, team := w.team, ctx := w.ctx, die := t.hereDie, task := w.task, launches := w.launches, desc := pair 0,
          chunk := none, after := u.teamAfter w 2, joined := false, quiet := false }
      c.stall = [] →
      gives (.coll q sa) ((({ c with nextNum := c.nextNum + 1 } :
          State).modDie t.hereDie fun d => { d with waggleQ := d.waggleQ ++ [cmd] }).joinAll)) ∧
    (∀ u pa pte, issues (.signal q sa sb) s w = true → t.granted w (pair 0) 4 4 { rd := false, wr := true } = some (u, pa, pte) →
      let c := u.commit i.slot
      let op : RemoteOp :=
        { num := c.nextNum, via := if inRemote pa then c.route c.remoteOps pa else none, resent := false, sent := false, slot := i.slot, task := w.task, core := coreOf i.slot, launches := w.launches, pa := pa,
          data := leBytes 4 (i.src.scalar sb.toNat).toNat, local_ := !inRemote pa, signal := some i.held.scopeOr,
          persist := if ptePersist pte && !inRemote pa then some w.pfences else none, after := c.remoteAfter w,
          performed := false }
      let d : State := { c with remoteOps := c.remoteOps ++ [op], nextNum := c.nextNum + 1 }
      gives (.signal q sa sb) (if 1 ≤ i.held.scopeOr then d.release i.slot i.held.scopeOr else d))

/-- Claims and releases of operand slots and accumulator tiles (spec/07 R173 to R176, R179): a claim of free ones takes them all for the
team, its fill pending, and one that is not free clears `sc`; a release gives back what the team holds.
The operations that it names rest on readings of the model, log entry 14. -/
def Obligations.ClaimsAndReleases : Prop :=
  ∀ (q : Sched) (sa : SReg) (s : State) (w : Wave),
    let i := s.issue
    let t := s.countWord w
    let k := t.cluster t.hereClus
    let x := (i.src.scalar sa.toNat).toNat
    let tiles := (List.range 16).filter fun n => x.testBit n
    let slots := (List.range 64).filter fun n => (i.src.pair sa.toNat).getLsbD n
    let took (f : Cluster → Cluster) (c : State) := (c.modCluster c.hereClus f).beginFill w
    (issues (.aclaim q sa) s w = true → x ≠ 0 → x < 65536 → (∀ n ∈ tiles, k.holdsTile w.team n = false) →
      completes (.aclaim q sa) q s w fun c =>
        if tiles.all k.tileFree then
          took (fun k => { k with tiles := tiles.foldl (fun m n => Assoc.put m n (Tile.claimed w.team)) k.tiles }) c
        else c.putNow (.cond false)) ∧
    (issues (.arel q sa) s w = true → x ≠ 0 → x < 65536 → (∀ n ∈ tiles, k.holdsTile w.team n = true) →
      completes (.arel q sa) q s w fun c => c.modCluster c.hereClus fun k => k.releaseClaims w.team tiles.contains (fun _ => false)) ∧
    (∀ core off, issues (.oclaim q sa) s w = true → t.objectAt w x 16 = some (core, off) →
      let r := claimOf w.team (t.spadBytes core off 16)
      r.valid = true → (∀ n ∈ r.slots, k.holdsSlot w.team n = false) →
      completes (.oclaim q sa) q s w fun c =>
        if r.slots.all k.slotFree then took (fun k => { k with slots := r.slots.foldl (fun m n => Assoc.put m n r.slot) k.slots }) c
        else c.putNow (.cond false)) ∧
    (issues (.orel q sa) s w = true → slots ≠ [] → (∀ n ∈ slots, k.holdsSlot w.team n = true) →
      completes (.orel q sa) q s w fun c => c.modCluster c.hereClus fun k => k.releaseClaims w.team (fun _ => false) slots.contains)

/-- The words that reserve the matrix engine (spec/07 R180 to R183, R186 to R189): an `mma`, `mzero` or `mstore` that passes its checks
joins the table of 32 entries as the team's request, and waits at issue while all are taken; `mwait` waits for the requests on its tile
that the team posted before it began to wait, and then goes on, or raises the tile's fault and clears it. The order after `pfence` is log
entry 40.
The operations that it names rest on readings of the model, log entries 14, 35, 37 and 123. -/
def Obligations.MatrixWordsPost : Prop :=
  ∀ (q : Sched) (sa : SReg) (tile : BitVec 4) (s : State) (w : Wave),
    let i := s.issue
    let t := s.countWord w
    let clus := t.hereClus
    let k := t.cluster clus
    let x := (i.src.scalar sa.toNat).toNat
    let posts (j : Instr) (kind : ReqKind) : Prop :=
      (32 ≤ k.resv.length → performs j q s w fun c => .wait c) ∧
      (k.resv.length < 32 →
        let r : Req :=
          { num := t.nextNum, team := w.team, ctx := w.ctx, slot := i.slot, task := w.task, launches := w.launches,
            prio := ((t.teams.get? w.team).map (·.prio)).getD w.prio, kind := kind, after := t.teamAfter w 3, fmode := w.fmode, seed := w.seed,
            eligible := none, granted := false }
        let z := ((({ t with nextNum := t.nextNum + 1 } :
            State).ordered i.slot).modCluster clus fun k => { k with resv := k.resv ++ [r] }).stampReqs clus
        z.stall = [] → exec j s = .next (s.after q (.done z)))
    (∀ core off, issues (.mma q sa) s w = true → t.objectAt w x 32 = some (core, off) →
      let b := t.spadBytes core off 32
      let f := fieldOf b
      let kext (n : Nat) : Nat := ((k.slots.get? n).map (·.kext)).getD 0
      f 0 1 < 16 → f 1 1 < 64 → f 2 1 < 64 → f 3 1 < 2 → f 6 26 = 0 → k.holdsTile w.team (f 0 1) = true → k.holdsSlot w.team (f 1 1) = true →
      k.holdsSlot w.team (f 2 1) = true → 1 ≤ f 4 2 → f 4 2 ≤ kext (f 1 1) → f 4 2 ≤ kext (f 2 1) →
      posts (.mma q sa) (.pass (f 0 1) (f 1 1) (f 2 1) (decide (f 3 1 % 2 = 1)) (f 4 2))) ∧
    (issues (.mzero q tile) s w = true → k.holdsTile w.team tile.toNat = true → posts (.mzero q tile) (.mzero tile.toNat)) ∧
    (issues (.mwait q tile) s w = true → k.holdsTile w.team tile.toNat = true →
      let from_ := t.mwaitFrom w
      let busy := k.resv.any fun r => decide (r.team = w.team ∧ r.num < from_) && r.tiles.contains tile.toNat
      (busy = true → performs (.mwait q tile) q s w fun c => .wait (c.wave fun x => { x with mwait := some (i.first, from_) })) ∧
      (busy = false → performs (.mwait q tile) q s w fun c =>
        let u := c.wave fun x => { x with mwait := none }
        let f := ((k.tiles.get? tile.toNat).map (·.fault)).getD 0
        if f = 0 then .done u
        else
          let v := u.modCluster clus fun k => { k with tiles := k.tiles.modify tile.toNat fun x => { x with fault := 0 } }
          .trap v { lane := i.leader, cause := f, info := 0, write := false, space := 0 } [])) ∧
    (∀ core off team bar, issues (.mstore q sa) s w = true → t.objectAt w x 32 = some (core, off) → t.teams.get? w.team = some team →
      let b := t.spadBytes core off 32
      let f := fieldOf b
      let scale := decide (f 2 1 / 4 % 2 = 1)
      let spad := decide (f 2 1 % 2 = 1)
      f 8 8 % 16 = 0 → (scale = true → f 16 8 % 4 = 0) → (f 24 4 = 2 ^ 32 - 1 ∨ f 24 4 % 16 = 0) →
      t.barOf i.slot w (BitVec.ofNat 32 (f 24 4)) = .ok bar →
      (spad = true → (t.spadPlace team (coreOf i.slot) (f 8 8 % 2 ^ 32)).isSome = true) →
      (spad = true → scale = true → (t.spadPlace team (coreOf i.slot) (f 16 8)).isSome = true) → storeRecOk k w.team b = true →
      posts (.mstore q sa) (.mstore (storeRecOf t w team bar b)))

/-- `publ` commits; `spawn` releases at device scope and gives each lane of the bundle a child, task and lane number in va and va + 1, and
traps where the entry of a lane is refused; and the futures are bound, set and waited for at their home (spec/09 R221, R229 to R233):
`fset` of one that is set already clears `sc`, and `fwait` takes the value, the fault, the owner that it cannot wait for, or parks, where
the future is bound to an owner that the wave can adopt after the adoption (R235). The fields are those that the task itself sees (log
entries 64, 67).
The operations that it names rest on readings of the model, log entries 4, 14, 40, 68, 69 and 70. -/
def Obligations.TaskWords : Prop :=
  ∀ (q : Sched) (va : VReg) (sd sa sb : SReg) (s : State) (w : Wave),
    let i := s.issue
    let t := s.countWord w
    let gives (j : Instr) (d : Did) : Prop := d.state.stall = [] → exec j s = .next (s.after q d)
    let entries := (lanesOf i.lanes).map fun l => (l, (pairOf (i.src.lane va.toNat l) (i.src.lane (va.toNat + 1) l)).toNat)
    (issues (.publ q) s w = true → t.globalStores w = false → gives (.publ q) (.done (t.commit i.slot))) ∧
    (∀ u c hs, issues (.spawn q va) s w = true → t.spawnLanes i.slot w entries = (u, [], hs) → u.released w 4 = some c →
      gives (.spawn q va) (let b := c.broodLanes c.hereClus w i va.toNat hs
        .done (b.1.putLanes va.toNat 2 b.2))) ∧
    (∀ u x rs hs, issues (.spawn q va) s w = true → t.spawnLanes i.slot w entries = (u, x :: rs, hs) → gives (.spawn q va) (.trap u x rs)) ∧
    ∀ u pa b, t.objectBytes w (i.src.pair sa.toNat).toNat 32 false = some (u, pa, b) → futureBad b = false →
      let f := readFuture b
      (issues (.fbind q sa) s w = true → u.waitersOn pa = 0 →
        gives (.fbind q sa) (.done ((((u.commit i.slot).ordered i.slot).setWhead w pa f false).writeObject w pa
          (leBytes 4 4 ++ leBytes 4 (i.src.scalar (sa.toNat + 2)).toNat ++ leBytes 8 0)))) ∧
      (∀ c, issues (.fset q sa sb) s w = true → u.released w 4 = some c →
        gives (.fset q sa sb) (.done
          (if f.state % 4 = 0 then
            (((c.ordered c.issue.slot).setWhead w pa f false).writeObject w pa
              (leBytes 4 (f.state + 1) ++ leBytes 4 f.owner ++ leBytes 8 (i.src.pair sb.toNat).toNat)).putNow (.cond true)
           else c.putNow (.cond false)))) ∧
      (issues (.fwait q sd sa) s w = true → w.ownerFault = none →
        let free := u.setWhead w pa f (decide (u.waitersOn pa ≠ 0))
        let mine := f.owner = w.task ∨ (u.chainOf i.slot).contains f.owner = true
        let park : Park := .object pa { instr := .fwait q sd sa, held := i.held, first := i.first, src := i.src }
        let parks := gives (.fwait q sd sa) (.park (u.setWhead w pa f true) park)
        (f.state % 4 = 1 → gives (.fwait q sd sa) (.done (((free.putPair sd.toNat f.value).putNow (.cond true)).acquire i.slot 4))) ∧
        (f.state % 4 = 2 → gives (.fwait q sd sa) (.done (free.putStatus sd.toNat 3 f.owner))) ∧
        (f.state % 4 = 0 → f.state / 4 % 2 = 0 → parks) ∧
        (f.state % 4 = 0 → f.state / 4 % 2 = 1 →
          (mine → gives (.fwait q sd sa) (.done (free.putStatus sd.toNat 5 f.owner))) ∧
          (¬ mine → u.live f.owner = false → gives (.fwait q sd sa) (.done (free.putStatus sd.toNat 4 f.owner))) ∧
          (¬ mine → u.live f.owner = true → u.adoptable? i.slot w f.owner = none → parks) ∧
          (∀ o, ¬ mine → u.live f.owner = true → u.adoptable? i.slot w f.owner = some o →
            gives (.fwait q sd sa) (.left (free.adopt w o park)))))

/-- The ring words at a ring that passes the checks (spec/09 R240 to R243): `qres` reserves a free slot, lends the next one where none is
free, waits at a full ring, and reports a closed or faulted one; `qpub` publishes a slot after a release at cluster scope; `qtake` takes the
oldest published slot with an acquire, waits at an empty ring, and reports a drained closed ring (status 1) or a faulted one; `qdone` frees
a slot, and `qclose` closes the ring. What waits adopts the registered owner of the other side where it can (R235).
The operations that it names rest on readings of the model, log entries 14, 65, 68, 70 and 128. -/
def Obligations.RingWords : Prop :=
  ∀ (q : Sched) (sd sa sb : SReg) (s : State) (w : Wave) (x : RingAt),
    let i := s.issue
    let t := s.countWord w
    let r := x.ring
    let gives (j : Instr) (d : Did) : Prop := d.state.stall = [] → exec j s = .next (s.after q d)
    let named (y : RSlot) (state : Nat) : Prop :=
      x.slots.find? (fun y => decide (y.payload = (i.src.scalar sb.toNat).toNat)) = some y ∧ t.slotState y = state
    let waits (j : Instr) (bit task : Nat) : Prop :=
      let park : Park := .ring x.core x.off (x.slots.map fun y => (y.core, y.off)) { instr := j, held := i.held, first := i.first, src := i.src }
      let owner := if r.stat / 2 ^ bit % 2 = 1 then t.adoptable? i.slot w task else none
      (owner = none → gives j (.park t park)) ∧ ∀ o, owner = some o → gives j (.left (t.adopt w o park))
    t.ringReady w (i.src.scalar sa.toNat).toNat x →
    (issues (.qres q sd sa) s w = true → w.ownerFault = none →
      (r.faulted = true → gives (.qres q sd sa) (.done (t.putStatus sd.toNat 3 r.consumer))) ∧
      (r.faulted = false → r.closed = true → gives (.qres q sd sa) (.done (t.putStatus sd.toNat 2 0))) ∧
      (r.faulted = false → r.closed = false →
        let free := x.slots.find? fun y => decide (t.slotState y = 0)
        let takes (y : RSlot) (lent : Nat) : Prop := gives (.qres q sd sa) (.done
          ((((t.setSlot y r.resseq 1).writeRing x.core x.off { r with lent := lent, resseq := (r.resseq + 1) % 65536, occ := r.occ + 1 }).giveSlot
            sd y).ringChanged x))
        (∀ y, free = some y → takes y r.lent) ∧
        (∀ y, free = none → x.next = some y → takes y (r.lent + 1)) ∧
        (free = none → x.next = none → waits (.qres q sd sa) 2 r.consumer))) ∧
    (∀ y c, issues (.qpub q sa sb) s w = true → named y 1 → t.released w 2 = some c →
      gives (.qpub q sa sb) (.done ((c.setSlot y (t.slotSeq y) 2).ringChanged x))) ∧
    (issues (.qtake q sd sa) s w = true → w.ownerFault = none →
      let oldest := x.slots.find? fun y => decide (t.slotState y = 2 ∧ t.slotSeq y = r.takeseq)
      (∀ y, oldest = some y →
        let u := (t.setSlot y r.takeseq 3).writeRing x.core x.off { r with takeseq := (r.takeseq + 1) % 65536 }
        gives (.qtake q sd sa) (.done (((u.giveSlot sd y).acquire u.issue.slot 2).ringChanged x))) ∧
      (oldest = none →
        (r.faulted = true → gives (.qtake q sd sa) (.done (t.putStatus sd.toNat 3 r.producer))) ∧
        (r.faulted = false → r.closed = true → r.takeseq = r.resseq → gives (.qtake q sd sa) (.done (t.putStatus sd.toNat 1 0))) ∧
        (r.faulted = false → ¬ (r.closed = true ∧ r.takeseq = r.resseq) → waits (.qtake q sd sa) 1 r.producer))) ∧
    (∀ y, issues (.qdone q sa sb) s w = true → named y 3 →
      let u := t.setSlot y (t.slotSeq y) 0
      gives (.qdone q sa sb) (.done ((u.writeRing x.core x.off
        { r with occ := (r.occ + 65535) % 65536, lent := reclaimed u x.slots r.nslot r.lent }).ringChanged x))) ∧
    (∀ c, issues (.qclose q sa) s w = true → t.released w 2 = some c →
      gives (.qclose q sa) (.done ((c.writeRing x.core x.off { r with stat := r.stat ||| 1 }).ringChanged x)))

/-- The capsule words at a capsule in order (spec/09 R245 to R248): `center` enters a free capsule at step 0 with its checkpoint written,
and one whose holder's lease has passed, or whose holder is not resident, at its step with the checkpoint read; it parks while a resident
holder has its lease, and reports DONE (status 6) and FAULTED (status 3). `cstep` and `cexit` publish the step of the holder, and of any
other task only drop its buffer with `sc` = 0; a `cstep` at step 15 traps CAPSULE_LIMIT, and so does a word that may not stand in a capsule
body, a second `center` among them, and the 33rd word of a step. `cres` reads the result of one that is done, reports a faulted one, and
parks until then. The fields are those that the task itself sees (log entries 64, 67). The operations that it names rest on readings of the
model, log entries 14, 28, 66, 68 and 70. -/
def Obligations.CapsuleWords : Prop :=
  ∀ (q : Sched) (sd sa sb : SReg) (s : State) (w : Wave) (u : State) (pa : Nat) (b : List Byte),
    let i := s.issue
    let t := s.countWord w
    let c := readCapsule b
    let va := (i.src.pair sa.toNat).toNat
    let k := (i.src.scalar sb.toNat).toNat
    let gives (j : Instr) (d : Did) : Prop := d.state.stall = [] → exec j s = .next (s.after q d)
    let ckpt := (List.range 16).flatMap fun n => leBytes 4 (i.src.scalar (48 + n)).toNat
    let traps (j : Instr) (cause : Nat) : Prop := gives j (.trap u { lane := i.leader, cause := cause, info := 0, write := false, space := 0 } [])
    let parks (j : Instr) (v : State) : Prop := gives j (.park (v.setWaiters w pa c (v.waitersOn pa + 1))
      (.object pa { instr := j, held := i.held, first := i.first, src := i.src }))
    let limit (j : Instr) : List Raise := bundleRaise (i.raising j) cCapsule 0
    (∀ j ∈ [Instr.nop q, .publ q, .ppt q, .yield q, .pfence q], bodyRefuses j s w = true →
      performs j q s w fun c => Did.orTrap c (limit j) (.left c)) ∧
    (t.objectBytes w va 256 true = some (u, pa, b) → capsuleBad b = false →
    (bodyRefuses (.center q sd sa) s w = true →
      performs (.center q sd sa) q s w fun c => Did.orTrap c (limit (.center q sd sa) ++ limit (.center q sd sa)) (.left c)) ∧
    (issues (.cres q sd sa) s w = true →
      let free := u.setWaiters w pa c (u.waitersOn pa)
      (c.done = true → gives (.cres q sd sa) (.done (((free.putPair sd.toNat c.result).putNow (.cond true)).acquire i.slot 4))) ∧
      (c.done = false → c.faulted = true → gives (.cres q sd sa) (.done (free.putStatus sd.toNat 3 c.holder))) ∧
      (c.done = false → c.faulted = false → parks (.cres q sd sa) u)) ∧
    (issues (.cstep q sa sb) s w = true →
      (c.mine w k = false → gives (.cstep q sa sb) (.done ((u.wave fun x => { x with stepBuf := [], ckey := 0 }).putNow (.cond false)))) ∧
      (c.mine w k = true → k = 15 → traps (.cstep q sa sb) cCapsule) ∧
      ∀ r, c.mine w k = true → k ≠ 15 → u.released w 4 = some r →
        gives (.cstep q sa sb) (.done ((((((r.publishStep w).writeObject w (pa + 4) (leBytes 2 (k + 1))).writeObject w (pa + 8)
          (leBytes 8 (u.clock.toNat + c.leaseCycles))).writeObject w (pa + 0x40) ckpt).wave fun y =>
            { y with stepBuf := [], stepWords := 0 }).putNow (.cond true)))) ∧
    (issues (.cexit q sa sb) s w = true →
      (c.mine w c.step = false → gives (.cexit q sa sb) (.done ((u.wave fun x => { x with stepBuf := [], ckey := 0 }).putNow (.cond false)))) ∧
      ∀ r, c.mine w c.step = true → u.released w 4 = some r →
        gives (.cexit q sa sb) (.done (((((r.publishStep w).writeObject w (pa + 0x20) (leBytes 8 (i.src.pair sb.toNat).toNat)).writeObject w (pa + 6)
          (leBytes 2 (c.flags + 1))).wave fun y => { y with stepBuf := [], stepWords := 0, ckey := 0 }).putNow (.cond true)))) ∧
    (issues (.center q sd sa) s w = true →
      let v := u.commit i.slot
      let free := v.setWaiters w pa c (v.waitersOn pa)
      let leased := c.held = true ∧ u.resident c.holder = true ∧ u.clock.toNat < c.deadline
      let deadline := leBytes 8 (v.clock.toNat + c.leaseCycles)
      let enters (x : State) (step : Nat) : Prop :=
        let y := ((((x.putNow (.sca sd.toNat (BitVec.ofNat 32 step))).putNow (.cond true)).wave fun z =>
          { z with ckey := i.src.pair sa.toNat, stepWords := 0, stepBuf := [] }).acquire i.slot 4).wave fun z => z.pushAll (i.pc + 4) (lanesOf i.lanes)
        y.stall = [] → exec (.center q sd sa) s = .next (s.after q (.goto y [(BitVec.ofNat 64 c.code, i.lanes)] none))
      (w.ckey = 0 → v.stall = [] →
        (c.done = true → gives (.center q sd sa) (.done (free.putStatus sd.toNat 6 0))) ∧
        (c.done = false → c.faulted = true → gives (.center q sd sa) (.done (free.putStatus sd.toNat 3 c.holder))) ∧
        (c.done = false → c.faulted = false → leased → parks (.center q sd sa) v) ∧
        (c.done = false → c.faulted = false → (∀ l ∈ lanesOf i.lanes, (w.rstack.getD l []).length < 16) →
          (c.held = false → enters (((free.writeObject w pa (leBytes 4 w.task ++ leBytes 2 0 ++ leBytes 2 (c.flags + 1))).writeObject w
            (pa + 8) deadline).writeObject w (pa + 0x40) ckpt) 0) ∧
          (c.held = true → ¬ leased →
            enters (foldState (fun s n => s.putNow (.sca (48 + n) (c.ckpt.getD n 0)))
              ((free.writeObject w pa (leBytes 4 w.task)).writeObject w (pa + 8) deadline) (List.range 16)) c.step)))))


/-! ### Events -/

/-- The timeouts and the counts that wait (spec/04 R108, spec/08 R200, R204, spec/09 R222, R234, R246, spec/12 R301, R305, R310): each does
its effect where its time has come, and the brood unit, a lease, aging and a spill change nothing where nothing is due.
When an event happens is the agenda's choice (log entry 2).
The operations that it names rest on readings of the model, log entries 7, 88, 89 and 108. -/
def Obligations.TimeoutEvents : Prop :=
  ∀ (s : State) (clus slot pa n item ctx launch : Nat),
    ((s.cluster clus).brood.find? (fun b => decide (b.openedAt + clocksOf 2 ≤ s.clock.toNat ∧ (s.context b.ctx).state = 1)) = none →
      exec (.broodTimeout clus) s = .next s) ∧
    (∀ b, (s.cluster clus).brood.find? (fun b => decide (b.openedAt + clocksOf 2 ≤ s.clock.toNat ∧ (s.context b.ctx).state = 1)) = some b →
      exec (.broodTimeout clus) s = .next
        ((s.modCluster clus fun c => { c with brood := c.brood.filter fun x => !decide (x.task = b.task) }).queueBrood b)) ∧
    (s.clock.toNat < s.valueAt (pa + 8) 8 → exec (.capsuleLeaseExpiry pa) s = .next s) ∧
    (s.valueAt (pa + 8) 8 ≤ s.clock.toNat → exec (.capsuleLeaseExpiry pa) s = .next (s.retryWhere fun p => match p with
      | .object a { instr := .center _ _ _, .. } => decide (a = pa)
      | _ => false)) ∧
    (slot < 12288 → exec (.sleepTimeout slot) s = .next
      ((s.modWave slot fun w => (w.releaseWhere s.now (sleepOver s.clock.toNat)).merged).retryOwned (s.taskAt slot))) ∧
    (∀ l, s.items.get? item = none → s.launches.get? item = some l → (s.launchCand item l).isSome = true →
      (l.readyAt + clocksOf 1000 ≤ s.clock.toNat →
        exec (.agingExpiry item) s = .next (({ s with launches := s.launches.put item { l with aged := true } } : State).reschedule)) ∧
      (s.clock.toNat < l.readyAt + clocksOf 1000 → exec (.agingExpiry item) s = .next s)) ∧
    (∀ it, s.items.get? item = some it → it.since + clocksOf 1000 ≤ s.clock.toNat →
      exec (.agingExpiry item) s = .next (({ s with items := s.items.put item { it with aged := true } } : State).reschedule)) ∧
    (∀ it, s.items.get? item = some it → s.clock.toNat < it.since + clocksOf 1000 → exec (.agingExpiry item) s = .next s) ∧
    (∀ k, (s.cluster clus).counts[n]? = some k → s.lineAbsent k.core (k.off / 128) = false → s.linePoisoned k.core (k.off / 128) = false →
      s.isTyped k.core k.off = true → exec (.barrierByteCount clus n) s = .next
        ((s.modCluster clus fun c => { c with counts := dropAt n c.counts }).changeBar k.core k.off
          (((s.readBar k.core k.off).receive
            (if k.toExpected then (s.readBar k.core k.off).expb - (s.readBar k.core k.off).rcvb else k.bytes)).fail k.cause))) ∧
    (∀ k l, s.launchNamed ctx launch = some (k, l) → s.memberMissing k l = false → exec (.wbarSpill ctx launch) s = .next s) ∧
    (∀ k l e, s.launchNamed ctx launch = some (k, l) → s.memberMissing k l = true → s.stuck k l = true → s.spillable k = [e] →
      s.phaseFits ctx (phaseBytes e.2 ((s.teamWaves e.2).map (·.2))) = true →
      exec (.wbarSpill ctx launch) s = .next ((s.spill e.1 e.2).reschedule))

/-- The copy engine and the matrix engine (spec/07 R175, R177, R183 to R190, spec/08 R198 to R201): a ready command at the head of its team's
queue starts, each portion of a command of any kind lands where it belongs, or faults its command, a claim's last fill sets `sc`, the arbiter
grants the best eligible request of its port, and a granted request performs and leaves the table.
When an event happens is the agenda's choice (log entry 2).
The operations that it names rest on readings of the model, log entries 19, 30, 31, 34, 36, 38, 39, 63, 107, 113, 114, 123 and 124. -/
def Obligations.CopyAndMatrixEvents : Prop :=
  ∀ (s : State) (clus team slot portion : Nat) (c : CopyCmd) (r : Req),
    let happens (e : Instr) (z : State) : Prop := z.stall = [] → exec e s = .next z
    (s.headCopy clus team = some c → s.copyReady clus c = true → turnOf (s.cluster clus).lastTeam team (s.readyTeams clus) = true →
      (isOload c.kind = false → happens (.copyCommandStart clus team) (s.startCopy clus team c layoutOf)) ∧
      (∀ n x, c.kind = .oload n → (s.cluster clus).slots.get? n = some x → happens (.oloadStart clus team) (s.startOload clus team c n x))) ∧
    (∀ w d, s.headCopy clus team = some c → c.started = some w →
      (c.dests clus).find? (fun d => decide (d.num = portion / 65536)) = some d →
      let p := portion % 65536
      let lands (z : State) : Prop := happens (.copyPortionWrite clus team portion) (z.copyWork clus c)
      let image := s.readImage clus c none ((c.offsets w d p).map fun o => (o, w.piece o))
      let plain := match c.kind with
        | .toSpad _ _ _ | .toRegs _ _ => true
        | .multi _ _ => (c.fetched.get? p).isNone
        | _ => false
      (c.done.contains (portionKey d p) = true ∨ c.failed.contains d.num = true ∨ c.portions w d ≤ p →
        exec (.copyPortionWrite clus team portion) s = .next s) ∧
      (c.done.contains (portionKey d p) = false → c.failed.contains d.num = false → p < c.portions w d →
        (∀ e, plain = true → image.2 = .error e → lands (image.1.failCopy clus c (some w) e)) ∧
        (∀ core off limit bytes, c.kind = .toSpad core off limit → image.2 = .ok bytes → lands (image.1.landLine clus c w d p bytes)) ∧
        (∀ wave first bytes, c.kind = .toRegs wave first → image.2 = .ok bytes → lands (image.1.landRegisters clus c w d p wave first bytes)) ∧
        (∀ core off limit, c.kind = .toTensor core off limit → lands (s.landTensor clus c w d p)) ∧
        (∀ n, c.kind = .oload n → lands (s.landRow clus c w d n p)) ∧
        (∀ off mask bytes, c.kind = .multi off mask → c.fetched.get? p = some bytes → lands (s.landLine clus c w d p bytes)) ∧
        (∀ off mask bytes, c.kind = .multi off mask → c.fetched.get? p = none → image.2 = .ok bytes →
          lands (image.1.landLine clus { c with fetched := c.fetched.put p bytes } w d p bytes)))) ∧
    (∀ f, let k := clusOf (coreOf slot)
      let rest := (s.cluster k).fills.erase f
      let t := s.modCluster k fun k => { k with fills := rest }
      (s.cluster k).fills.find? (fun f => decide (f.slot = slot)) = some f →
      (f ∈ rest → exec (.claimZeroFillDone slot) s = .next t) ∧
      (f ∉ rest → exec (.claimZeroFillDone slot) s = .next
        (t.modTask f.task fun w => if w.varPend.contains .sc then w.arrive (.cond true) else w))) ∧
    (∀ port, let t := s.stampReqs clus
      let mine := (t.cluster clus).resv.filter fun r => r.tilePort == port
      mine.any (·.granted) = false → bestReq t.now (mine.filter fun r => r.eligible.isSome) = some r →
      exec (.matrixGrant clus port) s = .next (t.modCluster clus fun k =>
        { k with resv := k.resv.map fun x => if x.num = r.num then { x with granted := true } else x })) ∧
    (∀ acc a b z n, s.grantedReq clus (fun r => !r.tilePort) = some r → r.kind = .pass acc a b z n →
      exec (.passComplete clus) s = .next ((s.performPass clus r acc a b z n).dropReq clus r.num)) ∧
    (∀ n, s.grantedReq clus (fun r => r.tilePort) = some r → r.kind = .mzero n → exec (.mzeroComplete clus) s = .next
      ((s.modCluster clus fun k => { k with tiles := k.tiles.modify n fun t => { t with data := [] } }).dropReq clus r.num)) ∧
    (∀ x, s.grantedReq clus (fun r => r.tilePort) = some r → r.kind = .mstore x →
      let w := x.writes r.seed (((s.cluster clus).tiles.get? x.tile).map (·.data) |>.getD [])
      (∀ t, s.storeAll clus r x w.1 = .ok t →
        happens (.mstoreComplete clus) (((t.countStore clus r x 0).modTask r.task fun x => x.orFlags w.2).dropReq clus r.num)) ∧
      (∀ t e, s.storeAll clus r x w.1 = .fault t e →
        happens (.mstoreComplete clus)
          ((((t.faultTile clus x.tile e).countStore clus r x e).modTask r.task fun x => x.orFlags w.2).dropReq clus r.num)))

/-- The tier engine (spec/08 R212, R213, R216, R217, spec/13 R330 to R333): each command at the head of its team's queue goes on by one
step, a move that ends brings its tile home, tags are set and read, in HBM and in SCM, the policy moves its next victim as its level, its
disabling and the victim's tags ask, or leaves it, and records reach their rings. That a LEN of 0 is SLOT_FAULT is the model's reading (log
entry 42). When an event happens is the agenda's choice (log entry 2). The operations that it names rest on readings of the model, log
entries 43, 44, 48, 100, 107 and 118. -/
def Obligations.TierEvents : Prop :=
  ∀ (s : State) (die team tile n : Nat) (c : TierCmd),
    let happens (e : Instr) (z : State) : Prop := z.stall = [] → exec e s = .next z
    (∀ src dst len, s.headTier die team = some c → c.op = .copy src dst len →
      (len = 0 → happens (.tierCopy die team) (s.finishTier die { c with cause := cSlot })) ∧
      (len ≠ 0 → (src % 64 ≠ 0 ∨ dst % 64 ≠ 0 ∨ len % 64 ≠ 0) → happens (.tierCopy die team) (s.finishTier die { c with cause := cMisaligned })) ∧
      (len ≠ 0 → src % 64 = 0 → dst % 64 = 0 → len % 64 = 0 → happens (.tierCopy die team) (s.copyBlock die c src dst len))) ∧
    (∀ src len, s.headTier die team = some c → c.op = .fetch src len → happens (.tierFetch die team) (s.moveStep die c true src len)) ∧
    (∀ src len, s.headTier die team = some c → c.op = .evict src len → happens (.tierEvict die team) (s.moveStep die c false src len)) ∧
    (∀ m t, (s.die die).moves = [m] → m.tile = tile → s.performMove die m = some t → exec (.tileMoveComplete die tile) s = .next
      ((t.modDie die fun d => { d with moves := d.moves.filter fun x => !decide (x.tile = tile) }).settlePool die)) ∧
    (∀ va tiles reuse cost, s.headTier die team = some c → c.op = .tagc va tiles reuse cost →
      exec (.tagcPerform die team) s = .next (
        let r := s.namedTiles c.ctx die true ((List.range tiles).map fun k => va + 65536 * k)
        (foldState (fun s t => s.setTag t tiles reuse cost) r.1 r.2.1).dropTier die c.num)) ∧
    (∀ x, (s.die die).tagqs[n]? = some x → (inHbm x.pa = true ∨ inScm x.pa = true) → exec (.tagqPerform die n) s = .next
      ((s.modDie die fun d => { d with tagqs := dropAt n d.tagqs }).modTask x.task fun w =>
        if w.varPend.contains (.s x.reg) then w.arrive (.sca x.reg (s.tagWord x.pa)) else w)) ∧
    (∀ pa, (inHbm pa = true → s.tagWord pa = 15) ∧ (inScm pa = true →
      let e := s.dirOf (pa / 65536)
      s.tagWord pa = BitVec.ofNat 32 (e.cost % 16 + e.reuse % 256 * 16 + e.state % 4 * 4096))) ∧
    (firstVictim (s.victims die) = none → exec (.policyVictimChoose die) s = .next s) ∧
    (∀ v, firstVictim (s.victims die) = some v →
      let d := s.die die
      let level := d.level ((s.dirHere die).filter fun e => decide (e.2.state = 0)).length
      let chooses (t : State) : Prop := exec (.policyVictimChoose die) s = .next t
      (d.polEnable = false → chooses s) ∧
      (d.polEnable = true → d.polDisabling = true → chooses (s.startMove v.1 .offload)) ∧
      (d.polEnable = true → d.polDisabling = false → d.poolFrames ≠ 0 →
        ((level = 0 ∨ level = 1 ∧ v.2.reuse < 128) → chooses s) ∧
        ((level = 2 ∨ level = 1 ∧ 128 ≤ v.2.reuse) → chooses (s.startMove v.1 .offload)) ∧
        (level = 3 →
          (v.2.cost ≤ d.discMax ∧ v.2.cost ≠ 15 ∧ s.guarded v.1 = false → chooses (s.startMove v.1 .discard)) ∧
          (d.discMax < v.2.cost ∨ v.2.cost = 15 ∨ s.guarded v.1 = true → chooses (s.startMove v.1 .offload))))) ∧
    (∀ x, (s.die die).completions[n]? = some x → happens (.completionRecordWrite die n) (s.writeRecord die n x))

/-- Collectives (spec/14 R339 to R345): each operation computes the round of its own kind and no other, in the order of the ranks, and fails
it with PEER_LOST or MISMATCH where a contribution will never come or does not fit; a complete round is taken by its members, a round
that is late, here or at a member of another package, times out, and a write of the group table resets its group. How contributions of
other packages arrive is the model's choice (log entries 53, 56), as are an access that waits (log entry 52) and the rewrite of an entry
(log entry 51).
When an event happens is the agenda's choice (log entry 2).
The operations that it names rest on readings of the model, log entries 12, 54 and 57. -/
def Obligations.CollectiveEvents : Prop :=
  ∀ (s : State) (collid round : Nat) (remote : List (Nat × List Byte)),
    let t := s.joinAll
    let find (u : State) := u.rounds.find? fun r => decide (r.collid = collid ∧ r.round = round)
    let ops : List (Nat × Instr) := [(1, .collSum collid round remote), (2, .collMax collid round remote), (3, .collMin collid round remote),
      (4, .collDraw collid round remote), (5, .collBarrier collid round remote), (6, .collBroadcast collid round remote),
      (7, .collAllgather collid round remote)]
    (∀ e ∈ ops,
      (∀ r g, find t = some r → t.group? collid = some g → (r.spec.op ≠ e.1 ∨ r.result.isSome = true ∨ r.cause ≠ 0) → exec e.2 s = .next t) ∧
      (∀ r g u, find t = some r → t.group? collid = some g → r.spec.op = e.1 → r.result = none → r.cause = 0 →
        let settles (z : State) : Prop := z.stall = [] → exec e.2 s = .next z
        let ranks := g.ranks (isBound round)
        let gathers (x : Option (List Contribution × List (Nat × Nat))) :
            Prop := (t.readGroup collid).1.gather r (g.root (isBound round)) remote ranks = (u, x)
        (∀ bs : List (List Byte), gathers (some (bs.map .bytes, [])) →
          let y := r.compute g bs
          settles (u.setRound { r with result := some y.1, flags := y.2 })) ∧
        (∀ cs faults, gathers (some (cs, faults)) →
          (Contribution.lost ∈ cs → settles ((u.setRound { r with cause := codePeerLost }).peerFailure r.homeDie)) ∧
          (Contribution.lost ∉ cs → Contribution.mismatch ∈ cs → settles (u.setRound { r with cause := codeMismatch })) ∧
          (Contribution.lost ∉ cs → Contribution.mismatch ∉ cs → Contribution.faulted ∈ cs → settles (u.setRound { r with
            cause := codeMemberFault
            members := r.members.map fun m => match faults.find? fun f => decide (f.1 = m.rank) with
              | some f => { m with cause := f.2 }
              | none => m })) ∧
          (Contribution.lost ∉ cs → Contribution.mismatch ∉ cs → Contribution.faulted ∉ cs → Contribution.missing ∈ cs → exec e.2 s = .next t)))) ∧
    (∀ r, find t = some r → r.result = none → r.cause = 0 → exec (.collRoundComplete collid round) s = .next t) ∧
    (∀ r u, find t = some r → (r.result.isSome = true ∨ r.cause ≠ 0) → t.barrierWaits r (t.group? collid) = false →
      (t.readGroup collid).1.completeMembers r r.members = .ok u →
      let gone := r.gone ++ r.members.map (·.rank)
      let all := (t.group? collid).all fun g => (t.localRanks g round).all gone.contains
      let z : State := if all then { u with rounds := u.rounds.filter fun x => !decide (x.collid = collid ∧ x.round = round) }
        else u.setRound { r with members := [], gone := gone }
      z.stall = [] → exec (.collRoundComplete collid round) s = .next z) ∧
    (∀ r g, find s = some r → s.group? collid = some g → r.result = none → r.cause = 0 →
      let here := g.timeout ≠ 0 ∧ r.openedAt + 850 * g.timeout ≤ s.clock.toNat
      let away := ∃ m ∈ g.ranks (isBound round), m.2.1 ≠ s.regs.pkgid
      (here ∨ away → exec (.collTimeout collid round) s = .next (s.setRound { r with cause := codeTimeout })) ∧
      (¬here → ¬away → exec (.collTimeout collid round) s = .next s)) ∧
    (∀ off (value : BitVec 64), off % 32 = 28 → exec (.groupTableWrite off 4 value) s = .next s) ∧
    (∀ off width (value : BitVec 64), (width = 4 ∨ width = 8) → off % width = 0 → off < 32768 → ¬ (width = 4 ∧ off % 32 = 28) →
      exec (.groupTableWrite off width value) s = .next
        (let u := s.resetGroup (off / 32)
         let kept := (leBytes width value.toNat).take (if off % 32 + width = 32 then width - 4 else width)
         { u with groupTable := Sparse.setList u.groupTable off kept }))

/-- The fabric and the host (spec/10 R262, spec/14 R346 to R349, R357, R358): remote operations are performed, acknowledged or lost, a peer's
access reaches the exported window only through an open entry, as a read, a write, an atomic or a compare and swap, and a host's mailbox
access reaches what its port may reach, each port's one after the other. That a peer's bytes are free and how its requests are ordered is
log entry 12, what a host or a peer sees of a refusal log entry 58.
When an event happens is the agenda's choice (log entry 2).
The operations that it names rest on readings of the model, log entries 57, 59, 117, 126 and 127. -/
def Obligations.FabricEvents : Prop :=
  ∀ (s : State) (n port off len pkg : Nat) (data : List Byte) (r : RemoteOp),
    let happens (e : Instr) (z : State) : Prop := z.stall = [] → exec e s = .next z
    (s.remoteOps.find? (fun r => decide (r.num = n)) = some r → s.remoteReady r = true → s.turnedAway r = false →
      happens (.remoteStorePerform n) ((if r.local_ then s.writeFlag r else s).setPerformed n)) ∧
    (∀ x ∈ s.remoteOps, x.num = n → x.performed = true → exec (.remoteAck n) s = .next (s.dropRemote n)) ∧
    (s.remoteOps.find? (fun r => decide (r.num = n)) = some r → (if s.turnedAway r then s.sendable r else s.remoteReady r) = true → r.local_ = false →
      exec (.remoteFailure n) s = .next ((s.dropRemote n).peerFailure (dieOf (clusOf r.core)))) ∧
    (∀ (a : PeerAccess) (n : Nat),
     let pa := s.regs.expbase + off
     let e : Instr := .inboundAccess pkg off n a
     let old := (s.readPoint pa n).2
     let read := (s.readPoint pa n).1.rangeRead pa n
     let replies (t : State) (bs : List Byte) : Prop := happens e { t with peerReplies := t.peerReplies ++ [.data pkg bs] }
     (peerHolds n a = false → exec e s = .next s) ∧
     (peerHolds n a = true → s.admits pkg = false ∨ s.regs.expsize < off + n →
         exec e s = .next { s with peerReplies := s.peerReplies ++ [.refused pkg] }) ∧
     (peerHolds n a = true → s.admits pkg = true → off + n ≤ s.regs.expsize → s.exists_ pa n = true →
       (∀ data, a = .write data → s.accessOk 19 pa n true = true → replies (s.storeAt pa data) []) ∧
       (s.accessOk 19 pa n false = true → s.marked pa n = false →
         (a = .read → replies read old) ∧
         (∀ op v, a = .atomic op v → s.accessOk 19 pa n true = true →
           replies (read.storeAt pa (leBytes n (AtomOp.new op n (leNat old) (leNat v)))) old) ∧
         (∀ v new, a = .cas v new → s.accessOk 19 pa n true = true →
           (old = v → replies (read.storeAt pa new) old) ∧ (old ≠ v → replies read old))))) ∧
    (port < 24 → (s.port port).up = true → exec (.flitReplay port) s = .next
      { s with ports := s.ports.put port { s.port port with replays := (s.port port).replays + 1 } }) ∧
    (port < 24 → exec (.portDown port) s =
        .next (({ s with ports := s.ports.put port { s.port port with up := false } } : State).reroute.checkStripe)) ∧
    (let pa := s.regs.mbwin + off
     (s.mailboxOk port off data.length true = false → exec (.mailboxWrite port off data) s = .next s.dropHost) ∧
     (s.mailboxOk port off data.length true = true → s.mailboxBusy port = false → inRemote pa = false → inOnchip pa = false →
       happens (.mailboxWrite port off data) (s.storeAt pa data)) ∧
     (s.mailboxOk port off data.length true = true → s.mailboxBusy port = true → exec (.mailboxWrite port off data) s = .next s) ∧
     (s.mailboxOk port off len false = false → exec (.mailboxRead port off len) s = .next
       { s with hostReplies := s.hostReplies ++ [.completerAbort port] }) ∧
     (s.mailboxOk port off len false = true → s.mailboxBusy port = false → inRemote pa = false → inOnchip pa = false →
       happens (.mailboxRead port off len)
         (let t := (s.readPoint pa len).1.rangeRead pa len
          { t with hostReplies := t.hostReplies ++ [.data port (s.readPoint pa len).2 (s.marked pa len)] }))) ∧
    (∀ (value : BitVec 64), off % 8 = 0 → 16 ≤ off → off < 32768 → exec (.peerTableWrite off 8 value) s = .next
      (s.setPeer (off / 8) (value &&& 0xFFFF0000003FFFFF)).checkStripe)

/-- Persistence and power (spec/13 R328, R335 to R338, spec/15 R370): a group that nothing holds back enters its queue whole, the queue's
head drains to the medium, a scrub counts or marks what it found, and a loss of power starts the drain that power-on reports. What a drained
group that differs from the coherent copy leaves dirty is log entry 91, what power that returns early and a package reset do is log entry 92,
and that the measure survives a reset is log entry 93.
When an event happens is the agenda's choice (log entry 2).
The operations that it names rest on readings of the model, log entry 118. -/
def Obligations.PersistenceEvents : Prop :=
  ∀ (s : State) (n die pa energy : Nat) (g : WbqGroup),
    (s.persists[n]? = some g → s.holdUp = false → s.fits g = true → s.signalBefore g = false → (∀ h ∈ s.persists.take n, s.holdsBack h g = false) →
      let z : State := { (s.enter g) with persists := dropAt n s.persists }
      z.stall = [] → exec (.persistGroupEnter n) s = .next z) ∧
    (∀ h rest, (s.die die).wbq = h :: rest → s.drainOk h = false → exec (.wbqDrainWrite die) s = .next s) ∧
    (∀ h rest, (s.die die).wbq = h :: rest → s.drainOk h = true → exec (.wbqDrainWrite die) s = .next
      (((s.writeHome h).modDie die fun d => { d with wbq := rest }).redirty h.bytes) ∧
      (s.writeHome h).scm = h.bytes.foldl (fun m b => Sparse.set m b.1 b.2) s.scm ∧ (s.writeHome h).mem = s.mem) ∧
    ((inHbm pa = true ∨ inScm pa = true) → s.accessOk 20 pa 1 false = true →
      exec (.scrub pa .clean) s = .next s ∧
      exec (.scrub pa .corrected) s = .next (s.modDie (homeDie pa) fun d => { d with ceCount := (d.ceCount + 1) % 2 ^ 64 }) ∧
      exec (.scrub pa .uncorrectable) s = .next (s.markStored pa)) ∧
    (s.powered = true → s.holdUp = false → exec .powerLoss s = .next
      { s with holdUp := true, drainRecord := some ((s.dies.map fun e => e.2.wbq.length).sum, false) }) ∧
    (s.holdUp = true → (∀ e ∈ s.dies, e.2.wbq = []) → exec .drainComplete s = .next
      { s with holdUp := false, powered := false, drainRecord := s.drainRecord.map fun r => (r.1, true) }) ∧
    (s.powered = false → exec .powerOn s = .next
      (({ s with dies := s.dies.map fun e => (e.1, { e.2 with wbq := [] }) } : State).bringUp (match s.drainRecord with
        | some (_, true) => 1
        | some (_, false) => 2
        | none => 3))) ∧
    (∃ t, exec (.holdupMeasure energy) s = .next t ∧ t.regs.holdup = energy ∧ t.regs.holdlow = decide (queueCapacity energy < 2 ^ 20) ∧
      t.mem = s.mem ∧ t.scm = s.scm ∧ t.waves = s.waves ∧ ∀ d < 4, (t.die d).wbqCap = queueCapacity energy) ∧
    exec (.devctlReset 1) s = .next (s.bringUp 0) ∧
    (∀ v : BitVec 64, v ≠ 1 → exec (.devctlReset v) s = .next s)

/-- The scheduler (spec/12 R295 to R314, spec/11 R280 to R286): a rung queue's next entry is accepted, items go to local queues and places
in the order of the rules, a launch with nothing left completes, and teams are saved, discarded and restored. A HEAD that cannot be written
and a doorbell of an empty queue are log entry 74, the context states in which launches are accepted log entry 75, the core of a placement and
the fit that distribution tests log entry 78, and an item over its energy budget log entry 80.
When an event happens is the agenda's choice (log entry 2).
The operations that it names rest on readings of the model, log entries 7, 35, 73, 79, 82, 83, 84, 85, 87, 90, 108, 122 and 129. -/
def Obligations.SchedulerEvents : Prop :=
  ∀ (s : State) (ctx queue clus core team launch part die x y : Nat) (affinity : List Nat),
    let happens (e : Instr) (z : State) : Prop := z.stall = [] → exec e s = .next z
    let waiting := s.undistributed
    let at_ (c : Cand) := findPlace c.hdr (s.mayUse c) (s.plannedRooms clus)
    let saved (c : Cand) := (s.savedOf? c.key).isSome
    let q := s.queue ctx queue
    (q.rung = false → exec (.launchAccept ctx queue) s = .next s) ∧
    (∀ t d u b, q.rung = true → 1 ≤ (s.context ctx).state → (s.context ctx).state ≤ 3 → queue < 64 →
      (s.context ctx).qenable.getLsbD queue = true → s.regs.featAccept ≠ 0 → s.queueDesc ctx queue = (t, some d) →
      (d.head = d.tail → happens (.launchAccept ctx queue) (t.setQueue ctx queue { q with rung := false })) ∧
      (d.head ≠ d.tail → (d.head + 2 ^ 32 - d.retired) % 2 ^ 32 < d.subCount →
        t.physRead ctx (d.subBase + 8 * (d.head % d.subCount)) 8 = (u, some b) →
        happens (.launchAccept ctx queue) ((u.acceptEntry ctx queue d (leNat b)).settleScan.reschedule))) ∧
    (∀ c, clus < 192 → (s.localQueue clus).length < 8 →
      firstCand (fun c => match at_ c with
          | some x => s.affinity affinity x.1 c
          | none => 0)
        (waiting.filter fun c => if saved c then s.savedFits clus c
          else withinBudget (waiting ++ s.localCands) c && (at_ c).isSome && s.together clus c) = some c →
      exec (.distribute clus affinity) s = .next (if saved c then s else s.sendTo clus c)) ∧
    (∀ c it p, firstCand (s.affinity affinity core) ((s.startable (clusOf core)).filter fun c => (findPlace c.hdr (s.mayPlace c core) (s.rooms (clusOf core))).isSome)
        = some c → s.items.get? c.key = some it → findPlace c.hdr (s.mayPlace c core) (s.rooms (clusOf core)) = some p →
      exec (.place core affinity) s = .next
        (((s.placeItem c.key it p.1 p.2).retryOwned ((s.placeItem c.key it p.1 p.2).arrived s)).reschedule)) ∧
    (∀ k l m, s.launchNamed ctx launch = some (k, l) → (s.settleLaunch k).launches.get? k = some m → m.phase = .draining →
      s.counting k = false → s.launchBusy k = false → happens (.launchComplete ctx launch) ((s.endLaunch k m m.code).settleScan.reschedule)) ∧
    (∀ t u v, s.teams.get? team = some t → (s.context t.ctx).state = 2 → t.discarding = false → s.isOwnerTeam team = false →
      (t.saving = true ∨ (s.allParked t = true ∧ s.discards team t = false)) →
      let s1 := s.setTeam team { t with saving := true }
      s1.quiet team t = true → (s1.commitTeam t).stall = [] → (s1.commitTeam t).teams.get? team = some u →
      (s1.commitTeam t).saveTeam team 0 u = some v → happens (.teamSave team) v) ∧
    (∀ t v, s.teams.get? team = some t → (s.context t.ctx).state = 2 → t.saving = false → s.chainTeams team t = [] → s.discardable t = true →
      let s1 := s.setTeam team { t with discarding := true }
      s1.quiet team t = true →
      ({ s1 with versions := (s1.teamWaves t).foldl (fun v e => v.del e.2.task) s1.versions } : State).saveTeam team 1
        { t with discarding := false } = some v → happens (.teamDiscard team) v) ∧
    ((s.context ctx).slotBad = true →
      happens (.preemptDeadlineExpiry ctx) ((s.setContext ctx { s.context ctx with slotBad := false }).resetContext ctx)) ∧
    ((s.context ctx).slotBad = false → (s.context ctx).state = 2 → (s.context ctx).preemptAt + clocksOf (s.context ctx).deadline ≤ s.clock.toNat →
      s.teams.any (fun e => decide (e.2.ctx = ctx)) = true → happens (.preemptDeadlineExpiry ctx) (s.resetContext ctx)) ∧
    ((s.context ctx).state = 1 → s.partOf ctx part ≠ [] → s.partMay ctx part = false ∨ s.partBehind ctx part die x y = true →
      exec (.partRestore ctx part die x y) s = .next s) ∧
    ((s.context ctx).state = 1 → s.partOf ctx part ≠ [] → s.partMay ctx part = true → s.partBehind ctx part die x y = false →
      (s.partOf ctx part).any (fun e => !s.imageOk e.2) = true →
          happens (.partRestore ctx part die x y) ((s.setError errImage ctx).resetContext ctx)) ∧
    ((s.context ctx).state = 1 → s.partOf ctx part ≠ [] → s.partMay ctx part = true → s.partBehind ctx part die x y = false →
      (s.partOf ctx part).any (fun e => !s.imageOk e.2) = false →
      (s.restorePart ctx part die x y = none → exec (.partRestore ctx part die x y) s = .next s) ∧
      ∀ t, s.restorePart ctx part die x y = some t → happens (.partRestore ctx part die x y) t)


/-- Contexts, doorbells and invalidations (spec/11 R279, R286, R292, R293, spec/12 R295, R302, spec/15 R371, R372): the state changes of a
context, a doorbell that rings its queue, a priority override that reaches its queue's undistributed teams, and an invalidation that is
posted, drops what every TLB and MMU holds of it, and is counted once no access begun before is left. What a doorbell does before the queue
is read is log entry 61; which accesses an invalidation waits for is log entry 120. When an event happens is the agenda's choice (log entry
2). The operations that it names rest on readings of the model, log entries 73, 80, 82, 87, 90 and 121. -/
def Obligations.ContextEvents : Prop :=
  ∀ (s : State) (ctx va : Nat) (value : BitVec 32),
    let happens (e : Instr) (z : State) : Prop := z.stall = [] → exec e s = .next z
    let c := s.context ctx
    let v := value.toNat
    (∀ t b x, ctx < 16 → (c.state = 0 ∨ c.state = 4) → s.physRead ctx (s.regs.ctxbase + 128 * ctx) 128 = (t, some b) →
      (s.regs.ctxbase + 128 * ctx) % 128 = 0 → inHbm (s.regs.ctxbase + 128 * ctx) = true →
      s.parseContext c (s.regs.ctxbase + 128 * ctx) b = some x → happens (.ctxEnable ctx) ((t.setContext ctx x).unring ctx)) ∧
    (∀ t, ctx < 16 → (c.state = 0 ∨ c.state = 4) → s.physRead ctx (s.regs.ctxbase + 128 * ctx) 128 = (t, none) →
      exec (.ctxEnable ctx) s = .next (s.setError errCtxdesc ctx)) ∧
    ((c.state = 1 ∨ c.state = 3) → s.launches.any (fun e => decide (e.2.ctx = ctx)) = false → s.images.any (fun e => decide (e.2.ctx = ctx)) = false →
      exec (.ctxDisable ctx) s = .next (s.setContext ctx { c with state := 0 })) ∧
    (c.state = 1 → exec (.ctxPreempt ctx) s = .next (s.startPreempt ctx)) ∧
    (c.state ≠ 1 → exec (.ctxPreempt ctx) s = .next s) ∧
    (c.state = 3 →
      let saved := s.images.filter fun e => decide (e.2.ctx = ctx ∧ e.2.kind ≠ 2) && (s.savedItem e.1).isNone
      let waits (u : State) (e : Nat × Image) : State :=
        { u.distributable e.2.team.prio with
          items := u.items.put u.nextNum
            { ctx := ctx, kind := .saved e.1, prio := e.2.team.prio, since := u.clock.toNat, aged := false, clus := none, hdr := e.2.team.hdr }
          nextNum := u.nextNum + 1 }
      happens (.ctxResume ctx) ((foldState waits (s.setContext ctx { c with state := 1 }) saved).settleScan.reschedule)) ∧
    (c.state ≠ 3 → exec (.ctxResume ctx) s = .next s) ∧
    (1 ≤ c.state → c.state ≤ 3 → happens (.ctxReset ctx) (s.resetContext ctx)) ∧
    (v < 1024 → s.regs.featAccept ≠ 0 →
        exec (.doorbell value) s = .next (s.setQueue (v / 64) (v % 64) { s.queue (v / 64) (v % 64) with rung := true })) ∧
    (1024 ≤ v ∨ s.regs.featAccept = 0 → exec (.doorbell value) s = .next s) ∧
    (∀ k n p : Nat, k < 16 → n < 64 → (p < 8 ∨ p = 255) → v = p * 2 ^ 16 + k * 2 ^ 10 + n * 16 →
      let owner (it : Item) : Option (Launch × Nat) := match it.kind with
        | .team j _ => if it.clus.isNone then (s.launches.get? j).map fun l => (l, l.prio) else none
        | .continuation sp => (sp.team.launch.bind s.launches.get?).map fun l => (l, sp.team.prio)
        | _ => none
      let set (it : Item) : Item := match owner it with
        | some (l, own) => if l.ctx = k ∧ l.queue = n then { it with prio := if p = 255 then own else p } else it
        | none => it
      let t := s.setQueue k n { s.queue k n with override := if p = 255 then none else some p }
      exec (.priocmd value) s = .next ({ t with items := s.items.map fun e => (e.1, set e.2) } : State).reschedule) ∧
    (v / 2 ^ 24 ≠ 0 ∨ v / 2 ^ 14 % 4 ≠ 0 ∨ v % 16 ≠ 0 ∨ 8 ≤ v / 2 ^ 16 % 256 ∧ v / 2 ^ 16 % 256 ≠ 255 → exec (.priocmd value) s = .next s) ∧
    (ctx < 16 → va < 2 ^ 64 → exec (.invalPage ctx va) s = .next (s.postInval (.page ctx (va / 65536 * 65536)))) ∧
    (ctx < 16 → exec (.invalContext ctx) s = .next (s.postInval (.context ctx))) ∧
    exec .invalAll s = .next (s.postInval .all) ∧
    (∀ n i rest, s.invals = (n, i) :: rest →
      (i.before = none → exec .invalidationPerformed s = .next
        { s with
          invals := (n, { i with before := some (s.nextNum + 1) }) :: rest
          nextNum := s.nextNum + 1
          clusters := s.clusters.map fun e => (e.1, { e.2 with tlb := e.2.tlb.filter fun x => !i.kind.covers x })
          dies := s.dies.map fun e => (e.1, { e.2 with mmu := e.2.mmu.filter fun x => !i.kind.covers x }) }) ∧
      ∀ m, i.before = some m →
        (s.begunBefore i.kind m = true → exec .invalidationPerformed s = .next s) ∧
        (s.begunBefore i.kind m = false → exec .invalidationPerformed s = .next
          { s with invals := rest, regs := { s.regs with invalDone := (s.regs.invalDone + 1) % 2 ^ 32 } }))

/-- The platform's registers and events (spec/13 R329, R333, spec/14 R360, spec/15 R361 to R374): parking and unparking dies, the power
ceiling and states, what is accepted, attested and configured, and the access table; each write changes its own register, and a value that
it does not take changes nothing. How energy is divided is log entry 19, when a performance state changes log entry 97, the order of a
quote's parts log entry 94, and what a write of another width or of an unaligned value does log entry 100. When an event happens is the
agenda's choice (log entry 2). The operations that it names rest on readings of the model, log entries 96 and 110. -/
def Obligations.PlatformEvents : Prop :=
  ∀ (s : State) (die off mw projected faster : Nat) (value : BitVec 32) (wide : BitVec 64),
    let d := s.die die
    let v := value.toNat
    let w := wide.toNat
    let keeps (e : Instr) : Prop := exec e s = .next s
    (die < 4 → d.park = 0 → s.regs.featAccept.getLsbD 6 = true → s.lastRunning die = false → s.scanning = none →
      exec (.parkRequest die) s = .next
        (((s.modDie die fun x => { x with park := 1, parkReq := true, parkRefused := false, powerDown := false, unparkAfter := false }).withdraw
          fun c => decide (dieOf c = die)).reschedule)) ∧
    (die < 4 → d.park = 0 → s.regs.featAccept.getLsbD 6 = false → exec (.parkRequest die) s = .next
      (s.modDie die fun x => { x with parkRefused := true })) ∧
    (die < 4 → d.park = 1 → d.powerDown = false → exec (.parkCancel die) s = .next
      (((s.modDie die fun x => { x with parkRefused := false }).modDie die fun x =>
        if x.powerDown then { x with parkReq := false, unparkAfter := true } else { x with park := 0, parkReq := false }).reschedule)) ∧
    (die < 4 → d.park = 2 → exec (.unpark die) s = .next
      ((s.modDie die fun x => { x with parkRefused := false }).modDie die fun x => { x with park := 3, parkReq := false })) ∧
    (d.park = 1 → s.dieBusy die = false → d.powerDown = true → exec (.diePowerDown die) s = .next
      ((s.clearDie die).modDie die fun x => { x with park := if x.unparkAfter then 3 else 2, powerDown := false, unparkAfter := false })) ∧
    (d.park = 3 → exec (.unparkComplete die) s = .next (((s.clearDie die).modDie die fun x => { x with park := 0 }).reschedule)) ∧
    (500 ≤ v % 4096 → v % 4096 ≤ 2200 → exec (.pceilWrite value) s = .next { s with regs := { s.regs with pceil := v % 4096 } }) ∧
    (v % 4096 < 500 ∨ 2200 < v % 4096 → keeps (.pceilWrite value)) ∧
    exec (.pstateWrite value) s = .next ({ s with regs := { s.regs with req := v % 8 } } : State).retarget ∧
    (s.regs.trans = true → exec .pstateTransitionDone s = .next
      (({ s with regs := { s.regs with cur := s.regs.target, trans := false } } : State).retarget).reschedule) ∧
    exec (.powerMeasure mw projected faster) s = .next
      ({ s.attribute mw with regs := (s.attribute mw).regs.govern mw projected faster } : State).retarget ∧
    (w < 256 → w % 8 ≠ 0 → s.regs.featAccept = 0 → exec (.featacceptWrite wide) s = .next
      { s with regs := { s.regs with featAccept := wide.setWidth 8 } }) ∧
    (s.regs.featAccept ≠ 0 ∨ w % 8 = 0 ∨ 256 ≤ w → keeps (.featacceptWrite wide)) ∧
    (exec (.attcmd 1) s = .next { s with regs := { s.regs with attcmd := true } }) ∧
    (value ≠ 1 → keeps (.attcmd value)) ∧
    (s.regs.attcmd = true → exec .quoteComplete s = .next
      { s with regs := { s.regs with attcmd := false, attbuf := s.quoteBody ++ signature s.quoteBody } } ∧
      (s.quoteBody ++ signature s.quoteBody).length = s.regs.attnonce.length + s.regs.meas.flatten.length + 633) ∧
    (die < 4 → d.polEnable = false → w / 2 ^ 22 % 2 ^ 21 + w % 2 ^ 22 ≤ 2097152 → exec (.tierpoolWrite die wide) s = .next
      ((s.exposeFrames die).modDie die fun x => { x with poolBase := w / 2 ^ 22 % 2 ^ 21, poolFrames := w % 2 ^ 22 })) ∧
    (4 ≤ die ∨ d.polEnable = true ∨ 2097152 < w / 2 ^ 22 % 2 ^ 21 + w % 2 ^ 22 → keeps (.tierpoolWrite die wide)) ∧
    (die < 4 → v % 256 < v / 2 ^ 8 % 256 → v / 2 ^ 8 % 256 < v / 2 ^ 16 % 256 → exec (.tierpolWrite die value) s = .next
      ((s.modDie die fun x =>
        { x with
          thresh1 := v % 256, thresh2 := v / 2 ^ 8 % 256, thresh3 := v / 2 ^ 16 % 256, discMax := v / 2 ^ 24 % 16
          polEnable := value.getLsbD 31 || x.polEnable
          polDisabling := !value.getLsbD 31 && x.polEnable }).settlePool die)) ∧
    (4 ≤ die ∨ ¬(v % 256 < v / 2 ^ 8 % 256 ∧ v / 2 ^ 8 % 256 < v / 2 ^ 16 % 256) → keeps (.tierpolWrite die value)) ∧
    (s.regs.errstat.toNat % 16 ≠ 0 → w % 16 = 0 → keeps (.errstatWrite wide)) ∧
    (exec (.errstatWrite 15) s = .next { s with regs := { s.regs with errstat := 0 } }) ∧
    (off % 4 = 0 → off + 4 ≤ 96 → exec (.cmapWrite off 4 wide) s = .next
      (foldState (fun s k => s.writeCoreBit (8 * off + k) (wide.getLsbD k)) s (List.range 32)).reschedule) ∧
    (off % 4 ≠ 0 ∨ 96 < off + 4 → keeps (.cmapWrite off 4 wide)) ∧
    (off < 0x2000 → off % 8 = 0 → exec (.registerWrite (0x40000 + off) 8 wide) s = .next
      { s with access := updAt (fun x => x.write (off % 16) 8 w) (off / 16) s.access }) ∧
    (exec (.registerWrite 0x5010 4 wide) s = .next { s with regs := { s.regs with shards := w % 2 ^ 32 } })

/-- Self-test, snapshots and recovery (spec/14 R352 to R356, spec/15 R367, R368): a drained scan runs and ends with its result, passed or failed, or
with an abort; a capture closes its cut and copies tile by tile; and each recovery step acts where its previous step has completed, fails
otherwise, and is then done. What a register of the engine reads while a capture
runs is log entry 20, what a refused access of it does log entry 102, what other packages do in a recovery log entry 60.
When an event happens is the agenda's choice (log entry 2).
The operations that it names rest on readings of the model, log entries 22, 98, 99, 101, 103, 108 and 118. -/
def Obligations.ScanSnapshotAndRecoveryEvents : Prop :=
  ∀ (s : State) (x : Scan) (tile : Nat) (rest : List Nat) (value : BitVec 32) (fail : BitVec 8) (shards : List (List Byte)),
    let happens (e : Instr) (z : State) : Prop := z.stall = [] → exec e s = .next z
    (s.scanning = some x → x.abort = false → x.phase = .drain → x.cores.all (fun c => s.cmapOff.contains c || !s.teamOn c) = true →
      exec .scanDrainDone s = .next { s with scanning := some { x with phase := .run } }) ∧
    (s.scanning = some x → x.abort = false → x.phase = .run →
      let engine := x.matrix && fail.getLsbD 4
      let bad (c : Nat) : Bool := engine || fail.getLsbD (c % 4)
      let off := x.cores.filter bad
      let on := x.cores.filter fun c => !bad c
      let t := foldState State.rejoin s (on.filter fun c => !s.cmapOff.contains c)
      let u : State :=
        { t with
          cmapOff := off.foldl (fun l c => addNat c l) t.cmapOff
          scanPassed := on.foldl (fun l c => addNat c l) (t.scanPassed.filter fun c => !off.contains c) }
      let found := (fail.toNat % 16 &&& x.mask.toNat) + if engine then 16 else 0
      (found = 0 → happens (.scanRunDone fail) (u.endScan x 1 0).reschedule) ∧
      (found ≠ 0 → happens (.scanRunDone fail) (u.endScan x 2 found).reschedule)) ∧
    (∀ y, s.scanning = some y → y.abort = true → happens (.scanRunDone fail) s.settleScan.reschedule) ∧
    (s.scanning = some x → x.abort = false → x.phase = .drain → x.tstart + clocksOf x.drainMax ≤ s.clock.toNat →
      happens .scanDrainTimeout (s.endScan x 5 0).reschedule) ∧
    happens (.snapCaptureStart value) (s.snapWrite value) ∧
    (s.snap.state = 1 → s.snap.cut = false → imageLength s.stepTiles.length ≤ s.regs.units * s.regs.shardSize →
      exec .cutClose s = .next ({ s with snap := { s.snap with cut := true, uncaptured := s.stepTiles } } : State).settleCapture) ∧
    (s.snap.uncaptured = tile :: rest → s.snap.state = 1 → s.snap.cut = true → s.stagingFull = false →
      (s.tileOk tile = false → exec .tileCapture s = .next (s.failCapture 3)) ∧
      (s.tileOk tile = true →
          exec .tileCapture s = .next ({ s with snap := { s.snap with uncaptured := rest, image := Assoc.put s.snap.image tile (s.tileImage tile) } } : State).settleCapture)) ∧
    (∀ n, s.snap.state = 1 → s.snap.copying.contains tile = true → s.snap.freePlace s.regs.stageRoom = some n →
      let place := s.regs.stageAt n
      (s.tileOk tile = false ∨ s.snapOk place 65536 true = false → exec (.cowCopy tile) s = .next (s.failCapture 3)) ∧
      (s.tileOk tile = true → s.snapOk place 65536 true = true →
        let t := s.storeRun place (s.bytesAt (tile * 65536) 65536)
        happens (.cowCopy tile) { t with snap := { t.snap with
            copying := delNat tile t.snap.copying
            waiters := t.snap.waiters.filter fun x => !decide (x.1 = tile)
            staged := Assoc.put t.snap.staged tile n } })) ∧
    (∀ n more, s.snap.staged = (tile, n) :: more → s.snap.state = 1 →
      (s.snapOk (s.regs.stageAt n) 65536 false = false → exec .stagedTileWrite s = .next (s.failCapture 3)) ∧
      (s.snapOk (s.regs.stageAt n) 65536 false = true → exec .stagedTileWrite s = .next
        ({ s with snap := { s.snap with staged := more, image := Assoc.put s.snap.image tile (s.stagedImage n) } } : State).settleCapture)) ∧
    (s.snap.state = 2 → s.stripeLost = false →
      let slot := s.regs.slotOf s.snap.step
      let t := foldState (fun t k => t.durable (slot + 4096 + k * s.regs.shardSize) (s.regs.shard s.snap.image shards k)) s (List.range s.regs.shardCount)
      let u := (t.durable slot s.slotHeader).durable (slot + 0x38) (leBytes 8 1)
      (u.snap.state = 3 → happens (.shardsDurable shards) u) ∧
      (u.snap.state ≠ 3 → happens (.shardsDurable shards) { u with snap := { u.snap with state := 0, cut := false, image := [], waiters := [] } })) ∧
    (s.snap.state = 2 → s.stripeLost = true → exec (.shardsDurable shards) s = .next (s.failCapture 1)) ∧
    (let r := s.recover
     let own := s.regs.gpos = r.lost
     let hand (k : Nat) : Prop := r.running = true ∧ r.acted = false ∧ r.step = k
     let after (k : Nat) : Prop := r.good.contains (k, r.lost) = true
     let ready (k : Nat) : Prop := hand k ∧ ¬own ∧ (k = 1 ∨ after (k - 1))
     let fails (e : Instr) : Prop := exec e s = .next { s with recover := { r with running := false, failed := true, done := true } }
     (ready 1 → 2 ≤ s.regs.entryOf r.lost → peerValid (s.peer (s.regs.entryOf r.lost)) = true →
       exec .recoverFence s = .next ((s.setPeers (s.naming s.lostPkg) 1 s.lostPkg).checkStripe).actStep) ∧
     (ready 2 → exec .recoverElect s = .next s.actStep) ∧
     (ready 3 → s.lastSlot.isSome = true → exec (.recoverRebuild true) s = .next s.actStep) ∧
     (ready 4 → exec .recoverRemap s = .next (s.setPeers (s.naming s.lostPkg) 0 r.newpkg).actStep) ∧
     (∀ k, hand 5 → own ∨ after 4 → s.lastSlot = some k → happens .recoverResume (s.restoreTiles k).actStep) ∧
     (hand 1 → own ∨ s.regs.entryOf r.lost < 2 ∨ peerValid (s.peer (s.regs.entryOf r.lost)) = false → fails .recoverFence) ∧
     (hand 2 → own ∨ ¬after 1 → fails .recoverElect) ∧
     (∀ ok, hand 3 → own ∨ ¬after 2 ∨ ok = false ∨ s.lastSlot = none → fails (.recoverRebuild ok)) ∧
     (hand 4 → own ∨ ¬after 3 → fails .recoverRemap) ∧
     (hand 5 → (¬own ∧ ¬after 4) ∨ s.lastSlot = none → s.stall = [] → fails .recoverResume) ∧
     (r.running = true → r.acted = true → (r.step = 1 → s.requestsTo s.lostPkg = false) → exec .recoverStepDone s = .next
       { s with recover := { r with
           running := false
           done := true
           good := if r.good.contains (r.step, r.lost) then r.good else r.good ++ [(r.step, r.lost)] } }) ∧
     (r.running = false ∨ r.acted = false ∨ r.step = 1 ∧ s.requestsTo s.lostPkg = true → exec .recoverStepDone s = .next s))


/-! ### Registers and memory -/

/-- When results land (spec/04 R119 to R121): a result of a register stands from its cycle on, after every earlier pending result of that
register, and before its cycle it changes nothing; a vector result writes the lanes that it lists, and a mask keeps to the wave's lanes.
The operations that it names rest on readings of the model, log entries 71 and 119. -/
def Obligations.ResultsLand : Prop :=
  ∀ (w : Wave) (ready t n : Nat) (x : Word) (m : DWord) (b : Bool) (ls : List Nat) (f : Nat → Word),
    (ready ≤ t →
      ((w.later ready (.sca n x)).landAt t).regs.s.get n = x ∧
      ((w.later ready (.msk n m)).landAt t).regs.m.get n = m &&& w.mask ∧
      ((w.later ready (.cond b)).landAt t).regs.sc = b ∧
      ∀ l ∈ ls, l < 64 → ((w.later ready (.vec n (ls.map fun l => (l, f l)))).landAt t).regs.v.get (64 * n + l) = f l) ∧
    (t < ready → ∀ r : Landing, (w.later ready r).landAt t = { w.landAt t with
        pend := (w.landAt t).pend ++ [{ ready := ready, write := r }]
        varPend := (w.later ready r).varPend }) ∧
    (ready ≤ t → w.pend = [] → ∀ k j, ¬(k = n ∧ j ∈ ls) → j < 64 →
      ((w.later ready (.vec n (ls.map fun l => (l, f l)))).landAt t).regs.v.get (64 * k + j) = w.regs.v.get (64 * k + j))

/-- What a register-only word leaves alone (spec/04 R93, R95 to R101, spec/05 R124): every register but its destinations, the float flags
unless it is a float word, every special register, the return stacks, the registers of every other wave, and all of memory. -/
def Obligations.FrameOfRegisterWords : Prop :=
  ∀ (i : Instr) (s : State) (w : Wave) (ds : List RegName), Instr.dests i = some ds → issues i s w = true →
    ∃ t x, exec i s = .next t ∧ t.waves.get? s.issue.slot = some x ∧
      (∀ r l, r ∉ ds → l < 64 → x.settled r l = w.settled r l) ∧
      (Instr.floats i = false → x.fstat = w.fstat) ∧ x.fstat &&& w.fstat = w.fstat ∧
      x.specials = w.specials ∧ x.rstack = w.rstack ∧ x.hdr = w.hdr ∧
      (∀ n, n ≠ s.issue.slot → (t.waves.get? n).map (fun y => (y.regs, y.pend, y.fstat)) = (s.waves.get? n).map fun y => (y.regs, y.pend, y.fstat)) ∧
      (∀ a, t.byteAt a = s.byteAt a) ∧ t.scm = s.scm ∧ t.versions = s.versions ∧ t.contexts = s.contexts ∧ t.teams = s.teams ∧
      t.launches = s.launches ∧ t.dies = s.dies ∧ t.clusters = s.clusters ∧ t.regs = s.regs

/-- A task's version (spec/09 R224, R225): a held store is seen by its own task and changes no byte of memory and no other task's
version, where the version holds bytes of its comb already; the task reads its version over what has been committed; and a commit that
nothing delays makes every held byte visible, and no other byte. -/
def Obligations.VersionsAndCommits : Prop :=
  ∀ (s : State) (slot pa n a : Nat) (w : Wave) (bs : List Byte), s.waves.get? slot = some w →
    ((versionCombs (s.version w.task)).contains (pa / 1024) = true →
      let t := s.hold slot pa bs
      (t.version w.task).get? a = (if pa ≤ a ∧ a < pa + bs.length then some (bs.getD (a - pa) 0) else (s.version w.task).get? a) ∧
      t.byteAt a = s.byteAt a ∧ ∀ k, k ≠ w.task → t.version k = s.version k) ∧
    (∀ k, k < n → (s.readTask w.task pa n).2.getD k 0 =
      (s.version w.task).getD (pa + k) ((s.waiting w.task).getD (pa + k) (s.byteAt (pa + k)))) ∧
    (ascending (s.version w.task) = true → (s.commit slot).stall = [] →
      (s.commit slot).byteAt a = (s.version w.task).getD a (s.byteAt a) ∧ (s.commit slot).version w.task = [])

/-- A scratchpad store changes the bytes of its lanes' accesses and no other byte of any scratchpad, no memory and no register; of two
lanes that store to one byte the higher one stands (spec/06 R151, R152).
The operations that it names rest on readings of the model, log entry 14. -/
def Obligations.FrameOfScratchpadStores : Prop :=
  ∀ (q : Sched) (vs : VReg) (base : BitVec 5) (voff : BitVec 7) (k : Width) (s : State) (w : Wave) (as : List SpadAcc),
    let i := s.issue
    let n := Width.bytes k
    let data (l : Nat) : List Byte := ((List.range (Width.count k)).flatMap fun j => leBytes 4 (i.src.lane (vs.toNat + j) l).toNat).take n
    issues (.vsts q vs base voff k) s w = true →
    (s.countWord w).grantsSpad w n true (i.activeLanes.map fun l => (l, i.spadVa base voff l)) as →
    ∃ t x, exec (.vsts q vs base voff k) s = .next t ∧ t.waves.get? i.slot = some x ∧ x.regs = w.regs ∧ x.pend = w.pend ∧
      (∀ core o, (∀ a ∈ as, ¬(a.core = core ∧ a.off ≤ o ∧ o < a.off + n)) → (t.core core).spad.get o = (s.core core).spad.get o) ∧
      (∀ pre a, as = pre ++ [a] → ∀ j, j < n → (t.core a.core).spad.get (a.off + j) = (data a.lane).getD j 0) ∧
      t.mem = s.mem ∧ t.scm = s.scm ∧ t.versions = s.versions

/-- What the words that store to global memory leave alone (spec/06 R152, R153, R159 to R165, spec/09 R224 to R226): every byte outside the
bytes of their lanes' accesses, for `bfadd` outside the objects' blocks, but that a commit of the task makes its held bytes visible and a
forced one is counted; the versions of other tasks; every register but the destinations of an atomic, the special registers among
them; and the registers of every other wave. The check of a RACELOG page writes its record before the word (spec/10 R268). `mstore` leaves
alone every byte but those that its writes are placed at, each place as translation stands when that write is made (spec/07 R189, R190).
The operations that it names rest on readings of the model, log entries 14, 15, 38, 40 and 41. -/
def Obligations.FrameOfGlobalStores : Prop :=
  ∀ (q : Sched) (vd : VReg) (sd : SReg) (voff : BitVec 7) (base : BitVec 5) (k : Width) (w64 : Bool) (off : BitVec 8) (s : State) (w : Wave),
    let i := s.issue
    let t := s.countWord w
    let frames (j : Instr) (ranges : List (Nat × Nat)) (u y : State) (ds : List RegName) : Prop :=
      y.stall = [] → ∃ z x, exec j s = .next z ∧ z.waves.get? i.slot = some x ∧
        (∀ a, ¬inRanges ranges a → ¬s.inForced a → u.leaves z w.task a) ∧ (∀ n, n ≠ w.task → z.version n = s.version n) ∧
        w.keeps x ds ∧ s.othersKeep z i.slot
    let places (n : Nat) (as : List Acc) : List (Nat × Nat) := as.map fun a => (a.pa, n)
    let lanes := i.activeLanes.map fun l => (l, i.globalVa base voff l)
    let regs (c l : Nat) := (List.range c).map fun k => i.src.lane (vd.toNat + k) l
    let sregs (c : Nat) := (List.range c).map fun k => i.src.scalar (sd.toNat + k)
    let vdest (n : Nat) : List RegName := (List.range (n / 4)).map fun k => .v (vd.toNat + k)
    let sdest (n : Nat) : List RegName := (List.range (n / 4)).map fun k => .s (sd.toNat + k)
    let n := if i.held.w64 then 8 else 4
    let m := if w64 then 8 else 4
    let ord := i.held.ord
    let scope := i.held.scopeOr
    let acts (j : Instr) (n : Nat) (f : AtomFun) (addr : List (Nat × Nat)) (operand : Nat → List Word)
        (write : State → List (Nat × Nat) → State) (ds : List RegName) : Prop :=
      issues j s w = true → addr ≠ [] →
        ∀ u as c, t.grants w n { rd := true, wr := true } none addr u as → u.markedLanes n 0 true as = [] →
        (if 2 ≤ ord then (u.afterRemote w n as).released w scope = some c else c = u.afterRemote w n as) →
        let r := c.atomLanes w n f (as.map fun a => (a, operand a.lane))
        r.refused = [] → frames j (places n as) s (((write r.state r.old).noteOwn w r.writes).atomAcquire ord scope) ds
    versionsOk s.versions = true →
    (issues (.vst q vd base voff k) s w = true → ∀ u as, t.grants w (Width.bytes k) { rd := false, wr := true } (some true) lanes u as →
      ((∀ a ∈ as, pteRaceLog a.pte = false) → u.mem = s.mem) ∧
      frames (.vst q vd base voff k) (places (Width.bytes k) as) u
        (u.storeLanes w (as.map fun a => (a, ((List.range (Width.count k)).flatMap fun j =>
          leBytes 4 (i.src.lane (vd.toNat + j) a.lane).toNat).take (Width.bytes k)))) []) ∧
    (issues (.sst q sd base w64 off) s w = true → ∀ u a,
      t.grants w m { rd := false, wr := true } (some true) [(i.leader, (i.src.pair (2 * base.toNat) + 4 * off.setWidth 64).toNat)] u [a] →
      let data := (sregs (m / 4)).flatMap fun v => leBytes 4 v.toNat
      (pteRaceLog a.pte = false → u.mem = s.mem) ∧
      frames (.sst q sd base w64 off) (places m [a]) u
        (if w.inBody then
          ({ u with nextNum := u.nextNum + 1 } : State).wave fun x =>
            { x with stepBuf := x.stepBuf ++ [{ num := u.nextNum, pa := a.pa, persist := ptePersist a.pte, own := false, data := data }] }
        else (u.storeLanes w [(a, data)]).noteOwn w (cellsAt a.pa data)) []) ∧
    (∀ op, acts (.vatom q op vd voff base) n (atomFun op n) lanes (regs (n / 4)) (putOld vd n) (vdest n)) ∧
    acts (.vcas q vd voff base) n (casFun n) lanes (regs (n / 2)) (putOld vd n) (vdest n) ∧
    (∀ op, acts (.satom q sd base w64 op) m (atomFun op m) [(i.leader, (i.src.pair (2 * base.toNat)).toNat)] (fun _ => sregs (m / 4))
      (putOldScalar sd m) (sdest m)) ∧
    acts (.scas q sd base w64) m (casFun m) [(i.leader, (i.src.pair (2 * base.toNat)).toNat)] (fun _ => sregs (m / 2)) (putOldScalar sd m)
      (sdest m) ∧
    (issues (.bfadd q vd voff base) s w = true → i.activeLanes ≠ [] →
      let r := t.checkLanes i.slot w 8 8 0 { rd := true, wr := true, mside := true } lanes
      ∀ as c, (∀ x ∈ lanes, x.2 % 8 = 0 ∧ 8 ≤ x.2 % 64) → r.2 = ([], as) → (∀ a ∈ as, r.1.marked (a.pa / 64 * 64) 64 = false) →
        (if 2 ≤ ord then r.1.released w scope = some c else c = r.1) →
        let ls : List BfLane := as.map fun a =>
          { lane := a.lane, block := a.pa / 64, elem := a.pa % 64 / 8 - 1, addend := i.src.lane vd.toNat a.lane }
        let x := State.bfBlocks ((c.commit i.slot).ordered i.slot) ls (ls.map (·.block)).eraseDups
        frames (.bfadd q vd voff base) (as.map fun a => (a.pa / 64 * 64, 64)) s
          ((x.1.putNow (.vec vd.toNat x.2)).atomAcquire ord scope) [.v vd.toNat]) ∧
    (∀ clus r x cells z, s.grantedReq clus (fun r => r.tilePort) = some r → r.kind = .mstore x →
      cells = (x.writes r.seed (((s.cluster clus).tiles.get? x.tile).map (·.data) |>.getD [])).1 →
      exec (.mstoreComplete clus) s = .next z →
      (x.spadSpace = true → z.mem = s.mem ∧ ∀ core o,
        (∀ e ∈ cells, ∀ p, s.spadPlace x.team x.core (e.1 % 2 ^ 32) = some p → ¬(p.1 = core ∧ p.2 ≤ o ∧ o < p.2 + e.2.length)) →
        (z.core core).spad.get o = (s.core core).spad.get o) ∧
      (x.spadSpace = false → ∀ a, ¬s.inForced a →
        (∀ pre e post u pa pte, cells = pre ++ e :: post → s.storeAll clus r x pre = .ok u →
          (u.translate r.ctx (dieOf clus) (some clus) (e.1 % 2 ^ 64)).2 = .ok pa pte → ¬(pa ≤ a ∧ a < pa + e.2.length)) →
        s.leaves z r.task a))


/-- The PC table of a wave keeps its form (spec/01 R18 to R23, spec/04 R107, spec/11 R273, R275): from a table with no empty entry and no lane
in two entries, a word of one of its entries that goes on, jumps to PCs among which its lanes are divided, or parks (at anything but a wide
barrier, whose completion moves other entries, and outside an adopted task, which may be suspended then) leaves such a table in which
the same lanes stand, and no other wave's table changes where it goes on or jumps; a trap that a handler takes moves the trapping entry's
lanes out of the table, and `tret` moves them back; a re-sort keeps the lanes; and lanes that exit stand in no entry after, the others as
before.
The operations that it names rest on readings of the model, log entry 11. -/
def Obligations.WordsKeepTheTable : Prop :=
  ∀ (q : Sched) (s t : State) (w : Wave),
    let i := s.issue
    t.waves.get? i.slot = some w → w.tableOk →
    s.after q (.done t) = s.after q (.goto t [(i.pc + 4, i.lanes)] none) ∧
    ((∃ e ∈ w.table, e.lanes = i.lanes) →
      (∀ gs front, (i.resumed = true ∨ w.handler = none) → (∀ g ∈ gs, g.2 ≠ 0) →
          (∀ l, gs.countP (fun g => g.2.getLsbD l) = if i.lanes.getLsbD l then 1 else 0) →
        ∃ x, (s.after q (.goto t gs front)).waves.get? i.slot = some x ∧ w.sameLanes x ∧ x.handler = w.handler) ∧
      (∀ p, p ≠ .wbar → w.adopt = 0 → ∃ x, (s.after q (.park t p)).waves.get? i.slot = some x ∧ w.sameLanes x ∧ x.handler = w.handler) ∧
      (w.handler = none → w.tvec ≠ 0 → ∀ r rest, ∃ x h, (s.after q (.trap t r rest)).waves.get? i.slot = some x ∧ x.handler = some h ∧
        h.lanes = i.lanes ∧ w.sameLanes x) ∧
      (w.dropLanes i.lanes).tableOk ∧ ∀ l, (w.dropLanes i.lanes).stands l = if i.lanes.getLsbD l then 0 else w.stands l) ∧
    (w.handler.isSome = true → i.resumed = false → ∀ gs front, ∃ x, (s.after q (.goto t gs front)).waves.get? i.slot = some x ∧ x.table = w.table ∧
        w.sameLanes x) ∧
    (∀ gs front n, n ≠ i.slot → ((s.after q (.goto t gs front)).waves.get? n).map (·.table) = (t.waves.get? n).map (·.table)) ∧
    w.sameLanes w.resorted ∧ (∀ h, w.handler = some h → h.lanes ≠ 0 → w.sameLanes (w.leaveHandler h))
end

