-- ==== Sys2Proof/Laws/Dispatch.lean ====
section
/-! SUPPORT. Each arm of `exec`, so that no proof evaluates the whole dispatch. -/

namespace Sys2Proof.Machine

@[simp] theorem exec_vadd x1 x2 x3 x4 s : exec (.vadd x1 x2 x3 x4) s = execVadd x1 x2 x3 x4 s := rfl
@[simp] theorem exec_vsub x1 x2 x3 x4 s : exec (.vsub x1 x2 x3 x4) s = execVsub x1 x2 x3 x4 s := rfl
@[simp] theorem exec_vmul x1 x2 x3 x4 s : exec (.vmul x1 x2 x3 x4) s = execVmul x1 x2 x3 x4 s := rfl
@[simp] theorem exec_vmulhi x1 x2 x3 x4 s : exec (.vmulhi x1 x2 x3 x4) s = execVmulhi x1 x2 x3 x4 s := rfl
@[simp] theorem exec_vand x1 x2 x3 x4 s : exec (.vand x1 x2 x3 x4) s = execVand x1 x2 x3 x4 s := rfl
@[simp] theorem exec_vor x1 x2 x3 x4 s : exec (.vor x1 x2 x3 x4) s = execVor x1 x2 x3 x4 s := rfl
@[simp] theorem exec_vxor x1 x2 x3 x4 s : exec (.vxor x1 x2 x3 x4) s = execVxor x1 x2 x3 x4 s := rfl
@[simp] theorem exec_vshl x1 x2 x3 x4 s : exec (.vshl x1 x2 x3 x4) s = execVshl x1 x2 x3 x4 s := rfl
@[simp] theorem exec_vshr x1 x2 x3 x4 s : exec (.vshr x1 x2 x3 x4) s = execVshr x1 x2 x3 x4 s := rfl
@[simp] theorem exec_vsra x1 x2 x3 x4 s : exec (.vsra x1 x2 x3 x4) s = execVsra x1 x2 x3 x4 s := rfl
@[simp] theorem exec_vmin x1 x2 x3 x4 s : exec (.vmin x1 x2 x3 x4) s = execVmin x1 x2 x3 x4 s := rfl
@[simp] theorem exec_vmax x1 x2 x3 x4 s : exec (.vmax x1 x2 x3 x4) s = execVmax x1 x2 x3 x4 s := rfl
@[simp] theorem exec_vminu x1 x2 x3 x4 s : exec (.vminu x1 x2 x3 x4) s = execVminu x1 x2 x3 x4 s := rfl
@[simp] theorem exec_vmaxu x1 x2 x3 x4 s : exec (.vmaxu x1 x2 x3 x4) s = execVmaxu x1 x2 x3 x4 s := rfl
@[simp] theorem exec_vmad x1 x2 x3 x4 s : exec (.vmad x1 x2 x3 x4) s = execVmad x1 x2 x3 x4 s := rfl
@[simp] theorem exec_vabsd x1 x2 x3 x4 s : exec (.vabsd x1 x2 x3 x4) s = execVabsd x1 x2 x3 x4 s := rfl
@[simp] theorem exec_vfadd x1 x2 x3 x4 s : exec (.vfadd x1 x2 x3 x4) s = execVfadd x1 x2 x3 x4 s := rfl
@[simp] theorem exec_vfsub x1 x2 x3 x4 s : exec (.vfsub x1 x2 x3 x4) s = execVfsub x1 x2 x3 x4 s := rfl
@[simp] theorem exec_vfmul x1 x2 x3 x4 s : exec (.vfmul x1 x2 x3 x4) s = execVfmul x1 x2 x3 x4 s := rfl
@[simp] theorem exec_vffma x1 x2 x3 x4 s : exec (.vffma x1 x2 x3 x4) s = execVffma x1 x2 x3 x4 s := rfl
@[simp] theorem exec_vfmin x1 x2 x3 x4 s : exec (.vfmin x1 x2 x3 x4) s = execVfmin x1 x2 x3 x4 s := rfl
@[simp] theorem exec_vfmax x1 x2 x3 x4 s : exec (.vfmax x1 x2 x3 x4) s = execVfmax x1 x2 x3 x4 s := rfl
@[simp] theorem exec_vhfma x1 x2 x3 x4 s : exec (.vhfma x1 x2 x3 x4) s = execVhfma x1 x2 x3 x4 s := rfl
@[simp] theorem exec_vhadd x1 x2 x3 x4 s : exec (.vhadd x1 x2 x3 x4) s = execVhadd x1 x2 x3 x4 s := rfl
@[simp] theorem exec_vhmul x1 x2 x3 x4 s : exec (.vhmul x1 x2 x3 x4) s = execVhmul x1 x2 x3 x4 s := rfl
@[simp] theorem exec_vsel x1 x2 x3 x4 s : exec (.vsel x1 x2 x3 x4) s = execVsel x1 x2 x3 x4 s := rfl
@[simp] theorem exec_vpack2 x1 x2 x3 x4 s : exec (.vpack2 x1 x2 x3 x4) s = execVpack2 x1 x2 x3 x4 s := rfl
@[simp] theorem exec_vcopysign x1 x2 x3 x4 s : exec (.vcopysign x1 x2 x3 x4) s = execVcopysign x1 x2 x3 x4 s := rfl
@[simp] theorem exec_vshfl x1 x2 x3 x4 x5 s : exec (.vshfl x1 x2 x3 x4 x5) s = execVshfl x1 x2 x3 x4 x5 s := rfl
@[simp] theorem exec_vmov x1 x2 x3 s : exec (.vmov x1 x2 x3) s = execVmov x1 x2 x3 s := rfl
@[simp] theorem exec_vnot x1 x2 x3 s : exec (.vnot x1 x2 x3) s = execVnot x1 x2 x3 s := rfl
@[simp] theorem exec_vneg x1 x2 x3 s : exec (.vneg x1 x2 x3) s = execVneg x1 x2 x3 s := rfl
@[simp] theorem exec_vabs x1 x2 x3 s : exec (.vabs x1 x2 x3) s = execVabs x1 x2 x3 s := rfl
@[simp] theorem exec_vpopc x1 x2 x3 s : exec (.vpopc x1 x2 x3) s = execVpopc x1 x2 x3 s := rfl
@[simp] theorem exec_vclz x1 x2 x3 s : exec (.vclz x1 x2 x3) s = execVclz x1 x2 x3 s := rfl
@[simp] theorem exec_vbrev x1 x2 x3 s : exec (.vbrev x1 x2 x3) s = execVbrev x1 x2 x3 s := rfl
@[simp] theorem exec_vbfe x1 x2 x3 s : exec (.vbfe x1 x2 x3) s = execVbfe x1 x2 x3 s := rfl
@[simp] theorem exec_vbfi x1 x2 x3 s : exec (.vbfi x1 x2 x3) s = execVbfi x1 x2 x3 s := rfl
@[simp] theorem exec_vrand x1 x2 x3 s : exec (.vrand x1 x2 x3) s = execVrand x1 x2 x3 s := rfl
@[simp] theorem exec_vbcast x1 x2 x3 s : exec (.vbcast x1 x2 x3) s = execVbcast x1 x2 x3 s := rfl
@[simp] theorem exec_vfrcp x1 x2 x3 x4 s : exec (.vfrcp x1 x2 x3 x4) s = execVfrcp x1 x2 x3 x4 s := rfl
@[simp] theorem exec_vfrsq x1 x2 x3 x4 s : exec (.vfrsq x1 x2 x3 x4) s = execVfrsq x1 x2 x3 x4 s := rfl
@[simp] theorem exec_vfsqrt x1 x2 x3 x4 s : exec (.vfsqrt x1 x2 x3 x4) s = execVfsqrt x1 x2 x3 x4 s := rfl
@[simp] theorem exec_vfexp2 x1 x2 x3 x4 s : exec (.vfexp2 x1 x2 x3 x4) s = execVfexp2 x1 x2 x3 x4 s := rfl
@[simp] theorem exec_vflog2 x1 x2 x3 x4 s : exec (.vflog2 x1 x2 x3 x4) s = execVflog2 x1 x2 x3 x4 s := rfl
@[simp] theorem exec_vfsin x1 x2 x3 x4 s : exec (.vfsin x1 x2 x3 x4) s = execVfsin x1 x2 x3 x4 s := rfl
@[simp] theorem exec_vfcos x1 x2 x3 x4 s : exec (.vfcos x1 x2 x3 x4) s = execVfcos x1 x2 x3 x4 s := rfl
@[simp] theorem exec_vftanh x1 x2 x3 x4 s : exec (.vftanh x1 x2 x3 x4) s = execVftanh x1 x2 x3 x4 s := rfl
@[simp] theorem exec_vfrnd x1 x2 x3 x4 s : exec (.vfrnd x1 x2 x3 x4) s = execVfrnd x1 x2 x3 x4 s := rfl
@[simp] theorem exec_vfclass x1 x2 x3 x4 s : exec (.vfclass x1 x2 x3 x4) s = execVfclass x1 x2 x3 x4 s := rfl
@[simp] theorem exec_vcvt x1 x2 x3 x4 x5 x6 s : exec (.vcvt x1 x2 x3 x4 x5 x6) s = execVcvt x1 x2 x3 x4 x5 x6 s := rfl
@[simp] theorem exec_vcmp x1 x2 x3 x4 x5 s : exec (.vcmp x1 x2 x3 x4 x5) s = execVcmp x1 x2 x3 x4 x5 s := rfl
@[simp] theorem exec_vfcmp x1 x2 x3 x4 x5 s : exec (.vfcmp x1 x2 x3 x4 x5) s = execVfcmp x1 x2 x3 x4 x5 s := rfl
@[simp] theorem exec_sadd x1 x2 x3 x4 s : exec (.sadd x1 x2 x3 x4) s = execSadd x1 x2 x3 x4 s := rfl
@[simp] theorem exec_ssub x1 x2 x3 x4 s : exec (.ssub x1 x2 x3 x4) s = execSsub x1 x2 x3 x4 s := rfl
@[simp] theorem exec_smul x1 x2 x3 x4 s : exec (.smul x1 x2 x3 x4) s = execSmul x1 x2 x3 x4 s := rfl
@[simp] theorem exec_smulhi x1 x2 x3 x4 s : exec (.smulhi x1 x2 x3 x4) s = execSmulhi x1 x2 x3 x4 s := rfl
@[simp] theorem exec_sand x1 x2 x3 x4 s : exec (.sand x1 x2 x3 x4) s = execSand x1 x2 x3 x4 s := rfl
@[simp] theorem exec_sor x1 x2 x3 x4 s : exec (.sor x1 x2 x3 x4) s = execSor x1 x2 x3 x4 s := rfl
@[simp] theorem exec_sxor x1 x2 x3 x4 s : exec (.sxor x1 x2 x3 x4) s = execSxor x1 x2 x3 x4 s := rfl
@[simp] theorem exec_sshl x1 x2 x3 x4 s : exec (.sshl x1 x2 x3 x4) s = execSshl x1 x2 x3 x4 s := rfl
@[simp] theorem exec_sshr x1 x2 x3 x4 s : exec (.sshr x1 x2 x3 x4) s = execSshr x1 x2 x3 x4 s := rfl
@[simp] theorem exec_ssra x1 x2 x3 x4 s : exec (.ssra x1 x2 x3 x4) s = execSsra x1 x2 x3 x4 s := rfl
@[simp] theorem exec_smin x1 x2 x3 x4 s : exec (.smin x1 x2 x3 x4) s = execSmin x1 x2 x3 x4 s := rfl
@[simp] theorem exec_smax x1 x2 x3 x4 s : exec (.smax x1 x2 x3 x4) s = execSmax x1 x2 x3 x4 s := rfl
@[simp] theorem exec_sminu x1 x2 x3 x4 s : exec (.sminu x1 x2 x3 x4) s = execSminu x1 x2 x3 x4 s := rfl
@[simp] theorem exec_smaxu x1 x2 x3 x4 s : exec (.smaxu x1 x2 x3 x4) s = execSmaxu x1 x2 x3 x4 s := rfl
@[simp] theorem exec_saddc x1 x2 x3 x4 s : exec (.saddc x1 x2 x3 x4) s = execSaddc x1 x2 x3 x4 s := rfl
@[simp] theorem exec_ssubb x1 x2 x3 x4 s : exec (.ssubb x1 x2 x3 x4) s = execSsubb x1 x2 x3 x4 s := rfl
@[simp] theorem exec_scmp x1 x2 x3 x4 s : exec (.scmp x1 x2 x3 x4) s = execScmp x1 x2 x3 x4 s := rfl
@[simp] theorem exec_ssel x1 x2 x3 x4 s : exec (.ssel x1 x2 x3 x4) s = execSsel x1 x2 x3 x4 s := rfl
@[simp] theorem exec_smov x1 x2 x3 s : exec (.smov x1 x2 x3) s = execSmov x1 x2 x3 s := rfl
@[simp] theorem exec_spopc x1 x2 x3 s : exec (.spopc x1 x2 x3) s = execSpopc x1 x2 x3 s := rfl
@[simp] theorem exec_sclz x1 x2 x3 s : exec (.sclz x1 x2 x3) s = execSclz x1 x2 x3 s := rfl
@[simp] theorem exec_sbfe x1 x2 x3 x4 s : exec (.sbfe x1 x2 x3 x4) s = execSbfe x1 x2 x3 x4 s := rfl
@[simp] theorem exec_sfadd x1 x2 x3 x4 s : exec (.sfadd x1 x2 x3 x4) s = execSfadd x1 x2 x3 x4 s := rfl
@[simp] theorem exec_sfmul x1 x2 x3 x4 s : exec (.sfmul x1 x2 x3 x4) s = execSfmul x1 x2 x3 x4 s := rfl
@[simp] theorem exec_sffma x1 x2 x3 x4 s : exec (.sffma x1 x2 x3 x4) s = execSffma x1 x2 x3 x4 s := rfl
@[simp] theorem exec_sfmin x1 x2 x3 x4 s : exec (.sfmin x1 x2 x3 x4) s = execSfmin x1 x2 x3 x4 s := rfl
@[simp] theorem exec_sfmax x1 x2 x3 x4 s : exec (.sfmax x1 x2 x3 x4) s = execSfmax x1 x2 x3 x4 s := rfl
@[simp] theorem exec_sfcvt x1 x2 x3 x4 x5 s : exec (.sfcvt x1 x2 x3 x4 x5) s = execSfcvt x1 x2 x3 x4 x5 s := rfl
@[simp] theorem exec_drawm x1 x2 x3 s : exec (.drawm x1 x2 x3) s = execDrawm x1 x2 x3 s := rfl
@[simp] theorem exec_sfexp2 x1 x2 x3 s : exec (.sfexp2 x1 x2 x3) s = execSfexp2 x1 x2 x3 s := rfl
@[simp] theorem exec_smovi x1 x2 x3 s : exec (.smovi x1 x2 x3) s = execSmovi x1 x2 x3 s := rfl
@[simp] theorem exec_sori x1 x2 x3 s : exec (.sori x1 x2 x3) s = execSori x1 x2 x3 s := rfl
@[simp] theorem exec_saddi x1 x2 x3 s : exec (.saddi x1 x2 x3) s = execSaddi x1 x2 x3 s := rfl
@[simp] theorem exec_scmpi x1 x2 x3 s : exec (.scmpi x1 x2 x3) s = execScmpi x1 x2 x3 s := rfl
@[simp] theorem exec_br x1 x2 x3 x4 x5 s : exec (.br x1 x2 x3 x4 x5) s = execBr x1 x2 x3 x4 x5 s := rfl
@[simp] theorem exec_jmp x1 x2 s : exec (.jmp x1 x2) s = execJmp x1 x2 s := rfl
@[simp] theorem exec_call x1 x2 s : exec (.call x1 x2) s = execCall x1 x2 s := rfl
@[simp] theorem exec_ret x1 s : exec (.ret x1) s = execRet x1 s := rfl
@[simp] theorem exec_brx x1 x2 s : exec (.brx x1 x2) s = execBrx x1 x2 s := rfl
@[simp] theorem exec_exit x1 s : exec (.exit x1) s = execExit x1 s := rfl
@[simp] theorem exec_join x1 x2 s : exec (.join x1 x2) s = execJoin x1 x2 s := rfl
@[simp] theorem exec_leave x1 x2 s : exec (.leave x1 x2) s = execLeave x1 x2 s := rfl
@[simp] theorem exec_waitm x1 x2 s : exec (.waitm x1 x2) s = execWaitm x1 x2 s := rfl
@[simp] theorem exec_sleep x1 x2 x3 s : exec (.sleep x1 x2 x3) s = execSleep x1 x2 x3 s := rfl
@[simp] theorem exec_yield x1 s : exec (.yield x1) s = execYield x1 s := rfl
@[simp] theorem exec_nop x1 s : exec (.nop x1) s = execNop x1 s := rfl
@[simp] theorem exec_trap x1 x2 s : exec (.trap x1 x2) s = execTrap x1 x2 s := rfl
@[simp] theorem exec_tret x1 s : exec (.tret x1) s = execTret x1 s := rfl
@[simp] theorem exec_tretAbort x1 s : exec (.tretAbort x1) s = execTretAbort x1 s := rfl
@[simp] theorem exec_brk x1 x2 s : exec (.brk x1 x2) s = execBrk x1 x2 s := rfl
@[simp] theorem exec_isync x1 s : exec (.isync x1) s = execIsync x1 s := rfl
@[simp] theorem exec_ppt x1 s : exec (.ppt x1) s = execPpt x1 s := rfl
@[simp] theorem exec_idem x1 s : exec (.idem x1) s = execIdem x1 s := rfl
@[simp] theorem exec_idemend x1 s : exec (.idemend x1) s = execIdemend x1 s := rfl
@[simp] theorem exec_hintLitlo x1 s : exec (.hintLitlo x1) s = execHintLitlo x1 s := rfl
@[simp] theorem exec_hintLithi x1 s : exec (.hintLithi x1) s = execHintLithi x1 s := rfl
@[simp] theorem exec_hintGuard x1 x2 s : exec (.hintGuard x1 x2) s = execHintGuard x1 x2 s := rfl
@[simp] theorem exec_hintMod x1 x2 x3 x4 x5 x6 x7 x8 x9 s : exec (.hintMod x1 x2 x3 x4 x5 x6 x7 x8 x9) s = execHintMod x1 x2 x3 x4 x5 x6 x7 x8 x9 s := rfl
@[simp] theorem exec_hintRnd x1 s : exec (.hintRnd x1) s = execHintRnd x1 s := rfl
@[simp] theorem exec_hintScope x1 s : exec (.hintScope x1) s = execHintScope x1 s := rfl
@[simp] theorem exec_hintCache x1 s : exec (.hintCache x1) s = execHintCache x1 s := rfl
@[simp] theorem exec_hintGap x1 s : exec (.hintGap x1) s = execHintGap x1 s := rfl
@[simp] theorem exec_vld x1 x2 x3 x4 x5 s : exec (.vld x1 x2 x3 x4 x5) s = execVld x1 x2 x3 x4 x5 s := rfl
@[simp] theorem exec_vpref x1 x2 x3 s : exec (.vpref x1 x2 x3) s = execVpref x1 x2 x3 s := rfl
@[simp] theorem exec_vlds x1 x2 x3 x4 x5 s : exec (.vlds x1 x2 x3 x4 x5) s = execVlds x1 x2 x3 x4 x5 s := rfl
@[simp] theorem exec_vldc x1 x2 x3 x4 x5 s : exec (.vldc x1 x2 x3 x4 x5) s = execVldc x1 x2 x3 x4 x5 s := rfl
@[simp] theorem exec_vldt x1 x2 x3 x4 x5 s : exec (.vldt x1 x2 x3 x4 x5) s = execVldt x1 x2 x3 x4 x5 s := rfl
@[simp] theorem exec_vst x1 x2 x3 x4 x5 s : exec (.vst x1 x2 x3 x4 x5) s = execVst x1 x2 x3 x4 x5 s := rfl
@[simp] theorem exec_vsts x1 x2 x3 x4 x5 s : exec (.vsts x1 x2 x3 x4 x5) s = execVsts x1 x2 x3 x4 x5 s := rfl
@[simp] theorem exec_vpwb x1 x2 x3 s : exec (.vpwb x1 x2 x3) s = execVpwb x1 x2 x3 s := rfl
@[simp] theorem exec_vatom x1 x2 x3 x4 x5 s : exec (.vatom x1 x2 x3 x4 x5) s = execVatom x1 x2 x3 x4 x5 s := rfl
@[simp] theorem exec_vatoms x1 x2 x3 x4 x5 s : exec (.vatoms x1 x2 x3 x4 x5) s = execVatoms x1 x2 x3 x4 x5 s := rfl
@[simp] theorem exec_vcas x1 x2 x3 x4 s : exec (.vcas x1 x2 x3 x4) s = execVcas x1 x2 x3 x4 s := rfl
@[simp] theorem exec_vatomsCas x1 x2 x3 x4 s : exec (.vatomsCas x1 x2 x3 x4) s = execVatomsCas x1 x2 x3 x4 s := rfl
@[simp] theorem exec_bfadd x1 x2 x3 x4 s : exec (.bfadd x1 x2 x3 x4) s = execBfadd x1 x2 x3 x4 s := rfl
@[simp] theorem exec_sld x1 x2 x3 x4 x5 s : exec (.sld x1 x2 x3 x4 x5) s = execSld x1 x2 x3 x4 x5 s := rfl
@[simp] theorem exec_sst x1 x2 x3 x4 x5 s : exec (.sst x1 x2 x3 x4 x5) s = execSst x1 x2 x3 x4 x5 s := rfl
@[simp] theorem exec_sldk x1 x2 x3 x4 x5 s : exec (.sldk x1 x2 x3 x4 x5) s = execSldk x1 x2 x3 x4 x5 s := rfl
@[simp] theorem exec_satom x1 x2 x3 x4 x5 s : exec (.satom x1 x2 x3 x4 x5) s = execSatom x1 x2 x3 x4 x5 s := rfl
@[simp] theorem exec_scas x1 x2 x3 x4 s : exec (.scas x1 x2 x3 x4) s = execScas x1 x2 x3 x4 s := rfl
@[simp] theorem exec_vrfl x1 x2 x3 s : exec (.vrfl x1 x2 x3) s = execVrfl x1 x2 x3 s := rfl
@[simp] theorem exec_vrdln x1 x2 x3 x4 s : exec (.vrdln x1 x2 x3 x4) s = execVrdln x1 x2 x3 x4 s := rfl
@[simp] theorem exec_vwrln x1 x2 x3 x4 s : exec (.vwrln x1 x2 x3 x4) s = execVwrln x1 x2 x3 x4 s := rfl
@[simp] theorem exec_vmatch x1 x2 x3 s : exec (.vmatch x1 x2 x3) s = execVmatch x1 x2 x3 s := rfl
@[simp] theorem exec_vballot x1 x2 x3 s : exec (.vballot x1 x2 x3) s = execVballot x1 x2 x3 s := rfl
@[simp] theorem exec_vredu x1 x2 x3 x4 x5 s : exec (.vredu x1 x2 x3 x4 x5) s = execVredu x1 x2 x3 x4 x5 s := rfl
@[simp] theorem exec_vscan x1 x2 x3 x4 x5 x6 s : exec (.vscan x1 x2 x3 x4 x5 x6) s = execVscan x1 x2 x3 x4 x5 x6 s := rfl
@[simp] theorem exec_vdraw x1 x2 x3 x4 s : exec (.vdraw x1 x2 x3 x4) s = execVdraw x1 x2 x3 x4 s := rfl
@[simp] theorem exec_mand x1 x2 x3 x4 s : exec (.mand x1 x2 x3 x4) s = execMand x1 x2 x3 x4 s := rfl
@[simp] theorem exec_mor x1 x2 x3 x4 s : exec (.mor x1 x2 x3 x4) s = execMor x1 x2 x3 x4 s := rfl
@[simp] theorem exec_mxor x1 x2 x3 x4 s : exec (.mxor x1 x2 x3 x4) s = execMxor x1 x2 x3 x4 s := rfl
@[simp] theorem exec_mandn x1 x2 x3 x4 s : exec (.mandn x1 x2 x3 x4) s = execMandn x1 x2 x3 x4 s := rfl
@[simp] theorem exec_mmov x1 x2 x3 s : exec (.mmov x1 x2 x3) s = execMmov x1 x2 x3 s := rfl
@[simp] theorem exec_mpopc x1 x2 x3 s : exec (.mpopc x1 x2 x3) s = execMpopc x1 x2 x3 s := rfl
@[simp] theorem exec_mfirst x1 x2 x3 s : exec (.mfirst x1 x2 x3) s = execMfirst x1 x2 x3 s := rfl
@[simp] theorem exec_mset x1 x2 x3 s : exec (.mset x1 x2 x3) s = execMset x1 x2 x3 s := rfl
@[simp] theorem exec_mget x1 x2 x3 s : exec (.mget x1 x2 x3) s = execMget x1 x2 x3 s := rfl
@[simp] theorem exec_fence x1 x2 x3 s : exec (.fence x1 x2 x3) s = execFence x1 x2 x3 s := rfl
@[simp] theorem exec_qfence x1 x2 s : exec (.qfence x1 x2) s = execQfence x1 x2 s := rfl
@[simp] theorem exec_pfence x1 s : exec (.pfence x1) s = execPfence x1 s := rfl
@[simp] theorem exec_barinit x1 x2 s : exec (.barinit x1 x2) s = execBarinit x1 x2 s := rfl
@[simp] theorem exec_bararr x1 x2 s : exec (.bararr x1 x2) s = execBararr x1 x2 s := rfl
@[simp] theorem exec_bartest x1 x2 x3 x4 s : exec (.bartest x1 x2 x3 x4) s = execBartest x1 x2 x3 x4 s := rfl
@[simp] theorem exec_barwait x1 x2 x3 s : exec (.barwait x1 x2 x3) s = execBarwait x1 x2 x3 s := rfl
@[simp] theorem exec_barinv x1 x2 s : exec (.barinv x1 x2) s = execBarinv x1 x2 s := rfl
@[simp] theorem exec_wbar x1 x2 x3 s : exec (.wbar x1 x2 x3) s = execWbar x1 x2 x3 s := rfl
@[simp] theorem exec_cpy x1 x2 s : exec (.cpy x1 x2) s = execCpy x1 x2 s := rfl
@[simp] theorem exec_cpym x1 x2 x3 s : exec (.cpym x1 x2 x3) s = execCpym x1 x2 x3 s := rfl
@[simp] theorem exec_xfer x1 x2 s : exec (.xfer x1 x2) s = execXfer x1 x2 s := rfl
@[simp] theorem exec_coll x1 x2 s : exec (.coll x1 x2) s = execColl x1 x2 s := rfl
@[simp] theorem exec_signal x1 x2 x3 s : exec (.signal x1 x2 x3) s = execSignal x1 x2 x3 s := rfl
@[simp] theorem exec_tagc x1 x2 x3 s : exec (.tagc x1 x2 x3) s = execTagc x1 x2 x3 s := rfl
@[simp] theorem exec_tagq x1 x2 x3 s : exec (.tagq x1 x2 x3) s = execTagq x1 x2 x3 s := rfl
@[simp] theorem exec_oclaim x1 x2 s : exec (.oclaim x1 x2) s = execOclaim x1 x2 s := rfl
@[simp] theorem exec_orel x1 x2 s : exec (.orel x1 x2) s = execOrel x1 x2 s := rfl
@[simp] theorem exec_oload x1 x2 s : exec (.oload x1 x2) s = execOload x1 x2 s := rfl
@[simp] theorem exec_aclaim x1 x2 s : exec (.aclaim x1 x2) s = execAclaim x1 x2 s := rfl
@[simp] theorem exec_arel x1 x2 s : exec (.arel x1 x2) s = execArel x1 x2 s := rfl
@[simp] theorem exec_mma x1 x2 s : exec (.mma x1 x2) s = execMma x1 x2 s := rfl
@[simp] theorem exec_mzero x1 x2 s : exec (.mzero x1 x2) s = execMzero x1 x2 s := rfl
@[simp] theorem exec_mstore x1 x2 s : exec (.mstore x1 x2) s = execMstore x1 x2 s := rfl
@[simp] theorem exec_mwait x1 x2 s : exec (.mwait x1 x2) s = execMwait x1 x2 s := rfl
@[simp] theorem exec_spawn x1 x2 s : exec (.spawn x1 x2) s = execSpawn x1 x2 s := rfl
@[simp] theorem exec_fbind x1 x2 s : exec (.fbind x1 x2) s = execFbind x1 x2 s := rfl
@[simp] theorem exec_fset x1 x2 x3 s : exec (.fset x1 x2 x3) s = execFset x1 x2 x3 s := rfl
@[simp] theorem exec_fwait x1 x2 x3 s : exec (.fwait x1 x2 x3) s = execFwait x1 x2 x3 s := rfl
@[simp] theorem exec_qres x1 x2 x3 s : exec (.qres x1 x2 x3) s = execQres x1 x2 x3 s := rfl
@[simp] theorem exec_qpub x1 x2 x3 s : exec (.qpub x1 x2 x3) s = execQpub x1 x2 x3 s := rfl
@[simp] theorem exec_qtake x1 x2 x3 s : exec (.qtake x1 x2 x3) s = execQtake x1 x2 x3 s := rfl
@[simp] theorem exec_qdone x1 x2 x3 s : exec (.qdone x1 x2 x3) s = execQdone x1 x2 x3 s := rfl
@[simp] theorem exec_qclose x1 x2 s : exec (.qclose x1 x2) s = execQclose x1 x2 s := rfl
@[simp] theorem exec_publ x1 s : exec (.publ x1) s = execPubl x1 s := rfl
@[simp] theorem exec_center x1 x2 x3 s : exec (.center x1 x2 x3) s = execCenter x1 x2 x3 s := rfl
@[simp] theorem exec_cstep x1 x2 x3 s : exec (.cstep x1 x2 x3) s = execCstep x1 x2 x3 s := rfl
@[simp] theorem exec_cexit x1 x2 x3 s : exec (.cexit x1 x2 x3) s = execCexit x1 x2 x3 s := rfl
@[simp] theorem exec_cres x1 x2 x3 s : exec (.cres x1 x2 x3) s = execCres x1 x2 x3 s := rfl
@[simp] theorem exec_smfr x1 x2 x3 s : exec (.smfr x1 x2 x3) s = execSmfr x1 x2 x3 s := rfl
@[simp] theorem exec_smto x1 x2 x3 s : exec (.smto x1 x2 x3) s = execSmto x1 x2 x3 s := rfl
@[simp] theorem exec_scan x1 x2 s : exec (.scan x1 x2) s = execScan x1 x2 s := rfl
@[simp] theorem exec_broodTimeout x1 s : exec (.broodTimeout x1) s = execBroodTimeout x1 s := rfl
@[simp] theorem exec_capsuleLeaseExpiry x1 s : exec (.capsuleLeaseExpiry x1) s = execCapsuleLeaseExpiry x1 s := rfl
@[simp] theorem exec_sleepTimeout x1 s : exec (.sleepTimeout x1) s = execSleepTimeout x1 s := rfl
@[simp] theorem exec_wbarSpill x1 x2 s : exec (.wbarSpill x1 x2) s = execWbarSpill x1 x2 s := rfl
@[simp] theorem exec_barrierByteCount x1 x2 s : exec (.barrierByteCount x1 x2) s = execBarrierByteCount x1 x2 s := rfl
@[simp] theorem exec_copyCommandStart x1 x2 s : exec (.copyCommandStart x1 x2) s = execCopyCommandStart x1 x2 s := rfl
@[simp] theorem exec_copyPortionWrite x1 x2 x3 s : exec (.copyPortionWrite x1 x2 x3) s = execCopyPortionWrite x1 x2 x3 s := rfl
@[simp] theorem exec_oloadStart x1 x2 s : exec (.oloadStart x1 x2) s = execOloadStart x1 x2 s := rfl
@[simp] theorem exec_claimZeroFillDone x1 s : exec (.claimZeroFillDone x1) s = execClaimZeroFillDone x1 s := rfl
@[simp] theorem exec_matrixGrant x1 x2 s : exec (.matrixGrant x1 x2) s = execMatrixGrant x1 x2 s := rfl
@[simp] theorem exec_passComplete x1 s : exec (.passComplete x1) s = execPassComplete x1 s := rfl
@[simp] theorem exec_mzeroComplete x1 s : exec (.mzeroComplete x1) s = execMzeroComplete x1 s := rfl
@[simp] theorem exec_mstoreComplete x1 s : exec (.mstoreComplete x1) s = execMstoreComplete x1 s := rfl
@[simp] theorem exec_tierCopy x1 x2 s : exec (.tierCopy x1 x2) s = execTierCopy x1 x2 s := rfl
@[simp] theorem exec_tierFetch x1 x2 s : exec (.tierFetch x1 x2) s = execTierFetch x1 x2 s := rfl
@[simp] theorem exec_tierEvict x1 x2 s : exec (.tierEvict x1 x2) s = execTierEvict x1 x2 s := rfl
@[simp] theorem exec_tileMoveComplete x1 x2 s : exec (.tileMoveComplete x1 x2) s = execTileMoveComplete x1 x2 s := rfl
@[simp] theorem exec_tagcPerform x1 x2 s : exec (.tagcPerform x1 x2) s = execTagcPerform x1 x2 s := rfl
@[simp] theorem exec_tagqPerform x1 x2 s : exec (.tagqPerform x1 x2) s = execTagqPerform x1 x2 s := rfl
@[simp] theorem exec_policyVictimChoose x1 s : exec (.policyVictimChoose x1) s = execPolicyVictimChoose x1 s := rfl
@[simp] theorem exec_completionRecordWrite x1 x2 s : exec (.completionRecordWrite x1 x2) s = execCompletionRecordWrite x1 x2 s := rfl
@[simp] theorem exec_collSum x1 x2 x3 s : exec (.collSum x1 x2 x3) s = execCollSum x1 x2 x3 s := rfl
@[simp] theorem exec_collMax x1 x2 x3 s : exec (.collMax x1 x2 x3) s = execCollMax x1 x2 x3 s := rfl
@[simp] theorem exec_collMin x1 x2 x3 s : exec (.collMin x1 x2 x3) s = execCollMin x1 x2 x3 s := rfl
@[simp] theorem exec_collDraw x1 x2 x3 s : exec (.collDraw x1 x2 x3) s = execCollDraw x1 x2 x3 s := rfl
@[simp] theorem exec_collBarrier x1 x2 x3 s : exec (.collBarrier x1 x2 x3) s = execCollBarrier x1 x2 x3 s := rfl
@[simp] theorem exec_collBroadcast x1 x2 x3 s : exec (.collBroadcast x1 x2 x3) s = execCollBroadcast x1 x2 x3 s := rfl
@[simp] theorem exec_collAllgather x1 x2 x3 s : exec (.collAllgather x1 x2 x3) s = execCollAllgather x1 x2 x3 s := rfl
@[simp] theorem exec_collRoundComplete x1 x2 s : exec (.collRoundComplete x1 x2) s = execCollRoundComplete x1 x2 s := rfl
@[simp] theorem exec_collTimeout x1 x2 s : exec (.collTimeout x1 x2) s = execCollTimeout x1 x2 s := rfl
@[simp] theorem exec_remoteStorePerform x1 s : exec (.remoteStorePerform x1) s = execRemoteStorePerform x1 s := rfl
@[simp] theorem exec_remoteAck x1 s : exec (.remoteAck x1) s = execRemoteAck x1 s := rfl
@[simp] theorem exec_remoteFailure x1 s : exec (.remoteFailure x1) s = execRemoteFailure x1 s := rfl
@[simp] theorem exec_inboundAccess x1 x2 x3 x4 s : exec (.inboundAccess x1 x2 x3 x4) s = execInboundAccess x1 x2 x3 x4 s := rfl
@[simp] theorem exec_flitReplay x1 s : exec (.flitReplay x1) s = execFlitReplay x1 s := rfl
@[simp] theorem exec_portDown x1 s : exec (.portDown x1) s = execPortDown x1 s := rfl
@[simp] theorem exec_mailboxWrite x1 x2 x3 s : exec (.mailboxWrite x1 x2 x3) s = execMailboxWrite x1 x2 x3 s := rfl
@[simp] theorem exec_mailboxRead x1 x2 x3 s : exec (.mailboxRead x1 x2 x3) s = execMailboxRead x1 x2 x3 s := rfl
@[simp] theorem exec_persistGroupEnter x1 s : exec (.persistGroupEnter x1) s = execPersistGroupEnter x1 s := rfl
@[simp] theorem exec_wbqDrainWrite x1 s : exec (.wbqDrainWrite x1) s = execWbqDrainWrite x1 s := rfl
@[simp] theorem exec_scrub x1 x2 s : exec (.scrub x1 x2) s = execScrub x1 x2 s := rfl
@[simp] theorem exec_launchAccept x1 x2 s : exec (.launchAccept x1 x2) s = execLaunchAccept x1 x2 s := rfl
@[simp] theorem exec_distribute x1 x2 s : exec (.distribute x1 x2) s = execDistribute x1 x2 s := rfl
@[simp] theorem exec_place x1 x2 s : exec (.place x1 x2) s = execPlace x1 x2 s := rfl
@[simp] theorem exec_agingExpiry x1 s : exec (.agingExpiry x1) s = execAgingExpiry x1 s := rfl
@[simp] theorem exec_launchComplete x1 x2 s : exec (.launchComplete x1 x2) s = execLaunchComplete x1 x2 s := rfl
@[simp] theorem exec_teamSave x1 s : exec (.teamSave x1) s = execTeamSave x1 s := rfl
@[simp] theorem exec_teamDiscard x1 s : exec (.teamDiscard x1) s = execTeamDiscard x1 s := rfl
@[simp] theorem exec_preemptDeadlineExpiry x1 s : exec (.preemptDeadlineExpiry x1) s = execPreemptDeadlineExpiry x1 s := rfl
@[simp] theorem exec_partRestore x1 x2 x3 x4 x5 s : exec (.partRestore x1 x2 x3 x4 x5) s = execPartRestore x1 x2 x3 x4 x5 s := rfl
@[simp] theorem exec_ctxEnable x1 s : exec (.ctxEnable x1) s = execCtxEnable x1 s := rfl
@[simp] theorem exec_ctxDisable x1 s : exec (.ctxDisable x1) s = execCtxDisable x1 s := rfl
@[simp] theorem exec_ctxPreempt x1 s : exec (.ctxPreempt x1) s = execCtxPreempt x1 s := rfl
@[simp] theorem exec_ctxResume x1 s : exec (.ctxResume x1) s = execCtxResume x1 s := rfl
@[simp] theorem exec_ctxReset x1 s : exec (.ctxReset x1) s = execCtxReset x1 s := rfl
@[simp] theorem exec_doorbell x1 s : exec (.doorbell x1) s = execDoorbell x1 s := rfl
@[simp] theorem exec_priocmd x1 s : exec (.priocmd x1) s = execPriocmd x1 s := rfl
@[simp] theorem exec_invalPage x1 x2 s : exec (.invalPage x1 x2) s = execInvalPage x1 x2 s := rfl
@[simp] theorem exec_invalContext x1 s : exec (.invalContext x1) s = execInvalContext x1 s := rfl
@[simp] theorem exec_invalAll s : exec .invalAll s = execInvalAll s := rfl
@[simp] theorem exec_invalidationPerformed s : exec .invalidationPerformed s = execInvalidationPerformed s := rfl
@[simp] theorem exec_parkRequest x1 s : exec (.parkRequest x1) s = execParkRequest x1 s := rfl
@[simp] theorem exec_parkCancel x1 s : exec (.parkCancel x1) s = execParkCancel x1 s := rfl
@[simp] theorem exec_unpark x1 s : exec (.unpark x1) s = execUnpark x1 s := rfl
@[simp] theorem exec_diePowerDown x1 s : exec (.diePowerDown x1) s = execDiePowerDown x1 s := rfl
@[simp] theorem exec_unparkComplete x1 s : exec (.unparkComplete x1) s = execUnparkComplete x1 s := rfl
@[simp] theorem exec_pceilWrite x1 s : exec (.pceilWrite x1) s = execPceilWrite x1 s := rfl
@[simp] theorem exec_pstateWrite x1 s : exec (.pstateWrite x1) s = execPstateWrite x1 s := rfl
@[simp] theorem exec_pstateTransitionDone s : exec .pstateTransitionDone s = execPstateTransitionDone s := rfl
@[simp] theorem exec_powerMeasure x1 x2 x3 s : exec (.powerMeasure x1 x2 x3) s = execPowerMeasure x1 x2 x3 s := rfl
@[simp] theorem exec_featacceptWrite x1 s : exec (.featacceptWrite x1) s = execFeatacceptWrite x1 s := rfl
@[simp] theorem exec_attcmd x1 s : exec (.attcmd x1) s = execAttcmd x1 s := rfl
@[simp] theorem exec_quoteComplete s : exec .quoteComplete s = execQuoteComplete s := rfl
@[simp] theorem exec_tierpoolWrite x1 x2 s : exec (.tierpoolWrite x1 x2) s = execTierpoolWrite x1 x2 s := rfl
@[simp] theorem exec_tierpolWrite x1 x2 s : exec (.tierpolWrite x1 x2) s = execTierpolWrite x1 x2 s := rfl
@[simp] theorem exec_errstatWrite x1 s : exec (.errstatWrite x1) s = execErrstatWrite x1 s := rfl
@[simp] theorem exec_cmapWrite x1 x2 x3 s : exec (.cmapWrite x1 x2 x3) s = execCmapWrite x1 x2 x3 s := rfl
@[simp] theorem exec_devctlReset x1 s : exec (.devctlReset x1) s = execDevctlReset x1 s := rfl
@[simp] theorem exec_powerOn s : exec .powerOn s = execPowerOn s := rfl
@[simp] theorem exec_registerWrite x1 x2 x3 s : exec (.registerWrite x1 x2 x3) s = execRegisterWrite x1 x2 x3 s := rfl
@[simp] theorem exec_powerLoss s : exec .powerLoss s = execPowerLoss s := rfl
@[simp] theorem exec_drainComplete s : exec .drainComplete s = execDrainComplete s := rfl
@[simp] theorem exec_holdupMeasure x1 s : exec (.holdupMeasure x1) s = execHoldupMeasure x1 s := rfl
@[simp] theorem exec_scanDrainDone s : exec .scanDrainDone s = execScanDrainDone s := rfl
@[simp] theorem exec_scanRunDone x1 s : exec (.scanRunDone x1) s = execScanRunDone x1 s := rfl
@[simp] theorem exec_scanDrainTimeout s : exec .scanDrainTimeout s = execScanDrainTimeout s := rfl
@[simp] theorem exec_snapCaptureStart x1 s : exec (.snapCaptureStart x1) s = execSnapCaptureStart x1 s := rfl
@[simp] theorem exec_cutClose s : exec .cutClose s = execCutClose s := rfl
@[simp] theorem exec_tileCapture s : exec .tileCapture s = execTileCapture s := rfl
@[simp] theorem exec_cowCopy x1 s : exec (.cowCopy x1) s = execCowCopy x1 s := rfl
@[simp] theorem exec_stagedTileWrite s : exec .stagedTileWrite s = execStagedTileWrite s := rfl
@[simp] theorem exec_shardsDurable x1 s : exec (.shardsDurable x1) s = execShardsDurable x1 s := rfl
@[simp] theorem exec_recoverFence s : exec .recoverFence s = execRecoverFence s := rfl
@[simp] theorem exec_recoverElect s : exec .recoverElect s = execRecoverElect s := rfl
@[simp] theorem exec_recoverRebuild x1 s : exec (.recoverRebuild x1) s = execRecoverRebuild x1 s := rfl
@[simp] theorem exec_recoverRemap s : exec .recoverRemap s = execRecoverRemap s := rfl
@[simp] theorem exec_recoverResume s : exec .recoverResume s = execRecoverResume s := rfl
@[simp] theorem exec_recoverStepDone s : exec .recoverStepDone s = execRecoverStepDone s := rfl
@[simp] theorem exec_groupTableWrite x1 x2 x3 s : exec (.groupTableWrite x1 x2 x3) s = execGroupTableWrite x1 x2 x3 s := rfl
@[simp] theorem exec_peerTableWrite x1 x2 x3 s : exec (.peerTableWrite x1 x2 x3) s = execPeerTableWrite x1 x2 x3 s := rfl

end Sys2Proof.Machine
end

