-- ==== Sys2Proof/Laws/Ops.lean ====
section
/-! SUPPORT. What the shared operations of an issue can do, said once (Ops.lean). -/

namespace Sys2Proof.Machine

/-- What `issues` says, clause by clause. -/
theorem issues_iff {i : Instr} {s : State} {w : Wave} : issues i s w = true ↔
    s.waves.get? s.issue.slot = some w ∧ i.wf = true ∧ Instr.legal i w s.issue.held = true ∧ s.stall = [] ∧
    (s.issue.resumed = true ∨ w.awaits (Instr.reads i s.issue.held (Instr.drawsRsr i (s.issue.mode w))) = false) ∧
    w.limited i s.issue.resumed = false ∧
    (w.chk = false ∨ s.issue.resumed = true ∨ w.early (Instr.reads i s.issue.held (Instr.drawsRsr i (s.issue.mode w))) = false) := by
  simp [issues, and_assoc, or_assoc]

/-- Counting the word of a capsule step changes only the wave. -/
theorem countWord_issue (s : State) (w : Wave) : (s.countWord w).issue = s.issue := by
  unfold State.countWord; split <;> rfl

theorem countWord_stall (s : State) (w : Wave) : (s.countWord w).stall = s.stall := by
  unfold State.countWord; split <;> rfl

/-- A word that issues is performed as its body says, where the body meets no stall and does not wait. -/
theorem issueWord_performs {i : Instr} {q : Sched} {s : State} {w : Wave} {body : State → Wave → Did} (h : issues i s w = true)
    (hs : (body (s.countWord w) w).state.stall = []) (hw : ∀ t, body (s.countWord w) w ≠ .wait t) :
    issueWord q i s body = .next (s.after q (body (s.countWord w) w)) := by
  obtain ⟨hg, hwf, hl, -, ha, hlim, he⟩ := issues_iff.1 h
  have hd : ((body (s.countWord w) w).unstalled (s.countWord w) s.issue.slot).uncounted s.issue.slot w = body (s.countWord w) w := by
    rw [Did.unstalled, if_pos hs]
    unfold Did.uncounted
    split
    · exact absurd ‹_› (hw _)
    · rfl
  have hp : s.perform i w body = body (s.countWord w) w := by
    unfold State.perform
    simp only [hwf, hl, Bool.not_true, Bool.false_and, Bool.or_self, Bool.false_eq_true, if_false]
    rw [if_neg (by rcases ha with h | h <;> simp [h]), if_neg (by rcases he with h | h | h <;> simp [h])]
    simp only [hlim, Bool.false_eq_true, if_false]
    exact hd
  simp only [issueWord, hg, hp, State.after]

/-- A word whose body is always done. -/
theorem issueWord_completes {i : Instr} {q : Sched} {s : State} {w : Wave} {g : State → Wave → State} (h : issues i s w = true)
    (hs : (g (s.countWord w) w).stall = []) : issueWord q i s (fun t x => .done (g t x)) = .next (s.after q (.done (g (s.countWord w) w))) :=
  issueWord_performs h hs (by simp)

/-- A word whose body is d, where d meets no stall and does not wait. -/
theorem issueWord_does {i : Instr} {q : Sched} {s : State} {w : Wave} {body : State → Wave → Did} {d : Did} (h : issues i s w = true)
    (hb : body (s.countWord w) w = d) (hs : d.state.stall = []) (hw : ∀ t, d ≠ .wait t) :
    issueWord q i s body = .next (s.after q d) := by
  subst hb
  exact issueWord_performs h hs hw

/-- A word that issues and waits: it is not counted in a capsule step. -/
theorem issueWord_waits {i : Instr} {q : Sched} {s t : State} {w : Wave} {body : State → Wave → Did} (h : issues i s w = true)
    (hb : body (s.countWord w) w = .wait t) (hs : t.stall = []) :
    issueWord q i s body = .next (s.after q ((Did.wait t).uncounted s.issue.slot w)) := by
  obtain ⟨hg, hwf, hl, -, ha, hlim, he⟩ := issues_iff.1 h
  have hd : ((body (s.countWord w) w).unstalled (s.countWord w) s.issue.slot) = .wait t := by
    rw [hb, Did.unstalled]; exact if_pos hs
  have hp : s.perform i w body = (Did.wait t).uncounted s.issue.slot w := by
    unfold State.perform
    simp only [hwf, hl, Bool.not_true, Bool.false_and, Bool.or_self, Bool.false_eq_true, if_false]
    rw [if_neg (by rcases ha with h | h <;> simp [h]), if_neg (by rcases he with h | h | h <;> simp [h])]
    simp only [hlim, Bool.false_eq_true, if_false, if_true, hd]
  simp only [issueWord, hg, hp, State.after]

/-- Outside the instructions of a capsule body, a word that issues is in none. -/
theorem issues_inBody {i : Instr} {s : State} {w : Wave} (h : issues i s w = true) (hc : Instr.inCapsule i = false) : w.inBody = false := by
  have hlim := (issues_iff.1 h).2.2.2.2.2.1
  unfold Wave.limited at hlim
  rw [hc] at hlim
  simpa using hlim

/-- A word that issues outside every capsule body, and waits. -/
theorem issueWord_waits_out {i : Instr} {q : Sched} {s t : State} {w : Wave} {body : State → Wave → Did} (h : issues i s w = true)
    (hc : Instr.inCapsule i = false) (hb : body (s.countWord w) w = .wait t) (hs : t.stall = []) :
    issueWord q i s body = .next (s.after q (.wait t)) := by
  rw [issueWord_waits h hb hs, Did.uncounted]
  simp only [issues_inBody h hc, Bool.false_eq_true, if_false]

/-! ### Traps -/

theorem orTrap_stall {s : State} {rs : List Raise} {d : Did} (h1 : s.stall = []) (h2 : d.state.stall = []) :
    (Did.orTrap s rs d).state.stall = [] := by
  unfold Did.orTrap; split <;> assumption

theorem orTrap_left_stall {s : State} {rs : List Raise} (h : s.stall = []) : (Did.orTrap s rs (.left s)).state.stall = [] :=
  orTrap_stall h h

theorem orTrap_wait {s : State} {rs : List Raise} {d : Did} (h : ∀ t, d ≠ .wait t) : ∀ t, Did.orTrap s rs d ≠ .wait t := by
  intro t; cases rs <;> simp_all [Did.orTrap]

/-! ### Accesses that are granted -/

/-- What `granted` says of the check. -/
theorem granted_iff {s u : State} {w : Wave} {va n align pa : Nat} {want : Want} {pte : DWord} :
    s.granted w va n align want = some (u, pa, pte) ↔
      s.check w.ctx (dieOf (clusOf (coreOf s.issue.slot))) (some (clusOf (coreOf s.issue.slot))) va n align want = (u, .ok (pa, pte)) := by
  unfold State.granted
  dsimp only
  generalize s.check w.ctx _ _ va n align want = r
  obtain ⟨r1, r2⟩ := r
  cases r2 with
  | error e => simp
  | ok p => obtain ⟨a, b⟩ := p; simp

theorem globalAccess_grants {t u : State} {w : Wave} {n : Nat} {want : Want} {race : Option Bool} {addr : List (Nat × Nat)} {as : List Acc}
    {body : State → List Acc → Did} (h : t.grants w n want race addr u as) : globalAccess t w n n 0 want race addr body = body u as := by
  obtain ⟨h1, h2⟩ := h
  unfold globalAccess
  simp only [h1, List.nil_append]
  cases race with
  | none => simp only at h2; rw [h2]; rfl
  | some b => simp only at h2; simp only [h2]; rfl

/-- The places of the lanes are the accesses. -/
theorem spadAccs_eq {f : Nat → Option (Nat × Nat)} : ∀ {addr : List (Nat × Nat)} {as : List SpadAcc},
    addr.map (fun x => f x.2) = as.map (fun a => some (a.core, a.off)) → addr.map (·.1) = as.map (·.lane) →
    (addr.filterMap fun x => (f x.2).map fun p => ({ lane := x.1, core := p.1, off := p.2 } : SpadAcc)) = as
  | [], [], _, _ => rfl
  | [], _ :: _, h, _ => by simp at h
  | _ :: _, [], h, _ => by simp at h
  | x :: t, a :: b, h, g => by
    simp only [List.map_cons, List.cons.injEq] at h g
    rw [List.filterMap_cons_some (b := a) (by simp [h.1, g.1]), spadAccs_eq h.2 g.2]

theorem spadAccess_grants {t : State} {w : Wave} {instr : Instr} {n : Nat} {store : Bool} {addr : List (Nat × Nat)} {as : List SpadAcc}
    {body : List SpadAcc → Did} (h : t.grantsSpad w n store addr as) : spadAccess t w instr n store addr body = body as := by
  obtain ⟨⟨x, hx, h1, h2, h3⟩, h4⟩ := h
  have hp : ∀ a, ((t.teams.get? w.team).bind fun y => t.spadPlace y (coreOf t.issue.slot) a) = t.spadPlace x (coreOf t.issue.slot) a := by
    intro a; rw [hx]; rfl
  have hb : ∀ y ∈ addr, (t.spadPlace x (coreOf t.issue.slot) y.2) ≠ none := by
    intro y hy
    have : t.spadPlace x (coreOf t.issue.slot) y.2 ∈ addr.map (fun x_1 => t.spadPlace x (coreOf t.issue.slot) x_1.2) := List.mem_map_of_mem hy
    rw [h1] at this
    obtain ⟨a, -, ha⟩ := List.mem_map.1 this
    rw [← ha]; simp
  unfold spadAccess
  simp only [hp, spadAccs_eq h1 h2]
  rw [List.filterMap_eq_nil_iff.2 (by
    intro y hy
    rw [if_neg (by simpa using h3 y hy)]
    cases hc : t.spadPlace x (coreOf t.issue.slot) y.2 with
    | none => exact absurd hc (hb y hy)
    | some p => rfl)]
  have e1 : (as.map fun a => (a.core, a.off / 128)).eraseDups.any (fun l => t.lineAbsent l.1 l.2) = false := by
    rw [List.any_eq_false]
    intro l hl
    rw [List.mem_eraseDups, List.mem_map] at hl
    obtain ⟨a, ha, rfl⟩ := hl
    simp [(h4 a ha).1]
  have e2 : (as.filter fun a => t.linePoisoned a.core (a.off / 128)) = [] := by
    rw [List.filter_eq_nil_iff]; intro a ha; simp [(h4 a ha).2.1]
  have e3 : (as.filter fun a => store && t.typedIn a.core a.off n && !t.linePoisoned a.core (a.off / 128)) = [] := by
    rw [List.filter_eq_nil_iff]
    intro a ha
    cases store with
    | false => simp
    | true => simp [(h4 a ha).2.2 rfl]
  simp only [Did.orTrap, e1, e2, e3, Bool.false_eq_true, if_false, List.map_nil, List.append_nil]

theorem spadObjectOver_at {t : State} {w : Wave} {instr : Instr} {va : Word} {align core off : Nat} {wr : Bool}
    {lines : Nat → Nat → List (Nat × Nat)} {body : Nat → Nat → Did} (h : t.objectAt w va.toNat align = some (core, off))
    (hl : ∀ l ∈ lines core off, t.lineAbsent l.1 l.2 = false ∧ t.linePoisoned l.1 l.2 = false) :
    spadObjectOver t w instr va align wr lines body = body core off := by
  unfold State.objectAt at h
  unfold spadObjectOver
  split at h
  · simp at h
  · rename_i ha
    rw [Option.filter_eq_some_iff] at h
    obtain ⟨h1, h2⟩ := h
    simp only [Bool.and_eq_true, Bool.not_eq_true'] at h2
    have e1 : ((lines core off).any fun l => t.lineAbsent l.1 l.2) = false := List.any_eq_false.2 fun l hm => by simp [(hl l hm).1]
    have e2 : ((lines core off).any fun l => t.linePoisoned l.1 l.2) = false := List.any_eq_false.2 fun l hm => by simp [(hl l hm).2]
    simp only [if_neg ha, h1, h2.1, h2.2, e1, e2, Bool.or_self, Bool.false_eq_true, if_false]

theorem spadObject_at {t : State} {w : Wave} {instr : Instr} {va : Word} {align core off : Nat} {wr : Bool} {body : Nat → Nat → Did}
    (h : t.objectAt w va.toNat align = some (core, off)) : spadObject t w instr va align wr body = body core off :=
  spadObjectOver_at h (by simp)

theorem releasing_released {t c : State} {w : Wave} {scope : Nat} {k : State → Did} (h : t.released w scope = some c) :
    releasing t w scope k = k c := by
  unfold State.released at h
  unfold releasing
  dsimp only at h ⊢
  generalize (if 1 ≤ scope then t.commit t.issue.slot else t) = x at h ⊢
  by_cases hc : x.stall = [] ∧ x.releaseWaits w scope = false
  · rw [if_pos hc] at h
    rw [if_neg (by simp [hc.1]), if_neg (by simp [hc.2]), Option.some.inj h]
  · rw [if_neg hc] at h
    simp at h

theorem memObject_bytes {t u : State} {w : Wave} {instr : Instr} {va n pa : Nat} {mside : Bool} {b : List Byte}
    {body : State → Nat → List Byte → Did} (h : t.objectBytes w va n mside = some (u, pa, b)) :
    memObject t w instr va n mside body = body u pa b := by
  unfold State.objectBytes at h
  split at h
  · simp at h
  · rename_i v pa' pte hg
    split at h
    · simp at h
    · rename_i hm
      rw [Option.map_eq_some_iff] at h
      obtain ⟨x, hx, hr⟩ := h
      obtain ⟨rfl, rfl, rfl⟩ := hr
      unfold memObject globalObject
      simp only [granted_iff.1 hg, if_neg hm, hx]

/-! ### Combs and cached rows (spec/13 R319, R320, R322) -/

@[simp] theorem fillIcache_stall (s : State) (c b : Nat) (bs : List Byte) : (s.fillIcache c b bs).stall = s.stall := by
  unfold State.fillIcache; dsimp only; split <;> rfl

@[simp] theorem fillL1_stall (s : State) (c r : Nat) (bs : List Byte) : (s.fillL1 c r bs).stall = s.stall := by
  unfold State.fillL1; dsimp only; split <;> rfl

/-- Writing a comb back changes no byte of the coherent image. -/
theorem writeBack_side (s : State) (k : Nat) : (s.writeBack k).side = s.side ∧ (s.writeBack k).stall = s.stall ∧ (s.writeBack k).mem = s.mem := by
  unfold State.writeBack; dsimp only; repeat' split
  all_goals exact ⟨rfl, rfl, rfl⟩

/-- Evicting a comb changes only L2, the dirty lists, the marks, the tags, the frames and SCM. -/
theorem cleanComb_side (s : State) (k : Nat) : (s.cleanComb k).side = s.side ∧ (s.cleanComb k).stall = s.stall ∧ (s.cleanComb k).mem = s.mem := by
  unfold State.cleanComb; split
  · exact ⟨rfl, rfl, rfl⟩
  · exact writeBack_side s k

theorem makeWay_side (s : State) (n : Nat) : (s.makeWay n).side = s.side ∧ (s.makeWay n).mem = s.mem := by
  unfold State.makeWay; dsimp only; split
  · exact ⟨rfl, rfl⟩
  · split
    · exact ⟨rfl, rfl⟩
    · exact ⟨rfl, rfl⟩
    · exact ⟨(cleanComb_side _ _).1, (cleanComb_side _ _).2.2⟩

/-- Fetching a comb changes no byte of memory. -/
theorem fetchComb_mem (s : State) (k : Nat) : (s.fetchComb k).mem = s.mem ∧ (s.fetchComb k).side = s.side := by
  unfold State.fetchComb; split
  · exact ⟨rfl, rfl⟩
  · exact ⟨(makeWay_side s _).2, (makeWay_side s _).1⟩

theorem mem_addNat (k : Nat) (l : List Nat) : k ∈ addNat k l := by
  induction l with
  | nil => simp [addNat]
  | cons j t ih => simp only [addNat]; split <;> [simp; (split <;> simp_all)]

/-- A comb that was fetched, or whose block is MSIDE, is fetched no more. -/
theorem fetchComb_twice (s : State) (k : Nat) : (s.fetchComb k).fetchComb k = s.fetchComb k := by
  have h : (s.fetchComb k).l2.contains k = true ∨ (s.fetchComb k).beside (k * 1024) = true := by
    by_cases hb : (s.l2.contains k || s.beside (k * 1024)) = true
    · have e : s.fetchComb k = s := by unfold State.fetchComb; rw [if_pos hb]
      rw [e]; simpa using hb
    · left
      unfold State.fetchComb
      rw [if_neg hb]
      simp [mem_addNat]
  rw [State.fetchComb, if_pos (by simpa using h)]

/-- A read of a comb waits only where its fetch does. -/
theorem combRead_stall (s : State) (pa : Nat) (col : Option Nat) :
    (s.combRead pa col).stall = if s.beside pa then s.stall else (s.fetchComb (pa / 1024)).stall := by
  unfold State.combRead; dsimp only; repeat' split
  all_goals rfl

/-- A second read of the comb does not wait where the first did not. -/
theorem combRead_again (s : State) (pa : Nat) (a b : Option Nat) (h : (s.combRead pa a).stall = []) : ((s.combRead pa a).combRead pa b).stall = [] := by
  rw [combRead_stall]
  split
  · exact h
  · rename_i hb
    have hs : s.beside pa = false := by
      by_contra hc
      rw [Bool.not_eq_false] at hc
      exact hb (by rw [State.combRead]; simp [hc])
    have e : ∃ t, s.combRead pa a = { s.fetchComb (pa / 1024) with combTags := t } := by
      unfold State.combRead; simp only [hs, Bool.false_eq_true, if_false]; split
      · exact ⟨_, rfl⟩
      · exact ⟨_, rfl⟩
    obtain ⟨t, e⟩ := e
    have hst : (s.fetchComb (pa / 1024)).stall = [] := by rw [e] at h; exact h
    have hk : ({ s.fetchComb (pa / 1024) with combTags := t } : State).fetchComb (pa / 1024) = { s.fetchComb (pa / 1024) with combTags := t } := by
      have := fetchComb_twice s (pa / 1024)
      unfold State.fetchComb at this ⊢
      by_cases hc : (s.l2.contains (pa / 1024) || s.beside (pa / 1024 * 1024)) = true
      · simp only [hc, if_true] at this ⊢; exact if_pos hc
      · simp only [hc] at this ⊢
        refine if_pos ?_
        simp [mem_addNat]
    rw [e, hk]
    exact hst

/-! ### Writers of the wave leave the rest alone -/

/-- No stall stands in a state whose word issues. -/
theorem issues_stall {i : Instr} {s : State} {w : Wave} (h : issues i s w = true) : (s.countWord w).stall = [] := by
  rw [countWord_stall]
  exact (issues_iff.1 h).2.2.2.1

@[simp] theorem modWave_stall (s : State) (n : Nat) (f : Wave → Wave) : (s.modWave n f).stall = s.stall := rfl
@[simp] theorem modWave_issue (s : State) (n : Nat) (f : Wave → Wave) : (s.modWave n f).issue = s.issue := rfl
@[simp] theorem modWave_mem (s : State) (n : Nat) (f : Wave → Wave) : (s.modWave n f).mem = s.mem := rfl
@[simp] theorem wave_stall (s : State) (f : Wave → Wave) : (s.wave f).stall = s.stall := rfl
@[simp] theorem wave_issue (s : State) (f : Wave → Wave) : (s.wave f).issue = s.issue := rfl
@[simp] theorem wave_mem (s : State) (f : Wave → Wave) : (s.wave f).mem = s.mem := rfl
@[simp] theorem later_stall (s : State) (n : Nat) (l : Landing) : (s.later n l).stall = s.stall := rfl
@[simp] theorem later_issue (s : State) (n : Nat) (l : Landing) : (s.later n l).issue = s.issue := rfl
@[simp] theorem putNow_stall (s : State) (l : Landing) : (s.putNow l).stall = s.stall := rfl
@[simp] theorem putNow_issue (s : State) (l : Landing) : (s.putNow l).issue = s.issue := rfl
@[simp] theorem laterMask_stall (s : State) (n r : Nat) (x : DWord) : (s.laterMask n r x).stall = s.stall := rfl
@[simp] theorem laterMask_issue (s : State) (n r : Nat) (x : DWord) : (s.laterMask n r x).issue = s.issue := rfl
@[simp] theorem raiseFlags_stall (s : State) (f : FFlags) : (s.raiseFlags f).stall = s.stall := rfl
@[simp] theorem raiseFlags_issue (s : State) (f : FFlags) : (s.raiseFlags f).issue = s.issue := rfl

@[simp] theorem vecResult_stall (s : State) (n : Nat) (vd : VReg) (f : Nat → Word) : (s.vecResult n vd f).stall = s.stall := by
  unfold State.vecResult; split <;> rfl

@[simp] theorem vecFlagged_stall (s : State) (n : Nat) (vd : VReg) (f : Nat → Flagged Nat) : (s.vecFlagged n vd f).stall = s.stall := by
  unfold State.vecFlagged; split <;> rfl

@[simp] theorem compare_stall (s : State) (n : Nat) (md : BitVec 4) (w : Wave) (f : Nat → Bool) : (s.compare n md w f).stall = s.stall := by
  unfold State.compare; split <;> rfl

end Sys2Proof.Machine
end

