-- ==== Sys2Proof/Laws/State.lean ====
section
/-! SUPPORT. What each named update of the state does to each field: the field it changes, and every other field as it was
(State.lean). All by `rfl`, so that no later proof unfolds a record update. -/

namespace Sys2Proof.Machine

variable (s : State)


/-! ### `setCore` -/

@[simp] theorem State.setCore_now (c : Nat) (x : Core) : (s.setCore c x).now = s.now := rfl
@[simp] theorem State.setCore_clock (c : Nat) (x : Core) : (s.setCore c x).clock = s.clock := rfl
@[simp] theorem State.setCore_clkFrac (c : Nat) (x : Core) : (s.setCore c x).clkFrac = s.clkFrac := rfl
@[simp] theorem State.setCore_powered (c : Nat) (x : Core) : (s.setCore c x).powered = s.powered := rfl
@[simp] theorem State.setCore_holdUp (c : Nat) (x : Core) : (s.setCore c x).holdUp = s.holdUp := rfl
@[simp] theorem State.setCore_waves (c : Nat) (x : Core) : (s.setCore c x).waves = s.waves := rfl
@[simp] theorem State.setCore_teams (c : Nat) (x : Core) : (s.setCore c x).teams = s.teams := rfl
@[simp] theorem State.setCore_contexts (c : Nat) (x : Core) : (s.setCore c x).contexts = s.contexts := rfl
@[simp] theorem State.setCore_queues (c : Nat) (x : Core) : (s.setCore c x).queues = s.queues := rfl
@[simp] theorem State.setCore_launches (c : Nat) (x : Core) : (s.setCore c x).launches = s.launches := rfl
@[simp] theorem State.setCore_items (c : Nat) (x : Core) : (s.setCore c x).items = s.items := rfl
@[simp] theorem State.setCore_images (c : Nat) (x : Core) : (s.setCore c x).images = s.images := rfl
@[simp] theorem State.setCore_ctxSlots (c : Nat) (x : Core) : (s.setCore c x).ctxSlots = s.ctxSlots := rfl
@[simp] theorem State.setCore_spilled (c : Nat) (x : Core) : (s.setCore c x).spilled = s.spilled := rfl
@[simp] theorem State.setCore_boundCount (c : Nat) (x : Core) : (s.setCore c x).boundCount = s.boundCount := rfl
@[simp] theorem State.setCore_activity (c : Nat) (x : Core) : (s.setCore c x).activity = s.activity := rfl
@[simp] theorem State.setCore_reservation (c : Nat) (x : Core) : (s.setCore c x).reservation = s.reservation := rfl
@[simp] theorem State.setCore_cores (c : Nat) (x : Core) : (s.setCore c x).cores = s.cores.put c x := rfl
@[simp] theorem State.setCore_clusters (c : Nat) (x : Core) : (s.setCore c x).clusters = s.clusters := rfl
@[simp] theorem State.setCore_dies (c : Nat) (x : Core) : (s.setCore c x).dies = s.dies := rfl
@[simp] theorem State.setCore_mem (c : Nat) (x : Core) : (s.setCore c x).mem = s.mem := rfl
@[simp] theorem State.setCore_scm (c : Nat) (x : Core) : (s.setCore c x).scm = s.scm := rfl
@[simp] theorem State.setCore_l2 (c : Nat) (x : Core) : (s.setCore c x).l2 = s.l2 := rfl
@[simp] theorem State.setCore_side (c : Nat) (x : Core) : (s.setCore c x).side = s.side := rfl
@[simp] theorem State.setCore_dirty (c : Nat) (x : Core) : (s.setCore c x).dirty = s.dirty := rfl
@[simp] theorem State.setCore_frameDirty (c : Nat) (x : Core) : (s.setCore c x).frameDirty = s.frameDirty := rfl
@[simp] theorem State.setCore_marks (c : Nat) (x : Core) : (s.setCore c x).marks = s.marks := rfl
@[simp] theorem State.setCore_lowMarks (c : Nat) (x : Core) : (s.setCore c x).lowMarks = s.lowMarks := rfl
@[simp] theorem State.setCore_scmMarks (c : Nat) (x : Core) : (s.setCore c x).scmMarks = s.scmMarks := rfl
@[simp] theorem State.setCore_frames (c : Nat) (x : Core) : (s.setCore c x).frames = s.frames := rfl
@[simp] theorem State.setCore_versions (c : Nat) (x : Core) : (s.setCore c x).versions = s.versions := rfl
@[simp] theorem State.setCore_heldFrom (c : Nat) (x : Core) : (s.setCore c x).heldFrom = s.heldFrom := rfl
@[simp] theorem State.setCore_persists (c : Nat) (x : Core) : (s.setCore c x).persists = s.persists := rfl
@[simp] theorem State.setCore_shadow (c : Nat) (x : Core) : (s.setCore c x).shadow = s.shadow := rfl
@[simp] theorem State.setCore_relCount (c : Nat) (x : Core) : (s.setCore c x).relCount = s.relCount := rfl
@[simp] theorem State.setCore_combTags (c : Nat) (x : Core) : (s.setCore c x).combTags = s.combTags := rfl
@[simp] theorem State.setCore_dir (c : Nat) (x : Core) : (s.setCore c x).dir = s.dir := rfl
@[simp] theorem State.setCore_peerTable (c : Nat) (x : Core) : (s.setCore c x).peerTable = s.peerTable := rfl
@[simp] theorem State.setCore_groupTable (c : Nat) (x : Core) : (s.setCore c x).groupTable = s.groupTable := rfl
@[simp] theorem State.setCore_groupPosted (c : Nat) (x : Core) : (s.setCore c x).groupPosted = s.groupPosted := rfl
@[simp] theorem State.setCore_access (c : Nat) (x : Core) : (s.setCore c x).access = s.access := rfl
@[simp] theorem State.setCore_rounds (c : Nat) (x : Core) : (s.setCore c x).rounds = s.rounds := rfl
@[simp] theorem State.setCore_remoteOps (c : Nat) (x : Core) : (s.setCore c x).remoteOps = s.remoteOps := rfl
@[simp] theorem State.setCore_cmapOff (c : Nat) (x : Core) : (s.setCore c x).cmapOff = s.cmapOff := rfl
@[simp] theorem State.setCore_scanPassed (c : Nat) (x : Core) : (s.setCore c x).scanPassed = s.scanPassed := rfl
@[simp] theorem State.setCore_scanning (c : Nat) (x : Core) : (s.setCore c x).scanning = s.scanning := rfl
@[simp] theorem State.setCore_invals (c : Nat) (x : Core) : (s.setCore c x).invals = s.invals := rfl
@[simp] theorem State.setCore_snap (c : Nat) (x : Core) : (s.setCore c x).snap = s.snap := rfl
@[simp] theorem State.setCore_recover (c : Nat) (x : Core) : (s.setCore c x).recover = s.recover := rfl
@[simp] theorem State.setCore_ports (c : Nat) (x : Core) : (s.setCore c x).ports = s.ports := rfl
@[simp] theorem State.setCore_regs (c : Nat) (x : Core) : (s.setCore c x).regs = s.regs := rfl
@[simp] theorem State.setCore_drainRecord (c : Nat) (x : Core) : (s.setCore c x).drainRecord = s.drainRecord := rfl
@[simp] theorem State.setCore_hostReplies (c : Nat) (x : Core) : (s.setCore c x).hostReplies = s.hostReplies := rfl
@[simp] theorem State.setCore_peerReplies (c : Nat) (x : Core) : (s.setCore c x).peerReplies = s.peerReplies := rfl
@[simp] theorem State.setCore_hostDropped (c : Nat) (x : Core) : (s.setCore c x).hostDropped = s.hostDropped := rfl
@[simp] theorem State.setCore_nextNum (c : Nat) (x : Core) : (s.setCore c x).nextNum = s.nextNum := rfl
@[simp] theorem State.setCore_turns (c : Nat) (x : Core) : (s.setCore c x).turns = s.turns := rfl
@[simp] theorem State.setCore_tried (c : Nat) (x : Core) : (s.setCore c x).tried = s.tried := rfl
@[simp] theorem State.setCore_wakes (c : Nat) (x : Core) : (s.setCore c x).wakes = s.wakes := rfl
@[simp] theorem State.setCore_issue (c : Nat) (x : Core) : (s.setCore c x).issue = s.issue := rfl
@[simp] theorem State.setCore_stall (c : Nat) (x : Core) : (s.setCore c x).stall = s.stall := rfl
@[simp] theorem State.setCore_focus (c : Nat) (x : Core) : (s.setCore c x).focus = s.focus := rfl
@[simp] theorem State.setCore_free (c : Nat) (x : Core) : (s.setCore c x).free = s.free := rfl

/-! ### `setCluster` -/

@[simp] theorem State.setCluster_now (c : Nat) (x : Cluster) : (s.setCluster c x).now = s.now := rfl
@[simp] theorem State.setCluster_clock (c : Nat) (x : Cluster) : (s.setCluster c x).clock = s.clock := rfl
@[simp] theorem State.setCluster_clkFrac (c : Nat) (x : Cluster) : (s.setCluster c x).clkFrac = s.clkFrac := rfl
@[simp] theorem State.setCluster_powered (c : Nat) (x : Cluster) : (s.setCluster c x).powered = s.powered := rfl
@[simp] theorem State.setCluster_holdUp (c : Nat) (x : Cluster) : (s.setCluster c x).holdUp = s.holdUp := rfl
@[simp] theorem State.setCluster_waves (c : Nat) (x : Cluster) : (s.setCluster c x).waves = s.waves := rfl
@[simp] theorem State.setCluster_teams (c : Nat) (x : Cluster) : (s.setCluster c x).teams = s.teams := rfl
@[simp] theorem State.setCluster_contexts (c : Nat) (x : Cluster) : (s.setCluster c x).contexts = s.contexts := rfl
@[simp] theorem State.setCluster_queues (c : Nat) (x : Cluster) : (s.setCluster c x).queues = s.queues := rfl
@[simp] theorem State.setCluster_launches (c : Nat) (x : Cluster) : (s.setCluster c x).launches = s.launches := rfl
@[simp] theorem State.setCluster_items (c : Nat) (x : Cluster) : (s.setCluster c x).items = s.items := rfl
@[simp] theorem State.setCluster_images (c : Nat) (x : Cluster) : (s.setCluster c x).images = s.images := rfl
@[simp] theorem State.setCluster_ctxSlots (c : Nat) (x : Cluster) : (s.setCluster c x).ctxSlots = s.ctxSlots := rfl
@[simp] theorem State.setCluster_spilled (c : Nat) (x : Cluster) : (s.setCluster c x).spilled = s.spilled := rfl
@[simp] theorem State.setCluster_boundCount (c : Nat) (x : Cluster) : (s.setCluster c x).boundCount = s.boundCount := rfl
@[simp] theorem State.setCluster_activity (c : Nat) (x : Cluster) : (s.setCluster c x).activity = s.activity := rfl
@[simp] theorem State.setCluster_reservation (c : Nat) (x : Cluster) : (s.setCluster c x).reservation = s.reservation := rfl
@[simp] theorem State.setCluster_cores (c : Nat) (x : Cluster) : (s.setCluster c x).cores = s.cores := rfl
@[simp] theorem State.setCluster_clusters (c : Nat) (x : Cluster) : (s.setCluster c x).clusters = s.clusters.put c x := rfl
@[simp] theorem State.setCluster_dies (c : Nat) (x : Cluster) : (s.setCluster c x).dies = s.dies := rfl
@[simp] theorem State.setCluster_mem (c : Nat) (x : Cluster) : (s.setCluster c x).mem = s.mem := rfl
@[simp] theorem State.setCluster_scm (c : Nat) (x : Cluster) : (s.setCluster c x).scm = s.scm := rfl
@[simp] theorem State.setCluster_l2 (c : Nat) (x : Cluster) : (s.setCluster c x).l2 = s.l2 := rfl
@[simp] theorem State.setCluster_side (c : Nat) (x : Cluster) : (s.setCluster c x).side = s.side := rfl
@[simp] theorem State.setCluster_dirty (c : Nat) (x : Cluster) : (s.setCluster c x).dirty = s.dirty := rfl
@[simp] theorem State.setCluster_frameDirty (c : Nat) (x : Cluster) : (s.setCluster c x).frameDirty = s.frameDirty := rfl
@[simp] theorem State.setCluster_marks (c : Nat) (x : Cluster) : (s.setCluster c x).marks = s.marks := rfl
@[simp] theorem State.setCluster_lowMarks (c : Nat) (x : Cluster) : (s.setCluster c x).lowMarks = s.lowMarks := rfl
@[simp] theorem State.setCluster_scmMarks (c : Nat) (x : Cluster) : (s.setCluster c x).scmMarks = s.scmMarks := rfl
@[simp] theorem State.setCluster_frames (c : Nat) (x : Cluster) : (s.setCluster c x).frames = s.frames := rfl
@[simp] theorem State.setCluster_versions (c : Nat) (x : Cluster) : (s.setCluster c x).versions = s.versions := rfl
@[simp] theorem State.setCluster_heldFrom (c : Nat) (x : Cluster) : (s.setCluster c x).heldFrom = s.heldFrom := rfl
@[simp] theorem State.setCluster_persists (c : Nat) (x : Cluster) : (s.setCluster c x).persists = s.persists := rfl
@[simp] theorem State.setCluster_shadow (c : Nat) (x : Cluster) : (s.setCluster c x).shadow = s.shadow := rfl
@[simp] theorem State.setCluster_relCount (c : Nat) (x : Cluster) : (s.setCluster c x).relCount = s.relCount := rfl
@[simp] theorem State.setCluster_combTags (c : Nat) (x : Cluster) : (s.setCluster c x).combTags = s.combTags := rfl
@[simp] theorem State.setCluster_dir (c : Nat) (x : Cluster) : (s.setCluster c x).dir = s.dir := rfl
@[simp] theorem State.setCluster_peerTable (c : Nat) (x : Cluster) : (s.setCluster c x).peerTable = s.peerTable := rfl
@[simp] theorem State.setCluster_groupTable (c : Nat) (x : Cluster) : (s.setCluster c x).groupTable = s.groupTable := rfl
@[simp] theorem State.setCluster_groupPosted (c : Nat) (x : Cluster) : (s.setCluster c x).groupPosted = s.groupPosted := rfl
@[simp] theorem State.setCluster_access (c : Nat) (x : Cluster) : (s.setCluster c x).access = s.access := rfl
@[simp] theorem State.setCluster_rounds (c : Nat) (x : Cluster) : (s.setCluster c x).rounds = s.rounds := rfl
@[simp] theorem State.setCluster_remoteOps (c : Nat) (x : Cluster) : (s.setCluster c x).remoteOps = s.remoteOps := rfl
@[simp] theorem State.setCluster_cmapOff (c : Nat) (x : Cluster) : (s.setCluster c x).cmapOff = s.cmapOff := rfl
@[simp] theorem State.setCluster_scanPassed (c : Nat) (x : Cluster) : (s.setCluster c x).scanPassed = s.scanPassed := rfl
@[simp] theorem State.setCluster_scanning (c : Nat) (x : Cluster) : (s.setCluster c x).scanning = s.scanning := rfl
@[simp] theorem State.setCluster_invals (c : Nat) (x : Cluster) : (s.setCluster c x).invals = s.invals := rfl
@[simp] theorem State.setCluster_snap (c : Nat) (x : Cluster) : (s.setCluster c x).snap = s.snap := rfl
@[simp] theorem State.setCluster_recover (c : Nat) (x : Cluster) : (s.setCluster c x).recover = s.recover := rfl
@[simp] theorem State.setCluster_ports (c : Nat) (x : Cluster) : (s.setCluster c x).ports = s.ports := rfl
@[simp] theorem State.setCluster_regs (c : Nat) (x : Cluster) : (s.setCluster c x).regs = s.regs := rfl
@[simp] theorem State.setCluster_drainRecord (c : Nat) (x : Cluster) : (s.setCluster c x).drainRecord = s.drainRecord := rfl
@[simp] theorem State.setCluster_hostReplies (c : Nat) (x : Cluster) : (s.setCluster c x).hostReplies = s.hostReplies := rfl
@[simp] theorem State.setCluster_peerReplies (c : Nat) (x : Cluster) : (s.setCluster c x).peerReplies = s.peerReplies := rfl
@[simp] theorem State.setCluster_hostDropped (c : Nat) (x : Cluster) : (s.setCluster c x).hostDropped = s.hostDropped := rfl
@[simp] theorem State.setCluster_nextNum (c : Nat) (x : Cluster) : (s.setCluster c x).nextNum = s.nextNum := rfl
@[simp] theorem State.setCluster_turns (c : Nat) (x : Cluster) : (s.setCluster c x).turns = s.turns := rfl
@[simp] theorem State.setCluster_tried (c : Nat) (x : Cluster) : (s.setCluster c x).tried = s.tried := rfl
@[simp] theorem State.setCluster_wakes (c : Nat) (x : Cluster) : (s.setCluster c x).wakes = s.wakes := rfl
@[simp] theorem State.setCluster_issue (c : Nat) (x : Cluster) : (s.setCluster c x).issue = s.issue := rfl
@[simp] theorem State.setCluster_stall (c : Nat) (x : Cluster) : (s.setCluster c x).stall = s.stall := rfl
@[simp] theorem State.setCluster_focus (c : Nat) (x : Cluster) : (s.setCluster c x).focus = s.focus := rfl
@[simp] theorem State.setCluster_free (c : Nat) (x : Cluster) : (s.setCluster c x).free = s.free := rfl

/-! ### `setDie` -/

@[simp] theorem State.setDie_now (d : Nat) (x : Die) : (s.setDie d x).now = s.now := rfl
@[simp] theorem State.setDie_clock (d : Nat) (x : Die) : (s.setDie d x).clock = s.clock := rfl
@[simp] theorem State.setDie_clkFrac (d : Nat) (x : Die) : (s.setDie d x).clkFrac = s.clkFrac := rfl
@[simp] theorem State.setDie_powered (d : Nat) (x : Die) : (s.setDie d x).powered = s.powered := rfl
@[simp] theorem State.setDie_holdUp (d : Nat) (x : Die) : (s.setDie d x).holdUp = s.holdUp := rfl
@[simp] theorem State.setDie_waves (d : Nat) (x : Die) : (s.setDie d x).waves = s.waves := rfl
@[simp] theorem State.setDie_teams (d : Nat) (x : Die) : (s.setDie d x).teams = s.teams := rfl
@[simp] theorem State.setDie_contexts (d : Nat) (x : Die) : (s.setDie d x).contexts = s.contexts := rfl
@[simp] theorem State.setDie_queues (d : Nat) (x : Die) : (s.setDie d x).queues = s.queues := rfl
@[simp] theorem State.setDie_launches (d : Nat) (x : Die) : (s.setDie d x).launches = s.launches := rfl
@[simp] theorem State.setDie_items (d : Nat) (x : Die) : (s.setDie d x).items = s.items := rfl
@[simp] theorem State.setDie_images (d : Nat) (x : Die) : (s.setDie d x).images = s.images := rfl
@[simp] theorem State.setDie_ctxSlots (d : Nat) (x : Die) : (s.setDie d x).ctxSlots = s.ctxSlots := rfl
@[simp] theorem State.setDie_spilled (d : Nat) (x : Die) : (s.setDie d x).spilled = s.spilled := rfl
@[simp] theorem State.setDie_boundCount (d : Nat) (x : Die) : (s.setDie d x).boundCount = s.boundCount := rfl
@[simp] theorem State.setDie_activity (d : Nat) (x : Die) : (s.setDie d x).activity = s.activity := rfl
@[simp] theorem State.setDie_reservation (d : Nat) (x : Die) : (s.setDie d x).reservation = s.reservation := rfl
@[simp] theorem State.setDie_cores (d : Nat) (x : Die) : (s.setDie d x).cores = s.cores := rfl
@[simp] theorem State.setDie_clusters (d : Nat) (x : Die) : (s.setDie d x).clusters = s.clusters := rfl
@[simp] theorem State.setDie_dies (d : Nat) (x : Die) : (s.setDie d x).dies = s.dies.put d x := rfl
@[simp] theorem State.setDie_mem (d : Nat) (x : Die) : (s.setDie d x).mem = s.mem := rfl
@[simp] theorem State.setDie_scm (d : Nat) (x : Die) : (s.setDie d x).scm = s.scm := rfl
@[simp] theorem State.setDie_l2 (d : Nat) (x : Die) : (s.setDie d x).l2 = s.l2 := rfl
@[simp] theorem State.setDie_side (d : Nat) (x : Die) : (s.setDie d x).side = s.side := rfl
@[simp] theorem State.setDie_dirty (d : Nat) (x : Die) : (s.setDie d x).dirty = s.dirty := rfl
@[simp] theorem State.setDie_frameDirty (d : Nat) (x : Die) : (s.setDie d x).frameDirty = s.frameDirty := rfl
@[simp] theorem State.setDie_marks (d : Nat) (x : Die) : (s.setDie d x).marks = s.marks := rfl
@[simp] theorem State.setDie_lowMarks (d : Nat) (x : Die) : (s.setDie d x).lowMarks = s.lowMarks := rfl
@[simp] theorem State.setDie_scmMarks (d : Nat) (x : Die) : (s.setDie d x).scmMarks = s.scmMarks := rfl
@[simp] theorem State.setDie_frames (d : Nat) (x : Die) : (s.setDie d x).frames = s.frames := rfl
@[simp] theorem State.setDie_versions (d : Nat) (x : Die) : (s.setDie d x).versions = s.versions := rfl
@[simp] theorem State.setDie_heldFrom (d : Nat) (x : Die) : (s.setDie d x).heldFrom = s.heldFrom := rfl
@[simp] theorem State.setDie_persists (d : Nat) (x : Die) : (s.setDie d x).persists = s.persists := rfl
@[simp] theorem State.setDie_shadow (d : Nat) (x : Die) : (s.setDie d x).shadow = s.shadow := rfl
@[simp] theorem State.setDie_relCount (d : Nat) (x : Die) : (s.setDie d x).relCount = s.relCount := rfl
@[simp] theorem State.setDie_combTags (d : Nat) (x : Die) : (s.setDie d x).combTags = s.combTags := rfl
@[simp] theorem State.setDie_dir (d : Nat) (x : Die) : (s.setDie d x).dir = s.dir := rfl
@[simp] theorem State.setDie_peerTable (d : Nat) (x : Die) : (s.setDie d x).peerTable = s.peerTable := rfl
@[simp] theorem State.setDie_groupTable (d : Nat) (x : Die) : (s.setDie d x).groupTable = s.groupTable := rfl
@[simp] theorem State.setDie_groupPosted (d : Nat) (x : Die) : (s.setDie d x).groupPosted = s.groupPosted := rfl
@[simp] theorem State.setDie_access (d : Nat) (x : Die) : (s.setDie d x).access = s.access := rfl
@[simp] theorem State.setDie_rounds (d : Nat) (x : Die) : (s.setDie d x).rounds = s.rounds := rfl
@[simp] theorem State.setDie_remoteOps (d : Nat) (x : Die) : (s.setDie d x).remoteOps = s.remoteOps := rfl
@[simp] theorem State.setDie_cmapOff (d : Nat) (x : Die) : (s.setDie d x).cmapOff = s.cmapOff := rfl
@[simp] theorem State.setDie_scanPassed (d : Nat) (x : Die) : (s.setDie d x).scanPassed = s.scanPassed := rfl
@[simp] theorem State.setDie_scanning (d : Nat) (x : Die) : (s.setDie d x).scanning = s.scanning := rfl
@[simp] theorem State.setDie_invals (d : Nat) (x : Die) : (s.setDie d x).invals = s.invals := rfl
@[simp] theorem State.setDie_snap (d : Nat) (x : Die) : (s.setDie d x).snap = s.snap := rfl
@[simp] theorem State.setDie_recover (d : Nat) (x : Die) : (s.setDie d x).recover = s.recover := rfl
@[simp] theorem State.setDie_ports (d : Nat) (x : Die) : (s.setDie d x).ports = s.ports := rfl
@[simp] theorem State.setDie_regs (d : Nat) (x : Die) : (s.setDie d x).regs = s.regs := rfl
@[simp] theorem State.setDie_drainRecord (d : Nat) (x : Die) : (s.setDie d x).drainRecord = s.drainRecord := rfl
@[simp] theorem State.setDie_hostReplies (d : Nat) (x : Die) : (s.setDie d x).hostReplies = s.hostReplies := rfl
@[simp] theorem State.setDie_peerReplies (d : Nat) (x : Die) : (s.setDie d x).peerReplies = s.peerReplies := rfl
@[simp] theorem State.setDie_hostDropped (d : Nat) (x : Die) : (s.setDie d x).hostDropped = s.hostDropped := rfl
@[simp] theorem State.setDie_nextNum (d : Nat) (x : Die) : (s.setDie d x).nextNum = s.nextNum := rfl
@[simp] theorem State.setDie_turns (d : Nat) (x : Die) : (s.setDie d x).turns = s.turns := rfl
@[simp] theorem State.setDie_tried (d : Nat) (x : Die) : (s.setDie d x).tried = s.tried := rfl
@[simp] theorem State.setDie_wakes (d : Nat) (x : Die) : (s.setDie d x).wakes = s.wakes := rfl
@[simp] theorem State.setDie_issue (d : Nat) (x : Die) : (s.setDie d x).issue = s.issue := rfl
@[simp] theorem State.setDie_stall (d : Nat) (x : Die) : (s.setDie d x).stall = s.stall := rfl
@[simp] theorem State.setDie_focus (d : Nat) (x : Die) : (s.setDie d x).focus = s.focus := rfl
@[simp] theorem State.setDie_free (d : Nat) (x : Die) : (s.setDie d x).free = s.free := rfl

/-! ### `setContext` -/

@[simp] theorem State.setContext_now (c : Nat) (x : Context) : (s.setContext c x).now = s.now := rfl
@[simp] theorem State.setContext_clock (c : Nat) (x : Context) : (s.setContext c x).clock = s.clock := rfl
@[simp] theorem State.setContext_clkFrac (c : Nat) (x : Context) : (s.setContext c x).clkFrac = s.clkFrac := rfl
@[simp] theorem State.setContext_powered (c : Nat) (x : Context) : (s.setContext c x).powered = s.powered := rfl
@[simp] theorem State.setContext_holdUp (c : Nat) (x : Context) : (s.setContext c x).holdUp = s.holdUp := rfl
@[simp] theorem State.setContext_waves (c : Nat) (x : Context) : (s.setContext c x).waves = s.waves := rfl
@[simp] theorem State.setContext_teams (c : Nat) (x : Context) : (s.setContext c x).teams = s.teams := rfl
@[simp] theorem State.setContext_contexts (c : Nat) (x : Context) : (s.setContext c x).contexts = s.contexts.put c x := rfl
@[simp] theorem State.setContext_queues (c : Nat) (x : Context) : (s.setContext c x).queues = s.queues := rfl
@[simp] theorem State.setContext_launches (c : Nat) (x : Context) : (s.setContext c x).launches = s.launches := rfl
@[simp] theorem State.setContext_items (c : Nat) (x : Context) : (s.setContext c x).items = s.items := rfl
@[simp] theorem State.setContext_images (c : Nat) (x : Context) : (s.setContext c x).images = s.images := rfl
@[simp] theorem State.setContext_ctxSlots (c : Nat) (x : Context) : (s.setContext c x).ctxSlots = s.ctxSlots := rfl
@[simp] theorem State.setContext_spilled (c : Nat) (x : Context) : (s.setContext c x).spilled = s.spilled := rfl
@[simp] theorem State.setContext_boundCount (c : Nat) (x : Context) : (s.setContext c x).boundCount = s.boundCount := rfl
@[simp] theorem State.setContext_activity (c : Nat) (x : Context) : (s.setContext c x).activity = s.activity := rfl
@[simp] theorem State.setContext_reservation (c : Nat) (x : Context) : (s.setContext c x).reservation = s.reservation := rfl
@[simp] theorem State.setContext_cores (c : Nat) (x : Context) : (s.setContext c x).cores = s.cores := rfl
@[simp] theorem State.setContext_clusters (c : Nat) (x : Context) : (s.setContext c x).clusters = s.clusters := rfl
@[simp] theorem State.setContext_dies (c : Nat) (x : Context) : (s.setContext c x).dies = s.dies := rfl
@[simp] theorem State.setContext_mem (c : Nat) (x : Context) : (s.setContext c x).mem = s.mem := rfl
@[simp] theorem State.setContext_scm (c : Nat) (x : Context) : (s.setContext c x).scm = s.scm := rfl
@[simp] theorem State.setContext_l2 (c : Nat) (x : Context) : (s.setContext c x).l2 = s.l2 := rfl
@[simp] theorem State.setContext_side (c : Nat) (x : Context) : (s.setContext c x).side = s.side := rfl
@[simp] theorem State.setContext_dirty (c : Nat) (x : Context) : (s.setContext c x).dirty = s.dirty := rfl
@[simp] theorem State.setContext_frameDirty (c : Nat) (x : Context) : (s.setContext c x).frameDirty = s.frameDirty := rfl
@[simp] theorem State.setContext_marks (c : Nat) (x : Context) : (s.setContext c x).marks = s.marks := rfl
@[simp] theorem State.setContext_lowMarks (c : Nat) (x : Context) : (s.setContext c x).lowMarks = s.lowMarks := rfl
@[simp] theorem State.setContext_scmMarks (c : Nat) (x : Context) : (s.setContext c x).scmMarks = s.scmMarks := rfl
@[simp] theorem State.setContext_frames (c : Nat) (x : Context) : (s.setContext c x).frames = s.frames := rfl
@[simp] theorem State.setContext_versions (c : Nat) (x : Context) : (s.setContext c x).versions = s.versions := rfl
@[simp] theorem State.setContext_heldFrom (c : Nat) (x : Context) : (s.setContext c x).heldFrom = s.heldFrom := rfl
@[simp] theorem State.setContext_persists (c : Nat) (x : Context) : (s.setContext c x).persists = s.persists := rfl
@[simp] theorem State.setContext_shadow (c : Nat) (x : Context) : (s.setContext c x).shadow = s.shadow := rfl
@[simp] theorem State.setContext_relCount (c : Nat) (x : Context) : (s.setContext c x).relCount = s.relCount := rfl
@[simp] theorem State.setContext_combTags (c : Nat) (x : Context) : (s.setContext c x).combTags = s.combTags := rfl
@[simp] theorem State.setContext_dir (c : Nat) (x : Context) : (s.setContext c x).dir = s.dir := rfl
@[simp] theorem State.setContext_peerTable (c : Nat) (x : Context) : (s.setContext c x).peerTable = s.peerTable := rfl
@[simp] theorem State.setContext_groupTable (c : Nat) (x : Context) : (s.setContext c x).groupTable = s.groupTable := rfl
@[simp] theorem State.setContext_groupPosted (c : Nat) (x : Context) : (s.setContext c x).groupPosted = s.groupPosted := rfl
@[simp] theorem State.setContext_access (c : Nat) (x : Context) : (s.setContext c x).access = s.access := rfl
@[simp] theorem State.setContext_rounds (c : Nat) (x : Context) : (s.setContext c x).rounds = s.rounds := rfl
@[simp] theorem State.setContext_remoteOps (c : Nat) (x : Context) : (s.setContext c x).remoteOps = s.remoteOps := rfl
@[simp] theorem State.setContext_cmapOff (c : Nat) (x : Context) : (s.setContext c x).cmapOff = s.cmapOff := rfl
@[simp] theorem State.setContext_scanPassed (c : Nat) (x : Context) : (s.setContext c x).scanPassed = s.scanPassed := rfl
@[simp] theorem State.setContext_scanning (c : Nat) (x : Context) : (s.setContext c x).scanning = s.scanning := rfl
@[simp] theorem State.setContext_invals (c : Nat) (x : Context) : (s.setContext c x).invals = s.invals := rfl
@[simp] theorem State.setContext_snap (c : Nat) (x : Context) : (s.setContext c x).snap = s.snap := rfl
@[simp] theorem State.setContext_recover (c : Nat) (x : Context) : (s.setContext c x).recover = s.recover := rfl
@[simp] theorem State.setContext_ports (c : Nat) (x : Context) : (s.setContext c x).ports = s.ports := rfl
@[simp] theorem State.setContext_regs (c : Nat) (x : Context) : (s.setContext c x).regs = s.regs := rfl
@[simp] theorem State.setContext_drainRecord (c : Nat) (x : Context) : (s.setContext c x).drainRecord = s.drainRecord := rfl
@[simp] theorem State.setContext_hostReplies (c : Nat) (x : Context) : (s.setContext c x).hostReplies = s.hostReplies := rfl
@[simp] theorem State.setContext_peerReplies (c : Nat) (x : Context) : (s.setContext c x).peerReplies = s.peerReplies := rfl
@[simp] theorem State.setContext_hostDropped (c : Nat) (x : Context) : (s.setContext c x).hostDropped = s.hostDropped := rfl
@[simp] theorem State.setContext_nextNum (c : Nat) (x : Context) : (s.setContext c x).nextNum = s.nextNum := rfl
@[simp] theorem State.setContext_turns (c : Nat) (x : Context) : (s.setContext c x).turns = s.turns := rfl
@[simp] theorem State.setContext_tried (c : Nat) (x : Context) : (s.setContext c x).tried = s.tried := rfl
@[simp] theorem State.setContext_wakes (c : Nat) (x : Context) : (s.setContext c x).wakes = s.wakes := rfl
@[simp] theorem State.setContext_issue (c : Nat) (x : Context) : (s.setContext c x).issue = s.issue := rfl
@[simp] theorem State.setContext_stall (c : Nat) (x : Context) : (s.setContext c x).stall = s.stall := rfl
@[simp] theorem State.setContext_focus (c : Nat) (x : Context) : (s.setContext c x).focus = s.focus := rfl
@[simp] theorem State.setContext_free (c : Nat) (x : Context) : (s.setContext c x).free = s.free := rfl

/-! ### `setWave` -/

@[simp] theorem State.setWave_now (n : Nat) (w : Wave) : (s.setWave n w).now = s.now := rfl
@[simp] theorem State.setWave_clock (n : Nat) (w : Wave) : (s.setWave n w).clock = s.clock := rfl
@[simp] theorem State.setWave_clkFrac (n : Nat) (w : Wave) : (s.setWave n w).clkFrac = s.clkFrac := rfl
@[simp] theorem State.setWave_powered (n : Nat) (w : Wave) : (s.setWave n w).powered = s.powered := rfl
@[simp] theorem State.setWave_holdUp (n : Nat) (w : Wave) : (s.setWave n w).holdUp = s.holdUp := rfl
@[simp] theorem State.setWave_waves (n : Nat) (w : Wave) : (s.setWave n w).waves = s.waves.put n w := rfl
@[simp] theorem State.setWave_teams (n : Nat) (w : Wave) : (s.setWave n w).teams = s.teams := rfl
@[simp] theorem State.setWave_contexts (n : Nat) (w : Wave) : (s.setWave n w).contexts = s.contexts := rfl
@[simp] theorem State.setWave_queues (n : Nat) (w : Wave) : (s.setWave n w).queues = s.queues := rfl
@[simp] theorem State.setWave_launches (n : Nat) (w : Wave) : (s.setWave n w).launches = s.launches := rfl
@[simp] theorem State.setWave_items (n : Nat) (w : Wave) : (s.setWave n w).items = s.items := rfl
@[simp] theorem State.setWave_images (n : Nat) (w : Wave) : (s.setWave n w).images = s.images := rfl
@[simp] theorem State.setWave_ctxSlots (n : Nat) (w : Wave) : (s.setWave n w).ctxSlots = s.ctxSlots := rfl
@[simp] theorem State.setWave_spilled (n : Nat) (w : Wave) : (s.setWave n w).spilled = s.spilled := rfl
@[simp] theorem State.setWave_boundCount (n : Nat) (w : Wave) : (s.setWave n w).boundCount = s.boundCount := rfl
@[simp] theorem State.setWave_activity (n : Nat) (w : Wave) : (s.setWave n w).activity = s.activity := rfl
@[simp] theorem State.setWave_reservation (n : Nat) (w : Wave) : (s.setWave n w).reservation = s.reservation := rfl
@[simp] theorem State.setWave_cores (n : Nat) (w : Wave) : (s.setWave n w).cores = s.cores := rfl
@[simp] theorem State.setWave_clusters (n : Nat) (w : Wave) : (s.setWave n w).clusters = s.clusters := rfl
@[simp] theorem State.setWave_dies (n : Nat) (w : Wave) : (s.setWave n w).dies = s.dies := rfl
@[simp] theorem State.setWave_mem (n : Nat) (w : Wave) : (s.setWave n w).mem = s.mem := rfl
@[simp] theorem State.setWave_scm (n : Nat) (w : Wave) : (s.setWave n w).scm = s.scm := rfl
@[simp] theorem State.setWave_l2 (n : Nat) (w : Wave) : (s.setWave n w).l2 = s.l2 := rfl
@[simp] theorem State.setWave_side (n : Nat) (w : Wave) : (s.setWave n w).side = s.side := rfl
@[simp] theorem State.setWave_dirty (n : Nat) (w : Wave) : (s.setWave n w).dirty = s.dirty := rfl
@[simp] theorem State.setWave_frameDirty (n : Nat) (w : Wave) : (s.setWave n w).frameDirty = s.frameDirty := rfl
@[simp] theorem State.setWave_marks (n : Nat) (w : Wave) : (s.setWave n w).marks = s.marks := rfl
@[simp] theorem State.setWave_lowMarks (n : Nat) (w : Wave) : (s.setWave n w).lowMarks = s.lowMarks := rfl
@[simp] theorem State.setWave_scmMarks (n : Nat) (w : Wave) : (s.setWave n w).scmMarks = s.scmMarks := rfl
@[simp] theorem State.setWave_frames (n : Nat) (w : Wave) : (s.setWave n w).frames = s.frames := rfl
@[simp] theorem State.setWave_versions (n : Nat) (w : Wave) : (s.setWave n w).versions = s.versions := rfl
@[simp] theorem State.setWave_heldFrom (n : Nat) (w : Wave) : (s.setWave n w).heldFrom = s.heldFrom := rfl
@[simp] theorem State.setWave_persists (n : Nat) (w : Wave) : (s.setWave n w).persists = s.persists := rfl
@[simp] theorem State.setWave_shadow (n : Nat) (w : Wave) : (s.setWave n w).shadow = s.shadow := rfl
@[simp] theorem State.setWave_relCount (n : Nat) (w : Wave) : (s.setWave n w).relCount = s.relCount := rfl
@[simp] theorem State.setWave_combTags (n : Nat) (w : Wave) : (s.setWave n w).combTags = s.combTags := rfl
@[simp] theorem State.setWave_dir (n : Nat) (w : Wave) : (s.setWave n w).dir = s.dir := rfl
@[simp] theorem State.setWave_peerTable (n : Nat) (w : Wave) : (s.setWave n w).peerTable = s.peerTable := rfl
@[simp] theorem State.setWave_groupTable (n : Nat) (w : Wave) : (s.setWave n w).groupTable = s.groupTable := rfl
@[simp] theorem State.setWave_groupPosted (n : Nat) (w : Wave) : (s.setWave n w).groupPosted = s.groupPosted := rfl
@[simp] theorem State.setWave_access (n : Nat) (w : Wave) : (s.setWave n w).access = s.access := rfl
@[simp] theorem State.setWave_rounds (n : Nat) (w : Wave) : (s.setWave n w).rounds = s.rounds := rfl
@[simp] theorem State.setWave_remoteOps (n : Nat) (w : Wave) : (s.setWave n w).remoteOps = s.remoteOps := rfl
@[simp] theorem State.setWave_cmapOff (n : Nat) (w : Wave) : (s.setWave n w).cmapOff = s.cmapOff := rfl
@[simp] theorem State.setWave_scanPassed (n : Nat) (w : Wave) : (s.setWave n w).scanPassed = s.scanPassed := rfl
@[simp] theorem State.setWave_scanning (n : Nat) (w : Wave) : (s.setWave n w).scanning = s.scanning := rfl
@[simp] theorem State.setWave_invals (n : Nat) (w : Wave) : (s.setWave n w).invals = s.invals := rfl
@[simp] theorem State.setWave_snap (n : Nat) (w : Wave) : (s.setWave n w).snap = s.snap := rfl
@[simp] theorem State.setWave_recover (n : Nat) (w : Wave) : (s.setWave n w).recover = s.recover := rfl
@[simp] theorem State.setWave_ports (n : Nat) (w : Wave) : (s.setWave n w).ports = s.ports := rfl
@[simp] theorem State.setWave_regs (n : Nat) (w : Wave) : (s.setWave n w).regs = s.regs := rfl
@[simp] theorem State.setWave_drainRecord (n : Nat) (w : Wave) : (s.setWave n w).drainRecord = s.drainRecord := rfl
@[simp] theorem State.setWave_hostReplies (n : Nat) (w : Wave) : (s.setWave n w).hostReplies = s.hostReplies := rfl
@[simp] theorem State.setWave_peerReplies (n : Nat) (w : Wave) : (s.setWave n w).peerReplies = s.peerReplies := rfl
@[simp] theorem State.setWave_hostDropped (n : Nat) (w : Wave) : (s.setWave n w).hostDropped = s.hostDropped := rfl
@[simp] theorem State.setWave_nextNum (n : Nat) (w : Wave) : (s.setWave n w).nextNum = s.nextNum := rfl
@[simp] theorem State.setWave_turns (n : Nat) (w : Wave) : (s.setWave n w).turns = s.turns := rfl
@[simp] theorem State.setWave_tried (n : Nat) (w : Wave) : (s.setWave n w).tried = s.tried := rfl
@[simp] theorem State.setWave_wakes (n : Nat) (w : Wave) : (s.setWave n w).wakes = s.wakes := rfl
@[simp] theorem State.setWave_issue (n : Nat) (w : Wave) : (s.setWave n w).issue = s.issue := rfl
@[simp] theorem State.setWave_stall (n : Nat) (w : Wave) : (s.setWave n w).stall = s.stall := rfl
@[simp] theorem State.setWave_focus (n : Nat) (w : Wave) : (s.setWave n w).focus = s.focus := rfl
@[simp] theorem State.setWave_free (n : Nat) (w : Wave) : (s.setWave n w).free = s.free := rfl

/-! ### `setTeam` -/

@[simp] theorem State.setTeam_now (n : Nat) (x : Team) : (s.setTeam n x).now = s.now := rfl
@[simp] theorem State.setTeam_clock (n : Nat) (x : Team) : (s.setTeam n x).clock = s.clock := rfl
@[simp] theorem State.setTeam_clkFrac (n : Nat) (x : Team) : (s.setTeam n x).clkFrac = s.clkFrac := rfl
@[simp] theorem State.setTeam_powered (n : Nat) (x : Team) : (s.setTeam n x).powered = s.powered := rfl
@[simp] theorem State.setTeam_holdUp (n : Nat) (x : Team) : (s.setTeam n x).holdUp = s.holdUp := rfl
@[simp] theorem State.setTeam_waves (n : Nat) (x : Team) : (s.setTeam n x).waves = s.waves := rfl
@[simp] theorem State.setTeam_teams (n : Nat) (x : Team) : (s.setTeam n x).teams = s.teams.put n x := rfl
@[simp] theorem State.setTeam_contexts (n : Nat) (x : Team) : (s.setTeam n x).contexts = s.contexts := rfl
@[simp] theorem State.setTeam_queues (n : Nat) (x : Team) : (s.setTeam n x).queues = s.queues := rfl
@[simp] theorem State.setTeam_launches (n : Nat) (x : Team) : (s.setTeam n x).launches = s.launches := rfl
@[simp] theorem State.setTeam_items (n : Nat) (x : Team) : (s.setTeam n x).items = s.items := rfl
@[simp] theorem State.setTeam_images (n : Nat) (x : Team) : (s.setTeam n x).images = s.images := rfl
@[simp] theorem State.setTeam_ctxSlots (n : Nat) (x : Team) : (s.setTeam n x).ctxSlots = s.ctxSlots := rfl
@[simp] theorem State.setTeam_spilled (n : Nat) (x : Team) : (s.setTeam n x).spilled = s.spilled := rfl
@[simp] theorem State.setTeam_boundCount (n : Nat) (x : Team) : (s.setTeam n x).boundCount = s.boundCount := rfl
@[simp] theorem State.setTeam_activity (n : Nat) (x : Team) : (s.setTeam n x).activity = s.activity := rfl
@[simp] theorem State.setTeam_reservation (n : Nat) (x : Team) : (s.setTeam n x).reservation = s.reservation := rfl
@[simp] theorem State.setTeam_cores (n : Nat) (x : Team) : (s.setTeam n x).cores = s.cores := rfl
@[simp] theorem State.setTeam_clusters (n : Nat) (x : Team) : (s.setTeam n x).clusters = s.clusters := rfl
@[simp] theorem State.setTeam_dies (n : Nat) (x : Team) : (s.setTeam n x).dies = s.dies := rfl
@[simp] theorem State.setTeam_mem (n : Nat) (x : Team) : (s.setTeam n x).mem = s.mem := rfl
@[simp] theorem State.setTeam_scm (n : Nat) (x : Team) : (s.setTeam n x).scm = s.scm := rfl
@[simp] theorem State.setTeam_l2 (n : Nat) (x : Team) : (s.setTeam n x).l2 = s.l2 := rfl
@[simp] theorem State.setTeam_side (n : Nat) (x : Team) : (s.setTeam n x).side = s.side := rfl
@[simp] theorem State.setTeam_dirty (n : Nat) (x : Team) : (s.setTeam n x).dirty = s.dirty := rfl
@[simp] theorem State.setTeam_frameDirty (n : Nat) (x : Team) : (s.setTeam n x).frameDirty = s.frameDirty := rfl
@[simp] theorem State.setTeam_marks (n : Nat) (x : Team) : (s.setTeam n x).marks = s.marks := rfl
@[simp] theorem State.setTeam_lowMarks (n : Nat) (x : Team) : (s.setTeam n x).lowMarks = s.lowMarks := rfl
@[simp] theorem State.setTeam_scmMarks (n : Nat) (x : Team) : (s.setTeam n x).scmMarks = s.scmMarks := rfl
@[simp] theorem State.setTeam_frames (n : Nat) (x : Team) : (s.setTeam n x).frames = s.frames := rfl
@[simp] theorem State.setTeam_versions (n : Nat) (x : Team) : (s.setTeam n x).versions = s.versions := rfl
@[simp] theorem State.setTeam_heldFrom (n : Nat) (x : Team) : (s.setTeam n x).heldFrom = s.heldFrom := rfl
@[simp] theorem State.setTeam_persists (n : Nat) (x : Team) : (s.setTeam n x).persists = s.persists := rfl
@[simp] theorem State.setTeam_shadow (n : Nat) (x : Team) : (s.setTeam n x).shadow = s.shadow := rfl
@[simp] theorem State.setTeam_relCount (n : Nat) (x : Team) : (s.setTeam n x).relCount = s.relCount := rfl
@[simp] theorem State.setTeam_combTags (n : Nat) (x : Team) : (s.setTeam n x).combTags = s.combTags := rfl
@[simp] theorem State.setTeam_dir (n : Nat) (x : Team) : (s.setTeam n x).dir = s.dir := rfl
@[simp] theorem State.setTeam_peerTable (n : Nat) (x : Team) : (s.setTeam n x).peerTable = s.peerTable := rfl
@[simp] theorem State.setTeam_groupTable (n : Nat) (x : Team) : (s.setTeam n x).groupTable = s.groupTable := rfl
@[simp] theorem State.setTeam_groupPosted (n : Nat) (x : Team) : (s.setTeam n x).groupPosted = s.groupPosted := rfl
@[simp] theorem State.setTeam_access (n : Nat) (x : Team) : (s.setTeam n x).access = s.access := rfl
@[simp] theorem State.setTeam_rounds (n : Nat) (x : Team) : (s.setTeam n x).rounds = s.rounds := rfl
@[simp] theorem State.setTeam_remoteOps (n : Nat) (x : Team) : (s.setTeam n x).remoteOps = s.remoteOps := rfl
@[simp] theorem State.setTeam_cmapOff (n : Nat) (x : Team) : (s.setTeam n x).cmapOff = s.cmapOff := rfl
@[simp] theorem State.setTeam_scanPassed (n : Nat) (x : Team) : (s.setTeam n x).scanPassed = s.scanPassed := rfl
@[simp] theorem State.setTeam_scanning (n : Nat) (x : Team) : (s.setTeam n x).scanning = s.scanning := rfl
@[simp] theorem State.setTeam_invals (n : Nat) (x : Team) : (s.setTeam n x).invals = s.invals := rfl
@[simp] theorem State.setTeam_snap (n : Nat) (x : Team) : (s.setTeam n x).snap = s.snap := rfl
@[simp] theorem State.setTeam_recover (n : Nat) (x : Team) : (s.setTeam n x).recover = s.recover := rfl
@[simp] theorem State.setTeam_ports (n : Nat) (x : Team) : (s.setTeam n x).ports = s.ports := rfl
@[simp] theorem State.setTeam_regs (n : Nat) (x : Team) : (s.setTeam n x).regs = s.regs := rfl
@[simp] theorem State.setTeam_drainRecord (n : Nat) (x : Team) : (s.setTeam n x).drainRecord = s.drainRecord := rfl
@[simp] theorem State.setTeam_hostReplies (n : Nat) (x : Team) : (s.setTeam n x).hostReplies = s.hostReplies := rfl
@[simp] theorem State.setTeam_peerReplies (n : Nat) (x : Team) : (s.setTeam n x).peerReplies = s.peerReplies := rfl
@[simp] theorem State.setTeam_hostDropped (n : Nat) (x : Team) : (s.setTeam n x).hostDropped = s.hostDropped := rfl
@[simp] theorem State.setTeam_nextNum (n : Nat) (x : Team) : (s.setTeam n x).nextNum = s.nextNum := rfl
@[simp] theorem State.setTeam_turns (n : Nat) (x : Team) : (s.setTeam n x).turns = s.turns := rfl
@[simp] theorem State.setTeam_tried (n : Nat) (x : Team) : (s.setTeam n x).tried = s.tried := rfl
@[simp] theorem State.setTeam_wakes (n : Nat) (x : Team) : (s.setTeam n x).wakes = s.wakes := rfl
@[simp] theorem State.setTeam_issue (n : Nat) (x : Team) : (s.setTeam n x).issue = s.issue := rfl
@[simp] theorem State.setTeam_stall (n : Nat) (x : Team) : (s.setTeam n x).stall = s.stall := rfl
@[simp] theorem State.setTeam_focus (n : Nat) (x : Team) : (s.setTeam n x).focus = s.focus := rfl
@[simp] theorem State.setTeam_free (n : Nat) (x : Team) : (s.setTeam n x).free = s.free := rfl

/-! ### `setQueue` -/

@[simp] theorem State.setQueue_now (c n : Nat) (x : LaunchQueue) : (s.setQueue c n x).now = s.now := rfl
@[simp] theorem State.setQueue_clock (c n : Nat) (x : LaunchQueue) : (s.setQueue c n x).clock = s.clock := rfl
@[simp] theorem State.setQueue_clkFrac (c n : Nat) (x : LaunchQueue) : (s.setQueue c n x).clkFrac = s.clkFrac := rfl
@[simp] theorem State.setQueue_powered (c n : Nat) (x : LaunchQueue) : (s.setQueue c n x).powered = s.powered := rfl
@[simp] theorem State.setQueue_holdUp (c n : Nat) (x : LaunchQueue) : (s.setQueue c n x).holdUp = s.holdUp := rfl
@[simp] theorem State.setQueue_waves (c n : Nat) (x : LaunchQueue) : (s.setQueue c n x).waves = s.waves := rfl
@[simp] theorem State.setQueue_teams (c n : Nat) (x : LaunchQueue) : (s.setQueue c n x).teams = s.teams := rfl
@[simp] theorem State.setQueue_contexts (c n : Nat) (x : LaunchQueue) : (s.setQueue c n x).contexts = s.contexts := rfl
@[simp] theorem State.setQueue_queues (c n : Nat) (x : LaunchQueue) : (s.setQueue c n x).queues = s.queues.put (c * 64 + n) x := rfl
@[simp] theorem State.setQueue_launches (c n : Nat) (x : LaunchQueue) : (s.setQueue c n x).launches = s.launches := rfl
@[simp] theorem State.setQueue_items (c n : Nat) (x : LaunchQueue) : (s.setQueue c n x).items = s.items := rfl
@[simp] theorem State.setQueue_images (c n : Nat) (x : LaunchQueue) : (s.setQueue c n x).images = s.images := rfl
@[simp] theorem State.setQueue_ctxSlots (c n : Nat) (x : LaunchQueue) : (s.setQueue c n x).ctxSlots = s.ctxSlots := rfl
@[simp] theorem State.setQueue_spilled (c n : Nat) (x : LaunchQueue) : (s.setQueue c n x).spilled = s.spilled := rfl
@[simp] theorem State.setQueue_boundCount (c n : Nat) (x : LaunchQueue) : (s.setQueue c n x).boundCount = s.boundCount := rfl
@[simp] theorem State.setQueue_activity (c n : Nat) (x : LaunchQueue) : (s.setQueue c n x).activity = s.activity := rfl
@[simp] theorem State.setQueue_reservation (c n : Nat) (x : LaunchQueue) : (s.setQueue c n x).reservation = s.reservation := rfl
@[simp] theorem State.setQueue_cores (c n : Nat) (x : LaunchQueue) : (s.setQueue c n x).cores = s.cores := rfl
@[simp] theorem State.setQueue_clusters (c n : Nat) (x : LaunchQueue) : (s.setQueue c n x).clusters = s.clusters := rfl
@[simp] theorem State.setQueue_dies (c n : Nat) (x : LaunchQueue) : (s.setQueue c n x).dies = s.dies := rfl
@[simp] theorem State.setQueue_mem (c n : Nat) (x : LaunchQueue) : (s.setQueue c n x).mem = s.mem := rfl
@[simp] theorem State.setQueue_scm (c n : Nat) (x : LaunchQueue) : (s.setQueue c n x).scm = s.scm := rfl
@[simp] theorem State.setQueue_l2 (c n : Nat) (x : LaunchQueue) : (s.setQueue c n x).l2 = s.l2 := rfl
@[simp] theorem State.setQueue_side (c n : Nat) (x : LaunchQueue) : (s.setQueue c n x).side = s.side := rfl
@[simp] theorem State.setQueue_dirty (c n : Nat) (x : LaunchQueue) : (s.setQueue c n x).dirty = s.dirty := rfl
@[simp] theorem State.setQueue_frameDirty (c n : Nat) (x : LaunchQueue) : (s.setQueue c n x).frameDirty = s.frameDirty := rfl
@[simp] theorem State.setQueue_marks (c n : Nat) (x : LaunchQueue) : (s.setQueue c n x).marks = s.marks := rfl
@[simp] theorem State.setQueue_lowMarks (c n : Nat) (x : LaunchQueue) : (s.setQueue c n x).lowMarks = s.lowMarks := rfl
@[simp] theorem State.setQueue_scmMarks (c n : Nat) (x : LaunchQueue) : (s.setQueue c n x).scmMarks = s.scmMarks := rfl
@[simp] theorem State.setQueue_frames (c n : Nat) (x : LaunchQueue) : (s.setQueue c n x).frames = s.frames := rfl
@[simp] theorem State.setQueue_versions (c n : Nat) (x : LaunchQueue) : (s.setQueue c n x).versions = s.versions := rfl
@[simp] theorem State.setQueue_heldFrom (c n : Nat) (x : LaunchQueue) : (s.setQueue c n x).heldFrom = s.heldFrom := rfl
@[simp] theorem State.setQueue_persists (c n : Nat) (x : LaunchQueue) : (s.setQueue c n x).persists = s.persists := rfl
@[simp] theorem State.setQueue_shadow (c n : Nat) (x : LaunchQueue) : (s.setQueue c n x).shadow = s.shadow := rfl
@[simp] theorem State.setQueue_relCount (c n : Nat) (x : LaunchQueue) : (s.setQueue c n x).relCount = s.relCount := rfl
@[simp] theorem State.setQueue_combTags (c n : Nat) (x : LaunchQueue) : (s.setQueue c n x).combTags = s.combTags := rfl
@[simp] theorem State.setQueue_dir (c n : Nat) (x : LaunchQueue) : (s.setQueue c n x).dir = s.dir := rfl
@[simp] theorem State.setQueue_peerTable (c n : Nat) (x : LaunchQueue) : (s.setQueue c n x).peerTable = s.peerTable := rfl
@[simp] theorem State.setQueue_groupTable (c n : Nat) (x : LaunchQueue) : (s.setQueue c n x).groupTable = s.groupTable := rfl
@[simp] theorem State.setQueue_groupPosted (c n : Nat) (x : LaunchQueue) : (s.setQueue c n x).groupPosted = s.groupPosted := rfl
@[simp] theorem State.setQueue_access (c n : Nat) (x : LaunchQueue) : (s.setQueue c n x).access = s.access := rfl
@[simp] theorem State.setQueue_rounds (c n : Nat) (x : LaunchQueue) : (s.setQueue c n x).rounds = s.rounds := rfl
@[simp] theorem State.setQueue_remoteOps (c n : Nat) (x : LaunchQueue) : (s.setQueue c n x).remoteOps = s.remoteOps := rfl
@[simp] theorem State.setQueue_cmapOff (c n : Nat) (x : LaunchQueue) : (s.setQueue c n x).cmapOff = s.cmapOff := rfl
@[simp] theorem State.setQueue_scanPassed (c n : Nat) (x : LaunchQueue) : (s.setQueue c n x).scanPassed = s.scanPassed := rfl
@[simp] theorem State.setQueue_scanning (c n : Nat) (x : LaunchQueue) : (s.setQueue c n x).scanning = s.scanning := rfl
@[simp] theorem State.setQueue_invals (c n : Nat) (x : LaunchQueue) : (s.setQueue c n x).invals = s.invals := rfl
@[simp] theorem State.setQueue_snap (c n : Nat) (x : LaunchQueue) : (s.setQueue c n x).snap = s.snap := rfl
@[simp] theorem State.setQueue_recover (c n : Nat) (x : LaunchQueue) : (s.setQueue c n x).recover = s.recover := rfl
@[simp] theorem State.setQueue_ports (c n : Nat) (x : LaunchQueue) : (s.setQueue c n x).ports = s.ports := rfl
@[simp] theorem State.setQueue_regs (c n : Nat) (x : LaunchQueue) : (s.setQueue c n x).regs = s.regs := rfl
@[simp] theorem State.setQueue_drainRecord (c n : Nat) (x : LaunchQueue) : (s.setQueue c n x).drainRecord = s.drainRecord := rfl
@[simp] theorem State.setQueue_hostReplies (c n : Nat) (x : LaunchQueue) : (s.setQueue c n x).hostReplies = s.hostReplies := rfl
@[simp] theorem State.setQueue_peerReplies (c n : Nat) (x : LaunchQueue) : (s.setQueue c n x).peerReplies = s.peerReplies := rfl
@[simp] theorem State.setQueue_hostDropped (c n : Nat) (x : LaunchQueue) : (s.setQueue c n x).hostDropped = s.hostDropped := rfl
@[simp] theorem State.setQueue_nextNum (c n : Nat) (x : LaunchQueue) : (s.setQueue c n x).nextNum = s.nextNum := rfl
@[simp] theorem State.setQueue_turns (c n : Nat) (x : LaunchQueue) : (s.setQueue c n x).turns = s.turns := rfl
@[simp] theorem State.setQueue_tried (c n : Nat) (x : LaunchQueue) : (s.setQueue c n x).tried = s.tried := rfl
@[simp] theorem State.setQueue_wakes (c n : Nat) (x : LaunchQueue) : (s.setQueue c n x).wakes = s.wakes := rfl
@[simp] theorem State.setQueue_issue (c n : Nat) (x : LaunchQueue) : (s.setQueue c n x).issue = s.issue := rfl
@[simp] theorem State.setQueue_stall (c n : Nat) (x : LaunchQueue) : (s.setQueue c n x).stall = s.stall := rfl
@[simp] theorem State.setQueue_focus (c n : Nat) (x : LaunchQueue) : (s.setQueue c n x).focus = s.focus := rfl
@[simp] theorem State.setQueue_free (c n : Nat) (x : LaunchQueue) : (s.setQueue c n x).free = s.free := rfl

/-! ### `modCore` -/

@[simp] theorem State.modCore_now (c : Nat) (f : Core → Core) : (s.modCore c f).now = s.now := rfl
@[simp] theorem State.modCore_clock (c : Nat) (f : Core → Core) : (s.modCore c f).clock = s.clock := rfl
@[simp] theorem State.modCore_clkFrac (c : Nat) (f : Core → Core) : (s.modCore c f).clkFrac = s.clkFrac := rfl
@[simp] theorem State.modCore_powered (c : Nat) (f : Core → Core) : (s.modCore c f).powered = s.powered := rfl
@[simp] theorem State.modCore_holdUp (c : Nat) (f : Core → Core) : (s.modCore c f).holdUp = s.holdUp := rfl
@[simp] theorem State.modCore_waves (c : Nat) (f : Core → Core) : (s.modCore c f).waves = s.waves := rfl
@[simp] theorem State.modCore_teams (c : Nat) (f : Core → Core) : (s.modCore c f).teams = s.teams := rfl
@[simp] theorem State.modCore_contexts (c : Nat) (f : Core → Core) : (s.modCore c f).contexts = s.contexts := rfl
@[simp] theorem State.modCore_queues (c : Nat) (f : Core → Core) : (s.modCore c f).queues = s.queues := rfl
@[simp] theorem State.modCore_launches (c : Nat) (f : Core → Core) : (s.modCore c f).launches = s.launches := rfl
@[simp] theorem State.modCore_items (c : Nat) (f : Core → Core) : (s.modCore c f).items = s.items := rfl
@[simp] theorem State.modCore_images (c : Nat) (f : Core → Core) : (s.modCore c f).images = s.images := rfl
@[simp] theorem State.modCore_ctxSlots (c : Nat) (f : Core → Core) : (s.modCore c f).ctxSlots = s.ctxSlots := rfl
@[simp] theorem State.modCore_spilled (c : Nat) (f : Core → Core) : (s.modCore c f).spilled = s.spilled := rfl
@[simp] theorem State.modCore_boundCount (c : Nat) (f : Core → Core) : (s.modCore c f).boundCount = s.boundCount := rfl
@[simp] theorem State.modCore_activity (c : Nat) (f : Core → Core) : (s.modCore c f).activity = s.activity := rfl
@[simp] theorem State.modCore_reservation (c : Nat) (f : Core → Core) : (s.modCore c f).reservation = s.reservation := rfl
@[simp] theorem State.modCore_cores (c : Nat) (f : Core → Core) : (s.modCore c f).cores = s.cores.put c (f (s.core c)) := rfl
@[simp] theorem State.modCore_clusters (c : Nat) (f : Core → Core) : (s.modCore c f).clusters = s.clusters := rfl
@[simp] theorem State.modCore_dies (c : Nat) (f : Core → Core) : (s.modCore c f).dies = s.dies := rfl
@[simp] theorem State.modCore_mem (c : Nat) (f : Core → Core) : (s.modCore c f).mem = s.mem := rfl
@[simp] theorem State.modCore_scm (c : Nat) (f : Core → Core) : (s.modCore c f).scm = s.scm := rfl
@[simp] theorem State.modCore_l2 (c : Nat) (f : Core → Core) : (s.modCore c f).l2 = s.l2 := rfl
@[simp] theorem State.modCore_side (c : Nat) (f : Core → Core) : (s.modCore c f).side = s.side := rfl
@[simp] theorem State.modCore_dirty (c : Nat) (f : Core → Core) : (s.modCore c f).dirty = s.dirty := rfl
@[simp] theorem State.modCore_frameDirty (c : Nat) (f : Core → Core) : (s.modCore c f).frameDirty = s.frameDirty := rfl
@[simp] theorem State.modCore_marks (c : Nat) (f : Core → Core) : (s.modCore c f).marks = s.marks := rfl
@[simp] theorem State.modCore_lowMarks (c : Nat) (f : Core → Core) : (s.modCore c f).lowMarks = s.lowMarks := rfl
@[simp] theorem State.modCore_scmMarks (c : Nat) (f : Core → Core) : (s.modCore c f).scmMarks = s.scmMarks := rfl
@[simp] theorem State.modCore_frames (c : Nat) (f : Core → Core) : (s.modCore c f).frames = s.frames := rfl
@[simp] theorem State.modCore_versions (c : Nat) (f : Core → Core) : (s.modCore c f).versions = s.versions := rfl
@[simp] theorem State.modCore_heldFrom (c : Nat) (f : Core → Core) : (s.modCore c f).heldFrom = s.heldFrom := rfl
@[simp] theorem State.modCore_persists (c : Nat) (f : Core → Core) : (s.modCore c f).persists = s.persists := rfl
@[simp] theorem State.modCore_shadow (c : Nat) (f : Core → Core) : (s.modCore c f).shadow = s.shadow := rfl
@[simp] theorem State.modCore_relCount (c : Nat) (f : Core → Core) : (s.modCore c f).relCount = s.relCount := rfl
@[simp] theorem State.modCore_combTags (c : Nat) (f : Core → Core) : (s.modCore c f).combTags = s.combTags := rfl
@[simp] theorem State.modCore_dir (c : Nat) (f : Core → Core) : (s.modCore c f).dir = s.dir := rfl
@[simp] theorem State.modCore_peerTable (c : Nat) (f : Core → Core) : (s.modCore c f).peerTable = s.peerTable := rfl
@[simp] theorem State.modCore_groupTable (c : Nat) (f : Core → Core) : (s.modCore c f).groupTable = s.groupTable := rfl
@[simp] theorem State.modCore_groupPosted (c : Nat) (f : Core → Core) : (s.modCore c f).groupPosted = s.groupPosted := rfl
@[simp] theorem State.modCore_access (c : Nat) (f : Core → Core) : (s.modCore c f).access = s.access := rfl
@[simp] theorem State.modCore_rounds (c : Nat) (f : Core → Core) : (s.modCore c f).rounds = s.rounds := rfl
@[simp] theorem State.modCore_remoteOps (c : Nat) (f : Core → Core) : (s.modCore c f).remoteOps = s.remoteOps := rfl
@[simp] theorem State.modCore_cmapOff (c : Nat) (f : Core → Core) : (s.modCore c f).cmapOff = s.cmapOff := rfl
@[simp] theorem State.modCore_scanPassed (c : Nat) (f : Core → Core) : (s.modCore c f).scanPassed = s.scanPassed := rfl
@[simp] theorem State.modCore_scanning (c : Nat) (f : Core → Core) : (s.modCore c f).scanning = s.scanning := rfl
@[simp] theorem State.modCore_invals (c : Nat) (f : Core → Core) : (s.modCore c f).invals = s.invals := rfl
@[simp] theorem State.modCore_snap (c : Nat) (f : Core → Core) : (s.modCore c f).snap = s.snap := rfl
@[simp] theorem State.modCore_recover (c : Nat) (f : Core → Core) : (s.modCore c f).recover = s.recover := rfl
@[simp] theorem State.modCore_ports (c : Nat) (f : Core → Core) : (s.modCore c f).ports = s.ports := rfl
@[simp] theorem State.modCore_regs (c : Nat) (f : Core → Core) : (s.modCore c f).regs = s.regs := rfl
@[simp] theorem State.modCore_drainRecord (c : Nat) (f : Core → Core) : (s.modCore c f).drainRecord = s.drainRecord := rfl
@[simp] theorem State.modCore_hostReplies (c : Nat) (f : Core → Core) : (s.modCore c f).hostReplies = s.hostReplies := rfl
@[simp] theorem State.modCore_peerReplies (c : Nat) (f : Core → Core) : (s.modCore c f).peerReplies = s.peerReplies := rfl
@[simp] theorem State.modCore_hostDropped (c : Nat) (f : Core → Core) : (s.modCore c f).hostDropped = s.hostDropped := rfl
@[simp] theorem State.modCore_nextNum (c : Nat) (f : Core → Core) : (s.modCore c f).nextNum = s.nextNum := rfl
@[simp] theorem State.modCore_turns (c : Nat) (f : Core → Core) : (s.modCore c f).turns = s.turns := rfl
@[simp] theorem State.modCore_tried (c : Nat) (f : Core → Core) : (s.modCore c f).tried = s.tried := rfl
@[simp] theorem State.modCore_wakes (c : Nat) (f : Core → Core) : (s.modCore c f).wakes = s.wakes := rfl
@[simp] theorem State.modCore_issue (c : Nat) (f : Core → Core) : (s.modCore c f).issue = s.issue := rfl
@[simp] theorem State.modCore_stall (c : Nat) (f : Core → Core) : (s.modCore c f).stall = s.stall := rfl
@[simp] theorem State.modCore_focus (c : Nat) (f : Core → Core) : (s.modCore c f).focus = s.focus := rfl
@[simp] theorem State.modCore_free (c : Nat) (f : Core → Core) : (s.modCore c f).free = s.free := rfl

/-! ### `modCluster` -/

@[simp] theorem State.modCluster_now (c : Nat) (f : Cluster → Cluster) : (s.modCluster c f).now = s.now := rfl
@[simp] theorem State.modCluster_clock (c : Nat) (f : Cluster → Cluster) : (s.modCluster c f).clock = s.clock := rfl
@[simp] theorem State.modCluster_clkFrac (c : Nat) (f : Cluster → Cluster) : (s.modCluster c f).clkFrac = s.clkFrac := rfl
@[simp] theorem State.modCluster_powered (c : Nat) (f : Cluster → Cluster) : (s.modCluster c f).powered = s.powered := rfl
@[simp] theorem State.modCluster_holdUp (c : Nat) (f : Cluster → Cluster) : (s.modCluster c f).holdUp = s.holdUp := rfl
@[simp] theorem State.modCluster_waves (c : Nat) (f : Cluster → Cluster) : (s.modCluster c f).waves = s.waves := rfl
@[simp] theorem State.modCluster_teams (c : Nat) (f : Cluster → Cluster) : (s.modCluster c f).teams = s.teams := rfl
@[simp] theorem State.modCluster_contexts (c : Nat) (f : Cluster → Cluster) : (s.modCluster c f).contexts = s.contexts := rfl
@[simp] theorem State.modCluster_queues (c : Nat) (f : Cluster → Cluster) : (s.modCluster c f).queues = s.queues := rfl
@[simp] theorem State.modCluster_launches (c : Nat) (f : Cluster → Cluster) : (s.modCluster c f).launches = s.launches := rfl
@[simp] theorem State.modCluster_items (c : Nat) (f : Cluster → Cluster) : (s.modCluster c f).items = s.items := rfl
@[simp] theorem State.modCluster_images (c : Nat) (f : Cluster → Cluster) : (s.modCluster c f).images = s.images := rfl
@[simp] theorem State.modCluster_ctxSlots (c : Nat) (f : Cluster → Cluster) : (s.modCluster c f).ctxSlots = s.ctxSlots := rfl
@[simp] theorem State.modCluster_spilled (c : Nat) (f : Cluster → Cluster) : (s.modCluster c f).spilled = s.spilled := rfl
@[simp] theorem State.modCluster_boundCount (c : Nat) (f : Cluster → Cluster) : (s.modCluster c f).boundCount = s.boundCount := rfl
@[simp] theorem State.modCluster_activity (c : Nat) (f : Cluster → Cluster) : (s.modCluster c f).activity = s.activity := rfl
@[simp] theorem State.modCluster_reservation (c : Nat) (f : Cluster → Cluster) : (s.modCluster c f).reservation = s.reservation := rfl
@[simp] theorem State.modCluster_cores (c : Nat) (f : Cluster → Cluster) : (s.modCluster c f).cores = s.cores := rfl
@[simp] theorem State.modCluster_clusters (c : Nat) (f : Cluster → Cluster) : (s.modCluster c f).clusters = s.clusters.put c (f (s.cluster c)) := rfl
@[simp] theorem State.modCluster_dies (c : Nat) (f : Cluster → Cluster) : (s.modCluster c f).dies = s.dies := rfl
@[simp] theorem State.modCluster_mem (c : Nat) (f : Cluster → Cluster) : (s.modCluster c f).mem = s.mem := rfl
@[simp] theorem State.modCluster_scm (c : Nat) (f : Cluster → Cluster) : (s.modCluster c f).scm = s.scm := rfl
@[simp] theorem State.modCluster_l2 (c : Nat) (f : Cluster → Cluster) : (s.modCluster c f).l2 = s.l2 := rfl
@[simp] theorem State.modCluster_side (c : Nat) (f : Cluster → Cluster) : (s.modCluster c f).side = s.side := rfl
@[simp] theorem State.modCluster_dirty (c : Nat) (f : Cluster → Cluster) : (s.modCluster c f).dirty = s.dirty := rfl
@[simp] theorem State.modCluster_frameDirty (c : Nat) (f : Cluster → Cluster) : (s.modCluster c f).frameDirty = s.frameDirty := rfl
@[simp] theorem State.modCluster_marks (c : Nat) (f : Cluster → Cluster) : (s.modCluster c f).marks = s.marks := rfl
@[simp] theorem State.modCluster_lowMarks (c : Nat) (f : Cluster → Cluster) : (s.modCluster c f).lowMarks = s.lowMarks := rfl
@[simp] theorem State.modCluster_scmMarks (c : Nat) (f : Cluster → Cluster) : (s.modCluster c f).scmMarks = s.scmMarks := rfl
@[simp] theorem State.modCluster_frames (c : Nat) (f : Cluster → Cluster) : (s.modCluster c f).frames = s.frames := rfl
@[simp] theorem State.modCluster_versions (c : Nat) (f : Cluster → Cluster) : (s.modCluster c f).versions = s.versions := rfl
@[simp] theorem State.modCluster_heldFrom (c : Nat) (f : Cluster → Cluster) : (s.modCluster c f).heldFrom = s.heldFrom := rfl
@[simp] theorem State.modCluster_persists (c : Nat) (f : Cluster → Cluster) : (s.modCluster c f).persists = s.persists := rfl
@[simp] theorem State.modCluster_shadow (c : Nat) (f : Cluster → Cluster) : (s.modCluster c f).shadow = s.shadow := rfl
@[simp] theorem State.modCluster_relCount (c : Nat) (f : Cluster → Cluster) : (s.modCluster c f).relCount = s.relCount := rfl
@[simp] theorem State.modCluster_combTags (c : Nat) (f : Cluster → Cluster) : (s.modCluster c f).combTags = s.combTags := rfl
@[simp] theorem State.modCluster_dir (c : Nat) (f : Cluster → Cluster) : (s.modCluster c f).dir = s.dir := rfl
@[simp] theorem State.modCluster_peerTable (c : Nat) (f : Cluster → Cluster) : (s.modCluster c f).peerTable = s.peerTable := rfl
@[simp] theorem State.modCluster_groupTable (c : Nat) (f : Cluster → Cluster) : (s.modCluster c f).groupTable = s.groupTable := rfl
@[simp] theorem State.modCluster_groupPosted (c : Nat) (f : Cluster → Cluster) : (s.modCluster c f).groupPosted = s.groupPosted := rfl
@[simp] theorem State.modCluster_access (c : Nat) (f : Cluster → Cluster) : (s.modCluster c f).access = s.access := rfl
@[simp] theorem State.modCluster_rounds (c : Nat) (f : Cluster → Cluster) : (s.modCluster c f).rounds = s.rounds := rfl
@[simp] theorem State.modCluster_remoteOps (c : Nat) (f : Cluster → Cluster) : (s.modCluster c f).remoteOps = s.remoteOps := rfl
@[simp] theorem State.modCluster_cmapOff (c : Nat) (f : Cluster → Cluster) : (s.modCluster c f).cmapOff = s.cmapOff := rfl
@[simp] theorem State.modCluster_scanPassed (c : Nat) (f : Cluster → Cluster) : (s.modCluster c f).scanPassed = s.scanPassed := rfl
@[simp] theorem State.modCluster_scanning (c : Nat) (f : Cluster → Cluster) : (s.modCluster c f).scanning = s.scanning := rfl
@[simp] theorem State.modCluster_invals (c : Nat) (f : Cluster → Cluster) : (s.modCluster c f).invals = s.invals := rfl
@[simp] theorem State.modCluster_snap (c : Nat) (f : Cluster → Cluster) : (s.modCluster c f).snap = s.snap := rfl
@[simp] theorem State.modCluster_recover (c : Nat) (f : Cluster → Cluster) : (s.modCluster c f).recover = s.recover := rfl
@[simp] theorem State.modCluster_ports (c : Nat) (f : Cluster → Cluster) : (s.modCluster c f).ports = s.ports := rfl
@[simp] theorem State.modCluster_regs (c : Nat) (f : Cluster → Cluster) : (s.modCluster c f).regs = s.regs := rfl
@[simp] theorem State.modCluster_drainRecord (c : Nat) (f : Cluster → Cluster) : (s.modCluster c f).drainRecord = s.drainRecord := rfl
@[simp] theorem State.modCluster_hostReplies (c : Nat) (f : Cluster → Cluster) : (s.modCluster c f).hostReplies = s.hostReplies := rfl
@[simp] theorem State.modCluster_peerReplies (c : Nat) (f : Cluster → Cluster) : (s.modCluster c f).peerReplies = s.peerReplies := rfl
@[simp] theorem State.modCluster_hostDropped (c : Nat) (f : Cluster → Cluster) : (s.modCluster c f).hostDropped = s.hostDropped := rfl
@[simp] theorem State.modCluster_nextNum (c : Nat) (f : Cluster → Cluster) : (s.modCluster c f).nextNum = s.nextNum := rfl
@[simp] theorem State.modCluster_turns (c : Nat) (f : Cluster → Cluster) : (s.modCluster c f).turns = s.turns := rfl
@[simp] theorem State.modCluster_tried (c : Nat) (f : Cluster → Cluster) : (s.modCluster c f).tried = s.tried := rfl
@[simp] theorem State.modCluster_wakes (c : Nat) (f : Cluster → Cluster) : (s.modCluster c f).wakes = s.wakes := rfl
@[simp] theorem State.modCluster_issue (c : Nat) (f : Cluster → Cluster) : (s.modCluster c f).issue = s.issue := rfl
@[simp] theorem State.modCluster_stall (c : Nat) (f : Cluster → Cluster) : (s.modCluster c f).stall = s.stall := rfl
@[simp] theorem State.modCluster_focus (c : Nat) (f : Cluster → Cluster) : (s.modCluster c f).focus = s.focus := rfl
@[simp] theorem State.modCluster_free (c : Nat) (f : Cluster → Cluster) : (s.modCluster c f).free = s.free := rfl

/-! ### `modDie` -/

@[simp] theorem State.modDie_now (d : Nat) (f : Die → Die) : (s.modDie d f).now = s.now := rfl
@[simp] theorem State.modDie_clock (d : Nat) (f : Die → Die) : (s.modDie d f).clock = s.clock := rfl
@[simp] theorem State.modDie_clkFrac (d : Nat) (f : Die → Die) : (s.modDie d f).clkFrac = s.clkFrac := rfl
@[simp] theorem State.modDie_powered (d : Nat) (f : Die → Die) : (s.modDie d f).powered = s.powered := rfl
@[simp] theorem State.modDie_holdUp (d : Nat) (f : Die → Die) : (s.modDie d f).holdUp = s.holdUp := rfl
@[simp] theorem State.modDie_waves (d : Nat) (f : Die → Die) : (s.modDie d f).waves = s.waves := rfl
@[simp] theorem State.modDie_teams (d : Nat) (f : Die → Die) : (s.modDie d f).teams = s.teams := rfl
@[simp] theorem State.modDie_contexts (d : Nat) (f : Die → Die) : (s.modDie d f).contexts = s.contexts := rfl
@[simp] theorem State.modDie_queues (d : Nat) (f : Die → Die) : (s.modDie d f).queues = s.queues := rfl
@[simp] theorem State.modDie_launches (d : Nat) (f : Die → Die) : (s.modDie d f).launches = s.launches := rfl
@[simp] theorem State.modDie_items (d : Nat) (f : Die → Die) : (s.modDie d f).items = s.items := rfl
@[simp] theorem State.modDie_images (d : Nat) (f : Die → Die) : (s.modDie d f).images = s.images := rfl
@[simp] theorem State.modDie_ctxSlots (d : Nat) (f : Die → Die) : (s.modDie d f).ctxSlots = s.ctxSlots := rfl
@[simp] theorem State.modDie_spilled (d : Nat) (f : Die → Die) : (s.modDie d f).spilled = s.spilled := rfl
@[simp] theorem State.modDie_boundCount (d : Nat) (f : Die → Die) : (s.modDie d f).boundCount = s.boundCount := rfl
@[simp] theorem State.modDie_activity (d : Nat) (f : Die → Die) : (s.modDie d f).activity = s.activity := rfl
@[simp] theorem State.modDie_reservation (d : Nat) (f : Die → Die) : (s.modDie d f).reservation = s.reservation := rfl
@[simp] theorem State.modDie_cores (d : Nat) (f : Die → Die) : (s.modDie d f).cores = s.cores := rfl
@[simp] theorem State.modDie_clusters (d : Nat) (f : Die → Die) : (s.modDie d f).clusters = s.clusters := rfl
@[simp] theorem State.modDie_dies (d : Nat) (f : Die → Die) : (s.modDie d f).dies = s.dies.put d (f (s.die d)) := rfl
@[simp] theorem State.modDie_mem (d : Nat) (f : Die → Die) : (s.modDie d f).mem = s.mem := rfl
@[simp] theorem State.modDie_scm (d : Nat) (f : Die → Die) : (s.modDie d f).scm = s.scm := rfl
@[simp] theorem State.modDie_l2 (d : Nat) (f : Die → Die) : (s.modDie d f).l2 = s.l2 := rfl
@[simp] theorem State.modDie_side (d : Nat) (f : Die → Die) : (s.modDie d f).side = s.side := rfl
@[simp] theorem State.modDie_dirty (d : Nat) (f : Die → Die) : (s.modDie d f).dirty = s.dirty := rfl
@[simp] theorem State.modDie_frameDirty (d : Nat) (f : Die → Die) : (s.modDie d f).frameDirty = s.frameDirty := rfl
@[simp] theorem State.modDie_marks (d : Nat) (f : Die → Die) : (s.modDie d f).marks = s.marks := rfl
@[simp] theorem State.modDie_lowMarks (d : Nat) (f : Die → Die) : (s.modDie d f).lowMarks = s.lowMarks := rfl
@[simp] theorem State.modDie_scmMarks (d : Nat) (f : Die → Die) : (s.modDie d f).scmMarks = s.scmMarks := rfl
@[simp] theorem State.modDie_frames (d : Nat) (f : Die → Die) : (s.modDie d f).frames = s.frames := rfl
@[simp] theorem State.modDie_versions (d : Nat) (f : Die → Die) : (s.modDie d f).versions = s.versions := rfl
@[simp] theorem State.modDie_heldFrom (d : Nat) (f : Die → Die) : (s.modDie d f).heldFrom = s.heldFrom := rfl
@[simp] theorem State.modDie_persists (d : Nat) (f : Die → Die) : (s.modDie d f).persists = s.persists := rfl
@[simp] theorem State.modDie_shadow (d : Nat) (f : Die → Die) : (s.modDie d f).shadow = s.shadow := rfl
@[simp] theorem State.modDie_relCount (d : Nat) (f : Die → Die) : (s.modDie d f).relCount = s.relCount := rfl
@[simp] theorem State.modDie_combTags (d : Nat) (f : Die → Die) : (s.modDie d f).combTags = s.combTags := rfl
@[simp] theorem State.modDie_dir (d : Nat) (f : Die → Die) : (s.modDie d f).dir = s.dir := rfl
@[simp] theorem State.modDie_peerTable (d : Nat) (f : Die → Die) : (s.modDie d f).peerTable = s.peerTable := rfl
@[simp] theorem State.modDie_groupTable (d : Nat) (f : Die → Die) : (s.modDie d f).groupTable = s.groupTable := rfl
@[simp] theorem State.modDie_groupPosted (d : Nat) (f : Die → Die) : (s.modDie d f).groupPosted = s.groupPosted := rfl
@[simp] theorem State.modDie_access (d : Nat) (f : Die → Die) : (s.modDie d f).access = s.access := rfl
@[simp] theorem State.modDie_rounds (d : Nat) (f : Die → Die) : (s.modDie d f).rounds = s.rounds := rfl
@[simp] theorem State.modDie_remoteOps (d : Nat) (f : Die → Die) : (s.modDie d f).remoteOps = s.remoteOps := rfl
@[simp] theorem State.modDie_cmapOff (d : Nat) (f : Die → Die) : (s.modDie d f).cmapOff = s.cmapOff := rfl
@[simp] theorem State.modDie_scanPassed (d : Nat) (f : Die → Die) : (s.modDie d f).scanPassed = s.scanPassed := rfl
@[simp] theorem State.modDie_scanning (d : Nat) (f : Die → Die) : (s.modDie d f).scanning = s.scanning := rfl
@[simp] theorem State.modDie_invals (d : Nat) (f : Die → Die) : (s.modDie d f).invals = s.invals := rfl
@[simp] theorem State.modDie_snap (d : Nat) (f : Die → Die) : (s.modDie d f).snap = s.snap := rfl
@[simp] theorem State.modDie_recover (d : Nat) (f : Die → Die) : (s.modDie d f).recover = s.recover := rfl
@[simp] theorem State.modDie_ports (d : Nat) (f : Die → Die) : (s.modDie d f).ports = s.ports := rfl
@[simp] theorem State.modDie_regs (d : Nat) (f : Die → Die) : (s.modDie d f).regs = s.regs := rfl
@[simp] theorem State.modDie_drainRecord (d : Nat) (f : Die → Die) : (s.modDie d f).drainRecord = s.drainRecord := rfl
@[simp] theorem State.modDie_hostReplies (d : Nat) (f : Die → Die) : (s.modDie d f).hostReplies = s.hostReplies := rfl
@[simp] theorem State.modDie_peerReplies (d : Nat) (f : Die → Die) : (s.modDie d f).peerReplies = s.peerReplies := rfl
@[simp] theorem State.modDie_hostDropped (d : Nat) (f : Die → Die) : (s.modDie d f).hostDropped = s.hostDropped := rfl
@[simp] theorem State.modDie_nextNum (d : Nat) (f : Die → Die) : (s.modDie d f).nextNum = s.nextNum := rfl
@[simp] theorem State.modDie_turns (d : Nat) (f : Die → Die) : (s.modDie d f).turns = s.turns := rfl
@[simp] theorem State.modDie_tried (d : Nat) (f : Die → Die) : (s.modDie d f).tried = s.tried := rfl
@[simp] theorem State.modDie_wakes (d : Nat) (f : Die → Die) : (s.modDie d f).wakes = s.wakes := rfl
@[simp] theorem State.modDie_issue (d : Nat) (f : Die → Die) : (s.modDie d f).issue = s.issue := rfl
@[simp] theorem State.modDie_stall (d : Nat) (f : Die → Die) : (s.modDie d f).stall = s.stall := rfl
@[simp] theorem State.modDie_focus (d : Nat) (f : Die → Die) : (s.modDie d f).focus = s.focus := rfl
@[simp] theorem State.modDie_free (d : Nat) (f : Die → Die) : (s.modDie d f).free = s.free := rfl

/-! ### `modWave` -/

@[simp] theorem State.modWave_now (n : Nat) (f : Wave → Wave) : (s.modWave n f).now = s.now := rfl
@[simp] theorem State.modWave_clock (n : Nat) (f : Wave → Wave) : (s.modWave n f).clock = s.clock := rfl
@[simp] theorem State.modWave_clkFrac (n : Nat) (f : Wave → Wave) : (s.modWave n f).clkFrac = s.clkFrac := rfl
@[simp] theorem State.modWave_powered (n : Nat) (f : Wave → Wave) : (s.modWave n f).powered = s.powered := rfl
@[simp] theorem State.modWave_holdUp (n : Nat) (f : Wave → Wave) : (s.modWave n f).holdUp = s.holdUp := rfl
@[simp] theorem State.modWave_waves (n : Nat) (f : Wave → Wave) : (s.modWave n f).waves = s.waves.modify n f := rfl
@[simp] theorem State.modWave_teams (n : Nat) (f : Wave → Wave) : (s.modWave n f).teams = s.teams := rfl
@[simp] theorem State.modWave_contexts (n : Nat) (f : Wave → Wave) : (s.modWave n f).contexts = s.contexts := rfl
@[simp] theorem State.modWave_queues (n : Nat) (f : Wave → Wave) : (s.modWave n f).queues = s.queues := rfl
@[simp] theorem State.modWave_launches (n : Nat) (f : Wave → Wave) : (s.modWave n f).launches = s.launches := rfl
@[simp] theorem State.modWave_items (n : Nat) (f : Wave → Wave) : (s.modWave n f).items = s.items := rfl
@[simp] theorem State.modWave_images (n : Nat) (f : Wave → Wave) : (s.modWave n f).images = s.images := rfl
@[simp] theorem State.modWave_ctxSlots (n : Nat) (f : Wave → Wave) : (s.modWave n f).ctxSlots = s.ctxSlots := rfl
@[simp] theorem State.modWave_spilled (n : Nat) (f : Wave → Wave) : (s.modWave n f).spilled = s.spilled := rfl
@[simp] theorem State.modWave_boundCount (n : Nat) (f : Wave → Wave) : (s.modWave n f).boundCount = s.boundCount := rfl
@[simp] theorem State.modWave_activity (n : Nat) (f : Wave → Wave) : (s.modWave n f).activity = s.activity := rfl
@[simp] theorem State.modWave_reservation (n : Nat) (f : Wave → Wave) : (s.modWave n f).reservation = s.reservation := rfl
@[simp] theorem State.modWave_cores (n : Nat) (f : Wave → Wave) : (s.modWave n f).cores = s.cores := rfl
@[simp] theorem State.modWave_clusters (n : Nat) (f : Wave → Wave) : (s.modWave n f).clusters = s.clusters := rfl
@[simp] theorem State.modWave_dies (n : Nat) (f : Wave → Wave) : (s.modWave n f).dies = s.dies := rfl
@[simp] theorem State.modWave_mem (n : Nat) (f : Wave → Wave) : (s.modWave n f).mem = s.mem := rfl
@[simp] theorem State.modWave_scm (n : Nat) (f : Wave → Wave) : (s.modWave n f).scm = s.scm := rfl
@[simp] theorem State.modWave_l2 (n : Nat) (f : Wave → Wave) : (s.modWave n f).l2 = s.l2 := rfl
@[simp] theorem State.modWave_side (n : Nat) (f : Wave → Wave) : (s.modWave n f).side = s.side := rfl
@[simp] theorem State.modWave_dirty (n : Nat) (f : Wave → Wave) : (s.modWave n f).dirty = s.dirty := rfl
@[simp] theorem State.modWave_frameDirty (n : Nat) (f : Wave → Wave) : (s.modWave n f).frameDirty = s.frameDirty := rfl
@[simp] theorem State.modWave_marks (n : Nat) (f : Wave → Wave) : (s.modWave n f).marks = s.marks := rfl
@[simp] theorem State.modWave_lowMarks (n : Nat) (f : Wave → Wave) : (s.modWave n f).lowMarks = s.lowMarks := rfl
@[simp] theorem State.modWave_scmMarks (n : Nat) (f : Wave → Wave) : (s.modWave n f).scmMarks = s.scmMarks := rfl
@[simp] theorem State.modWave_frames (n : Nat) (f : Wave → Wave) : (s.modWave n f).frames = s.frames := rfl
@[simp] theorem State.modWave_versions (n : Nat) (f : Wave → Wave) : (s.modWave n f).versions = s.versions := rfl
@[simp] theorem State.modWave_heldFrom (n : Nat) (f : Wave → Wave) : (s.modWave n f).heldFrom = s.heldFrom := rfl
@[simp] theorem State.modWave_persists (n : Nat) (f : Wave → Wave) : (s.modWave n f).persists = s.persists := rfl
@[simp] theorem State.modWave_shadow (n : Nat) (f : Wave → Wave) : (s.modWave n f).shadow = s.shadow := rfl
@[simp] theorem State.modWave_relCount (n : Nat) (f : Wave → Wave) : (s.modWave n f).relCount = s.relCount := rfl
@[simp] theorem State.modWave_combTags (n : Nat) (f : Wave → Wave) : (s.modWave n f).combTags = s.combTags := rfl
@[simp] theorem State.modWave_dir (n : Nat) (f : Wave → Wave) : (s.modWave n f).dir = s.dir := rfl
@[simp] theorem State.modWave_peerTable (n : Nat) (f : Wave → Wave) : (s.modWave n f).peerTable = s.peerTable := rfl
@[simp] theorem State.modWave_groupTable (n : Nat) (f : Wave → Wave) : (s.modWave n f).groupTable = s.groupTable := rfl
@[simp] theorem State.modWave_groupPosted (n : Nat) (f : Wave → Wave) : (s.modWave n f).groupPosted = s.groupPosted := rfl
@[simp] theorem State.modWave_access (n : Nat) (f : Wave → Wave) : (s.modWave n f).access = s.access := rfl
@[simp] theorem State.modWave_rounds (n : Nat) (f : Wave → Wave) : (s.modWave n f).rounds = s.rounds := rfl
@[simp] theorem State.modWave_remoteOps (n : Nat) (f : Wave → Wave) : (s.modWave n f).remoteOps = s.remoteOps := rfl
@[simp] theorem State.modWave_cmapOff (n : Nat) (f : Wave → Wave) : (s.modWave n f).cmapOff = s.cmapOff := rfl
@[simp] theorem State.modWave_scanPassed (n : Nat) (f : Wave → Wave) : (s.modWave n f).scanPassed = s.scanPassed := rfl
@[simp] theorem State.modWave_scanning (n : Nat) (f : Wave → Wave) : (s.modWave n f).scanning = s.scanning := rfl
@[simp] theorem State.modWave_invals (n : Nat) (f : Wave → Wave) : (s.modWave n f).invals = s.invals := rfl
@[simp] theorem State.modWave_snap (n : Nat) (f : Wave → Wave) : (s.modWave n f).snap = s.snap := rfl
@[simp] theorem State.modWave_recover (n : Nat) (f : Wave → Wave) : (s.modWave n f).recover = s.recover := rfl
@[simp] theorem State.modWave_ports (n : Nat) (f : Wave → Wave) : (s.modWave n f).ports = s.ports := rfl
@[simp] theorem State.modWave_regs (n : Nat) (f : Wave → Wave) : (s.modWave n f).regs = s.regs := rfl
@[simp] theorem State.modWave_drainRecord (n : Nat) (f : Wave → Wave) : (s.modWave n f).drainRecord = s.drainRecord := rfl
@[simp] theorem State.modWave_hostReplies (n : Nat) (f : Wave → Wave) : (s.modWave n f).hostReplies = s.hostReplies := rfl
@[simp] theorem State.modWave_peerReplies (n : Nat) (f : Wave → Wave) : (s.modWave n f).peerReplies = s.peerReplies := rfl
@[simp] theorem State.modWave_hostDropped (n : Nat) (f : Wave → Wave) : (s.modWave n f).hostDropped = s.hostDropped := rfl
@[simp] theorem State.modWave_nextNum (n : Nat) (f : Wave → Wave) : (s.modWave n f).nextNum = s.nextNum := rfl
@[simp] theorem State.modWave_turns (n : Nat) (f : Wave → Wave) : (s.modWave n f).turns = s.turns := rfl
@[simp] theorem State.modWave_tried (n : Nat) (f : Wave → Wave) : (s.modWave n f).tried = s.tried := rfl
@[simp] theorem State.modWave_wakes (n : Nat) (f : Wave → Wave) : (s.modWave n f).wakes = s.wakes := rfl
@[simp] theorem State.modWave_issue (n : Nat) (f : Wave → Wave) : (s.modWave n f).issue = s.issue := rfl
@[simp] theorem State.modWave_stall (n : Nat) (f : Wave → Wave) : (s.modWave n f).stall = s.stall := rfl
@[simp] theorem State.modWave_focus (n : Nat) (f : Wave → Wave) : (s.modWave n f).focus = s.focus := rfl
@[simp] theorem State.modWave_free (n : Nat) (f : Wave → Wave) : (s.modWave n f).free = s.free := rfl

/-! ### `wave` -/

@[simp] theorem State.wave_now (f : Wave → Wave) : (s.wave f).now = s.now := rfl
@[simp] theorem State.wave_clock (f : Wave → Wave) : (s.wave f).clock = s.clock := rfl
@[simp] theorem State.wave_clkFrac (f : Wave → Wave) : (s.wave f).clkFrac = s.clkFrac := rfl
@[simp] theorem State.wave_powered (f : Wave → Wave) : (s.wave f).powered = s.powered := rfl
@[simp] theorem State.wave_holdUp (f : Wave → Wave) : (s.wave f).holdUp = s.holdUp := rfl
@[simp] theorem State.wave_waves (f : Wave → Wave) : (s.wave f).waves = s.waves.modify s.issue.slot f := rfl
@[simp] theorem State.wave_teams (f : Wave → Wave) : (s.wave f).teams = s.teams := rfl
@[simp] theorem State.wave_contexts (f : Wave → Wave) : (s.wave f).contexts = s.contexts := rfl
@[simp] theorem State.wave_queues (f : Wave → Wave) : (s.wave f).queues = s.queues := rfl
@[simp] theorem State.wave_launches (f : Wave → Wave) : (s.wave f).launches = s.launches := rfl
@[simp] theorem State.wave_items (f : Wave → Wave) : (s.wave f).items = s.items := rfl
@[simp] theorem State.wave_images (f : Wave → Wave) : (s.wave f).images = s.images := rfl
@[simp] theorem State.wave_ctxSlots (f : Wave → Wave) : (s.wave f).ctxSlots = s.ctxSlots := rfl
@[simp] theorem State.wave_spilled (f : Wave → Wave) : (s.wave f).spilled = s.spilled := rfl
@[simp] theorem State.wave_boundCount (f : Wave → Wave) : (s.wave f).boundCount = s.boundCount := rfl
@[simp] theorem State.wave_activity (f : Wave → Wave) : (s.wave f).activity = s.activity := rfl
@[simp] theorem State.wave_reservation (f : Wave → Wave) : (s.wave f).reservation = s.reservation := rfl
@[simp] theorem State.wave_cores (f : Wave → Wave) : (s.wave f).cores = s.cores := rfl
@[simp] theorem State.wave_clusters (f : Wave → Wave) : (s.wave f).clusters = s.clusters := rfl
@[simp] theorem State.wave_dies (f : Wave → Wave) : (s.wave f).dies = s.dies := rfl
@[simp] theorem State.wave_mem (f : Wave → Wave) : (s.wave f).mem = s.mem := rfl
@[simp] theorem State.wave_scm (f : Wave → Wave) : (s.wave f).scm = s.scm := rfl
@[simp] theorem State.wave_l2 (f : Wave → Wave) : (s.wave f).l2 = s.l2 := rfl
@[simp] theorem State.wave_side (f : Wave → Wave) : (s.wave f).side = s.side := rfl
@[simp] theorem State.wave_dirty (f : Wave → Wave) : (s.wave f).dirty = s.dirty := rfl
@[simp] theorem State.wave_frameDirty (f : Wave → Wave) : (s.wave f).frameDirty = s.frameDirty := rfl
@[simp] theorem State.wave_marks (f : Wave → Wave) : (s.wave f).marks = s.marks := rfl
@[simp] theorem State.wave_lowMarks (f : Wave → Wave) : (s.wave f).lowMarks = s.lowMarks := rfl
@[simp] theorem State.wave_scmMarks (f : Wave → Wave) : (s.wave f).scmMarks = s.scmMarks := rfl
@[simp] theorem State.wave_frames (f : Wave → Wave) : (s.wave f).frames = s.frames := rfl
@[simp] theorem State.wave_versions (f : Wave → Wave) : (s.wave f).versions = s.versions := rfl
@[simp] theorem State.wave_heldFrom (f : Wave → Wave) : (s.wave f).heldFrom = s.heldFrom := rfl
@[simp] theorem State.wave_persists (f : Wave → Wave) : (s.wave f).persists = s.persists := rfl
@[simp] theorem State.wave_shadow (f : Wave → Wave) : (s.wave f).shadow = s.shadow := rfl
@[simp] theorem State.wave_relCount (f : Wave → Wave) : (s.wave f).relCount = s.relCount := rfl
@[simp] theorem State.wave_combTags (f : Wave → Wave) : (s.wave f).combTags = s.combTags := rfl
@[simp] theorem State.wave_dir (f : Wave → Wave) : (s.wave f).dir = s.dir := rfl
@[simp] theorem State.wave_peerTable (f : Wave → Wave) : (s.wave f).peerTable = s.peerTable := rfl
@[simp] theorem State.wave_groupTable (f : Wave → Wave) : (s.wave f).groupTable = s.groupTable := rfl
@[simp] theorem State.wave_groupPosted (f : Wave → Wave) : (s.wave f).groupPosted = s.groupPosted := rfl
@[simp] theorem State.wave_access (f : Wave → Wave) : (s.wave f).access = s.access := rfl
@[simp] theorem State.wave_rounds (f : Wave → Wave) : (s.wave f).rounds = s.rounds := rfl
@[simp] theorem State.wave_remoteOps (f : Wave → Wave) : (s.wave f).remoteOps = s.remoteOps := rfl
@[simp] theorem State.wave_cmapOff (f : Wave → Wave) : (s.wave f).cmapOff = s.cmapOff := rfl
@[simp] theorem State.wave_scanPassed (f : Wave → Wave) : (s.wave f).scanPassed = s.scanPassed := rfl
@[simp] theorem State.wave_scanning (f : Wave → Wave) : (s.wave f).scanning = s.scanning := rfl
@[simp] theorem State.wave_invals (f : Wave → Wave) : (s.wave f).invals = s.invals := rfl
@[simp] theorem State.wave_snap (f : Wave → Wave) : (s.wave f).snap = s.snap := rfl
@[simp] theorem State.wave_recover (f : Wave → Wave) : (s.wave f).recover = s.recover := rfl
@[simp] theorem State.wave_ports (f : Wave → Wave) : (s.wave f).ports = s.ports := rfl
@[simp] theorem State.wave_regs (f : Wave → Wave) : (s.wave f).regs = s.regs := rfl
@[simp] theorem State.wave_drainRecord (f : Wave → Wave) : (s.wave f).drainRecord = s.drainRecord := rfl
@[simp] theorem State.wave_hostReplies (f : Wave → Wave) : (s.wave f).hostReplies = s.hostReplies := rfl
@[simp] theorem State.wave_peerReplies (f : Wave → Wave) : (s.wave f).peerReplies = s.peerReplies := rfl
@[simp] theorem State.wave_hostDropped (f : Wave → Wave) : (s.wave f).hostDropped = s.hostDropped := rfl
@[simp] theorem State.wave_nextNum (f : Wave → Wave) : (s.wave f).nextNum = s.nextNum := rfl
@[simp] theorem State.wave_turns (f : Wave → Wave) : (s.wave f).turns = s.turns := rfl
@[simp] theorem State.wave_tried (f : Wave → Wave) : (s.wave f).tried = s.tried := rfl
@[simp] theorem State.wave_wakes (f : Wave → Wave) : (s.wave f).wakes = s.wakes := rfl
@[simp] theorem State.wave_issue (f : Wave → Wave) : (s.wave f).issue = s.issue := rfl
@[simp] theorem State.wave_stall (f : Wave → Wave) : (s.wave f).stall = s.stall := rfl
@[simp] theorem State.wave_focus (f : Wave → Wave) : (s.wave f).focus = s.focus := rfl
@[simp] theorem State.wave_free (f : Wave → Wave) : (s.wave f).free = s.free := rfl

/-! ### `stallOn` -/

@[simp] theorem State.stallOn_now (x : Stall) : (s.stallOn x).now = s.now := rfl
@[simp] theorem State.stallOn_clock (x : Stall) : (s.stallOn x).clock = s.clock := rfl
@[simp] theorem State.stallOn_clkFrac (x : Stall) : (s.stallOn x).clkFrac = s.clkFrac := rfl
@[simp] theorem State.stallOn_powered (x : Stall) : (s.stallOn x).powered = s.powered := rfl
@[simp] theorem State.stallOn_holdUp (x : Stall) : (s.stallOn x).holdUp = s.holdUp := rfl
@[simp] theorem State.stallOn_waves (x : Stall) : (s.stallOn x).waves = s.waves := rfl
@[simp] theorem State.stallOn_teams (x : Stall) : (s.stallOn x).teams = s.teams := rfl
@[simp] theorem State.stallOn_contexts (x : Stall) : (s.stallOn x).contexts = s.contexts := rfl
@[simp] theorem State.stallOn_queues (x : Stall) : (s.stallOn x).queues = s.queues := rfl
@[simp] theorem State.stallOn_launches (x : Stall) : (s.stallOn x).launches = s.launches := rfl
@[simp] theorem State.stallOn_items (x : Stall) : (s.stallOn x).items = s.items := rfl
@[simp] theorem State.stallOn_images (x : Stall) : (s.stallOn x).images = s.images := rfl
@[simp] theorem State.stallOn_ctxSlots (x : Stall) : (s.stallOn x).ctxSlots = s.ctxSlots := rfl
@[simp] theorem State.stallOn_spilled (x : Stall) : (s.stallOn x).spilled = s.spilled := rfl
@[simp] theorem State.stallOn_boundCount (x : Stall) : (s.stallOn x).boundCount = s.boundCount := rfl
@[simp] theorem State.stallOn_activity (x : Stall) : (s.stallOn x).activity = s.activity := rfl
@[simp] theorem State.stallOn_reservation (x : Stall) : (s.stallOn x).reservation = s.reservation := rfl
@[simp] theorem State.stallOn_cores (x : Stall) : (s.stallOn x).cores = s.cores := rfl
@[simp] theorem State.stallOn_clusters (x : Stall) : (s.stallOn x).clusters = s.clusters := rfl
@[simp] theorem State.stallOn_dies (x : Stall) : (s.stallOn x).dies = s.dies := rfl
@[simp] theorem State.stallOn_mem (x : Stall) : (s.stallOn x).mem = s.mem := rfl
@[simp] theorem State.stallOn_scm (x : Stall) : (s.stallOn x).scm = s.scm := rfl
@[simp] theorem State.stallOn_l2 (x : Stall) : (s.stallOn x).l2 = s.l2 := rfl
@[simp] theorem State.stallOn_side (x : Stall) : (s.stallOn x).side = s.side := rfl
@[simp] theorem State.stallOn_dirty (x : Stall) : (s.stallOn x).dirty = s.dirty := rfl
@[simp] theorem State.stallOn_frameDirty (x : Stall) : (s.stallOn x).frameDirty = s.frameDirty := rfl
@[simp] theorem State.stallOn_marks (x : Stall) : (s.stallOn x).marks = s.marks := rfl
@[simp] theorem State.stallOn_lowMarks (x : Stall) : (s.stallOn x).lowMarks = s.lowMarks := rfl
@[simp] theorem State.stallOn_scmMarks (x : Stall) : (s.stallOn x).scmMarks = s.scmMarks := rfl
@[simp] theorem State.stallOn_frames (x : Stall) : (s.stallOn x).frames = s.frames := rfl
@[simp] theorem State.stallOn_versions (x : Stall) : (s.stallOn x).versions = s.versions := rfl
@[simp] theorem State.stallOn_heldFrom (x : Stall) : (s.stallOn x).heldFrom = s.heldFrom := rfl
@[simp] theorem State.stallOn_persists (x : Stall) : (s.stallOn x).persists = s.persists := rfl
@[simp] theorem State.stallOn_shadow (x : Stall) : (s.stallOn x).shadow = s.shadow := rfl
@[simp] theorem State.stallOn_relCount (x : Stall) : (s.stallOn x).relCount = s.relCount := rfl
@[simp] theorem State.stallOn_combTags (x : Stall) : (s.stallOn x).combTags = s.combTags := rfl
@[simp] theorem State.stallOn_dir (x : Stall) : (s.stallOn x).dir = s.dir := rfl
@[simp] theorem State.stallOn_peerTable (x : Stall) : (s.stallOn x).peerTable = s.peerTable := rfl
@[simp] theorem State.stallOn_groupTable (x : Stall) : (s.stallOn x).groupTable = s.groupTable := rfl
@[simp] theorem State.stallOn_groupPosted (x : Stall) : (s.stallOn x).groupPosted = s.groupPosted := rfl
@[simp] theorem State.stallOn_access (x : Stall) : (s.stallOn x).access = s.access := rfl
@[simp] theorem State.stallOn_rounds (x : Stall) : (s.stallOn x).rounds = s.rounds := rfl
@[simp] theorem State.stallOn_remoteOps (x : Stall) : (s.stallOn x).remoteOps = s.remoteOps := rfl
@[simp] theorem State.stallOn_cmapOff (x : Stall) : (s.stallOn x).cmapOff = s.cmapOff := rfl
@[simp] theorem State.stallOn_scanPassed (x : Stall) : (s.stallOn x).scanPassed = s.scanPassed := rfl
@[simp] theorem State.stallOn_scanning (x : Stall) : (s.stallOn x).scanning = s.scanning := rfl
@[simp] theorem State.stallOn_invals (x : Stall) : (s.stallOn x).invals = s.invals := rfl
@[simp] theorem State.stallOn_snap (x : Stall) : (s.stallOn x).snap = s.snap := rfl
@[simp] theorem State.stallOn_recover (x : Stall) : (s.stallOn x).recover = s.recover := rfl
@[simp] theorem State.stallOn_ports (x : Stall) : (s.stallOn x).ports = s.ports := rfl
@[simp] theorem State.stallOn_regs (x : Stall) : (s.stallOn x).regs = s.regs := rfl
@[simp] theorem State.stallOn_drainRecord (x : Stall) : (s.stallOn x).drainRecord = s.drainRecord := rfl
@[simp] theorem State.stallOn_hostReplies (x : Stall) : (s.stallOn x).hostReplies = s.hostReplies := rfl
@[simp] theorem State.stallOn_peerReplies (x : Stall) : (s.stallOn x).peerReplies = s.peerReplies := rfl
@[simp] theorem State.stallOn_hostDropped (x : Stall) : (s.stallOn x).hostDropped = s.hostDropped := rfl
@[simp] theorem State.stallOn_nextNum (x : Stall) : (s.stallOn x).nextNum = s.nextNum := rfl
@[simp] theorem State.stallOn_turns (x : Stall) : (s.stallOn x).turns = s.turns := rfl
@[simp] theorem State.stallOn_tried (x : Stall) : (s.stallOn x).tried = s.tried := rfl
@[simp] theorem State.stallOn_wakes (x : Stall) : (s.stallOn x).wakes = s.wakes := rfl
@[simp] theorem State.stallOn_issue (x : Stall) : (s.stallOn x).issue = s.issue := rfl
@[simp] theorem State.stallOn_stall (x : Stall) : (s.stallOn x).stall = x :: s.stall := rfl
@[simp] theorem State.stallOn_focus (x : Stall) : (s.stallOn x).focus = s.focus := rfl
@[simp] theorem State.stallOn_free (x : Stall) : (s.stallOn x).free = s.free := rfl

end Sys2Proof.Machine
end

