-- ==== Sys2Proof/Laws/Table.lean ====
section
/-! SUPPORT. The laws of the containers: read after write, and that writing keeps the canonical form. -/

namespace Sys2Proof.Laws

open Sys2Proof.Machine

variable {α : Type} {w : Nat}

@[simp] theorem findKey_insertKey (k j : Nat) (a : α) (m : List (Nat × α)) (h : findKey k m = none) :
    findKey j (insertKey k a m) = if j = k then some a else findKey j m := by
  induction m with
  | nil => simp [insertKey, findKey, eq_comm]
  | cons e t ih =>
    obtain ⟨i, b⟩ := e
    simp only [findKey] at h
    split at h
    · cases h
    · rename_i hik
      simp only [insertKey]
      split <;> simp only [findKey, ih h]
      · by_cases hj : j = k
        · subst hj; simp
        · simp [hj, Ne.symm hj]
      · by_cases hj : j = k
        · subst hj; simp [hik]
        · simp [hj]

theorem findKey_removeKey (k j : Nat) (m : List (Nat × α)) :
    findKey j (removeKey k m) = if j = k then none else findKey j m := by
  induction m with
  | nil => simp [removeKey, findKey]
  | cons e t ih =>
    obtain ⟨i, b⟩ := e
    by_cases hik : i = k
    · subst hik
      by_cases hj : j = i
      · subst hj; simpa [removeKey] using ih
      · simp [removeKey, findKey, ih, hj, Ne.symm hj]
    · by_cases hj : j = k
      · subst hj; simpa [removeKey, findKey, hik] using ih
      · simp [removeKey, findKey, hik, ih, hj]

theorem get_set (m : Sparse w) (k j : Nat) (v : BitVec w) :
    (m.set k v).get j = if j = k then v else m.get j := by
  unfold Sparse.set Sparse.get
  split
  · rename_i h
    rw [findKey_removeKey]
    split <;> simp [h]
  · rw [findKey_insertKey _ _ _ _ (by simp [findKey_removeKey]), findKey_removeKey]
    split <;> simp_all

@[simp] theorem get_set_same (m : Sparse w) (k : Nat) (v : BitVec w) : (m.set k v).get k = v := by
  simp [get_set]

theorem get_set_other (m : Sparse w) (k j : Nat) (v : BitVec w) (h : j ≠ k) : (m.set k v).get j = m.get j := by
  simp [get_set, h]

@[simp] theorem get?_put_same (m : Assoc α) (k : Nat) (a : α) : (m.put k a).get? k = some a := by
  simp [Assoc.get?, Assoc.put, findKey_insertKey, findKey_removeKey]

theorem get?_put_other (m : Assoc α) (k j : Nat) (a : α) (h : j ≠ k) : (m.put k a).get? j = m.get? j := by
  simp [Assoc.get?, Assoc.put, findKey_insertKey, findKey_removeKey, h]

theorem get?_del (m : Assoc α) (k j : Nat) : (m.del k).get? j = if j = k then none else m.get? j :=
  findKey_removeKey k j m

theorem mem_removeKey {k : Nat} {m : List (Nat × α)} {e : Nat × α} : e ∈ removeKey k m ↔ e ∈ m ∧ e.1 ≠ k := by
  induction m with
  | nil => simp [removeKey]
  | cons x t ih =>
    obtain ⟨i, b⟩ := x
    by_cases hik : i = k
    · subst hik; simp only [removeKey, if_true, List.mem_cons, ih]
      constructor
      · rintro ⟨h, hne⟩; exact ⟨.inr h, hne⟩
      · rintro ⟨rfl | h, hne⟩
        · exact absurd rfl hne
        · exact ⟨h, hne⟩
    · simp only [removeKey, hik, if_false, List.mem_cons, ih]
      constructor
      · rintro (rfl | ⟨h, hne⟩)
        · exact ⟨.inl rfl, hik⟩
        · exact ⟨.inr h, hne⟩
      · rintro ⟨rfl | h, hne⟩
        · exact .inl rfl
        · exact .inr ⟨h, hne⟩

/-- Ascending, said of every pair: the form that induction uses. -/
theorem ascending_cons (j : Nat) (b : α) (t : List (Nat × α)) :
    ascending ((j, b) :: t) = true ↔ (∀ e ∈ t, j < e.1) ∧ ascending t = true := by
  induction t generalizing j b with
  | nil => simp [ascending]
  | cons x t ih =>
    obtain ⟨i, c⟩ := x
    simp only [ascending, Bool.and_eq_true, decide_eq_true_eq, List.mem_cons, forall_eq_or_imp]
    constructor
    · rintro ⟨h, hr⟩
      exact ⟨⟨h, fun e he => h.trans ((ih i c).1 hr |>.1 e he)⟩, hr⟩
    · rintro ⟨⟨h, -⟩, hr⟩; exact ⟨h, hr⟩

theorem ascending_removeKey (k : Nat) (m : List (Nat × α)) (h : ascending m = true) : ascending (removeKey k m) = true := by
  induction m with
  | nil => rfl
  | cons x t ih =>
    obtain ⟨i, b⟩ := x
    rw [ascending_cons] at h
    simp only [removeKey]
    split
    · exact ih h.2
    · rw [ascending_cons]
      exact ⟨fun e he => h.1 e (mem_removeKey.1 he).1, ih h.2⟩

theorem mem_insertKey {k : Nat} {a : α} {m : List (Nat × α)} {e : Nat × α} :
    e ∈ insertKey k a m ↔ e = (k, a) ∨ e ∈ m := by
  induction m with
  | nil => simp [insertKey]
  | cons x t ih =>
    obtain ⟨i, b⟩ := x
    simp only [insertKey]
    split
    · simp
    · simp only [List.mem_cons, ih]; tauto

theorem ascending_insertKey (k : Nat) (a : α) (m : List (Nat × α)) (h : ascending m = true) (hk : ∀ e ∈ m, e.1 ≠ k) :
    ascending (insertKey k a m) = true := by
  induction m with
  | nil => rfl
  | cons x t ih =>
    obtain ⟨i, b⟩ := x
    have h' := (ascending_cons i b t).1 h
    simp only [insertKey]
    split
    · rename_i hlt
      rw [ascending_cons]
      refine ⟨?_, h⟩
      intro e he
      rcases List.mem_cons.1 he with rfl | he
      · exact hlt
      · exact hlt.trans (h'.1 e he)
    · rename_i hnlt
      rw [ascending_cons]
      refine ⟨?_, ih h'.2 fun e he => hk e (List.mem_cons_of_mem _ he)⟩
      intro e he
      rcases mem_insertKey.1 he with rfl | he
      · have := hk (i, b) (List.mem_cons_self ..)
        simp only at this ⊢; omega
      · exact h'.1 e he

theorem put_ascending (m : Assoc α) (k : Nat) (a : α) (h : ascending m = true) : ascending (m.put k a) = true :=
  ascending_insertKey k a _ (ascending_removeKey k m h) fun _ he => (mem_removeKey.1 he).2

/-- Every write keeps the canonical form. -/
theorem set_wf (m : Sparse w) (k : Nat) (v : BitVec w) (h : m.wf = true) : (m.set k v).wf = true := by
  unfold Sparse.wf at *
  rw [Bool.and_eq_true, List.all_eq_true] at *
  unfold Sparse.set
  split
  · exact ⟨ascending_removeKey k m h.1, fun e he => h.2 e (mem_removeKey.1 he).1⟩
  · rename_i hv
    refine ⟨ascending_insertKey k v _ (ascending_removeKey k m h.1) fun _ he => (mem_removeKey.1 he).2, fun e he => ?_⟩
    rcases mem_insertKey.1 he with rfl | he
    · simpa using hv
    · exact h.2 e (mem_removeKey.1 he).1

theorem setList_wf (l : List (BitVec w)) (m : Sparse w) (k : Nat) (h : m.wf = true) : (m.setList k l).wf = true := by
  induction l generalizing m k with
  | nil => exact h
  | cons v t ih => exact ih _ _ (set_wf m k v h)

theorem get_setList (l : List (BitVec w)) (m : Sparse w) (k a : Nat) :
    (m.setList k l).get a = if k ≤ a ∧ a < k + l.length then l.getD (a - k) 0 else m.get a := by
  induction l generalizing m k with
  | nil => simp only [Sparse.setList, List.length_nil]; rw [if_neg]; omega
  | cons v t ih =>
    simp only [Sparse.setList, ih, get_set, List.length_cons]
    by_cases h1 : a = k
    · subst h1; simp
    · by_cases h2 : k + 1 ≤ a ∧ a < k + 1 + t.length
      · have h3 : k ≤ a ∧ a < k + (t.length + 1) := by omega
        obtain ⟨d, rfl⟩ : ∃ d, a = k + 1 + d := ⟨a - (k + 1), by omega⟩
        have h4 : k + 1 + d - k = d + 1 := by omega
        simp [h2, h3, h4]
      · have h3 : ¬(k ≤ a ∧ a < k + (t.length + 1)) := by omega
        rw [if_neg h2, if_neg h3, if_neg h1]

theorem ascending_filter (p : Nat × α → Bool) (m : List (Nat × α)) (h : ascending m = true) : ascending (m.filter p) = true := by
  induction m with
  | nil => rfl
  | cons x t ih =>
    obtain ⟨i, b⟩ := x
    have h' := (ascending_cons i b t).1 h
    simp only [List.filter]
    split
    · rw [ascending_cons]; exact ⟨fun e he => h'.1 e (List.mem_filter.1 he).1, ih h'.2⟩
    · exact ih h'.2

theorem clearRange_wf (m : Sparse w) (lo hi : Nat) (h : m.wf = true) : (m.clearRange lo hi).wf = true := by
  unfold Sparse.wf at *
  rw [Bool.and_eq_true, List.all_eq_true] at *
  exact ⟨ascending_filter _ m h.1, fun e he => h.2 e (List.mem_filter.1 he).1⟩

/-! ### Long runs -/

theorem mem_of_findKey {k : Nat} {a : α} {m : List (Nat × α)} (h : findKey k m = some a) : (k, a) ∈ m := by
  induction m with
  | nil => cases h
  | cons x t ih =>
    obtain ⟨i, b⟩ := x
    simp only [findKey] at h
    split at h
    · rename_i hi; subst hi; cases h; exact List.mem_cons_self ..
    · exact List.mem_cons_of_mem _ (ih h)

theorem mem_entries {l : List (BitVec w)} {k : Nat} {e : Nat × BitVec w} (h : e ∈ Sparse.entries k l) :
    k ≤ e.1 ∧ e.1 < k + l.length ∧ e.2 ≠ 0 := by
  induction l generalizing k with
  | nil => simp [Sparse.entries] at h
  | cons v t ih =>
    simp only [Sparse.entries] at h
    split at h
    · obtain ⟨a, b, c⟩ := ih h; exact ⟨by omega, by simp only [List.length_cons]; omega, c⟩
    · rcases List.mem_cons.1 h with rfl | h
      · exact ⟨Nat.le_refl _, by simp, ‹_›⟩
      · obtain ⟨a, b, c⟩ := ih h; exact ⟨by omega, by simp only [List.length_cons]; omega, c⟩

theorem entries_ascending (l : List (BitVec w)) (k : Nat) : ascending (Sparse.entries k l) = true := by
  induction l generalizing k with
  | nil => rfl
  | cons v t ih =>
    simp only [Sparse.entries]
    split
    · exact ih _
    · exact (ascending_cons _ _ _).2 ⟨fun e he => (mem_entries he).1, ih _⟩

theorem ascending_append {l m : List (Nat × α)} (hl : ascending l = true) (hm : ascending m = true)
    (h : ∀ x ∈ l, ∀ y ∈ m, x.1 < y.1) : ascending (l ++ m) = true := by
  induction l with
  | nil => exact hm
  | cons x t ih =>
    obtain ⟨i, b⟩ := x
    have h' := (ascending_cons i b t).1 hl
    rw [List.cons_append, ascending_cons]
    refine ⟨fun e he => ?_, ih h'.2 fun x hx => h x (List.mem_cons_of_mem _ hx)⟩
    rcases List.mem_append.1 he with he | he
    · exact h'.1 e he
    · exact h _ (List.mem_cons_self ..) e he

/-- Writing a long run keeps the canonical form. -/
theorem splice_wf (m : Sparse w) (k : Nat) (l : List (BitVec w)) (h : m.wf = true) : (m.splice k l).wf = true := by
  unfold Sparse.wf at *
  rw [Bool.and_eq_true, List.all_eq_true] at *
  unfold Sparse.splice
  refine ⟨ascending_append (ascending_append (ascending_filter _ m h.1) (entries_ascending l k) ?_) (ascending_filter _ m h.1) ?_, ?_⟩
  · intro x hx y hy
    have h1 := (List.mem_filter.1 hx).2
    have h2 := mem_entries hy
    simp only [decide_eq_true_eq] at h1
    omega
  · intro x hx y hy
    have h2 := (List.mem_filter.1 hy).2
    simp only [decide_eq_true_eq] at h2
    rcases List.mem_append.1 hx with hx | hx
    · have h1 := (List.mem_filter.1 hx).2
      simp only [decide_eq_true_eq] at h1
      omega
    · have := mem_entries hx; omega
  · intro e he
    rcases List.mem_append.1 he with he | he
    · rcases List.mem_append.1 he with he | he
      · exact h.2 e (List.mem_filter.1 he).1
      · simpa using (mem_entries he).2.2
    · exact h.2 e (List.mem_filter.1 he).1

theorem findKey_append (k : Nat) (l m : List (Nat × α)) : findKey k (l ++ m) = (findKey k l).or (findKey k m) := by
  induction l with
  | nil => rfl
  | cons x t ih =>
    obtain ⟨i, b⟩ := x
    simp only [List.cons_append, findKey, ih]
    split <;> rfl

theorem findKey_filter (p : Nat → Bool) (k : Nat) (m : List (Nat × α)) :
    findKey k (m.filter fun e => p e.1) = if p k then findKey k m else none := by
  induction m with
  | nil => simp [findKey]
  | cons x t ih =>
    obtain ⟨i, b⟩ := x
    simp only [List.filter]
    by_cases hi : i = k
    · subst hi
      cases hp : p i <;> simp [findKey, ih, hp]
    · cases hp : p i <;> simp [findKey, ih, hi]

theorem findKey_entries (l : List (BitVec w)) (k j : Nat) :
    (findKey j (Sparse.entries k l)).getD 0 = if k ≤ j ∧ j < k + l.length then l.getD (j - k) 0 else 0 := by
  induction l generalizing k with
  | nil => simp only [Sparse.entries, findKey, List.length_nil]; rw [if_neg (by omega)]; rfl
  | cons v t ih =>
    have hs : (findKey j (if v = 0 then Sparse.entries (k + 1) t else (k, v) :: Sparse.entries (k + 1) t)).getD 0 =
        if k = j then v else (findKey j (Sparse.entries (k + 1) t)).getD 0 := by
      by_cases hv : v = 0
      · rw [if_pos hv]
        split
        · subst hv; rename_i h; subst h
          rw [ih, if_neg (by omega)]
        · rfl
      · rw [if_neg hv]; simp only [findKey]; split <;> rfl
    simp only [Sparse.entries, hs, ih, List.length_cons]
    by_cases h1 : k = j
    · subst h1; simp
    · by_cases h2 : k + 1 ≤ j ∧ j < k + 1 + t.length
      · obtain ⟨d, rfl⟩ : ∃ d, j = k + 1 + d := ⟨j - (k + 1), by omega⟩
        rw [if_neg h1, if_pos h2, if_pos (by omega), show k + 1 + d - k = d + 1 by omega, show k + 1 + d - (k + 1) = d by omega]
        rfl
      · rw [if_neg h1, if_neg h2, if_neg (by omega)]

/-- A read after a long run reads the run's words inside it, and outside it what was there. -/
theorem get_splice (m : Sparse w) (k j : Nat) (l : List (BitVec w)) :
    (m.splice k l).get j = if k ≤ j ∧ j < k + l.length then l.getD (j - k) 0 else m.get j := by
  unfold Sparse.splice Sparse.get
  rw [findKey_append, findKey_append, findKey_filter (fun n => decide (n < k)), findKey_filter (fun n => decide (k + l.length ≤ n))]
  by_cases h1 : j < k
  · have : findKey j (Sparse.entries k l) = none := by
      cases h : findKey j (Sparse.entries k l) with
      | none => rfl
      | some v => exact absurd (mem_entries (mem_of_findKey h)) (by simp only; omega)
    simp only [decide_eq_true_eq, if_pos h1, this]
    rw [if_neg (show ¬(k ≤ j ∧ j < k + l.length) by omega), if_neg (show ¬(k + l.length ≤ j) by omega)]
    simp
  · simp only [decide_eq_true_eq, if_neg h1, Option.none_or]
    by_cases h2 : j < k + l.length
    · rw [if_neg (show ¬(k + l.length ≤ j) by omega), if_pos (⟨by omega, h2⟩ : k ≤ j ∧ j < k + l.length), Option.or_none,
        findKey_entries, if_pos ⟨by omega, h2⟩]
    · have : findKey j (Sparse.entries k l) = none := by
        cases h : findKey j (Sparse.entries k l) with
        | none => rfl
        | some v => exact absurd (mem_entries (mem_of_findKey h)) (by simp only; omega)
      rw [this, if_pos (show k + l.length ≤ j by omega), if_neg (by omega)]
      rfl

end Sys2Proof.Laws
end

