-- ==== Sys2Proof/Laws/Registers.lean ====
section
/-! SUPPORT. How results land in a wave's registers, and what the issue of a word leaves of its wave (Tasks.lean, Ops.lean). -/

namespace Sys2Proof.Machine

/-! ### Landing -/

/-- The v-registers after the lanes of a list take a function's values. -/
theorem land_vec_get (n : Nat) (f : Nat → Word) : ∀ (ls : List Nat) (v : Sparse 32) (k j : Nat), j < 64 →
    ((ls.map fun l => (l, f l)).foldl (fun v e => if e.1 < 64 then v.set (64 * n + e.1) e.2 else v) v).get (64 * k + j) =
      if k = n ∧ j ∈ ls then f j else v.get (64 * k + j)
  | [], v, k, j, _ => by simp
  | l :: ls, v, k, j, hj => by
    simp only [List.map_cons, List.foldl_cons]
    rw [land_vec_get n f ls _ k j hj]
    by_cases hk : k = n
    · subst hk
      by_cases hm : j ∈ ls
      · simp [hm]
      · by_cases hl : j = l
        · subst hl; simp [hj, hm]
        · simp only [hm, hl, List.mem_cons, or_self, and_false, if_false]
          split
          · exact Sys2Proof.Laws.get_set_other _ _ _ _ (by omega)
          · rfl
    · simp only [hk, false_and, if_false]
      split
      · exact Sys2Proof.Laws.get_set_other _ _ _ _ (by omega)
      · rfl

/-- A result in another v-register leaves a lane alone. -/
theorem land_vec_other (n k j : Nat) (hk : k ≠ n) (hj : j < 64) : ∀ (vs : List (Nat × Word)) (v : Sparse 32),
    (vs.foldl (fun v e => if e.1 < 64 then v.set (64 * n + e.1) e.2 else v) v).get (64 * k + j) = v.get (64 * k + j)
  | [], _ => rfl
  | e :: vs, v => by
    rw [List.foldl_cons, land_vec_other n k j hk hj vs]
    split
    · exact Sys2Proof.Laws.get_set_other _ _ _ _ (by omega)
    · rfl

/-- A register's value among registers; for a v-register, of one lane. -/
def Regs.value (g : Regs) (r : RegName) (l : Nat) : DWord :=
  match r with
  | .v n => (g.v.get (64 * n + l)).setWidth 64
  | .s n => (g.s.get n).setWidth 64
  | .m n => g.m.get n
  | .sc => if g.sc then 1 else 0

theorem settled_eq (w : Wave) (r : RegName) (l : Nat) : w.settled r l = w.landAll.regs.value r l := rfl

/-- A landing changes no other register. -/
theorem land_other (g : Regs) (mask : DWord) (x : Landing) (r : RegName) (l : Nat) (h : x.reg ≠ r) (hl : l < 64) :
    (g.land mask x).value r l = g.value r l := by
  cases x <;> cases r <;>
    first
    | rfl
    | exact congrArg (BitVec.setWidth 64) (land_vec_other _ _ _ (fun e => h (by rw [e]; rfl)) hl _ _)
    | exact congrArg (BitVec.setWidth 64) (Sys2Proof.Laws.get_set_other _ _ _ _ (fun e => h (by rw [e]; rfl)))
    | exact Sys2Proof.Laws.get_set_other _ _ _ _ (fun e => h (by rw [e]; rfl))
    | exact absurd rfl h

/-- Two landings that give a register one value give it one value after another landing. -/
theorem land_same (g k : Regs) (mask : DWord) (x : Landing) (r : RegName) (hv : ∀ l, l < 64 → g.value r l = k.value r l) (l : Nat) (hl : l < 64) :
    (g.land mask x).value r l = (k.land mask x).value r l := by
  by_cases h : x.reg = r
  · subst h
    cases x with
    | sca n x => simp [Landing.reg, Regs.land, Regs.value]
    | msk n x => simp [Landing.reg, Regs.land, Regs.value]
    | cond b => rfl
    | vec n vs =>
      have key : ∀ (vs : List (Nat × Word)) (a b : Sparse 32), (∀ j, j < 64 → a.get (64 * n + j) = b.get (64 * n + j)) →
          ∀ j, j < 64 → (vs.foldl (fun v e => if e.1 < 64 then v.set (64 * n + e.1) e.2 else v) a).get (64 * n + j) =
            (vs.foldl (fun v e => if e.1 < 64 then v.set (64 * n + e.1) e.2 else v) b).get (64 * n + j) := by
        intro vs
        induction vs with
        | nil => intro a b hab j hj; exact hab j hj
        | cons e vs ih =>
          intro a b hab
          rw [List.foldl_cons, List.foldl_cons]
          apply ih
          intro j hj
          split
          · rw [Sys2Proof.Laws.get_set, Sys2Proof.Laws.get_set]; simp [hab j hj]
          · exact hab j hj
      simp only [Landing.reg, Regs.land, Regs.value]
      rw [key vs g.v k.v _ l hl]
      intro j hj
      have := hv j hj
      simp only [Landing.reg, Regs.value] at this
      apply BitVec.eq_of_toNat_eq
      have h2 := congrArg BitVec.toNat this
      rw [BitVec.toNat_setWidth, BitVec.toNat_setWidth, Nat.mod_eq_of_lt (by omega), Nat.mod_eq_of_lt (by omega)] at h2
      exact h2
  · rw [land_other _ _ _ _ _ h hl, land_other _ _ _ _ _ h hl, hv l hl]

/-- The registers after a list of landings. -/
def landRegs (mask : DWord) (g : Regs) (ps : List Pend) : Regs := ps.foldl (fun r p => r.land mask p.write) g

theorem landRegs_same (mask : DWord) (r : RegName) : ∀ (ps : List Pend) (g k : Regs), (∀ l, l < 64 → g.value r l = k.value r l) →
    ∀ l, l < 64 → (landRegs mask g ps).value r l = (landRegs mask k ps).value r l
  | [], _, _, h, l, hl => h l hl
  | p :: ps, g, k, h, l, hl => landRegs_same mask r ps _ _ (fun j hj => land_same g k mask p.write r h j hj) l hl

/-- Landings of other registers do not count. -/
theorem landRegs_filter (mask : DWord) (r : RegName) (p : Pend → Bool) (hp : ∀ x, p x = false → x.write.reg ≠ r) : ∀ (ps : List Pend) (g : Regs)
    (l : Nat), l < 64 → (landRegs mask g (ps.filter p)).value r l = (landRegs mask g ps).value r l
  | [], _, _, _ => rfl
  | x :: ps, g, l, hl => by
    by_cases h : p x = true
    · rw [List.filter_cons_of_pos h]
      exact landRegs_filter mask r p hp ps _ l hl
    · rw [List.filter_cons_of_neg h, landRegs_filter mask r p hp ps g l hl]
      exact landRegs_same mask r ps _ _ (fun j hj => (land_other g mask x.write r j (hp x (by simpa using h)) hj).symm) l hl

theorem landRegs_none (mask : DWord) (r : RegName) : ∀ (ps : List Pend) (g : Regs), (∀ x ∈ ps, x.write.reg ≠ r) → ∀ l, l < 64 →
    (landRegs mask g ps).value r l = g.value r l
  | [], _, _, _, _ => rfl
  | x :: ps, g, h, l, hl => by
    have := landRegs_none mask r ps (g.land mask x.write) (fun y hy => h y (List.mem_cons_of_mem _ hy)) l hl
    rw [land_other _ _ _ _ _ (h x List.mem_cons_self) hl] at this
    exact this

theorem settled_regs (w : Wave) (r : RegName) (l : Nat) : w.settled r l = (landRegs w.mask w.regs w.pend).value r l := rfl

/-- A fixed-latency result settles its own register alone. -/
theorem settled_later (w : Wave) (t : Nat) (x : Landing) (r : RegName) (l : Nat) (h : x.reg ≠ r) (hl : l < 64) :
    (w.later t x).settled r l = w.settled r l := by
  rw [settled_regs, settled_regs]
  show (landRegs w.mask w.regs (w.pend ++ [_])).value r l = _
  rw [landRegs, List.foldl_append]
  exact land_other _ _ _ _ _ h hl

/-- A variable-latency result settles its own register alone. -/
theorem settled_now (w : Wave) (x : Landing) (r : RegName) (l : Nat) (h : x.reg ≠ r) (hl : l < 64) : (w.now x).settled r l = w.settled r l := by
  rw [settled_regs, settled_regs]
  show (landRegs w.mask ((landRegs w.mask w.regs (w.pend.filter fun p => decide (p.write.reg = x.reg))).land w.mask x)
    (w.pend.filter fun p => !decide (p.write.reg = x.reg))).value r l = _
  rw [landRegs_filter _ _ _ (by intro y hy; simp only [Bool.not_eq_false', decide_eq_true_eq] at hy; rw [hy]; exact h) _ _ _ hl]
  refine landRegs_same _ _ _ _ _ (fun j hj => ?_) l hl
  rw [land_other _ _ _ _ _ h hj]
  exact landRegs_none _ _ _ _ (by intro y hy; simp only [List.mem_filter, decide_eq_true_eq] at hy; rw [hy.2]; exact h) _ hj

/-! ### When results land -/

/-- A result that is ready lands last of those that land. -/
theorem split_now (t : Nat) (p : Pend) (h : p.ready ≤ t) : ∀ l : List Pend, ∃ a b, splitPend t (l ++ [p]) = (a ++ [p], b)
  | [] => ⟨[], [], by simp [splitPend, h]⟩
  | q :: l => by
    obtain ⟨a, b, e⟩ := split_now t p h l
    simp only [List.cons_append, splitPend, e]
    split
    · exact ⟨q :: a, b, rfl⟩
    · exact ⟨a, q :: b, rfl⟩

/-- A result that is not ready waits behind the others. -/
theorem split_later (t : Nat) (p : Pend) (h : t < p.ready) : ∀ l : List Pend,
    splitPend t (l ++ [p]) = ((splitPend t l).1, (splitPend t l).2 ++ [p])
  | [] => by simp [splitPend]; omega
  | q :: l => by
    simp only [List.cons_append, splitPend, split_later t p h l]
    split <;> simp

theorem landAt_now (w : Wave) (t ready : Nat) (r : Landing) (h : ready ≤ t) :
    ∃ a, ((w.later ready r).landAt t).regs = (w.landList a).regs.land w.mask r := by
  obtain ⟨a, c, e⟩ := split_now t ⟨ready, r⟩ h w.pend
  refine ⟨a, ?_⟩
  simp only [Wave.later, Wave.landAt, e, Wave.landList]
  simp [List.foldl_append, Wave.mask]

end Sys2Proof.Machine
end

