-- ==== Sys2Proof/Laws/Issue.lean ====
section
/-! SUPPORT. What the end of an issue leaves alone (Ops.lean): charging the core, moving the bundle and deciding waiters again change no
register, no special register, no memory and no unit. -/

namespace Sys2Proof.Machine

/-- The part of a wave that a word of its own or of another wave changes only by what its meaning says. -/
def Wave.data (w : Wave) : Regs × List Pend × BitVec 5 × List DWord × Assoc (List DWord) × Header :=
  (w.regs, w.pend, w.fstat, w.specials, w.rstack, w.hdr)

/-- The part of the machine beside the waves and the scheduler's lists. -/
def State.rest (s : State) : List Host.Cell × List Host.Cell × Assoc (Assoc Byte) × Assoc Context × Assoc Team × Assoc Launch × Assoc Die ×
    Assoc Cluster × Regfile :=
  (s.mem, s.scm, s.versions, s.contexts, s.teams, s.launches, s.dies, s.clusters, s.regs)

/-- The data of the wave in a slot. -/
def State.dataAt (s : State) (n : Nat) := (s.waves.get? n).map Wave.data

theorem get?_mapKey {α : Type} (m : Assoc α) (f : Nat × α → Nat × α) (h : ∀ e, (f e).1 = e.1) (n : Nat) :
    Assoc.get? (m.map f) n = (m.get? n).map fun a => (f (n, a)).2 := by
  unfold Assoc.get?
  induction m with
  | nil => rfl
  | cons e t ih =>
    obtain ⟨k, a⟩ := e
    have hk := h (k, a)
    rw [List.map_cons]
    rcases hf : f (k, a) with ⟨j, c⟩
    rw [hf] at hk
    simp only at hk
    subst hk
    simp only [findKey]
    by_cases hj : j = n
    · subst hj; simp [hf]
    · simp [hj, ih]

theorem get?_modify {α : Type} (m : Assoc α) (k n : Nat) (f : α → α) :
    (m.modify k f).get? n = if n = k then (m.get? n).map f else m.get? n := by
  unfold Assoc.modify
  by_cases h : n = k
  · subst h
    cases hg : m.get? n with
    | none => simp [hg]
    | some a => simp
  · cases hg : m.get? k with
    | none => simp [h]
    | some a => simp [h, Sys2Proof.Laws.get?_put_other]

/-! ### Waves -/

theorem dataAt_modWave (s : State) (k n : Nat) (f : Wave → Wave) (h : ∀ w, (f w).data = w.data) : (s.modWave k f).dataAt n = s.dataAt n := by
  unfold State.dataAt
  rw [State.modWave_waves, get?_modify]
  split
  · rw [Option.map_map]; congr 1; funext w; exact h w
  · rfl

theorem passedOver_data (s : State) (slot : Nat) (e : Nat × Wave) : (s.passedOver slot e).data = e.2.data := by
  unfold State.passedOver; dsimp only; split <;> rfl

/-- Counting activity changes the count alone. -/
theorem addActivity_rest (s : State) (c : Nat) (l : List Nat) (n : Nat) :
    (s.addActivity c l n).rest = s.rest ∧ (s.addActivity c l n).waves = s.waves := by
  unfold State.addActivity; split <;> exact ⟨rfl, rfl⟩

theorem charge_rest (s : State) (ls : List Nat) (slot gap : Nat) (g : Bool) : (s.charge ls slot gap g).rest = s.rest := by
  have h : ∀ l, (s.addActivity (clusOf (coreOf slot)) l 1).rest = s.rest := fun l => (addActivity_rest s _ l 1).1
  unfold State.charge
  exact h _

theorem dataAt_charge (s : State) (ls : List Nat) (slot gap n : Nat) (g : Bool) : (s.charge ls slot gap g).dataAt n = s.dataAt n := by
  unfold State.dataAt State.charge
  rw [get?_mapKey _ _ (by intro e; split <;> [rfl; (split <;> rfl)])]
  rw [Option.map_map]
  congr 1
  funext w
  simp only [Function.comp]
  split
  · rfl
  · split
    · exact passedOver_data _ _ _
    · rfl

theorem moveTo_data (w : Wave) (l : DWord) (gs : List (DWord × DWord)) (f : Option DWord) : (w.moveTo l gs f).data = w.data := rfl

theorem merged_data (w : Wave) : w.merged.data = w.data := by
  unfold Wave.merged; split <;> rfl

theorem endGroup_data (w : Wave) : w.endGroup.data = w.data := rfl

theorem releaseWhere_data (w : Wave) (t : Nat) (p : Park → Bool) : (w.releaseWhere t p).data = w.data := by
  unfold Wave.releaseWhere; split <;> rfl

theorem recheck_data (w : Wave) (m : Nat) : (w.recheck m).data = w.data := by
  unfold Wave.recheck; split
  · rw [merged_data, releaseWhere_data]
  · rfl

theorem move_data (s : State) (i : Issue) (gs : List (DWord × DWord)) (f : Option DWord) (n : Nat) : (s.move i gs f).dataAt n = s.dataAt n := by
  unfold State.move
  apply dataAt_modWave
  intro w
  split
  · unfold Wave.resumeAt; rw [merged_data]; rfl
  · split <;> rfl

theorem distributable_rest (s : State) (p : Nat) : (s.distributable p).rest = s.rest ∧ (s.distributable p).waves = s.waves := by
  unfold State.distributable; split
  · split <;> exact ⟨rfl, rfl⟩
  · exact ⟨rfl, rfl⟩

theorem wakeWhere_rest (s : State) (p : Park → Bool) : (s.wakeWhere p).rest = s.rest ∧ (s.wakeWhere p).waves = s.waves := ⟨rfl, rfl⟩

theorem queueOwner_rest (s : State) (e : Nat × CtxSlot) : (s.queueOwner e).rest = s.rest ∧ (s.queueOwner e).waves = s.waves := by
  unfold State.queueOwner
  split
  · exact ⟨rfl, rfl⟩
  · exact distributable_rest s _

theorem foldState_rest {α : Type} {f : State → α → State} (hf : ∀ t a, (f t a).rest = t.rest ∧ (f t a).waves = t.waves) :
    ∀ (l : List α) (s : State), (foldState f s l).rest = s.rest ∧ (foldState f s l).waves = s.waves
  | [], _ => ⟨rfl, rfl⟩
  | a :: l, s => ⟨(foldState_rest hf l (f s a)).1.trans (hf s a).1, (foldState_rest hf l (f s a)).2.trans (hf s a).2⟩

theorem modSlotsFor_rest : ∀ (n : Nat) (s : State) (f : Wave → Wave), (s.modSlotsFor n f).rest = s.rest ∧ (s.modSlotsFor n f).waves = s.waves
  | 0, _, _ => ⟨rfl, rfl⟩
  | n + 1, s, f => by
    unfold State.modSlotsFor
    dsimp only
    split
    · exact ⟨rfl, rfl⟩
    · obtain ⟨a, b⟩ := modSlotsFor_rest n ((foldState State.queueOwner _ _).wakeWhere _) _
      obtain ⟨c, d⟩ := wakeWhere_rest (foldState State.queueOwner _ _) _
      obtain ⟨g, h⟩ := foldState_rest queueOwner_rest _ _
      exact ⟨a.trans (c.trans g), b.trans (d.trans h)⟩

theorem modSlots_rest (s : State) (f : Wave → Wave) : (s.modSlots f).rest = s.rest ∧ (s.modSlots f).waves = s.waves := modSlotsFor_rest _ s f

theorem retryWhere_rest (s : State) (p : Park → Bool) : (s.retryWhere p).rest = s.rest ∧ (s.retryWhere p).waves = s.waves := by
  unfold State.retryWhere
  exact ⟨(modSlots_rest _ _).1, (modSlots_rest _ _).2⟩

/-- The end of an issue that goes on at the next word: no wave's data and no unit changes. -/
theorem settle_done (z : State) (ls : List Nat) (i : Issue) (gap : Nat) (g : Bool) :
    ((Did.done z).settle ls i gap g).rest = z.rest ∧ ∀ n, ((Did.done z).settle ls i gap g).dataAt n = z.dataAt n := by
  unfold Did.settle State.afterRelease State.retryOwned
  dsimp only
  have h1 : ∀ (u : State) (gs : List (DWord × DWord)), (u.move i gs none).rest = u.rest := fun _ _ => rfl
  cases i.resumed with
  | true =>
    simp only [if_true]
    let m := z.move i [(i.pc + 4, i.lanes)] none
    obtain ⟨a, b⟩ := retryWhere_rest m (m.ownedBy (m.taskAt i.slot))
    refine ⟨a.trans (h1 _ _), fun n => ?_⟩
    rw [State.dataAt, b]
    exact move_data _ _ _ _ _
  | false =>
    simp only [Bool.false_eq_true, if_false]
    refine ⟨charge_rest z ls i.slot gap g, fun n => ?_⟩
    rw [move_data, dataAt_charge]

/-- What a register-only word leaves: the data of its wave as a function changes it, and everything else as it was. -/
theorem after_wave (s : State) (q : Sched) (w : Wave) (f : Wave → Wave) (h : s.waves.get? s.issue.slot = some w) :
    let t := s.after q (.done ((s.countWord w).wave f))
    t.rest = s.rest ∧ (∀ n, n ≠ s.issue.slot → t.dataAt n = s.dataAt n) ∧
      ∃ y, t.dataAt s.issue.slot = some (f y).data ∧ y.data = w.data ∧ y.handler = w.handler := by
  intro t
  obtain ⟨a, b⟩ := settle_done ((s.countWord w).wave f) (s.launchesAt s.issue.slot) s.issue (gapOf q s.issue.held) q.giveWay
  have hc : (s.countWord w).rest = s.rest ∧ (s.countWord w).issue = s.issue ∧ (∀ n, n ≠ s.issue.slot → (s.countWord w).dataAt n = s.dataAt n) ∧
      ∃ y, (s.countWord w).waves.get? s.issue.slot = some y ∧ y.data = w.data ∧ y.handler = w.handler := by
    unfold State.countWord
    split
    · refine ⟨rfl, rfl, fun n hn => ?_, { w with stepWords := w.stepWords + 1 }, ?_, rfl, rfl⟩
      · rw [State.dataAt, State.setWave_waves, Sys2Proof.Laws.get?_put_other _ _ _ _ hn]; rfl
      · rw [State.setWave_waves, Sys2Proof.Laws.get?_put_same]
    · exact ⟨rfl, rfl, fun _ _ => rfl, w, h, rfl, rfl⟩
  obtain ⟨c1, c2, c3, y, c4, c5, c6⟩ := hc
  refine ⟨a.trans c1, fun n hn => ?_, y, ?_, c5, c6⟩
  · rw [← c3 n hn]
    refine (b n).trans ?_
    rw [State.dataAt, State.wave_waves, get?_modify, c2, if_neg hn]; rfl
  · refine (b _).trans ?_
    rw [State.dataAt, State.wave_waves, get?_modify, c2, if_pos rfl, c4]; rfl

end Sys2Proof.Machine
end

