-- ==== Sys2Proof/Laws/Memory.lean ====
section
/-! SUPPORT. Every memory operation keeps the canonical form of the coherent image and of the SCM medium, and memory after reset has
it (log entry 3); beside it the order of the held versions, and the legal values of the power registers, are kept. `State.ok` is all of
these; the lemma `f_ok` of a function f says that it keeps them. -/

namespace Sys2Proof.Machine

/-! ### Lists of cells -/

theorem foldl_set_wf {α : Type} {k : α → Nat} {v : α → Byte} {l : List α} {m : List Host.Cell} (h : Memory.wf m = true) :
    Memory.wf (l.foldl (fun m c => Sparse.set m (k c) (v c)) m) = true := by
  induction l generalizing m with
  | nil => exact h
  | cons c l ih => exact ih (Sys2Proof.Laws.set_wf m _ _ h)

theorem splice_wf {m : List Host.Cell} {k : Nat} {l : List Byte} (h : Memory.wf m = true) : Memory.wf (Sparse.splice m k l) = true :=
  Sys2Proof.Laws.splice_wf m k l h

theorem filter_wf {p : Host.Cell → Bool} {m : List Host.Cell} (h : Memory.wf m = true) : Memory.wf (m.filter p) = true := by
  unfold Memory.wf Sparse.wf at *
  rw [Bool.and_eq_true, List.all_eq_true] at *
  exact ⟨Sys2Proof.Laws.ascending_filter _ m h.1, fun e he => h.2 e (List.mem_filter.1 he).1⟩

/-! ### Held versions -/

theorem foldl_put_ascending {l : List Host.Cell} {v : Assoc Byte} (h : ascending v = true) :
    ascending (l.foldl (fun v c => Assoc.put v c.1 c.2) v) = true := by
  induction l generalizing v with
  | nil => exact h
  | cons c l ih => exact ih (Sys2Proof.Laws.put_ascending _ _ _ h)

theorem versionsOk_mem {v : Assoc (Assoc Byte)} : versionsOk v = true ↔ ∀ e ∈ v, ascending e.2 = true := List.all_eq_true

theorem version_ascending {s : State} (h : versionsOk s.versions = true) (task : Nat) : ascending (s.version task) = true := by
  unfold State.version Assoc.getD
  cases hf : findKey task s.versions with
  | none => rfl
  | some v => exact versionsOk_mem.1 h _ (Sys2Proof.Laws.mem_of_findKey hf)

theorem versionsOk_del {v : Assoc (Assoc Byte)} {k : Nat} (h : versionsOk v = true) : versionsOk (v.del k) = true :=
  versionsOk_mem.2 fun e he => versionsOk_mem.1 h e (Sys2Proof.Laws.mem_removeKey.1 he).1

theorem versionsOk_dels {α : Type} {f : α → Nat} {l : List α} {v : Assoc (Assoc Byte)} (h : versionsOk v = true) :
    versionsOk (l.foldl (fun v e => v.del (f e)) v) = true := by
  induction l generalizing v with
  | nil => exact h
  | cons e l ih => exact ih (versionsOk_del h)

theorem versionsOk_put {v : Assoc (Assoc Byte)} {k : Nat} {x : Assoc Byte} (h : versionsOk v = true) (hx : ascending x = true) :
    versionsOk (v.put k x) = true := by
  refine versionsOk_mem.2 fun e he => ?_
  unfold Assoc.put at he
  rcases Sys2Proof.Laws.mem_insertKey.1 he with rfl | he
  · exact hx
  · exact versionsOk_mem.1 h e (Sys2Proof.Laws.mem_removeKey.1 he).1

theorem versionsOk_modify {v : Assoc (Assoc Byte)} {k : Nat} {f : Assoc Byte → Assoc Byte} (h : versionsOk v = true)
    (hf : ∀ x, ascending x = true → ascending (f x) = true) : versionsOk (v.modify k f) = true := by
  unfold Assoc.modify
  split
  · rename_i x hx
    exact versionsOk_put h (hf x (versionsOk_mem.1 h _ (Sys2Proof.Laws.mem_of_findKey hx)))
  · exact h

/-! ### The invariant -/

/-- Both memories of a state are in canonical form, the held versions in order, and the power registers legal. -/
def State.ok (s : State) : Prop :=
  Memory.wf s.mem = true ∧ Memory.wf s.scm = true ∧ versionsOk s.versions = true ∧ s.regs.legal = true

theorem State.ok_iff (s : State) : s.ok ↔ s.Inv = true := by simp [State.ok, State.Inv, and_assoc]

theorem State.reset_ok : State.reset.ok := ⟨rfl, rfl, rfl, rfl⟩

/-- A state written out, or one that an update of the fields leaves. -/
theorem State.ok_mk
    {now : Nat} {clock : DWord} {clkFrac : Nat} {powered : Bool} {holdUp : Bool} {waves : Assoc Wave} {teams : Assoc Team} {contexts : Assoc Context}
    {queues : Assoc LaunchQueue} {launches : Assoc Launch} {items : Assoc Item} {images : Assoc Image} {ctxSlots : Assoc CtxSlot}
    {spilled : Assoc Spilled} {boundCount : Assoc Nat} {activity : Assoc (Assoc Nat)} {reservation : Option (Nat × Nat)} {cores : Assoc Core}
    {clusters : Assoc Cluster} {dies : Assoc Die} {mem : List Host.Cell} {scm : List Host.Cell} {l2 : List Nat} {side : List Nat} {dirty : List Nat}
    {frameDirty : List Nat} {marks : List Nat} {lowMarks : List Nat} {scmMarks : List Nat} {frames : Assoc (Sparse 8)}
    {versions : Assoc (Assoc Byte)} {heldFrom : Assoc Nat} {persists : List WbqGroup} {shadow : Assoc Shadow} {relCount : Assoc Nat}
    {combTags : Assoc CombTag} {dir : Assoc DirEntry} {peerTable : Sparse 64} {groupTable : Sparse 8} {groupPosted : Assoc Nat}
    {access : List AccWin} {rounds : List Round} {remoteOps : List RemoteOp} {cmapOff : List Nat} {scanPassed : List Nat} {scanning : Option Scan}
    {invals : Assoc Inval} {snap : Snap} {recover : Recover} {ports : Assoc Port} {regs : Regfile} {drainRecord : Option (Nat × Bool)}
    {hostReplies : List HostReply} {peerReplies : List PeerReply} {hostDropped : Nat} {nextNum : Nat} {turns : List Turn} {tried : List Instr}
    {wakes : List (Nat × DWord)} {issue : Issue} {stall : List Stall} {focus : Nat} {free : Nat}
    (hm : Memory.wf mem = true) (hs : Memory.wf scm = true) (hv : versionsOk versions = true) (hr : regs.legal = true) :
    State.ok (State.mk
      now clock clkFrac powered holdUp waves teams contexts queues launches items images ctxSlots spilled boundCount activity reservation
      cores clusters dies mem scm l2 side dirty frameDirty marks lowMarks scmMarks frames versions heldFrom persists shadow relCount
      combTags dir peerTable groupTable groupPosted access rounds remoteOps cmapOff scanPassed scanning invals snap recover ports regs
      drainRecord hostReplies peerReplies hostDropped nextNum turns tried wakes issue stall focus free) := ⟨hm, hs, hv, hr⟩

theorem State.ok_mem {s : State} (h : s.ok) : Memory.wf s.mem = true := h.1
theorem State.ok_scm {s : State} (h : s.ok) : Memory.wf s.scm = true := h.2.1
theorem State.ok_versions {s : State} (h : s.ok) : versionsOk s.versions = true := h.2.2.1
theorem State.ok_regs {s : State} (h : s.ok) : s.regs.legal = true := h.2.2.2
theorem State.ok_version {s : State} (h : s.ok) (task : Nat) : ascending (s.version task) = true := version_ascending h.2.2.1 task

/-- An update of other registers keeps the power registers legal. -/
theorem Regfile.legal_of {r x : Regfile} (h : x.legal = true)
    (e : (r.pceil, r.req, r.permit, r.cur, r.target) = (x.pceil, x.req, x.permit, x.cur, x.target)) : r.legal = true := by
  simp only [Prod.mk.injEq] at e
  unfold Regfile.legal at *
  simpa only [e] using h

theorem State.ok_regs_of {s : State} {r : Regfile} (h : s.ok)
    (e : (r.pceil, r.req, r.permit, r.cur, r.target) = (s.regs.pceil, s.regs.req, s.regs.permit, s.regs.cur, s.regs.target)) :
    r.legal = true := Regfile.legal_of h.2.2.2 e

theorem foldl_ok {α : Type} {f : State → α → State} {l : List α} {s : State} (hf : ∀ t a, t.ok → (f t a).ok) (h : s.ok) :
    (l.foldl f s).ok := by
  induction l generalizing s with
  | nil => exact h
  | cons a l ih => exact ih (hf s a h)

/-- What an issue does keeps the form. -/
def Did.ok (d : Did) : Prop := d.state.ok

theorem Did.ok_done {s : State} (h : s.ok) : (Did.done s).ok := h
theorem Did.ok_goto {s : State} {g : List (DWord × DWord)} {f : Option DWord} (h : s.ok) : (Did.goto s g f).ok := h
theorem Did.ok_trap {s : State} {r : Raise} {l : List Raise} (h : s.ok) : (Did.trap s r l).ok := h
theorem Did.ok_wait {s : State} (h : s.ok) : (Did.wait s).ok := h
theorem Did.ok_park {s : State} {p : Park} (h : s.ok) : (Did.park s p).ok := h
theorem Did.ok_left {s : State} (h : s.ok) : (Did.left s).ok := h

/-- The next state of an outcome keeps the form. -/
def keeps (o : Host.Outcome State Fault Refusal) : Prop := ∀ t, o = .next t → t.ok

theorem keeps_next {s : State} (h : s.ok) : keeps (.next s) := fun _ e => by cases e; exact h
theorem keeps_fault {f : Fault} : keeps (.fault f) := fun _ e => by cases e
theorem keeps_refused {r : Refusal} : keeps (.refused r) := fun _ e => by cases e

theorem some_ok {s : State} (h : s.ok) : ∀ t, some s = some t → t.ok := fun _ e => Option.some.inj e ▸ h
theorem none_ok : ∀ t, (none : Option State) = some t → t.ok := fun _ e => by cases e
theorem some_ok_fst {α : Type} {s : State × α} (h : s.1.ok) : ∀ t, some s = some t → t.1.ok := fun _ e => Option.some.inj e ▸ h
theorem none_ok_fst {α : Type} : ∀ t, (none : Option (State × α)) = some t → t.1.ok := fun _ e => by cases e
theorem map_ok {α : Type} {f : α → State} {o : Option α} (h : ∀ a, o = some a → (f a).ok) : ∀ t, o.map f = some t → t.ok :=
  fun _ e => by obtain ⟨a, ha, rfl⟩ := Option.map_eq_some_iff.1 e; exact h a ha
theorem map_ok_fst {α β : Type} {f : α → State × β} {o : Option α} (h : ∀ a, o = some a → (f a).1.ok) :
    ∀ t, o.map f = some t → t.1.ok :=
  fun _ e => by obtain ⟨a, ha, rfl⟩ := Option.map_eq_some_iff.1 e; exact h a ha
theorem bind_ok {α : Type} {f : α → Option State} {o : Option α} (h : ∀ a, o = some a → ∀ t, f a = some t → t.ok) :
    ∀ t, o.bind f = some t → t.ok :=
  fun t e => by obtain ⟨a, ha, e'⟩ := Option.bind_eq_some_iff.1 e; exact h a ha t e'
theorem got_ok {s : State} (h : s.ok) : ∀ t, Got.ok s = .ok t → t.ok := fun _ e => Got.ok.inj e ▸ h
theorem got_bad {c : Nat} : ∀ t, (Got.bad c : Got State) = .ok t → t.ok := fun _ e => by cases e
theorem got_wait : ∀ t, (Got.wait : Got State) = .ok t → t.ok := fun _ e => by cases e
theorem got_ok_fst {α : Type} {s : State × α} (h : s.1.ok) : ∀ t, Got.ok s = .ok t → t.1.ok := fun _ e => Got.ok.inj e ▸ h
theorem got_bad_fst {α : Type} {c : Nat} : ∀ t, (Got.bad c : Got (State × α)) = .ok t → t.1.ok := fun _ e => by cases e
theorem got_wait_fst {α : Type} : ∀ t, (Got.wait : Got (State × α)) = .ok t → t.1.ok := fun _ e => by cases e
theorem bind_ok_fst {α β : Type} {f : α → Option (State × β)} {o : Option α} (h : ∀ a, o = some a → ∀ t, f a = some t → t.1.ok) :
    ∀ t, o.bind f = some t → t.1.ok :=
  fun t e => by obtain ⟨a, ha, e'⟩ := Option.bind_eq_some_iff.1 e; exact h a ha t e'

/-- What a step does keeps the form. -/
def Plan.ok : Plan → Prop
  | .run _ s => s.ok
  | .rest s => s.ok
  | .probe _ was _ s => was.ok ∧ s.ok

theorem Plan.ok_run {i : Instr} {s : State} (h : s.ok) : (Plan.run i s).ok := h
theorem Plan.ok_rest {s : State} (h : s.ok) : (Plan.rest s).ok := h
theorem Plan.ok_probe {n : Nat} {s t : State} {i : Instr} (hs : s.ok) (ht : t.ok) : (Plan.probe n s i t).ok := ⟨hs, ht⟩

end Sys2Proof.Machine
end

