-- ==== Sys2Proof/Laws/Frames.lean ====
section
/-! SUPPORT. What the operations that store to global memory leave alone: the bytes elsewhere, other tasks' versions, the registers of every
wave (spec/06 R152, spec/09 R224 to R226). `Same` says that a state differs from another in neither; `Frames`, for one task and the slot of
its wave, that it differs in the named destinations and bytes alone, unless the operation has to wait. -/

namespace Sys2Proof.Machine

/-! ### Bytes and versions -/

theorem leaves_refl (s : State) (k a : Nat) : s.leaves s k a := .inl ⟨rfl, rfl⟩

theorem leaves_trans {s t y : State} {k a : Nat} (h1 : s.leaves t k a) (h2 : t.leaves y k a) : s.leaves y k a := by
  unfold State.leaves at *
  unfold Assoc.getD Assoc.get? at *
  rcases h1 with ⟨a1, b1⟩ | ⟨a1, b1⟩ <;> rcases h2 with ⟨a2, b2⟩ | ⟨a2, b2⟩
  · exact .inl ⟨a2.trans a1, b2.trans b1⟩
  · exact .inr ⟨by rw [a2, b1, a1], b2⟩
  · exact .inr ⟨a2.trans a1, b2.trans b1⟩
  · refine .inr ⟨?_, b2⟩
    rw [a2, b1, a1]; rfl

/-- The byte of a memory after cells have been set that name other addresses. -/
theorem foldl_set_get_other : ∀ (cs : List Host.Cell) (m : Sparse 8) (a : Nat), (∀ c ∈ cs, c.1 ≠ a) →
    (cs.foldl (fun m c => Sparse.set m c.1 c.2) m).get a = m.get a
  | [], _, _, _ => rfl
  | c :: cs, m, a, h => by
    rw [List.foldl_cons, foldl_set_get_other cs _ a fun x hx => h x (List.mem_cons_of_mem _ hx)]
    exact Sys2Proof.Laws.get_set_other m c.1 a c.2 (Ne.symm (h c (List.mem_cons_self ..)))

theorem findKey_none_of {k : Nat} : ∀ {v : Assoc Byte}, (∀ e ∈ v, k < e.1) → findKey k v = none
  | [], _ => rfl
  | (j, b) :: v, h => by
    have := h (j, b) (List.mem_cons_self ..)
    simp only [findKey]
    rw [if_neg (by simp only at this; omega)]
    exact findKey_none_of fun e he => h e (List.mem_cons_of_mem _ he)

/-- The byte of a memory after cells in ascending order have been set. -/
theorem foldl_set_get : ∀ (v : Assoc Byte) (m : Sparse 8) (a : Nat), ascending v = true →
    (v.foldl (fun m c => Sparse.set m c.1 c.2) m).get a = v.getD a (m.get a)
  | [], m, a, _ => rfl
  | (k, b) :: v, m, a, h => by
    rw [Sys2Proof.Laws.ascending_cons] at h
    rw [List.foldl_cons, foldl_set_get v _ a h.2, Sys2Proof.Laws.get_set]
    unfold Assoc.getD
    simp only [findKey]
    by_cases hk : k = a
    · subst hk
      rw [findKey_none_of h.1]
      simp
    · simp [hk, Ne.symm hk]

theorem leBytes_length : ∀ (n v : Nat), (leBytes n v).length = n
  | 0, _ => rfl
  | n + 1, v => by rw [leBytes, List.length_cons, leBytes_length n]

theorem cellsAt_mem : ∀ {bs : List Byte} {pa : Nat} {c : Host.Cell}, c ∈ cellsAt pa bs → pa ≤ c.1 ∧ c.1 < pa + bs.length
  | [], _, _, h => by simp [cellsAt] at h
  | b :: bs, pa, c, h => by
    rw [cellsAt, List.mem_cons] at h
    rcases h with rfl | h
    · simp
    · have := cellsAt_mem h
      simp only [List.length_cons]
      omega

/-- A version after cells of other addresses have been put into it. -/
theorem foldl_put_get?_other : ∀ (cs : List Host.Cell) (v : Assoc Byte) (a : Nat), (∀ c ∈ cs, c.1 ≠ a) →
    (cs.foldl (fun v c => Assoc.put v c.1 c.2) v).get? a = v.get? a
  | [], _, _, _ => rfl
  | c :: cs, v, a, h => by
    rw [List.foldl_cons, foldl_put_get?_other cs _ a fun x hx => h x (List.mem_cons_of_mem _ hx)]
    exact Sys2Proof.Laws.get?_put_other v c.1 a c.2 (Ne.symm (h c (List.mem_cons_self ..)))

/-! ### Operations that store nothing -/

/-- Two states have the same memory, versions, contexts, waves and word in issue, and the later one waits where the earlier one does. -/
def Same (s y : State) : Prop :=
  (y.mem = s.mem ∧ y.versions = s.versions ∧ y.contexts = s.contexts ∧ y.waves = s.waves ∧ y.issue = s.issue) ∧ (y.stall = [] → s.stall = [])

theorem Same.refl (s : State) : Same s s := ⟨⟨rfl, rfl, rfl, rfl, rfl⟩, id⟩

theorem Same.trans {s t y : State} (h1 : Same s t) (h2 : Same t y) : Same s y := by
  obtain ⟨⟨a1, b1, c1, d1, e1⟩, f1⟩ := h1
  obtain ⟨⟨a2, b2, c2, d2, e2⟩, f2⟩ := h2
  exact ⟨⟨a2.trans a1, b2.trans b1, c2.trans c1, d2.trans d1, e2.trans e1⟩, f1 ∘ f2⟩

theorem Same.foldState {α : Type} {f : State → α → State} (hf : ∀ t a, Same t (f t a)) : ∀ (l : List α) (s : State), Same s (Machine.foldState f s l)
  | [], s => Same.refl s
  | a :: l, s => (hf s a).trans (Same.foldState hf l (f s a))

theorem stallOn_same (s : State) (x : Stall) : Same s (s.stallOn x) := ⟨⟨rfl, rfl, rfl, rfl, rfl⟩, fun h => by simp [State.stallOn] at h⟩
theorem modCore_same (s : State) (c : Nat) (f : Core → Core) : Same s (s.modCore c f) := ⟨⟨rfl, rfl, rfl, rfl, rfl⟩, id⟩
theorem modDie_same (s : State) (d : Nat) (f : Die → Die) : Same s (s.modDie d f) := ⟨⟨rfl, rfl, rfl, rfl, rfl⟩, id⟩
theorem modCluster_same (s : State) (c : Nat) (f : Cluster → Cluster) : Same s (s.modCluster c f) := ⟨⟨rfl, rfl, rfl, rfl, rfl⟩, id⟩

theorem dropRows_same (s : State) (c pa n : Nat) : Same s (s.dropRows c pa n) := by
  unfold State.dropRows; split
  · exact modCore_same ..
  · exact Same.refl s

theorem dropCells_same (s : State) (c : Nat) (cs : List Host.Cell) : Same s (s.dropCells c cs) := by
  unfold State.dropCells; split
  · exact Same.refl s
  · exact modCore_same ..

theorem clearL1_same (s : State) (c : Nat) : Same s (s.clearL1 c) := by
  unfold State.clearL1; split
  · exact Same.refl s
  · exact modCore_same ..

theorem writeBack_same (s : State) (k : Nat) : Same s (s.writeBack k) := by
  unfold State.writeBack; dsimp only; repeat' split
  all_goals exact ⟨⟨rfl, rfl, rfl, rfl, rfl⟩, id⟩

theorem cleanComb_same (s : State) (k : Nat) : Same s (s.cleanComb k) := by
  unfold State.cleanComb; split
  · exact Same.refl s
  · exact (writeBack_same s k).trans ⟨⟨rfl, rfl, rfl, rfl, rfl⟩, id⟩

theorem makeWay_same (s : State) (n : Nat) : Same s (s.makeWay n) := by
  unfold State.makeWay; dsimp only; split
  · exact Same.refl s
  · split
    · exact Same.refl s
    · exact stallOn_same s _
    · exact Same.trans (t := { s with free := s.free + 1 }) ⟨⟨rfl, rfl, rfl, rfl, rfl⟩, id⟩ (cleanComb_same _ _)

theorem fetchComb_same (s : State) (k : Nat) : Same s (s.fetchComb k) := by
  unfold State.fetchComb; split
  · exact Same.refl s
  · exact Same.trans (makeWay_same s _) ⟨⟨rfl, rfl, rfl, rfl, rfl⟩, id⟩

theorem combRead_same (s : State) (pa : Nat) (col : Option Nat) : Same s (s.combRead pa col) := by
  unfold State.combRead; dsimp only; split
  · exact Same.refl s
  · refine (fetchComb_same s (pa / 1024)).trans ?_
    split
    · exact Same.refl _
    · exact ⟨⟨rfl, rfl, rfl, rfl, rfl⟩, id⟩

theorem readPoint_same (s : State) (pa n : Nat) : Same s (s.readPoint pa n).1 := by
  unfold State.readPoint; dsimp only; split
  · exact stallOn_same s _
  · exact Same.refl s

theorem rangeRead_same (s : State) (pa n : Nat) : Same s (s.rangeRead pa n) := Same.foldState (fun t k => combRead_same t (32 * k) none) _ _

theorem readRange_same (s : State) (pa n : Nat) : Same s (s.readRange pa n).1 := by
  unfold State.readRange
  extract_lets tiles held
  exact Same.trans (t := { s with stall := held ++ s.stall }) ⟨⟨rfl, rfl, rfl, rfl, rfl⟩, fun h => (List.append_eq_nil_iff.1 h).2⟩
    (rangeRead_same _ pa n)

theorem noteSide_same (s : State) (x : Xlate) : Same s (s.noteSide x) := by
  unfold State.noteSide; split
  · exact Same.refl s
  · dsimp only; repeat' split
    · exact Same.refl s
    · exact (Same.foldState cleanComb_same _ _).trans ⟨⟨rfl, rfl, rfl, rfl, rfl⟩, id⟩
    · exact ⟨⟨rfl, rfl, rfl, rfl, rfl⟩, id⟩
    · exact Same.refl s

theorem walk_same (ctx die : Nat) (clus : Option Nat) (va : Nat) : ∀ (fuel n table : Nat) (s : State), Same s (s.walk ctx die clus va fuel n table).1
  | 0, _, _, s => Same.refl s
  | fuel + 1, n, table, s => by
    unfold State.walk; dsimp only; split
    · exact walk_same ctx die clus va fuel _ _ s
    · split
      · exact Same.refl s
      · have hc : Same s (s.combRead (table + 8 * (va / 2 ^ levelShift n % levelEntries n)) none) := combRead_same s _ none
        split
        · exact hc
        · split
          · exact hc
          · split
            · dsimp only; split
              · exact hc.trans (modCluster_same ..)
              · exact hc
            · exact (hc.trans (modDie_same ..)).trans (walk_same ctx die clus va fuel _ _ _)

theorem translate_same (s : State) (ctx die : Nat) (clus : Option Nat) (va : Nat) : Same s (s.translate ctx die clus va).1 := by
  have h : Same s (s.lookup ctx die clus va).1 := by
    unfold State.lookup; dsimp only; split
    · exact Same.refl s
    · split
      · exact Same.refl s
      · exact walk_same ..
  exact h.trans (noteSide_same _ _)

theorem check_same (s : State) (ctx die : Nat) (clus : Option Nat) (va n align : Nat) (w : Want) : Same s (s.check ctx die clus va n align w).1 := by
  unfold State.check; dsimp only; split
  · exact Same.refl s
  · have := translate_same s ctx die clus va
    split
    · exact this
    · split <;> exact this

theorem checkLanes_same (slot : Nat) (w : Wave) (n align space : Nat) (want : Want) : ∀ (addr : List (Nat × Nat)) (s : State),
    Same s (s.checkLanes slot w n align space want addr).1
  | [], s => Same.refl s
  | (l, va) :: t, s => by
    unfold State.checkLanes; dsimp only
    have h := check_same s w.ctx (dieOf (clusOf (coreOf slot))) (some (clusOf (coreOf slot))) va n align want
    split <;> exact h.trans (checkLanes_same slot w n align space want t _)

theorem afterRemote_same (s : State) (w : Wave) (n : Nat) (as : List Acc) : Same s (s.afterRemote w n as) := by
  unfold State.afterRemote; split
  · exact stallOn_same ..
  · exact Same.refl s

theorem ordered_same (s : State) (slot : Nat) : Same s (s.ordered slot) := by
  unfold State.ordered; split
  · exact stallOn_same ..
  · exact Same.refl s

theorem post_same (s : State) (w : Wave) (slot : Nat) (bs : List Host.Cell) : Same s (s.post w slot bs) := by
  unfold State.post; split
  · exact Same.refl s
  · exact ⟨⟨rfl, rfl, rfl, rfl, rfl⟩, id⟩

theorem postRemote_same (s : State) (w : Wave) (slot pa : Nat) (bs : List Byte) :
    Same s (s.postRemote w slot pa bs) := ⟨⟨rfl, rfl, rfl, rfl, rfl⟩, id⟩

theorem release_same (s : State) (slot scope : Nat) : Same s (s.release slot scope) := by
  unfold State.release; split
  · exact Same.refl s
  · refine Same.foldState (fun t l => ?_) _ _
    split
    · exact ⟨⟨rfl, rfl, rfl, rfl, rfl⟩, id⟩
    · exact Same.refl t

theorem readRemote_same : ∀ (n : Nat) (s : State) (seen : Assoc (Option Byte)) (pa : Nat), Same s (s.readRemote seen pa n).1
  | 0, s, _, _ => Same.refl s
  | n + 1, s, seen, pa => by
    unfold State.readRemote; dsimp only
    exact Same.trans (t := { s with free := s.free + 1 }) ⟨⟨rfl, rfl, rfl, rfl, rfl⟩, id⟩ (readRemote_same n _ _ _)

/-! ### Operations that store -/

/-- What an operation for a task changes: the wave in a slot keeps all registers but some destinations, bytes that a predicate names keep
what the task sees, and other tasks' versions, the contexts and the other waves' registers stay. -/
structure Framed (slot task : Nat) (ds : List RegName) (P : Nat → Prop) (s y : State) : Prop where
  stall : s.stall = []
  issue : y.issue = s.issue
  contexts : y.contexts = s.contexts
  others : ∀ n, n ≠ slot → y.dataAt n = s.dataAt n
  own : ∀ w, s.waves.get? slot = some w → w.task = task → ∃ x, y.waves.get? slot = some x ∧ x.task = task ∧ x.ctx = w.ctx ∧ w.keeps x ds
  order : versionsOk s.versions = true → versionsOk y.versions = true ∧ ∀ a, P a → s.leaves y task a
  versions : ∀ k, k ≠ task → y.version k = s.version k

/-- The same, unless the operation has to wait. -/
def Frames (slot task : Nat) (ds : List RegName) (P : Nat → Prop) (s y : State) : Prop := y.stall = [] → Framed slot task ds P s y

theorem keeps_refl (w : Wave) (ds : List RegName) : w.keeps w ds := ⟨fun _ _ _ _ => rfl, rfl, rfl, rfl⟩

theorem keeps_trans {w x y : Wave} {ds : List RegName} (h1 : w.keeps x ds) (h2 : x.keeps y ds) : w.keeps y ds :=
  ⟨fun r l hr hl => (h2.1 r l hr hl).trans (h1.1 r l hr hl), h2.2.1.trans h1.2.1, h2.2.2.1.trans h1.2.2.1, h2.2.2.2.trans h1.2.2.2⟩

/-- A wave with the same data has the same registers. -/
theorem keeps_of_data {w x : Wave} (h : x.data = w.data) (ds : List RegName) : w.keeps x ds := by
  unfold Wave.data at h
  simp only [Prod.mk.injEq] at h
  obtain ⟨h1, h2, h3, h4, h5, h6⟩ := h
  refine ⟨fun r l _ _ => ?_, h3, h4, h5⟩
  rw [settled_regs, settled_regs, h1, h2, Wave.mask, Wave.mask, h6]

theorem Frames.trans {slot task : Nat} {ds : List RegName} {P : Nat → Prop} {s t y : State} (h1 : Frames slot task ds P s t)
    (h2 : Frames slot task ds P t y) : Frames slot task ds P s y := by
  intro h
  have f2 := h2 h
  have f1 := h1 f2.stall
  refine ⟨f1.stall, f2.issue.trans f1.issue, f2.contexts.trans f1.contexts, fun n hn => (f2.others n hn).trans (f1.others n hn), ?_, ?_,
    fun k hk => (f2.versions k hk).trans (f1.versions k hk)⟩
  · intro w hw ht
    obtain ⟨x, hx, tx, cx, kx⟩ := f1.own w hw ht
    obtain ⟨z, hz, tz, cz, kz⟩ := f2.own x hx tx
    exact ⟨z, hz, tz, cz.trans cx, keeps_trans kx kz⟩
  · intro hv
    obtain ⟨o1, l1⟩ := f1.order hv
    obtain ⟨o2, l2⟩ := f2.order o1
    exact ⟨o2, fun a ha => leaves_trans (l1 a ha) (l2 a ha)⟩

theorem Same.frames {slot task : Nat} {ds : List RegName} {P : Nat → Prop} {s y : State} (h : Same s y) : Frames slot task ds P s y := by
  obtain ⟨⟨a, b, c, d, e⟩, f⟩ := h
  intro hy
  refine ⟨f hy, e, c, fun n _ => by unfold State.dataAt; rw [d], fun w hw ht => ⟨w, by rw [d]; exact hw, ht, rfl, keeps_refl w ds⟩, ?_, ?_⟩
  · intro hv
    refine ⟨by rw [b]; exact hv, fun x _ => .inl ⟨by unfold State.byteAt; rw [a], by unfold State.version; rw [b]⟩⟩
  · intro k _; unfold State.version; rw [b]

theorem Frames.refl (slot task : Nat) (ds : List RegName) (P : Nat → Prop) (s : State) : Frames slot task ds P s s := (Same.refl s).frames

theorem Frames.foldState {α : Type} {slot task : Nat} {ds : List RegName} {P : Nat → Prop} {f : State → α → State} :
    ∀ (l : List α) (s : State), (∀ t, ∀ a ∈ l, Frames slot task ds P t (f t a)) → Frames slot task ds P s (Machine.foldState f s l)
  | [], s, _ => Frames.refl slot task ds P s
  | a :: l, s, h => (h s a (List.mem_cons_self ..)).trans (Frames.foldState l _ fun t b hb => h t b (List.mem_cons_of_mem _ hb))

theorem Frames.mono {slot task : Nat} {ds es : List RegName} {P Q : Nat → Prop} {s y : State} (hd : ∀ r ∈ ds, r ∈ es) (hp : ∀ a, Q a → P a)
    (h : Frames slot task ds P s y) : Frames slot task es Q s y := by
  intro hy
  obtain ⟨a, b, c, d, e, f, g⟩ := h hy
  refine ⟨a, b, c, d, fun w hw ht => ?_, fun hv => ⟨(f hv).1, fun x hx => (f hv).2 x (hp x hx)⟩, g⟩
  obtain ⟨x, hx, tx, cx, k1, k2⟩ := e w hw ht
  exact ⟨x, hx, tx, cx, fun r l hr hl => k1 r l (fun h => hr (hd r h)) hl, k2⟩

/-- A change of one wave that keeps its task, its context and its data. -/
theorem modWave_frames {slot task n : Nat} {ds : List RegName} {P : Nat → Prop} (s : State) (f : Wave → Wave)
    (hd : ∀ w, (f w).data = w.data) (ht : ∀ w, (f w).task = w.task ∧ (f w).ctx = w.ctx) : Frames slot task ds P s (s.modWave n f) := by
  intro h
  refine ⟨h, rfl, rfl, fun k _ => dataAt_modWave s n k f hd, fun w hw hk => ?_, fun hv => ⟨hv, fun a _ => leaves_refl _ _ _⟩, fun _ _ => rfl⟩
  rw [State.modWave_waves, get?_modify]
  split
  · exact ⟨f w, by rw [hw]; rfl, (ht w).1.trans hk, (ht w).2, keeps_of_data (hd w) ds⟩
  · exact ⟨w, hw, hk, rfl, keeps_refl w ds⟩

/-- A variable-latency result of the wave in issue. -/
theorem putNow_frames {task : Nat} {ds : List RegName} {P : Nat → Prop} (s : State) (slot : Nat) (l : Landing) (hs : s.issue.slot = slot)
    (hl : l.reg ∈ ds) : Frames slot task ds P s (s.putNow l) := by
  subst hs
  intro h
  refine ⟨h, rfl, rfl, fun k hk => ?_, fun w hw ht => ?_, fun hv => ⟨hv, fun a _ => leaves_refl _ _ _⟩, fun _ _ => rfl⟩
  · unfold State.dataAt State.putNow
    rw [State.wave_waves, get?_modify, if_neg hk]
  · unfold State.putNow
    rw [State.wave_waves, get?_modify, if_pos rfl, hw]
    refine ⟨w.now l, rfl, ht, rfl, fun r n hr hn => settled_now w l r n (fun e => hr (e ▸ hl)) hn, rfl, rfl, rfl⟩

/-! ### Waking what waits -/

theorem distributable_at (s : State) (p : Nat) : (s.distributable p).issue = s.issue ∧ (s.distributable p).stall = s.stall := by
  unfold State.distributable; split
  · split <;> exact ⟨rfl, rfl⟩
  · exact ⟨rfl, rfl⟩

theorem queueOwner_at (s : State) (e : Nat × CtxSlot) : (s.queueOwner e).issue = s.issue ∧ (s.queueOwner e).stall = s.stall := by
  unfold State.queueOwner
  split
  · exact ⟨rfl, rfl⟩
  · exact distributable_at s _

theorem foldState_at {α : Type} {f : State → α → State} (hf : ∀ t a, (f t a).issue = t.issue ∧ (f t a).stall = t.stall) :
    ∀ (l : List α) (s : State), (foldState f s l).issue = s.issue ∧ (foldState f s l).stall = s.stall
  | [], _ => ⟨rfl, rfl⟩
  | a :: l, s => ⟨(foldState_at hf l (f s a)).1.trans (hf s a).1, (foldState_at hf l (f s a)).2.trans (hf s a).2⟩

theorem modSlotsFor_at : ∀ (n : Nat) (s : State) (f : Wave → Wave), (s.modSlotsFor n f).issue = s.issue ∧ (s.modSlotsFor n f).stall = s.stall
  | 0, _, _ => ⟨rfl, rfl⟩
  | n + 1, s, f => by
    unfold State.modSlotsFor
    dsimp only
    split
    · exact ⟨rfl, rfl⟩
    · obtain ⟨a, b⟩ := modSlotsFor_at n ((foldState State.queueOwner _ _).wakeWhere _) _
      obtain ⟨g, h⟩ := foldState_at queueOwner_at _ _
      exact ⟨a.trans g, b.trans h⟩

/-- What is woken in context slots changes no resident wave. -/
theorem modSlots_same (s : State) (f : Wave → Wave) : Same s (s.modSlots f) := by
  obtain ⟨a, b⟩ := modSlots_rest s f
  obtain ⟨c, d⟩ := modSlotsFor_at (s.ctxSlots.length + 1) s f
  simp only [State.rest, Prod.mk.injEq] at a
  exact ⟨⟨a.1, a.2.2.1, a.2.2.2.1, b, c⟩, fun h => by rw [← d]; exact h⟩

theorem retryWhere_same (s : State) (p : Park → Bool) : Same s (s.retryWhere p) := by
  unfold State.retryWhere
  exact Same.trans (t := s.wakeWhere p) ⟨⟨rfl, rfl, rfl, rfl, rfl⟩, id⟩ (modSlots_same _ _)

theorem releaseWhere_task (w : Wave) (t : Nat) (p : Park → Bool) : (w.releaseWhere t p).task = w.task ∧ (w.releaseWhere t p).ctx = w.ctx := by
  unfold Wave.releaseWhere; split <;> exact ⟨rfl, rfl⟩

theorem releaseWhere_frames {slot task : Nat} {ds : List RegName} {P : Nat → Prop} (s : State) (p : Park → Bool) :
    Frames slot task ds P s (s.releaseWhere p) := by
  unfold State.releaseWhere
  refine Frames.trans (t := { s with waves := s.waves.map fun e => (e.1, e.2.releaseWhere s.now p) }) ?_ (modSlots_same _ _).frames
  intro h
  have hg : ∀ n, Assoc.get? (s.waves.map fun e => (e.1, e.2.releaseWhere s.now p)) n = (s.waves.get? n).map fun w => w.releaseWhere s.now p :=
    fun n => get?_mapKey s.waves (fun e => (e.1, e.2.releaseWhere s.now p)) (fun _ => rfl) n
  refine ⟨h, rfl, rfl, fun k _ => ?_, fun w hw hk => ?_, fun hv => ⟨hv, fun a _ => leaves_refl _ _ _⟩, fun _ _ => rfl⟩
  · unfold State.dataAt
    show (Assoc.get? (s.waves.map fun e => (e.1, e.2.releaseWhere s.now p)) k).map Wave.data = _
    rw [hg, Option.map_map]; congr 1; funext w; exact releaseWhere_data _ _ _
  · show ∃ x, Assoc.get? (s.waves.map fun e => (e.1, e.2.releaseWhere s.now p)) slot = some x ∧ _
    rw [hg, hw]
    obtain ⟨a, b⟩ := releaseWhere_task w s.now p
    exact ⟨_, rfl, a.trans hk, b, keeps_of_data (releaseWhere_data _ _ _) ds⟩

/-! ### Stores -/

/-- A write at the ordering point changes the bytes that it writes. -/
theorem performAt_frames {slot task : Nat} {ds : List RegName} {P : Nat → Prop} (s : State) (blocks whole addrs : List Nat)
    (write : Sparse 8 → Sparse 8) (h : ∀ (m : Sparse 8) (a : Nat), P a → (write m).get a = m.get a) :
    Frames slot task ds P s (s.performAt blocks whole addrs write) := by
  unfold State.performAt
  extract_lets tiles held s0 s1
  split
  · rename_i hh
    refine Same.frames ⟨⟨rfl, rfl, rfl, rfl, rfl⟩, fun e => ?_⟩
    exact (List.append_eq_nil_iff.1 e).2
  · have h0 : Same s s0 := Same.foldState fetchComb_same _ _
    refine Frames.trans h0.frames (Frames.trans (t := s1) ?_ (Frames.trans (releaseWhere_frames _ _) (retryWhere_same _ _).frames))
    intro hs
    refine ⟨hs, rfl, rfl, fun _ _ => rfl, fun w hw ht => ⟨w, hw, ht, rfl, keeps_refl w ds⟩, fun hv => ⟨hv, fun a ha => .inl ⟨h _ a ha, rfl⟩⟩,
      fun _ _ => rfl⟩

theorem store_frames {slot task : Nat} {ds : List RegName} {P : Nat → Prop} (s : State) (cs : List Host.Cell) (h : ∀ a, P a → ∀ c ∈ cs, c.1 ≠ a) :
    Frames slot task ds P s (s.store cs) := by
  unfold State.store
  extract_lets blocks
  exact performAt_frames s blocks _ _ _ fun m a ha => foldl_set_get_other cs m a (h a ha)

theorem storeAt_frames {slot task : Nat} {ds : List RegName} {P : Nat → Prop} (s : State) (pa : Nat) (bs : List Byte)
    (h : ∀ a, P a → ¬(pa ≤ a ∧ a < pa + bs.length)) : Frames slot task ds P s (s.storeAt pa bs) :=
  store_frames s _ fun a ha c hc e => h a ha (e ▸ cellsAt_mem hc)

/-- What is stored at the ordering point: the bytes of memory where the store does not wait. -/
theorem performAt_mem (s : State) (blocks whole addrs : List Nat) (write : Sparse 8 → Sparse 8)
    (h : (s.performAt blocks whole addrs write).stall = []) : (s.performAt blocks whole addrs write).mem = write s.mem := by
  unfold State.performAt at h ⊢
  extract_lets tiles held s0 s1 at h ⊢
  split at h
  · rename_i hh; exact absurd (List.append_eq_nil_iff.1 h).1 hh
  · rename_i hh
    rw [if_neg hh]
    have h0 : Same s s0 := Same.foldState fetchComb_same _ _
    have hr := (retryWhere_same (s1.releaseWhere (wakesOn blocks)) (retriesOn blocks)).1.1
    rw [hr]
    unfold State.releaseWhere
    rw [(modSlots_same _ _).1.1]
    show write s0.mem = _
    rw [h0.1.1]

theorem store_mem (s : State) (cs : List Host.Cell) (h : (s.store cs).stall = []) :
    (s.store cs).mem = cs.foldl (fun m c => Sparse.set m c.1 c.2) s.mem := by
  unfold State.store at h ⊢
  extract_lets blocks at h ⊢
  exact performAt_mem s blocks _ _ _ h

/-! ### Commits -/

/-- A task's held bytes become visible. -/
theorem commitHeld_frames {slot : Nat} {ds : List RegName} {P : Nat → Prop} (s : State) (core : Nat) (w : Wave) :
    Frames slot w.task ds P s (s.commitHeld core w) := by
  unfold State.commitHeld
  extract_lets v
  split
  · exact Frames.refl _ _ _ _ _
  · split
    · exact Same.frames ⟨⟨rfl, rfl, rfl, rfl, rfl⟩, fun e => by simp at e⟩
    · refine Frames.trans ?_ (dropCells_same _ _ _).frames
      intro hs
      let z : State := { s with versions := s.versions.del w.task }
      have hz := store_frames (slot := slot) (task := w.task) (ds := ds) (P := fun a => ∀ c ∈ v, c.1 ≠ a) z v (fun a h => h) hs
      have hm : (z.store v).mem = v.foldl (fun m c => Sparse.set m c.1 c.2) s.mem := store_mem z v hs
      have hdel : ∀ k, z.version k = if k = w.task then [] else s.version k := by
        intro k
        show Assoc.getD (s.versions.del w.task) k [] = _
        have := Sys2Proof.Laws.get?_del s.versions w.task k
        unfold Assoc.get? at this
        unfold Assoc.getD State.version Assoc.getD
        rw [this]; split <;> rfl
      have hver : ∀ k, (z.store v).version k = z.version k := fun k =>
        (store_frames (slot := slot) (task := k + 1) (ds := ds) (P := fun a => ∀ c ∈ v, c.1 ≠ a) z v (fun a h => h) hs).versions k (by omega)
      refine ⟨hz.stall, hz.issue, hz.contexts, hz.others, hz.own, fun hv => ⟨(hz.order (versionsOk_del hv)).1, fun a _ => .inr ⟨?_, ?_⟩⟩, ?_⟩
      · unfold State.byteAt
        rw [hm, foldl_set_get v s.mem a (version_ascending hv _)]
      · rw [hver, hdel, if_pos rfl]; rfl
      · intro k hk; rw [hver, hdel, if_neg hk]

theorem setWave_frames {slot task : Nat} {ds : List RegName} {P : Nat → Prop} (s : State) (w x : Wave) (hw : s.waves.get? slot = some w)
    (hd : x.data = w.data) (ht : x.task = w.task ∧ x.ctx = w.ctx) : Frames slot task ds P s (s.setWave slot x) := by
  intro h
  refine ⟨h, rfl, rfl, fun k hk => ?_, fun y hy hk => ?_, fun hv => ⟨hv, fun a _ => leaves_refl _ _ _⟩, fun _ _ => rfl⟩
  · unfold State.dataAt
    rw [State.setWave_waves, Sys2Proof.Laws.get?_put_other _ _ _ _ hk]
  · rw [hw] at hy
    obtain rfl := Option.some.inj hy
    rw [State.setWave_waves, Sys2Proof.Laws.get?_put_same]
    exact ⟨x, rfl, ht.1.trans hk, ht.2, keeps_of_data hd ds⟩

/-- A commit of the task in a slot. -/
theorem commit_frames {slot task : Nat} {ds : List RegName} {P : Nat → Prop} (s : State) (h : ∀ w, s.waves.get? slot = some w → w.task = task) :
    Frames slot task ds P s (s.commit slot) := by
  unfold State.commit
  split
  · exact Frames.refl _ _ _ _ _
  · rename_i w hw
    obtain rfl := h w hw
    exact (setWave_frames s w w.commits hw rfl ⟨rfl, rfl⟩).trans (commitHeld_frames _ _ w)

theorem countForced_frames {slot task : Nat} {ds : List RegName} {P : Nat → Prop} (s : State) (ctx : Nat)
    (h : ∀ a, P a → ¬s.inForced a) : Frames slot task ds P s (s.countForced ctx) := by
  unfold State.countForced
  refine storeAt_frames s _ _ fun a ha hc => h a ha ⟨ctx, hc.1, ?_⟩
  simpa [leBytes] using hc.2

theorem inForced_congr {s y : State} (h : y.contexts = s.contexts) (a : Nat) : y.inForced a ↔ s.inForced a := by
  unfold State.inForced State.context; rw [h]

/-- An operation that follows another one, whose frame may use what the first one leaves. -/
theorem Frames.bind {slot task : Nat} {ds : List RegName} {P : Nat → Prop} {s t y : State} (h1 : Frames slot task ds P s t)
    (h0 : y.stall = [] → t.stall = []) (h2 : Framed slot task ds P s t → Frames slot task ds P t y) : Frames slot task ds P s y :=
  fun h => (h1.trans (h2 (h1 (h0 h)))) h

theorem countForced_stall (s : State) (ctx : Nat) : (s.countForced ctx).stall = [] → s.stall = [] := fun h =>
  (countForced_frames (slot := 0) (task := 0) (ds := []) (P := fun _ => False) s ctx (fun _ h => h.elim) h).stall

theorem slotWave?_task {s : State} {task : Nat} {x : CtxSlot × Wave} (h : s.slotWave? task = some x) : x.2.task = task := by
  unfold State.slotWave? at h
  obtain ⟨e, -, he⟩ := List.exists_of_findSome?_eq_some h
  split at he
  · split at he
    · obtain rfl := Option.some.inj he; assumption
    · cases he
  · cases he

/-- A commit of a task that is held in a context slot. -/
theorem commitSlot_frames {slot task : Nat} {ds : List RegName} {P : Nat → Prop} (s : State) : Frames slot task ds P s (s.commitSlot task) := by
  unfold State.commitSlot
  split
  · rename_i x hx
    have ht := slotWave?_task hx
    subst ht
    let z : State := { s with ctxSlots := s.ctxSlots.map fun e => (e.1, { e.2 with wave := e.2.wave.map fun w => if w.task = x.2.task then w.commits else w }) }
    have hz : Same s z := ⟨⟨rfl, rfl, rfl, rfl, rfl⟩, id⟩
    exact hz.frames.trans (commitHeld_frames z (coreOf x.1.slot) x.2)
  · exact Frames.refl _ _ _ _ _

/-- A forced commit of a task that is held in a context slot, and its count. -/
theorem forceSlot_frames {slot task : Nat} {ds : List RegName} {P : Nat → Prop} (s : State) (hp : ∀ a, P a → ¬s.inForced a) :
    Frames slot task ds P s (s.forceSlot task) := by
  unfold State.forceSlot
  split
  · exact (commitSlot_frames s).bind (countForced_stall _ _) fun f =>
      countForced_frames _ _ fun a ha => by rw [inForced_congr f.contexts]; exact hp a ha
  · exact Frames.refl _ _ _ _ _

/-- A forced commit, and its count. -/
theorem forceCommit_frames {slot task : Nat} {ds : List RegName} {P : Nat → Prop} (s : State) (hp : ∀ a, P a → ¬s.inForced a) :
    Frames slot task ds P s (s.forceCommit slot task) := by
  unfold State.forceCommit
  split
  · rename_i w hw
    split
    · rename_i ht
      have hc : Frames slot task ds P s (s.commit slot) :=
        commit_frames s fun x hx => by rw [hw] at hx; exact Option.some.inj hx ▸ ht
      exact hc.bind (countForced_stall _ _) fun f => countForced_frames _ _ fun a ha => by rw [inForced_congr f.contexts]; exact hp a ha
    · exact forceSlot_frames s hp
  · exact forceSlot_frames s hp

/-- Bytes put into the version of a task. -/
theorem putVersion_frames {slot task : Nat} {ds : List RegName} {P : Nat → Prop} (s y : State) (pa : Nat) (bs : List Byte)
    (hp : ∀ a, P a → ¬(pa ≤ a ∧ a < pa + bs.length))
    (hy : y.mem = s.mem ∧ y.versions = s.versions.put task ((cellsAt pa bs).foldl (fun v c => v.put c.1 c.2) (s.version task)) ∧
      y.contexts = s.contexts ∧ y.waves = s.waves ∧ y.issue = s.issue ∧ y.stall = s.stall) : Frames slot task ds P s y := by
  obtain ⟨hm, hv, hc, hw, hi, hs⟩ := hy
  intro h
  have hver : ∀ k, y.version k = if k = task then (cellsAt pa bs).foldl (fun v c => Assoc.put v c.1 c.2) (s.version task) else s.version k := by
    intro k
    unfold State.version Assoc.getD
    rw [hv]
    by_cases hk : k = task
    · subst hk
      have := Sys2Proof.Laws.get?_put_same s.versions k ((cellsAt pa bs).foldl (fun v c => v.put c.1 c.2) (s.version k))
      unfold Assoc.get? at this
      rw [this, if_pos rfl]; rfl
    · have := Sys2Proof.Laws.get?_put_other s.versions task k ((cellsAt pa bs).foldl (fun v c => v.put c.1 c.2) (s.version task)) hk
      unfold Assoc.get? at this
      rw [this, if_neg hk]
  refine ⟨hs ▸ h, hi, hc, fun n _ => by unfold State.dataAt; rw [hw], fun w h1 h2 => ⟨w, by rw [hw]; exact h1, h2, rfl, keeps_refl w ds⟩,
    fun h1 => ⟨by rw [hv]; exact versionsOk_put h1 (foldl_put_ascending (version_ascending h1 _)),
        fun a ha => .inl ⟨by unfold State.byteAt; rw [hm], ?_⟩⟩,
    fun k hk => by rw [hver, if_neg hk]⟩
  rw [hver, if_pos rfl]
  exact foldl_put_get?_other _ _ _ fun c hc e => hp a ha (e ▸ cellsAt_mem hc)

/-- A global store of a task. -/
theorem holdTask_frames {slot : Nat} {ds : List RegName} {P : Nat → Prop} (s : State) (w : Wave) (pa : Nat) (bs : List Byte)
    (hf : ∀ a, P a → ¬s.inForced a) (hp : ∀ a, P a → ¬(pa ≤ a ∧ a < pa + bs.length)) :
    Frames slot w.task ds P s (s.holdTask slot w pa bs) := by
  unfold State.holdTask
  extract_lets u set combs new mine put
  have hu : Same s u := dropRows_same s _ _ _
  have hput : ∀ t, Frames slot w.task ds P t (put t) := by
    intro t
    have h1 : Same t (if new = true then t.makeWay set else t) := by
      split
      · exact makeWay_same t set
      · exact Same.refl t
    exact h1.frames.trans (putVersion_frames _ (put t) pa bs hp ⟨rfl, rfl, rfl, rfl, rfl, rfl⟩)
  have hfu : ∀ a, P a → ¬u.inForced a := fun a ha => by rw [inForced_congr hu.1.2.2.1]; exact hf a ha
  clear_value put u
  refine hu.frames.trans ?_
  split
  · exact (forceCommit_frames u hfu).trans (hput _)
  · split
    · split
      · exact (stallOn_same u _).frames
      · exact (forceCommit_frames u hfu).trans (storeAt_frames _ _ _ hp)
    · exact hput u

/-- A global store of the task of a slot. -/
theorem hold_frames {slot task : Nat} {ds : List RegName} {P : Nat → Prop} (s : State) (pa : Nat) (bs : List Byte)
    (ht : ∀ w, s.waves.get? slot = some w → w.task = task) (hf : ∀ a, P a → ¬s.inForced a) (hp : ∀ a, P a → ¬(pa ≤ a ∧ a < pa + bs.length)) :
    Frames slot task ds P s (s.hold slot pa bs) := by
  unfold State.hold
  split
  · exact Frames.refl _ _ _ _ _
  · rename_i w hw
    obtain rfl := ht w hw
    exact holdTask_frames s w pa bs hf hp

/-! ### The word in issue -/

/-- The task runs in the slot of the word in issue, and the bytes that a predicate names are no count of forced commits. -/
def Ready (slot task : Nat) (P : Nat → Prop) (s : State) : Prop :=
  (∃ w, s.waves.get? slot = some w ∧ w.task = task) ∧ s.issue.slot = slot ∧ ∀ a, P a → ¬s.inForced a

theorem Framed.ready {slot task : Nat} {ds : List RegName} {P : Nat → Prop} {s y : State} (h : Framed slot task ds P s y)
    (hs : Ready slot task P s) : Ready slot task P y := by
  obtain ⟨⟨w, hw, ht⟩, hi, hf⟩ := hs
  obtain ⟨x, hx, tx, -⟩ := h.own w hw ht
  exact ⟨⟨x, hx, tx⟩, by rw [h.issue]; exact hi, fun a ha => by rw [inForced_congr h.contexts]; exact hf a ha⟩

theorem Ready.task {slot task : Nat} {P : Nat → Prop} {s : State} (h : Ready slot task P s) (w : Wave) (hw : s.waves.get? slot = some w) :
    w.task = task := by
  obtain ⟨⟨x, hx, tx⟩, -⟩ := h
  rw [hw] at hx
  exact Option.some.inj hx ▸ tx

/-- An operation after another one, of a word that is ready. -/
theorem Frames.next {slot task : Nat} {ds : List RegName} {P : Nat → Prop} {s t y : State} (hs : Ready slot task P s)
    (h1 : Frames slot task ds P s t) (h0 : y.stall = [] → t.stall = []) (h2 : Ready slot task P t → Frames slot task ds P t y) :
    Frames slot task ds P s y := h1.bind h0 fun f => h2 (f.ready hs)

/-- A list of operations that keep what waits waiting. -/
theorem Frames.fold {α : Type} {slot task : Nat} {ds : List RegName} {P : Nat → Prop} {f : State → α → State}
    (hm : ∀ t a, (f t a).stall = [] → t.stall = []) :
    ∀ (l : List α) (s : State), Ready slot task P s → (∀ t, ∀ a ∈ l, Ready slot task P t → Frames slot task ds P t (f t a)) →
      Frames slot task ds P s (Machine.foldState f s l)
  | [], s, _, _ => Frames.refl slot task ds P s
  | a :: l, s, hs, h => by
    have hmono : ∀ (l : List α) (t : State), (Machine.foldState f t l).stall = [] → t.stall = [] := by
      intro l
      induction l with
      | nil => exact fun _ h => h
      | cons b l ih => exact fun t h => hm t b (ih _ h)
    exact (h s a (List.mem_cons_self ..) hs).next hs (hmono l _) fun hr => Frames.fold hm l _ hr fun t b hb => h t b (List.mem_cons_of_mem _ hb)

theorem foldState_stall {α : Type} {f : State → α → State} (hm : ∀ t a, (f t a).stall = [] → t.stall = []) :
    ∀ (l : List α) (t : State), (foldState f t l).stall = [] → t.stall = []
  | [], _, h => h
  | b :: l, t, h => hm t b (foldState_stall hm l _ h)

theorem commit_stall (s : State) (slot : Nat) (h : (s.commit slot).stall = []) : s.stall = [] := by
  cases hw : s.waves.get? slot with
  | none => unfold State.commit at h; rw [hw] at h; exact h
  | some w => exact (commit_frames (ds := []) (P := fun _ => False) s (task := w.task) (fun x hx => by rw [hw] at hx; rw [Option.some.inj hx]) h).stall

theorem hold_stall (s : State) (slot pa : Nat) (bs : List Byte) (h : (s.hold slot pa bs).stall = []) : s.stall = [] := by
  cases hw : s.waves.get? slot with
  | none => unfold State.hold at h; rw [hw] at h; exact h
  | some w =>
    exact (hold_frames (ds := []) (P := fun _ => False) s pa bs (task := w.task) (fun x hx => by rw [hw] at hx; rw [Option.some.inj hx])
      (fun _ h => h.elim) (fun _ h => h.elim) h).stall

theorem store_stall (s : State) (cs : List Host.Cell) (h : (s.store cs).stall = []) : s.stall = [] :=
  (store_frames (slot := 0) (task := 0) (ds := []) (P := fun _ => False) s cs (fun _ h => h.elim) h).stall

/-- The store of lanes changes their bytes, and what a commit makes visible. -/
theorem storeLanes_frames {slot : Nat} {P : Nat → Prop} (s : State) (w : Wave) (as : List (Acc × List Byte)) (hs : Ready slot w.task P s)
    (hp : ∀ a, P a → ∀ x ∈ as, ¬(x.1.pa ≤ a ∧ a < x.1.pa + x.2.length)) : Frames slot w.task [] P s (s.storeLanes w as) := by
  unfold State.storeLanes
  extract_lets sl core persist remote others s1 s2 s3 s4 s5
  obtain rfl : sl = slot := hs.2.1
  have h1 : Frames sl w.task [] P s s1 := by
    simp only [s1]; split
    · exact Frames.refl _ _ _ _ _
    · exact commit_frames s hs.task
  have h2 : Same s1 s2 := by
    simp only [s2]; split
    · exact Same.refl _
    · exact ordered_same ..
  have h3 : Same s2 s3 := Same.foldState (fun _ _ => postRemote_same ..) _ _
  have h4 : Same s3 s4 := Same.foldState (fun _ _ => dropRows_same ..) _ _
  have h5 : Same s4 s5 := post_same ..
  have h6 := ((h2.trans h3).trans h4).trans h5
  have h7 : Frames sl w.task [] P s s5 := h1.trans h6.frames
  clear_value s5
  have hm : ∀ (t : State) (a : Acc × List Byte), (t.hold sl a.1.pa a.2).stall = [] → t.stall = [] := fun t a => hold_stall t sl a.1.pa a.2
  refine h7.next hs ?_ fun hr => ?_
  · exact foldState_stall hm others s5
  · refine Frames.fold hm others s5 hr fun t a ha hq => ?_
    exact hold_frames t _ _ hq.task hq.2.2 fun b hb => hp b hb a (List.mem_filter.1 ha).1

/-! ### Atomics -/

theorem foldl_put_mem : ∀ (cs : List Host.Cell) (v : Assoc Byte) (e : Host.Cell), e ∈ cs.foldl (fun v c => Assoc.put v c.1 c.2) v →
    e ∈ v ∨ ∃ c ∈ cs, c.1 = e.1
  | [], _, _, h => .inl h
  | c :: cs, v, e, h => by
    rw [List.foldl_cons] at h
    rcases foldl_put_mem cs _ e h with h | ⟨x, hx, he⟩
    · unfold Assoc.put at h
      rcases Sys2Proof.Laws.mem_insertKey.1 h with rfl | h
      · exact .inr ⟨c, List.mem_cons_self .., rfl⟩
      · exact .inl (Sys2Proof.Laws.mem_removeKey.1 h).1
    · exact .inr ⟨x, List.mem_cons_of_mem _ hx, he⟩

theorem markScm_same (s : State) (b : Bool) (l : Nat) : Same s (s.markScm b l) := by
  unfold State.markScm State.markBelow
  repeat' (first | split | dsimp only)
  all_goals exact ⟨⟨rfl, rfl, rfl, rfl, rfl⟩, id⟩

theorem writeHome_same (s : State) (g : WbqGroup) : Same s (s.writeHome g) := by
  unfold State.writeHome
  extract_lets granule
  refine Same.trans (t := { s with scm := g.bytes.foldl (fun m b => Sparse.set m b.1 b.2) s.scm }) ⟨⟨rfl, rfl, rfl, rfl, rfl⟩, id⟩
    (Same.foldState (fun t n => ?_) _ _)
  unfold granule
  dsimp only
  repeat' split
  · exact Same.foldState (fun u r => markScm_same u true r) _ _
  · exact Same.foldState (fun u r => markScm_same u false r) _ _
  · exact Same.refl t

theorem enter_frames {slot task : Nat} {ds : List RegName} {P : Nat → Prop} (s : State) (g : WbqGroup) (h : ∀ a, P a → ∀ c ∈ g.bytes, c.1 ≠ a) :
    Frames slot task ds P s (s.enter g) := by
  unfold State.enter
  extract_lets t
  have ht : Frames slot task ds P s t := store_frames s _ h
  clear_value t
  split
  · exact ht
  · rename_i kept t1 _
    have h1 : Same t t1 := Same.trans (t := { t with dirty := t.dirty.filter kept, marks := g.marks.foldl (fun l r => addNat r l) t.marks })
      ⟨⟨rfl, rfl, rfl, rfl, rfl⟩, id⟩ (Same.foldState (fun u c => dropCells_same u c g.bytes) _ _)
    clear_value t1
    split
    · exact ht.trans (h1.trans (writeHome_same ..)).frames
    · exact ht.trans (h1.trans (modDie_same ..)).frames

theorem enterNow_frames {slot task : Nat} {ds : List RegName} {P : Nat → Prop} (s : State) (w : Wave) (n : Nat) (bs : List Host.Cell)
    (h : ∀ a, P a → ∀ c ∈ bs, c.1 ≠ a) : Frames slot task ds P s (s.enterNow w n bs) := by
  unfold State.enterNow
  split
  · exact Frames.refl _ _ _ _ _
  · extract_lets g
    split
    · exact (stallOn_same ..).frames
    · refine enter_frames s g fun a ha c hc e => ?_
      rcases foldl_put_mem bs [] c hc with hc | ⟨x, hx, hxe⟩
      · cases hc
      · exact h a ha x hx (hxe.trans e)

/-- The reads of one lane of an atomic, and the bytes that it writes. -/
theorem lane_same (core task n : Nat) (f : AtomFun) (a : AtomAcc) (x : Acc × List Word) :
    Same a.state (AtomAcc.lane core task n f a x).state ∧
      ∀ c, c ∈ (AtomAcc.lane core task n f a x).persist ∨ c ∈ (AtomAcc.lane core task n f a x).plain →
        (c ∈ a.persist ∨ c ∈ a.plain) ∨ (x.1.pa ≤ c.1 ∧ c.1 < x.1.pa + n) := by
  unfold AtomAcc.lane
  split
  · extract_lets r
    have hr : Same a.state r.1 := readRemote_same n a.state a.far x.1.pa
    clear_value r
    split <;> exact ⟨hr, fun c hc => .inl hc⟩
  · extract_lets r s1 o cells
    have hr : Same a.state r.1 := readPoint_same ..
    have h1 : Same a.state s1 := by
      simp only [s1]; split
      · exact hr
      · exact (hr.trans (dropRows_same ..)).trans (combRead_same ..)
    have hc : ∀ c ∈ cells, x.1.pa ≤ c.1 ∧ c.1 < x.1.pa + n := by
      intro c hc
      simp only [cells] at hc
      split at hc
      · have := cellsAt_mem hc
        rwa [leBytes_length] at this
      · cases hc
    clear_value cells
    refine ⟨h1, fun c hm => ?_⟩
    by_cases hp : ptePersist x.1.pte = true
    · simp only [if_pos hp, List.mem_append] at hm
      rcases hm with (h | h) | h
      · exact .inl (.inl h)
      · exact .inr (hc c h)
      · exact .inl (.inr h)
    · simp only [if_neg hp, List.mem_append] at hm
      rcases hm with h | (h | h)
      · exact .inl (.inl h)
      · exact .inl (.inr h)
      · exact .inr (hc c h)

theorem lanes_same (core task n : Nat) (f : AtomFun) : ∀ (l : List (Acc × List Word)) (a : AtomAcc),
    Same a.state (l.foldl (AtomAcc.lane core task n f) a).state ∧
      ∀ c, c ∈ (l.foldl (AtomAcc.lane core task n f) a).persist ∨ c ∈ (l.foldl (AtomAcc.lane core task n f) a).plain →
        (c ∈ a.persist ∨ c ∈ a.plain) ∨ ∃ x ∈ l, x.1.pa ≤ c.1 ∧ c.1 < x.1.pa + n
  | [], a => ⟨Same.refl _, fun c h => .inl h⟩
  | x :: l, a => by
    obtain ⟨h1, g1⟩ := lane_same core task n f a x
    obtain ⟨h2, g2⟩ := lanes_same core task n f l (AtomAcc.lane core task n f a x)
    refine ⟨h1.trans h2, fun c hc => ?_⟩
    rcases g2 c hc with h | ⟨y, hy, h⟩
    · rcases g1 c h with h | h
      · exact .inl h
      · exact .inr ⟨x, List.mem_cons_self .., h⟩
    · exact .inr ⟨y, List.mem_cons_of_mem _ hy, h⟩

theorem enterNow_stall (s : State) (w : Wave) (n : Nat) (bs : List Host.Cell) (h : (s.enterNow w n bs).stall = []) : s.stall = [] :=
  (enterNow_frames (slot := 0) (task := 0) (ds := []) (P := fun _ => False) s w n bs (fun _ h => h.elim) h).stall

/-- The lanes of a global atomic change their bytes, and what the commit makes visible. -/
theorem atomLanes_frames {slot : Nat} {P : Nat → Prop} (s : State) (w : Wave) (n : Nat) (f : AtomFun) (as : List (Acc × List Word))
    (hs : Ready slot w.task P s) (hp : ∀ a, P a → ∀ x ∈ as, ¬(x.1.pa ≤ a ∧ a < x.1.pa + n)) :
    Frames slot w.task [] P s (s.atomLanes w n f as).state := by
  unfold State.atomLanes
  extract_lets sl c r
  obtain rfl : sl = slot := hs.2.1
  have hc : Frames sl w.task [] P s c := (commit_frames s hs.task).trans (ordered_same ..).frames
  have hl := lanes_same (coreOf sl) w.task n f as { state := c, far := [], writes := [], persist := [], plain := [], old := [], refused := [] }
  have hr : Same c r.state := hl.1
  have hb : ∀ a, P a → ∀ c, c ∈ r.persist ∨ c ∈ r.plain → c.1 ≠ a := by
    intro a ha c hc e
    rcases hl.2 c hc with (h | h) | ⟨x, hx, h⟩
    · cases h
    · cases h
    · exact hp a ha x hx (e ▸ h)
  clear_value r
  refine (hc.trans hr.frames).trans (Frames.trans ?_ (enterNow_frames _ w sl r.persist fun a ha x hx => hb a ha x (.inl hx)))
  split
  · exact Frames.refl _ _ _ _ _
  · exact store_frames _ _ fun a ha x hx => hb a ha x (.inr hx)

theorem acquire_frames {slot task : Nat} {ds : List RegName} {P : Nat → Prop} (s : State) (scope : Nat) :
    Frames slot task ds P s (s.acquire slot scope) := by
  unfold State.acquire
  split
  · exact Frames.refl _ _ _ _ _
  · rename_i w hw
    extract_lets o s1
    have h1 : Frames slot task ds P s s1 := setWave_frames s w { w with obs := o } hw rfl ⟨rfl, rfl⟩
    clear_value s1
    split
    · exact h1.trans (clearL1_same ..).frames
    · exact h1

theorem atomAcquire_frames {slot task : Nat} {ds : List RegName} {P : Nat → Prop} (s : State) (ord scope : Nat) (h : s.issue.slot = slot) :
    Frames slot task ds P s (s.atomAcquire ord scope) := by
  unfold State.atomAcquire
  split
  · subst h; exact acquire_frames s scope
  · exact Frames.refl _ _ _ _ _

theorem atomAcquire_stall (s : State) (ord scope : Nat) (h : (s.atomAcquire ord scope).stall = []) : s.stall = [] :=
  (atomAcquire_frames (task := 0) (ds := []) (P := fun _ => False) s ord scope rfl h).stall

theorem noteOwn_frames {slot task : Nat} {ds : List RegName} {P : Nat → Prop} (s : State) (w : Wave) (bs : List Host.Cell) :
    Frames slot task ds P s (s.noteOwn w bs) := by
  unfold State.noteOwn
  split
  · exact Frames.refl _ _ _ _ _
  · exact modWave_frames s _ (fun _ => rfl) fun _ => ⟨rfl, rfl⟩

theorem noteOwn_stall (s : State) (w : Wave) (bs : List Host.Cell) (h : (s.noteOwn w bs).stall = []) : s.stall = [] :=
  (noteOwn_frames (slot := 0) (task := 0) (ds := []) (P := fun _ => False) s w bs h).stall

theorem putLanes_frames {slot task : Nat} {ds : List RegName} {P : Nat → Prop} (s : State) (vd count : Nat) (res : List (Nat × List Word))
    (hs : Ready slot task P s) (hd : ∀ k < count, RegName.v (vd + k) ∈ ds) : Frames slot task ds P s (s.putLanes vd count res) := by
  unfold State.putLanes
  refine Frames.fold ?_ _ _ hs fun t k hk hq => ?_
  · exact fun t a h => h
  exact putNow_frames t slot _ hq.2.1 (hd k (List.mem_range.1 hk))

theorem putOld_frames {slot task : Nat} {P : Nat → Prop} (vd : VReg) (n : Nat) (s : State) (old : List (Nat × Nat)) (hs : Ready slot task P s) :
    Frames slot task ((List.range (n / 4)).map fun k => .v (vd.toNat + k)) P s (putOld vd n s old) := by
  unfold putOld
  split
  · exact Frames.refl _ _ _ _ _
  · exact putLanes_frames s _ _ _ hs fun k hk => List.mem_map.2 ⟨k, List.mem_range.2 hk, rfl⟩

theorem putOld_stall (vd : VReg) (n : Nat) (s : State) (old : List (Nat × Nat)) (h : (putOld vd n s old).stall = []) : s.stall = [] := by
  unfold putOld at h
  split at h
  · exact h
  · unfold State.putLanes at h
    refine foldState_stall ?_ _ _ h
    exact fun t a h => h

theorem putOldScalar_frames {slot task : Nat} {P : Nat → Prop} (sd : SReg) (n : Nat) (s : State) (old : List (Nat × Nat)) (hs : Ready slot task P s)
    (hn : n = 4 ∨ n = 8) : Frames slot task ((List.range (n / 4)).map fun k => .s (sd.toNat + k)) P s (putOldScalar sd n s old) := by
  unfold putOldScalar
  split
  · exact Frames.refl _ _ _ _ _
  · rcases hn with rfl | rfl
    · rw [if_neg (by decide)]
      exact putNow_frames s slot _ hs.2.1 (by simp [Landing.reg])
    · rw [if_pos rfl]
      unfold State.putPair
      exact (putNow_frames s slot _ hs.2.1 (by simp [Landing.reg])).trans (putNow_frames (s.putNow _) slot _ hs.2.1 (by simp [Landing.reg]))

theorem putOldScalar_stall (sd : SReg) (n : Nat) (s : State) (old : List (Nat × Nat)) (h : (putOldScalar sd n s old).stall = []) : s.stall = [] := by
  unfold putOldScalar at h
  split at h
  · exact h
  · split at h <;> exact h

/-- A release of the wave in issue. -/
theorem released_frames {slot task : Nat} {ds : List RegName} {P : Nat → Prop} {s c : State} {w : Wave} {scope : Nat}
    (h : s.released w scope = some c) (hs : Ready slot task P s) : Frames slot task ds P s c := by
  unfold State.released at h
  extract_lets x at h
  have hx : Frames slot task ds P s x := by
    simp only [x]; split
    · rw [hs.2.1]; exact commit_frames s hs.task
    · exact Frames.refl _ _ _ _ _
  clear_value x
  split at h
  · obtain rfl := Option.some.inj h
    exact hx.trans (release_same ..).frames
  · cases h

theorem countWord_frames {task : Nat} {ds : List RegName} {P : Nat → Prop} (s : State) (w : Wave) (hw : s.waves.get? s.issue.slot = some w) :
    Frames s.issue.slot task ds P s (s.countWord w) := by
  unfold State.countWord
  split
  · exact setWave_frames s w _ hw rfl ⟨rfl, rfl⟩
  · exact Frames.refl _ _ _ _ _

/-- The end of a word that goes on at the next word. -/
theorem after_frames {task : Nat} {ds : List RegName} {P : Nat → Prop} {s y : State} (q : Sched)
    (h : Framed s.issue.slot task ds P s y) (hs : Ready s.issue.slot task P s) :
    ∃ z x, s.after q (.done y) = z ∧ z.waves.get? s.issue.slot = some x ∧ (versionsOk s.versions = true → ∀ a, P a → s.leaves z task a) ∧
      (∀ n, n ≠ task → z.version n = s.version n) ∧ (∀ w, s.waves.get? s.issue.slot = some w → w.keeps x ds) ∧ s.othersKeep z s.issue.slot := by
  obtain ⟨w, hw, ht⟩ := hs.1
  obtain ⟨x, hx, tx, cx, kx⟩ := h.own w hw ht
  obtain ⟨a, b⟩ := settle_done y (s.launchesAt s.issue.slot) s.issue (gapOf q s.issue.held) q.giveWay
  simp only [State.rest, Prod.mk.injEq] at a
  have hb := b s.issue.slot
  unfold State.dataAt at hb
  rw [hx] at hb
  rw [Option.map_some, Option.map_eq_some_iff] at hb
  obtain ⟨z, hz, dz⟩ := hb
  refine ⟨_, z, rfl, hz, fun hv p hp => ?_, fun n hn => ?_, fun v hv => ?_, fun n hn => ?_⟩
  · have := (h.order hv).2 p hp
    unfold State.leaves State.byteAt State.version at *
    show (Sparse.get ((Did.done y).settle (s.launchesAt s.issue.slot) s.issue _ _).mem p = _ ∧ _) ∨ _
    rw [show (s.after q (.done y)).versions = y.versions from a.2.2.1, show ((Did.done y).settle (s.launchesAt s.issue.slot) s.issue (gapOf q s.issue.held) q.giveWay).mem =
        y.mem from a.1]
    rw [show (s.after q (.done y)).mem = y.mem from a.1]
    exact this
  · have := h.versions n hn
    unfold State.version at *
    rw [show (s.after q (.done y)).versions = y.versions from a.2.2.1]
    exact this
  · rw [hw] at hv
    obtain rfl := Option.some.inj hv
    exact keeps_trans kx (keeps_of_data dz ds)
  · have h1 := (b n).trans (h.others n hn)
    unfold State.dataAt at h1
    have := congrArg (Option.map fun d :
        Regs × List Pend × BitVec 5 × List DWord × Assoc (List DWord) × Header => (d.1, d.2.1, d.2.2.1, d.2.2.2.1, d.2.2.2.2.1)) h1
    rw [Option.map_map, Option.map_map] at this
    exact this

/-! ### The block-float add -/

theorem bytes_length (b : BlockFloat) (h : b.m.length = 7) : b.bytes.length = 64 := by
  unfold BlockFloat.bytes
  simp [List.length_flatMap, h, leBytes]

theorem add_length (b : BlockFloat) (adds : List (Option Val)) (hb : b.m.length = 7) (ha : adds.length = 7) : (b.add adds).m.length = 7 := by
  unfold BlockFloat.add BlockFloat.terms; simp [hb, ha]

theorem bfRounds_length : ∀ (fuel : Nat) (b : BlockFloat) (ls : List BfLane), b.m.length = 7 → (bfRounds b fuel ls).1.m.length = 7
  | 0, _, _, h => h
  | fuel + 1, b, ls, h => by
    unfold bfRounds; split
    · exact h
    · exact bfRounds_length fuel _ _ (add_length _ _ h (by simp))

theorem bfBlocks_frames {slot task : Nat} {ds : List RegName} {P : Nat → Prop} (ls : List BfLane) : ∀ (l : List Nat) (s : State),
    (∀ a, P a → ∀ b ∈ l, ¬(b * 64 ≤ a ∧ a < b * 64 + 64)) → Frames slot task ds P s (s.bfBlocks ls l).1
  | [], s, _ => Frames.refl _ _ _ _ _
  | b :: l, s, h => by
    unfold State.bfBlocks
    extract_lets r rest
    have hl : r.1.bytes.length = 64 := bytes_length _ (bfRounds_length _ _ _ (by simp [readBlock]))
    clear_value r
    refine (storeAt_frames s (b * 64) r.1.bytes fun a ha => by rw [hl]; exact h a ha b (List.mem_cons_self ..)).trans ?_
    exact bfBlocks_frames ls l _ fun a ha c hc => h a ha c (List.mem_cons_of_mem _ hc)

theorem bfBlocks_stall (ls : List BfLane) (l : List Nat) (s : State) (h : (s.bfBlocks ls l).1.stall = []) : s.stall = [] :=
  (bfBlocks_frames (slot := 0) (task := 0) (ds := []) (P := fun _ => False) ls l s (fun _ h => h.elim) h).stall

/-! ### The stores of a matrix engine -/

/-- A matrix engine's store for a task, wherever the task stands. -/
theorem holdFor_frames {task : Nat} {P : Nat → Prop} (s : State) (pa : Nat) (bs : List Byte) (hf : ∀ a, P a → ¬s.inForced a)
    (hp : ∀ a, P a → ¬(pa ≤ a ∧ a < pa + bs.length)) (hv : versionsOk s.versions = true) (h : (s.holdFor task pa bs).stall = []) :
    s.stall = [] ∧ (s.holdFor task pa bs).contexts = s.contexts ∧ versionsOk (s.holdFor task pa bs).versions = true ∧
      ∀ a, P a → s.leaves (s.holdFor task pa bs) task a := by
  have hold : ∀ (slot : Nat) (w : Wave), w.task = task → (s.holdTask slot w pa bs).stall = [] →
      s.stall = [] ∧ (s.holdTask slot w pa bs).contexts = s.contexts ∧ versionsOk (s.holdTask slot w pa bs).versions = true ∧
        ∀ a, P a → s.leaves (s.holdTask slot w pa bs) task a := by
    rintro slot w rfl h
    have f := holdTask_frames (slot := slot) (ds := []) s w pa bs hf hp h
    exact ⟨f.stall, f.contexts, f.order hv⟩
  unfold State.holdFor at h ⊢
  split
  · rename_i he
    rw [he] at h
    exact hold _ _ (by simpa using List.find?_some he) h
  · rename_i he
    rw [he] at h
    split
    · rename_i hx
      simp only [hx] at h
      exact hold _ _ (slotWave?_task hx) h
    · rename_i hx
      simp only [hx] at h
      exact ⟨h, rfl, hv, fun a _ => leaves_refl _ _ _⟩

/-- What a store request has written so far. -/
def Wrote.state? : Wrote → Option State
  | .ok s => some s
  | .fault s _ => some s
  | .wait => none

theorem holdFor_stall {task : Nat} (s : State) (pa : Nat) (bs : List Byte) (h : (s.holdFor task pa bs).stall = []) : s.stall = [] := by
  have hold : ∀ (slot : Nat) (w : Wave), (s.holdTask slot w pa bs).stall = [] → s.stall = [] := fun slot w h =>
    (holdTask_frames (slot := slot) (ds := []) (P := fun _ => False) s w pa bs (fun _ h => h.elim) (fun _ h => h.elim) h).stall
  unfold State.holdFor at h
  split at h
  · exact hold _ _ h
  · split at h
    · exact hold _ _ h
    · exact h

/-- A global write that is performed. -/
theorem storeGlobal_ok {s u : State} {clus va : Nat} {r : Req} {bs : List Byte} (h : s.storeGlobal clus r va bs = .ok u) :
    ∃ pa pte, (s.translate r.ctx (dieOf clus) (some clus) va).2 = .ok pa pte ∧
      u = (s.translate r.ctx (dieOf clus) (some clus) va).1.holdFor r.task pa bs := by
  unfold State.storeGlobal at h
  extract_lets z at h
  cases hz : z.2 with
  | bad i => simp only [hz] at h; cases h
  | ok pa pte =>
    simp only [hz] at h
    split at h
    · cases h
    · injection h with h; exact ⟨pa, pte, rfl, h.symm⟩

theorem storeGlobal_other {s y : State} {clus va : Nat} {r : Req} {bs : List Byte} (hn : ∀ u, s.storeGlobal clus r va bs ≠ .ok u)
    (h : (s.storeGlobal clus r va bs).state? = some y) : y = (s.translate r.ctx (dieOf clus) (some clus) va).1 := by
  unfold State.storeGlobal at h hn
  extract_lets z at h hn
  cases hz : z.2 with
  | bad i => simp only [hz] at h; exact (Option.some.inj h).symm
  | ok pa pte =>
    simp only [hz] at h hn
    split at h
    · exact (Option.some.inj h).symm
    · rename_i hc; exact absurd rfl (by rw [if_neg hc] at hn; exact hn _)

theorem storeAll_stall (clus : Nat) (r : Req) (x : StoreRec) (hx : x.spadSpace = false) : ∀ (l : List (Nat × List Byte)) (s y : State),
    (s.storeAll clus r x l).state? = some y → y.stall = [] → s.stall = []
  | [], s, y, h, hs => by obtain rfl : s = y := Option.some.inj h; exact hs
  | e :: l, s, y, h, hs => by
    unfold State.storeAll at h
    rw [hx, if_neg (by decide)] at h
    have ht := translate_same s r.ctx (dieOf clus) (some clus) (e.1 % 2 ^ 64)
    split at h
    · rename_i u hu
      obtain ⟨pa, pte, -, rfl⟩ := storeGlobal_ok hu
      exact ht.2 (holdFor_stall _ _ _ (storeAll_stall clus r x hx l _ y h hs))
    · rename_i hn
      obtain rfl := storeGlobal_other hn h
      exact ht.2 hs

/-- The global writes of a request change the bytes that it places them at, and what a commit makes visible. -/
theorem storeAll_global {P : Nat → Prop} (clus : Nat) (r : Req) (x : StoreRec) (hx : x.spadSpace = false) :
    ∀ (l : List (Nat × List Byte)) (s y : State), versionsOk s.versions = true → (∀ a, P a → ¬s.inForced a) →
    (∀ a, P a → ∀ pre e post u pa pte, l = pre ++ e :: post → s.storeAll clus r x pre = .ok u →
      (u.translate r.ctx (dieOf clus) (some clus) (e.1 % 2 ^ 64)).2 = .ok pa pte → ¬(pa ≤ a ∧ a < pa + e.2.length)) →
    (s.storeAll clus r x l).state? = some y → y.stall = [] → ∀ a, P a → s.leaves y r.task a
  | [], s, y, _, _, _, h, _ => by
    obtain rfl : s = y := Option.some.inj h
    exact fun a _ => leaves_refl _ _ _
  | e :: l, s, y, hv, hf, hp, h, hs => by
    have h0 := h
    unfold State.storeAll at h
    rw [hx, if_neg (by decide)] at h
    have ht := translate_same s r.ctx (dieOf clus) (some clus) (e.1 % 2 ^ 64)
    have hl : ∀ a, s.leaves (s.translate r.ctx (dieOf clus) (some clus) (e.1 % 2 ^ 64)).1 r.task a := fun a =>
      .inl ⟨by unfold State.byteAt; rw [ht.1.1], by unfold State.version; rw [ht.1.2.1]⟩
    split at h
    · rename_i u hu
      obtain ⟨pa, pte, hz, rfl⟩ := storeGlobal_ok hu
      have hu' := storeAll_stall clus r x hx l _ y h hs
      obtain ⟨-, hc, hvu, hlu⟩ := holdFor_frames (P := P) _ pa e.2 (fun a ha => by rw [inForced_congr ht.1.2.2.1]; exact hf a ha)
        (fun a ha => hp a ha [] e l s pa pte rfl rfl hz) (by rw [ht.1.2.1]; exact hv) hu'
      intro a ha
      refine leaves_trans (hl a) (leaves_trans (hlu a ha) (storeAll_global (P := P) clus r x hx l _ y hvu ?_ ?_ h hs a ha))
      · intro a ha; rw [inForced_congr hc, inForced_congr ht.1.2.2.1]; exact hf a ha
      · intro a ha pre e' post v pa' pte' he hpre hz'
        refine hp a ha (e :: pre) e' post v pa' pte' (by rw [he]; rfl) ?_ hz'
        rw [State.storeAll, hx, if_neg (by decide), hu]
        exact hpre
    · rename_i hn
      obtain rfl := storeGlobal_other hn h
      exact fun a _ => hl a

/-! ### Stores of a matrix engine to scratchpad -/

theorem getD_put {α : Type} (m : Assoc α) (k a : Nat) (v d : α) : (m.put k v).getD a d = if a = k then v else m.getD a d := by
  unfold Assoc.getD
  split
  · rename_i h; subst h
    have := Sys2Proof.Laws.get?_put_same m a v
    unfold Assoc.get? at this; rw [this]; rfl
  · rename_i h
    have := Sys2Proof.Laws.get?_put_other m k a v h
    unfold Assoc.get? at this; rw [this]

theorem queueOwner_cores (s : State) (e : Nat × CtxSlot) : (s.queueOwner e).cores = s.cores := by
  unfold State.queueOwner
  split
  · rfl
  · show (s.distributable _).cores = s.cores
    unfold State.distributable; split
    · split <;> rfl
    · rfl

theorem modSlotsFor_cores : ∀ (n : Nat) (s : State) (f : Wave → Wave), (s.modSlotsFor n f).cores = s.cores
  | 0, _, _ => rfl
  | n + 1, s, f => by
    unfold State.modSlotsFor
    dsimp only
    split
    · rfl
    · rw [modSlotsFor_cores n]
      have : ∀ (l : List (Nat × CtxSlot)) (t : State), (foldState State.queueOwner t l).cores = t.cores := by
        intro l
        induction l with
        | nil => exact fun _ => rfl
        | cons e l ih => exact fun t => (ih _).trans (queueOwner_cores t e)
      exact this _ _

/-- A store to scratchpad changes the bytes of its core that it writes. -/
theorem spadStore_spad (s : State) (core off : Nat) (bs : List Byte) :
    (s.spadStore core off bs).mem = s.mem ∧ (s.spadStore core off bs).teams = s.teams ∧
      ∀ k o, ¬(core = k ∧ off ≤ o ∧ o < off + bs.length) → ((s.spadStore core off bs).core k).spad.get o = (s.core k).spad.get o := by
  have h : ∀ k o, ¬(core = k ∧ off ≤ o ∧ o < off + bs.length) →
      ((s.modCore core fun c => { c with spad := Sparse.setList c.spad off bs }).core k).spad.get o = (s.core k).spad.get o := by
    intro k o hk
    unfold State.core
    rw [State.modCore_cores]
    by_cases hc : k = core
    · subst hc
      rw [getD_put, if_pos rfl, Sys2Proof.Laws.get_setList, if_neg (by tauto)]; rfl
    · rw [getD_put, if_neg hc]
  unfold State.spadStore
  dsimp only
  split
  · obtain ⟨a, -⟩ := retryWhere_rest (s.modCore core fun c => { c with spad := Sparse.setList c.spad off bs }) (ringAt core off bs.length)
    simp only [State.rest, Prod.mk.injEq] at a
    refine ⟨a.1, a.2.2.2.2.1, fun k o hk => ?_⟩
    rw [← h k o hk]
    unfold State.core State.retryWhere State.modSlots
    rw [modSlotsFor_cores]; rfl
  · exact ⟨rfl, rfl, h⟩

theorem spadPlace_congr {s y : State} (h : y.teams = s.teams) (t : Team) (k a : Nat) : y.spadPlace t k a = s.spadPlace t k a := by
  unfold State.spadPlace State.lineForeign; rw [h]

/-- The scratchpad writes of a request change the bytes that it places them at, and no memory. -/
theorem storeAll_spad (clus : Nat) (r : Req) (x : StoreRec) (hx : x.spadSpace = true) :
    ∀ (l : List (Nat × List Byte)) (s y : State), (s.storeAll clus r x l).state? = some y → y.mem = s.mem ∧ ∀ core o,
      (∀ e ∈ l, ∀ p, s.spadPlace x.team x.core (e.1 % 2 ^ 32) = some p → ¬(p.1 = core ∧ p.2 ≤ o ∧ o < p.2 + e.2.length)) →
        (y.core core).spad.get o = (s.core core).spad.get o
  | [], s, y, h => by
    obtain rfl : s = y := Option.some.inj h
    exact ⟨rfl, fun _ _ _ => rfl⟩
  | e :: l, s, y, h => by
    unfold State.storeAll at h
    rw [if_pos hx] at h
    have other : ∀ o : Wrote, (∀ u, o ≠ .ok u) → o = s.storeSpad x e.1 e.2 → o.state? = some y → y = s := by
      intro o ho he hy
      subst he
      unfold State.storeSpad at ho hy
      split at hy
      · exact (Option.some.inj hy).symm
      · rename_i p hp
        simp only [hp] at ho hy
        split at hy
        · cases hy
        · split at hy
          · exact (Option.some.inj hy).symm
          · split at hy
            · exact (Option.some.inj hy).symm
            · rename_i h1 h2 h3; rw [if_neg h1, if_neg h2, if_neg h3] at ho; exact absurd rfl (ho _)
    split at h
    · rename_i u hu
      unfold State.storeSpad at hu
      split at hu
      · cases hu
      · rename_i p hp
        split at hu
        · cases hu
        · split at hu
          · cases hu
          · split at hu
            · cases hu
            · injection hu with hu
              obtain ⟨hm, ht, hs⟩ := spadStore_spad s p.1 p.2 e.2
              rw [hu] at hm ht hs
              obtain ⟨im, is⟩ := storeAll_spad clus r x hx l u y h
              refine ⟨im.trans hm, fun core o hk => ?_⟩
              rw [is core o fun e' he' p' hp' => hk e' (List.mem_cons_of_mem _ he') p' (by rw [← spadPlace_congr ht]; exact hp')]
              exact hs core o (hk e (List.mem_cons_self ..) p hp)
    · rename_i hn
      obtain rfl := other _ hn rfl h
      exact ⟨rfl, fun _ _ _ => rfl⟩

/-! ### Checks, and the ends of words and events -/

theorem logRace_frames {slot task : Nat} (s : State) (ctx : Nat) (r : List Byte) : Frames slot task [] (fun _ => False) s (s.logRace ctx r) := by
  unfold State.logRace State.log
  extract_lets d wr
  split
  · exact Frames.trans (storeAt_frames _ _ _ (fun _ h => h.elim)) (storeAt_frames _ _ _ (fun _ h => h.elim))
  · exact storeAt_frames _ _ _ (fun _ h => h.elim)

theorem race_frames {slot task : Nat} (s : State) (n lane va pa : Nat) (pte : DWord) (store : Bool) :
    Frames slot task [] (fun _ => False) s (s.race n lane va pa pte store).1 := by
  have upd : ∀ (t : State) (e : State → Assoc Shadow), Same t (if store = true then { t with shadow := e t } else t) := by
    intro t e; split
    · exact ⟨⟨rfl, rfl, rfl, rfl, rfl⟩, id⟩
    · exact Same.refl t
  unfold State.race
  split
  · exact Frames.refl _ _ _ _ _
  · dsimp only
    split
    · exact Frames.refl _ _ _ _ _
    · split
      · exact (upd s fun z => z.shadow.put (pa / 32) _).frames
      · split
        · exact (logRace_frames s _ _).trans (upd _ (fun z => z.shadow.put (pa / 32) _)).frames
        · exact Frames.refl _ _ _ _ _

theorem race_same (s : State) (n lane va pa : Nat) (pte : DWord) (store : Bool) (h : pteRaceLog pte = false) :
    Same s (s.race n lane va pa pte store).1 := by
  have upd : ∀ (t : State) (e : State → Assoc Shadow), Same t (if store = true then { t with shadow := e t } else t) := by
    intro t e; split
    · exact ⟨⟨rfl, rfl, rfl, rfl, rfl⟩, id⟩
    · exact Same.refl t
  unfold State.race
  split
  · exact Same.refl _
  · dsimp only
    split
    · exact Same.refl _
    · split
      · exact upd s fun z => z.shadow.put (pa / 32) _
      · split
        · rename_i h'; rw [h] at h'; cases h'
        · exact Same.refl _

theorem raceLanes_frames {slot task : Nat} (n : Nat) (store : Bool) : ∀ (as : List Acc) (s : State),
    Frames slot task [] (fun _ => False) s (s.raceLanes n store as).1 ∧ ((∀ a ∈ as, pteRaceLog a.pte = false) → Same s (s.raceLanes n store as).1)
  | [], s => ⟨Frames.refl _ _ _ _ _, fun _ => Same.refl s⟩
  | a :: t, s => by
    unfold State.raceLanes
    dsimp only
    obtain ⟨x, y⟩ := raceLanes_frames n store t (s.race n a.lane a.va a.pa a.pte store).1
    exact ⟨Frames.trans (race_frames s n a.lane a.va a.pa a.pte store) x, fun h => (race_same _ _ _ _ _ _ _
        (h a (List.mem_cons_self ..))).trans (y fun b hb => h b (List.mem_cons_of_mem _ hb))⟩

/-- What the checks of an access change. -/
theorem grants_frames {slot task n : Nat} {s u : State} {w : Wave} {want : Want} {race : Option Bool} {addr : List (Nat × Nat)} {as : List Acc}
    (h : s.grants w n want race addr u as) : Frames slot task [] (fun _ => False) s u ∧
        ((race = none ∨ ∀ a ∈ as, pteRaceLog a.pte = false) → Same s u) := by
  obtain ⟨h1, h2⟩ := h
  have hc := checkLanes_same s.issue.slot w n n 0 want addr s
  cases race with
  | none => simp only at h2; subst h2; exact ⟨hc.frames, fun _ => hc⟩
  | some b =>
    simp only at h2
    obtain ⟨x, y⟩ := raceLanes_frames (slot := slot) (task := task) s.issue.slot b as (s.checkLanes s.issue.slot w n n 0 want addr).1
    have : u = ((s.checkLanes s.issue.slot w n n 0 want addr).1.raceLanes s.issue.slot b as).1 := by rw [h2]
    subst this
    exact ⟨Frames.trans hc.frames x, fun h => hc.trans (y (h.resolve_left (by simp)))⟩

theorem storeBytes_length (n : Nat) (vs : List Word) (h : n ≤ 4 * vs.length) : (storeBytes n vs).length = n := by
  unfold storeBytes
  rw [List.length_take, List.length_flatMap]
  have : ∀ l : List Word, (l.map fun v => (leBytes 4 v.toNat).length).sum = 4 * l.length := by
    intro l; induction l with
    | nil => rfl
    | cons a l ih => rw [List.map_cons, List.sum_cons, ih, leBytes_length, List.length_cons]; omega
  rw [this]; omega

theorem storeLanes_stall (s : State) (w : Wave) (as : List (Acc × List Byte)) (h : (s.storeLanes w as).stall = []) : s.stall = [] := by
  unfold State.storeLanes at h
  extract_lets sl core persist remote others s1 s2 s3 s4 s5 at h
  have h2 : Same s1 s2 := by
    simp only [s2]; split
    · exact Same.refl _
    · exact ordered_same ..
  have h3 : Same s2 s3 := Same.foldState (fun _ _ => postRemote_same ..) _ _
  have h4 : Same s3 s4 := Same.foldState (fun _ _ => dropRows_same ..) _ _
  have h5 : Same s4 s5 := post_same ..
  have h6 := ((h2.trans h3).trans h4).trans h5
  have h1 : s1.stall = [] → s.stall = [] := by
    simp only [s1]; split
    · exact id
    · exact commit_stall s sl
  clear_value s5
  have hm : ∀ (t : State) (a : Acc × List Byte), (t.hold sl a.1.pa a.2).stall = [] → t.stall = [] := fun t a => hold_stall t sl a.1.pa a.2
  exact h1 (h6.2 (foldState_stall hm others s5 h))

theorem stampReqs_frames (s : State) (clus : Nat) : (s.stampReqs clus).mem = s.mem ∧ (s.stampReqs clus).versions = s.versions ∧
    (s.stampReqs clus).cores = s.cores ∧ (s.stampReqs clus).stall = s.stall := by
  unfold State.stampReqs; split <;> exact ⟨rfl, rfl, rfl, rfl⟩

/-- The end of a store request writes nothing. -/
theorem endStore_frames (t : State) (clus : Nat) (r : Req) (x : StoreRec) (c : Nat) (f : Wave → Wave) :
    let y := ((t.countStore clus r x c).modTask r.task f).dropReq clus r.num
    y.mem = t.mem ∧ y.versions = t.versions ∧ y.cores = t.cores ∧ y.stall = t.stall := by
  intro y
  obtain ⟨a1, a2, a3, a4⟩ := stampReqs_frames (((t.countStore clus r x c).modTask r.task f).modCluster clus fun k =>
    ({ k with resv := k.resv.filter fun z => !decide (z.num = r.num) } : Cluster).settle) clus
  have h : (t.countStore clus r x c).mem = t.mem ∧ (t.countStore clus r x c).versions = t.versions ∧
      (t.countStore clus r x c).cores = t.cores ∧ (t.countStore clus r x c).stall = t.stall := by
    unfold State.countStore; split <;> exact ⟨rfl, rfl, rfl, rfl⟩
  exact ⟨a1.trans h.1, a2.trans h.2.1, a3.trans h.2.2.1, a4.trans h.2.2.2⟩

theorem noteStall_frames (s : State) (n : Nat) (x : Stall) :
    (s.noteStall n x).mem = s.mem ∧ (s.noteStall n x).versions = s.versions ∧ (s.noteStall n x).cores = s.cores := by
  unfold State.noteStall; cases x <;> dsimp only <;> (try split) <;> exact ⟨rfl, rfl, rfl⟩

/-- An event that has to wait writes nothing. -/
theorem settleEvent_frames {n : Nat} {s t z : State} (h : settleEvent n s t = z) :
    (t.stall = [] ∧ z = t) ∨ (z.mem = s.mem ∧ z.versions = s.versions ∧ z.cores = s.cores) := by
  unfold settleEvent at h
  split at h
  · exact .inl ⟨‹_›, h.symm⟩
  · right
    subst h
    have hf : ∀ (l : List Stall) (u : State), (foldState (fun s x => s.noteStall (agentOf n) x) u l).mem = u.mem ∧
        (foldState (fun s x => s.noteStall (agentOf n) x) u l).versions = u.versions ∧
        (foldState (fun s x => s.noteStall (agentOf n) x) u l).cores = u.cores := by
      intro l
      induction l with
      | nil => exact fun _ => ⟨rfl, rfl, rfl⟩
      | cons e l ih =>
        intro u
        obtain ⟨a1, a2, a3⟩ := ih (u.noteStall (agentOf n) e)
        obtain ⟨b1, b2, b3⟩ := noteStall_frames u (agentOf n) e
        exact ⟨a1.trans b1, a2.trans b2, a3.trans b3⟩
    exact hf _ _

end Sys2Proof.Machine
end

