-- ==== Sys2Proof/Machine/Registers.lean ====
section
/-! DEFINITION. What a host reads at an offset of BAR0 (spec/13 R329, spec/14 R339, R348, R351, R359, R360, spec/15 R363, R365, R369, R370,
R372 to R374). A read changes nothing, so it is no event: it is a function of the state. -/

namespace Sys2Proof.Machine

/-- A flag at a bit. -/
def flagAt (b : Bool) (n : Nat) : Nat := if b then 2 ^ n else 0

/-- DEVSTAT (spec/15 R370). -/
def Regfile.devstat (r : Regfile) : Nat := r.drain * 2 ^ 12 + flagAt r.fwfail 11 + flagAt r.holdlow 10 + flagAt r.ready 0

/-- PSTATE (spec/15 R363). -/
def Regfile.pstate (r : Regfile) : Nat := (7 - r.cur) * 2 ^ 8 + flagAt r.trans 7 + r.cur * 2 ^ 4 + r.req

/-- PARK of a die (spec/15 R365). -/
def Die.parkWord (d : Die) : Nat := d.park * 2 ^ 30 + flagAt d.parkRefused 1 + flagAt d.parkReq 0

/-- TIERPOOL of a die (spec/13 R329). -/
def Die.poolWord (d : Die) : Nat := d.poolBase * 2 ^ 22 + d.poolFrames

/-- TIERPOL of a die (spec/13 R329). -/
def Die.polWord (d : Die) : Nat := flagAt d.polEnable 31 + d.discMax * 2 ^ 24 + d.thresh3 * 2 ^ 16 + d.thresh2 * 2 ^ 8 + d.thresh1

/-- RECOVER (spec/15 R374). -/
def Recover.word (r : Recover) : Nat :=
  flagAt r.done 31 + flagAt r.failed 30 + r.newpkg * 2 ^ 16 + r.lost * 2 ^ 4 + r.step

/-- The registers of the package, by offset: width in bytes and value. A write-only register reads zero (spec/00 R9, spec/15 R374). DESIGN
CHOICE, log entry 109. -/
def Regfile.at (r : Regfile) (off : Nat) : Option (Nat × Nat) :=
  match off with
  | 0x0 => some (8, r.devstat)
  | 0x8 => some (8, 0)
  | 0x10 => some (8, r.pkgid)
  | 0x18 => some (8, 0xFF)
  | 0x20 => some (8, r.featAccept.toNat)
  | 0x28 => some (8, r.mbwin)
  | 0x30 => some (8, r.errstat.toNat)
  | 0x38 => some (8, r.energy / 100)
  | 0x1000 => some (4, r.pceil)
  | 0x1004 => some (4, r.pstate)
  | 0x1010 => some (8, r.holdup)
  | 0x2000 => some (8, r.ctxbase)
  | 0x2008 => some (4, 0)
  | 0x2010 => some (4, 0)
  | 0x2018 => some (8, 0)
  | 0x2020 => some (4, r.invalDone)
  | 0x3020 => some (4, flagAt r.attcmd 0)
  | 0x5000 => some (8, r.snapcfg.toNat)
  | 0x5008 => some (8, r.slotbase)
  | 0x5010 => some (4, r.shards)
  | 0x5018 => some (8, r.stagebase)
  | 0x5020 => some (8, r.stagesize)
  | 0x6000 => some (8, r.expbase)
  | 0x6008 => some (8, r.expsize)
  | _ => none

/-- The registers of a die, by their offsets for die 0. -/
def Die.at (d : Die) (off : Nat) : Option (Nat × Nat) :=
  match off with
  | 0x1100 => some (4, d.parkWord)
  | 0x1108 => some (8, d.wbqCap)
  | 0x4000 => some (8, d.poolWord)
  | 0x4008 => some (4, d.polWord)
  | 0x4010 => some (8, d.tierStall)
  | 0x4018 => some (8, d.cowStall)
  | 0x4020 => some (8, d.ceCount)
  | 0x4028 => some (8, d.peerErr)
  | _ => none

/-- The register that begins at an offset: its width in bytes and its value (spec/15 R374). DESIGN CHOICE, log entry 109. -/
def State.registerAt (s : State) (off : Nat) : Option (Nat × Nat) :=
  if off = 0x5028 then some (4, s.recover.word)
  else if 0x2100 ≤ off ∧ off < 0x2140 ∧ off % 4 = 0 then some (4, (s.context ((off - 0x2100) / 4)).state * 2 ^ 29)
  else if 0x1100 ≤ off ∧ off < 0x1500 then (s.die ((off - 0x1100) / 256)).at (0x1100 + off % 256)
  else if 0x4000 ≤ off ∧ off < 0x4400 then (s.die ((off - 0x4000) / 256)).at (0x4000 + off % 256)
  else if 0x6100 ≤ off ∧ off < 0x61C0 ∧ off % 8 = 0 then
    let p := s.port ((off - 0x6100) / 8)
    some (8, Config.barWord off (p.replays * 4 + flagAt p.fast 1 + flagAt p.up 0))
  else s.regs.at off

/-- The 64-bit halves of a window of the access table: BASE with RD and WR, and LIMIT. -/
def AccWin.word (w : AccWin) (k : Nat) : Nat := if k = 0 then w.base + flagAt w.wr 1 + flagAt w.rd 0 else w.limit

/-- A byte of the larger areas (spec/15 R374); a reserved offset reads zero. DESIGN CHOICE, log entry 109. -/
def State.areaByte (s : State) (off : Nat) : Byte :=
  if 0x3000 ≤ off ∧ off < 0x3020 then s.regs.attnonce.getD (off - 0x3000) 0
  else if 0x3040 ≤ off ∧ off < 0x3140 then (s.regs.meas.getD ((off - 0x3040) / 64) []).getD (off % 64) 0
  else if 0x3200 ≤ off ∧ off < 0x3800 then s.regs.attbuf.getD (off - 0x3200) 0
  else if 0x6200 ≤ off ∧ off < 0x6600 then (s.regs.fablog.getD ((off - 0x6200) / 16) []).getD (off % 16) 0
  else if 0x7000 ≤ off ∧ off < 0x8000 then s.regs.attcert.getD (off - 0x7000) 0
  else if 0x10000 ≤ off ∧ off < 0x10060 then s.cmapBytes.getD (off - 0x10000) 0
  else if 0x20000 ≤ off ∧ off < 0x28000 then Sparse.get s.groupTable (off - 0x20000)
  else if 0x30000 ≤ off ∧ off < 0x38000 then BitVec.ofNat 8 ((s.peer ((off - 0x30000) / 8)).toNat / 256 ^ (off % 8))
  else if 0x40000 ≤ off ∧ off < 0x42000 then
    match s.access[(off - 0x40000) / 16]? with
    | some w => BitVec.ofNat 8 (w.word (off / 8 % 2) / 256 ^ (off % 8))
    | none => 0
  else 0

/-- A host's read of BAR0: a register is read in its own width, or one of 8 bytes in two halves, and an area in aligned units of 4 or 8
bytes; any other read returns zero (spec/15 R374). DESIGN CHOICE, log entry 109. -/
def State.barRead (s : State) (off width : Nat) : DWord :=
  if (width ≠ 4 ∧ width ≠ 8) ∨ off % width ≠ 0 then 0
  else match s.registerAt off with
    | some (w, v) => if w < width then 0 else BitVec.ofNat 64 (v % 2 ^ (8 * width))
    | none =>
      match (if width = 4 ∧ off % 8 = 4 then s.registerAt (off - 4) else none) with
      | some (8, v) => BitVec.ofNat 64 (v / 2 ^ 32 % 2 ^ 32)
      | _ => BitVec.ofNat 64 (leNat ((List.range width).map fun k => s.areaByte (off + k)))

end Sys2Proof.Machine
end

