-- ==== Sys2Proof/Laws/HostRead.lean ====
section
/-! SUPPORT. What a host's read of BAR0 returns where its width, its alignment or its offset is refused (spec/15 R374). -/

namespace Sys2Proof.Machine

/-- A read of another width than 4 or 8 bytes returns zero. -/
theorem State.barRead_width (s : State) {off width : Nat} (h4 : width ≠ 4) (h8 : width ≠ 8) : s.barRead off width = 0 := by
  simp [State.barRead, h4, h8]

/-- A misaligned read returns zero. -/
theorem State.barRead_misaligned (s : State) {off width : Nat} (h : off % width ≠ 0) : s.barRead off width = 0 := by
  simp [State.barRead, h]

/-- A read wider than the register returns zero. -/
theorem State.barRead_wide (s : State) {off width w v : Nat} (h : s.registerAt off = some (w, v)) (hw : w < width) :
    s.barRead off width = 0 := by
  simp [State.barRead, h, hw]

/-- A register of 8 bytes is also read as two halves. -/
theorem State.barRead_high (s : State) {off v : Nat} (ha : off % 8 = 0) (h : s.registerAt off = some (8, v))
    (hn : s.registerAt (off + 4) = none) : s.barRead (off + 4) 4 = BitVec.ofNat 64 (v / 2 ^ 32 % 2 ^ 32) := by
  have h1 : (off + 4) % 4 = 0 := by omega
  have h2 : (off + 4) % 8 = 4 := by omega
  simp [State.barRead, hn, h1, h2, h]

end Sys2Proof.Machine
end

