-- ==== Sys2Proof/Laws/KeepWave.lean ====
section
/-! SUPPORT. The canonical form of both memories is kept by what a wave and a step share: memory, tasks, issue, persistence, accesses, barriers, fetch.
The lemma `f_ok` of a function f says so of f (log entry 3). -/

namespace Sys2Proof.Machine

/-! ### Memory -/

theorem foldState_ok {α : Type} (f : State → α → State) (a0 : State) (a1 : List α) (h_f : ∀ (f_0 : State) (f_1 : α), State.ok f_0 → State.ok (f f_0 f_1)) (h_a0 : State.ok a0) :
    State.ok (foldState f a0 a1) := by
  induction a1 generalizing a0 with
  | nil =>
    unfold foldState
    try extract_lets
    repeat' first
      | (with_reducible assumption)
  | cons c_ l_ ih =>
    unfold foldState
    try extract_lets
    repeat' first
      | (with_reducible assumption)
      | (with_reducible apply ih)
      | (with_reducible apply h_f)

theorem State.setCore_ok (s : State) (c : Nat) (x : Core) (h_s : State.ok s) :
    State.ok (State.setCore s c x) := by
  unfold State.setCore
  try extract_lets
  repeat' first
    | (with_reducible assumption)
    | extract_lets
    | (with_reducible intro _)
    | (split)
    | (with_reducible apply State.ok_mk)
    | (with_reducible apply State.ok_mem)
    | (with_reducible apply State.ok_scm)
    | (with_reducible apply State.ok_versions)
    | (with_reducible apply State.ok_regs)

theorem State.setCluster_ok (s : State) (c : Nat) (x : Cluster) (h_s : State.ok s) :
    State.ok (State.setCluster s c x) := by
  unfold State.setCluster
  try extract_lets
  repeat' first
    | (with_reducible assumption)
    | extract_lets
    | (with_reducible intro _)
    | (split)
    | (with_reducible apply State.ok_mk)
    | (with_reducible apply State.ok_mem)
    | (with_reducible apply State.ok_scm)
    | (with_reducible apply State.ok_versions)
    | (with_reducible apply State.ok_regs)

theorem State.setDie_ok (s : State) (d : Nat) (x : Die) (h_s : State.ok s) :
    State.ok (State.setDie s d x) := by
  unfold State.setDie
  try extract_lets
  repeat' first
    | (with_reducible assumption)
    | extract_lets
    | (with_reducible intro _)
    | (split)
    | (with_reducible apply State.ok_mk)
    | (with_reducible apply State.ok_mem)
    | (with_reducible apply State.ok_scm)
    | (with_reducible apply State.ok_versions)
    | (with_reducible apply State.ok_regs)

theorem State.setContext_ok (s : State) (c : Nat) (x : Context) (h_s : State.ok s) :
    State.ok (State.setContext s c x) := by
  unfold State.setContext
  try extract_lets
  repeat' first
    | (with_reducible assumption)
    | extract_lets
    | (with_reducible intro _)
    | (split)
    | (with_reducible apply State.ok_mk)
    | (with_reducible apply State.ok_mem)
    | (with_reducible apply State.ok_scm)
    | (with_reducible apply State.ok_versions)
    | (with_reducible apply State.ok_regs)

theorem State.setWave_ok (s : State) (slot : Nat) (w : Wave) (h_s : State.ok s) :
    State.ok (State.setWave s slot w) := by
  unfold State.setWave
  try extract_lets
  repeat' first
    | (with_reducible assumption)
    | extract_lets
    | (with_reducible intro _)
    | (split)
    | (with_reducible apply State.ok_mk)
    | (with_reducible apply State.ok_mem)
    | (with_reducible apply State.ok_scm)
    | (with_reducible apply State.ok_versions)
    | (with_reducible apply State.ok_regs)

theorem State.modWave_ok (s : State) (slot : Nat) (f : Wave → Wave) (h_s : State.ok s) :
    State.ok (State.modWave s slot f) := by
  unfold State.modWave
  try extract_lets
  repeat' first
    | (with_reducible assumption)
    | extract_lets
    | (with_reducible intro _)
    | (split)
    | (with_reducible apply State.ok_mk)
    | (with_reducible apply State.ok_mem)
    | (with_reducible apply State.ok_scm)
    | (with_reducible apply State.ok_versions)
    | (with_reducible apply State.ok_regs)

theorem State.modDie_ok (s : State) (d : Nat) (f : Die → Die) (h_s : State.ok s) :
    State.ok (State.modDie s d f) := by
  unfold State.modDie
  try extract_lets
  repeat' first
    | (with_reducible assumption)
    | (with_reducible apply State.setDie_ok)

theorem State.modCore_ok (s : State) (c : Nat) (f : Core → Core) (h_s : State.ok s) :
    State.ok (State.modCore s c f) := by
  unfold State.modCore
  try extract_lets
  repeat' first
    | (with_reducible assumption)
    | (with_reducible apply State.setCore_ok)

theorem State.modCluster_ok (s : State) (c : Nat) (f : Cluster → Cluster) (h_s : State.ok s) :
    State.ok (State.modCluster s c f) := by
  unfold State.modCluster
  try extract_lets
  repeat' first
    | (with_reducible assumption)
    | (with_reducible apply State.setCluster_ok)

theorem State.setTeam_ok (s : State) (t : Nat) (x : Team) (h_s : State.ok s) :
    State.ok (State.setTeam s t x) := by
  unfold State.setTeam
  try extract_lets
  repeat' first
    | (with_reducible assumption)
    | extract_lets
    | (with_reducible intro _)
    | (split)
    | (with_reducible apply State.ok_mk)
    | (with_reducible apply State.ok_mem)
    | (with_reducible apply State.ok_scm)
    | (with_reducible apply State.ok_versions)
    | (with_reducible apply State.ok_regs)

theorem State.markBelow_ok (s : State) (on : Bool) (row : Nat) (h_s : State.ok s) :
    State.ok (State.markBelow s on row) := by
  unfold State.markBelow
  try extract_lets
  repeat' first
    | (with_reducible assumption)
    | extract_lets
    | (with_reducible intro _)
    | (split)
    | ((conv => arg 1; with_reducible whnf); split)
    | ((conv => arg 1; arg 1; with_reducible whnf); split)
    | ((conv => arg 1; with_reducible whnf); clear_value *; split)
    | ((conv => arg 1; arg 1; with_reducible whnf); clear_value *; split)
    | (clear_value *; split)
    | ((conv => arg 1; with_reducible whnf); with_reducible apply State.ok_mk)
    | (with_reducible apply State.ok_mk)
    | (with_reducible apply State.ok_mem)
    | (with_reducible apply State.ok_scm)
    | (with_reducible apply State.ok_versions)
    | (with_reducible apply State.ok_regs)

theorem State.markScm_ok (s : State) (on : Bool) (row : Nat) (h_s : State.ok s) :
    State.ok (State.markScm s on row) := by
  unfold State.markScm
  try extract_lets
  repeat' first
    | (with_reducible assumption)
    | (with_reducible apply State.markBelow_ok)
    | extract_lets
    | (with_reducible intro _)
    | (split)
    | (with_reducible apply State.ok_mk)
    | (with_reducible apply State.ok_mem)
    | (with_reducible apply State.ok_scm)
    | (with_reducible apply State.ok_versions)
    | (with_reducible apply State.ok_regs)

theorem State.markError_ok (s : State) (pa : Nat) (h_s : State.ok s) :
    State.ok (State.markError s pa) := by
  unfold State.markError
  try extract_lets
  repeat' first
    | (with_reducible assumption)
    | (with_reducible apply foldState_ok)
    | (with_reducible apply State.markBelow_ok)
    | extract_lets
    | (with_reducible intro _)
    | (split)
    | (with_reducible apply State.ok_mk)
    | (with_reducible apply State.ok_mem)
    | (with_reducible apply State.ok_scm)
    | (with_reducible apply State.ok_versions)
    | (with_reducible apply State.ok_regs)

theorem State.writeBack_ok (s : State) (comb : Nat) (h_s : State.ok s) :
    State.ok (State.writeBack s comb) := by
  unfold State.writeBack
  try extract_lets
  repeat' first
    | (with_reducible assumption)
    | (with_reducible apply foldl_ok)
    | (with_reducible apply foldl_set_wf)
    | (with_reducible apply splice_wf)
    | (with_reducible apply filter_wf)
    | extract_lets
    | (with_reducible intro _)
    | (split)
    | ((conv => arg 1; with_reducible whnf); split)
    | ((conv => arg 1; arg 1; with_reducible whnf); split)
    | ((conv => arg 1; with_reducible whnf); clear_value *; split)
    | ((conv => arg 1; arg 1; with_reducible whnf); clear_value *; split)
    | (clear_value *; split)
    | ((conv => arg 1; with_reducible whnf); with_reducible apply State.ok_mk)
    | (with_reducible apply State.ok_mk)
    | (with_reducible apply State.ok_mem)
    | (with_reducible apply State.ok_scm)
    | (with_reducible apply State.ok_versions)
    | (with_reducible apply State.ok_regs)

theorem State.leaveSlice_ok (s : State) (comb : Nat) (h_s : State.ok s) :
    State.ok (State.leaveSlice s comb) := by
  unfold State.leaveSlice
  try extract_lets
  repeat' first
    | (with_reducible assumption)
    | (with_reducible apply foldl_ok)
    | (with_reducible apply foldl_set_wf)
    | (with_reducible apply filter_wf)
    | extract_lets
    | (with_reducible intro _)
    | (split)
    | (with_reducible apply State.ok_mk)
    | (with_reducible apply State.ok_mem)
    | (with_reducible apply State.ok_scm)
    | (with_reducible apply State.ok_versions)
    | (with_reducible apply State.ok_regs)

theorem State.cleanComb_ok (s : State) (comb : Nat) (h_s : State.ok s) :
    State.ok (State.cleanComb s comb) := by
  unfold State.cleanComb
  try extract_lets
  repeat' first
    | (with_reducible assumption)
    | (with_reducible apply State.writeBack_ok)
    | (with_reducible apply State.leaveSlice_ok)
    | extract_lets
    | (with_reducible intro _)
    | (split)

theorem State.makeWay_ok (s : State) (set : Nat) (h_s : State.ok s) :
    State.ok (State.makeWay s set) := by
  unfold State.makeWay
  try extract_lets
  repeat' first
    | (with_reducible assumption)
    | (with_reducible apply State.cleanComb_ok)
    | (with_reducible apply filter_wf)
    | extract_lets
    | (with_reducible intro _)
    | (split)
    | ((conv => arg 1; with_reducible whnf); split)
    | ((conv => arg 1; arg 1; with_reducible whnf); split)
    | ((conv => arg 1; with_reducible whnf); clear_value *; split)
    | ((conv => arg 1; arg 1; with_reducible whnf); clear_value *; split)
    | (clear_value *; split)
    | ((conv => arg 1; with_reducible whnf); with_reducible apply State.ok_mk)
    | (with_reducible apply State.ok_mk)
    | (with_reducible apply State.ok_mem)
    | (with_reducible apply State.ok_scm)
    | (with_reducible apply State.ok_versions)
    | (with_reducible apply State.ok_regs)

theorem State.fetchComb_ok (s : State) (comb : Nat) (h_s : State.ok s) :
    State.ok (State.fetchComb s comb) := by
  unfold State.fetchComb
  try extract_lets
  repeat' first
    | (with_reducible assumption)
    | (with_reducible apply State.makeWay_ok)
    | (with_reducible apply foldl_ok)
    | (with_reducible apply foldl_set_wf)
    | (with_reducible apply filter_wf)
    | extract_lets
    | (with_reducible intro _)
    | (split)
    | ((conv => arg 1; with_reducible whnf); split)
    | ((conv => arg 1; arg 1; with_reducible whnf); split)
    | ((conv => arg 1; with_reducible whnf); clear_value *; split)
    | ((conv => arg 1; arg 1; with_reducible whnf); clear_value *; split)
    | (clear_value *; split)
    | ((conv => arg 1; with_reducible whnf); with_reducible apply State.ok_mk)
    | (with_reducible apply State.ok_mk)
    | (with_reducible apply State.ok_mem)
    | (with_reducible apply State.ok_scm)
    | (with_reducible apply State.ok_versions)
    | (with_reducible apply State.ok_regs)

theorem State.noteSide_ok (s : State) (x : Xlate) (h_s : State.ok s) :
    State.ok (State.noteSide s x) := by
  unfold State.noteSide
  try extract_lets
  repeat' first
    | (with_reducible assumption)
    | (with_reducible apply foldState_ok)
    | (with_reducible apply State.cleanComb_ok)
    | (with_reducible apply filter_wf)
    | extract_lets
    | (with_reducible intro _)
    | (split)
    | ((conv => arg 1; with_reducible whnf); split)
    | ((conv => arg 1; arg 1; with_reducible whnf); split)
    | ((conv => arg 1; with_reducible whnf); clear_value *; split)
    | ((conv => arg 1; arg 1; with_reducible whnf); clear_value *; split)
    | (clear_value *; split)
    | ((conv => arg 1; with_reducible whnf); with_reducible apply State.ok_mk)
    | (with_reducible apply State.ok_mk)
    | (with_reducible apply State.ok_mem)
    | (with_reducible apply State.ok_scm)
    | (with_reducible apply State.ok_versions)
    | (with_reducible apply State.ok_regs)

theorem State.readPoint_ok (s : State) (pa n : Nat) (h_s : State.ok s) :
    State.ok ((State.readPoint s pa n)).1 := by
  unfold State.readPoint
  try extract_lets
  repeat' first
    | (with_reducible assumption)
    | extract_lets
    | (with_reducible intro _)
    | (split)
    | (with_reducible apply State.ok_mk)
    | (with_reducible apply State.ok_mem)
    | (with_reducible apply State.ok_scm)
    | (with_reducible apply State.ok_versions)
    | (with_reducible apply State.ok_regs)

theorem State.wakeWhere_ok (s : State) (p : Park → Bool) (h_s : State.ok s) :
    State.ok (State.wakeWhere s p) := by
  unfold State.wakeWhere
  try extract_lets
  repeat' first
    | (with_reducible assumption)
    | (with_reducible apply filter_wf)
    | extract_lets
    | (with_reducible intro _)
    | (split)
    | ((conv => arg 1; with_reducible whnf); split)
    | ((conv => arg 1; arg 1; with_reducible whnf); split)
    | ((conv => arg 1; with_reducible whnf); clear_value *; split)
    | ((conv => arg 1; arg 1; with_reducible whnf); clear_value *; split)
    | (clear_value *; split)
    | ((conv => arg 1; with_reducible whnf); with_reducible apply State.ok_mk)
    | (with_reducible apply State.ok_mk)
    | (with_reducible apply State.ok_mem)
    | (with_reducible apply State.ok_scm)
    | (with_reducible apply State.ok_versions)
    | (with_reducible apply State.ok_regs)

theorem State.distributable_ok (s : State) (prio : Nat) (h_s : State.ok s) :
    State.ok (State.distributable s prio) := by
  unfold State.distributable
  try extract_lets
  repeat' first
    | (with_reducible assumption)
    | (with_reducible apply State.abort_ok)
    | extract_lets
    | (with_reducible intro _)
    | (split)
    | (with_reducible apply State.ok_mk)
    | (with_reducible apply State.ok_mem)
    | (with_reducible apply State.ok_scm)
    | (with_reducible apply State.ok_versions)
    | (with_reducible apply State.ok_regs)

theorem State.queueOwner_ok (s : State) (e : Nat × CtxSlot) (h_s : State.ok s) :
    State.ok (State.queueOwner s e) := by
  unfold State.queueOwner
  try extract_lets
  repeat' first
    | (with_reducible assumption)
    | (with_reducible apply State.wave_ok)
    | (with_reducible apply State.distributable_ok)
    | extract_lets
    | (with_reducible intro _)
    | (split)
    | (with_reducible apply State.ok_mk)
    | (with_reducible apply State.ok_mem)
    | (with_reducible apply State.ok_scm)
    | (with_reducible apply State.ok_versions)
    | (with_reducible apply State.ok_regs)

theorem State.modSlotsFor_ok (s : State) (a0 : Nat) (a1 : (Wave → Wave)) (h_s : State.ok s) :
    State.ok (State.modSlotsFor s a0 a1) := by
  induction a0 generalizing s a1 with
  | zero =>
    unfold State.modSlotsFor
    try extract_lets
    repeat' first
      | (with_reducible assumption)
  | succ n_ ih =>
    unfold State.modSlotsFor
    try extract_lets
    repeat' first
      | (with_reducible assumption)
      | (with_reducible apply ih)
      | (with_reducible apply State.wave_ok)
      | (with_reducible apply foldState_ok)
      | (with_reducible apply State.queueOwner_ok)
      | (with_reducible apply State.wakeWhere_ok)
      | (with_reducible apply filter_wf)
      | extract_lets
      | (with_reducible intro _)
      | (split)
      | ((conv => arg 1; with_reducible whnf); split)
      | ((conv => arg 1; arg 1; with_reducible whnf); split)
      | ((conv => arg 1; with_reducible whnf); clear_value *; split)
      | ((conv => arg 1; arg 1; with_reducible whnf); clear_value *; split)
      | (clear_value *; split)
      | ((conv => arg 1; with_reducible whnf); with_reducible apply State.ok_mk)
      | (with_reducible apply State.ok_mk)
      | (with_reducible apply State.ok_mem)
      | (with_reducible apply State.ok_scm)
      | (with_reducible apply State.ok_versions)
      | (with_reducible apply State.ok_regs)

theorem State.modSlots_ok (s : State) (f : Wave → Wave) (h_s : State.ok s) :
    State.ok (State.modSlots s f) := by
  unfold State.modSlots
  try extract_lets
  repeat' first
    | (with_reducible assumption)
    | (with_reducible apply State.modSlotsFor_ok)

theorem State.releaseWhere_ok (s : State) (p : Park → Bool) (h_s : State.ok s) :
    State.ok (State.releaseWhere s p) := by
  unfold State.releaseWhere
  try extract_lets
  repeat' first
    | (with_reducible assumption)
    | (with_reducible apply State.modSlots_ok)
    | extract_lets
    | (with_reducible intro _)
    | (split)
    | (with_reducible apply State.ok_mk)
    | (with_reducible apply State.ok_mem)
    | (with_reducible apply State.ok_scm)
    | (with_reducible apply State.ok_versions)
    | (with_reducible apply State.ok_regs)

theorem State.retryWhere_ok (s : State) (p : Park → Bool) (h_s : State.ok s) :
    State.ok (State.retryWhere s p) := by
  unfold State.retryWhere
  try extract_lets
  repeat' first
    | (with_reducible assumption)
    | (with_reducible apply State.wakeWhere_ok)
    | (with_reducible apply State.modSlots_ok)

theorem State.retryOwned_ok (s : State) (tasks : List Nat) (h_s : State.ok s) :
    State.ok (State.retryOwned s tasks) := by
  unfold State.retryOwned
  try extract_lets
  repeat' first
    | (with_reducible assumption)
    | (with_reducible apply State.retryWhere_ok)

theorem State.failCapture_ok (s : State) (code : Nat) (h_s : State.ok s) :
    State.ok (State.failCapture s code) := by
  unfold State.failCapture
  try extract_lets
  repeat' first
    | (with_reducible assumption)
    | (with_reducible apply Did.state_ok)
    | extract_lets
    | (with_reducible intro _)
    | (split)
    | (with_reducible apply State.ok_mk)
    | (with_reducible apply State.ok_mem)
    | (with_reducible apply State.ok_scm)
    | (with_reducible apply State.ok_versions)
    | (with_reducible apply State.ok_regs)

theorem State.captureError_ok (s : State) (h_s : State.ok s) :
    State.ok (State.captureError s) := by
  unfold State.captureError
  try extract_lets
  repeat' first
    | (with_reducible assumption)
    | (with_reducible apply Did.state_ok)
    | (with_reducible apply State.failCapture_ok)
    | extract_lets
    | (with_reducible intro _)
    | (split)

theorem State.performAt_ok (s : State) (blocks whole addrs : List Nat) (write : Sparse 8 → Sparse 8) (h_s : State.ok s) (h_write : ∀ m_, Memory.wf m_ = true → Memory.wf (write m_) = true) :
    State.ok (State.performAt s blocks whole addrs write) := by
  unfold State.performAt
  try extract_lets
  repeat' first
    | (with_reducible assumption)
    | (with_reducible apply h_write)
    | (with_reducible apply foldState_ok)
    | (with_reducible apply State.fetchComb_ok)
    | (with_reducible apply Did.state_ok)
    | (with_reducible apply State.releaseWhere_ok)
    | (with_reducible apply State.retryWhere_ok)
    | (with_reducible apply foldl_ok)
    | (with_reducible apply foldl_set_wf)
    | (with_reducible apply filter_wf)
    | extract_lets
    | (with_reducible intro _)
    | (split)
    | ((conv => arg 1; with_reducible whnf); split)
    | ((conv => arg 1; arg 1; with_reducible whnf); split)
    | ((conv => arg 1; with_reducible whnf); clear_value *; split)
    | ((conv => arg 1; arg 1; with_reducible whnf); clear_value *; split)
    | (clear_value *; split)
    | ((conv => arg 1; with_reducible whnf); with_reducible apply State.ok_mk)
    | (with_reducible apply State.ok_mk)
    | (with_reducible apply State.ok_mem)
    | (with_reducible apply State.ok_scm)
    | (with_reducible apply State.ok_versions)
    | (with_reducible apply State.ok_regs)

theorem State.store_ok (s : State) (cs : List Host.Cell) (h_s : State.ok s) :
    State.ok (State.store s cs) := by
  unfold State.store
  try extract_lets
  repeat' first
    | (with_reducible assumption)
    | (with_reducible apply State.performAt_ok)
    | (with_reducible apply foldl_ok)
    | (with_reducible apply foldl_set_wf)

theorem State.storeRun_ok (s : State) (pa : Nat) (bs : List Byte) (h_s : State.ok s) :
    State.ok (State.storeRun s pa bs) := by
  unfold State.storeRun
  try extract_lets
  repeat' first
    | (with_reducible assumption)
    | (with_reducible apply State.performAt_ok)
    | (with_reducible apply splice_wf)
    | extract_lets
    | (with_reducible intro _)

theorem State.storeAt_ok (s : State) (pa : Nat) (bs : List Byte) (h_s : State.ok s) :
    State.ok (State.storeAt s pa bs) := by
  unfold State.storeAt
  try extract_lets
  repeat' first
    | (with_reducible assumption)
    | (with_reducible apply State.store_ok)

theorem State.dropRows_ok (s : State) (core pa n : Nat) (h_s : State.ok s) :
    State.ok (State.dropRows s core pa n) := by
  unfold State.dropRows
  try extract_lets
  repeat' first
    | (with_reducible assumption)
    | (with_reducible apply State.modCore_ok)
    | (with_reducible apply filter_wf)
    | extract_lets
    | (with_reducible intro _)
    | (split)

theorem State.clearL1_ok (s : State) (core : Nat) (h_s : State.ok s) :
    State.ok (State.clearL1 s core) := by
  unfold State.clearL1
  try extract_lets
  repeat' first
    | (with_reducible assumption)
    | (with_reducible apply State.modCore_ok)
    | extract_lets
    | (with_reducible intro _)
    | (split)

theorem State.readTask_ok (s : State) (task pa n : Nat) (h_s : State.ok s) :
    State.ok ((State.readTask s task pa n)).1 := by
  unfold State.readTask
  try extract_lets
  repeat' first
    | (with_reducible assumption)
    | (with_reducible apply State.readPoint_ok)

theorem State.combRead_ok (s : State) (pa : Nat) (col : Option Nat) (h_s : State.ok s) :
    State.ok (State.combRead s pa col) := by
  unfold State.combRead
  try extract_lets
  repeat' first
    | (with_reducible assumption)
    | (with_reducible apply State.fetchComb_ok)
    | extract_lets
    | (with_reducible intro _)
    | (split)
    | ((conv => arg 1; with_reducible whnf); split)
    | ((conv => arg 1; arg 1; with_reducible whnf); split)
    | ((conv => arg 1; with_reducible whnf); clear_value *; split)
    | ((conv => arg 1; arg 1; with_reducible whnf); clear_value *; split)
    | (clear_value *; split)
    | ((conv => arg 1; with_reducible whnf); with_reducible apply State.ok_mk)
    | (with_reducible apply State.ok_mk)
    | (with_reducible apply State.ok_mem)
    | (with_reducible apply State.ok_scm)
    | (with_reducible apply State.ok_versions)
    | (with_reducible apply State.ok_regs)

theorem State.rangeRead_ok (s : State) (pa n : Nat) (h_s : State.ok s) :
    State.ok (State.rangeRead s pa n) := by
  unfold State.rangeRead
  try extract_lets
  repeat' first
    | (with_reducible assumption)
    | (with_reducible apply foldState_ok)
    | (with_reducible apply State.combRead_ok)
    | extract_lets
    | (with_reducible intro _)

theorem State.readRange_ok (s : State) (pa n : Nat) (h_s : State.ok s) :
    State.ok ((State.readRange s pa n)).1 := by
  unfold State.readRange
  try extract_lets
  repeat' first
    | (with_reducible assumption)
    | (with_reducible apply State.rangeRead_ok)
    | (with_reducible apply filter_wf)
    | extract_lets
    | (with_reducible intro _)
    | (split)
    | ((conv => arg 1; with_reducible whnf); split)
    | ((conv => arg 1; arg 1; with_reducible whnf); split)
    | ((conv => arg 1; with_reducible whnf); clear_value *; split)
    | ((conv => arg 1; arg 1; with_reducible whnf); clear_value *; split)
    | (clear_value *; split)
    | ((conv => arg 1; with_reducible whnf); with_reducible apply State.ok_mk)
    | (with_reducible apply State.ok_mk)
    | (with_reducible apply State.ok_mem)
    | (with_reducible apply State.ok_scm)
    | (with_reducible apply State.ok_versions)
    | (with_reducible apply State.ok_regs)

theorem State.fillL1_ok (s : State) (core row : Nat) (bs : List Byte) (h_s : State.ok s) :
    State.ok (State.fillL1 s core row bs) := by
  unfold State.fillL1
  try extract_lets
  repeat' first
    | (with_reducible assumption)
    | (with_reducible apply State.modCore_ok)
    | extract_lets
    | (with_reducible intro _)
    | (split)
    | ((conv => arg 1; with_reducible whnf); split)
    | ((conv => arg 1; arg 1; with_reducible whnf); split)
    | ((conv => arg 1; with_reducible whnf); clear_value *; split)
    | ((conv => arg 1; arg 1; with_reducible whnf); clear_value *; split)
    | (clear_value *; split)
    | ((conv => arg 1; with_reducible whnf); with_reducible apply State.ok_mk)
    | (with_reducible apply State.ok_mk)
    | (with_reducible apply State.ok_mem)
    | (with_reducible apply State.ok_scm)
    | (with_reducible apply State.ok_versions)
    | (with_reducible apply State.ok_regs)

theorem State.fillIcache_ok (s : State) (core block : Nat) (bs : List Byte) (h_s : State.ok s) :
    State.ok (State.fillIcache s core block bs) := by
  unfold State.fillIcache
  try extract_lets
  repeat' first
    | (with_reducible assumption)
    | (with_reducible apply State.modCore_ok)
    | extract_lets
    | (with_reducible intro _)
    | (split)
    | ((conv => arg 1; with_reducible whnf); split)
    | ((conv => arg 1; arg 1; with_reducible whnf); split)
    | ((conv => arg 1; with_reducible whnf); clear_value *; split)
    | ((conv => arg 1; arg 1; with_reducible whnf); clear_value *; split)
    | (clear_value *; split)
    | ((conv => arg 1; with_reducible whnf); with_reducible apply State.ok_mk)
    | (with_reducible apply State.ok_mk)
    | (with_reducible apply State.ok_mem)
    | (with_reducible apply State.ok_scm)
    | (with_reducible apply State.ok_versions)
    | (with_reducible apply State.ok_regs)

theorem State.peerFailure_ok (s : State) (die : Nat) (h_s : State.ok s) :
    State.ok (State.peerFailure s die) := by
  unfold State.peerFailure
  try extract_lets
  repeat' first
    | (with_reducible assumption)
    | (with_reducible apply State.take_ok)
    | (with_reducible apply State.modDie_ok)
    | extract_lets
    | (with_reducible intro _)
    | (split)
    | ((conv => arg 1; with_reducible whnf); split)
    | ((conv => arg 1; arg 1; with_reducible whnf); split)
    | ((conv => arg 1; with_reducible whnf); clear_value *; split)
    | ((conv => arg 1; arg 1; with_reducible whnf); clear_value *; split)
    | (clear_value *; split)
    | ((conv => arg 1; with_reducible whnf); with_reducible apply State.ok_mk)
    | (with_reducible apply State.ok_mk)
    | (with_reducible apply State.ok_mem)
    | (with_reducible apply State.ok_scm)
    | (with_reducible apply State.ok_versions)
    | (with_reducible apply State.ok_regs)
    | (refine State.ok_regs_of (s := _) (by assumption) rfl)

theorem State.readRemote_ok (s : State) (seen : Assoc (Option Byte)) (pa : Nat) (a0 : Nat) (h_s : State.ok s) :
    State.ok ((State.readRemote s seen pa a0)).1 := by
  induction a0 generalizing s seen pa with
  | zero =>
    unfold State.readRemote
    try extract_lets
    repeat' first
      | (with_reducible assumption)
  | succ n_ ih =>
    unfold State.readRemote
    try extract_lets
    repeat' first
      | (with_reducible assumption)
      | (with_reducible apply ih)
      | extract_lets
      | (with_reducible intro _)
      | (split)
      | ((conv => arg 1; with_reducible whnf); split)
      | ((conv => arg 1; arg 1; with_reducible whnf); split)
      | ((conv => arg 1; with_reducible whnf); clear_value *; split)
      | ((conv => arg 1; arg 1; with_reducible whnf); clear_value *; split)
      | (clear_value *; split)
      | ((conv => arg 1; with_reducible whnf); with_reducible apply State.ok_mk)
      | (with_reducible apply State.ok_mk)
      | (with_reducible apply State.ok_mem)
      | (with_reducible apply State.ok_scm)
      | (with_reducible apply State.ok_versions)
      | (with_reducible apply State.ok_regs)

theorem State.askAgain_ok (s : State) (seen : Assoc (Option Byte)) (die pa n : Nat) (h_s : State.ok s) :
    State.ok ((State.askAgain s seen die pa n)).1 := by
  unfold State.askAgain
  try extract_lets
  repeat' first
    | (with_reducible assumption)
    | (with_reducible apply State.readRemote_ok)
    | (with_reducible apply State.peerFailure_ok)
    | extract_lets
    | (with_reducible intro _)
    | (split)

theorem State.askPeer_ok (s : State) (die pa n : Nat) (h_s : State.ok s) :
    State.ok ((State.askPeer s die pa n)).1 := by
  unfold State.askPeer
  try extract_lets
  repeat' first
    | (with_reducible assumption)
    | (with_reducible apply State.askAgain_ok)

theorem State.readGlobal_ok (s : State) (core task pa n : Nat) (bypass mside : Bool) (h_s : State.ok s) :
    State.ok ((State.readGlobal s core task pa n bypass mside)).1 := by
  unfold State.readGlobal
  try extract_lets
  repeat' first
    | (with_reducible assumption)
    | (with_reducible apply State.askPeer_ok)
    | (with_reducible apply State.readTask_ok)
    | (with_reducible apply State.dropRows_ok)
    | (with_reducible apply State.combRead_ok)
    | (with_reducible apply State.take_ok)
    | (with_reducible apply State.readPoint_ok)
    | (with_reducible apply State.fillL1_ok)
    | extract_lets
    | (with_reducible intro _)
    | (split)

theorem State.setDir_ok (s : State) (tile : Nat) (f : DirEntry → DirEntry) (h_s : State.ok s) :
    State.ok (State.setDir s tile f) := by
  unfold State.setDir
  try extract_lets
  repeat' first
    | (with_reducible assumption)
    | extract_lets
    | (with_reducible intro _)
    | (split)
    | ((conv => arg 1; with_reducible whnf); split)
    | ((conv => arg 1; arg 1; with_reducible whnf); split)
    | ((conv => arg 1; with_reducible whnf); clear_value *; split)
    | ((conv => arg 1; arg 1; with_reducible whnf); clear_value *; split)
    | (clear_value *; split)
    | ((conv => arg 1; with_reducible whnf); with_reducible apply State.ok_mk)
    | (with_reducible apply State.ok_mk)
    | (with_reducible apply State.ok_mem)
    | (with_reducible apply State.ok_scm)
    | (with_reducible apply State.ok_versions)
    | (with_reducible apply State.ok_regs)

theorem State.startMove_ok (s : State) (tile : Nat) (k : MoveKind) (h_s : State.ok s) :
    State.ok (State.startMove s tile k) := by
  unfold State.startMove
  try extract_lets
  repeat' first
    | (with_reducible assumption)
    | (with_reducible apply State.setDir_ok)
    | (with_reducible apply Did.state_ok)
    | (with_reducible apply State.modDie_ok)

theorem State.dropCells_ok (s : State) (core : Nat) (cs : List Host.Cell) (h_s : State.ok s) :
    State.ok (State.dropCells s core cs) := by
  unfold State.dropCells
  try extract_lets
  repeat' first
    | (with_reducible assumption)
    | (with_reducible apply State.modCore_ok)
    | (with_reducible apply filter_wf)
    | extract_lets
    | (with_reducible intro _)
    | (split)

theorem State.commitHeld_ok (s : State) (core : Nat) (w : Wave) (h_s : State.ok s) :
    State.ok (State.commitHeld s core w) := by
  unfold State.commitHeld
  try extract_lets
  repeat' first
    | (with_reducible assumption)
    | (with_reducible apply State.store_ok)
    | (with_reducible apply State.dropCells_ok)
    | extract_lets
    | (with_reducible intro _)
    | (split)
    | ((conv => arg 1; with_reducible whnf); split)
    | ((conv => arg 1; arg 1; with_reducible whnf); split)
    | ((conv => arg 1; with_reducible whnf); clear_value *; split)
    | ((conv => arg 1; arg 1; with_reducible whnf); clear_value *; split)
    | (clear_value *; split)
    | ((conv => arg 1; with_reducible whnf); with_reducible apply State.ok_mk)
    | (with_reducible apply State.ok_mk)
    | (with_reducible apply State.ok_mem)
    | (with_reducible apply State.ok_scm)
    | (with_reducible apply State.ok_versions)
    | (with_reducible apply State.ok_regs)
    | contradiction
    | (with_reducible exact trivial)
    | (with_reducible apply versionsOk_del)

theorem State.commit_ok (s : State) (slot : Nat) (h_s : State.ok s) :
    State.ok (State.commit s slot) := by
  unfold State.commit
  try extract_lets
  repeat' first
    | (with_reducible assumption)
    | (with_reducible apply State.setWave_ok)
    | (with_reducible apply State.commitHeld_ok)
    | extract_lets
    | (with_reducible intro _)
    | (split)

theorem State.countForced_ok (s : State) (ctx : Nat) (h_s : State.ok s) :
    State.ok (State.countForced s ctx) := by
  unfold State.countForced
  try extract_lets
  repeat' first
    | (with_reducible assumption)
    | (with_reducible apply State.storeAt_ok)

theorem State.commitSlot_ok (s : State) (task : Nat) (h_s : State.ok s) :
    State.ok (State.commitSlot s task) := by
  unfold State.commitSlot
  try extract_lets
  repeat' first
    | (with_reducible assumption)
    | (with_reducible apply State.wave_ok)
    | (with_reducible apply State.commitHeld_ok)
    | extract_lets
    | (with_reducible intro _)
    | (split)
    | (with_reducible apply State.ok_mk)
    | (with_reducible apply State.ok_mem)
    | (with_reducible apply State.ok_scm)
    | (with_reducible apply State.ok_versions)
    | (with_reducible apply State.ok_regs)

theorem State.forceSlot_ok (s : State) (task : Nat) (h_s : State.ok s) :
    State.ok (State.forceSlot s task) := by
  unfold State.forceSlot
  try extract_lets
  repeat' first
    | (with_reducible assumption)
    | (with_reducible apply State.commitSlot_ok)
    | (with_reducible apply State.countForced_ok)
    | extract_lets
    | (with_reducible intro _)
    | (split)

theorem State.forceCommit_ok (s : State) (slot task : Nat) (h_s : State.ok s) :
    State.ok (State.forceCommit s slot task) := by
  unfold State.forceCommit
  try extract_lets
  repeat' first
    | (with_reducible assumption)
    | (with_reducible apply State.commit_ok)
    | (with_reducible apply State.countForced_ok)
    | (with_reducible apply State.forceSlot_ok)
    | extract_lets
    | (with_reducible intro _)
    | (split)

theorem State.holdTask_ok (s : State) (slot : Nat) (w : Wave) (pa : Nat) (bs : List Byte) (h_s : State.ok s) :
    State.ok (State.holdTask s slot w pa bs) := by
  unfold State.holdTask
  extract_lets u set combs new mine put
  have hu : u.ok := State.dropRows_ok _ _ _ _ h_s
  clear_value u
  have hput : ∀ t : State, t.ok → (put t).ok := by
    intro t ht
    simp only [put]
    have h1 : State.ok (if new = true then t.makeWay set else t) := by
      split
      · exact State.makeWay_ok _ _ ht
      · exact ht
    generalize (if new = true then t.makeWay set else t) = y at h1
    exact State.ok_mk h1.1 h1.2.1 (versionsOk_put h1.2.2.1 (foldl_put_ascending (State.ok_version h1 _))) h1.2.2.2
  clear_value put
  split
  · exact hput _ (State.forceCommit_ok _ _ _ hu)
  · split
    · split
      · exact hu
      · exact State.storeAt_ok _ _ _ (State.forceCommit_ok _ _ _ hu)
    · exact hput _ hu

theorem State.hold_ok (s : State) (slot pa : Nat) (bs : List Byte) (h_s : State.ok s) :
    State.ok (State.hold s slot pa bs) := by
  unfold State.hold
  try extract_lets
  repeat' first
    | (with_reducible assumption)
    | (with_reducible apply State.holdTask_ok)
    | extract_lets
    | (with_reducible intro _)
    | (split)

theorem State.holdFor_ok (s : State) (task pa : Nat) (bs : List Byte) (h_s : State.ok s) :
    State.ok (State.holdFor s task pa bs) := by
  unfold State.holdFor
  try extract_lets
  repeat' first
    | (with_reducible assumption)
    | (with_reducible apply State.holdTask_ok)
    | extract_lets
    | (with_reducible intro _)
    | (split)

theorem State.walk_ok (s : State) (ctx die : Nat) (clus : Option Nat) (va : Nat) (a0 : Nat) (a1 : Nat) (a2 : Nat) (h_s : State.ok s) :
    State.ok ((State.walk s ctx die clus va a0 a1 a2)).1 := by
  induction a0 generalizing s ctx die clus va a1 a2 with
  | zero =>
    unfold State.walk
    try extract_lets
    repeat' first
      | (with_reducible assumption)
  | succ n_ ih =>
    unfold State.walk
    try extract_lets
    repeat' first
      | (with_reducible assumption)
      | (with_reducible apply ih)
      | (with_reducible apply State.combRead_ok)
      | (with_reducible apply State.modCluster_ok)
      | (with_reducible apply State.take_ok)
      | (with_reducible apply State.modDie_ok)
      | extract_lets
      | (with_reducible intro _)
      | (split)

theorem State.lookup_ok (s : State) (ctx die : Nat) (clus : Option Nat) (va : Nat) (h_s : State.ok s) :
    State.ok ((State.lookup s ctx die clus va)).1 := by
  unfold State.lookup
  try extract_lets
  repeat' first
    | (with_reducible assumption)
    | (with_reducible apply State.walk_ok)
    | extract_lets
    | (with_reducible intro _)
    | (split)
    | ((conv => arg 1; with_reducible whnf); split)
    | ((conv => arg 1; arg 1; with_reducible whnf); split)
    | ((conv => arg 1; with_reducible whnf); clear_value *; split)

theorem State.translate_ok (s : State) (ctx die : Nat) (clus : Option Nat) (va : Nat) (h_s : State.ok s) :
    State.ok ((State.translate s ctx die clus va)).1 := by
  unfold State.translate
  try extract_lets
  repeat' first
    | (with_reducible assumption)
    | (with_reducible apply State.lookup_ok)
    | (with_reducible apply State.noteSide_ok)

theorem State.check_ok (s : State) (ctx die : Nat) (clus : Option Nat) (va n align : Nat) (w : Want) (h_s : State.ok s) :
    State.ok ((State.check s ctx die clus va n align w)).1 := by
  unfold State.check
  try extract_lets
  repeat' first
    | (with_reducible assumption)
    | (with_reducible apply State.translate_ok)
    | extract_lets
    | (with_reducible intro _)
    | (split)

theorem State.log_ok (s : State) (ctx base count wrOff dropOff : Nat) (record : List Byte) (h_s : State.ok s) :
    State.ok (State.log s ctx base count wrOff dropOff record) := by
  unfold State.log
  try extract_lets
  repeat' first
    | (with_reducible assumption)
    | (with_reducible apply State.storeAt_ok)
    | extract_lets
    | (with_reducible intro _)
    | (split)

theorem State.logFault_ok (s : State) (ctx : Nat) (record : List Byte) (h_s : State.ok s) :
    State.ok (State.logFault s ctx record) := by
  unfold State.logFault
  try extract_lets
  repeat' first
    | (with_reducible assumption)
    | (with_reducible apply State.log_ok)

theorem State.logRace_ok (s : State) (ctx : Nat) (record : List Byte) (h_s : State.ok s) :
    State.ok (State.logRace s ctx record) := by
  unfold State.logRace
  try extract_lets
  repeat' first
    | (with_reducible assumption)
    | (with_reducible apply State.log_ok)

theorem State.release_ok (s : State) (slot scope : Nat) (h_s : State.ok s) :
    State.ok (State.release s slot scope) := by
  unfold State.release
  try extract_lets
  repeat' first
    | (with_reducible assumption)
    | (with_reducible apply foldState_ok)
    | extract_lets
    | (with_reducible intro _)
    | (split)
    | ((conv => arg 1; with_reducible whnf); split)
    | ((conv => arg 1; arg 1; with_reducible whnf); split)
    | ((conv => arg 1; with_reducible whnf); clear_value *; split)
    | ((conv => arg 1; arg 1; with_reducible whnf); clear_value *; split)
    | (clear_value *; split)
    | ((conv => arg 1; with_reducible whnf); with_reducible apply State.ok_mk)
    | (with_reducible apply State.ok_mk)
    | (with_reducible apply State.ok_mem)
    | (with_reducible apply State.ok_scm)
    | (with_reducible apply State.ok_versions)
    | (with_reducible apply State.ok_regs)

theorem State.acquire_ok (s : State) (slot scope : Nat) (h_s : State.ok s) :
    State.ok (State.acquire s slot scope) := by
  unfold State.acquire
  try extract_lets
  repeat' first
    | (with_reducible assumption)
    | (with_reducible apply State.setWave_ok)
    | (with_reducible apply State.clearL1_ok)
    | extract_lets
    | (with_reducible intro _)
    | (split)

theorem State.race_ok (s : State) (slot lane va pa : Nat) (pte : DWord) (store : Bool) (h_s : State.ok s) :
    State.ok ((State.race s slot lane va pa pte store)).1 := by
  unfold State.race
  try extract_lets
  repeat' first
    | (with_reducible assumption)
    | (with_reducible apply State.store_ok)
    | (with_reducible apply State.logRace_ok)
    | (with_reducible apply AtomAcc.lane_ok)
    | extract_lets
    | (with_reducible intro _)
    | ((conv => arg 1; with_reducible whnf); first | (with_reducible apply State.store_ok) | (with_reducible apply State.logRace_ok) | (with_reducible apply AtomAcc.lane_ok))
    | (split)
    | ((conv => arg 1; with_reducible whnf); split)
    | ((conv => arg 1; arg 1; with_reducible whnf); split)
    | ((conv => arg 1; with_reducible whnf); clear_value *; split)
    | ((conv => arg 1; arg 1; with_reducible whnf); clear_value *; split)
    | (clear_value *; split)
    | ((conv => arg 1; with_reducible whnf); with_reducible apply State.ok_mk)
    | (with_reducible apply State.ok_mk)
    | (with_reducible apply State.ok_mem)
    | (with_reducible apply State.ok_scm)
    | (with_reducible apply State.ok_versions)
    | (with_reducible apply State.ok_regs)

theorem State.spadStore_ok (s : State) (core off : Nat) (bs : List Byte) (h_s : State.ok s) :
    State.ok (State.spadStore s core off bs) := by
  unfold State.spadStore
  try extract_lets
  repeat' first
    | (with_reducible assumption)
    | (with_reducible apply State.modCore_ok)
    | (with_reducible apply State.retryWhere_ok)
    | extract_lets
    | (with_reducible intro _)
    | (split)

/-! ### Serial -/



/-! ### Reserve -/

theorem State.settleReservation_ok (s : State) (h_s : State.ok s) :
    State.ok (State.settleReservation s) := by
  unfold State.settleReservation
  try extract_lets
  repeat' first
    | (with_reducible assumption)
    | extract_lets
    | (with_reducible intro _)
    | (split)
    | ((conv => arg 1; with_reducible whnf); split)
    | ((conv => arg 1; arg 1; with_reducible whnf); split)
    | ((conv => arg 1; with_reducible whnf); clear_value *; split)
    | ((conv => arg 1; arg 1; with_reducible whnf); clear_value *; split)
    | (clear_value *; split)
    | ((conv => arg 1; with_reducible whnf); with_reducible apply State.ok_mk)
    | (with_reducible apply State.ok_mk)
    | (with_reducible apply State.ok_mem)
    | (with_reducible apply State.ok_scm)
    | (with_reducible apply State.ok_versions)
    | (with_reducible apply State.ok_regs)

theorem State.settlePreempt_ok (s : State) (ctx : Nat) (h_s : State.ok s) :
    State.ok (State.settlePreempt s ctx) := by
  unfold State.settlePreempt
  try extract_lets
  repeat' first
    | (with_reducible assumption)
    | (with_reducible apply Did.state_ok)
    | (with_reducible apply State.setContext_ok)
    | extract_lets
    | (with_reducible intro _)
    | (split)

theorem State.startPreempt_ok (s : State) (ctx : Nat) (h_s : State.ok s) :
    State.ok (State.startPreempt s ctx) := by
  unfold State.startPreempt
  try extract_lets
  repeat' first
    | (with_reducible assumption)
    | (with_reducible apply State.setContext_ok)
    | (with_reducible apply Did.state_ok)
    | (with_reducible apply State.settlePreempt_ok)
    | extract_lets
    | (with_reducible intro _)
    | (split)
    | ((conv => arg 1; with_reducible whnf); split)
    | ((conv => arg 1; arg 1; with_reducible whnf); split)
    | ((conv => arg 1; with_reducible whnf); clear_value *; split)
    | ((conv => arg 1; arg 1; with_reducible whnf); clear_value *; split)
    | (clear_value *; split)
    | ((conv => arg 1; with_reducible whnf); with_reducible apply State.ok_mk)
    | (with_reducible apply State.ok_mk)
    | (with_reducible apply State.ok_mem)
    | (with_reducible apply State.ok_scm)
    | (with_reducible apply State.ok_versions)
    | (with_reducible apply State.ok_regs)

theorem State.raisePreempt_ok (s : State) (h_s : State.ok s) :
    State.ok (State.raisePreempt s) := by
  unfold State.raisePreempt
  try extract_lets
  repeat' first
    | (with_reducible assumption)
    | (with_reducible apply Did.state_ok)
    | (with_reducible apply State.startPreempt_ok)
    | extract_lets
    | (with_reducible intro _)
    | (split)

theorem State.reschedule_ok (s : State) (h_s : State.ok s) :
    State.ok (State.reschedule s) := by
  unfold State.reschedule
  try extract_lets
  repeat' first
    | (with_reducible assumption)
    | (with_reducible apply State.settleReservation_ok)
    | (with_reducible apply State.raisePreempt_ok)

/-! ### Tasks -/

theorem State.settleLaunch_ok (s : State) (key : Nat) (h_s : State.ok s) :
    State.ok (State.settleLaunch s key) := by
  unfold State.settleLaunch
  try extract_lets
  repeat' first
    | (with_reducible assumption)
    | extract_lets
    | (with_reducible intro _)
    | (split)
    | (with_reducible apply State.ok_mk)
    | (with_reducible apply State.ok_mem)
    | (with_reducible apply State.ok_scm)
    | (with_reducible apply State.ok_versions)
    | (with_reducible apply State.ok_regs)

theorem State.acquireDue_ok (s : State) (slot : Nat) (h_s : State.ok s) :
    State.ok (State.acquireDue s slot) := by
  unfold State.acquireDue
  try extract_lets
  repeat' first
    | (with_reducible assumption)
    | (with_reducible apply State.setWave_ok)
    | (with_reducible apply State.acquire_ok)
    | extract_lets
    | (with_reducible intro _)
    | (split)

theorem State.completeWbar_ok (s : State) (team : Team) (scope : WbarScope) (h_s : State.ok s) :
    State.ok (State.completeWbar s team scope) := by
  unfold State.completeWbar
  try extract_lets
  repeat' first
    | (with_reducible assumption)
    | (with_reducible apply foldState_ok)
    | (with_reducible apply State.acquire_ok)
    | (with_reducible apply State.distributable_ok)
    | (with_reducible apply filter_wf)
    | extract_lets
    | (with_reducible intro _)
    | ((conv => arg 1; with_reducible whnf); first | (with_reducible apply foldState_ok) | (with_reducible apply State.acquire_ok) | (with_reducible apply State.distributable_ok))
    | (split)
    | ((conv => arg 1; with_reducible whnf); split)
    | ((conv => arg 1; arg 1; with_reducible whnf); split)
    | ((conv => arg 1; with_reducible whnf); clear_value *; split)
    | ((conv => arg 1; arg 1; with_reducible whnf); clear_value *; split)
    | (clear_value *; split)
    | ((conv => arg 1; with_reducible whnf); with_reducible apply State.ok_mk)
    | (with_reducible apply State.ok_mk)
    | (with_reducible apply State.ok_mem)
    | (with_reducible apply State.ok_scm)
    | (with_reducible apply State.ok_versions)
    | (with_reducible apply State.ok_regs)

theorem State.settleGroup_ok (s : State) (launch : Nat) (h_s : State.ok s) :
    State.ok (State.settleGroup s launch) := by
  unfold State.settleGroup
  try extract_lets
  repeat' first
    | (with_reducible assumption)
    | extract_lets
    | (with_reducible intro _)
    | (split)
    | ((conv => arg 1; with_reducible whnf); split)
    | ((conv => arg 1; arg 1; with_reducible whnf); split)
    | ((conv => arg 1; with_reducible whnf); clear_value *; split)
    | ((conv => arg 1; arg 1; with_reducible whnf); clear_value *; split)
    | (clear_value *; split)
    | ((conv => arg 1; with_reducible whnf); with_reducible apply State.ok_mk)
    | (with_reducible apply State.ok_mk)
    | (with_reducible apply State.ok_mem)
    | (with_reducible apply State.ok_scm)
    | (with_reducible apply State.ok_versions)
    | (with_reducible apply State.ok_regs)

theorem State.checkWbars_ok (s : State) (launch : Option Nat) (teamKey : Nat) (h_s : State.ok s) :
    State.ok (State.checkWbars s launch teamKey) := by
  unfold State.checkWbars
  try extract_lets
  repeat' first
    | (with_reducible assumption)
    | (with_reducible apply foldState_ok)
    | (with_reducible apply State.completeWbar_ok)
    | (with_reducible apply State.settleGroup_ok)
    | (with_reducible apply filter_wf)
    | extract_lets
    | (with_reducible intro _)
    | (split)

theorem State.exitTeam_ok (s : State) (key : Nat) (fire : Bool) (h_s : State.ok s) :
    State.ok (State.exitTeam s key fire) := by
  unfold State.exitTeam
  try extract_lets
  repeat' first
    | (with_reducible assumption)
    | (with_reducible apply State.modCluster_ok)
    | (with_reducible apply State.modDie_ok)
    | (with_reducible apply State.checkWbars_ok)
    | (with_reducible apply State.settlePreempt_ok)
    | (with_reducible apply State.reschedule_ok)
    | (with_reducible apply State.settleLaunch_ok)
    | extract_lets
    | (with_reducible intro _)
    | (split)
    | ((conv => arg 1; with_reducible whnf); split)
    | ((conv => arg 1; arg 1; with_reducible whnf); split)
    | ((conv => arg 1; with_reducible whnf); clear_value *; split)
    | ((conv => arg 1; arg 1; with_reducible whnf); clear_value *; split)
    | (clear_value *; split)
    | ((conv => arg 1; with_reducible whnf); with_reducible apply State.ok_mk)
    | (with_reducible apply State.ok_mk)
    | (with_reducible apply State.ok_mem)
    | (with_reducible apply State.ok_scm)
    | (with_reducible apply State.ok_versions)
    | (with_reducible apply State.ok_regs)

theorem State.clearRun_ok (s : State) (core base lines : Nat) (h_s : State.ok s) :
    State.ok (State.clearRun s core base lines) := by
  unfold State.clearRun
  try extract_lets
  repeat' first
    | (with_reducible assumption)
    | (with_reducible apply State.modCore_ok)

theorem State.loadRun_ok (s : State) (core base lines : Nat) (r : SpadRun) (h_s : State.ok s) :
    State.ok (State.loadRun s core base lines r) := by
  unfold State.loadRun
  try extract_lets
  repeat' first
    | (with_reducible assumption)
    | (with_reducible apply State.clearRun_ok)
    | (with_reducible apply State.modCore_ok)

theorem State.spoilSlots_ok (s : State) (ctx : Nat) (h_s : State.ok s) :
    State.ok (State.spoilSlots s ctx) := by
  unfold State.spoilSlots
  try extract_lets
  repeat' first
    | (with_reducible assumption)
    | (with_reducible apply State.setContext_ok)

theorem State.writeSlot_ok (s : State) (key : Nat) (c : CtxSlot) (h_s : State.ok s) :
    State.ok (State.writeSlot s key c) := by
  unfold State.writeSlot
  try extract_lets
  repeat' first
    | (with_reducible assumption)
    | (with_reducible apply State.storeRun_ok)
    | (with_reducible apply State.spoilSlots_ok)
    | extract_lets
    | (with_reducible intro _)
    | (split)
    | ((conv => arg 1; with_reducible whnf); split)
    | ((conv => arg 1; arg 1; with_reducible whnf); split)
    | ((conv => arg 1; with_reducible whnf); clear_value *; split)
    | ((conv => arg 1; arg 1; with_reducible whnf); clear_value *; split)
    | (clear_value *; split)
    | ((conv => arg 1; with_reducible whnf); with_reducible apply State.ok_mk)
    | (with_reducible apply State.ok_mk)
    | (with_reducible apply State.ok_mem)
    | (with_reducible apply State.ok_scm)
    | (with_reducible apply State.ok_versions)
    | (with_reducible apply State.ok_regs)

theorem State.checkSlot_ok (s : State) (c : CtxSlot) (h_s : State.ok s) :
    State.ok (State.checkSlot s c) := by
  unfold State.checkSlot
  try extract_lets
  repeat' first
    | (with_reducible assumption)
    | (with_reducible apply State.readRange_ok)
    | (with_reducible apply State.spoilSlots_ok)
    | extract_lets
    | (with_reducible intro _)
    | (split)

theorem State.restoreHelper_ok (s : State) (slot key : Nat) (h : CtxSlot) (fault : Option Nat) (h_s : State.ok s) :
    State.ok (State.restoreHelper s slot key h fault) := by
  unfold State.restoreHelper
  try extract_lets
  repeat' first
    | (with_reducible assumption)
    | (with_reducible apply State.wave_ok)
    | (with_reducible apply State.checkSlot_ok)
    | (with_reducible apply State.setWave_ok)
    | (with_reducible apply State.loadRun_ok)
    | (with_reducible apply State.acquireDue_ok)
    | extract_lets
    | (with_reducible intro _)
    | (split)
    | ((conv => arg 1; with_reducible whnf); split)
    | ((conv => arg 1; arg 1; with_reducible whnf); split)
    | ((conv => arg 1; with_reducible whnf); clear_value *; split)
    | ((conv => arg 1; arg 1; with_reducible whnf); clear_value *; split)
    | (clear_value *; split)
    | ((conv => arg 1; with_reducible whnf); with_reducible apply State.ok_mk)
    | (with_reducible apply State.ok_mk)
    | (with_reducible apply State.ok_mem)
    | (with_reducible apply State.ok_scm)
    | (with_reducible apply State.ok_versions)
    | (with_reducible apply State.ok_regs)

theorem State.sendOp_ok (s : State) (op : RemoteOp) (h_s : State.ok s) :
    State.ok (State.sendOp s op) := by
  unfold State.sendOp
  try extract_lets
  repeat' first
    | (with_reducible assumption)
    | extract_lets
    | (with_reducible intro _)
    | (split)
    | (with_reducible apply State.ok_mk)
    | (with_reducible apply State.ok_mem)
    | (with_reducible apply State.ok_scm)
    | (with_reducible apply State.ok_versions)
    | (with_reducible apply State.ok_regs)

theorem State.deviceWrite_ok (s : State) (w : Wave) (slot pa : Nat) (bs : List Byte) (h_s : State.ok s) :
    State.ok (State.deviceWrite s w slot pa bs) := by
  unfold State.deviceWrite
  try extract_lets
  repeat' first
    | (with_reducible assumption)
    | (with_reducible apply State.sendOp_ok)
    | (with_reducible apply State.storeAt_ok)
    | extract_lets
    | (with_reducible intro _)
    | (split)

theorem State.recount_ok (s : State) (slot : Nat) (w : Wave) (h_s : State.ok s) :
    State.ok (State.recount s slot w) := by
  unfold State.recount
  try extract_lets
  repeat' first
    | (with_reducible assumption)
    | (with_reducible apply foldState_ok)
    | (with_reducible apply State.deviceWrite_ok)
    | (with_reducible apply Did.ok_done)
    | (with_reducible apply Did.ok_goto)
    | (with_reducible apply Did.ok_trap)
    | (with_reducible apply Did.ok_wait)
    | (with_reducible apply Did.ok_park)
    | (with_reducible apply Did.ok_left)
    | extract_lets
    | (with_reducible intro _)
    | (split)

theorem State.removeWave_ok (s : State) (slot : Nat) (fire : Bool) (fault : Option Nat) (h_s : State.ok s) :
    State.ok (State.removeWave s slot fire fault) := by
  unfold State.removeWave
  cases s.waves.get? slot with
  | none => exact h_s
  | some w =>
    have key : ∀ s1 : State, s1.ok → State.ok (
        let s2 := match s1.teams.get? w.team with
          | none => s1
          | some t =>
            let t' : Team := { t with slots := delNat slot t.slots, arrived := delNat w.waveNo t.arrived }
            let s3 := s1.setTeam w.team t'
            if t'.slots = [] then s3.exitTeam w.team fire else s3.checkWbars t.launch w.team
        let s4 := foldState State.settleLaunch s2 w.launches
        let s5 : State := if w.adopt = 0 then s4
          else match s4.helperOf? slot with
            | none => s4
            | some h => ({ s4 with ctxSlots := s4.ctxSlots.del h.2.partner } : State).restoreHelper slot h.1 h.2 fault
        s5.retryOwned (w.task :: s5.taskAt slot)) := by
      intro s1 h1
      extract_lets s2 s4 s5
      have h2 : s2.ok := by
        simp only [s2]
        split
        · exact h1
        · split
          · exact State.exitTeam_ok _ _ _ (State.setTeam_ok _ _ _ h1)
          · exact State.checkWbars_ok _ _ _ (State.setTeam_ok _ _ _ h1)
      clear_value s2
      have h4 : s4.ok := foldState_ok _ _ _ (fun t a h => State.settleLaunch_ok t a h) h2
      clear_value s4
      have h5 : s5.ok := by
        simp only [s5]
        split
        · exact h4
        · split
          · exact h4
          · exact State.restoreHelper_ok _ _ _ _ _ h4
      clear_value s5
      exact State.retryOwned_ok _ _ h5
    exact key _ (State.recount_ok _ _ _ ⟨h_s.1, h_s.2.1, versionsOk_del h_s.2.2.1, h_s.2.2.2⟩)

theorem State.countAbort_ok (s : State) (ls : List Nat) (h_s : State.ok s) :
    State.ok (State.countAbort s ls) := by
  unfold State.countAbort
  try extract_lets
  repeat' first
    | (with_reducible assumption)
    | extract_lets
    | (with_reducible intro _)
    | (split)
    | (with_reducible apply State.ok_mk)
    | (with_reducible apply State.ok_mem)
    | (with_reducible apply State.ok_scm)
    | (with_reducible apply State.ok_versions)
    | (with_reducible apply State.ok_regs)

theorem State.faultCapsule_ok (s : State) (slot : Nat) (w : Wave) (h_s : State.ok s) :
    State.ok (State.faultCapsule s slot w) := by
  unfold State.faultCapsule
  try extract_lets
  repeat' first
    | (with_reducible assumption)
    | (with_reducible apply State.storeAt_ok)
    | extract_lets
    | (with_reducible intro _)
    | (split)

theorem State.faultAwaited_ok (s : State) (slot : Nat) (w : Wave) (cause : Nat) (h_s : State.ok s) :
    State.ok (State.faultAwaited s slot w cause) := by
  unfold State.faultAwaited
  try extract_lets
  repeat' first
    | (with_reducible assumption)
    | (with_reducible apply State.adopt_ok)
    | (with_reducible apply State.deviceWrite_ok)
    | (with_reducible apply State.spadStore_ok)
    | extract_lets
    | (with_reducible intro _)
    | (split)

theorem State.abort_ok (s : State) (slot kind tsw : Nat) (epc : DWord) (record : Bool) (h_s : State.ok s) :
    State.ok (State.abort s slot kind tsw epc record) := by
  unfold State.abort
  split
  · exact h_s
  · extract_lets s1 s2 s3
    have h1 : s1.ok := ⟨h_s.1, h_s.2.1, versionsOk_del h_s.2.2.1, h_s.2.2.2⟩
    clear_value s1
    have h2 : s2.ok := State.faultAwaited_ok _ _ _ _ (State.faultCapsule_ok _ _ _ h1)
    clear_value s2
    have h3 : s3.ok := State.removeWave_ok _ _ _ _ (State.countAbort_ok _ _ h2)
    clear_value s3
    split
    · exact State.logFault_ok _ _ _ h3
    · exact h3

theorem State.suspendOwner_ok (s : State) (slot : Nat) (h_s : State.ok s) :
    State.ok (State.suspendOwner s slot) := by
  unfold State.suspendOwner
  try extract_lets
  repeat' first
    | (with_reducible assumption)
    | (with_reducible apply State.adopt_ok)
    | (with_reducible apply State.wave_ok)
    | (with_reducible apply State.writeSlot_ok)
    | (with_reducible apply State.restoreHelper_ok)
    | (with_reducible apply State.retryOwned_ok)
    | extract_lets
    | (with_reducible intro _)
    | (split)
    | ((conv => arg 1; with_reducible whnf); split)
    | ((conv => arg 1; arg 1; with_reducible whnf); split)
    | ((conv => arg 1; with_reducible whnf); clear_value *; split)
    | ((conv => arg 1; arg 1; with_reducible whnf); clear_value *; split)
    | (clear_value *; split)
    | ((conv => arg 1; with_reducible whnf); with_reducible apply State.ok_mk)
    | (with_reducible apply State.ok_mk)
    | (with_reducible apply State.ok_mem)
    | (with_reducible apply State.ok_scm)
    | (with_reducible apply State.ok_versions)
    | (with_reducible apply State.ok_regs)

/-! ### Ops -/

theorem State.takeTrap_ok (s : State) (slot : Nat) (bundle epc : DWord) (r0 : Raise) (rest : List Raise) (h_s : State.ok s) :
    State.ok (State.takeTrap s slot bundle epc r0 rest) := by
  unfold State.takeTrap
  try extract_lets
  repeat' first
    | (with_reducible assumption)
    | (with_reducible apply State.abort_ok)
    | (with_reducible apply State.setWave_ok)
    | extract_lets
    | (with_reducible intro _)
    | (split)

theorem State.writeLaneArgs_ok (s : State) (core base lines : Nat) (args : List DWord) (h_s : State.ok s) :
    State.ok (State.writeLaneArgs s core base lines args) := by
  unfold State.writeLaneArgs
  try extract_lets
  repeat' first
    | (with_reducible assumption)
    | (with_reducible apply State.clearRun_ok)
    | (with_reducible apply State.spadStore_ok)

theorem State.restartWave_ok (s : State) (slot : Nat) (h_s : State.ok s) :
    State.ok (State.restartWave s slot) := by
  unfold State.restartWave
  try extract_lets
  repeat' first
    | (with_reducible assumption)
    | (with_reducible apply State.setWave_ok)
    | (with_reducible apply State.restarted_ok)
    | (with_reducible apply State.recount_ok)
    | (with_reducible apply State.writeLaneArgs_ok)
    | extract_lets
    | (with_reducible intro _)
    | (split)
    | ((conv => arg 1; with_reducible whnf); split)
    | ((conv => arg 1; arg 1; with_reducible whnf); split)
    | ((conv => arg 1; with_reducible whnf); clear_value *; split)
    | ((conv => arg 1; arg 1; with_reducible whnf); clear_value *; split)
    | (clear_value *; split)
    | ((conv => arg 1; with_reducible whnf); with_reducible apply State.ok_mk)
    | (with_reducible apply State.ok_mk)
    | (with_reducible apply State.ok_mem)
    | (with_reducible apply State.ok_scm)
    | (with_reducible apply State.ok_versions)
    | (with_reducible apply State.ok_regs)
    | contradiction
    | (with_reducible exact trivial)
    | (with_reducible apply versionsOk_del)

theorem State.machineCheck_ok (s : State) (slot info : Nat) (h_s : State.ok s) :
    State.ok (State.machineCheck s slot info) := by
  unfold State.machineCheck
  try extract_lets
  repeat' first
    | (with_reducible assumption)
    | (with_reducible apply AtomAcc.lane_ok)
    | (with_reducible apply State.setWave_ok)
    | (with_reducible apply State.modWave_ok)
    | (with_reducible apply State.restartWave_ok)
    | (with_reducible apply State.logFault_ok)
    | (with_reducible apply State.abort_ok)
    | extract_lets
    | (with_reducible intro _)
    | (split)

theorem Did.orTrap_ok (s : State) (rs : List Raise) (d : Did) (h_s : State.ok s) (h_d : Did.ok d) :
    Did.ok (Did.orTrap s rs d) := by
  unfold Did.orTrap
  try extract_lets
  repeat' first
    | (with_reducible assumption)
    | (with_reducible apply Did.ok_done)
    | (with_reducible apply Did.ok_goto)
    | (with_reducible apply Did.ok_trap)
    | (with_reducible apply Did.ok_wait)
    | (with_reducible apply Did.ok_park)
    | (with_reducible apply Did.ok_left)
    | extract_lets
    | (with_reducible intro _)
    | (exact h_d)
    | (split)

theorem State.addActivity_ok (s : State) (clus : Nat) (launches : List Nat) (n : Nat) (h_s : State.ok s) :
    State.ok (State.addActivity s clus launches n) := by
  unfold State.addActivity
  try extract_lets
  repeat' first
    | (with_reducible assumption)
    | (with_reducible apply foldl_ok)
    | (with_reducible apply foldl_set_wf)
    | extract_lets
    | (with_reducible intro _)
    | (split)
    | ((conv => arg 1; with_reducible whnf); split)
    | ((conv => arg 1; arg 1; with_reducible whnf); split)
    | ((conv => arg 1; with_reducible whnf); clear_value *; split)
    | ((conv => arg 1; arg 1; with_reducible whnf); clear_value *; split)
    | (clear_value *; split)
    | ((conv => arg 1; with_reducible whnf); with_reducible apply State.ok_mk)
    | (with_reducible apply State.ok_mk)
    | (with_reducible apply State.ok_mem)
    | (with_reducible apply State.ok_scm)
    | (with_reducible apply State.ok_versions)
    | (with_reducible apply State.ok_regs)

theorem State.charge_ok (s : State) (launches : List Nat) (slot gap : Nat) (giveWay : Bool) (h_s : State.ok s) :
    State.ok (State.charge s launches slot gap giveWay) := by
  unfold State.charge
  try extract_lets
  repeat' first
    | (with_reducible assumption)
    | (with_reducible apply State.addActivity_ok)
    | extract_lets
    | (with_reducible intro _)
    | (split)
    | ((conv => arg 1; with_reducible whnf); split)
    | ((conv => arg 1; arg 1; with_reducible whnf); split)
    | ((conv => arg 1; with_reducible whnf); clear_value *; split)
    | ((conv => arg 1; arg 1; with_reducible whnf); clear_value *; split)
    | (clear_value *; split)
    | ((conv => arg 1; with_reducible whnf); with_reducible apply State.ok_mk)
    | (with_reducible apply State.ok_mk)
    | (with_reducible apply State.ok_mem)
    | (with_reducible apply State.ok_scm)
    | (with_reducible apply State.ok_versions)
    | (with_reducible apply State.ok_regs)

theorem State.waitIssue_ok (s : State) (slot : Nat) (h_s : State.ok s) :
    State.ok (State.waitIssue s slot) := by
  unfold State.waitIssue
  try extract_lets
  repeat' first
    | (with_reducible assumption)
    | (with_reducible apply State.modWave_ok)

theorem State.move_ok (s : State) (i : Issue) (groups : List (DWord × DWord)) (front : Option DWord) (h_s : State.ok s) :
    State.ok (State.move s i groups front) := by
  unfold State.move
  try extract_lets
  repeat' first
    | (with_reducible assumption)
    | (with_reducible apply State.modWave_ok)

theorem State.parkAt_ok (s : State) (i : Issue) (p : Park) (h_s : State.ok s) :
    State.ok (State.parkAt s i p) := by
  unfold State.parkAt
  try extract_lets
  repeat' first
    | (with_reducible assumption)
    | (with_reducible apply State.modWave_ok)

theorem State.afterPark_ok (s : State) (slot : Nat) (p : Park) (h_s : State.ok s) :
    State.ok (State.afterPark s slot p) := by
  unfold State.afterPark
  try extract_lets
  repeat' first
    | (with_reducible assumption)
    | (with_reducible apply State.modWave_ok)
    | (with_reducible apply State.checkWbars_ok)
    | (with_reducible apply State.retryOwned_ok)
    | (with_reducible apply State.suspendOwner_ok)
    | extract_lets
    | (with_reducible intro _)
    | (split)
    | ((conv => arg 1; with_reducible whnf); split)

theorem State.afterRelease_ok (s : State) (i : Issue) (h_s : State.ok s) :
    State.ok (State.afterRelease s i) := by
  unfold State.afterRelease
  try extract_lets
  repeat' first
    | (with_reducible assumption)
    | (with_reducible apply State.retryOwned_ok)
    | extract_lets
    | (with_reducible intro _)
    | (split)

theorem State.waitAgain_ok (s : State) (i : Issue) (h_s : State.ok s) :
    State.ok (State.waitAgain s i) := by
  unfold State.waitAgain
  try extract_lets
  repeat' first
    | (with_reducible assumption)
    | (with_reducible apply State.modWave_ok)
    | (with_reducible apply State.afterRelease_ok)
    | (with_reducible apply State.waitIssue_ok)
    | extract_lets
    | (with_reducible intro _)
    | (split)

theorem Did.settle_ok (d : Did) (launches : List Nat) (i : Issue) (gap : Nat) (giveWay : Bool) (h_d : Did.ok d) :
    State.ok (Did.settle d launches i gap giveWay) := by
  unfold Did.settle
  try extract_lets
  repeat' first
    | (with_reducible assumption)
    | (with_reducible apply State.charge_ok)
    | (with_reducible apply State.move_ok)
    | (with_reducible apply State.afterRelease_ok)
    | (with_reducible apply State.modWave_ok)
    | (with_reducible apply State.takeTrap_ok)
    | (with_reducible apply State.waitAgain_ok)
    | (with_reducible apply State.parkAt_ok)
    | (with_reducible apply State.afterPark_ok)
    | (with_reducible apply Did.ok_done)
    | (with_reducible apply Did.ok_goto)
    | (with_reducible apply Did.ok_trap)
    | (with_reducible apply Did.ok_wait)
    | (with_reducible apply Did.ok_park)
    | (with_reducible apply Did.ok_left)
    | extract_lets
    | (with_reducible intro _)
    | (exact h_d)
    | ((conv => arg 1; with_reducible whnf); first | (with_reducible apply State.charge_ok) | (with_reducible apply State.move_ok) | (with_reducible apply State.afterRelease_ok) | (with_reducible apply State.modWave_ok) | (with_reducible apply State.takeTrap_ok) | (with_reducible apply State.waitAgain_ok) | (with_reducible apply State.parkAt_ok) | (with_reducible apply State.afterPark_ok) | (with_reducible apply Did.ok_done) | (with_reducible apply Did.ok_goto) | (with_reducible apply Did.ok_trap) | (with_reducible apply Did.ok_wait) | (with_reducible apply Did.ok_park) | (with_reducible apply Did.ok_left))
    | (split)
    | ((conv => arg 1; with_reducible whnf); split)

theorem State.noteStall_ok (s : State) (slot : Nat) (a0 : Stall) (h_s : State.ok s) :
    State.ok (State.noteStall s slot a0) := by
  unfold State.noteStall
  try extract_lets
  repeat' first
    | (with_reducible assumption)
    | (with_reducible apply State.modDie_ok)
    | extract_lets
    | (with_reducible intro _)
    | (split)
    | ((conv => arg 1; with_reducible whnf); split)
    | ((conv => arg 1; arg 1; with_reducible whnf); split)
    | ((conv => arg 1; with_reducible whnf); clear_value *; split)
    | ((conv => arg 1; arg 1; with_reducible whnf); clear_value *; split)
    | (clear_value *; split)
    | ((conv => arg 1; with_reducible whnf); with_reducible apply State.ok_mk)
    | (with_reducible apply State.ok_mk)
    | (with_reducible apply State.ok_mem)
    | (with_reducible apply State.ok_scm)
    | (with_reducible apply State.ok_versions)
    | (with_reducible apply State.ok_regs)

theorem State.orWait_ok (u s : State) (i : Issue) (h_u : State.ok u) (h_s : State.ok s) :
    State.ok (State.orWait u s i) := by
  unfold State.orWait
  try extract_lets
  repeat' first
    | (with_reducible assumption)
    | (with_reducible apply foldState_ok)
    | (with_reducible apply State.noteStall_ok)
    | (with_reducible apply State.waitAgain_ok)
    | extract_lets
    | (with_reducible intro _)
    | (split)

theorem Did.finish_ok (d : Did) (s : State) (i : Issue) (gap : Nat) (giveWay : Bool) (h_d : Did.ok d) (h_s : State.ok s) :
    State.ok (Did.finish d s i gap giveWay) := by
  unfold Did.finish
  try extract_lets
  repeat' first
    | (with_reducible assumption)
    | (with_reducible apply Did.settle_ok)
    | (with_reducible apply State.orWait_ok)
    | (with_reducible apply Did.ok_done)
    | (with_reducible apply Did.ok_goto)
    | (with_reducible apply Did.ok_trap)
    | (with_reducible apply Did.ok_wait)
    | (with_reducible apply Did.ok_park)
    | (with_reducible apply Did.ok_left)
    | extract_lets
    | (with_reducible intro _)
    | (exact h_d)
    | (split)

theorem settleEvent_ok (agent : Nat) (s t : State) (h_s : State.ok s) (h_t : State.ok t) :
    State.ok (settleEvent agent s t) := by
  unfold settleEvent
  try extract_lets
  repeat' first
    | (with_reducible assumption)
    | (with_reducible apply foldState_ok)
    | (with_reducible apply State.noteStall_ok)
    | extract_lets
    | (with_reducible intro _)
    | (split)

theorem Did.unstalled_ok (s : State) (slot : Nat) (d : Did) (h_s : State.ok s) (h_d : Did.ok d) :
    Did.ok (Did.unstalled s slot d) := by
  unfold Did.unstalled
  try extract_lets
  repeat' first
    | (with_reducible assumption)
    | (with_reducible apply Did.state_ok)
    | (with_reducible apply foldState_ok)
    | (with_reducible apply State.noteStall_ok)
    | (with_reducible apply Did.ok_done)
    | (with_reducible apply Did.ok_goto)
    | (with_reducible apply Did.ok_trap)
    | (with_reducible apply Did.ok_wait)
    | (with_reducible apply Did.ok_park)
    | (with_reducible apply Did.ok_left)
    | extract_lets
    | (with_reducible intro _)
    | (exact h_d)
    | (split)

theorem Issue.raiseAll_ok (i : Issue) (s : State) (instr : Instr) (cause info : Nat) (h_s : State.ok s) :
    Did.ok (Issue.raiseAll i s instr cause info) := by
  unfold Issue.raiseAll
  try extract_lets
  repeat' first
    | (with_reducible assumption)
    | (with_reducible apply Did.orTrap_ok)
    | (with_reducible apply Did.ok_done)
    | (with_reducible apply Did.ok_goto)
    | (with_reducible apply Did.ok_trap)
    | (with_reducible apply Did.ok_wait)
    | (with_reducible apply Did.ok_park)
    | (with_reducible apply Did.ok_left)

theorem State.countWord_ok (s : State) (w : Wave) (h_s : State.ok s) :
    State.ok (State.countWord s w) := by
  unfold State.countWord
  try extract_lets
  repeat' first
    | (with_reducible assumption)
    | (with_reducible apply State.setWave_ok)
    | extract_lets
    | (with_reducible intro _)
    | (split)

theorem Did.uncounted_ok (d : Did) (slot : Nat) (w : Wave) (h_d : Did.ok d) :
    Did.ok (Did.uncounted d slot w) := by
  unfold Did.uncounted
  try extract_lets
  repeat' first
    | (with_reducible assumption)
    | (with_reducible apply State.modWave_ok)
    | (with_reducible apply Did.ok_done)
    | (with_reducible apply Did.ok_goto)
    | (with_reducible apply Did.ok_trap)
    | (with_reducible apply Did.ok_wait)
    | (with_reducible apply Did.ok_park)
    | (with_reducible apply Did.ok_left)
    | extract_lets
    | (with_reducible intro _)
    | (exact h_d)
    | (split)

theorem Did.stalled_ok (d : Did) (s : State) (instr : Instr) (lanes : DWord) (h_d : Did.ok d) (h_s : State.ok s) :
    Did.ok (Did.stalled d s instr lanes) := by
  unfold Did.stalled
  try extract_lets
  repeat' first
    | (with_reducible assumption)
    | (with_reducible apply Did.orTrap_ok)
    | (with_reducible apply Did.ok_done)
    | (with_reducible apply Did.ok_goto)
    | (with_reducible apply Did.ok_trap)
    | (with_reducible apply Did.ok_wait)
    | (with_reducible apply Did.ok_park)
    | (with_reducible apply Did.ok_left)

theorem Did.refused_ok (d : Did) (s : State) (static : List Raise) (h_d : Did.ok d) (h_s : State.ok s) :
    Did.ok (Did.refused d s static) := by
  unfold Did.refused
  try extract_lets
  repeat' first
    | (with_reducible assumption)
    | (with_reducible apply Did.orTrap_ok)
    | (with_reducible apply Did.ok_done)
    | (with_reducible apply Did.ok_goto)
    | (with_reducible apply Did.ok_trap)
    | (with_reducible apply Did.ok_wait)
    | (with_reducible apply Did.ok_park)
    | (with_reducible apply Did.ok_left)

theorem State.perform_ok (s : State) (instr : Instr) (w : Wave) (body : State → Wave → Did) (h_s : State.ok s) (h_body : ∀ (body_0 : State) (body_1 : Wave), State.ok body_0 → Did.ok (body body_0 body_1)) :
    Did.ok (State.perform s instr w body) := by
  unfold State.perform
  try extract_lets
  repeat' first
    | (with_reducible assumption)
    | (with_reducible apply h_body)
    | (with_reducible apply State.countWord_ok)
    | (with_reducible apply Issue.raiseAll_ok)
    | (with_reducible apply Did.refused_ok)
    | (with_reducible apply Did.unstalled_ok)
    | (with_reducible apply Did.uncounted_ok)
    | (with_reducible apply Did.stalled_ok)
    | (with_reducible apply Did.ok_done)
    | (with_reducible apply Did.ok_goto)
    | (with_reducible apply Did.ok_trap)
    | (with_reducible apply Did.ok_wait)
    | (with_reducible apply Did.ok_park)
    | (with_reducible apply Did.ok_left)
    | extract_lets
    | (with_reducible intro _)
    | (split)
    | ((conv => arg 1; with_reducible whnf); split)

theorem issueWord_ok (q : Sched) (instr : Instr) (s : State) (body : State → Wave → Did) (h_s : State.ok s) (h_body : ∀ (body_0 : State) (body_1 : Wave), State.ok body_0 → Did.ok (body body_0 body_1)) :
    keeps (issueWord q instr s body) := by
  unfold issueWord
  try extract_lets
  repeat' first
    | (with_reducible assumption)
    | (with_reducible apply h_body)
    | (with_reducible apply State.perform_ok)
    | (with_reducible apply Did.finish_ok)
    | (with_reducible apply Did.ok_done)
    | (with_reducible apply Did.ok_goto)
    | (with_reducible apply Did.ok_trap)
    | (with_reducible apply Did.ok_wait)
    | (with_reducible apply Did.ok_park)
    | (with_reducible apply Did.ok_left)
    | (with_reducible apply keeps_next)
    | (with_reducible apply keeps_fault)
    | (with_reducible apply keeps_refused)
    | extract_lets
    | (with_reducible intro _)
    | (split)

theorem issueHint_ok (instr : Instr) (s : State) (h_s : State.ok s) :
    keeps (issueHint instr s) := by
  unfold issueHint
  extract_lets
  split
  · exact keeps_fault
  · extract_lets did
    have hd : did.ok := by
      simp only [did]
      repeat' first
    | (with_reducible assumption)
    | (with_reducible apply Issue.raiseAll_ok)
    | (with_reducible apply State.charge_ok)
    | (with_reducible apply State.modWave_ok)
    | (with_reducible apply Did.finish_ok)
    | (with_reducible apply Did.ok_done)
    | (with_reducible apply Did.ok_goto)
    | (with_reducible apply Did.ok_trap)
    | (with_reducible apply Did.ok_wait)
    | (with_reducible apply Did.ok_park)
    | (with_reducible apply Did.ok_left)
    | (with_reducible apply keeps_next)
    | (with_reducible apply keeps_fault)
    | (with_reducible apply keeps_refused)
    | extract_lets
    | (with_reducible intro _)
    | (split)
    clear_value did
    cases did <;> first | (exact keeps_next hd) | (exact keeps_next (Did.finish_ok _ _ _ _ _ hd h_s))

theorem State.illegalWord_ok (s : State) (h_s : State.ok s) :
    State.ok (State.illegalWord s) := by
  unfold State.illegalWord
  try extract_lets
  repeat' first
    | (with_reducible assumption)
    | (with_reducible apply State.countWord_ok)
    | (with_reducible apply Did.orTrap_ok)
    | (with_reducible apply Did.finish_ok)
    | (with_reducible apply Did.ok_done)
    | (with_reducible apply Did.ok_goto)
    | (with_reducible apply Did.ok_trap)
    | (with_reducible apply Did.ok_wait)
    | (with_reducible apply Did.ok_park)
    | (with_reducible apply Did.ok_left)
    | extract_lets
    | (with_reducible intro _)
    | (split)
    | ((conv => arg 1; with_reducible whnf); split)

theorem State.wave_ok (s : State) (f : Wave → Wave) (h_s : State.ok s) :
    State.ok (State.wave s f) := by
  unfold State.wave
  try extract_lets
  repeat' first
    | (with_reducible assumption)
    | (with_reducible apply State.modWave_ok)

theorem State.later_ok (s : State) (n : Nat) (l : Landing) (h_s : State.ok s) :
    State.ok (State.later s n l) := by
  unfold State.later
  try extract_lets
  repeat' first
    | (with_reducible assumption)
    | (with_reducible apply State.wave_ok)

theorem State.putNow_ok (s : State) (l : Landing) (h_s : State.ok s) :
    State.ok (State.putNow s l) := by
  unfold State.putNow
  try extract_lets
  repeat' first
    | (with_reducible assumption)
    | (with_reducible apply State.wave_ok)

theorem State.raiseFlags_ok (s : State) (f : FFlags) (h_s : State.ok s) :
    State.ok (State.raiseFlags s f) := by
  unfold State.raiseFlags
  try extract_lets
  repeat' first
    | (with_reducible assumption)
    | (with_reducible apply State.wave_ok)

theorem State.laterMask_ok (s : State) (n reg : Nat) (x : DWord) (h_s : State.ok s) :
    State.ok (State.laterMask s n reg x) := by
  unfold State.laterMask
  try extract_lets
  repeat' first
    | (with_reducible assumption)
    | (with_reducible apply State.wave_ok)

theorem State.putPair_ok (s : State) (reg : Nat) (x : DWord) (h_s : State.ok s) :
    State.ok (State.putPair s reg x) := by
  unfold State.putPair
  try extract_lets
  repeat' first
    | (with_reducible assumption)
    | (with_reducible apply State.putNow_ok)

theorem State.putStatus_ok (s : State) (sd code owner : Nat) (h_s : State.ok s) :
    State.ok (State.putStatus s sd code owner) := by
  unfold State.putStatus
  try extract_lets
  repeat' first
    | (with_reducible assumption)
    | (with_reducible apply State.putNow_ok)

/-! ### Persist -/

theorem State.writeHome_ok (s : State) (g : WbqGroup) (h_s : State.ok s) :
    State.ok (State.writeHome s g) := by
  unfold State.writeHome
  try extract_lets
  repeat' first
    | (with_reducible assumption)
    | (with_reducible apply foldState_ok)
    | (with_reducible apply State.markScm_ok)
    | (with_reducible apply foldl_ok)
    | (with_reducible apply foldl_set_wf)
    | extract_lets
    | (with_reducible intro _)
    | ((conv => arg 1; with_reducible whnf); first | (with_reducible apply foldState_ok) | (with_reducible apply State.markScm_ok))
    | (split)
    | ((conv => arg 1; with_reducible whnf); split)
    | ((conv => arg 1; arg 1; with_reducible whnf); split)
    | ((conv => arg 1; with_reducible whnf); clear_value *; split)
    | ((conv => arg 1; arg 1; with_reducible whnf); clear_value *; split)
    | (clear_value *; split)
    | ((conv => arg 1; with_reducible whnf); with_reducible apply State.ok_mk)
    | (with_reducible apply State.ok_mk)
    | (with_reducible apply State.ok_mem)
    | (with_reducible apply State.ok_scm)
    | (with_reducible apply State.ok_versions)
    | (with_reducible apply State.ok_regs)

theorem State.enter_ok (s : State) (g : WbqGroup) (h_s : State.ok s) :
    State.ok (State.enter s g) := by
  unfold State.enter
  try extract_lets
  repeat' first
    | (with_reducible assumption)
    | (with_reducible apply State.store_ok)
    | (with_reducible apply foldState_ok)
    | (with_reducible apply State.dropCells_ok)
    | (with_reducible apply State.writeHome_ok)
    | (with_reducible apply State.modDie_ok)
    | (with_reducible apply foldl_ok)
    | (with_reducible apply foldl_set_wf)
    | (with_reducible apply filter_wf)
    | extract_lets
    | (with_reducible intro _)
    | ((conv => arg 1; with_reducible whnf); first | (with_reducible apply State.store_ok) | (with_reducible apply foldState_ok) | (with_reducible apply State.dropCells_ok) | (with_reducible apply State.writeHome_ok) | (with_reducible apply State.modDie_ok))
    | (split)
    | ((conv => arg 1; with_reducible whnf); split)
    | ((conv => arg 1; arg 1; with_reducible whnf); split)
    | ((conv => arg 1; with_reducible whnf); clear_value *; split)
    | ((conv => arg 1; arg 1; with_reducible whnf); clear_value *; split)
    | (clear_value *; split)
    | ((conv => arg 1; with_reducible whnf); with_reducible apply State.ok_mk)
    | (with_reducible apply State.ok_mk)
    | (with_reducible apply State.ok_mem)
    | (with_reducible apply State.ok_scm)
    | (with_reducible apply State.ok_versions)
    | (with_reducible apply State.ok_regs)

theorem State.stallOn_ok (s : State) (x : Stall) (h_s : State.ok s) :
    State.ok (State.stallOn s x) := by
  unfold State.stallOn
  try extract_lets
  repeat' first
    | (with_reducible assumption)
    | extract_lets
    | (with_reducible intro _)
    | (split)
    | (with_reducible apply State.ok_mk)
    | (with_reducible apply State.ok_mem)
    | (with_reducible apply State.ok_scm)
    | (with_reducible apply State.ok_versions)
    | (with_reducible apply State.ok_regs)

theorem State.enterNow_ok (s : State) (w : Wave) (slot : Nat) (bytes : List Host.Cell) (marked : List Nat) (h_s : State.ok s) :
    State.ok (State.enterNow s w slot bytes marked) := by
  unfold State.enterNow
  try extract_lets
  repeat' first
    | (with_reducible assumption)
    | (with_reducible apply State.stallOn_ok)
    | (with_reducible apply State.enter_ok)
    | extract_lets
    | (with_reducible intro _)
    | (split)

theorem State.post_ok (s : State) (w : Wave) (slot : Nat) (bytes : List Host.Cell) (h_s : State.ok s) :
    State.ok (State.post s w slot bytes) := by
  unfold State.post
  try extract_lets
  repeat' first
    | (with_reducible assumption)
    | extract_lets
    | (with_reducible intro _)
    | (split)
    | (with_reducible apply State.ok_mk)
    | (with_reducible apply State.ok_mem)
    | (with_reducible apply State.ok_scm)
    | (with_reducible apply State.ok_versions)
    | (with_reducible apply State.ok_regs)

theorem State.ordered_ok (s : State) (slot : Nat) (h_s : State.ok s) :
    State.ok (State.ordered s slot) := by
  unfold State.ordered
  try extract_lets
  repeat' first
    | (with_reducible assumption)
    | (with_reducible apply State.stallOn_ok)
    | extract_lets
    | (with_reducible intro _)
    | (split)

theorem releasing_ok (t : State) (w : Wave) (scope : Nat) (k : State → Did) (h_t : State.ok t) (h_k : ∀ (k_0 : State), State.ok k_0 → Did.ok (k k_0)) :
    Did.ok (releasing t w scope k) := by
  unfold releasing
  try extract_lets
  repeat' first
    | (with_reducible assumption)
    | (with_reducible apply h_k)
    | (with_reducible apply State.commit_ok)
    | (with_reducible apply State.release_ok)
    | (with_reducible apply Did.ok_done)
    | (with_reducible apply Did.ok_goto)
    | (with_reducible apply Did.ok_trap)
    | (with_reducible apply Did.ok_wait)
    | (with_reducible apply Did.ok_park)
    | (with_reducible apply Did.ok_left)
    | extract_lets
    | (with_reducible intro _)
    | (split)
    | ((conv => arg 1; with_reducible whnf); split)

theorem State.postRemote_ok (s : State) (w : Wave) (slot pa : Nat) (bs : List Byte) (h_s : State.ok s) :
    State.ok (State.postRemote s w slot pa bs) := by
  unfold State.postRemote
  try extract_lets
  repeat' first
    | (with_reducible assumption)
    | (with_reducible apply State.sendOp_ok)

theorem State.setPeer_ok (s : State) (e : Nat) (x : DWord) (h_s : State.ok s) :
    State.ok (State.setPeer s e x) := by
  unfold State.setPeer
  try extract_lets
  repeat' first
    | (with_reducible assumption)
    | extract_lets
    | (with_reducible intro _)
    | (split)
    | (with_reducible apply State.ok_mk)
    | (with_reducible apply State.ok_mem)
    | (with_reducible apply State.ok_scm)
    | (with_reducible apply State.ok_versions)
    | (with_reducible apply State.ok_regs)

/-! ### Access -/

theorem State.checkLanes_ok (s : State) (slot : Nat) (w : Wave) (n align space : Nat) (want : Want) (a0 : List (Nat × Nat)) (h_s : State.ok s) :
    State.ok ((State.checkLanes s slot w n align space want a0)).1 := by
  induction a0 generalizing s slot w n align space want with
  | nil =>
    unfold State.checkLanes
    try extract_lets
    repeat' first
      | (with_reducible assumption)
  | cons c_ l_ ih =>
    unfold State.checkLanes
    try extract_lets
    repeat' first
      | (with_reducible assumption)
      | (with_reducible apply ih)
      | (with_reducible apply State.check_ok)
      | (with_reducible apply AtomAcc.lane_ok)
      | extract_lets
      | (with_reducible intro _)
      | (split)

theorem State.raceLanes_ok (s : State) (slot : Nat) (store : Bool) (a0 : List Acc) (h_s : State.ok s) :
    State.ok ((State.raceLanes s slot store a0)).1 := by
  induction a0 generalizing s slot store with
  | nil =>
    unfold State.raceLanes
    try extract_lets
    repeat' first
      | (with_reducible assumption)
  | cons c_ l_ ih =>
    unfold State.raceLanes
    try extract_lets
    repeat' first
      | (with_reducible assumption)
      | (with_reducible apply ih)
      | (with_reducible apply State.race_ok)

theorem globalAccess_ok (t : State) (w : Wave) (n align space : Nat) (want : Want) (race : Option Bool) (addr : List (Nat × Nat)) (body : State → List Acc → Did) (h_t : State.ok t) (h_body : ∀ (body_0 : State) (body_1 : List Acc), State.ok body_0 → Did.ok (body body_0 body_1)) :
    Did.ok (globalAccess t w n align space want race addr body) := by
  unfold globalAccess
  try extract_lets
  repeat' first
    | (with_reducible assumption)
    | (with_reducible apply h_body)
    | (with_reducible apply State.checkLanes_ok)
    | (with_reducible apply State.race_ok)
    | (with_reducible apply State.store_ok)
    | (with_reducible apply State.raceLanes_ok)
    | (with_reducible apply Did.orTrap_ok)
    | (with_reducible apply Did.ok_done)
    | (with_reducible apply Did.ok_goto)
    | (with_reducible apply Did.ok_trap)
    | (with_reducible apply Did.ok_wait)
    | (with_reducible apply Did.ok_park)
    | (with_reducible apply Did.ok_left)
    | extract_lets
    | (with_reducible intro _)
    | (split)
    | ((conv => arg 1; with_reducible whnf); split)
    | ((conv => arg 1; arg 1; with_reducible whnf); split)

theorem spadAccess_ok (t : State) (w : Wave) (instr : Instr) (n : Nat) (wr : Bool) (addr : List (Nat × Nat)) (body : List SpadAcc → Did) (h_t : State.ok t) (h_body : ∀ (body_0 : List SpadAcc), Did.ok (body body_0)) :
    Did.ok (spadAccess t w instr n wr addr body) := by
  unfold spadAccess
  try extract_lets
  repeat' first
    | (with_reducible assumption)
    | (with_reducible apply h_body)
    | (with_reducible apply AtomAcc.lane_ok)
    | (with_reducible apply Did.orTrap_ok)
    | (with_reducible apply Did.ok_done)
    | (with_reducible apply Did.ok_goto)
    | (with_reducible apply Did.ok_trap)
    | (with_reducible apply Did.ok_wait)
    | (with_reducible apply Did.ok_park)
    | (with_reducible apply Did.ok_left)
    | (with_reducible apply filter_wf)
    | extract_lets
    | (with_reducible intro _)
    | ((conv => arg 1; with_reducible whnf); first | (with_reducible apply AtomAcc.lane_ok) | (with_reducible apply Did.orTrap_ok) | (with_reducible apply Did.ok_done) | (with_reducible apply Did.ok_goto) | (with_reducible apply Did.ok_trap) | (with_reducible apply Did.ok_wait) | (with_reducible apply Did.ok_park) | (with_reducible apply Did.ok_left))
    | (split)

theorem State.afterRemote_ok (s : State) (w : Wave) (n : Nat) (as : List Acc) (h_s : State.ok s) :
    State.ok (State.afterRemote s w n as) := by
  unfold State.afterRemote
  try extract_lets
  repeat' first
    | (with_reducible assumption)
    | (with_reducible apply State.stallOn_ok)
    | extract_lets
    | (with_reducible intro _)
    | (split)

theorem State.readLanesFrom_ok (s : State) (seen : Assoc (Option Byte)) (core : Nat) (w : Wave) (n : Nat) (bypass : Bool) (a0 : List Acc) (h_s : State.ok s) :
    State.ok ((State.readLanesFrom s seen core w n bypass a0)).1 := by
  induction a0 generalizing s seen core w n bypass with
  | nil =>
    unfold State.readLanesFrom
    try extract_lets
    repeat' first
      | (with_reducible assumption)
  | cons c_ l_ ih =>
    unfold State.readLanesFrom
    try extract_lets
    repeat' first
      | (with_reducible assumption)
      | (with_reducible apply ih)
      | (with_reducible apply State.askAgain_ok)
      | (with_reducible apply State.readGlobal_ok)
      | (with_reducible apply AtomAcc.lane_ok)
      | extract_lets
      | (with_reducible intro _)
      | (split)
      | ((conv => arg 1; with_reducible whnf); split)
      | ((conv => arg 1; arg 1; with_reducible whnf); split)

theorem State.readLanes_ok (s : State) (core : Nat) (w : Wave) (n : Nat) (bypass : Bool) (as : List Acc) (h_s : State.ok s) :
    State.ok ((State.readLanes s core w n bypass as)).1 := by
  unfold State.readLanes
  try extract_lets
  repeat' first
    | (with_reducible assumption)
    | (with_reducible apply State.readLanesFrom_ok)

theorem State.readColumns_ok (s : State) (core : Nat) (w : Wave) (n : Nat) (as : List Acc) (h_s : State.ok s) :
    State.ok ((State.readColumns s core w n as)).1 := by
  unfold State.readColumns
  try extract_lets
  repeat' first
    | (with_reducible assumption)
    | (with_reducible apply foldState_ok)
    | (with_reducible apply State.combRead_ok)
    | (with_reducible apply State.readTask_ok)
    | (with_reducible apply State.dropRows_ok)
    | (with_reducible apply State.readLanes_ok)
    | (with_reducible apply AtomAcc.lane_ok)
    | (with_reducible apply filter_wf)
    | extract_lets
    | (with_reducible intro _)

theorem State.putLanes_ok (s : State) (vd count : Nat) (res : List (Nat × List Word)) (h_s : State.ok s) :
    State.ok (State.putLanes s vd count res) := by
  unfold State.putLanes
  try extract_lets
  repeat' first
    | (with_reducible assumption)
    | (with_reducible apply foldState_ok)
    | (with_reducible apply State.putNow_ok)
    | extract_lets
    | (with_reducible intro _)

theorem State.storeLanes_ok (s : State) (w : Wave) (as : List (Acc × List Byte)) (h_s : State.ok s) :
    State.ok (State.storeLanes s w as) := by
  unfold State.storeLanes
  try extract_lets
  repeat' first
    | (with_reducible assumption)
    | (with_reducible apply State.commit_ok)
    | (with_reducible apply State.ordered_ok)
    | (with_reducible apply foldState_ok)
    | (with_reducible apply State.postRemote_ok)
    | (with_reducible apply State.dropRows_ok)
    | (with_reducible apply State.post_ok)
    | (with_reducible apply State.hold_ok)
    | (with_reducible apply filter_wf)
    | extract_lets
    | (with_reducible intro _)
    | (split)
    | ((conv => arg 1; with_reducible whnf); split)

/-! ### Barriers -/

theorem parkLines_ok (t : State) (instr : Instr) (lines : List (Nat × Nat)) (h_t : State.ok t) :
    Did.ok (parkLines t instr lines) := by
  unfold parkLines
  try extract_lets
  repeat' first
    | (with_reducible assumption)
    | (with_reducible apply Did.ok_done)
    | (with_reducible apply Did.ok_goto)
    | (with_reducible apply Did.ok_trap)
    | (with_reducible apply Did.ok_wait)
    | (with_reducible apply Did.ok_park)

theorem spadObjectOver_ok (t : State) (w : Wave) (instr : Instr) (va : Word) (align : Nat) (wr : Bool) (lines : Nat → Nat → List (Nat × Nat)) (body : Nat → Nat → Did) (h_t : State.ok t) (h_body : ∀ (body_0 : Nat) (body_1 : Nat), Did.ok (body body_0 body_1)) :
    Did.ok (spadObjectOver t w instr va align wr lines body) := by
  unfold spadObjectOver
  try extract_lets
  repeat' first
    | (with_reducible assumption)
    | (with_reducible apply h_body)
    | (with_reducible apply Did.orTrap_ok)
    | (with_reducible apply parkLines_ok)
    | (with_reducible apply Did.ok_done)
    | (with_reducible apply Did.ok_goto)
    | (with_reducible apply Did.ok_trap)
    | (with_reducible apply Did.ok_wait)
    | (with_reducible apply Did.ok_park)
    | (with_reducible apply Did.ok_left)
    | (with_reducible apply filter_wf)
    | extract_lets
    | (with_reducible intro _)
    | ((conv => arg 1; with_reducible whnf); first | (with_reducible apply Did.orTrap_ok) | (with_reducible apply parkLines_ok) | (with_reducible apply Did.ok_done) | (with_reducible apply Did.ok_goto) | (with_reducible apply Did.ok_trap) | (with_reducible apply Did.ok_wait) | (with_reducible apply Did.ok_park) | (with_reducible apply Did.ok_left))
    | (split)

theorem spadObject_ok (t : State) (w : Wave) (instr : Instr) (va : Word) (align : Nat) (wr : Bool) (body : Nat → Nat → Did) (h_t : State.ok t) (h_body : ∀ (body_0 : Nat) (body_1 : Nat), Did.ok (body body_0 body_1)) :
    Did.ok (spadObject t w instr va align wr body) := by
  unfold spadObject
  try extract_lets
  repeat' first
    | (with_reducible assumption)
    | (with_reducible apply h_body)
    | (with_reducible apply spadObjectOver_ok)

theorem State.writeBar_ok (s : State) (core off : Nat) (b : Bar) (h_s : State.ok s) :
    State.ok (State.writeBar s core off b) := by
  unfold State.writeBar
  try extract_lets
  repeat' first
    | (with_reducible assumption)
    | (with_reducible apply State.spadStore_ok)

theorem State.releaseBar_ok (s : State) (core off : Nat) (p : Nat → Bool) (sc : Bool) (h_s : State.ok s) :
    State.ok (State.releaseBar s core off p sc) := by
  unfold State.releaseBar
  try extract_lets
  repeat' first
    | (with_reducible assumption)
    | (with_reducible apply State.releaseWhere_ok)
    | (with_reducible apply State.later_ok)
    | (with_reducible apply State.wave_ok)
    | (with_reducible apply State.modSlots_ok)
    | (with_reducible apply foldState_ok)
    | (with_reducible apply State.acquire_ok)
    | (with_reducible apply State.retryOwned_ok)
    | (with_reducible apply Did.ok_done)
    | (with_reducible apply Did.ok_goto)
    | (with_reducible apply Did.ok_trap)
    | (with_reducible apply Did.ok_wait)
    | (with_reducible apply Did.ok_park)
    | (with_reducible apply Did.ok_left)
    | (with_reducible apply filter_wf)
    | extract_lets
    | (with_reducible intro _)
    | ((conv => arg 1; with_reducible whnf); first | (with_reducible apply State.releaseWhere_ok) | (with_reducible apply State.later_ok) | (with_reducible apply State.wave_ok) | (with_reducible apply State.modSlots_ok) | (with_reducible apply foldState_ok) | (with_reducible apply State.acquire_ok) | (with_reducible apply State.retryOwned_ok) | (with_reducible apply Did.ok_done) | (with_reducible apply Did.ok_goto) | (with_reducible apply Did.ok_trap) | (with_reducible apply Did.ok_wait) | (with_reducible apply Did.ok_park) | (with_reducible apply Did.ok_left))
    | (split)
    | ((conv => arg 1; with_reducible whnf); split)
    | ((conv => arg 1; arg 1; with_reducible whnf); split)
    | ((conv => arg 1; with_reducible whnf); clear_value *; split)
    | ((conv => arg 1; arg 1; with_reducible whnf); clear_value *; split)
    | (clear_value *; split)
    | ((conv => arg 1; with_reducible whnf); with_reducible apply State.ok_mk)
    | (with_reducible apply State.ok_mk)
    | (with_reducible apply State.ok_mem)
    | (with_reducible apply State.ok_scm)
    | (with_reducible apply State.ok_versions)
    | (with_reducible apply State.ok_regs)

theorem State.changeBar_ok (s : State) (core off : Nat) (b : Bar) (h_s : State.ok s) :
    State.ok (State.changeBar s core off b) := by
  unfold State.changeBar
  try extract_lets
  repeat' first
    | (with_reducible assumption)
    | (with_reducible apply State.writeBar_ok)
    | (with_reducible apply State.releaseBar_ok)
    | extract_lets
    | (with_reducible intro _)
    | (split)

theorem State.linePresent_ok (s : State) (core line : Nat) (h_s : State.ok s) :
    State.ok (State.linePresent s core line) := by
  unfold State.linePresent
  try extract_lets
  repeat' first
    | (with_reducible assumption)
    | (with_reducible apply State.modCore_ok)
    | (with_reducible apply State.retryWhere_ok)

theorem State.poisonLine_ok (s : State) (core line : Nat) (h_s : State.ok s) :
    State.ok (State.poisonLine s core line) := by
  unfold State.poisonLine
  try extract_lets
  repeat' first
    | (with_reducible assumption)
    | (with_reducible apply State.modCore_ok)
    | (with_reducible apply State.linePresent_ok)
    | (with_reducible apply foldState_ok)
    | (with_reducible apply State.releaseBar_ok)
    | (with_reducible apply filter_wf)
    | extract_lets
    | (with_reducible intro _)

theorem execBarrierByteCount_ok (clus n : Nat) (s : State) (h_s : State.ok s) :
    keeps (execBarrierByteCount clus n s) := by
  unfold execBarrierByteCount
  try extract_lets
  repeat' first
    | (with_reducible assumption)
    | (with_reducible apply State.modCluster_ok)
    | (with_reducible apply State.changeBar_ok)
    | (with_reducible apply Did.ok_done)
    | (with_reducible apply Did.ok_goto)
    | (with_reducible apply Did.ok_trap)
    | (with_reducible apply Did.ok_wait)
    | (with_reducible apply Did.ok_park)
    | (with_reducible apply Did.ok_left)
    | (with_reducible apply keeps_next)
    | (with_reducible apply keeps_fault)
    | (with_reducible apply keeps_refused)
    | extract_lets
    | (with_reducible intro _)
    | (split)

theorem barrierOp_ok (q : Sched) (instr : Instr) (sa : SReg) (wr typed : Bool) (body : State → Wave → Nat → Nat → Did) (s : State) (h_body : ∀ (body_0 : State) (body_1 : Wave) (body_2 : Nat) (body_3 : Nat), State.ok body_0 → Did.ok (body body_0 body_1 body_2 body_3)) (h_s : State.ok s) :
    keeps (barrierOp q instr sa wr typed body s) := by
  unfold barrierOp
  try extract_lets
  repeat' first
    | (with_reducible assumption)
    | (with_reducible apply h_body)
    | (with_reducible apply issueWord_ok)
    | (with_reducible apply spadObject_ok)
    | (with_reducible apply Did.orTrap_ok)
    | (with_reducible apply Did.ok_done)
    | (with_reducible apply Did.ok_goto)
    | (with_reducible apply Did.ok_trap)
    | (with_reducible apply Did.ok_wait)
    | (with_reducible apply Did.ok_park)
    | (with_reducible apply Did.ok_left)
    | (with_reducible apply keeps_next)
    | (with_reducible apply keeps_fault)
    | (with_reducible apply keeps_refused)
    | extract_lets
    | (with_reducible intro _)
    | (split)

theorem execBarinit_ok (q : Sched) (sa : SReg) (s : State) (h_s : State.ok s) :
    keeps (execBarinit q sa s) := by
  unfold execBarinit
  try extract_lets
  repeat' first
    | (with_reducible assumption)
    | (with_reducible apply barrierOp_ok)
    | (with_reducible apply Did.orTrap_ok)
    | (with_reducible apply State.writeBar_ok)
    | (with_reducible apply State.modCore_ok)
    | (with_reducible apply Did.ok_done)
    | (with_reducible apply Did.ok_goto)
    | (with_reducible apply Did.ok_trap)
    | (with_reducible apply Did.ok_wait)
    | (with_reducible apply Did.ok_park)
    | (with_reducible apply Did.ok_left)
    | (with_reducible apply keeps_next)
    | (with_reducible apply keeps_fault)
    | (with_reducible apply keeps_refused)
    | extract_lets
    | (with_reducible intro _)
    | (split)

theorem execBararr_ok (q : Sched) (sa : SReg) (s : State) (h_s : State.ok s) :
    keeps (execBararr q sa s) := by
  unfold execBararr
  try extract_lets
  repeat' first
    | (with_reducible assumption)
    | (with_reducible apply barrierOp_ok)
    | (with_reducible apply releasing_ok)
    | (with_reducible apply State.changeBar_ok)
    | (with_reducible apply Did.ok_done)
    | (with_reducible apply Did.ok_goto)
    | (with_reducible apply Did.ok_trap)
    | (with_reducible apply Did.ok_wait)
    | (with_reducible apply Did.ok_park)
    | (with_reducible apply Did.ok_left)
    | (with_reducible apply keeps_next)
    | (with_reducible apply keeps_fault)
    | (with_reducible apply keeps_refused)
    | extract_lets
    | (with_reducible intro _)

theorem execBartest_ok (q : Sched) (sd sa sb : SReg) (s : State) (h_s : State.ok s) :
    keeps (execBartest q sd sa sb s) := by
  unfold execBartest
  try extract_lets
  repeat' first
    | (with_reducible assumption)
    | (with_reducible apply barrierOp_ok)
    | (with_reducible apply State.putNow_ok)
    | (with_reducible apply State.acquire_ok)
    | (with_reducible apply Did.ok_done)
    | (with_reducible apply Did.ok_goto)
    | (with_reducible apply Did.ok_trap)
    | (with_reducible apply Did.ok_wait)
    | (with_reducible apply Did.ok_park)
    | (with_reducible apply Did.ok_left)
    | (with_reducible apply keeps_next)
    | (with_reducible apply keeps_fault)
    | (with_reducible apply keeps_refused)
    | extract_lets
    | (with_reducible intro _)
    | (split)

theorem execBarwait_ok (q : Sched) (sa sb : SReg) (s : State) (h_s : State.ok s) :
    keeps (execBarwait q sa sb s) := by
  unfold execBarwait
  try extract_lets
  repeat' first
    | (with_reducible assumption)
    | (with_reducible apply barrierOp_ok)
    | (with_reducible apply State.putNow_ok)
    | (with_reducible apply State.acquire_ok)
    | (with_reducible apply Did.ok_done)
    | (with_reducible apply Did.ok_goto)
    | (with_reducible apply Did.ok_trap)
    | (with_reducible apply Did.ok_wait)
    | (with_reducible apply Did.ok_park)
    | (with_reducible apply Did.ok_left)
    | (with_reducible apply keeps_next)
    | (with_reducible apply keeps_fault)
    | (with_reducible apply keeps_refused)
    | extract_lets
    | (with_reducible intro _)
    | (split)

theorem execBarinv_ok (q : Sched) (sa : SReg) (s : State) (h_s : State.ok s) :
    keeps (execBarinv q sa s) := by
  unfold execBarinv
  try extract_lets
  repeat' first
    | (with_reducible assumption)
    | (with_reducible apply barrierOp_ok)
    | (with_reducible apply State.writeBar_ok)
    | (with_reducible apply State.modCore_ok)
    | (with_reducible apply State.releaseBar_ok)
    | (with_reducible apply Did.ok_done)
    | (with_reducible apply Did.ok_goto)
    | (with_reducible apply Did.ok_trap)
    | (with_reducible apply Did.ok_wait)
    | (with_reducible apply Did.ok_park)
    | (with_reducible apply Did.ok_left)
    | (with_reducible apply keeps_next)
    | (with_reducible apply keeps_fault)
    | (with_reducible apply keeps_refused)
    | extract_lets
    | (with_reducible intro _)

theorem State.recordArrival_ok (s : State) (w : Wave) (t : Team) (scope : WbarScope) (d : Word) (h_s : State.ok s) :
    State.ok (State.recordArrival s w t scope d) := by
  unfold State.recordArrival
  try extract_lets
  repeat' first
    | (with_reducible assumption)
    | (with_reducible apply State.setTeam_ok)
    | extract_lets
    | (with_reducible intro _)
    | (split)
    | ((conv => arg 1; with_reducible whnf); split)
    | ((conv => arg 1; arg 1; with_reducible whnf); split)
    | ((conv => arg 1; with_reducible whnf); clear_value *; split)
    | ((conv => arg 1; arg 1; with_reducible whnf); clear_value *; split)
    | (clear_value *; split)
    | ((conv => arg 1; with_reducible whnf); with_reducible apply State.ok_mk)
    | (with_reducible apply State.ok_mk)
    | (with_reducible apply State.ok_mem)
    | (with_reducible apply State.ok_scm)
    | (with_reducible apply State.ok_versions)
    | (with_reducible apply State.ok_regs)

theorem execWbar_ok (q : Sched) (scope : WbarScope) (sa : SReg) (s : State) (h_s : State.ok s) :
    keeps (execWbar q scope sa s) := by
  unfold execWbar
  try extract_lets
  repeat' first
    | (with_reducible assumption)
    | (with_reducible apply issueWord_ok)
    | (with_reducible apply Issue.raiseAll_ok)
    | (with_reducible apply releasing_ok)
    | (with_reducible apply State.recordArrival_ok)
    | (with_reducible apply Did.ok_done)
    | (with_reducible apply Did.ok_goto)
    | (with_reducible apply Did.ok_trap)
    | (with_reducible apply Did.ok_wait)
    | (with_reducible apply Did.ok_park)
    | (with_reducible apply Did.ok_left)
    | (with_reducible apply keeps_next)
    | (with_reducible apply keeps_fault)
    | (with_reducible apply keeps_refused)
    | extract_lets
    | (with_reducible intro _)
    | (split)

/-! ### Fetch -/

theorem State.advance_ok (s : State) (n : Nat) (h_s : State.ok s) :
    State.ok (State.advance s n) := by
  unfold State.advance
  try extract_lets
  repeat' first
    | (with_reducible assumption)
    | (with_reducible apply Plan.tried_ok)
    | extract_lets
    | (with_reducible intro _)
    | (split)
    | ((conv => arg 1; with_reducible whnf); split)
    | ((conv => arg 1; arg 1; with_reducible whnf); split)
    | ((conv => arg 1; with_reducible whnf); clear_value *; split)
    | ((conv => arg 1; arg 1; with_reducible whnf); clear_value *; split)
    | (clear_value *; split)
    | ((conv => arg 1; with_reducible whnf); with_reducible apply State.ok_mk)
    | (with_reducible apply State.ok_mk)
    | (with_reducible apply State.ok_mem)
    | (with_reducible apply State.ok_scm)
    | (with_reducible apply State.ok_versions)
    | (with_reducible apply State.ok_regs)

theorem State.readCode_ok (s : State) (core task pa : Nat) (h_s : State.ok s) :
    State.ok ((State.readCode s core task pa)).1 := by
  unfold State.readCode
  try extract_lets
  repeat' first
    | (with_reducible assumption)
    | (with_reducible apply State.stallOn_ok)
    | (with_reducible apply State.askPeer_ok)
    | (with_reducible apply State.readTask_ok)
    | (with_reducible apply State.combRead_ok)
    | (with_reducible apply State.readPoint_ok)
    | (with_reducible apply State.fillIcache_ok)
    | extract_lets
    | (with_reducible intro _)
    | ((conv => arg 1; with_reducible whnf); first | (with_reducible apply State.stallOn_ok) | (with_reducible apply State.askPeer_ok) | (with_reducible apply State.readTask_ok) | (with_reducible apply State.combRead_ok) | (with_reducible apply State.readPoint_ok) | (with_reducible apply State.fillIcache_ok))
    | (split)

theorem State.fetch_ok (s : State) (slot : Nat) (w : Wave) (pc : DWord) (h_s : State.ok s) :
    State.ok ((State.fetch s slot w pc)).1 := by
  unfold State.fetch
  try extract_lets
  repeat' first
    | (with_reducible assumption)
    | (with_reducible apply State.translate_ok)
    | (with_reducible apply State.readCode_ok)
    | (with_reducible apply foldState_ok)
    | (with_reducible apply State.noteStall_ok)
    | (with_reducible apply Did.ok_done)
    | (with_reducible apply Did.ok_goto)
    | (with_reducible apply Did.ok_trap)
    | (with_reducible apply Did.ok_wait)
    | (with_reducible apply Did.ok_park)
    | (with_reducible apply Did.ok_left)
    | extract_lets
    | (with_reducible intro _)
    | (split)

theorem State.prepare_ok (s : State) (slot : Nat) (w0 : Wave) (h_s : State.ok s) :
    State.ok (State.prepare s slot w0) := by
  unfold State.prepare
  try extract_lets
  repeat' first
    | (with_reducible assumption)
    | (with_reducible apply State.setWave_ok)
    | extract_lets
    | (with_reducible intro _)
    | (split)
    | ((conv => arg 1; with_reducible whnf); split)
    | ((conv => arg 1; arg 1; with_reducible whnf); split)
    | ((conv => arg 1; with_reducible whnf); clear_value *; split)
    | ((conv => arg 1; arg 1; with_reducible whnf); clear_value *; split)
    | (clear_value *; split)
    | ((conv => arg 1; with_reducible whnf); with_reducible apply State.ok_mk)
    | (with_reducible apply State.ok_mk)
    | (with_reducible apply State.ok_mem)
    | (with_reducible apply State.ok_scm)
    | (with_reducible apply State.ok_versions)
    | (with_reducible apply State.ok_regs)

theorem State.issueWave_ok (s : State) (slot : Nat) (w : Wave) (h_s : State.ok s) :
    Plan.ok (State.issueWave s slot w) := by
  unfold State.issueWave
  try extract_lets
  repeat' first
    | (with_reducible assumption)
    | (with_reducible apply State.prepare_ok)
    | (with_reducible apply State.fetch_ok)
    | (with_reducible apply State.waitIssue_ok)
    | (with_reducible apply Did.orTrap_ok)
    | (with_reducible apply Did.finish_ok)
    | (with_reducible apply State.illegalWord_ok)
    | (with_reducible apply Did.ok_done)
    | (with_reducible apply Did.ok_goto)
    | (with_reducible apply Did.ok_trap)
    | (with_reducible apply Did.ok_wait)
    | (with_reducible apply Did.ok_park)
    | (with_reducible apply Did.ok_left)
    | (with_reducible apply Plan.ok_run)
    | (with_reducible apply Plan.ok_rest)
    | (with_reducible apply Plan.ok_probe)
    | extract_lets
    | (with_reducible intro _)
    | (split)

theorem State.probed_ok (s : State) (slot : Nat) (t : State) (h_s : State.ok s) (h_t : State.ok t) :
    State.ok (State.probed s slot t) := by
  unfold State.probed
  try extract_lets
  repeat' first
    | (with_reducible assumption)
    | (with_reducible apply State.modWave_ok)
    | extract_lets
    | (with_reducible intro _)
    | (split)

theorem Plan.tried_ok (slot : Nat) (s : State) (a0 : Plan) (h_s : State.ok s) (h_a0 : Plan.ok a0) :
    Plan.ok (Plan.tried slot s a0) := by
  cases a0 with
  | run i t => exact ⟨h_s, h_a0⟩
  | rest t => exact State.probed_ok _ _ _ h_s h_a0
  | probe n was i t => exact h_a0

theorem State.probeWave_ok (s : State) (slot : Nat) (w : Wave) (h_s : State.ok s) :
    Plan.ok (State.probeWave s slot w) := by
  exact Plan.tried_ok _ _ _ h_s (State.issueWave_ok _ _ _ h_s)

theorem State.happen_ok (s : State) (e : Instr) (h_s : State.ok s) :
    Plan.ok (State.happen s e) := by
  unfold State.happen
  try extract_lets
  repeat' first
    | (with_reducible assumption)
    | (with_reducible apply Plan.ok_run)
    | (with_reducible apply Plan.ok_rest)
    | (with_reducible apply Plan.ok_probe)
    | extract_lets
    | (with_reducible intro _)
    | (split)

theorem State.take_ok (s : State) (t : Turn) (h_s : State.ok s) :
    Plan.ok (State.take s t) := by
  unfold State.take
  try extract_lets
  repeat' first
    | (with_reducible assumption)
    | (with_reducible apply State.happen_ok)
    | (with_reducible apply State.issueWave_ok)
    | (with_reducible apply State.waitIssue_ok)
    | (with_reducible apply State.advance_ok)
    | (with_reducible apply State.modCore_ok)
    | (with_reducible apply State.modCluster_ok)
    | (with_reducible apply State.modDie_ok)
    | (with_reducible apply State.cleanComb_ok)
    | (with_reducible apply State.poisonLine_ok)
    | (with_reducible apply State.markError_ok)
    | (with_reducible apply State.captureError_ok)
    | (with_reducible apply State.machineCheck_ok)
    | (with_reducible apply settleEvent_ok)
    | (with_reducible apply Plan.ok_run)
    | (with_reducible apply Plan.ok_rest)
    | (with_reducible apply Plan.ok_probe)
    | (with_reducible apply filter_wf)
    | extract_lets
    | (with_reducible intro _)
    | (split)

theorem State.readyInHandler_ok (s : State) (x : Nat × DWord) (h_s : State.ok s) :
    State.ok (State.readyInHandler s x) := by
  unfold State.readyInHandler
  try extract_lets
  repeat' first
    | (with_reducible assumption)
    | (with_reducible apply State.modWave_ok)
    | (with_reducible apply Did.ok_done)
    | (with_reducible apply Did.ok_goto)
    | (with_reducible apply Did.ok_trap)
    | (with_reducible apply Did.ok_wait)
    | (with_reducible apply Did.ok_park)
    | (with_reducible apply Did.ok_left)
    | (with_reducible apply filter_wf)
    | extract_lets
    | (with_reducible intro _)
    | (split)
    | (with_reducible apply State.ok_mk)
    | (with_reducible apply State.ok_mem)
    | (with_reducible apply State.ok_scm)
    | (with_reducible apply State.ok_versions)
    | (with_reducible apply State.ok_regs)

theorem State.turn_ok (s : State) (t : Turn) (rest : List Turn) (h_s : State.ok s) :
    Plan.ok (State.turn s t rest) := by
  unfold State.turn
  try extract_lets
  repeat' first
    | (with_reducible assumption)
    | (with_reducible apply State.probeWave_ok)
    | (with_reducible apply State.take_ok)
    | (with_reducible apply State.advance_ok)
    | (with_reducible apply Plan.ok_run)
    | (with_reducible apply Plan.ok_rest)
    | (with_reducible apply Plan.ok_probe)
    | extract_lets
    | (with_reducible intro _)
    | (split)
    | ((conv => arg 1; with_reducible whnf); split)
    | ((conv => arg 1; arg 1; with_reducible whnf); split)
    | ((conv => arg 1; with_reducible whnf); with_reducible apply State.ok_mk)
    | (with_reducible apply State.ok_mk)
    | (with_reducible apply State.ok_mem)
    | (with_reducible apply State.ok_scm)
    | (with_reducible apply State.ok_versions)
    | (with_reducible apply State.ok_regs)

theorem State.plan_ok (s : State) (h_s : State.ok s) :
    Plan.ok (State.plan s) := by
  unfold State.plan
  try extract_lets
  repeat' first
    | (with_reducible assumption)
    | (with_reducible apply State.happen_ok)
    | (with_reducible apply State.setTeam_ok)
    | (with_reducible apply State.readyInHandler_ok)
    | (with_reducible apply Plan.tried_ok)
    | (with_reducible apply State.turn_ok)
    | (with_reducible apply State.probeWave_ok)
    | (with_reducible apply State.issueWave_ok)
    | (with_reducible apply State.advance_ok)
    | (with_reducible apply Plan.ok_run)
    | (with_reducible apply Plan.ok_rest)
    | (with_reducible apply Plan.ok_probe)
    | (with_reducible apply filter_wf)
    | extract_lets
    | (with_reducible intro _)
    | (split)
    | (with_reducible apply State.ok_mk)
    | (with_reducible apply State.ok_mem)
    | (with_reducible apply State.ok_scm)
    | (with_reducible apply State.ok_versions)
    | (with_reducible apply State.ok_regs)

theorem State.loaded_ok (s : State) (h_s : State.ok s) :
    State.ok (State.loaded s) := by
  unfold State.loaded
  apply State.ok_mk
  · exact foldl_set_wf h_s.1
  · exact h_s.2.1
  · exact versionsOk_mem.2 fun e he => by cases he
  · exact Regfile.legal_of h_s.2.2.2 rfl

theorem State.putCode_ok (s : State) (slot pa : Nat) (bs : List Byte) (h_s : State.ok s) :
    State.ok (State.putCode s slot pa bs) := by
  have h := State.modCore_ok s (coreOf slot) (fun c => { c with icache := c.icache.del (pa / 64) }) h_s
  exact ⟨foldl_set_wf h_s.1, h.2.1, versionsOk_modify h_s.2.2.1 fun v hv => Sys2Proof.Laws.ascending_filter _ v hv, h.2.2.2⟩

theorem State.placeWord_ok (s : State) (w : Nat) (h_s : State.ok s) :
    State.ok (State.placeWord s w) := by
  unfold State.placeWord
  try extract_lets
  repeat' first
    | (with_reducible assumption)
    | (with_reducible apply State.putCode_ok)
    | (with_reducible apply State.loaded_ok)
    | extract_lets
    | (with_reducible intro _)
    | (split)

end Sys2Proof.Machine
end

