-- ==== Sys2Proof/Laws/KeepAlu.lean ====
section
/-! SUPPORT. The canonical form of both memories is kept by the vector, scalar, cross-lane and control instructions.
The lemma `f_ok` of a function f says so of f (log entry 3). -/

namespace Sys2Proof.Machine

/-! ### VectorInt -/

theorem State.vecResult_ok (s : State) (lat : Nat) (vd : VReg) (f : Nat → Word) (h_s : State.ok s) :
    State.ok (State.vecResult s lat vd f) := by
  unfold State.vecResult
  try extract_lets
  repeat' first
    | (with_reducible assumption)
    | (with_reducible apply State.later_ok)
    | extract_lets
    | (with_reducible intro _)
    | (split)

theorem vecInt_ok (q : Sched) (instr : Instr) (vd : VReg) (f : Issue → Nat → Word) (s : State) (h_s : State.ok s) :
    keeps (vecInt q instr vd f s) := by
  unfold vecInt
  try extract_lets
  repeat' first
    | (with_reducible assumption)
    | (with_reducible apply issueWord_ok)
    | (with_reducible apply State.vecResult_ok)
    | (with_reducible apply Did.ok_done)
    | (with_reducible apply Did.ok_goto)
    | (with_reducible apply Did.ok_trap)
    | (with_reducible apply Did.ok_wait)
    | (with_reducible apply Did.ok_park)
    | (with_reducible apply Did.ok_left)
    | (with_reducible apply keeps_next)
    | (with_reducible apply keeps_fault)
    | (with_reducible apply keeps_refused)
    | extract_lets
    | (with_reducible intro _)

theorem execVadd_ok (q : Sched) (vd va : VReg) (b : VSrc) (s : State) (h_s : State.ok s) :
    keeps (execVadd q vd va b s) := by
  unfold execVadd
  try extract_lets
  repeat' first
    | (with_reducible assumption)
    | (with_reducible apply vecInt_ok)

theorem execVsub_ok (q : Sched) (vd va : VReg) (b : VSrc) (s : State) (h_s : State.ok s) :
    keeps (execVsub q vd va b s) := by
  unfold execVsub
  try extract_lets
  repeat' first
    | (with_reducible assumption)
    | (with_reducible apply vecInt_ok)

theorem execVmul_ok (q : Sched) (vd va : VReg) (b : VSrc) (s : State) (h_s : State.ok s) :
    keeps (execVmul q vd va b s) := by
  unfold execVmul
  try extract_lets
  repeat' first
    | (with_reducible assumption)
    | (with_reducible apply vecInt_ok)

theorem execVmulhi_ok (q : Sched) (vd va : VReg) (b : VSrc) (s : State) (h_s : State.ok s) :
    keeps (execVmulhi q vd va b s) := by
  unfold execVmulhi
  try extract_lets
  repeat' first
    | (with_reducible assumption)
    | (with_reducible apply vecInt_ok)

theorem execVand_ok (q : Sched) (vd va : VReg) (b : VSrc) (s : State) (h_s : State.ok s) :
    keeps (execVand q vd va b s) := by
  unfold execVand
  try extract_lets
  repeat' first
    | (with_reducible assumption)
    | (with_reducible apply vecInt_ok)

theorem execVor_ok (q : Sched) (vd va : VReg) (b : VSrc) (s : State) (h_s : State.ok s) :
    keeps (execVor q vd va b s) := by
  unfold execVor
  try extract_lets
  repeat' first
    | (with_reducible assumption)
    | (with_reducible apply vecInt_ok)

theorem execVxor_ok (q : Sched) (vd va : VReg) (b : VSrc) (s : State) (h_s : State.ok s) :
    keeps (execVxor q vd va b s) := by
  unfold execVxor
  try extract_lets
  repeat' first
    | (with_reducible assumption)
    | (with_reducible apply vecInt_ok)

theorem execVshl_ok (q : Sched) (vd va : VReg) (b : VSrc) (s : State) (h_s : State.ok s) :
    keeps (execVshl q vd va b s) := by
  unfold execVshl
  try extract_lets
  repeat' first
    | (with_reducible assumption)
    | (with_reducible apply vecInt_ok)

theorem execVshr_ok (q : Sched) (vd va : VReg) (b : VSrc) (s : State) (h_s : State.ok s) :
    keeps (execVshr q vd va b s) := by
  unfold execVshr
  try extract_lets
  repeat' first
    | (with_reducible assumption)
    | (with_reducible apply vecInt_ok)

theorem execVsra_ok (q : Sched) (vd va : VReg) (b : VSrc) (s : State) (h_s : State.ok s) :
    keeps (execVsra q vd va b s) := by
  unfold execVsra
  try extract_lets
  repeat' first
    | (with_reducible assumption)
    | (with_reducible apply vecInt_ok)

theorem execVmin_ok (q : Sched) (vd va : VReg) (b : VSrc) (s : State) (h_s : State.ok s) :
    keeps (execVmin q vd va b s) := by
  unfold execVmin
  try extract_lets
  repeat' first
    | (with_reducible assumption)
    | (with_reducible apply vecInt_ok)

theorem execVmax_ok (q : Sched) (vd va : VReg) (b : VSrc) (s : State) (h_s : State.ok s) :
    keeps (execVmax q vd va b s) := by
  unfold execVmax
  try extract_lets
  repeat' first
    | (with_reducible assumption)
    | (with_reducible apply vecInt_ok)

theorem execVminu_ok (q : Sched) (vd va : VReg) (b : VSrc) (s : State) (h_s : State.ok s) :
    keeps (execVminu q vd va b s) := by
  unfold execVminu
  try extract_lets
  repeat' first
    | (with_reducible assumption)
    | (with_reducible apply vecInt_ok)

theorem execVmaxu_ok (q : Sched) (vd va : VReg) (b : VSrc) (s : State) (h_s : State.ok s) :
    keeps (execVmaxu q vd va b s) := by
  unfold execVmaxu
  try extract_lets
  repeat' first
    | (with_reducible assumption)
    | (with_reducible apply vecInt_ok)

theorem execVabsd_ok (q : Sched) (vd va : VReg) (b : VSrc) (s : State) (h_s : State.ok s) :
    keeps (execVabsd q vd va b s) := by
  unfold execVabsd
  try extract_lets
  repeat' first
    | (with_reducible assumption)
    | (with_reducible apply vecInt_ok)

theorem execVmad_ok (q : Sched) (vd va : VReg) (b : VSrc) (s : State) (h_s : State.ok s) :
    keeps (execVmad q vd va b s) := by
  unfold execVmad
  try extract_lets
  repeat' first
    | (with_reducible assumption)
    | (with_reducible apply vecInt_ok)

theorem execVmov_ok (q : Sched) (vd : VReg) (b : VSrc) (s : State) (h_s : State.ok s) :
    keeps (execVmov q vd b s) := by
  unfold execVmov
  try extract_lets
  repeat' first
    | (with_reducible assumption)
    | (with_reducible apply vecInt_ok)

theorem execVnot_ok (q : Sched) (vd : VReg) (b : VSrc) (s : State) (h_s : State.ok s) :
    keeps (execVnot q vd b s) := by
  unfold execVnot
  try extract_lets
  repeat' first
    | (with_reducible assumption)
    | (with_reducible apply vecInt_ok)

theorem execVneg_ok (q : Sched) (vd : VReg) (b : VSrc) (s : State) (h_s : State.ok s) :
    keeps (execVneg q vd b s) := by
  unfold execVneg
  try extract_lets
  repeat' first
    | (with_reducible assumption)
    | (with_reducible apply vecInt_ok)

theorem execVabs_ok (q : Sched) (vd : VReg) (b : VSrc) (s : State) (h_s : State.ok s) :
    keeps (execVabs q vd b s) := by
  unfold execVabs
  try extract_lets
  repeat' first
    | (with_reducible assumption)
    | (with_reducible apply vecInt_ok)

theorem execVpopc_ok (q : Sched) (vd : VReg) (b : VSrc) (s : State) (h_s : State.ok s) :
    keeps (execVpopc q vd b s) := by
  unfold execVpopc
  try extract_lets
  repeat' first
    | (with_reducible assumption)
    | (with_reducible apply vecInt_ok)

theorem execVclz_ok (q : Sched) (vd : VReg) (b : VSrc) (s : State) (h_s : State.ok s) :
    keeps (execVclz q vd b s) := by
  unfold execVclz
  try extract_lets
  repeat' first
    | (with_reducible assumption)
    | (with_reducible apply vecInt_ok)

theorem execVbrev_ok (q : Sched) (vd : VReg) (b : VSrc) (s : State) (h_s : State.ok s) :
    keeps (execVbrev q vd b s) := by
  unfold execVbrev
  try extract_lets
  repeat' first
    | (with_reducible assumption)
    | (with_reducible apply vecInt_ok)

theorem execVbfe_ok (q : Sched) (vd : VReg) (b : VSrc) (s : State) (h_s : State.ok s) :
    keeps (execVbfe q vd b s) := by
  unfold execVbfe
  try extract_lets
  repeat' first
    | (with_reducible assumption)
    | (with_reducible apply vecInt_ok)

theorem execVbfi_ok (q : Sched) (vd : VReg) (b : VSrc) (s : State) (h_s : State.ok s) :
    keeps (execVbfi q vd b s) := by
  unfold execVbfi
  try extract_lets
  repeat' first
    | (with_reducible assumption)
    | (with_reducible apply vecInt_ok)

theorem execVbcast_ok (q : Sched) (vd : VReg) (b : VSrc) (s : State) (h_s : State.ok s) :
    keeps (execVbcast q vd b s) := by
  unfold execVbcast
  try extract_lets
  repeat' first
    | (with_reducible assumption)
    | (with_reducible apply vecInt_ok)

theorem execVrand_ok (q : Sched) (vd : VReg) (b : VSrc) (s : State) (h_s : State.ok s) :
    keeps (execVrand q vd b s) := by
  unfold execVrand
  try extract_lets
  repeat' first
    | (with_reducible assumption)
    | (with_reducible apply issueWord_ok)
    | (with_reducible apply State.vecResult_ok)
    | (with_reducible apply Did.ok_done)
    | (with_reducible apply Did.ok_goto)
    | (with_reducible apply Did.ok_trap)
    | (with_reducible apply Did.ok_wait)
    | (with_reducible apply Did.ok_park)
    | (with_reducible apply Did.ok_left)
    | (with_reducible apply keeps_next)
    | (with_reducible apply keeps_fault)
    | (with_reducible apply keeps_refused)
    | extract_lets
    | (with_reducible intro _)

theorem State.compare_ok (s : State) (lat : Nat) (md : BitVec 4) (w : Wave) (f : Nat → Bool) (h_s : State.ok s) :
    State.ok (State.compare s lat md w f) := by
  unfold State.compare
  try extract_lets
  repeat' first
    | (with_reducible assumption)
    | (with_reducible apply State.laterMask_ok)
    | (with_reducible apply filter_wf)
    | extract_lets
    | (with_reducible intro _)
    | (split)

theorem execVcmp_ok (q : Sched) (cond : ICond) (md : BitVec 4) (va : VReg) (b : VSrc) (s : State) (h_s : State.ok s) :
    keeps (execVcmp q cond md va b s) := by
  unfold execVcmp
  try extract_lets
  repeat' first
    | (with_reducible assumption)
    | (with_reducible apply issueWord_ok)
    | (with_reducible apply State.compare_ok)
    | (with_reducible apply Did.ok_done)
    | (with_reducible apply Did.ok_goto)
    | (with_reducible apply Did.ok_trap)
    | (with_reducible apply Did.ok_wait)
    | (with_reducible apply Did.ok_park)
    | (with_reducible apply Did.ok_left)
    | (with_reducible apply keeps_next)
    | (with_reducible apply keeps_fault)
    | (with_reducible apply keeps_refused)
    | extract_lets
    | (with_reducible intro _)

theorem execVshfl_ok (q : Sched) (mode : ShflMode) (vd va : VReg) (b : VSrc) (s : State) (h_s : State.ok s) :
    keeps (execVshfl q mode vd va b s) := by
  unfold execVshfl
  try extract_lets
  repeat' first
    | (with_reducible assumption)
    | (with_reducible apply issueWord_ok)
    | (with_reducible apply State.putNow_ok)
    | (with_reducible apply Did.ok_done)
    | (with_reducible apply Did.ok_goto)
    | (with_reducible apply Did.ok_trap)
    | (with_reducible apply Did.ok_wait)
    | (with_reducible apply Did.ok_park)
    | (with_reducible apply Did.ok_left)
    | (with_reducible apply keeps_next)
    | (with_reducible apply keeps_fault)
    | (with_reducible apply keeps_refused)
    | extract_lets
    | (with_reducible intro _)
    | ((conv => arg 1; with_reducible whnf); first | (with_reducible apply issueWord_ok) | (with_reducible apply State.putNow_ok) | (with_reducible apply Did.ok_done) | (with_reducible apply Did.ok_goto) | (with_reducible apply Did.ok_trap) | (with_reducible apply Did.ok_wait) | (with_reducible apply Did.ok_park) | (with_reducible apply Did.ok_left) | (with_reducible apply keeps_next) | (with_reducible apply keeps_fault) | (with_reducible apply keeps_refused))
    | (split)

/-! ### VectorFloat -/

theorem State.vecFlagged_ok (s : State) (lat : Nat) (vd : VReg) (f : Nat → Flagged Nat) (h_s : State.ok s) :
    State.ok (State.vecFlagged s lat vd f) := by
  unfold State.vecFlagged
  try extract_lets
  repeat' first
    | (with_reducible assumption)
    | (with_reducible apply State.later_ok)
    | (with_reducible apply State.raiseFlags_ok)
    | (with_reducible apply foldl_ok)
    | (with_reducible apply foldl_set_wf)
    | extract_lets
    | (with_reducible intro _)
    | (split)

theorem vecFloat_ok (q : Sched) (instr : Instr) (lat : Nat) (vd : VReg) (f : Issue → Wave → Nat → Flagged Nat) (s : State) (h_s : State.ok s) :
    keeps (vecFloat q instr lat vd f s) := by
  unfold vecFloat
  try extract_lets
  repeat' first
    | (with_reducible assumption)
    | (with_reducible apply issueWord_ok)
    | (with_reducible apply State.vecFlagged_ok)
    | (with_reducible apply Did.ok_done)
    | (with_reducible apply Did.ok_goto)
    | (with_reducible apply Did.ok_trap)
    | (with_reducible apply Did.ok_wait)
    | (with_reducible apply Did.ok_park)
    | (with_reducible apply Did.ok_left)
    | (with_reducible apply keeps_next)
    | (with_reducible apply keeps_fault)
    | (with_reducible apply keeps_refused)
    | extract_lets
    | (with_reducible intro _)

theorem fp32Op_ok (q : Sched) (instr : Instr) (o : FOp) (vd va : VReg) (b : VSrc) (s : State) (h_s : State.ok s) :
    keeps (fp32Op q instr o vd va b s) := by
  unfold fp32Op
  try extract_lets
  repeat' first
    | (with_reducible assumption)
    | (with_reducible apply vecFloat_ok)

theorem halfOp_ok (q : Sched) (instr : Instr) (o : FOp) (vd va : VReg) (b : VSrc) (s : State) (h_s : State.ok s) :
    keeps (halfOp q instr o vd va b s) := by
  unfold halfOp
  try extract_lets
  repeat' first
    | (with_reducible assumption)
    | (with_reducible apply vecFloat_ok)

theorem execVfadd_ok (q : Sched) (vd va : VReg) (b : VSrc) (s : State) (h_s : State.ok s) :
    keeps (execVfadd q vd va b s) := by
  unfold execVfadd
  try extract_lets
  repeat' first
    | (with_reducible assumption)
    | (with_reducible apply fp32Op_ok)

theorem execVfsub_ok (q : Sched) (vd va : VReg) (b : VSrc) (s : State) (h_s : State.ok s) :
    keeps (execVfsub q vd va b s) := by
  unfold execVfsub
  try extract_lets
  repeat' first
    | (with_reducible assumption)
    | (with_reducible apply fp32Op_ok)

theorem execVfmul_ok (q : Sched) (vd va : VReg) (b : VSrc) (s : State) (h_s : State.ok s) :
    keeps (execVfmul q vd va b s) := by
  unfold execVfmul
  try extract_lets
  repeat' first
    | (with_reducible assumption)
    | (with_reducible apply fp32Op_ok)

theorem execVffma_ok (q : Sched) (vd va : VReg) (b : VSrc) (s : State) (h_s : State.ok s) :
    keeps (execVffma q vd va b s) := by
  unfold execVffma
  try extract_lets
  repeat' first
    | (with_reducible assumption)
    | (with_reducible apply fp32Op_ok)

theorem execVfmin_ok (q : Sched) (vd va : VReg) (b : VSrc) (s : State) (h_s : State.ok s) :
    keeps (execVfmin q vd va b s) := by
  unfold execVfmin
  try extract_lets
  repeat' first
    | (with_reducible assumption)
    | (with_reducible apply fp32Op_ok)

theorem execVfmax_ok (q : Sched) (vd va : VReg) (b : VSrc) (s : State) (h_s : State.ok s) :
    keeps (execVfmax q vd va b s) := by
  unfold execVfmax
  try extract_lets
  repeat' first
    | (with_reducible assumption)
    | (with_reducible apply fp32Op_ok)

theorem execVhfma_ok (q : Sched) (vd va : VReg) (b : VSrc) (s : State) (h_s : State.ok s) :
    keeps (execVhfma q vd va b s) := by
  unfold execVhfma
  try extract_lets
  repeat' first
    | (with_reducible assumption)
    | (with_reducible apply halfOp_ok)

theorem execVhadd_ok (q : Sched) (vd va : VReg) (b : VSrc) (s : State) (h_s : State.ok s) :
    keeps (execVhadd q vd va b s) := by
  unfold execVhadd
  try extract_lets
  repeat' first
    | (with_reducible assumption)
    | (with_reducible apply halfOp_ok)

theorem execVhmul_ok (q : Sched) (vd va : VReg) (b : VSrc) (s : State) (h_s : State.ok s) :
    keeps (execVhmul q vd va b s) := by
  unfold execVhmul
  try extract_lets
  repeat' first
    | (with_reducible assumption)
    | (with_reducible apply halfOp_ok)

theorem vecBits_ok (q : Sched) (instr : Instr) (vd : VReg) (f : Issue → Nat → Word) (s : State) (h_s : State.ok s) :
    keeps (vecBits q instr vd f s) := by
  unfold vecBits
  try extract_lets
  repeat' first
    | (with_reducible assumption)
    | (with_reducible apply issueWord_ok)
    | (with_reducible apply State.vecResult_ok)
    | (with_reducible apply Did.ok_done)
    | (with_reducible apply Did.ok_goto)
    | (with_reducible apply Did.ok_trap)
    | (with_reducible apply Did.ok_wait)
    | (with_reducible apply Did.ok_park)
    | (with_reducible apply Did.ok_left)
    | (with_reducible apply keeps_next)
    | (with_reducible apply keeps_fault)
    | (with_reducible apply keeps_refused)
    | extract_lets
    | (with_reducible intro _)

theorem execVsel_ok (q : Sched) (vd va : VReg) (b : VSrc) (s : State) (h_s : State.ok s) :
    keeps (execVsel q vd va b s) := by
  unfold execVsel
  try extract_lets
  repeat' first
    | (with_reducible assumption)
    | (with_reducible apply vecBits_ok)

theorem execVpack2_ok (q : Sched) (vd va : VReg) (b : VSrc) (s : State) (h_s : State.ok s) :
    keeps (execVpack2 q vd va b s) := by
  unfold execVpack2
  try extract_lets
  repeat' first
    | (with_reducible assumption)
    | (with_reducible apply vecBits_ok)

theorem execVcopysign_ok (q : Sched) (vd va : VReg) (b : VSrc) (s : State) (h_s : State.ok s) :
    keeps (execVcopysign q vd va b s) := by
  unfold execVcopysign
  try extract_lets
  repeat' first
    | (with_reducible assumption)
    | (with_reducible apply vecBits_ok)

theorem unaryOp_ok (q : Sched) (instr : Instr) (packed_ : Bool) (lat : Nat) (vd : VReg) (b : VSrc) (g : FFmt → RMode → Nat → Nat → Flagged Nat) (s : State) (h_s : State.ok s) :
    keeps (unaryOp q instr packed_ lat vd b g s) := by
  unfold unaryOp
  try extract_lets
  repeat' first
    | (with_reducible assumption)
    | (with_reducible apply vecFloat_ok)
    | (with_reducible apply Did.ok_done)
    | (with_reducible apply Did.ok_goto)
    | (with_reducible apply Did.ok_trap)
    | (with_reducible apply Did.ok_wait)
    | (with_reducible apply Did.ok_park)
    | (with_reducible apply Did.ok_left)
    | (with_reducible apply keeps_next)
    | (with_reducible apply keeps_fault)
    | (with_reducible apply keeps_refused)
    | extract_lets
    | (with_reducible intro _)
    | (split)

theorem funOp_ok (q : Sched) (instr : Instr) (packed_ : Bool) (f : FFun) (vd : VReg) (b : VSrc) (s : State) (h_s : State.ok s) :
    keeps (funOp q instr packed_ f vd b s) := by
  unfold funOp
  try extract_lets
  repeat' first
    | (with_reducible assumption)
    | (with_reducible apply unaryOp_ok)

theorem execVfrcp_ok (q : Sched) (pk : Bool) (vd : VReg) (b : VSrc) (s : State) (h_s : State.ok s) :
    keeps (execVfrcp q pk vd b s) := by
  unfold execVfrcp
  try extract_lets
  repeat' first
    | (with_reducible assumption)
    | (with_reducible apply funOp_ok)

theorem execVfrsq_ok (q : Sched) (pk : Bool) (vd : VReg) (b : VSrc) (s : State) (h_s : State.ok s) :
    keeps (execVfrsq q pk vd b s) := by
  unfold execVfrsq
  try extract_lets
  repeat' first
    | (with_reducible assumption)
    | (with_reducible apply funOp_ok)

theorem execVfsqrt_ok (q : Sched) (pk : Bool) (vd : VReg) (b : VSrc) (s : State) (h_s : State.ok s) :
    keeps (execVfsqrt q pk vd b s) := by
  unfold execVfsqrt
  try extract_lets
  repeat' first
    | (with_reducible assumption)
    | (with_reducible apply funOp_ok)

theorem execVfexp2_ok (q : Sched) (pk : Bool) (vd : VReg) (b : VSrc) (s : State) (h_s : State.ok s) :
    keeps (execVfexp2 q pk vd b s) := by
  unfold execVfexp2
  try extract_lets
  repeat' first
    | (with_reducible assumption)
    | (with_reducible apply funOp_ok)

theorem execVflog2_ok (q : Sched) (pk : Bool) (vd : VReg) (b : VSrc) (s : State) (h_s : State.ok s) :
    keeps (execVflog2 q pk vd b s) := by
  unfold execVflog2
  try extract_lets
  repeat' first
    | (with_reducible assumption)
    | (with_reducible apply funOp_ok)

theorem execVfsin_ok (q : Sched) (pk : Bool) (vd : VReg) (b : VSrc) (s : State) (h_s : State.ok s) :
    keeps (execVfsin q pk vd b s) := by
  unfold execVfsin
  try extract_lets
  repeat' first
    | (with_reducible assumption)
    | (with_reducible apply funOp_ok)

theorem execVfcos_ok (q : Sched) (pk : Bool) (vd : VReg) (b : VSrc) (s : State) (h_s : State.ok s) :
    keeps (execVfcos q pk vd b s) := by
  unfold execVfcos
  try extract_lets
  repeat' first
    | (with_reducible assumption)
    | (with_reducible apply funOp_ok)

theorem execVftanh_ok (q : Sched) (pk : Bool) (vd : VReg) (b : VSrc) (s : State) (h_s : State.ok s) :
    keeps (execVftanh q pk vd b s) := by
  unfold execVftanh
  try extract_lets
  repeat' first
    | (with_reducible assumption)
    | (with_reducible apply funOp_ok)

theorem execVfrnd_ok (q : Sched) (pk : Bool) (vd : VReg) (b : VSrc) (s : State) (h_s : State.ok s) :
    keeps (execVfrnd q pk vd b s) := by
  unfold execVfrnd
  try extract_lets
  repeat' first
    | (with_reducible assumption)
    | (with_reducible apply unaryOp_ok)

theorem execVfclass_ok (q : Sched) (pk : Bool) (vd : VReg) (b : VSrc) (s : State) (h_s : State.ok s) :
    keeps (execVfclass q pk vd b s) := by
  unfold execVfclass
  try extract_lets
  repeat' first
    | (with_reducible assumption)
    | (with_reducible apply unaryOp_ok)

theorem execVcvt_ok (q : Sched) (dst src : CvtFmt) (sel : CvtRound) (vd : VReg) (b : VSrc) (s : State) (h_s : State.ok s) :
    keeps (execVcvt q dst src sel vd b s) := by
  unfold execVcvt
  try extract_lets
  repeat' first
    | (with_reducible assumption)
    | (with_reducible apply vecFloat_ok)

theorem execVfcmp_ok (q : Sched) (cond : FCond) (md : BitVec 4) (va : VReg) (b : VSrc) (s : State) (h_s : State.ok s) :
    keeps (execVfcmp q cond md va b s) := by
  unfold execVfcmp
  try extract_lets
  repeat' first
    | (with_reducible assumption)
    | (with_reducible apply issueWord_ok)
    | (with_reducible apply State.compare_ok)
    | (with_reducible apply Did.ok_done)
    | (with_reducible apply Did.ok_goto)
    | (with_reducible apply Did.ok_trap)
    | (with_reducible apply Did.ok_wait)
    | (with_reducible apply Did.ok_park)
    | (with_reducible apply Did.ok_left)
    | (with_reducible apply keeps_next)
    | (with_reducible apply keeps_fault)
    | (with_reducible apply keeps_refused)
    | extract_lets
    | (with_reducible intro _)

/-! ### Scalar -/

theorem scaInt_ok (q : Sched) (instr : Instr) (sd : SReg) (f : Issue → Word) (s : State) (h_s : State.ok s) :
    keeps (scaInt q instr sd f s) := by
  unfold scaInt
  try extract_lets
  repeat' first
    | (with_reducible assumption)
    | (with_reducible apply issueWord_ok)
    | (with_reducible apply State.later_ok)
    | (with_reducible apply Did.ok_done)
    | (with_reducible apply Did.ok_goto)
    | (with_reducible apply Did.ok_trap)
    | (with_reducible apply Did.ok_wait)
    | (with_reducible apply Did.ok_park)
    | (with_reducible apply Did.ok_left)
    | (with_reducible apply keeps_next)
    | (with_reducible apply keeps_fault)
    | (with_reducible apply keeps_refused)
    | extract_lets
    | (with_reducible intro _)

theorem execSadd_ok (q : Sched) (sd sa : SReg) (b : SSrc) (s : State) (h_s : State.ok s) :
    keeps (execSadd q sd sa b s) := by
  unfold execSadd
  try extract_lets
  repeat' first
    | (with_reducible assumption)
    | (with_reducible apply scaInt_ok)

theorem execSsub_ok (q : Sched) (sd sa : SReg) (b : SSrc) (s : State) (h_s : State.ok s) :
    keeps (execSsub q sd sa b s) := by
  unfold execSsub
  try extract_lets
  repeat' first
    | (with_reducible assumption)
    | (with_reducible apply scaInt_ok)

theorem execSmul_ok (q : Sched) (sd sa : SReg) (b : SSrc) (s : State) (h_s : State.ok s) :
    keeps (execSmul q sd sa b s) := by
  unfold execSmul
  try extract_lets
  repeat' first
    | (with_reducible assumption)
    | (with_reducible apply scaInt_ok)

theorem execSmulhi_ok (q : Sched) (sd sa : SReg) (b : SSrc) (s : State) (h_s : State.ok s) :
    keeps (execSmulhi q sd sa b s) := by
  unfold execSmulhi
  try extract_lets
  repeat' first
    | (with_reducible assumption)
    | (with_reducible apply scaInt_ok)

theorem execSand_ok (q : Sched) (sd sa : SReg) (b : SSrc) (s : State) (h_s : State.ok s) :
    keeps (execSand q sd sa b s) := by
  unfold execSand
  try extract_lets
  repeat' first
    | (with_reducible assumption)
    | (with_reducible apply scaInt_ok)

theorem execSor_ok (q : Sched) (sd sa : SReg) (b : SSrc) (s : State) (h_s : State.ok s) :
    keeps (execSor q sd sa b s) := by
  unfold execSor
  try extract_lets
  repeat' first
    | (with_reducible assumption)
    | (with_reducible apply scaInt_ok)

theorem execSxor_ok (q : Sched) (sd sa : SReg) (b : SSrc) (s : State) (h_s : State.ok s) :
    keeps (execSxor q sd sa b s) := by
  unfold execSxor
  try extract_lets
  repeat' first
    | (with_reducible assumption)
    | (with_reducible apply scaInt_ok)

theorem execSshl_ok (q : Sched) (sd sa : SReg) (b : SSrc) (s : State) (h_s : State.ok s) :
    keeps (execSshl q sd sa b s) := by
  unfold execSshl
  try extract_lets
  repeat' first
    | (with_reducible assumption)
    | (with_reducible apply scaInt_ok)

theorem execSshr_ok (q : Sched) (sd sa : SReg) (b : SSrc) (s : State) (h_s : State.ok s) :
    keeps (execSshr q sd sa b s) := by
  unfold execSshr
  try extract_lets
  repeat' first
    | (with_reducible assumption)
    | (with_reducible apply scaInt_ok)

theorem execSsra_ok (q : Sched) (sd sa : SReg) (b : SSrc) (s : State) (h_s : State.ok s) :
    keeps (execSsra q sd sa b s) := by
  unfold execSsra
  try extract_lets
  repeat' first
    | (with_reducible assumption)
    | (with_reducible apply scaInt_ok)

theorem execSmin_ok (q : Sched) (sd sa : SReg) (b : SSrc) (s : State) (h_s : State.ok s) :
    keeps (execSmin q sd sa b s) := by
  unfold execSmin
  try extract_lets
  repeat' first
    | (with_reducible assumption)
    | (with_reducible apply scaInt_ok)

theorem execSmax_ok (q : Sched) (sd sa : SReg) (b : SSrc) (s : State) (h_s : State.ok s) :
    keeps (execSmax q sd sa b s) := by
  unfold execSmax
  try extract_lets
  repeat' first
    | (with_reducible assumption)
    | (with_reducible apply scaInt_ok)

theorem execSminu_ok (q : Sched) (sd sa : SReg) (b : SSrc) (s : State) (h_s : State.ok s) :
    keeps (execSminu q sd sa b s) := by
  unfold execSminu
  try extract_lets
  repeat' first
    | (with_reducible assumption)
    | (with_reducible apply scaInt_ok)

theorem execSmaxu_ok (q : Sched) (sd sa : SReg) (b : SSrc) (s : State) (h_s : State.ok s) :
    keeps (execSmaxu q sd sa b s) := by
  unfold execSmaxu
  try extract_lets
  repeat' first
    | (with_reducible assumption)
    | (with_reducible apply scaInt_ok)

theorem scaCarry_ok (q : Sched) (instr : Instr) (sd : SReg) (f : Issue → Word) (c : Issue → Bool) (s : State) (h_s : State.ok s) :
    keeps (scaCarry q instr sd f c s) := by
  unfold scaCarry
  try extract_lets
  repeat' first
    | (with_reducible assumption)
    | (with_reducible apply issueWord_ok)
    | (with_reducible apply State.later_ok)
    | (with_reducible apply Did.ok_done)
    | (with_reducible apply Did.ok_goto)
    | (with_reducible apply Did.ok_trap)
    | (with_reducible apply Did.ok_wait)
    | (with_reducible apply Did.ok_park)
    | (with_reducible apply Did.ok_left)
    | (with_reducible apply keeps_next)
    | (with_reducible apply keeps_fault)
    | (with_reducible apply keeps_refused)
    | extract_lets
    | (with_reducible intro _)

theorem execSaddc_ok (q : Sched) (sd sa : SReg) (b : SSrc) (s : State) (h_s : State.ok s) :
    keeps (execSaddc q sd sa b s) := by
  unfold execSaddc
  try extract_lets
  repeat' first
    | (with_reducible assumption)
    | (with_reducible apply scaCarry_ok)

theorem execSsubb_ok (q : Sched) (sd sa : SReg) (b : SSrc) (s : State) (h_s : State.ok s) :
    keeps (execSsubb q sd sa b s) := by
  unfold execSsubb
  try extract_lets
  repeat' first
    | (with_reducible assumption)
    | (with_reducible apply scaCarry_ok)

theorem execScmp_ok (q : Sched) (cond : ICond) (sa : SReg) (b : SSrc) (s : State) (h_s : State.ok s) :
    keeps (execScmp q cond sa b s) := by
  unfold execScmp
  try extract_lets
  repeat' first
    | (with_reducible assumption)
    | (with_reducible apply issueWord_ok)
    | (with_reducible apply State.later_ok)
    | (with_reducible apply Did.ok_done)
    | (with_reducible apply Did.ok_goto)
    | (with_reducible apply Did.ok_trap)
    | (with_reducible apply Did.ok_wait)
    | (with_reducible apply Did.ok_park)
    | (with_reducible apply Did.ok_left)
    | (with_reducible apply keeps_next)
    | (with_reducible apply keeps_fault)
    | (with_reducible apply keeps_refused)
    | extract_lets
    | (with_reducible intro _)

theorem execSsel_ok (q : Sched) (sd sa : SReg) (b : SSrc) (s : State) (h_s : State.ok s) :
    keeps (execSsel q sd sa b s) := by
  unfold execSsel
  try extract_lets
  repeat' first
    | (with_reducible assumption)
    | (with_reducible apply scaInt_ok)

theorem execSmov_ok (q : Sched) (sd : SReg) (b : SSrc) (s : State) (h_s : State.ok s) :
    keeps (execSmov q sd b s) := by
  unfold execSmov
  try extract_lets
  repeat' first
    | (with_reducible assumption)
    | (with_reducible apply scaInt_ok)

theorem execSpopc_ok (q : Sched) (sd : SReg) (b : SSrc) (s : State) (h_s : State.ok s) :
    keeps (execSpopc q sd b s) := by
  unfold execSpopc
  try extract_lets
  repeat' first
    | (with_reducible assumption)
    | (with_reducible apply scaInt_ok)

theorem execSclz_ok (q : Sched) (sd : SReg) (b : SSrc) (s : State) (h_s : State.ok s) :
    keeps (execSclz q sd b s) := by
  unfold execSclz
  try extract_lets
  repeat' first
    | (with_reducible assumption)
    | (with_reducible apply scaInt_ok)

theorem execSbfe_ok (q : Sched) (sd sa : SReg) (b : SSrc) (s : State) (h_s : State.ok s) :
    keeps (execSbfe q sd sa b s) := by
  unfold execSbfe
  try extract_lets
  repeat' first
    | (with_reducible assumption)
    | (with_reducible apply scaInt_ok)

theorem scaFloat_ok (q : Sched) (instr : Instr) (lat : Nat) (sd : SReg) (f : Issue → Wave → Flagged Nat) (s : State) (h_s : State.ok s) :
    keeps (scaFloat q instr lat sd f s) := by
  unfold scaFloat
  try extract_lets
  repeat' first
    | (with_reducible assumption)
    | (with_reducible apply issueWord_ok)
    | (with_reducible apply State.later_ok)
    | (with_reducible apply State.raiseFlags_ok)
    | (with_reducible apply Did.ok_done)
    | (with_reducible apply Did.ok_goto)
    | (with_reducible apply Did.ok_trap)
    | (with_reducible apply Did.ok_wait)
    | (with_reducible apply Did.ok_park)
    | (with_reducible apply Did.ok_left)
    | (with_reducible apply keeps_next)
    | (with_reducible apply keeps_fault)
    | (with_reducible apply keeps_refused)
    | extract_lets
    | (with_reducible intro _)

theorem scaFp32_ok (q : Sched) (instr : Instr) (o : FOp) (sd sa : SReg) (b : SSrc) (s : State) (h_s : State.ok s) :
    keeps (scaFp32 q instr o sd sa b s) := by
  unfold scaFp32
  try extract_lets
  repeat' first
    | (with_reducible assumption)
    | (with_reducible apply scaFloat_ok)

theorem execSfadd_ok (q : Sched) (sd sa : SReg) (b : SSrc) (s : State) (h_s : State.ok s) :
    keeps (execSfadd q sd sa b s) := by
  unfold execSfadd
  try extract_lets
  repeat' first
    | (with_reducible assumption)
    | (with_reducible apply scaFp32_ok)

theorem execSfmul_ok (q : Sched) (sd sa : SReg) (b : SSrc) (s : State) (h_s : State.ok s) :
    keeps (execSfmul q sd sa b s) := by
  unfold execSfmul
  try extract_lets
  repeat' first
    | (with_reducible assumption)
    | (with_reducible apply scaFp32_ok)

theorem execSffma_ok (q : Sched) (sd sa : SReg) (b : SSrc) (s : State) (h_s : State.ok s) :
    keeps (execSffma q sd sa b s) := by
  unfold execSffma
  try extract_lets
  repeat' first
    | (with_reducible assumption)
    | (with_reducible apply scaFp32_ok)

theorem execSfmin_ok (q : Sched) (sd sa : SReg) (b : SSrc) (s : State) (h_s : State.ok s) :
    keeps (execSfmin q sd sa b s) := by
  unfold execSfmin
  try extract_lets
  repeat' first
    | (with_reducible assumption)
    | (with_reducible apply scaFp32_ok)

theorem execSfmax_ok (q : Sched) (sd sa : SReg) (b : SSrc) (s : State) (h_s : State.ok s) :
    keeps (execSfmax q sd sa b s) := by
  unfold execSfmax
  try extract_lets
  repeat' first
    | (with_reducible assumption)
    | (with_reducible apply scaFp32_ok)

theorem execSfexp2_ok (q : Sched) (sd : SReg) (b : SSrc) (s : State) (h_s : State.ok s) :
    keeps (execSfexp2 q sd b s) := by
  unfold execSfexp2
  try extract_lets
  repeat' first
    | (with_reducible assumption)
    | (with_reducible apply scaFloat_ok)

theorem execSfcvt_ok (q : Sched) (sd sa : SReg) (dst src : BitVec 4) (s : State) (h_s : State.ok s) :
    keeps (execSfcvt q sd sa dst src s) := by
  unfold execSfcvt
  try extract_lets
  repeat' first
    | (with_reducible assumption)
    | (with_reducible apply scaFloat_ok)

theorem execDrawm_ok (q : Sched) (sd sa : SReg) (s : State) (h_s : State.ok s) :
    keeps (execDrawm q sd sa s) := by
  unfold execDrawm
  try extract_lets
  repeat' first
    | (with_reducible assumption)
    | (with_reducible apply issueWord_ok)
    | (with_reducible apply State.later_ok)
    | (with_reducible apply State.raiseFlags_ok)
    | (with_reducible apply Did.ok_done)
    | (with_reducible apply Did.ok_goto)
    | (with_reducible apply Did.ok_trap)
    | (with_reducible apply Did.ok_wait)
    | (with_reducible apply Did.ok_park)
    | (with_reducible apply Did.ok_left)
    | (with_reducible apply keeps_next)
    | (with_reducible apply keeps_fault)
    | (with_reducible apply keeps_refused)
    | extract_lets
    | (with_reducible intro _)

theorem execSmovi_ok (q : Sched) (sd : SReg) (imm : BitVec 16) (s : State) (h_s : State.ok s) :
    keeps (execSmovi q sd imm s) := by
  unfold execSmovi
  try extract_lets
  repeat' first
    | (with_reducible assumption)
    | (with_reducible apply scaInt_ok)

theorem execSori_ok (q : Sched) (sd : SReg) (imm : BitVec 16) (s : State) (h_s : State.ok s) :
    keeps (execSori q sd imm s) := by
  unfold execSori
  try extract_lets
  repeat' first
    | (with_reducible assumption)
    | (with_reducible apply scaInt_ok)

theorem execSaddi_ok (q : Sched) (sd : SReg) (imm : BitVec 16) (s : State) (h_s : State.ok s) :
    keeps (execSaddi q sd imm s) := by
  unfold execSaddi
  try extract_lets
  repeat' first
    | (with_reducible assumption)
    | (with_reducible apply scaInt_ok)

theorem execScmpi_ok (q : Sched) (sd : SReg) (imm : BitVec 16) (s : State) (h_s : State.ok s) :
    keeps (execScmpi q sd imm s) := by
  unfold execScmpi
  try extract_lets
  repeat' first
    | (with_reducible assumption)
    | (with_reducible apply issueWord_ok)
    | (with_reducible apply State.later_ok)
    | (with_reducible apply Did.ok_done)
    | (with_reducible apply Did.ok_goto)
    | (with_reducible apply Did.ok_trap)
    | (with_reducible apply Did.ok_wait)
    | (with_reducible apply Did.ok_park)
    | (with_reducible apply Did.ok_left)
    | (with_reducible apply keeps_next)
    | (with_reducible apply keeps_fault)
    | (with_reducible apply keeps_refused)
    | extract_lets
    | (with_reducible intro _)

/-! ### CrossLane -/

theorem maskOp_ok (q : Sched) (instr : Instr) (md : BitVec 6) (f : Issue → DWord) (s : State) (h_s : State.ok s) :
    keeps (maskOp q instr md f s) := by
  unfold maskOp
  try extract_lets
  repeat' first
    | (with_reducible assumption)
    | (with_reducible apply issueWord_ok)
    | (with_reducible apply State.laterMask_ok)
    | (with_reducible apply Did.ok_done)
    | (with_reducible apply Did.ok_goto)
    | (with_reducible apply Did.ok_trap)
    | (with_reducible apply Did.ok_wait)
    | (with_reducible apply Did.ok_park)
    | (with_reducible apply Did.ok_left)
    | (with_reducible apply keeps_next)
    | (with_reducible apply keeps_fault)
    | (with_reducible apply keeps_refused)
    | extract_lets
    | (with_reducible intro _)

theorem execMand_ok (q : Sched) (md ma : BitVec 6) (mb : BitVec 4) (s : State) (h_s : State.ok s) :
    keeps (execMand q md ma mb s) := by
  unfold execMand
  try extract_lets
  repeat' first
    | (with_reducible assumption)
    | (with_reducible apply maskOp_ok)

theorem execMor_ok (q : Sched) (md ma : BitVec 6) (mb : BitVec 4) (s : State) (h_s : State.ok s) :
    keeps (execMor q md ma mb s) := by
  unfold execMor
  try extract_lets
  repeat' first
    | (with_reducible assumption)
    | (with_reducible apply maskOp_ok)

theorem execMxor_ok (q : Sched) (md ma : BitVec 6) (mb : BitVec 4) (s : State) (h_s : State.ok s) :
    keeps (execMxor q md ma mb s) := by
  unfold execMxor
  try extract_lets
  repeat' first
    | (with_reducible assumption)
    | (with_reducible apply maskOp_ok)

theorem execMandn_ok (q : Sched) (md ma : BitVec 6) (mb : BitVec 4) (s : State) (h_s : State.ok s) :
    keeps (execMandn q md ma mb s) := by
  unfold execMandn
  try extract_lets
  repeat' first
    | (with_reducible assumption)
    | (with_reducible apply maskOp_ok)

theorem execMmov_ok (q : Sched) (md ma : BitVec 6) (s : State) (h_s : State.ok s) :
    keeps (execMmov q md ma s) := by
  unfold execMmov
  try extract_lets
  repeat' first
    | (with_reducible assumption)
    | (with_reducible apply maskOp_ok)

theorem execMpopc_ok (q : Sched) (sd : SReg) (ma : BitVec 6) (s : State) (h_s : State.ok s) :
    keeps (execMpopc q sd ma s) := by
  unfold execMpopc
  try extract_lets
  repeat' first
    | (with_reducible assumption)
    | (with_reducible apply issueWord_ok)
    | (with_reducible apply State.later_ok)
    | (with_reducible apply Did.ok_done)
    | (with_reducible apply Did.ok_goto)
    | (with_reducible apply Did.ok_trap)
    | (with_reducible apply Did.ok_wait)
    | (with_reducible apply Did.ok_park)
    | (with_reducible apply Did.ok_left)
    | (with_reducible apply keeps_next)
    | (with_reducible apply keeps_fault)
    | (with_reducible apply keeps_refused)
    | extract_lets
    | (with_reducible intro _)

theorem execMfirst_ok (q : Sched) (md ma : BitVec 6) (s : State) (h_s : State.ok s) :
    keeps (execMfirst q md ma s) := by
  unfold execMfirst
  try extract_lets
  repeat' first
    | (with_reducible assumption)
    | (with_reducible apply maskOp_ok)

theorem execMset_ok (q : Sched) (md : BitVec 6) (sa : SReg) (s : State) (h_s : State.ok s) :
    keeps (execMset q md sa s) := by
  unfold execMset
  try extract_lets
  repeat' first
    | (with_reducible assumption)
    | (with_reducible apply maskOp_ok)

theorem execMget_ok (q : Sched) (sd : SReg) (ma : BitVec 6) (s : State) (h_s : State.ok s) :
    keeps (execMget q sd ma s) := by
  unfold execMget
  try extract_lets
  repeat' first
    | (with_reducible assumption)
    | (with_reducible apply issueWord_ok)
    | (with_reducible apply State.later_ok)
    | (with_reducible apply Did.ok_done)
    | (with_reducible apply Did.ok_goto)
    | (with_reducible apply Did.ok_trap)
    | (with_reducible apply Did.ok_wait)
    | (with_reducible apply Did.ok_park)
    | (with_reducible apply Did.ok_left)
    | (with_reducible apply keeps_next)
    | (with_reducible apply keeps_fault)
    | (with_reducible apply keeps_refused)
    | extract_lets
    | (with_reducible intro _)

theorem crossOp_ok (q : Sched) (instr : Instr) (f : State → Wave → State) (s : State) (h_f : ∀ (f_0 : State) (f_1 : Wave), State.ok f_0 → State.ok (f f_0 f_1)) (h_s : State.ok s) :
    keeps (crossOp q instr f s) := by
  unfold crossOp
  try extract_lets
  repeat' first
    | (with_reducible assumption)
    | (with_reducible apply h_f)
    | (with_reducible apply issueWord_ok)
    | (with_reducible apply Did.ok_done)
    | (with_reducible apply Did.ok_goto)
    | (with_reducible apply Did.ok_trap)
    | (with_reducible apply Did.ok_wait)
    | (with_reducible apply Did.ok_park)
    | (with_reducible apply Did.ok_left)
    | (with_reducible apply keeps_next)
    | (with_reducible apply keeps_fault)
    | (with_reducible apply keeps_refused)
    | extract_lets
    | (with_reducible intro _)
    | (split)

theorem execVrfl_ok (q : Sched) (sd : SReg) (va : VReg) (s : State) (h_s : State.ok s) :
    keeps (execVrfl q sd va s) := by
  unfold execVrfl
  try extract_lets
  repeat' first
    | (with_reducible assumption)
    | (with_reducible apply crossOp_ok)
    | (with_reducible apply State.later_ok)
    | (with_reducible apply Did.ok_done)
    | (with_reducible apply Did.ok_goto)
    | (with_reducible apply Did.ok_trap)
    | (with_reducible apply Did.ok_wait)
    | (with_reducible apply Did.ok_park)
    | (with_reducible apply Did.ok_left)
    | (with_reducible apply keeps_next)
    | (with_reducible apply keeps_fault)
    | (with_reducible apply keeps_refused)
    | extract_lets
    | (with_reducible intro _)

theorem laneOp_ok (q : Sched) (instr : Instr) (f : State → Wave → State) (s : State) (h_f : ∀ (f_0 : State) (f_1 : Wave), State.ok f_0 → State.ok (f f_0 f_1)) (h_s : State.ok s) :
    keeps (laneOp q instr f s) := by
  unfold laneOp
  try extract_lets
  repeat' first
    | (with_reducible assumption)
    | (with_reducible apply h_f)
    | (with_reducible apply issueWord_ok)
    | (with_reducible apply Did.ok_done)
    | (with_reducible apply Did.ok_goto)
    | (with_reducible apply Did.ok_trap)
    | (with_reducible apply Did.ok_wait)
    | (with_reducible apply Did.ok_park)
    | (with_reducible apply Did.ok_left)
    | (with_reducible apply keeps_next)
    | (with_reducible apply keeps_fault)
    | (with_reducible apply keeps_refused)
    | extract_lets
    | (with_reducible intro _)
    | (split)

theorem State.crossResult_ok (s : State) (w : Wave) (l : Landing) (h_s : State.ok s) :
    State.ok (State.crossResult s w l) := by
  unfold State.crossResult
  try extract_lets
  repeat' first
    | (with_reducible assumption)
    | (with_reducible apply State.putNow_ok)
    | (with_reducible apply State.later_ok)
    | extract_lets
    | (with_reducible intro _)
    | (split)

theorem execVrdln_ok (q : Sched) (sd sl : SReg) (va : VReg) (s : State) (h_s : State.ok s) :
    keeps (execVrdln q sd sl va s) := by
  unfold execVrdln
  try extract_lets
  repeat' first
    | (with_reducible assumption)
    | (with_reducible apply laneOp_ok)
    | (with_reducible apply State.crossResult_ok)
    | (with_reducible apply Did.ok_done)
    | (with_reducible apply Did.ok_goto)
    | (with_reducible apply Did.ok_trap)
    | (with_reducible apply Did.ok_wait)
    | (with_reducible apply Did.ok_park)
    | (with_reducible apply Did.ok_left)
    | (with_reducible apply keeps_next)
    | (with_reducible apply keeps_fault)
    | (with_reducible apply keeps_refused)
    | extract_lets
    | (with_reducible intro _)

theorem execVwrln_ok (q : Sched) (sl : SReg) (vd : VReg) (sb : SReg) (s : State) (h_s : State.ok s) :
    keeps (execVwrln q sl vd sb s) := by
  unfold execVwrln
  try extract_lets
  repeat' first
    | (with_reducible assumption)
    | (with_reducible apply laneOp_ok)
    | (with_reducible apply State.crossResult_ok)
    | (with_reducible apply Did.ok_done)
    | (with_reducible apply Did.ok_goto)
    | (with_reducible apply Did.ok_trap)
    | (with_reducible apply Did.ok_wait)
    | (with_reducible apply Did.ok_park)
    | (with_reducible apply Did.ok_left)
    | (with_reducible apply keeps_next)
    | (with_reducible apply keeps_fault)
    | (with_reducible apply keeps_refused)
    | extract_lets
    | (with_reducible intro _)
    | (split)

theorem execVmatch_ok (q : Sched) (vd va : VReg) (s : State) (h_s : State.ok s) :
    keeps (execVmatch q vd va s) := by
  unfold execVmatch
  try extract_lets
  repeat' first
    | (with_reducible assumption)
    | (with_reducible apply crossOp_ok)
    | (with_reducible apply State.later_ok)
    | (with_reducible apply Did.ok_done)
    | (with_reducible apply Did.ok_goto)
    | (with_reducible apply Did.ok_trap)
    | (with_reducible apply Did.ok_wait)
    | (with_reducible apply Did.ok_park)
    | (with_reducible apply Did.ok_left)
    | (with_reducible apply keeps_next)
    | (with_reducible apply keeps_fault)
    | (with_reducible apply keeps_refused)
    | (with_reducible apply filter_wf)
    | extract_lets
    | (with_reducible intro _)

theorem execVballot_ok (q : Sched) (md : BitVec 4) (va : VReg) (s : State) (h_s : State.ok s) :
    keeps (execVballot q md va s) := by
  unfold execVballot
  try extract_lets
  repeat' first
    | (with_reducible assumption)
    | (with_reducible apply crossOp_ok)
    | (with_reducible apply State.laterMask_ok)
    | (with_reducible apply Did.ok_done)
    | (with_reducible apply Did.ok_goto)
    | (with_reducible apply Did.ok_trap)
    | (with_reducible apply Did.ok_wait)
    | (with_reducible apply Did.ok_park)
    | (with_reducible apply Did.ok_left)
    | (with_reducible apply keeps_next)
    | (with_reducible apply keeps_fault)
    | (with_reducible apply keeps_refused)
    | (with_reducible apply filter_wf)
    | extract_lets
    | (with_reducible intro _)

theorem execVredu_ok (q : Sched) (sd : SReg) (fl : Bool) (op : RedOp) (va : VReg) (s : State) (h_s : State.ok s) :
    keeps (execVredu q sd fl op va s) := by
  unfold execVredu
  try extract_lets
  repeat' first
    | (with_reducible assumption)
    | (with_reducible apply crossOp_ok)
    | (with_reducible apply State.later_ok)
    | (with_reducible apply State.raiseFlags_ok)
    | (with_reducible apply Did.ok_done)
    | (with_reducible apply Did.ok_goto)
    | (with_reducible apply Did.ok_trap)
    | (with_reducible apply Did.ok_wait)
    | (with_reducible apply Did.ok_park)
    | (with_reducible apply Did.ok_left)
    | (with_reducible apply keeps_next)
    | (with_reducible apply keeps_fault)
    | (with_reducible apply keeps_refused)
    | extract_lets
    | (with_reducible intro _)
    | (split)

theorem execVscan_ok (q : Sched) (excl fl : Bool) (op : RedOp) (vd va : VReg) (s : State) (h_s : State.ok s) :
    keeps (execVscan q excl fl op vd va s) := by
  unfold execVscan
  try extract_lets
  repeat' first
    | (with_reducible assumption)
    | (with_reducible apply crossOp_ok)
    | (with_reducible apply State.later_ok)
    | (with_reducible apply State.raiseFlags_ok)
    | (with_reducible apply foldl_ok)
    | (with_reducible apply Did.ok_done)
    | (with_reducible apply Did.ok_goto)
    | (with_reducible apply Did.ok_trap)
    | (with_reducible apply Did.ok_wait)
    | (with_reducible apply Did.ok_park)
    | (with_reducible apply Did.ok_left)
    | (with_reducible apply keeps_next)
    | (with_reducible apply keeps_fault)
    | (with_reducible apply keeps_refused)
    | (with_reducible apply foldl_set_wf)
    | extract_lets
    | (with_reducible intro _)

theorem execVdraw_ok (q : Sched) (sd sc : SReg) (va : VReg) (s : State) (h_s : State.ok s) :
    keeps (execVdraw q sd sc va s) := by
  unfold execVdraw
  try extract_lets
  repeat' first
    | (with_reducible assumption)
    | (with_reducible apply issueWord_ok)
    | (with_reducible apply State.putNow_ok)
    | (with_reducible apply State.raiseFlags_ok)
    | (with_reducible apply Did.ok_done)
    | (with_reducible apply Did.ok_goto)
    | (with_reducible apply Did.ok_trap)
    | (with_reducible apply Did.ok_wait)
    | (with_reducible apply Did.ok_park)
    | (with_reducible apply Did.ok_left)
    | (with_reducible apply keeps_next)
    | (with_reducible apply keeps_fault)
    | (with_reducible apply keeps_refused)
    | extract_lets
    | (with_reducible intro _)
    | ((conv => arg 1; with_reducible whnf); first | (with_reducible apply issueWord_ok) | (with_reducible apply State.putNow_ok) | (with_reducible apply State.raiseFlags_ok) | (with_reducible apply Did.ok_done) | (with_reducible apply Did.ok_goto) | (with_reducible apply Did.ok_trap) | (with_reducible apply Did.ok_wait) | (with_reducible apply Did.ok_park) | (with_reducible apply Did.ok_left) | (with_reducible apply keeps_next) | (with_reducible apply keeps_fault) | (with_reducible apply keeps_refused))
    | (split)

/-! ### Control -/

theorem execBr_ok (q : Sched) (hint : BrHint) (inv : Bool) (cond : BitVec 4) (off : BitVec 17) (s : State) (h_s : State.ok s) :
    keeps (execBr q hint inv cond off s) := by
  unfold execBr
  try extract_lets
  repeat' first
    | (with_reducible assumption)
    | (with_reducible apply issueWord_ok)
    | (with_reducible apply Issue.raiseAll_ok)
    | (with_reducible apply Did.ok_done)
    | (with_reducible apply Did.ok_goto)
    | (with_reducible apply Did.ok_trap)
    | (with_reducible apply Did.ok_wait)
    | (with_reducible apply Did.ok_park)
    | (with_reducible apply Did.ok_left)
    | (with_reducible apply keeps_next)
    | (with_reducible apply keeps_fault)
    | (with_reducible apply keeps_refused)
    | extract_lets
    | (with_reducible intro _)
    | (split)

theorem execJmp_ok (q : Sched) (off : BitVec 19) (s : State) (h_s : State.ok s) :
    keeps (execJmp q off s) := by
  unfold execJmp
  try extract_lets
  repeat' first
    | (with_reducible assumption)
    | (with_reducible apply issueWord_ok)
    | (with_reducible apply Did.ok_done)
    | (with_reducible apply Did.ok_goto)
    | (with_reducible apply Did.ok_trap)
    | (with_reducible apply Did.ok_wait)
    | (with_reducible apply Did.ok_park)
    | (with_reducible apply Did.ok_left)
    | (with_reducible apply keeps_next)
    | (with_reducible apply keeps_fault)
    | (with_reducible apply keeps_refused)
    | extract_lets
    | (with_reducible intro _)

theorem execBrx_ok (q : Sched) (va : VReg) (s : State) (h_s : State.ok s) :
    keeps (execBrx q va s) := by
  unfold execBrx
  try extract_lets
  repeat' first
    | (with_reducible assumption)
    | (with_reducible apply issueWord_ok)
    | (with_reducible apply AtomAcc.lane_ok)
    | (with_reducible apply Did.ok_done)
    | (with_reducible apply Did.ok_goto)
    | (with_reducible apply Did.ok_trap)
    | (with_reducible apply Did.ok_wait)
    | (with_reducible apply Did.ok_park)
    | (with_reducible apply Did.ok_left)
    | (with_reducible apply keeps_next)
    | (with_reducible apply keeps_fault)
    | (with_reducible apply keeps_refused)
    | extract_lets
    | (with_reducible intro _)

theorem callTo_ok (t : State) (w : Wave) (target : DWord) (h_t : State.ok t) :
    Did.ok (callTo t w target) := by
  unfold callTo
  try extract_lets
  repeat' first
    | (with_reducible assumption)
    | (with_reducible apply Did.orTrap_ok)
    | (with_reducible apply State.wave_ok)
    | (with_reducible apply Did.ok_done)
    | (with_reducible apply Did.ok_goto)

theorem execCall_ok (q : Sched) (off : BitVec 19) (s : State) (h_s : State.ok s) :
    keeps (execCall q off s) := by
  unfold execCall
  try extract_lets
  repeat' first
    | (with_reducible assumption)
    | (with_reducible apply issueWord_ok)
    | (with_reducible apply callTo_ok)
    | (with_reducible apply Did.ok_done)
    | (with_reducible apply Did.ok_goto)
    | (with_reducible apply Did.ok_trap)
    | (with_reducible apply Did.ok_wait)
    | (with_reducible apply Did.ok_park)
    | (with_reducible apply Did.ok_left)
    | (with_reducible apply keeps_next)
    | (with_reducible apply keeps_fault)
    | (with_reducible apply keeps_refused)
    | extract_lets
    | (with_reducible intro _)

theorem execRet_ok (q : Sched) (s : State) (h_s : State.ok s) :
    keeps (execRet q s) := by
  unfold execRet
  try extract_lets
  repeat' first
    | (with_reducible assumption)
    | (with_reducible apply issueWord_ok)
    | (with_reducible apply Did.orTrap_ok)
    | (with_reducible apply State.wave_ok)
    | (with_reducible apply foldl_ok)
    | (with_reducible apply Did.ok_done)
    | (with_reducible apply Did.ok_goto)
    | (with_reducible apply Did.ok_trap)
    | (with_reducible apply Did.ok_wait)
    | (with_reducible apply Did.ok_park)
    | (with_reducible apply Did.ok_left)
    | (with_reducible apply keeps_next)
    | (with_reducible apply keeps_fault)
    | (with_reducible apply keeps_refused)
    | (with_reducible apply foldl_set_wf)
    | (with_reducible apply filter_wf)
    | extract_lets
    | (with_reducible intro _)

theorem joinOp_ok (q : Sched) (instr : Instr) (m : BitVec 4) (f : DWord → DWord → DWord) (s : State) (h_s : State.ok s) :
    keeps (joinOp q instr m f s) := by
  unfold joinOp
  try extract_lets
  repeat' first
    | (with_reducible assumption)
    | (with_reducible apply issueWord_ok)
    | (with_reducible apply State.wave_ok)
    | (with_reducible apply Did.ok_done)
    | (with_reducible apply Did.ok_goto)
    | (with_reducible apply Did.ok_trap)
    | (with_reducible apply Did.ok_wait)
    | (with_reducible apply Did.ok_park)
    | (with_reducible apply Did.ok_left)
    | (with_reducible apply keeps_next)
    | (with_reducible apply keeps_fault)
    | (with_reducible apply keeps_refused)
    | extract_lets
    | (with_reducible intro _)

theorem execJoin_ok (q : Sched) (m : BitVec 4) (s : State) (h_s : State.ok s) :
    keeps (execJoin q m s) := by
  unfold execJoin
  try extract_lets
  repeat' first
    | (with_reducible assumption)
    | (with_reducible apply joinOp_ok)

theorem execLeave_ok (q : Sched) (m : BitVec 4) (s : State) (h_s : State.ok s) :
    keeps (execLeave q m s) := by
  unfold execLeave
  try extract_lets
  repeat' first
    | (with_reducible assumption)
    | (with_reducible apply joinOp_ok)

theorem execWaitm_ok (q : Sched) (m : BitVec 4) (s : State) (h_s : State.ok s) :
    keeps (execWaitm q m s) := by
  unfold execWaitm
  try extract_lets
  repeat' first
    | (with_reducible assumption)
    | (with_reducible apply issueWord_ok)
    | (with_reducible apply Did.ok_done)
    | (with_reducible apply Did.ok_goto)
    | (with_reducible apply Did.ok_trap)
    | (with_reducible apply Did.ok_wait)
    | (with_reducible apply Did.ok_park)
    | (with_reducible apply Did.ok_left)
    | (with_reducible apply keeps_next)
    | (with_reducible apply keeps_fault)
    | (with_reducible apply keeps_refused)
    | extract_lets
    | (with_reducible intro _)

theorem execExit_ok (q : Sched) (s : State) (h_s : State.ok s) :
    keeps (execExit q s) := by
  unfold execExit
  try extract_lets
  repeat' first
    | (with_reducible assumption)
    | (with_reducible apply issueWord_ok)
    | (with_reducible apply State.wave_ok)
    | (with_reducible apply State.suspendOwner_ok)
    | (with_reducible apply State.commit_ok)
    | (with_reducible apply State.removeWave_ok)
    | (with_reducible apply Did.ok_done)
    | (with_reducible apply Did.ok_goto)
    | (with_reducible apply Did.ok_trap)
    | (with_reducible apply Did.ok_wait)
    | (with_reducible apply Did.ok_park)
    | (with_reducible apply Did.ok_left)
    | (with_reducible apply keeps_next)
    | (with_reducible apply keeps_fault)
    | (with_reducible apply keeps_refused)
    | extract_lets
    | (with_reducible intro _)
    | (split)

theorem execSleep_ok (q : Sched) (n : BitVec 5) (b : SSrc) (s : State) (h_s : State.ok s) :
    keeps (execSleep q n b s) := by
  unfold execSleep
  try extract_lets
  repeat' first
    | (with_reducible assumption)
    | (with_reducible apply issueWord_ok)
    | (with_reducible apply State.check_ok)
    | (with_reducible apply Did.orTrap_ok)
    | (with_reducible apply Did.ok_done)
    | (with_reducible apply Did.ok_goto)
    | (with_reducible apply Did.ok_trap)
    | (with_reducible apply Did.ok_wait)
    | (with_reducible apply Did.ok_park)
    | (with_reducible apply Did.ok_left)
    | (with_reducible apply keeps_next)
    | (with_reducible apply keeps_fault)
    | (with_reducible apply keeps_refused)
    | extract_lets
    | (with_reducible intro _)
    | (split)

theorem execYield_ok (q : Sched) (s : State) (h_s : State.ok s) :
    keeps (execYield q s) := by
  unfold execYield
  try extract_lets
  repeat' first
    | (with_reducible assumption)
    | (with_reducible apply issueWord_ok)
    | (with_reducible apply State.wave_ok)
    | (with_reducible apply Did.ok_done)
    | (with_reducible apply Did.ok_goto)
    | (with_reducible apply Did.ok_trap)
    | (with_reducible apply Did.ok_wait)
    | (with_reducible apply Did.ok_park)
    | (with_reducible apply Did.ok_left)
    | (with_reducible apply keeps_next)
    | (with_reducible apply keeps_fault)
    | (with_reducible apply keeps_refused)
    | (with_reducible apply filter_wf)
    | extract_lets
    | (with_reducible intro _)

theorem execNop_ok (q : Sched) (s : State) (h_s : State.ok s) :
    keeps (execNop q s) := by
  unfold execNop
  try extract_lets
  repeat' first
    | (with_reducible assumption)
    | (with_reducible apply issueWord_ok)
    | (with_reducible apply Did.ok_done)
    | (with_reducible apply Did.ok_goto)
    | (with_reducible apply Did.ok_trap)
    | (with_reducible apply Did.ok_wait)
    | (with_reducible apply Did.ok_park)
    | (with_reducible apply Did.ok_left)
    | (with_reducible apply keeps_next)
    | (with_reducible apply keeps_fault)
    | (with_reducible apply keeps_refused)
    | extract_lets
    | (with_reducible intro _)

theorem execTrap_ok (q : Sched) (code : BitVec 8) (s : State) (h_s : State.ok s) :
    keeps (execTrap q code s) := by
  unfold execTrap
  try extract_lets
  repeat' first
    | (with_reducible assumption)
    | (with_reducible apply issueWord_ok)
    | (with_reducible apply Issue.raiseAll_ok)
    | (with_reducible apply Did.ok_done)
    | (with_reducible apply Did.ok_goto)
    | (with_reducible apply Did.ok_trap)
    | (with_reducible apply Did.ok_wait)
    | (with_reducible apply Did.ok_park)
    | (with_reducible apply Did.ok_left)
    | (with_reducible apply keeps_next)
    | (with_reducible apply keeps_fault)
    | (with_reducible apply keeps_refused)
    | extract_lets
    | (with_reducible intro _)

theorem execBrk_ok (q : Sched) (code : BitVec 8) (s : State) (h_s : State.ok s) :
    keeps (execBrk q code s) := by
  unfold execBrk
  try extract_lets
  repeat' first
    | (with_reducible assumption)
    | (with_reducible apply issueWord_ok)
    | (with_reducible apply Issue.raiseAll_ok)
    | (with_reducible apply Did.ok_done)
    | (with_reducible apply Did.ok_goto)
    | (with_reducible apply Did.ok_trap)
    | (with_reducible apply Did.ok_wait)
    | (with_reducible apply Did.ok_park)
    | (with_reducible apply Did.ok_left)
    | (with_reducible apply keeps_next)
    | (with_reducible apply keeps_fault)
    | (with_reducible apply keeps_refused)
    | extract_lets
    | (with_reducible intro _)

theorem endHandler_ok (q : Sched) (instr : Instr) (f : State → Wave → Handler → State) (s : State) (h_f : ∀ (f_0 : State) (f_1 : Wave) (f_2 : Handler), State.ok f_0 → State.ok (f f_0 f_1 f_2)) (h_s : State.ok s) :
    keeps (endHandler q instr f s) := by
  unfold endHandler
  try extract_lets
  repeat' first
    | (with_reducible assumption)
    | (with_reducible apply h_f)
    | (with_reducible apply issueWord_ok)
    | (with_reducible apply Issue.raiseAll_ok)
    | (with_reducible apply Did.ok_done)
    | (with_reducible apply Did.ok_goto)
    | (with_reducible apply Did.ok_trap)
    | (with_reducible apply Did.ok_wait)
    | (with_reducible apply Did.ok_park)
    | (with_reducible apply Did.ok_left)
    | (with_reducible apply keeps_next)
    | (with_reducible apply keeps_fault)
    | (with_reducible apply keeps_refused)
    | extract_lets
    | (with_reducible intro _)
    | (split)

theorem execTret_ok (q : Sched) (s : State) (h_s : State.ok s) :
    keeps (execTret q s) := by
  unfold execTret
  try extract_lets
  repeat' first
    | (with_reducible assumption)
    | (with_reducible apply endHandler_ok)
    | (with_reducible apply State.wave_ok)
    | (with_reducible apply Did.ok_done)
    | (with_reducible apply Did.ok_goto)
    | (with_reducible apply Did.ok_trap)
    | (with_reducible apply Did.ok_wait)
    | (with_reducible apply Did.ok_park)
    | (with_reducible apply Did.ok_left)
    | (with_reducible apply keeps_next)
    | (with_reducible apply keeps_fault)
    | (with_reducible apply keeps_refused)
    | extract_lets
    | (with_reducible intro _)

theorem execTretAbort_ok (q : Sched) (s : State) (h_s : State.ok s) :
    keeps (execTretAbort q s) := by
  unfold execTretAbort
  try extract_lets
  repeat' first
    | (with_reducible assumption)
    | (with_reducible apply endHandler_ok)
    | (with_reducible apply State.abort_ok)
    | (with_reducible apply Did.ok_done)
    | (with_reducible apply Did.ok_goto)
    | (with_reducible apply Did.ok_trap)
    | (with_reducible apply Did.ok_wait)
    | (with_reducible apply Did.ok_park)
    | (with_reducible apply Did.ok_left)
    | (with_reducible apply keeps_next)
    | (with_reducible apply keeps_fault)
    | (with_reducible apply keeps_refused)
    | extract_lets
    | (with_reducible intro _)

theorem execIsync_ok (q : Sched) (s : State) (h_s : State.ok s) :
    keeps (execIsync q s) := by
  unfold execIsync
  try extract_lets
  repeat' first
    | (with_reducible assumption)
    | (with_reducible apply issueWord_ok)
    | (with_reducible apply State.modCore_ok)
    | (with_reducible apply Did.ok_done)
    | (with_reducible apply Did.ok_goto)
    | (with_reducible apply Did.ok_trap)
    | (with_reducible apply Did.ok_wait)
    | (with_reducible apply Did.ok_park)
    | (with_reducible apply Did.ok_left)
    | (with_reducible apply keeps_next)
    | (with_reducible apply keeps_fault)
    | (with_reducible apply keeps_refused)
    | extract_lets
    | (with_reducible intro _)

theorem execPpt_ok (q : Sched) (s : State) (h_s : State.ok s) :
    keeps (execPpt q s) := by
  unfold execPpt
  try extract_lets
  repeat' first
    | (with_reducible assumption)
    | (with_reducible apply issueWord_ok)
    | (with_reducible apply Did.state_ok)
    | (with_reducible apply State.setTeam_ok)
    | (with_reducible apply Did.ok_done)
    | (with_reducible apply Did.ok_goto)
    | (with_reducible apply Did.ok_trap)
    | (with_reducible apply Did.ok_wait)
    | (with_reducible apply Did.ok_park)
    | (with_reducible apply Did.ok_left)
    | (with_reducible apply keeps_next)
    | (with_reducible apply keeps_fault)
    | (with_reducible apply keeps_refused)
    | extract_lets
    | (with_reducible intro _)
    | (split)

theorem State.readRecord4_ok (s : State) (slot : Nat) (w : Wave) (va : Nat) (h_s : State.ok s) :
    State.ok ((State.readRecord4 s slot w va)).1 := by
  unfold State.readRecord4
  try extract_lets
  repeat' first
    | (with_reducible assumption)
    | (with_reducible apply State.check_ok)
    | (with_reducible apply State.readGlobal_ok)
    | extract_lets
    | (with_reducible intro _)
    | (split)

theorem State.findRegion_ok (s : State) (slot : Nat) (w : Wave) (off : Nat) (a0 : Nat) (a1 : Nat) (h_s : State.ok s) :
    State.ok ((State.findRegion s slot w off a0 a1)).1 := by
  induction a0 generalizing s slot w off a1 with
  | zero =>
    unfold State.findRegion
    try extract_lets
    repeat' first
      | (with_reducible assumption)
  | succ n_ ih =>
    unfold State.findRegion
    try extract_lets
    repeat' first
      | (with_reducible assumption)
      | (with_reducible apply ih)
      | (with_reducible apply State.readRecord4_ok)
      | extract_lets
      | (with_reducible intro _)
      | (split)

theorem State.regionAt_ok (s : State) (slot : Nat) (w : Wave) (off : Nat) (h_s : State.ok s) :
    State.ok ((State.regionAt s slot w off)).1 := by
  unfold State.regionAt
  try extract_lets
  repeat' first
    | (with_reducible assumption)
    | (with_reducible apply State.readRecord4_ok)
    | (with_reducible apply State.findRegion_ok)
    | extract_lets
    | (with_reducible intro _)
    | (split)

theorem execIdem_ok (q : Sched) (s : State) (h_s : State.ok s) :
    keeps (execIdem q s) := by
  unfold execIdem
  try extract_lets
  repeat' first
    | (with_reducible assumption)
    | (with_reducible apply issueWord_ok)
    | (with_reducible apply Issue.raiseAll_ok)
    | (with_reducible apply State.regionAt_ok)
    | (with_reducible apply Did.orTrap_ok)
    | (with_reducible apply State.wave_ok)
    | (with_reducible apply Did.ok_done)
    | (with_reducible apply Did.ok_goto)
    | (with_reducible apply Did.ok_trap)
    | (with_reducible apply Did.ok_wait)
    | (with_reducible apply Did.ok_park)
    | (with_reducible apply Did.ok_left)
    | (with_reducible apply keeps_next)
    | (with_reducible apply keeps_fault)
    | (with_reducible apply keeps_refused)
    | extract_lets
    | (with_reducible intro _)
    | (split)

theorem execIdemend_ok (q : Sched) (s : State) (h_s : State.ok s) :
    keeps (execIdemend q s) := by
  unfold execIdemend
  try extract_lets
  repeat' first
    | (with_reducible assumption)
    | (with_reducible apply issueWord_ok)
    | (with_reducible apply Issue.raiseAll_ok)
    | (with_reducible apply State.wave_ok)
    | (with_reducible apply Did.ok_done)
    | (with_reducible apply Did.ok_goto)
    | (with_reducible apply Did.ok_trap)
    | (with_reducible apply Did.ok_wait)
    | (with_reducible apply Did.ok_park)
    | (with_reducible apply Did.ok_left)
    | (with_reducible apply keeps_next)
    | (with_reducible apply keeps_fault)
    | (with_reducible apply keeps_refused)
    | extract_lets
    | (with_reducible intro _)
    | (split)

theorem execHintLitlo_ok (lit : BitVec 20) (s : State) (h_s : State.ok s) :
    keeps (execHintLitlo lit s) := by
  unfold execHintLitlo
  try extract_lets
  repeat' first
    | (with_reducible assumption)
    | (with_reducible apply issueHint_ok)

theorem execHintLithi_ok (lit : BitVec 12) (s : State) (h_s : State.ok s) :
    keeps (execHintLithi lit s) := by
  unfold execHintLithi
  try extract_lets
  repeat' first
    | (with_reducible assumption)
    | (with_reducible apply issueHint_ok)

theorem execHintGuard_ok (inv : Bool) (m : BitVec 4) (s : State) (h_s : State.ok s) :
    keeps (execHintGuard inv m s) := by
  unfold execHintGuard
  try extract_lets
  repeat' first
    | (with_reducible assumption)
    | (with_reducible apply issueHint_ok)

theorem execHintMod_ok (sel : BitVec 4) (hf : Bool) (ord : BitVec 2) (w64 sat ab nb aa na : Bool) (s : State) (h_s : State.ok s) :
    keeps (execHintMod sel hf ord w64 sat ab nb aa na s) := by
  unfold execHintMod
  try extract_lets
  repeat' first
    | (with_reducible assumption)
    | (with_reducible apply issueHint_ok)

theorem execHintRnd_ok (mode : BitVec 3) (s : State) (h_s : State.ok s) :
    keeps (execHintRnd mode s) := by
  unfold execHintRnd
  try extract_lets
  repeat' first
    | (with_reducible assumption)
    | (with_reducible apply issueHint_ok)

theorem execHintScope_ok (scope : BitVec 3) (s : State) (h_s : State.ok s) :
    keeps (execHintScope scope s) := by
  unfold execHintScope
  try extract_lets
  repeat' first
    | (with_reducible assumption)
    | (with_reducible apply issueHint_ok)

theorem execHintCache_ok (policy : BitVec 2) (s : State) (h_s : State.ok s) :
    keeps (execHintCache policy s) := by
  unfold execHintCache
  try extract_lets
  repeat' first
    | (with_reducible assumption)
    | (with_reducible apply issueHint_ok)

theorem execHintGap_ok (gap : BitVec 8) (s : State) (h_s : State.ok s) :
    keeps (execHintGap gap s) := by
  unfold execHintGap
  try extract_lets
  repeat' first
    | (with_reducible assumption)
    | (with_reducible apply issueHint_ok)

end Sys2Proof.Machine
end

