-- ==== Sys2Proof/Laws/KeepAccess.lean ====
section
/-! SUPPORT. The canonical form of both memories is kept by loads, stores, atomics and fences.
The lemma `f_ok` of a function f says so of f (log entry 3). -/

namespace Sys2Proof.Machine

/-! ### Loads -/

theorem loadGlobal_ok (q : Sched) (instr : Instr) (vd : VReg) (base : BitVec 5) (voff : BitVec 7) (k : Width) (comb : Bool) (read : State → Nat → Wave → Nat → List Acc → State × List Nat × List (Nat × List Byte)) (s : State) (h_read : ∀ (read_0 : State) (read_1 : Nat) (read_2 : Wave) (read_3 : Nat) (read_4 : List Acc), State.ok read_0 → State.ok ((read read_0 read_1 read_2 read_3 read_4)).1) (h_s : State.ok s) :
    keeps (loadGlobal q instr vd base voff k comb read s) := by
  unfold loadGlobal
  try extract_lets
  repeat' first
    | (with_reducible assumption)
    | (with_reducible apply h_read)
    | (with_reducible apply issueWord_ok)
    | (with_reducible apply globalAccess_ok)
    | (with_reducible apply Did.orTrap_ok)
    | (with_reducible apply State.afterRemote_ok)
    | (with_reducible apply State.putLanes_ok)
    | (with_reducible apply Did.ok_done)
    | (with_reducible apply Did.ok_goto)
    | (with_reducible apply Did.ok_trap)
    | (with_reducible apply Did.ok_wait)
    | (with_reducible apply Did.ok_park)
    | (with_reducible apply Did.ok_left)
    | (with_reducible apply keeps_next)
    | (with_reducible apply keeps_fault)
    | (with_reducible apply keeps_refused)
    | extract_lets
    | (with_reducible intro _)
    | (split)

theorem rowRead_ok (bypass : Bool) (s : State) (core : Nat) (w : Wave) (n : Nat) (as : List Acc) (h_s : State.ok s) :
    State.ok ((rowRead bypass s core w n as)).1 := by
  unfold rowRead
  try extract_lets
  repeat' first
    | (with_reducible assumption)
    | (with_reducible apply State.readLanes_ok)

theorem execVld_ok (q : Sched) (vd : VReg) (base : BitVec 5) (voff : BitVec 7) (width : Width) (s : State) (h_s : State.ok s) :
    keeps (execVld q vd base voff width s) := by
  unfold execVld
  try extract_lets
  repeat' first
    | (with_reducible assumption)
    | (with_reducible apply loadGlobal_ok)
    | (with_reducible apply rowRead_ok)

theorem execVldc_ok (q : Sched) (vd : VReg) (base : BitVec 5) (voff : BitVec 7) (width : Width) (s : State) (h_s : State.ok s) :
    keeps (execVldc q vd base voff width s) := by
  unfold execVldc
  try extract_lets
  repeat' first
    | (with_reducible assumption)
    | (with_reducible apply loadGlobal_ok)
    | (with_reducible apply rowRead_ok)

theorem execVldt_ok (q : Sched) (vd : VReg) (base : BitVec 5) (voff : BitVec 7) (width : Width) (s : State) (h_s : State.ok s) :
    keeps (execVldt q vd base voff width s) := by
  unfold execVldt
  try extract_lets
  repeat' first
    | (with_reducible assumption)
    | (with_reducible apply loadGlobal_ok)
    | (with_reducible apply State.readColumns_ok)

theorem execVlds_ok (q : Sched) (vd : VReg) (base : BitVec 5) (voff : BitVec 7) (width : Width) (s : State) (h_s : State.ok s) :
    keeps (execVlds q vd base voff width s) := by
  unfold execVlds
  try extract_lets
  repeat' first
    | (with_reducible assumption)
    | (with_reducible apply issueWord_ok)
    | (with_reducible apply spadAccess_ok)
    | (with_reducible apply State.putLanes_ok)
    | (with_reducible apply AtomAcc.lane_ok)
    | (with_reducible apply Did.ok_done)
    | (with_reducible apply Did.ok_goto)
    | (with_reducible apply Did.ok_trap)
    | (with_reducible apply Did.ok_wait)
    | (with_reducible apply Did.ok_park)
    | (with_reducible apply Did.ok_left)
    | (with_reducible apply keeps_next)
    | (with_reducible apply keeps_fault)
    | (with_reducible apply keeps_refused)
    | extract_lets
    | (with_reducible intro _)
    | (split)

theorem execVst_ok (q : Sched) (vs : VReg) (base : BitVec 5) (voff : BitVec 7) (width : Width) (s : State) (h_s : State.ok s) :
    keeps (execVst q vs base voff width s) := by
  unfold execVst
  try extract_lets
  repeat' first
    | (with_reducible assumption)
    | (with_reducible apply issueWord_ok)
    | (with_reducible apply globalAccess_ok)
    | (with_reducible apply State.storeLanes_ok)
    | (with_reducible apply AtomAcc.lane_ok)
    | (with_reducible apply Did.ok_done)
    | (with_reducible apply Did.ok_goto)
    | (with_reducible apply Did.ok_trap)
    | (with_reducible apply Did.ok_wait)
    | (with_reducible apply Did.ok_park)
    | (with_reducible apply Did.ok_left)
    | (with_reducible apply keeps_next)
    | (with_reducible apply keeps_fault)
    | (with_reducible apply keeps_refused)
    | extract_lets
    | (with_reducible intro _)

theorem execVsts_ok (q : Sched) (vs : VReg) (base : BitVec 5) (voff : BitVec 7) (width : Width) (s : State) (h_s : State.ok s) :
    keeps (execVsts q vs base voff width s) := by
  unfold execVsts
  try extract_lets
  repeat' first
    | (with_reducible assumption)
    | (with_reducible apply issueWord_ok)
    | (with_reducible apply spadAccess_ok)
    | (with_reducible apply foldState_ok)
    | (with_reducible apply State.spadStore_ok)
    | (with_reducible apply AtomAcc.lane_ok)
    | (with_reducible apply Did.ok_done)
    | (with_reducible apply Did.ok_goto)
    | (with_reducible apply Did.ok_trap)
    | (with_reducible apply Did.ok_wait)
    | (with_reducible apply Did.ok_park)
    | (with_reducible apply Did.ok_left)
    | (with_reducible apply keeps_next)
    | (with_reducible apply keeps_fault)
    | (with_reducible apply keeps_refused)
    | extract_lets
    | (with_reducible intro _)

theorem State.requestTile_ok (s : State) (tile : Nat) (h_s : State.ok s) :
    State.ok (State.requestTile s tile) := by
  unfold State.requestTile
  try extract_lets
  repeat' first
    | (with_reducible assumption)
    | (with_reducible apply Did.state_ok)
    | (with_reducible apply State.startMove_ok)
    | (with_reducible apply State.fetch_ok)
    | extract_lets
    | (with_reducible intro _)
    | (split)

theorem State.prefetch_ok (s : State) (slot : Nat) (w : Wave) (bypass : Bool) (va : Nat) (h_s : State.ok s) :
    State.ok (State.prefetch s slot w bypass va) := by
  unfold State.prefetch
  try extract_lets
  repeat' first
    | (with_reducible assumption)
    | (with_reducible apply State.check_ok)
    | (with_reducible apply State.requestTile_ok)
    | (with_reducible apply State.combRead_ok)
    | (with_reducible apply State.fillL1_ok)
    | extract_lets
    | (with_reducible intro _)
    | ((conv => arg 1; with_reducible whnf); first | (with_reducible apply State.check_ok) | (with_reducible apply State.requestTile_ok) | (with_reducible apply State.combRead_ok) | (with_reducible apply State.fillL1_ok))
    | (split)

theorem execVpref_ok (q : Sched) (base : BitVec 5) (voff : BitVec 7) (s : State) (h_s : State.ok s) :
    keeps (execVpref q base voff s) := by
  unfold execVpref
  try extract_lets
  repeat' first
    | (with_reducible assumption)
    | (with_reducible apply issueWord_ok)
    | (with_reducible apply foldState_ok)
    | (with_reducible apply State.prefetch_ok)
    | (with_reducible apply Did.ok_done)
    | (with_reducible apply Did.ok_goto)
    | (with_reducible apply Did.ok_trap)
    | (with_reducible apply Did.ok_wait)
    | (with_reducible apply Did.ok_park)
    | (with_reducible apply Did.ok_left)
    | (with_reducible apply keeps_next)
    | (with_reducible apply keeps_fault)
    | (with_reducible apply keeps_refused)
    | extract_lets
    | (with_reducible intro _)

theorem execVpwb_ok (q : Sched) (base : BitVec 5) (voff : BitVec 7) (s : State) (h_s : State.ok s) :
    keeps (execVpwb q base voff s) := by
  unfold execVpwb
  try extract_lets
  repeat' first
    | (with_reducible assumption)
    | (with_reducible apply issueWord_ok)
    | (with_reducible apply globalAccess_ok)
    | (with_reducible apply State.commit_ok)
    | (with_reducible apply State.ordered_ok)
    | (with_reducible apply State.enterNow_ok)
    | (with_reducible apply Did.ok_done)
    | (with_reducible apply Did.ok_goto)
    | (with_reducible apply Did.ok_trap)
    | (with_reducible apply Did.ok_wait)
    | (with_reducible apply Did.ok_park)
    | (with_reducible apply Did.ok_left)
    | (with_reducible apply keeps_next)
    | (with_reducible apply keeps_fault)
    | (with_reducible apply keeps_refused)
    | (with_reducible apply filter_wf)
    | extract_lets
    | (with_reducible intro _)
    | (split)

/-! ### Atomics -/

theorem AtomAcc.lane_ok (core task n : Nat) (f : AtomFun) (a : AtomAcc) (x : Acc × List Word) (h : a.state.ok) :
    (AtomAcc.lane core task n f a x).state.ok := by
  unfold AtomAcc.lane
  split
  · extract_lets r
    have hr : r.1.ok := State.readRemote_ok _ _ _ _ h
    clear_value r
    split <;> exact hr
  · extract_lets r s1
    have hr : r.1.ok := State.readPoint_ok _ _ _ h
    have hs : s1.ok := by
      simp only [s1]
      split
      · exact hr
      · exact State.combRead_ok _ _ _ (State.dropRows_ok _ _ _ _ hr)
    exact hs

theorem AtomAcc.lanes_ok (core task n : Nat) (f : AtomFun) (l : List (Acc × List Word)) (a : AtomAcc) (h : a.state.ok) :
    (l.foldl (AtomAcc.lane core task n f) a).state.ok := by
  induction l generalizing a with
  | nil => exact h
  | cons x l ih => exact ih _ (AtomAcc.lane_ok core task n f a x h)

theorem State.atomLanes_ok (s : State) (w : Wave) (n : Nat) (f : AtomFun) (as : List (Acc × List Word)) (h : s.ok) :
    (s.atomLanes w n f as).state.ok := by
  unfold State.atomLanes
  extract_lets slot c r
  have hr : r.state.ok := AtomAcc.lanes_ok _ _ _ _ _ _ (State.ordered_ok _ _ (State.commit_ok _ _ h))
  clear_value r
  refine State.enterNow_ok _ _ _ _ _ ?_
  split
  · exact hr
  · exact State.store_ok _ _ hr

theorem State.atomAcquire_ok (s : State) (ord scope : Nat) (h_s : State.ok s) :
    State.ok (State.atomAcquire s ord scope) := by
  unfold State.atomAcquire
  try extract_lets
  repeat' first
    | (with_reducible assumption)
    | (with_reducible apply State.acquire_ok)
    | extract_lets
    | (with_reducible intro _)
    | (split)

theorem orderedRelease_ok (t : State) (w : Wave) (ord scope : Nat) (k : State → Did) (h_t : State.ok t) (h_k : ∀ (k_0 : State), State.ok k_0 → Did.ok (k k_0)) :
    Did.ok (orderedRelease t w ord scope k) := by
  unfold orderedRelease
  try extract_lets
  repeat' first
    | (with_reducible assumption)
    | (with_reducible apply h_k)
    | (with_reducible apply releasing_ok)
    | (with_reducible apply Did.ok_done)
    | (with_reducible apply Did.ok_goto)
    | (with_reducible apply Did.ok_trap)
    | (with_reducible apply Did.ok_wait)
    | (with_reducible apply Did.ok_park)
    | (with_reducible apply Did.ok_left)
    | extract_lets
    | (with_reducible intro _)
    | (split)

theorem State.noteOwn_ok (s : State) (w : Wave) (bytes : List Host.Cell) (h_s : State.ok s) :
    State.ok (State.noteOwn s w bytes) := by
  unfold State.noteOwn
  try extract_lets
  repeat' first
    | (with_reducible assumption)
    | (with_reducible apply State.wave_ok)
    | extract_lets
    | (with_reducible intro _)
    | (split)

theorem globalAtomic_ok (t : State) (w : Wave) (n : Nat) (f : AtomFun) (addr : List (Nat × Nat)) (operand : Nat → List Word) (write : State → List (Nat × Nat) → State) (h_t : State.ok t) (h_write : ∀ (write_0 : State) (write_1 : List (Nat × Nat)), State.ok write_0 → State.ok (write write_0 write_1)) :
    Did.ok (globalAtomic t w n f addr operand write) := by
  unfold globalAtomic
  try extract_lets
  repeat' first
    | (with_reducible assumption)
    | (with_reducible apply h_write)
    | (with_reducible apply State.atomLanes_ok)
    | (with_reducible apply globalAccess_ok)
    | (with_reducible apply Did.orTrap_ok)
    | (with_reducible apply orderedRelease_ok)
    | (with_reducible apply State.afterRemote_ok)
    | (with_reducible apply State.atomLanes_ok)
    | (with_reducible apply AtomAcc.lane_ok)
    | (with_reducible apply foldState_ok)
    | (with_reducible apply State.peerFailure_ok)
    | (with_reducible apply Did.state_ok)
    | (with_reducible apply Did.refused_ok)
    | (with_reducible apply State.noteOwn_ok)
    | (with_reducible apply State.atomAcquire_ok)
    | (with_reducible apply Did.ok_done)
    | (with_reducible apply Did.ok_goto)
    | (with_reducible apply Did.ok_trap)
    | (with_reducible apply Did.ok_wait)
    | (with_reducible apply Did.ok_park)
    | (with_reducible apply Did.ok_left)
    | extract_lets
    | (with_reducible intro _)
    | (split)
    | ((conv => arg 1; with_reducible whnf); split)
    | ((conv => arg 1; arg 1; with_reducible whnf); split)
    | ((conv => arg 1; with_reducible whnf); clear_value *; split)
    | ((conv => arg 1; arg 1; with_reducible whnf); clear_value *; split)
    | (clear_value *; split)
    | ((conv => arg 1; with_reducible whnf); with_reducible apply State.ok_mk)
    | (with_reducible apply State.ok_mk)
    | (with_reducible apply State.ok_mem)
    | (with_reducible apply State.ok_scm)
    | (with_reducible apply State.ok_versions)
    | (with_reducible apply State.ok_regs)

theorem spadAtomic_ok (t : State) (w : Wave) (instr : Instr) (n : Nat) (f : AtomFun) (addr : List (Nat × Nat)) (operand : Nat → List Word) (write : State → List (Nat × Nat) → State) (h_t : State.ok t) (h_write : ∀ (write_0 : State) (write_1 : List (Nat × Nat)), State.ok write_0 → State.ok (write write_0 write_1)) :
    Did.ok (spadAtomic t w instr n f addr operand write) := by
  unfold spadAtomic
  extract_lets
  split
  · exact h_t
  refine spadAccess_ok _ _ _ _ _ _ _ h_t fun as => orderedRelease_ok _ _ _ _ _ h_t fun c hc => ?_
  extract_lets r
  have hr : r.1.ok := by
    simp only [r]
    suffices h : ∀ (l : List SpadAcc) (a : State × List (Nat × Nat)), a.1.ok →
        (l.foldl (fun (a : State × List (Nat × Nat)) x =>
          let o := a.1.spadValue x.core x.off n
          (match f o (operand x.lane) with
           | some v => a.1.spadStore x.core x.off (leBytes n v)
           | none => a.1,
           a.2 ++ [(x.lane, o)])) a).1.ok from h as (c, []) hc
    intro l
    induction l with
    | nil => exact fun a h => h
    | cons x l ih =>
      intro a h
      refine ih _ ?_
      show State.ok (match f (a.1.spadValue x.core x.off n) (operand x.lane) with
        | some v => a.1.spadStore x.core x.off (leBytes n v)
        | none => a.1)
      split
      · exact State.spadStore_ok _ _ _ _ h
      · exact h
  clear_value r
  exact State.atomAcquire_ok _ _ _ (h_write _ _ hr)

theorem putOld_ok (vd : VReg) (n : Nat) (s : State) (old : List (Nat × Nat)) (h_s : State.ok s) :
    State.ok (putOld vd n s old) := by
  unfold putOld
  try extract_lets
  repeat' first
    | (with_reducible assumption)
    | (with_reducible apply State.putLanes_ok)
    | extract_lets
    | (with_reducible intro _)
    | (split)

theorem vatomGlobal_ok (q : Sched) (instr : Instr) (vd : VReg) (voff : BitVec 7) (base : BitVec 5) (cas : Bool) (f : Nat → AtomFun) (s : State) (h_s : State.ok s) :
    keeps (vatomGlobal q instr vd voff base cas f s) := by
  unfold vatomGlobal
  try extract_lets
  repeat' first
    | (with_reducible assumption)
    | (with_reducible apply issueWord_ok)
    | (with_reducible apply globalAtomic_ok)
    | (with_reducible apply AtomAcc.lane_ok)
    | (with_reducible apply putOld_ok)
    | (with_reducible apply Did.ok_done)
    | (with_reducible apply Did.ok_goto)
    | (with_reducible apply Did.ok_trap)
    | (with_reducible apply Did.ok_wait)
    | (with_reducible apply Did.ok_park)
    | (with_reducible apply Did.ok_left)
    | (with_reducible apply keeps_next)
    | (with_reducible apply keeps_fault)
    | (with_reducible apply keeps_refused)
    | extract_lets
    | (with_reducible intro _)

theorem vatomSpad_ok (q : Sched) (instr : Instr) (vd : VReg) (voff : BitVec 7) (base : BitVec 5) (cas : Bool) (f : Nat → AtomFun) (s : State) (h_s : State.ok s) :
    keeps (vatomSpad q instr vd voff base cas f s) := by
  unfold vatomSpad
  try extract_lets
  repeat' first
    | (with_reducible assumption)
    | (with_reducible apply issueWord_ok)
    | (with_reducible apply spadAtomic_ok)
    | (with_reducible apply AtomAcc.lane_ok)
    | (with_reducible apply putOld_ok)
    | (with_reducible apply Did.ok_done)
    | (with_reducible apply Did.ok_goto)
    | (with_reducible apply Did.ok_trap)
    | (with_reducible apply Did.ok_wait)
    | (with_reducible apply Did.ok_park)
    | (with_reducible apply Did.ok_left)
    | (with_reducible apply keeps_next)
    | (with_reducible apply keeps_fault)
    | (with_reducible apply keeps_refused)
    | extract_lets
    | (with_reducible intro _)

theorem execVatom_ok (q : Sched) (op : AtomOp) (vd : VReg) (voff : BitVec 7) (base : BitVec 5) (s : State) (h_s : State.ok s) :
    keeps (execVatom q op vd voff base s) := by
  unfold execVatom
  try extract_lets
  repeat' first
    | (with_reducible assumption)
    | (with_reducible apply vatomGlobal_ok)

theorem execVatoms_ok (q : Sched) (op : AtomOp) (vd : VReg) (voff : BitVec 7) (base : BitVec 5) (s : State) (h_s : State.ok s) :
    keeps (execVatoms q op vd voff base s) := by
  unfold execVatoms
  try extract_lets
  repeat' first
    | (with_reducible assumption)
    | (with_reducible apply vatomSpad_ok)

theorem execVcas_ok (q : Sched) (vd : VReg) (voff : BitVec 7) (base : BitVec 5) (s : State) (h_s : State.ok s) :
    keeps (execVcas q vd voff base s) := by
  unfold execVcas
  try extract_lets
  repeat' first
    | (with_reducible assumption)
    | (with_reducible apply vatomGlobal_ok)

theorem execVatomsCas_ok (q : Sched) (vd : VReg) (voff : BitVec 7) (base : BitVec 5) (s : State) (h_s : State.ok s) :
    keeps (execVatomsCas q vd voff base s) := by
  unfold execVatomsCas
  try extract_lets
  repeat' first
    | (with_reducible assumption)
    | (with_reducible apply vatomSpad_ok)

theorem putOldScalar_ok (sd : SReg) (n : Nat) (s : State) (old : List (Nat × Nat)) (h_s : State.ok s) :
    State.ok (putOldScalar sd n s old) := by
  unfold putOldScalar
  try extract_lets
  repeat' first
    | (with_reducible assumption)
    | (with_reducible apply State.putPair_ok)
    | (with_reducible apply State.putNow_ok)
    | extract_lets
    | (with_reducible intro _)
    | (split)

theorem scalarAtomic_ok (q : Sched) (instr : Instr) (sd : SReg) (base : BitVec 5) (w64 : Bool) (cas : Bool) (f : Nat → AtomFun) (s : State) (h_s : State.ok s) :
    keeps (scalarAtomic q instr sd base w64 cas f s) := by
  unfold scalarAtomic
  try extract_lets
  repeat' first
    | (with_reducible assumption)
    | (with_reducible apply issueWord_ok)
    | (with_reducible apply globalAtomic_ok)
    | (with_reducible apply putOldScalar_ok)
    | (with_reducible apply Did.ok_done)
    | (with_reducible apply Did.ok_goto)
    | (with_reducible apply Did.ok_trap)
    | (with_reducible apply Did.ok_wait)
    | (with_reducible apply Did.ok_park)
    | (with_reducible apply Did.ok_left)
    | (with_reducible apply keeps_next)
    | (with_reducible apply keeps_fault)
    | (with_reducible apply keeps_refused)
    | extract_lets
    | (with_reducible intro _)

theorem execSatom_ok (q : Sched) (sd : SReg) (base : BitVec 5) (w64 : Bool) (op : AtomOp) (s : State) (h_s : State.ok s) :
    keeps (execSatom q sd base w64 op s) := by
  unfold execSatom
  try extract_lets
  repeat' first
    | (with_reducible assumption)
    | (with_reducible apply scalarAtomic_ok)

theorem execScas_ok (q : Sched) (sd : SReg) (base : BitVec 5) (w64 : Bool) (s : State) (h_s : State.ok s) :
    keeps (execScas q sd base w64 s) := by
  unfold execScas
  try extract_lets
  repeat' first
    | (with_reducible assumption)
    | (with_reducible apply scalarAtomic_ok)

theorem State.bfBlocks_ok (s : State) (ls : List BfLane) (a0 : List Nat) (h_s : State.ok s) :
    State.ok ((State.bfBlocks s ls a0)).1 := by
  induction a0 generalizing s ls with
  | nil =>
    unfold State.bfBlocks
    try extract_lets
    repeat' first
      | (with_reducible assumption)
  | cons c_ l_ ih =>
    unfold State.bfBlocks
    try extract_lets
    repeat' first
      | (with_reducible assumption)
      | (with_reducible apply ih)
      | (with_reducible apply State.storeAt_ok)

theorem execBfadd_ok (q : Sched) (vd : VReg) (voff : BitVec 7) (base : BitVec 5) (s : State) (h_s : State.ok s) :
    keeps (execBfadd q vd voff base s) := by
  unfold execBfadd
  try extract_lets
  repeat' first
    | (with_reducible assumption)
    | (with_reducible apply issueWord_ok)
    | (with_reducible apply AtomAcc.lane_ok)
    | (with_reducible apply State.checkLanes_ok)
    | (with_reducible apply Did.orTrap_ok)
    | (with_reducible apply orderedRelease_ok)
    | (with_reducible apply State.bfBlocks_ok)
    | (with_reducible apply State.commit_ok)
    | (with_reducible apply State.ordered_ok)
    | (with_reducible apply State.putNow_ok)
    | (with_reducible apply State.atomAcquire_ok)
    | (with_reducible apply Did.ok_done)
    | (with_reducible apply Did.ok_goto)
    | (with_reducible apply Did.ok_trap)
    | (with_reducible apply Did.ok_wait)
    | (with_reducible apply Did.ok_park)
    | (with_reducible apply Did.ok_left)
    | (with_reducible apply keeps_next)
    | (with_reducible apply keeps_fault)
    | (with_reducible apply keeps_refused)
    | (with_reducible apply filter_wf)
    | extract_lets
    | (with_reducible intro _)
    | ((conv => arg 1; with_reducible whnf); first | (with_reducible apply issueWord_ok) | (with_reducible apply AtomAcc.lane_ok) | (with_reducible apply State.checkLanes_ok) | (with_reducible apply Did.orTrap_ok) | (with_reducible apply orderedRelease_ok) | (with_reducible apply State.bfBlocks_ok) | (with_reducible apply State.commit_ok) | (with_reducible apply State.ordered_ok) | (with_reducible apply State.putNow_ok) | (with_reducible apply State.atomAcquire_ok) | (with_reducible apply Did.ok_done) | (with_reducible apply Did.ok_goto) | (with_reducible apply Did.ok_trap) | (with_reducible apply Did.ok_wait) | (with_reducible apply Did.ok_park) | (with_reducible apply Did.ok_left) | (with_reducible apply keeps_next) | (with_reducible apply keeps_fault) | (with_reducible apply keeps_refused))
    | (split)

/-! ### ScalarMemory -/

theorem scalarLoad_ok (q : Sched) (instr : Instr) (sd : SReg) (base : BitVec 5) (w64 : Bool) (off : BitVec 8) (s : State) (h_s : State.ok s) :
    keeps (scalarLoad q instr sd base w64 off s) := by
  unfold scalarLoad
  try extract_lets
  repeat' first
    | (with_reducible assumption)
    | (with_reducible apply issueWord_ok)
    | (with_reducible apply globalAccess_ok)
    | (with_reducible apply Did.orTrap_ok)
    | (with_reducible apply State.afterRemote_ok)
    | (with_reducible apply State.readLanes_ok)
    | (with_reducible apply State.putPair_ok)
    | (with_reducible apply State.putNow_ok)
    | (with_reducible apply Did.ok_done)
    | (with_reducible apply Did.ok_goto)
    | (with_reducible apply Did.ok_trap)
    | (with_reducible apply Did.ok_wait)
    | (with_reducible apply Did.ok_park)
    | (with_reducible apply Did.ok_left)
    | (with_reducible apply keeps_next)
    | (with_reducible apply keeps_fault)
    | (with_reducible apply keeps_refused)
    | extract_lets
    | (with_reducible intro _)
    | (split)

theorem execSld_ok (q : Sched) (sd : SReg) (base : BitVec 5) (w64 : Bool) (off : BitVec 8) (s : State) (h_s : State.ok s) :
    keeps (execSld q sd base w64 off s) := by
  unfold execSld
  try extract_lets
  repeat' first
    | (with_reducible assumption)
    | (with_reducible apply scalarLoad_ok)

theorem execSldk_ok (q : Sched) (sd : SReg) (base : BitVec 5) (w64 : Bool) (off : BitVec 8) (s : State) (h_s : State.ok s) :
    keeps (execSldk q sd base w64 off s) := by
  unfold execSldk
  try extract_lets
  repeat' first
    | (with_reducible assumption)
    | (with_reducible apply scalarLoad_ok)

theorem execSst_ok (q : Sched) (sd : SReg) (base : BitVec 5) (w64 : Bool) (off : BitVec 8) (s : State) (h_s : State.ok s) :
    keeps (execSst q sd base w64 off s) := by
  unfold execSst
  try extract_lets
  repeat' first
    | (with_reducible assumption)
    | (with_reducible apply issueWord_ok)
    | (with_reducible apply globalAccess_ok)
    | (with_reducible apply State.wave_ok)
    | (with_reducible apply State.storeLanes_ok)
    | (with_reducible apply State.noteOwn_ok)
    | (with_reducible apply Did.ok_done)
    | (with_reducible apply Did.ok_goto)
    | (with_reducible apply Did.ok_trap)
    | (with_reducible apply Did.ok_wait)
    | (with_reducible apply Did.ok_park)
    | (with_reducible apply Did.ok_left)
    | (with_reducible apply keeps_next)
    | (with_reducible apply keeps_fault)
    | (with_reducible apply keeps_refused)
    | extract_lets
    | (with_reducible intro _)
    | (split)
    | ((conv => arg 1; with_reducible whnf); split)
    | ((conv => arg 1; arg 1; with_reducible whnf); split)
    | ((conv => arg 1; with_reducible whnf); clear_value *; split)
    | ((conv => arg 1; arg 1; with_reducible whnf); clear_value *; split)
    | (clear_value *; split)
    | ((conv => arg 1; with_reducible whnf); with_reducible apply State.ok_mk)
    | (with_reducible apply State.ok_mk)
    | (with_reducible apply State.ok_mem)
    | (with_reducible apply State.ok_scm)
    | (with_reducible apply State.ok_versions)
    | (with_reducible apply State.ok_regs)

/-! ### Fences -/

theorem execFence_ok (q : Sched) (kind : FenceKind) (scope : BitVec 3) (s : State) (h_s : State.ok s) :
    keeps (execFence q kind scope s) := by
  unfold execFence
  try extract_lets
  repeat' first
    | (with_reducible assumption)
    | (with_reducible apply issueWord_ok)
    | (with_reducible apply State.acquire_ok)
    | (with_reducible apply releasing_ok)
    | (with_reducible apply Did.ok_done)
    | (with_reducible apply Did.ok_goto)
    | (with_reducible apply Did.ok_trap)
    | (with_reducible apply Did.ok_wait)
    | (with_reducible apply Did.ok_park)
    | (with_reducible apply Did.ok_left)
    | (with_reducible apply keeps_next)
    | (with_reducible apply keeps_fault)
    | (with_reducible apply keeps_refused)
    | extract_lets
    | (with_reducible intro _)
    | (split)

theorem execQfence_ok (q : Sched) (queues : BitVec 6) (s : State) (h_s : State.ok s) :
    keeps (execQfence q queues s) := by
  unfold execQfence
  try extract_lets
  repeat' first
    | (with_reducible assumption)
    | (with_reducible apply issueWord_ok)
    | (with_reducible apply State.wave_ok)
    | (with_reducible apply Did.ok_done)
    | (with_reducible apply Did.ok_goto)
    | (with_reducible apply Did.ok_trap)
    | (with_reducible apply Did.ok_wait)
    | (with_reducible apply Did.ok_park)
    | (with_reducible apply Did.ok_left)
    | (with_reducible apply keeps_next)
    | (with_reducible apply keeps_fault)
    | (with_reducible apply keeps_refused)
    | extract_lets
    | (with_reducible intro _)
    | (split)
    | ((conv => arg 1; with_reducible whnf); split)
    | ((conv => arg 1; arg 1; with_reducible whnf); split)
    | ((conv => arg 1; with_reducible whnf); clear_value *; split)
    | ((conv => arg 1; arg 1; with_reducible whnf); clear_value *; split)
    | (clear_value *; split)
    | ((conv => arg 1; with_reducible whnf); with_reducible apply State.ok_mk)
    | (with_reducible apply State.ok_mk)
    | (with_reducible apply State.ok_mem)
    | (with_reducible apply State.ok_scm)
    | (with_reducible apply State.ok_versions)
    | (with_reducible apply State.ok_regs)

theorem execPfence_ok (q : Sched) (s : State) (h_s : State.ok s) :
    keeps (execPfence q s) := by
  unfold execPfence
  try extract_lets
  repeat' first
    | (with_reducible assumption)
    | (with_reducible apply issueWord_ok)
    | (with_reducible apply State.wave_ok)
    | (with_reducible apply Did.ok_done)
    | (with_reducible apply Did.ok_goto)
    | (with_reducible apply Did.ok_trap)
    | (with_reducible apply Did.ok_wait)
    | (with_reducible apply Did.ok_park)
    | (with_reducible apply Did.ok_left)
    | (with_reducible apply keeps_next)
    | (with_reducible apply keeps_fault)
    | (with_reducible apply keeps_refused)
    | extract_lets
    | (with_reducible intro _)

end Sys2Proof.Machine
end

