-- ==== Sys2Proof/Laws/KeepEngine.lean ====
section
/-! SUPPORT. The canonical form of both memories is kept by the engines: copies, the matrix engine, tiers, collectives, snapshots, remote operations.
The lemma `f_ok` of a function f says so of f (log entry 3). -/

namespace Sys2Proof.Machine

/-! ### Engine -/

theorem State.enginePlace_ok (s : State) (ctx die : Nat) (clus : Option Nat) (va : Nat) (wr comb : Bool) (h_s : State.ok s) :
    State.ok ((State.enginePlace s ctx die clus va wr comb)).1 := by
  unfold State.enginePlace
  try extract_lets
  repeat' first
    | (with_reducible assumption)
    | (with_reducible apply State.translate_ok)
    | extract_lets
    | (with_reducible intro _)
    | (split)

theorem State.engineByte_ok (s : State) (ctx task die : Nat) (clus : Option Nat) (comb : Bool) (va : Nat) (h_s : State.ok s) :
    State.ok ((State.engineByte s ctx task die clus comb va)).1 := by
  unfold State.engineByte
  try extract_lets
  repeat' first
    | (with_reducible assumption)
    | (with_reducible apply State.enginePlace_ok)
    | (with_reducible apply State.readTask_ok)
    | extract_lets
    | (with_reducible intro _)
    | (split)

theorem State.rowRead_ok (s : State) (ctx die : Nat) (clus : Option Nat) (va : Nat) (h_s : State.ok s) :
    State.ok (State.rowRead s ctx die clus va) := by
  unfold State.rowRead
  try extract_lets
  repeat' first
    | (with_reducible assumption)
    | (with_reducible apply State.enginePlace_ok)
    | (with_reducible apply State.combRead_ok)
    | extract_lets
    | (with_reducible intro _)
    | (split)

theorem State.engineRun_ok (s : State) (ctx task die : Nat) (clus : Option Nat) (first : Bool) (va : Nat) (a0 : Nat) (h_s : State.ok s) :
    State.ok ((State.engineRun s ctx task die clus first va a0)).1 := by
  induction a0 generalizing s ctx task die clus first va with
  | zero =>
    unfold State.engineRun
    try extract_lets
    repeat' first
      | (with_reducible assumption)
  | succ n_ ih =>
    unfold State.engineRun
    try extract_lets
    repeat' first
      | (with_reducible assumption)
      | (with_reducible apply ih)
      | (with_reducible apply State.engineByte_ok)
      | (with_reducible apply rowRead_ok)
      | (with_reducible apply State.rowRead_ok)
      | extract_lets
      | (with_reducible intro _)
      | (split)
      | ((conv => arg 1; with_reducible whnf); split)

theorem State.engineBytes_ok (s : State) (ctx task die : Nat) (clus : Option Nat) (va n : Nat) (h_s : State.ok s) :
    State.ok ((State.engineBytes s ctx task die clus va n)).1 := by
  unfold State.engineBytes
  try extract_lets
  repeat' first
    | (with_reducible assumption)
    | (with_reducible apply State.engineRun_ok)

theorem State.readPieces_ok (s : State) (ctx task die : Nat) (clus : Option Nat) (comb : Bool) (a0 : List (Nat × Piece)) (h_s : State.ok s) :
    State.ok ((State.readPieces s ctx task die clus comb a0)).1 := by
  induction a0 generalizing s with
  | nil => exact h_s
  | cons c l ih =>
    unfold State.readPieces
    extract_lets one
    have h1 : one.1.ok := by
      simp only [one]
      split
      · exact h_s
      · exact h_s
      · exact State.engineByte_ok _ _ _ _ _ _ _ h_s
      · exact State.engineByte_ok _ _ _ _ _ _ _ h_s
    clear_value one
    split
    · exact h1
    · exact ih _ h1

theorem State.readLayout_ok (s : State) (c : CopyCmd) (clus : Nat) (h_s : State.ok s) :
    State.ok ((State.readLayout s c clus)).1 := by
  unfold State.readLayout
  try extract_lets
  repeat' first
    | (with_reducible assumption)
    | (with_reducible apply State.engineBytes_ok)
    | extract_lets
    | (with_reducible intro _)
    | (split)

theorem State.postCount_ok (s : State) (clus : Nat) (c : CopyCmd) (d : Dest) (bytes : Nat) (toExpected : Bool) (cause : Nat) (h_s : State.ok s) :
    State.ok (State.postCount s clus c d bytes toExpected cause) := by
  unfold State.postCount
  try extract_lets
  repeat' first
    | (with_reducible assumption)
    | (with_reducible apply State.modCluster_ok)
    | extract_lets
    | (with_reducible intro _)
    | (split)

theorem State.setCopy_ok (s : State) (clus : Nat) (c : CopyCmd) (h_s : State.ok s) :
    State.ok (State.setCopy s clus c) := by
  unfold State.setCopy
  try extract_lets
  repeat' first
    | (with_reducible assumption)
    | (with_reducible apply State.modCluster_ok)

theorem State.stampReqs_ok (s : State) (clus : Nat) (h_s : State.ok s) :
    State.ok (State.stampReqs s clus) := by
  unfold State.stampReqs
  try extract_lets
  repeat' first
    | (with_reducible assumption)
    | (with_reducible apply State.modCluster_ok)
    | extract_lets
    | (with_reducible intro _)
    | (split)

theorem State.dropCopy_ok (s : State) (clus num : Nat) (h_s : State.ok s) :
    State.ok (State.dropCopy s clus num) := by
  unfold State.dropCopy
  try extract_lets
  repeat' first
    | (with_reducible assumption)
    | (with_reducible apply State.modCluster_ok)
    | (with_reducible apply Did.settle_ok)
    | (with_reducible apply State.stampReqs_ok)

theorem State.failDest_ok (s : State) (clus : Nat) (c : CopyCmd) (w : Window) (cause : Nat) (d : Dest) (h_s : State.ok s) :
    State.ok (State.failDest s clus c w cause d) := by
  unfold State.failDest
  try extract_lets
  repeat' first
    | (with_reducible assumption)
    | (with_reducible apply foldState_ok)
    | (with_reducible apply State.poisonLine_ok)
    | (with_reducible apply State.postCount_ok)
    | (with_reducible apply filter_wf)
    | extract_lets
    | (with_reducible intro _)
    | (split)
    | ((conv => arg 1; with_reducible whnf); split)

theorem State.failCopy_ok (s : State) (clus : Nat) (c : CopyCmd) (w : Option Window) (cause : Nat) (h_s : State.ok s) :
    State.ok (State.failCopy s clus c w cause) := by
  unfold State.failCopy
  try extract_lets
  repeat' first
    | (with_reducible assumption)
    | (with_reducible apply foldState_ok)
    | (with_reducible apply State.failDest_ok)
    | (with_reducible apply State.postCount_ok)
    | (with_reducible apply State.dropCopy_ok)
    | (with_reducible apply filter_wf)
    | extract_lets
    | (with_reducible intro _)
    | (split)
    | ((conv => arg 1; with_reducible whnf); split)

theorem State.keepCopy_ok (s : State) (clus : Nat) (c : CopyCmd) (w : Window) (h_s : State.ok s) :
    State.ok (State.keepCopy s clus c w) := by
  unfold State.keepCopy
  try extract_lets
  repeat' first
    | (with_reducible assumption)
    | (with_reducible apply State.dropCopy_ok)
    | (with_reducible apply State.setCopy_ok)
    | extract_lets
    | (with_reducible intro _)
    | (split)

/-! ### OnChip -/

theorem State.spotWrite_ok (s : State) (ctx : Option Nat) (x : Spot) (b : Byte) (h_s : State.ok s) :
    ∀ u, (State.spotWrite s ctx x b) = .ok u → State.ok u := by
  unfold State.spotWrite
  try extract_lets
  repeat' first
    | (with_reducible assumption)
    | (with_reducible apply State.setWave_ok)
    | (with_reducible apply AtomAcc.lane_ok)
    | (with_reducible apply State.spadStore_ok)
    | (with_reducible apply State.modCluster_ok)
    | (with_reducible apply Did.ok_done)
    | (with_reducible apply Did.ok_goto)
    | (with_reducible apply Did.ok_trap)
    | (with_reducible apply Did.ok_wait)
    | (with_reducible apply Did.ok_park)
    | (with_reducible apply Did.ok_left)
    | (refine got_ok ?_)
    | (refine got_bad)
    | (refine got_wait)
    | extract_lets
    | (split)

theorem State.clearWhole_ok (s : State) (spots : List (Nat × Nat)) (h_s : State.ok s) :
    State.ok (State.clearWhole s spots) := by
  unfold State.clearWhole
  try extract_lets
  repeat' first
    | (with_reducible assumption)
    | (with_reducible apply foldState_ok)
    | (with_reducible apply State.modCore_ok)
    | extract_lets
    | (with_reducible intro _)
    | (split)

theorem State.spotMerge_ok (s : State) (ctx : Option Nat) (x : Spot) (b m : Byte) (h_s : State.ok s) :
    ∀ u, (State.spotMerge s ctx x b m) = .ok u → State.ok u := by
  unfold State.spotMerge
  try extract_lets
  repeat' first
    | (with_reducible assumption)
    | (with_reducible refine State.spotWrite_ok _ _ _ _ ?_)
    | (with_reducible refine State.spotWrite_ok _ _ _ _ ?_ _ (by assumption))
    | (with_reducible apply Did.ok_done)
    | (with_reducible apply Did.ok_goto)
    | (with_reducible apply Did.ok_trap)
    | (with_reducible apply Did.ok_wait)
    | (with_reducible apply Did.ok_park)
    | (with_reducible apply Did.ok_left)
    | (refine got_ok ?_)
    | (refine got_bad)
    | (refine got_wait)
    | extract_lets
    | (split)

theorem State.engineDest_ok (s : State) (ctx die : Nat) (clus : Option Nat) (va : Nat) (h_s : State.ok s) :
    State.ok ((State.engineDest s ctx die clus va)).1 := by
  unfold State.engineDest
  try extract_lets
  repeat' first
    | (with_reducible assumption)
    | (with_reducible apply State.translate_ok)

/-! ### Copies -/

theorem postCopy_ok (t : State) (w : Wave) (commit : Bool) (kind : CopyKind) (bar : Option (Nat × Nat)) (sa : Nat) (h_t : State.ok t) :
    Did.ok (postCopy t w commit kind bar sa) := by
  unfold postCopy
  try extract_lets
  repeat' first
    | (with_reducible assumption)
    | (with_reducible apply State.commit_ok)
    | (with_reducible apply State.ordered_ok)
    | (with_reducible apply State.modCluster_ok)
    | (with_reducible apply Did.ok_done)
    | (with_reducible apply Did.ok_goto)
    | (with_reducible apply Did.ok_trap)
    | (with_reducible apply Did.ok_wait)
    | (with_reducible apply Did.ok_park)
    | (with_reducible apply Did.ok_left)
    | extract_lets
    | (with_reducible intro _)
    | (split)
    | ((conv => arg 1; with_reducible whnf); split)
    | ((conv => arg 1; arg 1; with_reducible whnf); split)
    | ((conv => arg 1; with_reducible whnf); clear_value *; split)
    | ((conv => arg 1; arg 1; with_reducible whnf); clear_value *; split)
    | (clear_value *; split)
    | ((conv => arg 1; with_reducible whnf); with_reducible apply State.ok_mk)
    | (with_reducible apply State.ok_mk)
    | (with_reducible apply State.ok_mem)
    | (with_reducible apply State.ok_scm)
    | (with_reducible apply State.ok_versions)
    | (with_reducible apply State.ok_regs)

theorem refuseCommand_ok (t : State) (instr : Instr) (cause info : Nat) (h_t : State.ok t) :
    Did.ok (refuseCommand t instr cause info) := by
  unfold refuseCommand
  try extract_lets
  repeat' first
    | (with_reducible assumption)
    | (with_reducible apply Did.orTrap_ok)
    | (with_reducible apply Did.ok_done)
    | (with_reducible apply Did.ok_goto)
    | (with_reducible apply Did.ok_trap)
    | (with_reducible apply Did.ok_wait)
    | (with_reducible apply Did.ok_park)
    | (with_reducible apply Did.ok_left)

theorem execCpy_ok (q : Sched) (sa : SReg) (s : State) (h_s : State.ok s) :
    keeps (execCpy q sa s) := by
  unfold execCpy
  refine issueWord_ok _ _ _ _ h_s fun t w ht => ?_
  extract_lets i dst kind waves stop place
  have hs : ∀ a b, (stop a b).ok := fun a b => refuseCommand_ok _ _ _ _ ht
  clear_value stop
  split
  · exact hs _ _
  · split
    · exact hs _ _
    · clear_value place
      split
      · exact hs _ _
      · split
        · exact postCopy_ok _ _ _ _ _ _ ht
        · split
          · exact hs _ _
          · exact postCopy_ok _ _ _ _ _ _ ht

theorem execCpym_ok (q : Sched) (sa sm : SReg) (s : State) (h_s : State.ok s) :
    keeps (execCpym q sa sm s) := by
  unfold execCpym
  try extract_lets
  repeat' first
    | (with_reducible assumption)
    | (with_reducible apply issueWord_ok)
    | (with_reducible apply refuseCommand_ok)
    | (with_reducible apply postCopy_ok)
    | (with_reducible apply Did.ok_done)
    | (with_reducible apply Did.ok_goto)
    | (with_reducible apply Did.ok_trap)
    | (with_reducible apply Did.ok_wait)
    | (with_reducible apply Did.ok_park)
    | (with_reducible apply Did.ok_left)
    | (with_reducible apply keeps_next)
    | (with_reducible apply keeps_fault)
    | (with_reducible apply keeps_refused)
    | extract_lets
    | (with_reducible intro _)
    | (split)

theorem State.openLine_ok (s : State) (d : Dest) (line covered : Nat) (h_s : State.ok s) :
    State.ok (State.openLine s d line covered) := by
  unfold State.openLine
  try extract_lets
  repeat' first
    | (with_reducible assumption)
    | (with_reducible apply State.modCore_ok)
    | extract_lets
    | (with_reducible intro _)
    | (split)

theorem State.openLines_ok (s : State) (clus : Nat) (c : CopyCmd) (w : Window) (h_s : State.ok s) :
    State.ok (State.openLines s clus c w) := by
  unfold State.openLines
  try extract_lets
  repeat' first
    | (with_reducible assumption)
    | (with_reducible apply foldState_ok)
    | (with_reducible apply State.openLine_ok)
    | (with_reducible apply filter_wf)
    | extract_lets
    | (with_reducible intro _)
    | (split)

theorem State.startCopy_ok (s : State) (clus team : Nat) (c : CopyCmd) (layout : CopyCmd → List Byte → Layout) (h_s : State.ok s) :
    State.ok (State.startCopy s clus team c layout) := by
  unfold State.startCopy
  try extract_lets
  repeat' first
    | (with_reducible assumption)
    | (with_reducible apply State.readLayout_ok)
    | (with_reducible apply State.modCluster_ok)
    | (with_reducible apply State.failCopy_ok)
    | (with_reducible apply State.openLines_ok)
    | (with_reducible apply State.setCopy_ok)
    | extract_lets
    | (with_reducible intro _)
    | (split)

theorem execCopyCommandStart_ok (clus team : Nat) (s : State) (h_s : State.ok s) :
    keeps (execCopyCommandStart clus team s) := by
  unfold execCopyCommandStart
  try extract_lets
  repeat' first
    | (with_reducible assumption)
    | (with_reducible apply settleEvent_ok)
    | (with_reducible apply State.startCopy_ok)
    | (with_reducible apply Did.ok_done)
    | (with_reducible apply Did.ok_goto)
    | (with_reducible apply Did.ok_trap)
    | (with_reducible apply Did.ok_wait)
    | (with_reducible apply Did.ok_park)
    | (with_reducible apply Did.ok_left)
    | (with_reducible apply keeps_next)
    | (with_reducible apply keeps_fault)
    | (with_reducible apply keeps_refused)
    | extract_lets
    | (with_reducible intro _)
    | (split)

theorem State.readImage_ok (s : State) (clus : Nat) (c : CopyCmd) (col : Option Nat) (ps : List (Nat × Piece)) (h_s : State.ok s) :
    State.ok ((State.readImage s clus c col ps)).1 := by
  unfold State.readImage
  try extract_lets
  repeat' first
    | (with_reducible assumption)
    | (with_reducible apply State.readPieces_ok)
    | (with_reducible apply State.enginePlace_ok)
    | (with_reducible apply foldState_ok)
    | (with_reducible apply State.combRead_ok)
    | (with_reducible apply filter_wf)
    | extract_lets
    | (with_reducible intro _)

theorem State.landLine_ok (s : State) (clus : Nat) (c : CopyCmd) (w : Window) (d : Dest) (p : Nat) (bytes : List (Nat × Byte)) (h_s : State.ok s) :
    State.ok (State.landLine s clus c w d p bytes) := by
  unfold State.landLine
  try extract_lets
  repeat' first
    | (with_reducible assumption)
    | (with_reducible apply State.failDest_ok)
    | (with_reducible apply State.keepCopy_ok)
    | (with_reducible apply State.failCopy_ok)
    | (with_reducible apply foldState_ok)
    | (with_reducible apply State.spadStore_ok)
    | (with_reducible apply State.modCore_ok)
    | (with_reducible apply State.linePresent_ok)
    | (with_reducible apply State.postCount_ok)
    | (with_reducible apply Did.ok_done)
    | (with_reducible apply Did.ok_goto)
    | (with_reducible apply Did.ok_trap)
    | (with_reducible apply Did.ok_wait)
    | (with_reducible apply Did.ok_park)
    | (with_reducible apply Did.ok_left)
    | extract_lets
    | (with_reducible intro _)
    | (split)
    | ((conv => arg 1; with_reducible whnf); split)

theorem State.landRegisters_ok (s : State) (clus : Nat) (c : CopyCmd) (w : Window) (d : Dest) (p wave first : Nat) (bytes : List (Nat × Byte)) (h_s : State.ok s) :
    State.ok (State.landRegisters s clus c w d p wave first bytes) := by
  unfold State.landRegisters
  try extract_lets
  repeat' first
    | (with_reducible assumption)
    | (with_reducible apply State.wave_ok)
    | (with_reducible apply State.setWave_ok)
    | (with_reducible apply State.postCount_ok)
    | (with_reducible apply State.keepCopy_ok)
    | (with_reducible apply Did.ok_done)
    | (with_reducible apply Did.ok_goto)
    | (with_reducible apply Did.ok_trap)
    | (with_reducible apply Did.ok_wait)
    | (with_reducible apply Did.ok_park)
    | (with_reducible apply Did.ok_left)
    | extract_lets
    | (with_reducible intro _)
    | (split)
    | ((conv => arg 1; with_reducible whnf); split)
    | ((conv => arg 1; arg 1; with_reducible whnf); split)
    | ((conv => arg 1; with_reducible whnf); clear_value *; split)
    | ((conv => arg 1; arg 1; with_reducible whnf); clear_value *; split)

theorem State.tensorCells_ok (s : State) (clus : Nat) (c : CopyCmd) (w : Window) (d : Dest) (p : Nat) (a0 : List Nat) (a1 : List Host.Cell) (h_s : State.ok s) :
    State.ok ((State.tensorCells s clus c w d p a0 a1)).1 := by
  induction a0 generalizing s clus c w d p a1 with
  | nil =>
    unfold State.tensorCells
    try extract_lets
    repeat' first
      | (with_reducible assumption)
  | cons c_ l_ ih =>
    unfold State.tensorCells
    try extract_lets
    repeat' first
      | (with_reducible assumption)
      | (with_reducible apply ih)
      | (with_reducible apply State.engineDest_ok)
      | (with_reducible refine State.spotMerge_ok _ _ _ _ _ ?_)
      | (with_reducible refine State.spotMerge_ok _ _ _ _ _ ?_ _ (by assumption))
      | (with_reducible apply Did.ok_done)
      | (with_reducible apply Did.ok_goto)
      | (with_reducible apply Did.ok_trap)
      | (with_reducible apply Did.ok_wait)
      | (with_reducible apply Did.ok_park)
      | (with_reducible apply Did.ok_left)
      | (with_reducible apply filter_wf)
      | extract_lets
      | (with_reducible intro _)
      | (split)

theorem State.landTensor_ok (s : State) (clus : Nat) (c : CopyCmd) (w : Window) (d : Dest) (p : Nat) (h_s : State.ok s) :
    State.ok (State.landTensor s clus c w d p) := by
  unfold State.landTensor
  try extract_lets
  repeat' first
    | (with_reducible assumption)
    | (with_reducible apply State.failCopy_ok)
    | (with_reducible apply State.tensorCells_ok)
    | (with_reducible apply State.store_ok)
    | (with_reducible apply State.clearWhole_ok)
    | (with_reducible apply State.postCount_ok)
    | (with_reducible apply State.keepCopy_ok)
    | (with_reducible apply Did.ok_done)
    | (with_reducible apply Did.ok_goto)
    | (with_reducible apply Did.ok_trap)
    | (with_reducible apply Did.ok_wait)
    | (with_reducible apply Did.ok_park)
    | (with_reducible apply Did.ok_left)
    | extract_lets
    | (with_reducible intro _)
    | (split)
    | ((conv => arg 1; with_reducible whnf); split)

theorem State.markSlot_ok (s : State) (clus slot : Nat) (f : Bool) (h_s : State.ok s) :
    State.ok (State.markSlot s clus slot f) := by
  unfold State.markSlot
  try extract_lets
  repeat' first
    | (with_reducible assumption)
    | (with_reducible apply State.modCluster_ok)

theorem State.landRow_ok (s : State) (clus : Nat) (c : CopyCmd) (w : Window) (d : Dest) (slot r : Nat) (h_s : State.ok s) :
    State.ok (State.landRow s clus c w d slot r) := by
  unfold State.landRow
  try extract_lets
  repeat' first
    | (with_reducible assumption)
    | (with_reducible apply State.failCopy_ok)
    | (with_reducible apply State.readImage_ok)
    | (with_reducible apply State.markSlot_ok)
    | (with_reducible apply State.modCluster_ok)
    | (with_reducible apply State.postCount_ok)
    | (with_reducible apply State.keepCopy_ok)
    | (with_reducible apply foldl_ok)
    | (with_reducible apply Did.ok_done)
    | (with_reducible apply Did.ok_goto)
    | (with_reducible apply Did.ok_trap)
    | (with_reducible apply Did.ok_wait)
    | (with_reducible apply Did.ok_park)
    | (with_reducible apply Did.ok_left)
    | (with_reducible apply foldl_set_wf)
    | extract_lets
    | (with_reducible intro _)
    | (split)

theorem State.copyWork_ok (s : State) (clus : Nat) (c : CopyCmd) (h_s : State.ok s) :
    State.ok (State.copyWork s clus c) := by
  unfold State.copyWork
  try extract_lets
  repeat' first
    | (with_reducible assumption)
    | (with_reducible apply State.addActivity_ok)
    | extract_lets
    | (with_reducible intro _)
    | (split)
    | (with_reducible apply State.ok_mk)
    | (with_reducible apply State.ok_mem)
    | (with_reducible apply State.ok_scm)
    | (with_reducible apply State.ok_versions)
    | (with_reducible apply State.ok_regs)

theorem execCopyPortionWrite_ok (clus team portion : Nat) (s : State) (h_s : State.ok s) :
    keeps (execCopyPortionWrite clus team portion s) := by
  unfold execCopyPortionWrite
  try extract_lets
  repeat' first
    | (with_reducible assumption)
    | (with_reducible apply settleEvent_ok)
    | (with_reducible apply State.copyWork_ok)
    | (with_reducible apply State.landTensor_ok)
    | (with_reducible apply State.landRow_ok)
    | (with_reducible apply State.wave_ok)
    | (with_reducible apply State.readImage_ok)
    | (with_reducible apply State.failCopy_ok)
    | (with_reducible apply State.landRegisters_ok)
    | (with_reducible apply State.landLine_ok)
    | (with_reducible apply Did.ok_done)
    | (with_reducible apply Did.ok_goto)
    | (with_reducible apply Did.ok_trap)
    | (with_reducible apply Did.ok_wait)
    | (with_reducible apply Did.ok_park)
    | (with_reducible apply Did.ok_left)
    | (with_reducible apply keeps_next)
    | (with_reducible apply keeps_fault)
    | (with_reducible apply keeps_refused)
    | extract_lets
    | (with_reducible intro _)
    | (split)

/-! ### Matrix -/

/-- The state that a write leaves keeps the form. -/
def Wrote.kept : Wrote → Prop
  | .ok s => s.ok
  | .wait => True
  | .fault s _ => s.ok

theorem Wrote.kept_ok {s : State} (h : s.ok) : (Wrote.ok s).kept := h
theorem Wrote.kept_wait : Wrote.wait.kept := trivial
theorem Wrote.kept_fault {s : State} {c : Nat} (h : s.ok) : (Wrote.fault s c).kept := h
theorem Wrote.of_ok {o : Wrote} {s : State} (h : o.kept) (e : o = .ok s) : s.ok := by subst e; exact h
theorem Wrote.of_fault {o : Wrote} {s : State} {c : Nat} (h : o.kept) (e : o = .fault s c) : s.ok := by subst e; exact h

theorem recordAt_ok (t : State) (w : Wave) (instr : Instr) (sa : SReg) (n : Nat) (body : List Byte → Did) (h_t : State.ok t) (h_body : ∀ (body_0 : List Byte), Did.ok (body body_0)) :
    Did.ok (recordAt t w instr sa n body) := by
  unfold recordAt
  try extract_lets
  repeat' first
    | (with_reducible assumption)
    | (with_reducible apply h_body)
    | (with_reducible apply spadObject_ok)
    | (with_reducible apply Did.ok_done)
    | (with_reducible apply Did.ok_goto)
    | (with_reducible apply Did.ok_trap)
    | (with_reducible apply Did.ok_wait)
    | (with_reducible apply Did.ok_park)
    | (with_reducible apply Did.ok_left)
    | extract_lets
    | (with_reducible intro _)

theorem slotFault_ok (t : State) (instr : Instr) (h_t : State.ok t) :
    Did.ok (slotFault t instr) := by
  unfold slotFault
  try extract_lets
  repeat' first
    | (with_reducible assumption)
    | (with_reducible apply Issue.raiseAll_ok)

theorem State.beginFill_ok (s : State) (w : Wave) (h_s : State.ok s) :
    State.ok (State.beginFill s w) := by
  unfold State.beginFill
  try extract_lets
  repeat' first
    | (with_reducible assumption)
    | (with_reducible apply State.wave_ok)
    | (with_reducible apply State.modCluster_ok)

theorem execOclaim_ok (q : Sched) (sa : SReg) (s : State) (h_s : State.ok s) :
    keeps (execOclaim q sa s) := by
  unfold execOclaim
  try extract_lets
  repeat' first
    | (with_reducible assumption)
    | (with_reducible apply issueWord_ok)
    | (with_reducible apply recordAt_ok)
    | (with_reducible apply slotFault_ok)
    | (with_reducible apply State.putNow_ok)
    | (with_reducible apply State.modCluster_ok)
    | (with_reducible apply State.beginFill_ok)
    | (with_reducible apply foldl_ok)
    | (with_reducible apply Did.ok_done)
    | (with_reducible apply Did.ok_goto)
    | (with_reducible apply Did.ok_trap)
    | (with_reducible apply Did.ok_wait)
    | (with_reducible apply Did.ok_park)
    | (with_reducible apply Did.ok_left)
    | (with_reducible apply keeps_next)
    | (with_reducible apply keeps_fault)
    | (with_reducible apply keeps_refused)
    | (with_reducible apply foldl_set_wf)
    | extract_lets
    | (with_reducible intro _)
    | (split)

theorem execOrel_ok (q : Sched) (sa : SReg) (s : State) (h_s : State.ok s) :
    keeps (execOrel q sa s) := by
  unfold execOrel
  try extract_lets
  repeat' first
    | (with_reducible assumption)
    | (with_reducible apply issueWord_ok)
    | (with_reducible apply slotFault_ok)
    | (with_reducible apply State.modCluster_ok)
    | (with_reducible apply Did.ok_done)
    | (with_reducible apply Did.ok_goto)
    | (with_reducible apply Did.ok_trap)
    | (with_reducible apply Did.ok_wait)
    | (with_reducible apply Did.ok_park)
    | (with_reducible apply Did.ok_left)
    | (with_reducible apply keeps_next)
    | (with_reducible apply keeps_fault)
    | (with_reducible apply keeps_refused)
    | extract_lets
    | (with_reducible intro _)
    | (split)

theorem execAclaim_ok (q : Sched) (sa : SReg) (s : State) (h_s : State.ok s) :
    keeps (execAclaim q sa s) := by
  unfold execAclaim
  try extract_lets
  repeat' first
    | (with_reducible assumption)
    | (with_reducible apply issueWord_ok)
    | (with_reducible apply slotFault_ok)
    | (with_reducible apply State.putNow_ok)
    | (with_reducible apply State.modCluster_ok)
    | (with_reducible apply State.beginFill_ok)
    | (with_reducible apply foldl_ok)
    | (with_reducible apply Did.ok_done)
    | (with_reducible apply Did.ok_goto)
    | (with_reducible apply Did.ok_trap)
    | (with_reducible apply Did.ok_wait)
    | (with_reducible apply Did.ok_park)
    | (with_reducible apply Did.ok_left)
    | (with_reducible apply keeps_next)
    | (with_reducible apply keeps_fault)
    | (with_reducible apply keeps_refused)
    | (with_reducible apply foldl_set_wf)
    | extract_lets
    | (with_reducible intro _)
    | (split)

theorem execArel_ok (q : Sched) (sa : SReg) (s : State) (h_s : State.ok s) :
    keeps (execArel q sa s) := by
  unfold execArel
  try extract_lets
  repeat' first
    | (with_reducible assumption)
    | (with_reducible apply issueWord_ok)
    | (with_reducible apply slotFault_ok)
    | (with_reducible apply State.modCluster_ok)
    | (with_reducible apply Did.ok_done)
    | (with_reducible apply Did.ok_goto)
    | (with_reducible apply Did.ok_trap)
    | (with_reducible apply Did.ok_wait)
    | (with_reducible apply Did.ok_park)
    | (with_reducible apply Did.ok_left)
    | (with_reducible apply keeps_next)
    | (with_reducible apply keeps_fault)
    | (with_reducible apply keeps_refused)
    | extract_lets
    | (with_reducible intro _)
    | (split)

theorem State.modTask_ok (s : State) (task : Nat) (f : Wave → Wave) (h_s : State.ok s) :
    State.ok (State.modTask s task f) := by
  unfold State.modTask
  try extract_lets
  repeat' first
    | (with_reducible assumption)
    | (with_reducible apply State.wave_ok)
    | extract_lets
    | (with_reducible intro _)
    | ((conv => arg 1; with_reducible whnf); first | (with_reducible apply State.wave_ok))
    | (split)
    | ((conv => arg 1; with_reducible whnf); split)
    | ((conv => arg 1; arg 1; with_reducible whnf); split)
    | ((conv => arg 1; with_reducible whnf); clear_value *; split)
    | ((conv => arg 1; arg 1; with_reducible whnf); clear_value *; split)
    | (clear_value *; split)
    | ((conv => arg 1; with_reducible whnf); with_reducible apply State.ok_mk)
    | (with_reducible apply State.ok_mk)
    | (with_reducible apply State.ok_mem)
    | (with_reducible apply State.ok_scm)
    | (with_reducible apply State.ok_versions)
    | (with_reducible apply State.ok_regs)

theorem execClaimZeroFillDone_ok (slot : Nat) (s : State) (h_s : State.ok s) :
    keeps (execClaimZeroFillDone slot s) := by
  unfold execClaimZeroFillDone
  try extract_lets
  repeat' first
    | (with_reducible assumption)
    | (with_reducible apply State.modCluster_ok)
    | (with_reducible apply State.modTask_ok)
    | (with_reducible apply Did.ok_done)
    | (with_reducible apply Did.ok_goto)
    | (with_reducible apply Did.ok_trap)
    | (with_reducible apply Did.ok_wait)
    | (with_reducible apply Did.ok_park)
    | (with_reducible apply Did.ok_left)
    | (with_reducible apply keeps_next)
    | (with_reducible apply keeps_fault)
    | (with_reducible apply keeps_refused)
    | extract_lets
    | (with_reducible intro _)
    | (split)

theorem execOload_ok (q : Sched) (sa : SReg) (s : State) (h_s : State.ok s) :
    keeps (execOload q sa s) := by
  unfold execOload
  try extract_lets
  repeat' first
    | (with_reducible assumption)
    | (with_reducible apply issueWord_ok)
    | (with_reducible apply slotFault_ok)
    | (with_reducible apply refuseCommand_ok)
    | (with_reducible apply postCopy_ok)
    | (with_reducible apply Did.ok_done)
    | (with_reducible apply Did.ok_goto)
    | (with_reducible apply Did.ok_trap)
    | (with_reducible apply Did.ok_wait)
    | (with_reducible apply Did.ok_park)
    | (with_reducible apply Did.ok_left)
    | (with_reducible apply keeps_next)
    | (with_reducible apply keeps_fault)
    | (with_reducible apply keeps_refused)
    | extract_lets
    | (with_reducible intro _)
    | (split)

theorem State.startOload_ok (s : State) (clus team : Nat) (c : CopyCmd) (slot : Nat) (x : OSlot) (h_s : State.ok s) :
    State.ok (State.startOload s clus team c slot x) := by
  unfold State.startOload
  try extract_lets
  repeat' first
    | (with_reducible assumption)
    | (with_reducible apply State.readLayout_ok)
    | (with_reducible apply State.modCluster_ok)
    | (with_reducible apply State.markSlot_ok)
    | (with_reducible apply State.failCopy_ok)
    | (with_reducible apply State.setCopy_ok)
    | extract_lets
    | (with_reducible intro _)
    | (split)

theorem execOloadStart_ok (clus team : Nat) (s : State) (h_s : State.ok s) :
    keeps (execOloadStart clus team s) := by
  unfold execOloadStart
  try extract_lets
  repeat' first
    | (with_reducible assumption)
    | (with_reducible apply settleEvent_ok)
    | (with_reducible apply State.startOload_ok)
    | (with_reducible apply Did.ok_done)
    | (with_reducible apply Did.ok_goto)
    | (with_reducible apply Did.ok_trap)
    | (with_reducible apply Did.ok_wait)
    | (with_reducible apply Did.ok_park)
    | (with_reducible apply Did.ok_left)
    | (with_reducible apply keeps_next)
    | (with_reducible apply keeps_fault)
    | (with_reducible apply keeps_refused)
    | extract_lets
    | (with_reducible intro _)
    | (split)

theorem postReq_ok (t : State) (w : Wave) (kind : ReqKind) (h_t : State.ok t) :
    Did.ok (postReq t w kind) := by
  unfold postReq
  try extract_lets
  repeat' first
    | (with_reducible assumption)
    | (with_reducible apply State.ordered_ok)
    | (with_reducible apply State.modCluster_ok)
    | (with_reducible apply State.stampReqs_ok)
    | (with_reducible apply Did.ok_done)
    | (with_reducible apply Did.ok_goto)
    | (with_reducible apply Did.ok_trap)
    | (with_reducible apply Did.ok_wait)
    | (with_reducible apply Did.ok_park)
    | (with_reducible apply Did.ok_left)
    | extract_lets
    | (with_reducible intro _)
    | (split)
    | ((conv => arg 1; with_reducible whnf); split)
    | ((conv => arg 1; arg 1; with_reducible whnf); split)
    | ((conv => arg 1; with_reducible whnf); clear_value *; split)
    | ((conv => arg 1; arg 1; with_reducible whnf); clear_value *; split)
    | (clear_value *; split)
    | ((conv => arg 1; with_reducible whnf); with_reducible apply State.ok_mk)
    | (with_reducible apply State.ok_mk)
    | (with_reducible apply State.ok_mem)
    | (with_reducible apply State.ok_scm)
    | (with_reducible apply State.ok_versions)
    | (with_reducible apply State.ok_regs)

theorem execMma_ok (q : Sched) (sa : SReg) (s : State) (h_s : State.ok s) :
    keeps (execMma q sa s) := by
  unfold execMma
  try extract_lets
  repeat' first
    | (with_reducible assumption)
    | (with_reducible apply issueWord_ok)
    | (with_reducible apply recordAt_ok)
    | (with_reducible apply slotFault_ok)
    | (with_reducible apply postReq_ok)
    | (with_reducible apply Did.ok_done)
    | (with_reducible apply Did.ok_goto)
    | (with_reducible apply Did.ok_trap)
    | (with_reducible apply Did.ok_wait)
    | (with_reducible apply Did.ok_park)
    | (with_reducible apply Did.ok_left)
    | (with_reducible apply keeps_next)
    | (with_reducible apply keeps_fault)
    | (with_reducible apply keeps_refused)
    | extract_lets
    | (with_reducible intro _)
    | ((conv => arg 1; with_reducible whnf); first | (with_reducible apply issueWord_ok) | (with_reducible apply recordAt_ok) | (with_reducible apply slotFault_ok) | (with_reducible apply postReq_ok) | (with_reducible apply Did.ok_done) | (with_reducible apply Did.ok_goto) | (with_reducible apply Did.ok_trap) | (with_reducible apply Did.ok_wait) | (with_reducible apply Did.ok_park) | (with_reducible apply Did.ok_left) | (with_reducible apply keeps_next) | (with_reducible apply keeps_fault) | (with_reducible apply keeps_refused))
    | (split)

theorem execMzero_ok (q : Sched) (tile : BitVec 4) (s : State) (h_s : State.ok s) :
    keeps (execMzero q tile s) := by
  unfold execMzero
  try extract_lets
  repeat' first
    | (with_reducible assumption)
    | (with_reducible apply issueWord_ok)
    | (with_reducible apply postReq_ok)
    | (with_reducible apply slotFault_ok)
    | (with_reducible apply Did.ok_done)
    | (with_reducible apply Did.ok_goto)
    | (with_reducible apply Did.ok_trap)
    | (with_reducible apply Did.ok_wait)
    | (with_reducible apply Did.ok_park)
    | (with_reducible apply Did.ok_left)
    | (with_reducible apply keeps_next)
    | (with_reducible apply keeps_fault)
    | (with_reducible apply keeps_refused)
    | extract_lets
    | (with_reducible intro _)
    | (split)

theorem execMwait_ok (q : Sched) (tile : BitVec 4) (s : State) (h_s : State.ok s) :
    keeps (execMwait q tile s) := by
  unfold execMwait
  try extract_lets
  repeat' first
    | (with_reducible assumption)
    | (with_reducible apply issueWord_ok)
    | (with_reducible apply State.wave_ok)
    | (with_reducible apply slotFault_ok)
    | (with_reducible apply Issue.raiseAll_ok)
    | (with_reducible apply State.modCluster_ok)
    | (with_reducible apply Did.ok_done)
    | (with_reducible apply Did.ok_goto)
    | (with_reducible apply Did.ok_trap)
    | (with_reducible apply Did.ok_wait)
    | (with_reducible apply Did.ok_park)
    | (with_reducible apply Did.ok_left)
    | (with_reducible apply keeps_next)
    | (with_reducible apply keeps_fault)
    | (with_reducible apply keeps_refused)
    | extract_lets
    | (with_reducible intro _)
    | (split)

theorem execMstore_ok (q : Sched) (sa : SReg) (s : State) (h_s : State.ok s) :
    keeps (execMstore q sa s) := by
  unfold execMstore
  refine issueWord_ok _ _ _ _ h_s fun t w ht => recordAt_ok _ _ _ _ _ _ ht fun b => ?_
  extract_lets i ctl scale spad stop bar
  have hs : ∀ a b, (stop a b).ok := fun a b => refuseCommand_ok _ _ _ _ ht
  clear_value stop
  split
  · exact hs _ _
  · extract_lets refused
    clear_value bar
    split
    · exact hs _ _
    · split
      · exact hs _ _
      · split
        · exact hs _ _
        · split
          · exact hs _ _
          · exact postReq_ok _ _ _ ht

theorem execMatrixGrant_ok (clus : Nat) (port : Bool) (s : State) (h_s : State.ok s) :
    keeps (execMatrixGrant clus port s) := by
  unfold execMatrixGrant
  try extract_lets
  repeat' first
    | (with_reducible assumption)
    | (with_reducible apply State.stampReqs_ok)
    | (with_reducible apply State.modCluster_ok)
    | (with_reducible apply Did.ok_done)
    | (with_reducible apply Did.ok_goto)
    | (with_reducible apply Did.ok_trap)
    | (with_reducible apply Did.ok_wait)
    | (with_reducible apply Did.ok_park)
    | (with_reducible apply Did.ok_left)
    | (with_reducible apply keeps_next)
    | (with_reducible apply keeps_fault)
    | (with_reducible apply keeps_refused)
    | (with_reducible apply filter_wf)
    | extract_lets
    | (with_reducible intro _)
    | (split)

theorem State.dropReq_ok (s : State) (clus num : Nat) (h_s : State.ok s) :
    State.ok (State.dropReq s clus num) := by
  unfold State.dropReq
  try extract_lets
  repeat' first
    | (with_reducible assumption)
    | (with_reducible apply State.modCluster_ok)
    | (with_reducible apply Did.settle_ok)
    | (with_reducible apply State.stampReqs_ok)

theorem State.faultTile_ok (s : State) (clus tile cause : Nat) (h_s : State.ok s) :
    State.ok (State.faultTile s clus tile cause) := by
  unfold State.faultTile
  try extract_lets
  repeat' first
    | (with_reducible assumption)
    | (with_reducible apply State.modCluster_ok)

theorem State.performPass_ok (s : State) (clus : Nat) (r : Req) (acc a b : Nat) (zacc : Bool) (kcnt : Nat) (h_s : State.ok s) :
    State.ok (State.performPass s clus r acc a b zacc kcnt) := by
  unfold State.performPass
  try extract_lets
  repeat' first
    | (with_reducible assumption)
    | (with_reducible apply State.faultTile_ok)
    | (with_reducible apply State.modCluster_ok)
    | (with_reducible apply State.modTask_ok)
    | (with_reducible apply State.addActivity_ok)
    | extract_lets
    | (with_reducible intro _)
    | (split)

theorem execPassComplete_ok (clus : Nat) (s : State) (h_s : State.ok s) :
    keeps (execPassComplete clus s) := by
  unfold execPassComplete
  try extract_lets
  repeat' first
    | (with_reducible assumption)
    | (with_reducible apply State.performPass_ok)
    | (with_reducible apply State.dropReq_ok)
    | (with_reducible apply Did.ok_done)
    | (with_reducible apply Did.ok_goto)
    | (with_reducible apply Did.ok_trap)
    | (with_reducible apply Did.ok_wait)
    | (with_reducible apply Did.ok_park)
    | (with_reducible apply Did.ok_left)
    | (with_reducible apply keeps_next)
    | (with_reducible apply keeps_fault)
    | (with_reducible apply keeps_refused)
    | extract_lets
    | (with_reducible intro _)
    | (split)

theorem execMzeroComplete_ok (clus : Nat) (s : State) (h_s : State.ok s) :
    keeps (execMzeroComplete clus s) := by
  unfold execMzeroComplete
  try extract_lets
  repeat' first
    | (with_reducible assumption)
    | (with_reducible apply State.modCluster_ok)
    | (with_reducible apply State.dropReq_ok)
    | (with_reducible apply Did.ok_done)
    | (with_reducible apply Did.ok_goto)
    | (with_reducible apply Did.ok_trap)
    | (with_reducible apply Did.ok_wait)
    | (with_reducible apply Did.ok_park)
    | (with_reducible apply Did.ok_left)
    | (with_reducible apply keeps_next)
    | (with_reducible apply keeps_fault)
    | (with_reducible apply keeps_refused)
    | extract_lets
    | (with_reducible intro _)
    | (split)

theorem State.storeGlobal_ok (s : State) (clus : Nat) (r : Req) (va : Nat) (bs : List Byte) (h_s : State.ok s) :
    Wrote.kept (State.storeGlobal s clus r va bs) := by
  unfold State.storeGlobal
  try extract_lets
  repeat' first
    | (with_reducible assumption)
    | (with_reducible apply State.translate_ok)
    | (with_reducible apply State.holdFor_ok)
    | (with_reducible apply Wrote.kept_ok)
    | (with_reducible apply Wrote.kept_wait)
    | (with_reducible apply Wrote.kept_fault)
    | (refine Wrote.of_ok ?_ (by assumption))
    | (refine Wrote.of_fault ?_ (by assumption))
    | extract_lets
    | (with_reducible intro _)
    | (split)

theorem State.storeSpad_ok (s : State) (x : StoreRec) (a : Nat) (bs : List Byte) (h_s : State.ok s) :
    Wrote.kept (State.storeSpad s x a bs) := by
  unfold State.storeSpad
  try extract_lets
  repeat' first
    | (with_reducible assumption)
    | (with_reducible apply State.spadStore_ok)
    | (with_reducible apply Did.ok_done)
    | (with_reducible apply Did.ok_goto)
    | (with_reducible apply Did.ok_trap)
    | (with_reducible apply Did.ok_wait)
    | (with_reducible apply Did.ok_park)
    | (with_reducible apply Did.ok_left)
    | (with_reducible apply Wrote.kept_ok)
    | (with_reducible apply Wrote.kept_wait)
    | (with_reducible apply Wrote.kept_fault)
    | (refine Wrote.of_ok ?_ (by assumption))
    | (refine Wrote.of_fault ?_ (by assumption))
    | extract_lets
    | (with_reducible intro _)
    | (split)

theorem State.storeAll_ok (s : State) (clus : Nat) (r : Req) (x : StoreRec) (a0 : List (Nat × List Byte)) (h_s : State.ok s) :
    Wrote.kept (State.storeAll s clus r x a0) := by
  induction a0 generalizing s clus r x with
  | nil =>
    unfold State.storeAll
    try extract_lets
    repeat' first
      | (with_reducible assumption)
      | (with_reducible apply State.storeSpad_ok)
      | (with_reducible apply State.storeGlobal_ok)
      | (with_reducible apply Wrote.kept_ok)
  | cons c_ l_ ih =>
    unfold State.storeAll
    try extract_lets
    repeat' first
      | (with_reducible assumption)
      | (with_reducible apply ih)
      | (with_reducible apply State.storeSpad_ok)
      | (with_reducible apply State.storeGlobal_ok)
      | (with_reducible apply Wrote.kept_ok)
      | (with_reducible apply Wrote.kept_wait)
      | (with_reducible apply Wrote.kept_fault)
      | (refine Wrote.of_ok ?_ (by assumption))
      | (refine Wrote.of_fault ?_ (by assumption))
      | extract_lets
      | (with_reducible intro _)
      | (split)

theorem State.countStore_ok (s : State) (clus : Nat) (r : Req) (x : StoreRec) (cause : Nat) (h_s : State.ok s) :
    State.ok (State.countStore s clus r x cause) := by
  unfold State.countStore
  try extract_lets
  repeat' first
    | (with_reducible assumption)
    | (with_reducible apply State.modCluster_ok)
    | extract_lets
    | (with_reducible intro _)
    | (split)

theorem execMstoreComplete_ok (clus : Nat) (s : State) (h_s : State.ok s) :
    keeps (execMstoreComplete clus s) := by
  unfold execMstoreComplete
  refine keeps_next ?_
  split
  · split
    · extract_lets w
      split
      · exact h_s
      · rename_i e
        exact settleEvent_ok _ _ _ h_s
          (State.dropReq_ok _ _ _ (State.modTask_ok _ _ _ (State.countStore_ok _ _ _ _ _ (Wrote.of_ok (State.storeAll_ok _ _ _ _ _ h_s) e))))
      · rename_i e
        exact settleEvent_ok _ _ _ h_s
          (State.dropReq_ok _ _ _ (State.modTask_ok _ _ _ (State.countStore_ok _ _ _ _ _
            (State.faultTile_ok _ _ _ _ (Wrote.of_fault (State.storeAll_ok _ _ _ _ _ h_s) e)))))
    · exact h_s
  · exact h_s

/-! ### Tier -/

theorem globalObject_ok (t : State) (w : Wave) (instr : Instr) (space : Nat) (va n align : Nat) (want : Want) (body : State → Nat → DWord → Did) (h_t : State.ok t) (h_body : ∀ (body_0 : State) (body_1 : Nat) (body_2 : DWord), State.ok body_0 → Did.ok (body body_0 body_1 body_2)) :
    Did.ok (globalObject t w instr space va n align want body) := by
  unfold globalObject
  try extract_lets
  repeat' first
    | (with_reducible assumption)
    | (with_reducible apply h_body)
    | (with_reducible apply State.check_ok)
    | (with_reducible apply Did.orTrap_ok)
    | (with_reducible apply Did.ok_done)
    | (with_reducible apply Did.ok_goto)
    | (with_reducible apply Did.ok_trap)
    | (with_reducible apply Did.ok_wait)
    | (with_reducible apply Did.ok_park)
    | (with_reducible apply Did.ok_left)
    | extract_lets
    | (with_reducible intro _)
    | (split)

theorem State.setError_ok (s : State) (bit ctx : Nat) (h_s : State.ok s) :
    State.ok (State.setError s bit ctx) := by
  unfold State.setError
  try extract_lets
  repeat' first
    | (with_reducible assumption)
    | extract_lets
    | (with_reducible intro _)
    | (split)
    | ((conv => arg 1; with_reducible whnf); split)
    | ((conv => arg 1; arg 1; with_reducible whnf); split)
    | ((conv => arg 1; with_reducible whnf); clear_value *; split)
    | ((conv => arg 1; arg 1; with_reducible whnf); clear_value *; split)
    | (clear_value *; split)
    | ((conv => arg 1; with_reducible whnf); with_reducible apply State.ok_mk)
    | (with_reducible apply State.ok_mk)
    | (with_reducible apply State.ok_mem)
    | (with_reducible apply State.ok_scm)
    | (with_reducible apply State.ok_versions)
    | (with_reducible apply State.ok_regs)
    | (refine State.ok_regs_of (s := _) (by assumption) rfl)

theorem State.postTier_ok (s : State) (w : Wave) (op : TierOp) (ring tag : Nat) (after : List Nat) (h_s : State.ok s) :
    State.ok (State.postTier s w op ring tag after) := by
  unfold State.postTier
  try extract_lets
  repeat' first
    | (with_reducible assumption)
    | (with_reducible apply State.modDie_ok)
    | extract_lets
    | (with_reducible intro _)
    | (split)
    | ((conv => arg 1; with_reducible whnf); split)
    | ((conv => arg 1; arg 1; with_reducible whnf); split)
    | ((conv => arg 1; with_reducible whnf); clear_value *; split)
    | ((conv => arg 1; arg 1; with_reducible whnf); clear_value *; split)
    | (clear_value *; split)
    | ((conv => arg 1; with_reducible whnf); with_reducible apply State.ok_mk)
    | (with_reducible apply State.ok_mk)
    | (with_reducible apply State.ok_mem)
    | (with_reducible apply State.ok_scm)
    | (with_reducible apply State.ok_versions)
    | (with_reducible apply State.ok_regs)

theorem execXfer_ok (q : Sched) (sa : SReg) (s : State) (h_s : State.ok s) :
    keeps (execXfer q sa s) := by
  unfold execXfer
  try extract_lets
  repeat' first
    | (with_reducible assumption)
    | (with_reducible apply issueWord_ok)
    | (with_reducible apply globalObject_ok)
    | (with_reducible apply State.fetch_ok)
    | (with_reducible apply State.commit_ok)
    | (with_reducible apply State.ordered_ok)
    | (with_reducible apply State.postTier_ok)
    | (with_reducible apply slotFault_ok)
    | (with_reducible apply Did.ok_done)
    | (with_reducible apply Did.ok_goto)
    | (with_reducible apply Did.ok_trap)
    | (with_reducible apply Did.ok_wait)
    | (with_reducible apply Did.ok_park)
    | (with_reducible apply Did.ok_left)
    | (with_reducible apply keeps_next)
    | (with_reducible apply keeps_fault)
    | (with_reducible apply keeps_refused)
    | extract_lets
    | (with_reducible intro _)
    | (split)

theorem State.checkTiles_ok (s : State) (ctx clus : Nat) (a0 : List Nat) (h_s : State.ok s) :
    State.ok ((State.checkTiles s ctx clus a0)).1 := by
  induction a0 generalizing s ctx clus with
  | nil =>
    unfold State.checkTiles
    try extract_lets
    repeat' first
      | (with_reducible assumption)
  | cons c_ l_ ih =>
    unfold State.checkTiles
    try extract_lets
    repeat' first
      | (with_reducible assumption)
      | (with_reducible apply ih)
      | (with_reducible apply State.check_ok)
      | extract_lets
      | (with_reducible intro _)
      | (split)

theorem execTagc_ok (q : Sched) (sa sb : SReg) (s : State) (h_s : State.ok s) :
    keeps (execTagc q sa sb s) := by
  unfold execTagc
  try extract_lets
  repeat' first
    | (with_reducible assumption)
    | (with_reducible apply issueWord_ok)
    | (with_reducible apply Did.orTrap_ok)
    | (with_reducible apply State.checkTiles_ok)
    | (with_reducible apply slotFault_ok)
    | (with_reducible apply State.commit_ok)
    | (with_reducible apply State.ordered_ok)
    | (with_reducible apply State.postTier_ok)
    | (with_reducible apply Did.ok_done)
    | (with_reducible apply Did.ok_goto)
    | (with_reducible apply Did.ok_trap)
    | (with_reducible apply Did.ok_wait)
    | (with_reducible apply Did.ok_park)
    | (with_reducible apply Did.ok_left)
    | (with_reducible apply keeps_next)
    | (with_reducible apply keeps_fault)
    | (with_reducible apply keeps_refused)
    | extract_lets
    | (with_reducible intro _)
    | ((conv => arg 1; with_reducible whnf); first | (with_reducible apply issueWord_ok) | (with_reducible apply Did.orTrap_ok) | (with_reducible apply State.checkTiles_ok) | (with_reducible apply slotFault_ok) | (with_reducible apply State.commit_ok) | (with_reducible apply State.ordered_ok) | (with_reducible apply State.postTier_ok) | (with_reducible apply Did.ok_done) | (with_reducible apply Did.ok_goto) | (with_reducible apply Did.ok_trap) | (with_reducible apply Did.ok_wait) | (with_reducible apply Did.ok_park) | (with_reducible apply Did.ok_left) | (with_reducible apply keeps_next) | (with_reducible apply keeps_fault) | (with_reducible apply keeps_refused))
    | (split)

theorem execTagq_ok (q : Sched) (sd sa : SReg) (s : State) (h_s : State.ok s) :
    keeps (execTagq q sd sa s) := by
  unfold execTagq
  try extract_lets
  repeat' first
    | (with_reducible assumption)
    | (with_reducible apply issueWord_ok)
    | (with_reducible apply globalObject_ok)
    | (with_reducible apply State.wave_ok)
    | (with_reducible apply State.modDie_ok)
    | (with_reducible apply Did.ok_done)
    | (with_reducible apply Did.ok_goto)
    | (with_reducible apply Did.ok_trap)
    | (with_reducible apply Did.ok_wait)
    | (with_reducible apply Did.ok_park)
    | (with_reducible apply Did.ok_left)
    | (with_reducible apply keeps_next)
    | (with_reducible apply keeps_fault)
    | (with_reducible apply keeps_refused)
    | (with_reducible apply filter_wf)
    | extract_lets
    | (with_reducible intro _)
    | (split)
    | ((conv => arg 1; with_reducible whnf); split)
    | ((conv => arg 1; arg 1; with_reducible whnf); split)
    | ((conv => arg 1; with_reducible whnf); clear_value *; split)
    | ((conv => arg 1; arg 1; with_reducible whnf); clear_value *; split)
    | (clear_value *; split)
    | ((conv => arg 1; with_reducible whnf); with_reducible apply State.ok_mk)
    | (with_reducible apply State.ok_mk)
    | (with_reducible apply State.ok_mem)
    | (with_reducible apply State.ok_scm)
    | (with_reducible apply State.ok_versions)
    | (with_reducible apply State.ok_regs)

theorem State.setTier_ok (s : State) (die : Nat) (c : TierCmd) (h_s : State.ok s) :
    State.ok (State.setTier s die c) := by
  unfold State.setTier
  try extract_lets
  repeat' first
    | (with_reducible assumption)
    | (with_reducible apply State.modDie_ok)

theorem State.dropTier_ok (s : State) (die num : Nat) (h_s : State.ok s) :
    State.ok (State.dropTier s die num) := by
  unfold State.dropTier
  try extract_lets
  repeat' first
    | (with_reducible assumption)
    | (with_reducible apply State.modDie_ok)

theorem State.finishTier_ok (s : State) (die : Nat) (c : TierCmd) (h_s : State.ok s) :
    State.ok (State.finishTier s die c) := by
  unfold State.finishTier
  try extract_lets
  repeat' first
    | (with_reducible assumption)
    | (with_reducible apply State.dropTier_ok)
    | (with_reducible apply State.setTier_ok)
    | (with_reducible apply State.modDie_ok)
    | extract_lets
    | (with_reducible intro _)
    | (split)

theorem State.engineSpan_ok (s : State) (ctx die va n : Nat) (wr : Bool) (h_s : State.ok s) :
    State.ok ((State.engineSpan s ctx die va n wr)).1 := by
  unfold State.engineSpan
  try extract_lets
  repeat' first
    | (with_reducible assumption)
    | (with_reducible apply State.enginePlace_ok)
    | extract_lets
    | (with_reducible intro _)
    | (split)

theorem State.copyBlock_ok (s : State) (die : Nat) (c : TierCmd) (src dst len : Nat) (h_s : State.ok s) :
    State.ok (State.copyBlock s die c src dst len) := by
  unfold State.copyBlock
  try extract_lets
  repeat' first
    | (with_reducible assumption)
    | (with_reducible apply State.engineSpan_ok)
    | (with_reducible apply State.finishTier_ok)
    | (with_reducible apply State.readPoint_ok)
    | (with_reducible apply State.combRead_ok)
    | (with_reducible apply State.storeAt_ok)
    | (with_reducible apply State.setTier_ok)
    | extract_lets
    | (with_reducible intro _)
    | (split)

theorem execTierCopy_ok (die team : Nat) (s : State) (h_s : State.ok s) :
    keeps (execTierCopy die team s) := by
  unfold execTierCopy
  try extract_lets
  repeat' first
    | (with_reducible assumption)
    | (with_reducible apply settleEvent_ok)
    | (with_reducible apply State.finishTier_ok)
    | (with_reducible apply State.copyBlock_ok)
    | (with_reducible apply Did.ok_done)
    | (with_reducible apply Did.ok_goto)
    | (with_reducible apply Did.ok_trap)
    | (with_reducible apply Did.ok_wait)
    | (with_reducible apply Did.ok_park)
    | (with_reducible apply Did.ok_left)
    | (with_reducible apply keeps_next)
    | (with_reducible apply keeps_fault)
    | (with_reducible apply keeps_refused)
    | extract_lets
    | (with_reducible intro _)
    | (split)

theorem State.namedTiles_ok (s : State) (ctx die : Nat) (wr : Bool) (a0 : List Nat) (h_s : State.ok s) :
    State.ok ((State.namedTiles s ctx die wr a0)).1 := by
  induction a0 generalizing s ctx die wr with
  | nil =>
    unfold State.namedTiles
    try extract_lets
    repeat' first
      | (with_reducible assumption)
  | cons c_ l_ ih =>
    unfold State.namedTiles
    try extract_lets
    repeat' first
      | (with_reducible assumption)
      | (with_reducible apply ih)
      | (with_reducible apply State.engineSpan_ok)
      | extract_lets
      | (with_reducible intro _)
      | (split)

theorem State.acceptMoves_ok (s : State) (die : Nat) (c : TierCmd) (hbm : Bool) (src len : Nat) (h_s : State.ok s) :
    State.ok (State.acceptMoves s die c hbm src len) := by
  unfold State.acceptMoves
  try extract_lets
  repeat' first
    | (with_reducible assumption)
    | (with_reducible apply State.finishTier_ok)
    | (with_reducible apply State.namedTiles_ok)
    | (with_reducible apply foldState_ok)
    | (with_reducible apply Did.state_ok)
    | (with_reducible apply State.startMove_ok)
    | (with_reducible apply State.fetch_ok)
    | (with_reducible apply State.setTier_ok)
    | (with_reducible apply filter_wf)
    | extract_lets
    | (with_reducible intro _)
    | (split)

theorem State.continueMoves_ok (s : State) (die : Nat) (c : TierCmd) (hbm : Bool) (h_s : State.ok s) :
    State.ok (State.continueMoves s die c hbm) := by
  unfold State.continueMoves
  try extract_lets
  repeat' first
    | (with_reducible assumption)
    | (with_reducible apply Did.state_ok)
    | (with_reducible apply foldState_ok)
    | (with_reducible apply State.startMove_ok)
    | (with_reducible apply State.fetch_ok)
    | (with_reducible apply State.finishTier_ok)
    | (with_reducible apply State.setTier_ok)
    | (with_reducible apply filter_wf)
    | extract_lets
    | (with_reducible intro _)
    | ((conv => arg 1; with_reducible whnf); first | (with_reducible apply Did.state_ok) | (with_reducible apply foldState_ok) | (with_reducible apply State.startMove_ok) | (with_reducible apply State.fetch_ok) | (with_reducible apply State.finishTier_ok) | (with_reducible apply State.setTier_ok))
    | (split)

theorem State.moveStep_ok (s : State) (die : Nat) (c : TierCmd) (hbm : Bool) (src len : Nat) (h_s : State.ok s) :
    State.ok (State.moveStep s die c hbm src len) := by
  unfold State.moveStep
  try extract_lets
  repeat' first
    | (with_reducible assumption)
    | (with_reducible apply State.continueMoves_ok)
    | (with_reducible apply State.acceptMoves_ok)
    | extract_lets
    | (with_reducible intro _)
    | (split)

theorem execTierFetch_ok (die team : Nat) (s : State) (h_s : State.ok s) :
    keeps (execTierFetch die team s) := by
  unfold execTierFetch
  try extract_lets
  repeat' first
    | (with_reducible assumption)
    | (with_reducible apply State.fetch_ok)
    | (with_reducible apply settleEvent_ok)
    | (with_reducible apply State.moveStep_ok)
    | (with_reducible apply Did.ok_done)
    | (with_reducible apply Did.ok_goto)
    | (with_reducible apply Did.ok_trap)
    | (with_reducible apply Did.ok_wait)
    | (with_reducible apply Did.ok_park)
    | (with_reducible apply Did.ok_left)
    | (with_reducible apply keeps_next)
    | (with_reducible apply keeps_fault)
    | (with_reducible apply keeps_refused)
    | extract_lets
    | (with_reducible intro _)
    | (split)

theorem execTierEvict_ok (die team : Nat) (s : State) (h_s : State.ok s) :
    keeps (execTierEvict die team s) := by
  unfold execTierEvict
  try extract_lets
  repeat' first
    | (with_reducible assumption)
    | (with_reducible apply settleEvent_ok)
    | (with_reducible apply State.moveStep_ok)
    | (with_reducible apply Did.ok_done)
    | (with_reducible apply Did.ok_goto)
    | (with_reducible apply Did.ok_trap)
    | (with_reducible apply Did.ok_wait)
    | (with_reducible apply Did.ok_park)
    | (with_reducible apply Did.ok_left)
    | (with_reducible apply keeps_next)
    | (with_reducible apply keeps_fault)
    | (with_reducible apply keeps_refused)
    | extract_lets
    | (with_reducible intro _)
    | (split)

theorem State.writeScm_ok (s : State) (inComb : Nat → Bool) (h_s : State.ok s) :
    State.ok (State.writeScm s inComb) := by
  unfold State.writeScm
  try extract_lets
  repeat' first
    | (with_reducible assumption)
    | (with_reducible apply foldl_ok)
    | (with_reducible apply foldl_set_wf)
    | (with_reducible apply filter_wf)
    | extract_lets
    | (with_reducible intro _)
    | (split)
    | (with_reducible apply State.ok_mk)
    | (with_reducible apply State.ok_mem)
    | (with_reducible apply State.ok_scm)
    | (with_reducible apply State.ok_versions)
    | (with_reducible apply State.ok_regs)

theorem State.readScm_ok (s : State) (tile : Nat) (h_s : State.ok s) :
    State.ok (State.readScm s tile) := by
  unfold State.readScm
  try extract_lets
  repeat' first
    | (with_reducible assumption)
    | (with_reducible apply foldl_ok)
    | (with_reducible apply foldl_set_wf)
    | (with_reducible apply filter_wf)
    | extract_lets
    | (with_reducible intro _)
    | (split)
    | (with_reducible apply State.ok_mk)
    | (with_reducible apply State.ok_mem)
    | (with_reducible apply State.ok_scm)
    | (with_reducible apply State.ok_versions)
    | (with_reducible apply State.ok_regs)

theorem State.setBelow_ok (s : State) (tile : Nat) (rows : List Nat) (h_s : State.ok s) :
    State.ok (State.setBelow s tile rows) := by
  unfold State.setBelow
  try extract_lets
  repeat' first
    | (with_reducible assumption)
    | (with_reducible apply foldState_ok)
    | (with_reducible apply State.markBelow_ok)
    | (with_reducible apply filter_wf)
    | extract_lets
    | (with_reducible intro _)
    | (split)
    | (with_reducible apply State.ok_mk)
    | (with_reducible apply State.ok_mem)
    | (with_reducible apply State.ok_scm)
    | (with_reducible apply State.ok_versions)
    | (with_reducible apply State.ok_regs)

theorem State.homeMarks_ok (s : State) (tile : Nat) (written : Nat → Bool) (h_s : State.ok s) :
    State.ok (State.homeMarks s tile written) := by
  unfold State.homeMarks
  try extract_lets
  repeat' first
    | (with_reducible assumption)
    | (with_reducible apply State.setBelow_ok)
    | (with_reducible apply filter_wf)
    | extract_lets
    | (with_reducible intro _)
    | (split)
    | ((conv => arg 1; with_reducible whnf); split)
    | ((conv => arg 1; arg 1; with_reducible whnf); split)
    | ((conv => arg 1; with_reducible whnf); clear_value *; split)
    | ((conv => arg 1; arg 1; with_reducible whnf); clear_value *; split)
    | (clear_value *; split)
    | ((conv => arg 1; with_reducible whnf); with_reducible apply State.ok_mk)
    | (with_reducible apply State.ok_mk)
    | (with_reducible apply State.ok_mem)
    | (with_reducible apply State.ok_scm)
    | (with_reducible apply State.ok_versions)
    | (with_reducible apply State.ok_regs)

theorem State.takeFrame_ok (s : State) (die tile frame : Nat) (h_s : State.ok s) :
    State.ok (State.takeFrame s die tile frame) := by
  unfold State.takeFrame
  try extract_lets
  repeat' first
    | (with_reducible assumption)
    | (with_reducible apply foldl_ok)
    | (with_reducible apply foldl_set_wf)
    | (with_reducible apply filter_wf)
    | extract_lets
    | (with_reducible intro _)
    | (split)
    | ((conv => arg 1; with_reducible whnf); split)
    | ((conv => arg 1; arg 1; with_reducible whnf); split)
    | ((conv => arg 1; with_reducible whnf); clear_value *; split)
    | ((conv => arg 1; arg 1; with_reducible whnf); clear_value *; split)
    | (clear_value *; split)
    | ((conv => arg 1; with_reducible whnf); with_reducible apply State.ok_mk)
    | (with_reducible apply State.ok_mk)
    | (with_reducible apply State.ok_mem)
    | (with_reducible apply State.ok_scm)
    | (with_reducible apply State.ok_versions)
    | (with_reducible apply State.ok_regs)

theorem State.freeFrameOf_ok (s : State) (die tile frame : Nat) (h_s : State.ok s) :
    State.ok (State.freeFrameOf s die tile frame) := by
  unfold State.freeFrameOf
  try extract_lets
  repeat' first
    | (with_reducible assumption)
    | (with_reducible apply foldl_ok)
    | (with_reducible apply foldl_set_wf)
    | (with_reducible apply filter_wf)
    | extract_lets
    | (with_reducible intro _)
    | (split)
    | ((conv => arg 1; with_reducible whnf); split)
    | ((conv => arg 1; arg 1; with_reducible whnf); split)
    | ((conv => arg 1; with_reducible whnf); clear_value *; split)
    | ((conv => arg 1; arg 1; with_reducible whnf); clear_value *; split)
    | (clear_value *; split)
    | ((conv => arg 1; with_reducible whnf); with_reducible apply State.ok_mk)
    | (with_reducible apply State.ok_mk)
    | (with_reducible apply State.ok_mem)
    | (with_reducible apply State.ok_scm)
    | (with_reducible apply State.ok_versions)
    | (with_reducible apply State.ok_regs)

theorem State.performMove_ok (s : State) (die : Nat) (m : TileMove) (h_s : State.ok s) :
    ∀ u, (State.performMove s die m) = some u → State.ok u := by
  unfold State.performMove
  try extract_lets
  repeat' first
    | (with_reducible assumption)
    | (with_reducible apply State.fetch_ok)
    | (with_reducible apply State.takeFrame_ok)
    | (with_reducible apply State.setDir_ok)
    | (with_reducible apply Did.state_ok)
    | (with_reducible apply foldState_ok)
    | (with_reducible apply State.writeBack_ok)
    | (with_reducible apply State.freeFrameOf_ok)
    | (with_reducible apply State.homeMarks_ok)
    | (with_reducible apply State.writeScm_ok)
    | (with_reducible apply State.leaveSlice_ok)
    | (with_reducible apply State.readScm_ok)
    | (with_reducible apply filter_wf)
    | (refine some_ok ?_)
    | (refine none_ok)
    | (refine map_ok ?_)
    | (refine bind_ok ?_)
    | extract_lets
    | (split)
    | (with_reducible intro _)

theorem State.settlePool_ok (s : State) (die : Nat) (h_s : State.ok s) :
    State.ok (State.settlePool s die) := by
  unfold State.settlePool
  try extract_lets
  repeat' first
    | (with_reducible assumption)
    | (with_reducible apply Did.state_ok)
    | (with_reducible apply State.modDie_ok)

theorem execTileMoveComplete_ok (die tile : Nat) (s : State) (h_s : State.ok s) :
    keeps (execTileMoveComplete die tile s) := by
  unfold execTileMoveComplete
  try extract_lets
  repeat' first
    | (with_reducible assumption)
    | (with_reducible refine State.performMove_ok _ _ _ ?_)
    | (with_reducible refine State.performMove_ok _ _ _ ?_ _ (by assumption))
    | (with_reducible apply State.modDie_ok)
    | (with_reducible apply State.settlePool_ok)
    | (with_reducible apply Did.ok_done)
    | (with_reducible apply Did.ok_goto)
    | (with_reducible apply Did.ok_trap)
    | (with_reducible apply Did.ok_wait)
    | (with_reducible apply Did.ok_park)
    | (with_reducible apply Did.ok_left)
    | (with_reducible apply keeps_next)
    | (with_reducible apply keeps_fault)
    | (with_reducible apply keeps_refused)
    | (with_reducible apply filter_wf)
    | extract_lets
    | (with_reducible intro _)
    | (split)

theorem State.setTag_ok (s : State) (tile run reuse cost : Nat) (h_s : State.ok s) :
    State.ok (State.setTag s tile run reuse cost) := by
  unfold State.setTag
  try extract_lets
  repeat' first
    | (with_reducible assumption)
    | (with_reducible apply State.setDir_ok)
    | (with_reducible apply Did.state_ok)
    | extract_lets
    | (with_reducible intro _)
    | (split)

theorem execTagcPerform_ok (die team : Nat) (s : State) (h_s : State.ok s) :
    keeps (execTagcPerform die team s) := by
  unfold execTagcPerform
  try extract_lets
  repeat' first
    | (with_reducible assumption)
    | (with_reducible apply State.namedTiles_ok)
    | (with_reducible apply foldState_ok)
    | (with_reducible apply State.setTag_ok)
    | (with_reducible apply State.dropTier_ok)
    | (with_reducible apply Did.ok_done)
    | (with_reducible apply Did.ok_goto)
    | (with_reducible apply Did.ok_trap)
    | (with_reducible apply Did.ok_wait)
    | (with_reducible apply Did.ok_park)
    | (with_reducible apply Did.ok_left)
    | (with_reducible apply keeps_next)
    | (with_reducible apply keeps_fault)
    | (with_reducible apply keeps_refused)
    | extract_lets
    | (with_reducible intro _)
    | (split)

theorem execTagqPerform_ok (die n : Nat) (s : State) (h_s : State.ok s) :
    keeps (execTagqPerform die n s) := by
  unfold execTagqPerform
  try extract_lets
  repeat' first
    | (with_reducible assumption)
    | (with_reducible apply State.modDie_ok)
    | (with_reducible apply State.modTask_ok)
    | (with_reducible apply Did.ok_done)
    | (with_reducible apply Did.ok_goto)
    | (with_reducible apply Did.ok_trap)
    | (with_reducible apply Did.ok_wait)
    | (with_reducible apply Did.ok_park)
    | (with_reducible apply Did.ok_left)
    | (with_reducible apply keeps_next)
    | (with_reducible apply keeps_fault)
    | (with_reducible apply keeps_refused)
    | extract_lets
    | (with_reducible intro _)
    | (split)
    | ((conv => arg 1; with_reducible whnf); split)
    | ((conv => arg 1; arg 1; with_reducible whnf); split)
    | ((conv => arg 1; with_reducible whnf); clear_value *; split)
    | ((conv => arg 1; arg 1; with_reducible whnf); clear_value *; split)
    | (clear_value *; split)
    | ((conv => arg 1; with_reducible whnf); with_reducible apply State.ok_mk)
    | (with_reducible apply State.ok_mk)
    | (with_reducible apply State.ok_mem)
    | (with_reducible apply State.ok_scm)
    | (with_reducible apply State.ok_versions)
    | (with_reducible apply State.ok_regs)

theorem execPolicyVictimChoose_ok (die : Nat) (s : State) (h_s : State.ok s) :
    keeps (execPolicyVictimChoose die s) := by
  unfold execPolicyVictimChoose
  try extract_lets
  repeat' first
    | (with_reducible assumption)
    | (with_reducible apply Did.state_ok)
    | (with_reducible apply State.startMove_ok)
    | (with_reducible apply Did.ok_done)
    | (with_reducible apply Did.ok_goto)
    | (with_reducible apply Did.ok_trap)
    | (with_reducible apply Did.ok_wait)
    | (with_reducible apply Did.ok_park)
    | (with_reducible apply Did.ok_left)
    | (with_reducible apply keeps_next)
    | (with_reducible apply keeps_fault)
    | (with_reducible apply keeps_refused)
    | (with_reducible apply filter_wf)
    | extract_lets
    | (with_reducible intro _)
    | (split)

theorem State.retire_ok (s : State) (die n num : Nat) (h_s : State.ok s) :
    State.ok (State.retire s die n num) := by
  unfold State.retire
  try extract_lets
  repeat' first
    | (with_reducible assumption)
    | (with_reducible apply State.modDie_ok)

theorem State.ringPlace_ok (s : State) (ctx die va n : Nat) (h_s : State.ok s) :
    State.ok ((State.ringPlace s ctx die va n)).1 := by
  unfold State.ringPlace
  try extract_lets
  repeat' first
    | (with_reducible assumption)
    | (with_reducible apply State.engineSpan_ok)

theorem State.writeRecord_ok (s : State) (die n : Nat) (c : Completion) (h_s : State.ok s) :
    State.ok (State.writeRecord s die n c) := by
  unfold State.writeRecord
  try extract_lets
  repeat' first
    | (with_reducible assumption)
    | (with_reducible apply State.setError_ok)
    | (with_reducible apply State.retire_ok)
    | (with_reducible apply State.ringPlace_ok)
    | (with_reducible apply State.readRange_ok)
    | (with_reducible apply State.storeAt_ok)
    | extract_lets
    | (with_reducible intro _)
    | ((conv => arg 1; with_reducible whnf); first | (with_reducible apply State.setError_ok) | (with_reducible apply State.retire_ok) | (with_reducible apply State.ringPlace_ok) | (with_reducible apply State.readRange_ok) | (with_reducible apply State.storeAt_ok))
    | (split)

theorem execCompletionRecordWrite_ok (die n : Nat) (s : State) (h_s : State.ok s) :
    keeps (execCompletionRecordWrite die n s) := by
  unfold execCompletionRecordWrite
  try extract_lets
  repeat' first
    | (with_reducible assumption)
    | (with_reducible apply settleEvent_ok)
    | (with_reducible apply State.writeRecord_ok)
    | (with_reducible apply Did.ok_done)
    | (with_reducible apply Did.ok_goto)
    | (with_reducible apply Did.ok_trap)
    | (with_reducible apply Did.ok_wait)
    | (with_reducible apply Did.ok_park)
    | (with_reducible apply Did.ok_left)
    | (with_reducible apply keeps_next)
    | (with_reducible apply keeps_fault)
    | (with_reducible apply keeps_refused)
    | extract_lets
    | (with_reducible intro _)
    | (split)

/-! ### Waggle -/

theorem State.waggleRead_ok (s : State) (ctx die va : Nat) (first : Bool) (h_s : State.ok s) :
    State.ok ((State.waggleRead s ctx die va first)).1 := by
  unfold State.waggleRead
  try extract_lets
  repeat' first
    | (with_reducible assumption)
    | (with_reducible apply State.translate_ok)
    | (with_reducible apply State.readPoint_ok)
    | (with_reducible apply State.combRead_ok)
    | extract_lets
    | (with_reducible intro _)
    | (split)

theorem State.waggleRun_ok (s : State) (ctx die va : Nat) (first : Bool) (a0 : Nat) (h_s : State.ok s) :
    State.ok ((State.waggleRun s ctx die va first a0)).1 := by
  induction a0 generalizing s ctx die va first with
  | zero =>
    unfold State.waggleRun
    try extract_lets
    repeat' first
      | (with_reducible assumption)
  | succ n_ ih =>
    unfold State.waggleRun
    try extract_lets
    repeat' first
      | (with_reducible assumption)
      | (with_reducible apply ih)
      | (with_reducible apply State.waggleRead_ok)
      | (with_reducible apply Did.ok_done)
      | (with_reducible apply Did.ok_goto)
      | (with_reducible apply Did.ok_trap)
      | (with_reducible apply Did.ok_wait)
      | (with_reducible apply Did.ok_park)
      | (with_reducible apply Did.ok_left)
      | extract_lets
      | (with_reducible intro _)
      | (split)

theorem State.waggleBytes_ok (s : State) (ctx die va n : Nat) (h_s : State.ok s) :
    State.ok ((State.waggleBytes s ctx die va n)).1 := by
  unfold State.waggleBytes
  try extract_lets
  repeat' first
    | (with_reducible assumption)
    | (with_reducible apply State.waggleRun_ok)

theorem State.waggleWrite_ok (s : State) (ctx die va : Nat) (b : Byte) (h_s : State.ok s) :
    ∀ u, (State.waggleWrite s ctx die va b) = .ok u → State.ok u.1 := by
  unfold State.waggleWrite
  try extract_lets
  repeat' first
    | (with_reducible assumption)
    | (with_reducible apply State.translate_ok)
    | (with_reducible refine State.spotWrite_ok _ _ _ _ ?_)
    | (with_reducible refine State.spotWrite_ok _ _ _ _ ?_ _ (by assumption))
    | (with_reducible apply Did.ok_done)
    | (with_reducible apply Did.ok_goto)
    | (with_reducible apply Did.ok_trap)
    | (with_reducible apply Did.ok_wait)
    | (with_reducible apply Did.ok_park)
    | (with_reducible apply Did.ok_left)
    | (refine got_ok_fst ?_)
    | (refine got_bad_fst)
    | (refine got_wait_fst)
    | extract_lets
    | (split)

theorem State.waggleElem_ok (s : State) (ctx die : Nat) (a0 : List (Nat × Byte)) (h_s : State.ok s) :
    ∀ u, (State.waggleElem s ctx die a0) = .ok u → State.ok u.1 := by
  induction a0 generalizing s ctx die with
  | nil =>
    unfold State.waggleElem
    try extract_lets
    repeat' first
      | (with_reducible assumption)
      | (with_reducible refine State.waggleWrite_ok _ _ _ _ _ ?_)
      | (with_reducible refine State.waggleWrite_ok _ _ _ _ _ ?_ _ (by assumption))
      | (refine got_ok_fst ?_)
  | cons c_ l_ ih =>
    unfold State.waggleElem
    try extract_lets
    repeat' first
      | (with_reducible assumption)
      | (refine ih _ _ _ ?_)
      | (refine ih _ _ _ ?_ _ (by assumption))
      | (with_reducible refine State.waggleWrite_ok _ _ _ _ _ ?_)
      | (with_reducible refine State.waggleWrite_ok _ _ _ _ _ ?_ _ (by assumption))
      | (refine got_ok_fst ?_)
      | (refine got_bad_fst)
      | (refine got_wait_fst)
      | extract_lets
      | (split)
      | (with_reducible intro _)
      | (split)
      | (with_reducible apply State.ok_mk)
      | (with_reducible apply State.ok_mem)
      | (with_reducible apply State.ok_scm)
      | (with_reducible apply State.ok_versions)
      | (with_reducible apply State.ok_regs)

theorem State.waggleElems_ok (s : State) (ctx die : Nat) (a0 : List (List (Nat × Byte))) (h_s : State.ok s) :
    ∀ u, (State.waggleElems s ctx die a0) = .ok u → State.ok u.1 := by
  induction a0 generalizing s ctx die with
  | nil =>
    unfold State.waggleElems
    try extract_lets
    repeat' first
      | (with_reducible assumption)
      | (with_reducible refine State.waggleElem_ok _ _ _ _ ?_)
      | (with_reducible refine State.waggleElem_ok _ _ _ _ ?_ _ (by assumption))
      | (with_reducible apply Did.ok_done)
      | (with_reducible apply Did.ok_goto)
      | (with_reducible apply Did.ok_trap)
      | (with_reducible apply Did.ok_wait)
      | (with_reducible apply Did.ok_park)
      | (with_reducible apply Did.ok_left)
      | (refine got_ok_fst ?_)
  | cons c_ l_ ih =>
    unfold State.waggleElems
    try extract_lets
    repeat' first
      | (with_reducible assumption)
      | (refine ih _ _ _ ?_)
      | (refine ih _ _ _ ?_ _ (by assumption))
      | (with_reducible refine State.waggleElem_ok _ _ _ _ ?_)
      | (with_reducible refine State.waggleElem_ok _ _ _ _ ?_ _ (by assumption))
      | (with_reducible apply Did.ok_done)
      | (with_reducible apply Did.ok_goto)
      | (with_reducible apply Did.ok_trap)
      | (with_reducible apply Did.ok_wait)
      | (with_reducible apply Did.ok_park)
      | (with_reducible apply Did.ok_left)
      | (refine got_ok_fst ?_)
      | (refine got_bad_fst)
      | (refine got_wait_fst)
      | extract_lets
      | (split)
      | (with_reducible intro _)
      | (split)
      | (with_reducible apply State.ok_mk)
      | (with_reducible apply State.ok_mem)
      | (with_reducible apply State.ok_scm)
      | (with_reducible apply State.ok_versions)
      | (with_reducible apply State.ok_regs)

theorem State.readGroup_ok (s : State) (collid : Nat) (h_s : State.ok s) :
    State.ok ((State.readGroup s collid)).1 := by
  unfold State.readGroup
  try extract_lets
  repeat' first
    | (with_reducible assumption)
    | (with_reducible apply State.readRange_ok)
    | extract_lets
    | (with_reducible intro _)
    | (split)

theorem State.reportChunk_ok (s : State) (launches : List Nat) (cause : Nat) (flags : BitVec 5) (h_s : State.ok s) :
    State.ok (State.reportChunk s launches cause flags) := by
  unfold State.reportChunk
  try extract_lets
  repeat' first
    | (with_reducible assumption)
    | extract_lets
    | (with_reducible intro _)
    | (split)
    | (with_reducible apply State.ok_mk)
    | (with_reducible apply State.ok_mem)
    | (with_reducible apply State.ok_scm)
    | (with_reducible apply State.ok_versions)
    | (with_reducible apply State.ok_regs)

theorem State.dropColl_ok (s : State) (c : CollCmd) (h_s : State.ok s) :
    State.ok (State.dropColl s c) := by
  unfold State.dropColl
  try extract_lets
  repeat' first
    | (with_reducible assumption)
    | (with_reducible apply State.modDie_ok)

theorem State.finishColl_ok (s : State) (c : CollCmd) (ring tag cause : Nat) (flags : BitVec 5) (bytes : Nat) (h_s : State.ok s) :
    State.ok (State.finishColl s c ring tag cause flags bytes) := by
  unfold State.finishColl
  try extract_lets
  repeat' first
    | (with_reducible assumption)
    | (with_reducible apply State.reportChunk_ok)
    | (with_reducible apply State.dropColl_ok)
    | (with_reducible apply State.modDie_ok)
    | extract_lets
    | (with_reducible intro _)
    | (split)

theorem State.markJoined_ok (s : State) (c : CollCmd) (h_s : State.ok s) :
    State.ok (State.markJoined s c) := by
  unfold State.markJoined
  try extract_lets
  repeat' first
    | (with_reducible assumption)
    | (with_reducible apply State.modDie_ok)

theorem State.joinRound_ok (s : State) (e : Entrant) (g : Group) (rank round : Nat) (cause : Nat) (h_s : State.ok s) :
    State.ok (State.joinRound s e g rank round cause) := by
  unfold State.joinRound
  try extract_lets
  repeat' first
    | (with_reducible assumption)
    | (with_reducible apply State.markJoined_ok)
    | extract_lets
    | (with_reducible intro _)
    | ((conv => arg 1; with_reducible whnf); first | (with_reducible apply State.markJoined_ok))
    | (split)
    | ((conv => arg 1; with_reducible whnf); split)
    | ((conv => arg 1; arg 1; with_reducible whnf); split)
    | ((conv => arg 1; with_reducible whnf); clear_value *; split)
    | ((conv => arg 1; arg 1; with_reducible whnf); clear_value *; split)
    | (clear_value *; split)
    | ((conv => arg 1; with_reducible whnf); with_reducible apply State.ok_mk)
    | (with_reducible apply State.ok_mk)
    | (with_reducible apply State.ok_mem)
    | (with_reducible apply State.ok_scm)
    | (with_reducible apply State.ok_versions)
    | (with_reducible apply State.ok_regs)

theorem State.enterGroup_ok (s : State) (e : Entrant) (bound : Option Nat) (die : Nat) (overlap : Bool) (h_s : State.ok s) :
    State.ok (State.enterGroup s e bound die overlap) := by
  unfold State.enterGroup
  try extract_lets
  repeat' first
    | (with_reducible assumption)
    | (with_reducible apply State.finishColl_ok)
    | (with_reducible apply State.readGroup_ok)
    | (with_reducible apply State.resultBytes_ok)
    | (with_reducible apply State.joinRound_ok)
    | extract_lets
    | (with_reducible intro _)
    | (split)
    | ((conv => arg 1; with_reducible whnf); split)
    | ((conv => arg 1; arg 1; with_reducible whnf); split)
    | ((conv => arg 1; with_reducible whnf); clear_value *; split)
    | ((conv => arg 1; arg 1; with_reducible whnf); clear_value *; split)
    | (clear_value *; split)
    | ((conv => arg 1; with_reducible whnf); with_reducible apply State.ok_mk)
    | (with_reducible apply State.ok_mk)
    | (with_reducible apply State.ok_mem)
    | (with_reducible apply State.ok_scm)
    | (with_reducible apply State.ok_versions)
    | (with_reducible apply State.ok_regs)

theorem State.beginColl_ok (s : State) (c : CollCmd) (h_s : State.ok s) :
    State.ok (State.beginColl s c) := by
  unfold State.beginColl
  try extract_lets
  repeat' first
    | (with_reducible assumption)
    | (with_reducible apply State.waggleBytes_ok)
    | (with_reducible apply State.setError_ok)
    | (with_reducible apply State.dropColl_ok)
    | (with_reducible apply State.finishColl_ok)
    | (with_reducible apply State.enterGroup_ok)
    | (with_reducible apply Did.ok_done)
    | (with_reducible apply Did.ok_goto)
    | (with_reducible apply Did.ok_trap)
    | (with_reducible apply Did.ok_wait)
    | (with_reducible apply Did.ok_park)
    | (with_reducible apply Did.ok_left)
    | extract_lets
    | (with_reducible intro _)
    | (split)

theorem State.chunkBytes_ok (s : State) (c : CollCmd) (dst layout size : Nat) (bs : List Byte) (h_s : State.ok s) :
    State.ok ((State.chunkBytes s c dst layout size bs)).1 := by
  unfold State.chunkBytes
  try extract_lets
  repeat' first
    | (with_reducible assumption)
    | (with_reducible apply State.waggleBytes_ok)
    | (with_reducible apply Did.ok_done)
    | (with_reducible apply Did.ok_goto)
    | (with_reducible apply Did.ok_trap)
    | (with_reducible apply Did.ok_wait)
    | (with_reducible apply Did.ok_park)
    | (with_reducible apply Did.ok_left)
    | (with_reducible apply filter_wf)
    | extract_lets
    | (with_reducible intro _)
    | (split)

theorem State.beginChunk_ok (s : State) (c : CollCmd) (team : Nat) (h_s : State.ok s) :
    State.ok (State.beginChunk s c team) := by
  unfold State.beginChunk
  try extract_lets
  repeat' first
    | (with_reducible assumption)
    | (with_reducible apply State.dropColl_ok)
    | (with_reducible apply State.waggleBytes_ok)
    | (with_reducible apply State.finishColl_ok)
    | (with_reducible apply State.chunkBytes_ok)
    | (with_reducible apply State.enterGroup_ok)
    | (with_reducible apply Did.ok_done)
    | (with_reducible apply Did.ok_goto)
    | (with_reducible apply Did.ok_trap)
    | (with_reducible apply Did.ok_wait)
    | (with_reducible apply Did.ok_park)
    | (with_reducible apply Did.ok_left)
    | extract_lets
    | (with_reducible intro _)
    | (split)

theorem State.begin_ok (s : State) (c : CollCmd) (h_s : State.ok s) :
    State.ok (State.begin s c) := by
  unfold State.begin
  try extract_lets
  repeat' first
    | (with_reducible assumption)
    | (with_reducible apply State.beginChunk_ok)
    | (with_reducible apply State.beginColl_ok)
    | extract_lets
    | (with_reducible intro _)
    | (split)

theorem State.joinAll_ok (s : State) (h_s : State.ok s) :
    State.ok (State.joinAll s) := by
  unfold State.joinAll
  try extract_lets
  repeat' first
    | (with_reducible assumption)
    | (with_reducible apply foldState_ok)
    | (with_reducible apply settleEvent_ok)
    | (with_reducible apply State.begin_ok)
    | extract_lets
    | (with_reducible intro _)
    | (split)

theorem execColl_ok (q : Sched) (sa : SReg) (s : State) (h_s : State.ok s) :
    keeps (execColl q sa s) := by
  unfold execColl
  try extract_lets
  repeat' first
    | (with_reducible assumption)
    | (with_reducible apply issueWord_ok)
    | (with_reducible apply globalObject_ok)
    | (with_reducible apply State.commit_ok)
    | (with_reducible apply State.ordered_ok)
    | (with_reducible apply State.modDie_ok)
    | (with_reducible apply State.joinAll_ok)
    | (with_reducible apply Did.ok_done)
    | (with_reducible apply Did.ok_goto)
    | (with_reducible apply Did.ok_trap)
    | (with_reducible apply Did.ok_wait)
    | (with_reducible apply Did.ok_park)
    | (with_reducible apply Did.ok_left)
    | (with_reducible apply keeps_next)
    | (with_reducible apply keeps_fault)
    | (with_reducible apply keeps_refused)
    | extract_lets
    | (with_reducible intro _)
    | (split)
    | ((conv => arg 1; with_reducible whnf); split)
    | ((conv => arg 1; arg 1; with_reducible whnf); split)
    | ((conv => arg 1; with_reducible whnf); clear_value *; split)
    | ((conv => arg 1; arg 1; with_reducible whnf); clear_value *; split)
    | (clear_value *; split)
    | ((conv => arg 1; with_reducible whnf); with_reducible apply State.ok_mk)
    | (with_reducible apply State.ok_mk)
    | (with_reducible apply State.ok_mem)
    | (with_reducible apply State.ok_scm)
    | (with_reducible apply State.ok_versions)
    | (with_reducible apply State.ok_regs)

theorem State.sourceOf_ok (s : State) (spec : CollSpec) (root : Nat) (m : Member) (h_s : State.ok s) :
    State.ok ((State.sourceOf s spec root m)).1 := by
  unfold State.sourceOf
  try extract_lets
  repeat' first
    | (with_reducible assumption)
    | (with_reducible apply State.waggleBytes_ok)
    | extract_lets
    | (with_reducible intro _)
    | (split)

theorem State.gather_ok (s : State) (r : Round) (root : Nat) (remote : List (Nat × List (BitVec 8))) (a0 : List (Nat × Nat × Nat)) (h_s : State.ok s) :
    State.ok ((State.gather s r root remote a0)).1 := by
  induction a0 generalizing s with
  | nil => exact h_s
  | cons c l ih =>
    unfold State.gather
    extract_lets one
    have h1 : one.1.ok := by
      simp only [one]
      split
      · exact h_s
      · split
        · exact h_s
        · exact State.sourceOf_ok _ _ _ _ h_s
    clear_value one
    split
    · exact ih _ h1
    · exact h1

theorem State.setRound_ok (s : State) (r : Round) (h_s : State.ok s) :
    State.ok (State.setRound s r) := by
  unfold State.setRound
  try extract_lets
  repeat' first
    | (with_reducible assumption)
    | extract_lets
    | (with_reducible intro _)
    | (split)
    | (with_reducible apply State.ok_mk)
    | (with_reducible apply State.ok_mem)
    | (with_reducible apply State.ok_scm)
    | (with_reducible apply State.ok_versions)
    | (with_reducible apply State.ok_regs)

theorem State.reduce_ok (s : State) (op collid round : Nat) (remote : List (Nat × List (BitVec 8))) (h_s : State.ok s) :
    State.ok (State.reduce s op collid round remote) := by
  unfold State.reduce
  try extract_lets
  repeat' first
    | (with_reducible assumption)
    | (with_reducible apply State.joinAll_ok)
    | (with_reducible apply State.readGroup_ok)
    | (with_reducible apply State.gather_ok)
    | (with_reducible apply settleEvent_ok)
    | (with_reducible apply State.setRound_ok)
    | (with_reducible apply State.peerFailure_ok)
    | extract_lets
    | (with_reducible intro _)
    | (split)

theorem execCollSum_ok (collid round : Nat) (remote : List (Nat × List (BitVec 8))) (s : State) (h_s : State.ok s) :
    keeps (execCollSum collid round remote s) := by
  unfold execCollSum
  try extract_lets
  repeat' first
    | (with_reducible assumption)
    | (with_reducible apply State.reduce_ok)
    | (with_reducible apply Did.ok_done)
    | (with_reducible apply Did.ok_goto)
    | (with_reducible apply Did.ok_trap)
    | (with_reducible apply Did.ok_wait)
    | (with_reducible apply Did.ok_park)
    | (with_reducible apply Did.ok_left)
    | (with_reducible apply keeps_next)

theorem execCollMax_ok (collid round : Nat) (remote : List (Nat × List (BitVec 8))) (s : State) (h_s : State.ok s) :
    keeps (execCollMax collid round remote s) := by
  unfold execCollMax
  try extract_lets
  repeat' first
    | (with_reducible assumption)
    | (with_reducible apply State.reduce_ok)
    | (with_reducible apply Did.ok_done)
    | (with_reducible apply Did.ok_goto)
    | (with_reducible apply Did.ok_trap)
    | (with_reducible apply Did.ok_wait)
    | (with_reducible apply Did.ok_park)
    | (with_reducible apply Did.ok_left)
    | (with_reducible apply keeps_next)

theorem execCollMin_ok (collid round : Nat) (remote : List (Nat × List (BitVec 8))) (s : State) (h_s : State.ok s) :
    keeps (execCollMin collid round remote s) := by
  unfold execCollMin
  try extract_lets
  repeat' first
    | (with_reducible assumption)
    | (with_reducible apply State.reduce_ok)
    | (with_reducible apply Did.ok_done)
    | (with_reducible apply Did.ok_goto)
    | (with_reducible apply Did.ok_trap)
    | (with_reducible apply Did.ok_wait)
    | (with_reducible apply Did.ok_park)
    | (with_reducible apply Did.ok_left)
    | (with_reducible apply keeps_next)

theorem execCollDraw_ok (collid round : Nat) (remote : List (Nat × List (BitVec 8))) (s : State) (h_s : State.ok s) :
    keeps (execCollDraw collid round remote s) := by
  unfold execCollDraw
  try extract_lets
  repeat' first
    | (with_reducible assumption)
    | (with_reducible apply State.reduce_ok)
    | (with_reducible apply Did.ok_done)
    | (with_reducible apply Did.ok_goto)
    | (with_reducible apply Did.ok_trap)
    | (with_reducible apply Did.ok_wait)
    | (with_reducible apply Did.ok_park)
    | (with_reducible apply Did.ok_left)
    | (with_reducible apply keeps_next)

theorem execCollBarrier_ok (collid round : Nat) (remote : List (Nat × List (BitVec 8))) (s : State) (h_s : State.ok s) :
    keeps (execCollBarrier collid round remote s) := by
  unfold execCollBarrier
  try extract_lets
  repeat' first
    | (with_reducible assumption)
    | (with_reducible apply State.reduce_ok)
    | (with_reducible apply Did.ok_done)
    | (with_reducible apply Did.ok_goto)
    | (with_reducible apply Did.ok_trap)
    | (with_reducible apply Did.ok_wait)
    | (with_reducible apply Did.ok_park)
    | (with_reducible apply Did.ok_left)
    | (with_reducible apply keeps_next)

theorem execCollBroadcast_ok (collid round : Nat) (remote : List (Nat × List (BitVec 8))) (s : State) (h_s : State.ok s) :
    keeps (execCollBroadcast collid round remote s) := by
  unfold execCollBroadcast
  try extract_lets
  repeat' first
    | (with_reducible assumption)
    | (with_reducible apply State.reduce_ok)
    | (with_reducible apply Did.ok_done)
    | (with_reducible apply Did.ok_goto)
    | (with_reducible apply Did.ok_trap)
    | (with_reducible apply Did.ok_wait)
    | (with_reducible apply Did.ok_park)
    | (with_reducible apply Did.ok_left)
    | (with_reducible apply keeps_next)

theorem execCollAllgather_ok (collid round : Nat) (remote : List (Nat × List (BitVec 8))) (s : State) (h_s : State.ok s) :
    keeps (execCollAllgather collid round remote s) := by
  unfold execCollAllgather
  try extract_lets
  repeat' first
    | (with_reducible assumption)
    | (with_reducible apply State.reduce_ok)
    | (with_reducible apply Did.ok_done)
    | (with_reducible apply Did.ok_goto)
    | (with_reducible apply Did.ok_trap)
    | (with_reducible apply Did.ok_wait)
    | (with_reducible apply Did.ok_park)
    | (with_reducible apply Did.ok_left)
    | (with_reducible apply keeps_next)

theorem State.resultBytes_ok (s : State) (r : Round) (m : Member) (bs : List Byte) (h_s : State.ok s) :
    State.ok ((State.resultBytes s r m bs)).1 := by
  unfold State.resultBytes
  try extract_lets
  repeat' first
    | (with_reducible assumption)
    | (with_reducible apply State.chunkBytes_ok)
    | extract_lets
    | (with_reducible intro _)
    | (split)

theorem State.completeMember_ok (s : State) (r : Round) (m : Member) (h_s : State.ok s) :
    ∀ u, (State.completeMember s r m) = .ok u → State.ok u := by
  unfold State.completeMember
  try extract_lets
  repeat' first
    | (with_reducible assumption)
    | (with_reducible apply State.finishColl_ok)
    | (with_reducible apply State.resultBytes_ok)
    | (with_reducible refine State.waggleElems_ok _ _ _ _ ?_)
    | (with_reducible refine State.waggleElems_ok _ _ _ _ ?_ _ (by assumption))
    | (with_reducible apply State.store_ok)
    | (with_reducible apply State.clearWhole_ok)
    | (with_reducible apply Did.ok_done)
    | (with_reducible apply Did.ok_goto)
    | (with_reducible apply Did.ok_trap)
    | (with_reducible apply Did.ok_wait)
    | (with_reducible apply Did.ok_park)
    | (with_reducible apply Did.ok_left)
    | (with_reducible apply filter_wf)
    | (refine got_ok ?_)
    | (refine got_bad)
    | (refine got_wait)
    | extract_lets
    | (split)

theorem State.completeMembers_ok (s : State) (r : Round) (a0 : List Member) (h_s : State.ok s) :
    ∀ u, (State.completeMembers s r a0) = .ok u → State.ok u := by
  induction a0 generalizing s r with
  | nil =>
    unfold State.completeMembers
    try extract_lets
    repeat' first
      | (with_reducible assumption)
      | (with_reducible refine State.completeMember_ok _ _ _ ?_)
      | (with_reducible refine State.completeMember_ok _ _ _ ?_ _ (by assumption))
      | (refine got_ok ?_)
  | cons c_ l_ ih =>
    unfold State.completeMembers
    try extract_lets
    repeat' first
      | (with_reducible assumption)
      | (refine ih _ _ ?_)
      | (refine ih _ _ ?_ _ (by assumption))
      | (with_reducible refine State.completeMember_ok _ _ _ ?_)
      | (with_reducible refine State.completeMember_ok _ _ _ ?_ _ (by assumption))
      | (refine got_ok ?_)
      | (refine got_bad)
      | (refine got_wait)
      | extract_lets
      | (split)

theorem execCollRoundComplete_ok (collid round : Nat) (s : State) (h_s : State.ok s) :
    keeps (execCollRoundComplete collid round s) := by
  unfold execCollRoundComplete
  try extract_lets
  repeat' first
    | (with_reducible assumption)
    | (with_reducible apply State.joinAll_ok)
    | (with_reducible apply State.readGroup_ok)
    | (with_reducible refine State.completeMembers_ok _ _ _ ?_)
    | (with_reducible refine State.completeMembers_ok _ _ _ ?_ _ (by assumption))
    | (with_reducible apply settleEvent_ok)
    | (with_reducible apply State.setRound_ok)
    | (with_reducible apply Did.ok_done)
    | (with_reducible apply Did.ok_goto)
    | (with_reducible apply Did.ok_trap)
    | (with_reducible apply Did.ok_wait)
    | (with_reducible apply Did.ok_park)
    | (with_reducible apply Did.ok_left)
    | (with_reducible apply keeps_next)
    | (with_reducible apply keeps_fault)
    | (with_reducible apply keeps_refused)
    | (with_reducible apply filter_wf)
    | extract_lets
    | (with_reducible intro _)
    | (split)
    | ((conv => arg 1; with_reducible whnf); split)
    | ((conv => arg 1; arg 1; with_reducible whnf); split)
    | ((conv => arg 1; with_reducible whnf); clear_value *; split)
    | ((conv => arg 1; arg 1; with_reducible whnf); clear_value *; split)
    | (clear_value *; split)
    | ((conv => arg 1; with_reducible whnf); with_reducible apply State.ok_mk)
    | (with_reducible apply State.ok_mk)
    | (with_reducible apply State.ok_mem)
    | (with_reducible apply State.ok_scm)
    | (with_reducible apply State.ok_versions)
    | (with_reducible apply State.ok_regs)

theorem execCollTimeout_ok (collid round : Nat) (s : State) (h_s : State.ok s) :
    keeps (execCollTimeout collid round s) := by
  unfold execCollTimeout
  try extract_lets
  repeat' first
    | (with_reducible assumption)
    | (with_reducible apply State.setRound_ok)
    | (with_reducible apply Did.ok_done)
    | (with_reducible apply Did.ok_goto)
    | (with_reducible apply Did.ok_trap)
    | (with_reducible apply Did.ok_wait)
    | (with_reducible apply Did.ok_park)
    | (with_reducible apply Did.ok_left)
    | (with_reducible apply keeps_next)
    | (with_reducible apply keeps_fault)
    | (with_reducible apply keeps_refused)
    | extract_lets
    | (with_reducible intro _)
    | (split)

theorem State.timeOut_ok (s : State) (r : Round) (h_s : State.ok s) :
    State.ok (State.timeOut s r) := by
  unfold State.timeOut
  try extract_lets
  repeat' first
    | (with_reducible assumption)
    | (with_reducible apply foldState_ok)
    | (with_reducible apply State.finishColl_ok)
    | extract_lets
    | (with_reducible intro _)

theorem State.resetGroup_ok (s : State) (entry : Nat) (h_s : State.ok s) :
    State.ok (State.resetGroup s entry) := by
  unfold State.resetGroup
  try extract_lets
  repeat' first
    | (with_reducible assumption)
    | (with_reducible apply foldState_ok)
    | (with_reducible apply State.timeOut_ok)
    | (with_reducible apply filter_wf)
    | extract_lets
    | (with_reducible intro _)
    | (split)
    | ((conv => arg 1; with_reducible whnf); split)
    | ((conv => arg 1; arg 1; with_reducible whnf); split)
    | ((conv => arg 1; with_reducible whnf); clear_value *; split)
    | ((conv => arg 1; arg 1; with_reducible whnf); clear_value *; split)
    | (clear_value *; split)
    | ((conv => arg 1; with_reducible whnf); with_reducible apply State.ok_mk)
    | (with_reducible apply State.ok_mk)
    | (with_reducible apply State.ok_mem)
    | (with_reducible apply State.ok_scm)
    | (with_reducible apply State.ok_versions)
    | (with_reducible apply State.ok_regs)

theorem execGroupTableWrite_ok (off width : Nat) (value : BitVec 64) (s : State) (h_s : State.ok s) :
    keeps (execGroupTableWrite off width value s) := by
  unfold execGroupTableWrite
  try extract_lets
  repeat' first
    | (with_reducible assumption)
    | (with_reducible apply State.resetGroup_ok)
    | (with_reducible apply State.take_ok)
    | (with_reducible apply Did.ok_done)
    | (with_reducible apply Did.ok_goto)
    | (with_reducible apply Did.ok_trap)
    | (with_reducible apply Did.ok_wait)
    | (with_reducible apply Did.ok_park)
    | (with_reducible apply Did.ok_left)
    | (with_reducible apply keeps_next)
    | (with_reducible apply keeps_fault)
    | (with_reducible apply keeps_refused)
    | extract_lets
    | (with_reducible intro _)
    | (split)
    | ((conv => arg 1; with_reducible whnf); split)
    | ((conv => arg 1; arg 1; with_reducible whnf); split)
    | ((conv => arg 1; with_reducible whnf); clear_value *; split)
    | ((conv => arg 1; arg 1; with_reducible whnf); clear_value *; split)
    | (clear_value *; split)
    | ((conv => arg 1; with_reducible whnf); with_reducible apply State.ok_mk)
    | (with_reducible apply State.ok_mk)
    | (with_reducible apply State.ok_mem)
    | (with_reducible apply State.ok_scm)
    | (with_reducible apply State.ok_versions)
    | (with_reducible apply State.ok_regs)

/-! ### Snapshot -/

theorem State.durable_ok (s : State) (pa : Nat) (bs : List Byte) (h_s : State.ok s) :
    State.ok (State.durable s pa bs) := by
  unfold State.durable
  try extract_lets
  repeat' first
    | (with_reducible assumption)
    | (with_reducible apply Did.state_ok)
    | (with_reducible apply State.failCapture_ok)
    | (with_reducible apply State.storeRun_ok)
    | (with_reducible apply splice_wf)
    | (with_reducible apply filter_wf)
    | extract_lets
    | (with_reducible intro _)
    | (split)
    | ((conv => arg 1; with_reducible whnf); split)
    | ((conv => arg 1; arg 1; with_reducible whnf); split)
    | ((conv => arg 1; with_reducible whnf); clear_value *; split)
    | ((conv => arg 1; arg 1; with_reducible whnf); clear_value *; split)
    | (clear_value *; split)
    | ((conv => arg 1; with_reducible whnf); with_reducible apply State.ok_mk)
    | (with_reducible apply State.ok_mk)
    | (with_reducible apply State.ok_mem)
    | (with_reducible apply State.ok_scm)
    | (with_reducible apply State.ok_versions)
    | (with_reducible apply State.ok_regs)

theorem State.snapWrite_ok (s : State) (v : Word) (h_s : State.ok s) :
    State.ok (State.snapWrite s v) := by
  unfold State.snapWrite
  try extract_lets
  repeat' first
    | (with_reducible assumption)
    | (with_reducible apply Did.state_ok)
    | (with_reducible apply State.durable_ok)
    | extract_lets
    | (with_reducible intro _)
    | (split)
    | ((conv => arg 1; with_reducible whnf); split)
    | ((conv => arg 1; arg 1; with_reducible whnf); split)
    | ((conv => arg 1; with_reducible whnf); clear_value *; split)
    | ((conv => arg 1; arg 1; with_reducible whnf); clear_value *; split)
    | (clear_value *; split)
    | ((conv => arg 1; with_reducible whnf); with_reducible apply State.ok_mk)
    | (with_reducible apply State.ok_mk)
    | (with_reducible apply State.ok_mem)
    | (with_reducible apply State.ok_scm)
    | (with_reducible apply State.ok_versions)
    | (with_reducible apply State.ok_regs)

theorem State.checkStripe_ok (s : State) (h_s : State.ok s) :
    State.ok (State.checkStripe s) := by
  unfold State.checkStripe
  try extract_lets
  repeat' first
    | (with_reducible assumption)
    | (with_reducible apply Did.state_ok)
    | (with_reducible apply State.failCapture_ok)
    | extract_lets
    | (with_reducible intro _)
    | (split)

/-! ### Remote -/

theorem execSignal_ok (q : Sched) (sa sb : SReg) (s : State) (h_s : State.ok s) :
    keeps (execSignal q sa sb s) := by
  unfold execSignal
  try extract_lets
  repeat' first
    | (with_reducible assumption)
    | (with_reducible apply issueWord_ok)
    | (with_reducible apply globalObject_ok)
    | (with_reducible apply State.commit_ok)
    | (with_reducible apply State.sendOp_ok)
    | (with_reducible apply State.release_ok)
    | (with_reducible apply Did.ok_done)
    | (with_reducible apply Did.ok_goto)
    | (with_reducible apply Did.ok_trap)
    | (with_reducible apply Did.ok_wait)
    | (with_reducible apply Did.ok_park)
    | (with_reducible apply Did.ok_left)
    | (with_reducible apply keeps_next)
    | (with_reducible apply keeps_fault)
    | (with_reducible apply keeps_refused)
    | extract_lets
    | (with_reducible intro _)
    | (split)

theorem State.setPerformed_ok (s : State) (n : Nat) (h_s : State.ok s) :
    State.ok (State.setPerformed s n) := by
  unfold State.setPerformed
  try extract_lets
  repeat' first
    | (with_reducible assumption)
    | extract_lets
    | (with_reducible intro _)
    | (split)
    | (with_reducible apply State.ok_mk)
    | (with_reducible apply State.ok_mem)
    | (with_reducible apply State.ok_scm)
    | (with_reducible apply State.ok_versions)
    | (with_reducible apply State.ok_regs)

theorem State.reroute_ok (s : State) (h_s : State.ok s) :
    State.ok (State.reroute s) := by
  unfold State.reroute
  try extract_lets
  repeat' first
    | (with_reducible assumption)
    | extract_lets
    | (with_reducible intro _)
    | (split)
    | (with_reducible apply State.ok_mk)
    | (with_reducible apply State.ok_mem)
    | (with_reducible apply State.ok_scm)
    | (with_reducible apply State.ok_versions)
    | (with_reducible apply State.ok_regs)

theorem State.dropRemote_ok (s : State) (n : Nat) (h_s : State.ok s) :
    State.ok (State.dropRemote s n) := by
  unfold State.dropRemote
  try extract_lets
  repeat' first
    | (with_reducible assumption)
    | (with_reducible apply State.reroute_ok)
    | (with_reducible apply filter_wf)
    | extract_lets
    | (with_reducible intro _)
    | (split)
    | (with_reducible apply State.ok_mk)
    | (with_reducible apply State.ok_mem)
    | (with_reducible apply State.ok_scm)
    | (with_reducible apply State.ok_versions)
    | (with_reducible apply State.ok_regs)

theorem State.writeFlag_ok (s : State) (r : RemoteOp) (h_s : State.ok s) :
    State.ok (State.writeFlag s r) := by
  unfold State.writeFlag
  try extract_lets
  repeat' first
    | (with_reducible assumption)
    | (with_reducible apply foldState_ok)
    | (with_reducible apply State.dropRows_ok)
    | (with_reducible apply State.storeAt_ok)
    | (with_reducible apply State.enter_ok)
    | (with_reducible apply State.stallOn_ok)
    | extract_lets
    | (with_reducible intro _)
    | (split)

theorem execRemoteStorePerform_ok (n : Nat) (s : State) (h_s : State.ok s) :
    keeps (execRemoteStorePerform n s) := by
  unfold execRemoteStorePerform
  try extract_lets
  repeat' first
    | (with_reducible assumption)
    | (with_reducible apply State.writeFlag_ok)
    | (with_reducible apply settleEvent_ok)
    | (with_reducible apply State.setPerformed_ok)
    | (with_reducible apply Did.ok_done)
    | (with_reducible apply Did.ok_goto)
    | (with_reducible apply Did.ok_trap)
    | (with_reducible apply Did.ok_wait)
    | (with_reducible apply Did.ok_park)
    | (with_reducible apply Did.ok_left)
    | (with_reducible apply keeps_next)
    | (with_reducible apply keeps_fault)
    | (with_reducible apply keeps_refused)
    | extract_lets
    | (with_reducible intro _)
    | (split)
    | ((conv => arg 1; with_reducible whnf); split)

theorem execRemoteAck_ok (n : Nat) (s : State) (h_s : State.ok s) :
    keeps (execRemoteAck n s) := by
  unfold execRemoteAck
  try extract_lets
  repeat' first
    | (with_reducible assumption)
    | (with_reducible apply State.dropRemote_ok)
    | (with_reducible apply Did.ok_done)
    | (with_reducible apply Did.ok_goto)
    | (with_reducible apply Did.ok_trap)
    | (with_reducible apply Did.ok_wait)
    | (with_reducible apply Did.ok_park)
    | (with_reducible apply Did.ok_left)
    | (with_reducible apply keeps_next)
    | (with_reducible apply keeps_fault)
    | (with_reducible apply keeps_refused)
    | extract_lets
    | (with_reducible intro _)
    | (split)

theorem execRemoteFailure_ok (n : Nat) (s : State) (h_s : State.ok s) :
    keeps (execRemoteFailure n s) := by
  unfold execRemoteFailure
  try extract_lets
  repeat' first
    | (with_reducible assumption)
    | (with_reducible apply State.dropRemote_ok)
    | (with_reducible apply State.peerFailure_ok)
    | (with_reducible apply Did.ok_done)
    | (with_reducible apply Did.ok_goto)
    | (with_reducible apply Did.ok_trap)
    | (with_reducible apply Did.ok_wait)
    | (with_reducible apply Did.ok_park)
    | (with_reducible apply Did.ok_left)
    | (with_reducible apply keeps_next)
    | (with_reducible apply keeps_fault)
    | (with_reducible apply keeps_refused)
    | extract_lets
    | (with_reducible intro _)
    | (split)

theorem execInboundAccess_ok (pkg off len : Nat) (access : PeerAccess) (s : State) (h_s : State.ok s) :
    keeps (execInboundAccess pkg off len access s) := by
  unfold execInboundAccess
  try extract_lets
  repeat' first
    | (with_reducible assumption)
    | (with_reducible apply Did.refused_ok)
    | (with_reducible apply State.readPoint_ok)
    | (with_reducible apply State.rangeRead_ok)
    | (with_reducible apply State.storeAt_ok)
    | (with_reducible apply settleEvent_ok)
    | (with_reducible apply Did.ok_done)
    | (with_reducible apply Did.ok_goto)
    | (with_reducible apply Did.ok_trap)
    | (with_reducible apply Did.ok_wait)
    | (with_reducible apply Did.ok_park)
    | (with_reducible apply Did.ok_left)
    | (with_reducible apply keeps_next)
    | (with_reducible apply keeps_fault)
    | (with_reducible apply keeps_refused)
    | extract_lets
    | (with_reducible intro _)
    | ((conv => arg 1; with_reducible whnf); first | (with_reducible apply Did.refused_ok) | (with_reducible apply State.readPoint_ok) | (with_reducible apply State.rangeRead_ok) | (with_reducible apply State.storeAt_ok) | (with_reducible apply settleEvent_ok) | (with_reducible apply Did.ok_done) | (with_reducible apply Did.ok_goto) | (with_reducible apply Did.ok_trap) | (with_reducible apply Did.ok_wait) | (with_reducible apply Did.ok_park) | (with_reducible apply Did.ok_left) | (with_reducible apply keeps_next) | (with_reducible apply keeps_fault) | (with_reducible apply keeps_refused))
    | (split)
    | ((conv => arg 1; with_reducible whnf); split)
    | ((conv => arg 1; arg 1; with_reducible whnf); split)
    | ((conv => arg 1; with_reducible whnf); clear_value *; split)
    | ((conv => arg 1; arg 1; with_reducible whnf); clear_value *; split)
    | (clear_value *; split)
    | ((conv => arg 1; with_reducible whnf); with_reducible apply State.ok_mk)
    | (with_reducible apply State.ok_mk)
    | (with_reducible apply State.ok_mem)
    | (with_reducible apply State.ok_scm)
    | (with_reducible apply State.ok_versions)
    | (with_reducible apply State.ok_regs)

theorem execPeerTableWrite_ok (off width : Nat) (value : BitVec 64) (s : State) (h_s : State.ok s) :
    keeps (execPeerTableWrite off width value s) := by
  unfold execPeerTableWrite
  try extract_lets
  repeat' first
    | (with_reducible assumption)
    | (with_reducible apply State.setPeer_ok)
    | (with_reducible apply State.checkStripe_ok)
    | (with_reducible apply Did.ok_done)
    | (with_reducible apply Did.ok_goto)
    | (with_reducible apply Did.ok_trap)
    | (with_reducible apply Did.ok_wait)
    | (with_reducible apply Did.ok_park)
    | (with_reducible apply Did.ok_left)
    | (with_reducible apply keeps_next)
    | (with_reducible apply keeps_fault)
    | (with_reducible apply keeps_refused)
    | extract_lets
    | (with_reducible intro _)
    | (split)

theorem execFlitReplay_ok (port : Nat) (s : State) (h_s : State.ok s) :
    keeps (execFlitReplay port s) := by
  unfold execFlitReplay
  try extract_lets
  repeat' first
    | (with_reducible assumption)
    | (with_reducible apply Did.ok_done)
    | (with_reducible apply Did.ok_goto)
    | (with_reducible apply Did.ok_trap)
    | (with_reducible apply Did.ok_wait)
    | (with_reducible apply Did.ok_park)
    | (with_reducible apply Did.ok_left)
    | (with_reducible apply keeps_next)
    | (with_reducible apply keeps_fault)
    | (with_reducible apply keeps_refused)
    | extract_lets
    | (with_reducible intro _)
    | (split)
    | (with_reducible apply State.ok_mk)
    | (with_reducible apply State.ok_mem)
    | (with_reducible apply State.ok_scm)
    | (with_reducible apply State.ok_versions)
    | (with_reducible apply State.ok_regs)

theorem execPortDown_ok (port : Nat) (s : State) (h_s : State.ok s) :
    keeps (execPortDown port s) := by
  unfold execPortDown
  try extract_lets
  repeat' first
    | (with_reducible assumption)
    | (with_reducible apply State.reroute_ok)
    | (with_reducible apply State.checkStripe_ok)
    | (with_reducible apply Did.ok_done)
    | (with_reducible apply Did.ok_goto)
    | (with_reducible apply Did.ok_trap)
    | (with_reducible apply Did.ok_wait)
    | (with_reducible apply Did.ok_park)
    | (with_reducible apply Did.ok_left)
    | (with_reducible apply keeps_next)
    | (with_reducible apply keeps_fault)
    | (with_reducible apply keeps_refused)
    | extract_lets
    | (with_reducible intro _)
    | (split)
    | (with_reducible apply State.ok_mk)
    | (with_reducible apply State.ok_mem)
    | (with_reducible apply State.ok_scm)
    | (with_reducible apply State.ok_versions)
    | (with_reducible apply State.ok_regs)

theorem State.spotStore_ok (s : State) (pa : Nat) (a0 : List Byte) (h_s : State.ok s) :
    ∀ u, (State.spotStore s pa a0) = .ok u → State.ok u := by
  induction a0 generalizing s pa with
  | nil =>
    unfold State.spotStore
    try extract_lets
    repeat' first
      | (with_reducible assumption)
      | (with_reducible refine State.spotWrite_ok _ _ _ _ ?_)
      | (with_reducible refine State.spotWrite_ok _ _ _ _ ?_ _ (by assumption))
      | (refine got_ok ?_)
  | cons c_ l_ ih =>
    unfold State.spotStore
    try extract_lets
    repeat' first
      | (with_reducible assumption)
      | (refine ih _ _ ?_)
      | (refine ih _ _ ?_ _ (by assumption))
      | (with_reducible refine State.spotWrite_ok _ _ _ _ ?_)
      | (with_reducible refine State.spotWrite_ok _ _ _ _ ?_ _ (by assumption))
      | (refine got_ok ?_)
      | (refine got_bad)
      | (refine got_wait)
      | extract_lets
      | (split)

theorem State.dropHost_ok (s : State) (h_s : State.ok s) :
    State.ok (State.dropHost s) := by
  unfold State.dropHost
  try extract_lets
  repeat' first
    | (with_reducible assumption)
    | extract_lets
    | (with_reducible intro _)
    | (split)
    | (with_reducible apply State.ok_mk)
    | (with_reducible apply State.ok_mem)
    | (with_reducible apply State.ok_scm)
    | (with_reducible apply State.ok_versions)
    | (with_reducible apply State.ok_regs)

theorem execMailboxWrite_ok (port off : Nat) (data : List (BitVec 8)) (s : State) (h_s : State.ok s) :
    keeps (execMailboxWrite port off data s) := by
  unfold execMailboxWrite
  try extract_lets
  repeat' first
    | (with_reducible assumption)
    | (with_reducible apply State.dropHost_ok)
    | (with_reducible apply State.sendOp_ok)
    | (with_reducible refine State.spotStore_ok _ _ _ ?_)
    | (with_reducible refine State.spotStore_ok _ _ _ ?_ _ (by assumption))
    | (with_reducible apply settleEvent_ok)
    | (with_reducible apply State.storeAt_ok)
    | (with_reducible apply Did.ok_done)
    | (with_reducible apply Did.ok_goto)
    | (with_reducible apply Did.ok_trap)
    | (with_reducible apply Did.ok_wait)
    | (with_reducible apply Did.ok_park)
    | (with_reducible apply Did.ok_left)
    | (with_reducible apply keeps_next)
    | (with_reducible apply keeps_fault)
    | (with_reducible apply keeps_refused)
    | extract_lets
    | (with_reducible intro _)
    | (split)

theorem execMailboxRead_ok (port off len : Nat) (s : State) (h_s : State.ok s) :
    keeps (execMailboxRead port off len s) := by
  unfold execMailboxRead
  try extract_lets
  repeat' first
    | (with_reducible assumption)
    | (with_reducible apply State.askPeer_ok)
    | (with_reducible apply State.readPoint_ok)
    | (with_reducible apply settleEvent_ok)
    | (with_reducible apply State.rangeRead_ok)
    | (with_reducible apply Did.ok_done)
    | (with_reducible apply Did.ok_goto)
    | (with_reducible apply Did.ok_trap)
    | (with_reducible apply Did.ok_wait)
    | (with_reducible apply Did.ok_park)
    | (with_reducible apply Did.ok_left)
    | (with_reducible apply keeps_next)
    | (with_reducible apply keeps_fault)
    | (with_reducible apply keeps_refused)
    | extract_lets
    | (with_reducible intro _)
    | ((conv => arg 1; with_reducible whnf); first | (with_reducible apply State.askPeer_ok) | (with_reducible apply State.readPoint_ok) | (with_reducible apply settleEvent_ok) | (with_reducible apply State.rangeRead_ok) | (with_reducible apply Did.ok_done) | (with_reducible apply Did.ok_goto) | (with_reducible apply Did.ok_trap) | (with_reducible apply Did.ok_wait) | (with_reducible apply Did.ok_park) | (with_reducible apply Did.ok_left) | (with_reducible apply keeps_next) | (with_reducible apply keeps_fault) | (with_reducible apply keeps_refused))
    | (split)
    | ((conv => arg 1; with_reducible whnf); split)
    | ((conv => arg 1; arg 1; with_reducible whnf); split)
    | ((conv => arg 1; with_reducible whnf); clear_value *; split)
    | ((conv => arg 1; arg 1; with_reducible whnf); clear_value *; split)
    | (clear_value *; split)
    | ((conv => arg 1; with_reducible whnf); with_reducible apply State.ok_mk)
    | (with_reducible apply State.ok_mk)
    | (with_reducible apply State.ok_mem)
    | (with_reducible apply State.ok_scm)
    | (with_reducible apply State.ok_versions)
    | (with_reducible apply State.ok_regs)

end Sys2Proof.Machine
end

