-- ==== Sys2Proof/Laws/KeepTask.lean ====
section
/-! SUPPORT. The canonical form of both memories is kept by tasks, futures, rings, capsules, queues, scans, the scheduler, launches and images.
The lemma `f_ok` of a function f says so of f (log entry 3). -/

namespace Sys2Proof.Machine

/-! ### Adopt -/

theorem State.newTask_ok (s : State) (ctx : Nat) (h_s : State.ok s) :
    State.ok ((State.newTask s ctx)).1 := by
  unfold State.newTask
  try extract_lets
  repeat' first
    | (with_reducible assumption)
    | (with_reducible apply State.setContext_ok)

theorem State.startWave_ok (s : State) (slot : Nat) (w : Wave) (h_s : State.ok s) :
    State.ok (State.startWave s slot w) := by
  unfold State.startWave
  try extract_lets
  repeat' first
    | (with_reducible assumption)
    | (with_reducible apply State.setWave_ok)
    | (with_reducible apply State.acquire_ok)

theorem State.startBrood_ok (s : State) (b : Brood) (slot base adopt : Nat) (h_s : State.ok s) :
    State.ok (State.startBrood s b slot base adopt) := by
  unfold State.startBrood
  try extract_lets
  repeat' first
    | (with_reducible assumption)
    | (with_reducible apply State.setTeam_ok)
    | (with_reducible apply State.writeLaneArgs_ok)
    | (with_reducible apply State.startWave_ok)
    | (with_reducible apply State.wave_ok)
    | (with_reducible apply State.adopt_ok)
    | extract_lets
    | (with_reducible intro _)
    | (split)
    | ((conv => arg 1; with_reducible whnf); split)
    | ((conv => arg 1; arg 1; with_reducible whnf); split)
    | ((conv => arg 1; with_reducible whnf); clear_value *; split)
    | ((conv => arg 1; arg 1; with_reducible whnf); clear_value *; split)
    | (clear_value *; split)
    | ((conv => arg 1; with_reducible whnf); with_reducible apply State.ok_mk)
    | (with_reducible apply State.ok_mk)
    | (with_reducible apply State.ok_mem)
    | (with_reducible apply State.ok_scm)
    | (with_reducible apply State.ok_versions)
    | (with_reducible apply State.ok_regs)

theorem State.queueBrood_ok (s : State) (b : Brood) (h_s : State.ok s) :
    State.ok (State.queueBrood s b) := by
  unfold State.queueBrood
  try extract_lets
  repeat' first
    | (with_reducible assumption)
    | (with_reducible apply State.distributable_ok)
    | extract_lets
    | (with_reducible intro _)
    | (split)
    | (with_reducible apply State.ok_mk)
    | (with_reducible apply State.ok_mem)
    | (with_reducible apply State.ok_scm)
    | (with_reducible apply State.ok_versions)
    | (with_reducible apply State.ok_regs)

theorem State.dispatchOldest_ok (s : State) (clus : Nat) (h_s : State.ok s) :
    State.ok (State.dispatchOldest s clus) := by
  unfold State.dispatchOldest
  try extract_lets
  repeat' first
    | (with_reducible assumption)
    | (with_reducible apply State.modCluster_ok)
    | (with_reducible apply State.queueBrood_ok)
    | extract_lets
    | (with_reducible intro _)
    | (split)

theorem State.broodEnter_ok (s : State) (clus : Nat) (w : Wave) (hdr : Header) (arg : DWord) (h_s : State.ok s) :
    State.ok ((State.broodEnter s clus w hdr arg)).1 := by
  unfold State.broodEnter
  try extract_lets
  repeat' first
    | (with_reducible assumption)
    | (with_reducible apply State.modCluster_ok)
    | (with_reducible apply State.queueBrood_ok)
    | (with_reducible apply State.dispatchOldest_ok)
    | (with_reducible apply State.newTask_ok)
    | (with_reducible apply filter_wf)
    | extract_lets
    | (with_reducible intro _)
    | ((conv => arg 1; with_reducible whnf); first | (with_reducible apply State.modCluster_ok) | (with_reducible apply State.queueBrood_ok) | (with_reducible apply State.dispatchOldest_ok) | (with_reducible apply State.newTask_ok))
    | (split)
    | ((conv => arg 1; with_reducible whnf); split)

theorem execBroodTimeout_ok (clus : Nat) (s : State) (h_s : State.ok s) :
    keeps (execBroodTimeout clus s) := by
  unfold execBroodTimeout
  try extract_lets
  repeat' first
    | (with_reducible assumption)
    | (with_reducible apply Did.state_ok)
    | (with_reducible apply State.modCluster_ok)
    | (with_reducible apply State.queueBrood_ok)
    | (with_reducible apply Did.ok_done)
    | (with_reducible apply Did.ok_goto)
    | (with_reducible apply Did.ok_trap)
    | (with_reducible apply Did.ok_wait)
    | (with_reducible apply Did.ok_park)
    | (with_reducible apply Did.ok_left)
    | (with_reducible apply keeps_next)
    | (with_reducible apply keeps_fault)
    | (with_reducible apply keeps_refused)
    | (with_reducible apply filter_wf)
    | extract_lets
    | (with_reducible intro _)
    | (split)

theorem State.recallImage_ok (s : State) (m : Image) (h_s : State.ok s) :
    State.ok ((State.recallImage s m)).1 := by
  unfold State.recallImage
  try extract_lets
  repeat' first
    | (with_reducible assumption)
    | (with_reducible apply State.readRange_ok)

theorem State.checkImage_ok (s : State) (m : Image) (h_s : State.ok s) :
    State.ok (State.checkImage s m) := by
  unfold State.checkImage
  try extract_lets
  repeat' first
    | (with_reducible assumption)
    | (with_reducible apply State.spoilSlots_ok)
    | extract_lets
    | (with_reducible intro _)
    | (split)

theorem State.resumeWave_ok (s : State) (slot : Nat) (w : Wave) (t : Team) (base : Nat) (h_s : State.ok s) :
    State.ok (State.resumeWave s slot w t base) := by
  unfold State.resumeWave
  try extract_lets
  repeat' first
    | (with_reducible assumption)
    | (with_reducible apply State.setWave_ok)
    | (with_reducible apply State.clearL1_ok)
    | (with_reducible apply State.acquireDue_ok)

theorem State.retest_ok (s : State) (slot : Nat) (h_s : State.ok s) :
    State.ok (State.retest s slot) := by
  unfold State.retest
  try extract_lets
  repeat' first
    | (with_reducible assumption)
    | (with_reducible apply State.modWave_ok)
    | (with_reducible apply State.releaseWhere_ok)
    | (with_reducible apply foldState_ok)
    | (with_reducible apply State.releaseBar_ok)
    | (with_reducible apply Did.ok_done)
    | (with_reducible apply Did.ok_goto)
    | (with_reducible apply Did.ok_trap)
    | (with_reducible apply Did.ok_wait)
    | (with_reducible apply Did.ok_park)
    | (with_reducible apply Did.ok_left)
    | (with_reducible apply filter_wf)
    | extract_lets
    | (with_reducible intro _)
    | (split)
    | ((conv => arg 1; with_reducible whnf); split)
    | ((conv => arg 1; arg 1; with_reducible whnf); split)
    | ((conv => arg 1; with_reducible whnf); clear_value *; split)
    | ((conv => arg 1; arg 1; with_reducible whnf); clear_value *; split)
    | (clear_value *; split)
    | ((conv => arg 1; with_reducible whnf); with_reducible apply State.ok_mk)
    | (with_reducible apply State.ok_mk)
    | (with_reducible apply State.ok_mem)
    | (with_reducible apply State.ok_scm)
    | (with_reducible apply State.ok_versions)
    | (with_reducible apply State.ok_regs)

theorem State.forgetPages_ok (s : State) (ctx : Nat) (h_s : State.ok s) :
    State.ok (State.forgetPages s ctx) := by
  unfold State.forgetPages
  try extract_lets
  repeat' first
    | (with_reducible assumption)
    | (with_reducible apply filter_wf)
    | extract_lets
    | (with_reducible intro _)
    | (split)
    | (with_reducible apply State.ok_mk)
    | (with_reducible apply State.ok_mem)
    | (with_reducible apply State.ok_scm)
    | (with_reducible apply State.ok_versions)
    | (with_reducible apply State.ok_regs)

theorem State.unqueue_ok (s : State) (p : ItemKind → Bool) (h_s : State.ok s) :
    State.ok (State.unqueue s p) := by
  unfold State.unqueue
  try extract_lets
  repeat' first
    | (with_reducible assumption)
    | (with_reducible apply filter_wf)
    | extract_lets
    | (with_reducible intro _)
    | (split)
    | (with_reducible apply State.ok_mk)
    | (with_reducible apply State.ok_mem)
    | (with_reducible apply State.ok_scm)
    | (with_reducible apply State.ok_versions)
    | (with_reducible apply State.ok_regs)

theorem State.ok_ctxSlots {s : State} {x : Assoc CtxSlot} (h : s.ok) : ({ s with ctxSlots := x } : State).ok := h

theorem State.recalled_ok {s u : State} {o : Option Image} {m : Image} (e : o.map (fun m => s.recallImage m) = some (u, m)) (h : s.ok) : u.ok := by
  obtain ⟨y, -, e⟩ := Option.map_eq_some_iff.1 e
  have := State.recallImage_ok s y h
  rw [e] at this
  exact this

theorem State.ok_images {s : State} {x : Assoc Image} (h : s.ok) : ({ s with images := x } : State).ok := h

theorem State.placeOwner_ok (s : State) (slot base adopt : Nat) (a0 : OwnerAt) (h_s : State.ok s) :
    State.ok (State.placeOwner s slot base adopt a0) := by
  unfold State.placeOwner
  split
  · exact State.startBrood_ok _ _ _ _ _ (State.modCluster_ok _ _ _ h_s)
  · exact State.startBrood_ok _ _ _ _ _ ⟨h_s.1, h_s.2.1, h_s.2.2.1, h_s.2.2.2⟩
  · split
    · exact h_s
    · split
      · exact State.loadRun_ok _ _ _ _ _ (State.resumeWave_ok _ _ _ _ _ (State.setTeam_ok _ _ _
          (State.unqueue_ok _ _ (State.ok_ctxSlots (State.checkSlot_ok s _ h_s)))))
      · exact h_s
  · split
    · exact h_s
    · have hu := State.recalled_ok (by assumption) h_s
      split
      · exact h_s
      · dsimp only
        split
        · exact State.restartWave_ok _ _ (State.forgetPages_ok _ _ (State.loadRun_ok _ _ _ _ _ (State.resumeWave_ok _ _ _ _ _
            (State.setTeam_ok _ _ _ (State.modCluster_ok _ _ _ (State.unqueue_ok _ _ (State.ok_images (State.checkImage_ok _ _ hu))))))))
        · exact State.retest_ok _ _ (State.forgetPages_ok _ _ (State.loadRun_ok _ _ _ _ _ (State.resumeWave_ok _ _ _ _ _
            (State.setTeam_ok _ _ _ (State.modCluster_ok _ _ _ (State.unqueue_ok _ _ (State.ok_images (State.checkImage_ok _ _ hu))))))))

theorem State.adopt_ok (s : State) (w : Wave) (o : OwnerAt) (await : Park) (h_s : State.ok s) :
    State.ok (State.adopt s w o await) := by
  unfold State.adopt
  dsimp only
  split
  · exact State.reschedule_ok _ (State.suspendOwner_ok _ _ (State.retryOwned_ok _ _ (State.placeOwner_ok _ _ _ _ _ (State.writeSlot_ok _ _ _
      ⟨h_s.1, h_s.2.1, h_s.2.2.1, h_s.2.2.2⟩))))
  · exact h_s

theorem helpOrPark_ok (t : State) (w : Wave) (owner : Option Nat) (park : Park) (parked : State) (h_t : State.ok t) (h_parked : State.ok parked) :
    Did.ok (helpOrPark t w owner park parked) := by
  unfold helpOrPark
  try extract_lets
  repeat' first
    | (with_reducible assumption)
    | (with_reducible apply State.adopt_ok)
    | (with_reducible apply Did.ok_done)
    | (with_reducible apply Did.ok_goto)
    | (with_reducible apply Did.ok_trap)
    | (with_reducible apply Did.ok_wait)
    | (with_reducible apply Did.ok_park)
    | (with_reducible apply Did.ok_left)
    | extract_lets
    | (with_reducible intro _)
    | (split)

/-! ### Futures -/

theorem State.readHome_ok (s : State) (core task pa n : Nat) (h_s : State.ok s) :
    State.ok ((State.readHome s core task pa n)).1 := by
  unfold State.readHome
  try extract_lets
  repeat' first
    | (with_reducible assumption)
    | (with_reducible apply State.readTask_ok)
    | (with_reducible apply State.dropRows_ok)
    | (with_reducible apply State.rangeRead_ok)

theorem State.afterBusy_ok (s : State) (w : Wave) (pa n : Nat) (h_s : State.ok s) :
    State.ok (State.afterBusy s w pa n) := by
  unfold State.afterBusy
  try extract_lets
  repeat' first
    | (with_reducible assumption)
    | (with_reducible apply State.stallOn_ok)
    | extract_lets
    | (with_reducible intro _)
    | (split)

theorem State.readHeader_ok (s : State) (slot : Nat) (w : Wave) (va : Nat) (h_s : State.ok s) :
    State.ok ((State.readHeader s slot w va)).1 := by
  unfold State.readHeader
  try extract_lets
  repeat' first
    | (with_reducible assumption)
    | (with_reducible apply State.translate_ok)
    | (with_reducible apply State.afterBusy_ok)
    | (with_reducible apply State.askPeer_ok)
    | (with_reducible apply State.readHome_ok)
    | extract_lets
    | (with_reducible intro _)
    | (split)

theorem State.spawnLanes_ok (s : State) (slot : Nat) (w : Wave) (a0 : List (Nat × Nat)) (h_s : State.ok s) :
    State.ok ((State.spawnLanes s slot w a0)).1 := by
  induction a0 generalizing s slot w with
  | nil =>
    unfold State.spawnLanes
    try extract_lets
    repeat' first
      | (with_reducible assumption)
  | cons c_ l_ ih =>
    unfold State.spawnLanes
    try extract_lets
    repeat' first
      | (with_reducible assumption)
      | (with_reducible apply ih)
      | (with_reducible apply State.readHeader_ok)
      | (with_reducible apply AtomAcc.lane_ok)
      | extract_lets
      | (with_reducible intro _)
      | ((conv => arg 1; with_reducible whnf); first | (with_reducible apply State.readHeader_ok) | (with_reducible apply AtomAcc.lane_ok))
      | (split)

theorem State.broodLanes_ok (s : State) (clus : Nat) (w : Wave) (i : Issue) (va : Nat) (a0 : List (Nat × Header)) (h_s : State.ok s) :
    State.ok ((State.broodLanes s clus w i va a0)).1 := by
  induction a0 generalizing s clus w i va with
  | nil =>
    unfold State.broodLanes
    try extract_lets
    repeat' first
      | (with_reducible assumption)
  | cons c_ l_ ih =>
    unfold State.broodLanes
    try extract_lets
    repeat' first
      | (with_reducible assumption)
      | (with_reducible apply ih)
      | (with_reducible apply State.broodEnter_ok)

theorem execSpawn_ok (q : Sched) (va : VReg) (s : State) (h_s : State.ok s) :
    keeps (execSpawn q va s) := by
  unfold execSpawn
  try extract_lets
  repeat' first
    | (with_reducible assumption)
    | (with_reducible apply issueWord_ok)
    | (with_reducible apply AtomAcc.lane_ok)
    | (with_reducible apply State.spawnLanes_ok)
    | (with_reducible apply Did.orTrap_ok)
    | (with_reducible apply releasing_ok)
    | (with_reducible apply State.broodLanes_ok)
    | (with_reducible apply State.putLanes_ok)
    | (with_reducible apply Did.ok_done)
    | (with_reducible apply Did.ok_goto)
    | (with_reducible apply Did.ok_trap)
    | (with_reducible apply Did.ok_wait)
    | (with_reducible apply Did.ok_park)
    | (with_reducible apply Did.ok_left)
    | (with_reducible apply keeps_next)
    | (with_reducible apply keeps_fault)
    | (with_reducible apply keeps_refused)
    | extract_lets
    | (with_reducible intro _)

theorem execPubl_ok (q : Sched) (s : State) (h_s : State.ok s) :
    keeps (execPubl q s) := by
  unfold execPubl
  try extract_lets
  repeat' first
    | (with_reducible assumption)
    | (with_reducible apply issueWord_ok)
    | (with_reducible apply State.commit_ok)
    | (with_reducible apply Did.ok_done)
    | (with_reducible apply Did.ok_goto)
    | (with_reducible apply Did.ok_trap)
    | (with_reducible apply Did.ok_wait)
    | (with_reducible apply Did.ok_park)
    | (with_reducible apply Did.ok_left)
    | (with_reducible apply keeps_next)
    | (with_reducible apply keeps_fault)
    | (with_reducible apply keeps_refused)
    | extract_lets
    | (with_reducible intro _)
    | (split)

theorem State.readObject_ok (s : State) (w : Wave) (pa n : Nat) (h_s : State.ok s) :
    State.ok ((State.readObject s w pa n)).1 := by
  unfold State.readObject
  try extract_lets
  repeat' first
    | (with_reducible assumption)
    | (with_reducible apply State.afterBusy_ok)
    | (with_reducible apply State.askPeer_ok)
    | (with_reducible apply State.readHome_ok)
    | extract_lets
    | (with_reducible intro _)
    | (split)

theorem State.writeObject_ok (s : State) (w : Wave) (pa : Nat) (bs : List Byte) (h_s : State.ok s) :
    State.ok (State.writeObject s w pa bs) := by
  unfold State.writeObject
  try extract_lets
  repeat' first
    | (with_reducible assumption)
    | (with_reducible apply State.postRemote_ok)
    | (with_reducible apply State.storeAt_ok)
    | (with_reducible apply State.dropRows_ok)
    | extract_lets
    | (with_reducible intro _)
    | (split)

theorem memObject_ok (t : State) (w : Wave) (instr : Instr) (va n : Nat) (mside : Bool) (body : State → Nat → List Byte → Did) (h_t : State.ok t) (h_body : ∀ (body_0 : State) (body_1 : Nat) (body_2 : List Byte), State.ok body_0 → Did.ok (body body_0 body_1 body_2)) :
    Did.ok (memObject t w instr va n mside body) := by
  unfold memObject
  try extract_lets
  repeat' first
    | (with_reducible assumption)
    | (with_reducible apply h_body)
    | (with_reducible apply globalObject_ok)
    | (with_reducible apply Did.orTrap_ok)
    | (with_reducible apply State.readObject_ok)
    | (with_reducible apply Did.ok_done)
    | (with_reducible apply Did.ok_goto)
    | (with_reducible apply Did.ok_trap)
    | (with_reducible apply Did.ok_wait)
    | (with_reducible apply Did.ok_park)
    | (with_reducible apply Did.ok_left)
    | extract_lets
    | (with_reducible intro _)
    | ((conv => arg 1; with_reducible whnf); first | (with_reducible apply globalObject_ok) | (with_reducible apply Did.orTrap_ok) | (with_reducible apply State.readObject_ok) | (with_reducible apply Did.ok_done) | (with_reducible apply Did.ok_goto) | (with_reducible apply Did.ok_trap) | (with_reducible apply Did.ok_wait) | (with_reducible apply Did.ok_park) | (with_reducible apply Did.ok_left))
    | (split)

theorem objectSlot_ok (t : State) (instr : Instr) (h_t : State.ok t) :
    Did.ok (objectSlot t instr) := by
  unfold objectSlot
  try extract_lets
  repeat' first
    | (with_reducible assumption)
    | (with_reducible apply Did.orTrap_ok)
    | (with_reducible apply Did.ok_done)
    | (with_reducible apply Did.ok_goto)
    | (with_reducible apply Did.ok_trap)
    | (with_reducible apply Did.ok_wait)
    | (with_reducible apply Did.ok_park)
    | (with_reducible apply Did.ok_left)

theorem ownerEnded_ok (t : State) (w : Wave) (sd : SReg) (body : Did) (h_t : State.ok t) (h_body : Did.ok body) :
    Did.ok (ownerEnded t w sd body) := by
  unfold ownerEnded
  try extract_lets
  repeat' first
    | (with_reducible assumption)
    | (with_reducible apply State.wave_ok)
    | (with_reducible apply State.putStatus_ok)
    | (with_reducible apply Did.ok_done)
    | (with_reducible apply Did.ok_goto)
    | (with_reducible apply Did.ok_trap)
    | (with_reducible apply Did.ok_wait)
    | (with_reducible apply Did.ok_park)
    | (with_reducible apply Did.ok_left)
    | extract_lets
    | (with_reducible intro _)
    | (exact h_body)
    | (split)

theorem futureAct_ok (t : State) (w : Wave) (instr : Instr) (sa : SReg) (body : State → Wave → Nat → Future → Did) (h_t : State.ok t) (h_body : ∀ (body_0 : State) (body_1 : Wave) (body_2 : Nat) (body_3 : Future), State.ok body_0 → Did.ok (body body_0 body_1 body_2 body_3)) :
    Did.ok (futureAct t w instr sa body) := by
  unfold futureAct
  try extract_lets
  repeat' first
    | (with_reducible assumption)
    | (with_reducible apply h_body)
    | (with_reducible apply memObject_ok)
    | (with_reducible apply objectSlot_ok)
    | (with_reducible apply Did.ok_done)
    | (with_reducible apply Did.ok_goto)
    | (with_reducible apply Did.ok_trap)
    | (with_reducible apply Did.ok_wait)
    | (with_reducible apply Did.ok_park)
    | (with_reducible apply Did.ok_left)
    | extract_lets
    | (with_reducible intro _)
    | (split)

theorem futureOp_ok (q : Sched) (instr : Instr) (sa : SReg) (body : State → Wave → Nat → Future → Did) (s : State) (h_body : ∀ (body_0 : State) (body_1 : Wave) (body_2 : Nat) (body_3 : Future), State.ok body_0 → Did.ok (body body_0 body_1 body_2 body_3)) (h_s : State.ok s) :
    keeps (futureOp q instr sa body s) := by
  unfold futureOp
  try extract_lets
  repeat' first
    | (with_reducible assumption)
    | (with_reducible apply h_body)
    | (with_reducible apply issueWord_ok)
    | (with_reducible apply futureAct_ok)
    | (with_reducible apply Did.ok_done)
    | (with_reducible apply Did.ok_goto)
    | (with_reducible apply Did.ok_trap)
    | (with_reducible apply Did.ok_wait)
    | (with_reducible apply Did.ok_park)
    | (with_reducible apply Did.ok_left)
    | (with_reducible apply keeps_next)
    | (with_reducible apply keeps_fault)
    | (with_reducible apply keeps_refused)
    | extract_lets
    | (with_reducible intro _)

theorem State.setWhead_ok (s : State) (w : Wave) (pa : Nat) (f : Future) (waiting : Bool) (h_s : State.ok s) :
    State.ok (State.setWhead s w pa f waiting) := by
  unfold State.setWhead
  try extract_lets
  repeat' first
    | (with_reducible assumption)
    | (with_reducible apply State.writeObject_ok)
    | extract_lets
    | (with_reducible intro _)
    | (split)
    | ((conv => arg 1; with_reducible whnf); split)
    | ((conv => arg 1; arg 1; with_reducible whnf); split)
    | ((conv => arg 1; with_reducible whnf); clear_value *; split)
    | ((conv => arg 1; arg 1; with_reducible whnf); clear_value *; split)
    | (clear_value *; split)
    | ((conv => arg 1; with_reducible whnf); with_reducible apply State.ok_mk)
    | (with_reducible apply State.ok_mk)
    | (with_reducible apply State.ok_mem)
    | (with_reducible apply State.ok_scm)
    | (with_reducible apply State.ok_versions)
    | (with_reducible apply State.ok_regs)

theorem execFbind_ok (q : Sched) (sa : SReg) (s : State) (h_s : State.ok s) :
    keeps (execFbind q sa s) := by
  unfold execFbind
  try extract_lets
  repeat' first
    | (with_reducible assumption)
    | (with_reducible apply futureOp_ok)
    | (with_reducible apply objectSlot_ok)
    | (with_reducible apply State.commit_ok)
    | (with_reducible apply State.ordered_ok)
    | (with_reducible apply State.setWhead_ok)
    | (with_reducible apply State.writeObject_ok)
    | (with_reducible apply Did.ok_done)
    | (with_reducible apply Did.ok_goto)
    | (with_reducible apply Did.ok_trap)
    | (with_reducible apply Did.ok_wait)
    | (with_reducible apply Did.ok_park)
    | (with_reducible apply Did.ok_left)
    | (with_reducible apply keeps_next)
    | (with_reducible apply keeps_fault)
    | (with_reducible apply keeps_refused)
    | extract_lets
    | (with_reducible intro _)
    | (split)

theorem execFset_ok (q : Sched) (sa sb : SReg) (s : State) (h_s : State.ok s) :
    keeps (execFset q sa sb s) := by
  unfold execFset
  try extract_lets
  repeat' first
    | (with_reducible assumption)
    | (with_reducible apply futureOp_ok)
    | (with_reducible apply releasing_ok)
    | (with_reducible apply Did.state_ok)
    | (with_reducible apply State.putNow_ok)
    | (with_reducible apply State.ordered_ok)
    | (with_reducible apply State.setWhead_ok)
    | (with_reducible apply State.writeObject_ok)
    | (with_reducible apply Did.ok_done)
    | (with_reducible apply Did.ok_goto)
    | (with_reducible apply Did.ok_trap)
    | (with_reducible apply Did.ok_wait)
    | (with_reducible apply Did.ok_park)
    | (with_reducible apply Did.ok_left)
    | (with_reducible apply keeps_next)
    | (with_reducible apply keeps_fault)
    | (with_reducible apply keeps_refused)
    | extract_lets
    | (with_reducible intro _)
    | (split)

theorem execFwait_ok (q : Sched) (sd sa : SReg) (s : State) (h_s : State.ok s) :
    keeps (execFwait q sd sa s) := by
  unfold execFwait
  try extract_lets
  repeat' first
    | (with_reducible assumption)
    | (with_reducible apply issueWord_ok)
    | (with_reducible apply ownerEnded_ok)
    | (with_reducible apply futureAct_ok)
    | (with_reducible apply State.setWhead_ok)
    | (with_reducible apply Did.state_ok)
    | (with_reducible apply State.putPair_ok)
    | (with_reducible apply State.putNow_ok)
    | (with_reducible apply State.acquire_ok)
    | (with_reducible apply State.putStatus_ok)
    | (with_reducible apply State.adopt_ok)
    | (with_reducible apply Did.ok_done)
    | (with_reducible apply Did.ok_goto)
    | (with_reducible apply Did.ok_trap)
    | (with_reducible apply Did.ok_wait)
    | (with_reducible apply Did.ok_park)
    | (with_reducible apply Did.ok_left)
    | (with_reducible apply keeps_next)
    | (with_reducible apply keeps_fault)
    | (with_reducible apply keeps_refused)
    | extract_lets
    | (with_reducible intro _)
    | (split)

theorem execSleepTimeout_ok (slot : Nat) (s : State) (h_s : State.ok s) :
    keeps (execSleepTimeout slot s) := by
  unfold execSleepTimeout
  try extract_lets
  repeat' first
    | (with_reducible assumption)
    | (with_reducible apply State.releaseWhere_ok)
    | (with_reducible apply State.modWave_ok)
    | (with_reducible apply State.retryOwned_ok)
    | (with_reducible apply State.modSlots_ok)
    | (with_reducible apply State.wave_ok)
    | (with_reducible apply Did.ok_done)
    | (with_reducible apply Did.ok_goto)
    | (with_reducible apply Did.ok_trap)
    | (with_reducible apply Did.ok_wait)
    | (with_reducible apply Did.ok_park)
    | (with_reducible apply Did.ok_left)
    | (with_reducible apply keeps_next)
    | (with_reducible apply keeps_fault)
    | (with_reducible apply keeps_refused)
    | extract_lets
    | (with_reducible intro _)
    | ((conv => arg 1; with_reducible whnf); first | (with_reducible apply State.releaseWhere_ok) | (with_reducible apply State.modWave_ok) | (with_reducible apply State.retryOwned_ok) | (with_reducible apply State.modSlots_ok) | (with_reducible apply State.wave_ok) | (with_reducible apply Did.ok_done) | (with_reducible apply Did.ok_goto) | (with_reducible apply Did.ok_trap) | (with_reducible apply Did.ok_wait) | (with_reducible apply Did.ok_park) | (with_reducible apply Did.ok_left) | (with_reducible apply keeps_next) | (with_reducible apply keeps_fault) | (with_reducible apply keeps_refused))
    | (split)

/-! ### Rings -/

theorem State.writeRing_ok (s : State) (core off : Nat) (r : Ring) (h_s : State.ok s) :
    State.ok (State.writeRing s core off r) := by
  unfold State.writeRing
  try extract_lets
  repeat' first
    | (with_reducible assumption)
    | (with_reducible apply State.spadStore_ok)

theorem State.setSlot_ok (s : State) (x : RSlot) (seq state : Nat) (h_s : State.ok s) :
    State.ok (State.setSlot s x seq state) := by
  unfold State.setSlot
  try extract_lets
  repeat' first
    | (with_reducible assumption)
    | (with_reducible apply State.spadStore_ok)

theorem ringAct_ok (t : State) (w : Wave) (instr : Instr) (sa : SReg) (body : State → Wave → RingAt → Did) (h_t : State.ok t) (h_body : ∀ (body_0 : State) (body_1 : Wave) (body_2 : RingAt), State.ok body_0 → Did.ok (body body_0 body_1 body_2)) :
    Did.ok (ringAct t w instr sa body) := by
  unfold ringAct
  try extract_lets
  repeat' first
    | (with_reducible assumption)
    | (with_reducible apply h_body)
    | (with_reducible apply spadObjectOver_ok)
    | (with_reducible apply objectSlot_ok)
    | (with_reducible apply Did.ok_done)
    | (with_reducible apply Did.ok_goto)
    | (with_reducible apply Did.ok_trap)
    | (with_reducible apply Did.ok_wait)
    | (with_reducible apply Did.ok_park)
    | (with_reducible apply Did.ok_left)
    | extract_lets
    | (with_reducible intro _)
    | (split)

theorem ringOp_ok (q : Sched) (instr : Instr) (sa : SReg) (body : State → Wave → RingAt → Did) (s : State) (h_body : ∀ (body_0 : State) (body_1 : Wave) (body_2 : RingAt), State.ok body_0 → Did.ok (body body_0 body_1 body_2)) (h_s : State.ok s) :
    keeps (ringOp q instr sa body s) := by
  unfold ringOp
  try extract_lets
  repeat' first
    | (with_reducible assumption)
    | (with_reducible apply h_body)
    | (with_reducible apply issueWord_ok)
    | (with_reducible apply ringAct_ok)
    | (with_reducible apply Did.ok_done)
    | (with_reducible apply Did.ok_goto)
    | (with_reducible apply Did.ok_trap)
    | (with_reducible apply Did.ok_wait)
    | (with_reducible apply Did.ok_park)
    | (with_reducible apply Did.ok_left)
    | (with_reducible apply keeps_next)
    | (with_reducible apply keeps_fault)
    | (with_reducible apply keeps_refused)
    | extract_lets
    | (with_reducible intro _)

theorem ringWait_ok (q : Sched) (instr : Instr) (sd sa : SReg) (body : State → Wave → RingAt → Did) (s : State) (h_body : ∀ (body_0 : State) (body_1 : Wave) (body_2 : RingAt), State.ok body_0 → Did.ok (body body_0 body_1 body_2)) (h_s : State.ok s) :
    keeps (ringWait q instr sd sa body s) := by
  unfold ringWait
  try extract_lets
  repeat' first
    | (with_reducible assumption)
    | (with_reducible apply h_body)
    | (with_reducible apply issueWord_ok)
    | (with_reducible apply ownerEnded_ok)
    | (with_reducible apply ringAct_ok)
    | (with_reducible apply Did.ok_done)
    | (with_reducible apply Did.ok_goto)
    | (with_reducible apply Did.ok_trap)
    | (with_reducible apply Did.ok_wait)
    | (with_reducible apply Did.ok_park)
    | (with_reducible apply Did.ok_left)
    | (with_reducible apply keeps_next)
    | (with_reducible apply keeps_fault)
    | (with_reducible apply keeps_refused)
    | extract_lets
    | (with_reducible intro _)

theorem State.ringChanged_ok (s : State) (x : RingAt) (h_s : State.ok s) :
    State.ok (State.ringChanged s x) := by
  unfold State.ringChanged
  try extract_lets
  repeat' first
    | (with_reducible assumption)
    | (with_reducible apply State.retryWhere_ok)

theorem State.giveSlot_ok (s : State) (sd : SReg) (x : RSlot) (h_s : State.ok s) :
    State.ok (State.giveSlot s sd x) := by
  unfold State.giveSlot
  try extract_lets
  repeat' first
    | (with_reducible assumption)
    | (with_reducible apply State.putNow_ok)

theorem execQres_ok (q : Sched) (sd sa : SReg) (s : State) (h_s : State.ok s) :
    keeps (execQres q sd sa s) := by
  unfold execQres
  try extract_lets
  repeat' first
    | (with_reducible assumption)
    | (with_reducible apply ringWait_ok)
    | (with_reducible apply State.putStatus_ok)
    | (with_reducible apply State.take_ok)
    | (with_reducible apply State.setSlot_ok)
    | (with_reducible apply State.writeRing_ok)
    | (with_reducible apply State.giveSlot_ok)
    | (with_reducible apply State.ringChanged_ok)
    | (with_reducible apply helpOrPark_ok)
    | (with_reducible apply Did.ok_done)
    | (with_reducible apply Did.ok_goto)
    | (with_reducible apply Did.ok_trap)
    | (with_reducible apply Did.ok_wait)
    | (with_reducible apply Did.ok_park)
    | (with_reducible apply Did.ok_left)
    | (with_reducible apply keeps_next)
    | (with_reducible apply keeps_fault)
    | (with_reducible apply keeps_refused)
    | extract_lets
    | (with_reducible intro _)
    | ((conv => arg 1; with_reducible whnf); first | (with_reducible apply ringWait_ok) | (with_reducible apply State.putStatus_ok) | (with_reducible apply State.take_ok) | (with_reducible apply State.setSlot_ok) | (with_reducible apply State.writeRing_ok) | (with_reducible apply State.giveSlot_ok) | (with_reducible apply State.ringChanged_ok) | (with_reducible apply helpOrPark_ok) | (with_reducible apply Did.ok_done) | (with_reducible apply Did.ok_goto) | (with_reducible apply Did.ok_trap) | (with_reducible apply Did.ok_wait) | (with_reducible apply Did.ok_park) | (with_reducible apply Did.ok_left) | (with_reducible apply keeps_next) | (with_reducible apply keeps_fault) | (with_reducible apply keeps_refused))
    | (split)

theorem RingAt.named_ok (x : RingAt) (t : State) (instr : Instr) (payload : Word) (state : Nat) (body : RSlot → Did) (h_t : State.ok t) (h_body : ∀ (body_0 : RSlot), Did.ok (body body_0)) :
    Did.ok (RingAt.named x t instr payload state body) := by
  unfold RingAt.named
  try extract_lets
  repeat' first
    | (with_reducible assumption)
    | (with_reducible apply h_body)
    | (with_reducible apply Did.state_ok)
    | (with_reducible apply objectSlot_ok)
    | (with_reducible apply Did.ok_done)
    | (with_reducible apply Did.ok_goto)
    | (with_reducible apply Did.ok_trap)
    | (with_reducible apply Did.ok_wait)
    | (with_reducible apply Did.ok_park)
    | (with_reducible apply Did.ok_left)
    | extract_lets
    | (with_reducible intro _)
    | (split)

theorem execQpub_ok (q : Sched) (sa sb : SReg) (s : State) (h_s : State.ok s) :
    keeps (execQpub q sa sb s) := by
  unfold execQpub
  try extract_lets
  repeat' first
    | (with_reducible assumption)
    | (with_reducible apply ringOp_ok)
    | (with_reducible apply RingAt.named_ok)
    | (with_reducible apply releasing_ok)
    | (with_reducible apply State.setSlot_ok)
    | (with_reducible apply State.ringChanged_ok)
    | (with_reducible apply Did.ok_done)
    | (with_reducible apply Did.ok_goto)
    | (with_reducible apply Did.ok_trap)
    | (with_reducible apply Did.ok_wait)
    | (with_reducible apply Did.ok_park)
    | (with_reducible apply Did.ok_left)
    | (with_reducible apply keeps_next)
    | (with_reducible apply keeps_fault)
    | (with_reducible apply keeps_refused)
    | extract_lets
    | (with_reducible intro _)

theorem execQtake_ok (q : Sched) (sd sa : SReg) (s : State) (h_s : State.ok s) :
    keeps (execQtake q sd sa s) := by
  unfold execQtake
  try extract_lets
  repeat' first
    | (with_reducible assumption)
    | (with_reducible apply ringWait_ok)
    | (with_reducible apply State.setSlot_ok)
    | (with_reducible apply State.writeRing_ok)
    | (with_reducible apply State.giveSlot_ok)
    | (with_reducible apply State.acquire_ok)
    | (with_reducible apply State.ringChanged_ok)
    | (with_reducible apply State.putStatus_ok)
    | (with_reducible apply helpOrPark_ok)
    | (with_reducible apply Did.ok_done)
    | (with_reducible apply Did.ok_goto)
    | (with_reducible apply Did.ok_trap)
    | (with_reducible apply Did.ok_wait)
    | (with_reducible apply Did.ok_park)
    | (with_reducible apply Did.ok_left)
    | (with_reducible apply keeps_next)
    | (with_reducible apply keeps_fault)
    | (with_reducible apply keeps_refused)
    | extract_lets
    | (with_reducible intro _)
    | (split)

theorem execQdone_ok (q : Sched) (sa sb : SReg) (s : State) (h_s : State.ok s) :
    keeps (execQdone q sa sb s) := by
  unfold execQdone
  try extract_lets
  repeat' first
    | (with_reducible assumption)
    | (with_reducible apply ringOp_ok)
    | (with_reducible apply RingAt.named_ok)
    | (with_reducible apply State.setSlot_ok)
    | (with_reducible apply State.writeRing_ok)
    | (with_reducible apply State.ringChanged_ok)
    | (with_reducible apply Did.ok_done)
    | (with_reducible apply Did.ok_goto)
    | (with_reducible apply Did.ok_trap)
    | (with_reducible apply Did.ok_wait)
    | (with_reducible apply Did.ok_park)
    | (with_reducible apply Did.ok_left)
    | (with_reducible apply keeps_next)
    | (with_reducible apply keeps_fault)
    | (with_reducible apply keeps_refused)
    | extract_lets
    | (with_reducible intro _)

theorem execQclose_ok (q : Sched) (sa : SReg) (s : State) (h_s : State.ok s) :
    keeps (execQclose q sa s) := by
  unfold execQclose
  try extract_lets
  repeat' first
    | (with_reducible assumption)
    | (with_reducible apply ringOp_ok)
    | (with_reducible apply releasing_ok)
    | (with_reducible apply State.writeRing_ok)
    | (with_reducible apply State.ringChanged_ok)
    | (with_reducible apply Did.ok_done)
    | (with_reducible apply Did.ok_goto)
    | (with_reducible apply Did.ok_trap)
    | (with_reducible apply Did.ok_wait)
    | (with_reducible apply Did.ok_park)
    | (with_reducible apply Did.ok_left)
    | (with_reducible apply keeps_next)
    | (with_reducible apply keeps_fault)
    | (with_reducible apply keeps_refused)
    | extract_lets
    | (with_reducible intro _)

/-! ### Capsules -/

theorem capsuleOp_ok (t : State) (w : Wave) (instr : Instr) (sa : SReg) (body : State → Nat → Capsule → Did) (h_t : State.ok t) (h_body : ∀ (body_0 : State) (body_1 : Nat) (body_2 : Capsule), State.ok body_0 → Did.ok (body body_0 body_1 body_2)) :
    Did.ok (capsuleOp t w instr sa body) := by
  unfold capsuleOp
  try extract_lets
  repeat' first
    | (with_reducible assumption)
    | (with_reducible apply h_body)
    | (with_reducible apply memObject_ok)
    | (with_reducible apply objectSlot_ok)
    | (with_reducible apply Did.ok_done)
    | (with_reducible apply Did.ok_goto)
    | (with_reducible apply Did.ok_trap)
    | (with_reducible apply Did.ok_wait)
    | (with_reducible apply Did.ok_park)
    | (with_reducible apply Did.ok_left)
    | extract_lets
    | (with_reducible intro _)
    | (split)

theorem State.setWaiters_ok (s : State) (w : Wave) (pa : Nat) (c : Capsule) (n : Nat) (h_s : State.ok s) :
    State.ok (State.setWaiters s w pa c n) := by
  unfold State.setWaiters
  try extract_lets
  repeat' first
    | (with_reducible assumption)
    | (with_reducible apply State.writeObject_ok)
    | extract_lets
    | (with_reducible intro _)
    | (split)

theorem capsulePark_ok (t : State) (w : Wave) (instr : Instr) (pa : Nat) (c : Capsule) (h_t : State.ok t) :
    Did.ok (capsulePark t w instr pa c) := by
  unfold capsulePark
  try extract_lets
  repeat' first
    | (with_reducible assumption)
    | (with_reducible apply State.setWaiters_ok)
    | (with_reducible apply Did.ok_done)
    | (with_reducible apply Did.ok_goto)
    | (with_reducible apply Did.ok_trap)
    | (with_reducible apply Did.ok_wait)
    | (with_reducible apply Did.ok_park)

theorem State.putCkpt_ok (s : State) (ws : List Word) (h_s : State.ok s) :
    State.ok (State.putCkpt s ws) := by
  unfold State.putCkpt
  try extract_lets
  repeat' first
    | (with_reducible assumption)
    | (with_reducible apply foldState_ok)
    | (with_reducible apply State.putNow_ok)
    | extract_lets
    | (with_reducible intro _)

theorem execCenter_ok (q : Sched) (sd sa : SReg) (s : State) (h_s : State.ok s) :
    keeps (execCenter q sd sa s) := by
  unfold execCenter
  try extract_lets
  repeat' first
    | (with_reducible assumption)
    | (with_reducible apply issueWord_ok)
    | (with_reducible apply capsuleOp_ok)
    | (with_reducible apply Issue.raiseAll_ok)
    | (with_reducible apply Did.orTrap_ok)
    | (with_reducible apply State.commit_ok)
    | (with_reducible apply State.setWaiters_ok)
    | (with_reducible apply State.enter_ok)
    | (with_reducible apply State.putNow_ok)
    | (with_reducible apply State.wave_ok)
    | (with_reducible apply callTo_ok)
    | (with_reducible apply State.acquire_ok)
    | (with_reducible apply State.putStatus_ok)
    | (with_reducible apply capsulePark_ok)
    | (with_reducible apply State.writeObject_ok)
    | (with_reducible apply State.putCkpt_ok)
    | (with_reducible apply Did.ok_done)
    | (with_reducible apply Did.ok_goto)
    | (with_reducible apply Did.ok_trap)
    | (with_reducible apply Did.ok_wait)
    | (with_reducible apply Did.ok_park)
    | (with_reducible apply Did.ok_left)
    | (with_reducible apply keeps_next)
    | (with_reducible apply keeps_fault)
    | (with_reducible apply keeps_refused)
    | (with_reducible apply filter_wf)
    | extract_lets
    | (with_reducible intro _)
    | ((conv => arg 1; with_reducible whnf); first | (with_reducible apply issueWord_ok) | (with_reducible apply capsuleOp_ok) | (with_reducible apply Issue.raiseAll_ok) | (with_reducible apply Did.orTrap_ok) | (with_reducible apply State.commit_ok) | (with_reducible apply State.setWaiters_ok) | (with_reducible apply State.enter_ok) | (with_reducible apply State.putNow_ok) | (with_reducible apply State.wave_ok) | (with_reducible apply callTo_ok) | (with_reducible apply State.acquire_ok) | (with_reducible apply State.putStatus_ok) | (with_reducible apply capsulePark_ok) | (with_reducible apply State.writeObject_ok) | (with_reducible apply State.putCkpt_ok) | (with_reducible apply Did.ok_done) | (with_reducible apply Did.ok_goto) | (with_reducible apply Did.ok_trap) | (with_reducible apply Did.ok_wait) | (with_reducible apply Did.ok_park) | (with_reducible apply Did.ok_left) | (with_reducible apply keeps_next) | (with_reducible apply keeps_fault) | (with_reducible apply keeps_refused))
    | (split)

theorem State.publishStep_ok (s : State) (w : Wave) (h_s : State.ok s) :
    State.ok (State.publishStep s w) := by
  unfold State.publishStep
  try extract_lets
  repeat' first
    | (with_reducible assumption)
    | (with_reducible apply State.store_ok)
    | (with_reducible apply State.dropCells_ok)
    | (with_reducible apply State.enterNow_ok)
    | (with_reducible apply foldState_ok)
    | (with_reducible apply State.postRemote_ok)
    | (with_reducible apply foldl_ok)
    | (with_reducible apply foldl_set_wf)
    | (with_reducible apply filter_wf)
    | extract_lets
    | (with_reducible intro _)
    | ((conv => arg 1; with_reducible whnf); first | (with_reducible apply State.store_ok) | (with_reducible apply State.dropCells_ok) | (with_reducible apply State.enterNow_ok) | (with_reducible apply foldState_ok) | (with_reducible apply State.postRemote_ok))
    | (split)
    | ((conv => arg 1; with_reducible whnf); split)

theorem displaced_ok (t : State) (h_t : State.ok t) :
    Did.ok (displaced t) := by
  unfold displaced
  try extract_lets
  repeat' first
    | (with_reducible assumption)
    | (with_reducible apply State.wave_ok)
    | (with_reducible apply State.putNow_ok)
    | (with_reducible apply Did.ok_done)

theorem execCstep_ok (q : Sched) (sa sb : SReg) (s : State) (h_s : State.ok s) :
    keeps (execCstep q sa sb s) := by
  unfold execCstep
  try extract_lets
  repeat' first
    | (with_reducible assumption)
    | (with_reducible apply issueWord_ok)
    | (with_reducible apply capsuleOp_ok)
    | (with_reducible apply displaced_ok)
    | (with_reducible apply Issue.raiseAll_ok)
    | (with_reducible apply releasing_ok)
    | (with_reducible apply State.publishStep_ok)
    | (with_reducible apply State.writeObject_ok)
    | (with_reducible apply State.wave_ok)
    | (with_reducible apply State.putNow_ok)
    | (with_reducible apply Did.ok_done)
    | (with_reducible apply Did.ok_goto)
    | (with_reducible apply Did.ok_trap)
    | (with_reducible apply Did.ok_wait)
    | (with_reducible apply Did.ok_park)
    | (with_reducible apply Did.ok_left)
    | (with_reducible apply keeps_next)
    | (with_reducible apply keeps_fault)
    | (with_reducible apply keeps_refused)
    | extract_lets
    | (with_reducible intro _)
    | (split)

theorem execCexit_ok (q : Sched) (sa sb : SReg) (s : State) (h_s : State.ok s) :
    keeps (execCexit q sa sb s) := by
  unfold execCexit
  try extract_lets
  repeat' first
    | (with_reducible assumption)
    | (with_reducible apply issueWord_ok)
    | (with_reducible apply capsuleOp_ok)
    | (with_reducible apply displaced_ok)
    | (with_reducible apply releasing_ok)
    | (with_reducible apply State.publishStep_ok)
    | (with_reducible apply State.writeObject_ok)
    | (with_reducible apply State.wave_ok)
    | (with_reducible apply State.putNow_ok)
    | (with_reducible apply Did.ok_done)
    | (with_reducible apply Did.ok_goto)
    | (with_reducible apply Did.ok_trap)
    | (with_reducible apply Did.ok_wait)
    | (with_reducible apply Did.ok_park)
    | (with_reducible apply Did.ok_left)
    | (with_reducible apply keeps_next)
    | (with_reducible apply keeps_fault)
    | (with_reducible apply keeps_refused)
    | extract_lets
    | (with_reducible intro _)
    | (split)

theorem execCres_ok (q : Sched) (sd sa : SReg) (s : State) (h_s : State.ok s) :
    keeps (execCres q sd sa s) := by
  unfold execCres
  try extract_lets
  repeat' first
    | (with_reducible assumption)
    | (with_reducible apply issueWord_ok)
    | (with_reducible apply capsuleOp_ok)
    | (with_reducible apply State.setWaiters_ok)
    | (with_reducible apply State.putPair_ok)
    | (with_reducible apply State.putNow_ok)
    | (with_reducible apply State.acquire_ok)
    | (with_reducible apply State.putStatus_ok)
    | (with_reducible apply capsulePark_ok)
    | (with_reducible apply Did.ok_done)
    | (with_reducible apply Did.ok_goto)
    | (with_reducible apply Did.ok_trap)
    | (with_reducible apply Did.ok_wait)
    | (with_reducible apply Did.ok_park)
    | (with_reducible apply Did.ok_left)
    | (with_reducible apply keeps_next)
    | (with_reducible apply keeps_fault)
    | (with_reducible apply keeps_refused)
    | extract_lets
    | (with_reducible intro _)
    | (split)

theorem execCapsuleLeaseExpiry_ok (pa : Nat) (s : State) (h_s : State.ok s) :
    keeps (execCapsuleLeaseExpiry pa s) := by
  unfold execCapsuleLeaseExpiry
  try extract_lets
  repeat' first
    | (with_reducible assumption)
    | (with_reducible apply State.retryWhere_ok)
    | (with_reducible apply Did.ok_done)
    | (with_reducible apply Did.ok_goto)
    | (with_reducible apply Did.ok_trap)
    | (with_reducible apply Did.ok_wait)
    | (with_reducible apply Did.ok_park)
    | (with_reducible apply Did.ok_left)
    | (with_reducible apply keeps_next)
    | (with_reducible apply keeps_fault)
    | (with_reducible apply keeps_refused)
    | extract_lets
    | (with_reducible intro _)
    | ((conv => arg 1; with_reducible whnf); first | (with_reducible apply State.retryWhere_ok) | (with_reducible apply Did.ok_done) | (with_reducible apply Did.ok_goto) | (with_reducible apply Did.ok_trap) | (with_reducible apply Did.ok_wait) | (with_reducible apply Did.ok_park) | (with_reducible apply Did.ok_left) | (with_reducible apply keeps_next) | (with_reducible apply keeps_fault) | (with_reducible apply keeps_refused))
    | (split)

/-! ### Queues -/

theorem execPersistGroupEnter_ok (n : Nat) (s : State) (h_s : State.ok s) :
    keeps (execPersistGroupEnter n s) := by
  unfold execPersistGroupEnter
  try extract_lets
  repeat' first
    | (with_reducible assumption)
    | (with_reducible apply State.take_ok)
    | (with_reducible apply settleEvent_ok)
    | (with_reducible apply State.enter_ok)
    | (with_reducible apply Did.ok_done)
    | (with_reducible apply Did.ok_goto)
    | (with_reducible apply Did.ok_trap)
    | (with_reducible apply Did.ok_wait)
    | (with_reducible apply Did.ok_park)
    | (with_reducible apply Did.ok_left)
    | (with_reducible apply keeps_next)
    | (with_reducible apply keeps_fault)
    | (with_reducible apply keeps_refused)
    | extract_lets
    | (with_reducible intro _)
    | (split)
    | (with_reducible apply State.ok_mk)
    | (with_reducible apply State.ok_mem)
    | (with_reducible apply State.ok_scm)
    | (with_reducible apply State.ok_versions)
    | (with_reducible apply State.ok_regs)

theorem State.redirty_ok (s : State) (bytes : List Host.Cell) (h_s : State.ok s) :
    State.ok (State.redirty s bytes) := by
  unfold State.redirty
  try extract_lets
  repeat' first
    | (with_reducible assumption)
    | (with_reducible apply Did.state_ok)
    | (with_reducible apply foldl_ok)
    | (with_reducible apply foldl_set_wf)
    | (with_reducible apply filter_wf)
    | extract_lets
    | (with_reducible intro _)
    | (split)
    | ((conv => arg 1; with_reducible whnf); split)
    | ((conv => arg 1; arg 1; with_reducible whnf); split)
    | ((conv => arg 1; with_reducible whnf); clear_value *; split)
    | ((conv => arg 1; arg 1; with_reducible whnf); clear_value *; split)
    | (clear_value *; split)
    | ((conv => arg 1; with_reducible whnf); with_reducible apply State.ok_mk)
    | (with_reducible apply State.ok_mk)
    | (with_reducible apply State.ok_mem)
    | (with_reducible apply State.ok_scm)
    | (with_reducible apply State.ok_versions)
    | (with_reducible apply State.ok_regs)

theorem execWbqDrainWrite_ok (die : Nat) (s : State) (h_s : State.ok s) :
    keeps (execWbqDrainWrite die s) := by
  unfold execWbqDrainWrite
  try extract_lets
  repeat' first
    | (with_reducible assumption)
    | (with_reducible apply State.writeHome_ok)
    | (with_reducible apply State.modDie_ok)
    | (with_reducible apply State.redirty_ok)
    | (with_reducible apply Did.ok_done)
    | (with_reducible apply Did.ok_goto)
    | (with_reducible apply Did.ok_trap)
    | (with_reducible apply Did.ok_wait)
    | (with_reducible apply Did.ok_park)
    | (with_reducible apply Did.ok_left)
    | (with_reducible apply keeps_next)
    | (with_reducible apply keeps_fault)
    | (with_reducible apply keeps_refused)
    | extract_lets
    | (with_reducible intro _)
    | (split)

theorem State.markStored_ok (s : State) (pa : Nat) (h_s : State.ok s) :
    State.ok (State.markStored s pa) := by
  unfold State.markStored
  try extract_lets
  repeat' first
    | (with_reducible assumption)
    | (with_reducible apply foldState_ok)
    | (with_reducible apply State.markScm_ok)
    | (with_reducible apply State.markBelow_ok)
    | extract_lets
    | (with_reducible intro _)
    | (split)

theorem execScrub_ok (pa : Nat) (found : ScrubResult) (s : State) (h_s : State.ok s) :
    keeps (execScrub pa found s) := by
  unfold execScrub
  try extract_lets
  repeat' first
    | (with_reducible assumption)
    | (with_reducible apply State.modDie_ok)
    | (with_reducible apply State.markStored_ok)
    | (with_reducible apply Did.ok_done)
    | (with_reducible apply Did.ok_goto)
    | (with_reducible apply Did.ok_trap)
    | (with_reducible apply Did.ok_wait)
    | (with_reducible apply Did.ok_park)
    | (with_reducible apply Did.ok_left)
    | (with_reducible apply keeps_next)
    | (with_reducible apply keeps_fault)
    | (with_reducible apply keeps_refused)
    | extract_lets
    | (with_reducible intro _)
    | (split)

/-! ### Targets -/

theorem State.scanRecord_ok (s : State) (ctx va status failmask tstart : Nat) (h_s : State.ok s) :
    State.ok (State.scanRecord s ctx va status failmask tstart) := by
  unfold State.scanRecord
  try extract_lets
  repeat' first
    | (with_reducible assumption)
    | (with_reducible apply State.engineSpan_ok)
    | (with_reducible apply State.storeAt_ok)
    | extract_lets
    | (with_reducible intro _)
    | (split)

theorem State.endScan_ok (s : State) (x : Scan) (status failmask : Nat) (h_s : State.ok s) :
    State.ok (State.endScan s x status failmask) := by
  unfold State.endScan
  try extract_lets
  repeat' first
    | (with_reducible assumption)
    | (with_reducible apply State.scanRecord_ok)
    | extract_lets
    | (with_reducible intro _)
    | (split)
    | (with_reducible apply State.ok_mk)
    | (with_reducible apply State.ok_mem)
    | (with_reducible apply State.ok_scm)
    | (with_reducible apply State.ok_versions)
    | (with_reducible apply State.ok_regs)

theorem State.settleScan_ok (s : State) (h_s : State.ok s) :
    State.ok (State.settleScan s) := by
  unfold State.settleScan
  try extract_lets
  repeat' first
    | (with_reducible assumption)
    | (with_reducible apply State.abort_ok)
    | (with_reducible apply State.endScan_ok)
    | extract_lets
    | (with_reducible intro _)
    | (split)

theorem State.withdraw_ok (s : State) (p : Nat → Bool) (h_s : State.ok s) :
    State.ok (State.withdraw s p) := by
  unfold State.withdraw
  try extract_lets
  repeat' first
    | (with_reducible assumption)
    | extract_lets
    | (with_reducible intro _)
    | (split)
    | (with_reducible apply State.ok_mk)
    | (with_reducible apply State.ok_mem)
    | (with_reducible apply State.ok_scm)
    | (with_reducible apply State.ok_versions)
    | (with_reducible apply State.ok_regs)

/-! ### Sched -/

theorem execAgingExpiry_ok (item : Nat) (s : State) (h_s : State.ok s) :
    keeps (execAgingExpiry item s) := by
  unfold execAgingExpiry
  try extract_lets
  repeat' first
    | (with_reducible assumption)
    | (with_reducible apply State.reschedule_ok)
    | (with_reducible apply Did.ok_done)
    | (with_reducible apply Did.ok_goto)
    | (with_reducible apply Did.ok_trap)
    | (with_reducible apply Did.ok_wait)
    | (with_reducible apply Did.ok_park)
    | (with_reducible apply Did.ok_left)
    | (with_reducible apply keeps_next)
    | (with_reducible apply keeps_fault)
    | (with_reducible apply keeps_refused)
    | extract_lets
    | (with_reducible intro _)
    | ((conv => arg 1; with_reducible whnf); first | (with_reducible apply State.reschedule_ok) | (with_reducible apply Did.ok_done) | (with_reducible apply Did.ok_goto) | (with_reducible apply Did.ok_trap) | (with_reducible apply Did.ok_wait) | (with_reducible apply Did.ok_park) | (with_reducible apply Did.ok_left) | (with_reducible apply keeps_next) | (with_reducible apply keeps_fault) | (with_reducible apply keeps_refused))
    | (split)
    | ((conv => arg 1; with_reducible whnf); split)
    | ((conv => arg 1; arg 1; with_reducible whnf); split)
    | ((conv => arg 1; with_reducible whnf); clear_value *; split)
    | ((conv => arg 1; arg 1; with_reducible whnf); clear_value *; split)
    | (clear_value *; split)
    | ((conv => arg 1; with_reducible whnf); with_reducible apply State.ok_mk)
    | (with_reducible apply State.ok_mk)
    | (with_reducible apply State.ok_mem)
    | (with_reducible apply State.ok_scm)
    | (with_reducible apply State.ok_versions)
    | (with_reducible apply State.ok_regs)

theorem State.sendTo_ok (s : State) (clus : Nat) (c : Cand) (h_s : State.ok s) :
    State.ok (State.sendTo s clus c) := by
  unfold State.sendTo
  try extract_lets
  repeat' first
    | (with_reducible assumption)
    | extract_lets
    | (with_reducible intro _)
    | (split)
    | ((conv => arg 1; with_reducible whnf); split)
    | ((conv => arg 1; arg 1; with_reducible whnf); split)
    | ((conv => arg 1; with_reducible whnf); clear_value *; split)
    | ((conv => arg 1; arg 1; with_reducible whnf); clear_value *; split)
    | (clear_value *; split)
    | ((conv => arg 1; with_reducible whnf); with_reducible apply State.ok_mk)
    | (with_reducible apply State.ok_mk)
    | (with_reducible apply State.ok_mem)
    | (with_reducible apply State.ok_scm)
    | (with_reducible apply State.ok_versions)
    | (with_reducible apply State.ok_regs)

theorem State.startWaves_ok (s : State) (key : Nat) (t : Team) (arg : DWord) (launch i : Nat) (a0 : Nat) (h_s : State.ok s) :
    State.ok (State.startWaves s key t arg launch i a0) := by
  induction a0 generalizing s key t arg launch i with
  | zero =>
    unfold State.startWaves
    try extract_lets
    repeat' first
      | (with_reducible assumption)
  | succ n_ ih =>
    unfold State.startWaves
    try extract_lets
    repeat' first
      | (with_reducible assumption)
      | (with_reducible apply ih)
      | (with_reducible apply State.newTask_ok)
      | (with_reducible apply State.startWave_ok)
      | extract_lets
      | (with_reducible intro _)
      | (split)
      | ((conv => arg 1; with_reducible whnf); split)
      | ((conv => arg 1; arg 1; with_reducible whnf); split)
      | ((conv => arg 1; with_reducible whnf); clear_value *; split)
      | ((conv => arg 1; arg 1; with_reducible whnf); clear_value *; split)
      | (clear_value *; split)
      | ((conv => arg 1; with_reducible whnf); with_reducible apply State.ok_mk)
      | (with_reducible apply State.ok_mk)
      | (with_reducible apply State.ok_mem)
      | (with_reducible apply State.ok_scm)
      | (with_reducible apply State.ok_versions)
      | (with_reducible apply State.ok_regs)

theorem State.clearAllocation_ok (s : State) (paired : Bool) (core base lines : Nat) (h_s : State.ok s) :
    State.ok (State.clearAllocation s paired core base lines) := by
  unfold State.clearAllocation
  try extract_lets
  repeat' first
    | (with_reducible assumption)
    | (with_reducible apply State.clearRun_ok)
    | extract_lets
    | (with_reducible intro _)
    | (split)

theorem State.placeTeam_ok (s : State) (launch number core base prio : Nat) (h_s : State.ok s) :
    State.ok (State.placeTeam s launch number core base prio) := by
  unfold State.placeTeam
  try extract_lets
  repeat' first
    | (with_reducible assumption)
    | (with_reducible apply State.setTeam_ok)
    | (with_reducible apply State.clearAllocation_ok)
    | (with_reducible apply State.startWaves_ok)
    | extract_lets
    | (with_reducible intro _)
    | (split)
    | ((conv => arg 1; with_reducible whnf); split)
    | ((conv => arg 1; arg 1; with_reducible whnf); split)
    | ((conv => arg 1; with_reducible whnf); clear_value *; split)
    | ((conv => arg 1; arg 1; with_reducible whnf); clear_value *; split)
    | (clear_value *; split)
    | ((conv => arg 1; with_reducible whnf); with_reducible apply State.ok_mk)
    | (with_reducible apply State.ok_mk)
    | (with_reducible apply State.ok_mem)
    | (with_reducible apply State.ok_scm)
    | (with_reducible apply State.ok_versions)
    | (with_reducible apply State.ok_regs)

theorem State.resumeWaves_ok (s : State) (key : Nat) (t : Team) (a0 : List Wave) (h_s : State.ok s) :
    State.ok (State.resumeWaves s key t a0) := by
  induction a0 generalizing s key t with
  | nil =>
    unfold State.resumeWaves
    try extract_lets
    repeat' first
      | (with_reducible assumption)
  | cons c_ l_ ih =>
    unfold State.resumeWaves
    try extract_lets
    repeat' first
      | (with_reducible assumption)
      | (with_reducible apply ih)
      | (with_reducible apply State.startWave_ok)
      | extract_lets
      | (with_reducible intro _)
      | (split)
      | ((conv => arg 1; with_reducible whnf); split)
      | ((conv => arg 1; arg 1; with_reducible whnf); split)
      | ((conv => arg 1; with_reducible whnf); clear_value *; split)
      | ((conv => arg 1; arg 1; with_reducible whnf); clear_value *; split)
      | (clear_value *; split)
      | ((conv => arg 1; with_reducible whnf); with_reducible apply State.ok_mk)
      | (with_reducible apply State.ok_mk)
      | (with_reducible apply State.ok_mem)
      | (with_reducible apply State.ok_scm)
      | (with_reducible apply State.ok_versions)
      | (with_reducible apply State.ok_regs)

theorem State.placeContinuation_ok (s : State) (sp : Spilled) (core base prio : Nat) (h_s : State.ok s) :
    State.ok (State.placeContinuation s sp core base prio) := by
  unfold State.placeContinuation
  try extract_lets
  repeat' first
    | (with_reducible assumption)
    | (with_reducible apply State.setTeam_ok)
    | (with_reducible apply State.clearAllocation_ok)
    | (with_reducible apply State.resumeWaves_ok)
    | extract_lets
    | (with_reducible intro _)
    | (split)
    | ((conv => arg 1; with_reducible whnf); split)
    | ((conv => arg 1; arg 1; with_reducible whnf); split)
    | ((conv => arg 1; with_reducible whnf); clear_value *; split)
    | ((conv => arg 1; arg 1; with_reducible whnf); clear_value *; split)
    | (clear_value *; split)
    | ((conv => arg 1; with_reducible whnf); with_reducible apply State.ok_mk)
    | (with_reducible apply State.ok_mk)
    | (with_reducible apply State.ok_mem)
    | (with_reducible apply State.ok_scm)
    | (with_reducible apply State.ok_versions)
    | (with_reducible apply State.ok_regs)

theorem State.placeItem_ok (s : State) (key : Nat) (it : Item) (core base : Nat) (h_s : State.ok s) :
    State.ok (State.placeItem s key it core base) := by
  unfold State.placeItem
  try extract_lets
  repeat' first
    | (with_reducible assumption)
    | (with_reducible apply State.placeTeam_ok)
    | (with_reducible apply State.startBrood_ok)
    | (with_reducible apply State.placeContinuation_ok)
    | (with_reducible apply State.placeOwner_ok)
    | extract_lets
    | (with_reducible intro _)
    | (split)
    | ((conv => arg 1; with_reducible whnf); split)
    | ((conv => arg 1; arg 1; with_reducible whnf); split)
    | ((conv => arg 1; with_reducible whnf); clear_value *; split)
    | ((conv => arg 1; arg 1; with_reducible whnf); clear_value *; split)
    | (clear_value *; split)
    | ((conv => arg 1; with_reducible whnf); with_reducible apply State.ok_mk)
    | (with_reducible apply State.ok_mk)
    | (with_reducible apply State.ok_mem)
    | (with_reducible apply State.ok_scm)
    | (with_reducible apply State.ok_versions)
    | (with_reducible apply State.ok_regs)

theorem execPlace_ok (core : Nat) (affinity : List Nat) (s : State) (h_s : State.ok s) :
    keeps (execPlace core affinity s) := by
  unfold execPlace
  try extract_lets
  repeat' first
    | (with_reducible assumption)
    | (with_reducible apply State.placeItem_ok)
    | (with_reducible apply State.retryOwned_ok)
    | (with_reducible apply State.reschedule_ok)
    | (with_reducible apply Did.ok_done)
    | (with_reducible apply Did.ok_goto)
    | (with_reducible apply Did.ok_trap)
    | (with_reducible apply Did.ok_wait)
    | (with_reducible apply Did.ok_park)
    | (with_reducible apply Did.ok_left)
    | (with_reducible apply keeps_next)
    | (with_reducible apply keeps_fault)
    | (with_reducible apply keeps_refused)
    | (with_reducible apply filter_wf)
    | extract_lets
    | (with_reducible intro _)
    | (split)

/-! ### Scan -/

theorem State.acceptScan_ok (s : State) (ctx va : Nat) (h_s : State.ok s) :
    State.ok (State.acceptScan s ctx va) := by
  unfold State.acceptScan
  try extract_lets
  repeat' first
    | (with_reducible assumption)
    | (with_reducible apply State.engineSpan_ok)
    | (with_reducible apply State.readRange_ok)
    | (with_reducible apply State.scanRecord_ok)
    | (with_reducible apply State.withdraw_ok)
    | (with_reducible apply State.reschedule_ok)
    | (with_reducible apply Did.ok_done)
    | (with_reducible apply Did.ok_goto)
    | (with_reducible apply Did.ok_trap)
    | (with_reducible apply Did.ok_wait)
    | (with_reducible apply Did.ok_park)
    | (with_reducible apply Did.ok_left)
    | extract_lets
    | (with_reducible intro _)
    | (split)
    | ((conv => arg 1; with_reducible whnf); split)
    | ((conv => arg 1; arg 1; with_reducible whnf); split)
    | ((conv => arg 1; with_reducible whnf); clear_value *; split)
    | ((conv => arg 1; arg 1; with_reducible whnf); clear_value *; split)
    | (clear_value *; split)
    | ((conv => arg 1; with_reducible whnf); with_reducible apply State.ok_mk)
    | (with_reducible apply State.ok_mk)
    | (with_reducible apply State.ok_mem)
    | (with_reducible apply State.ok_scm)
    | (with_reducible apply State.ok_versions)
    | (with_reducible apply State.ok_regs)

theorem execScan_ok (q : Sched) (sa : SReg) (s : State) (h_s : State.ok s) :
    keeps (execScan q sa s) := by
  unfold execScan
  try extract_lets
  repeat' first
    | (with_reducible assumption)
    | (with_reducible apply issueWord_ok)
    | (with_reducible apply Issue.raiseAll_ok)
    | (with_reducible apply State.putNow_ok)
    | (with_reducible apply State.acceptScan_ok)
    | (with_reducible apply Did.ok_done)
    | (with_reducible apply Did.ok_goto)
    | (with_reducible apply Did.ok_trap)
    | (with_reducible apply Did.ok_wait)
    | (with_reducible apply Did.ok_park)
    | (with_reducible apply Did.ok_left)
    | (with_reducible apply keeps_next)
    | (with_reducible apply keeps_fault)
    | (with_reducible apply keeps_refused)
    | extract_lets
    | (with_reducible intro _)
    | (split)

theorem execScanDrainDone_ok (s : State) (h_s : State.ok s) :
    keeps (execScanDrainDone s) := by
  unfold execScanDrainDone
  try extract_lets
  repeat' first
    | (with_reducible assumption)
    | (with_reducible apply State.abort_ok)
    | (with_reducible apply settleEvent_ok)
    | (with_reducible apply State.settleScan_ok)
    | (with_reducible apply State.reschedule_ok)
    | (with_reducible apply Did.ok_done)
    | (with_reducible apply Did.ok_goto)
    | (with_reducible apply Did.ok_trap)
    | (with_reducible apply Did.ok_wait)
    | (with_reducible apply Did.ok_park)
    | (with_reducible apply Did.ok_left)
    | (with_reducible apply keeps_next)
    | (with_reducible apply keeps_fault)
    | (with_reducible apply keeps_refused)
    | extract_lets
    | (with_reducible intro _)
    | (split)
    | (with_reducible apply State.ok_mk)
    | (with_reducible apply State.ok_mem)
    | (with_reducible apply State.ok_scm)
    | (with_reducible apply State.ok_versions)
    | (with_reducible apply State.ok_regs)

theorem State.rejoin_ok (s : State) (core : Nat) (h_s : State.ok s) :
    State.ok (State.rejoin s core) := by
  unfold State.rejoin
  try extract_lets
  repeat' first
    | (with_reducible assumption)
    | (with_reducible apply State.clearRun_ok)

theorem execScanRunDone_ok (failmask : BitVec 8) (s : State) (h_s : State.ok s) :
    keeps (execScanRunDone failmask s) := by
  unfold execScanRunDone
  try extract_lets
  repeat' first
    | (with_reducible assumption)
    | (with_reducible apply State.abort_ok)
    | (with_reducible apply settleEvent_ok)
    | (with_reducible apply State.settleScan_ok)
    | (with_reducible apply State.reschedule_ok)
    | (with_reducible apply foldState_ok)
    | (with_reducible apply State.rejoin_ok)
    | (with_reducible apply State.endScan_ok)
    | (with_reducible apply foldl_ok)
    | (with_reducible apply Did.ok_done)
    | (with_reducible apply Did.ok_goto)
    | (with_reducible apply Did.ok_trap)
    | (with_reducible apply Did.ok_wait)
    | (with_reducible apply Did.ok_park)
    | (with_reducible apply Did.ok_left)
    | (with_reducible apply keeps_next)
    | (with_reducible apply keeps_fault)
    | (with_reducible apply keeps_refused)
    | (with_reducible apply foldl_set_wf)
    | (with_reducible apply filter_wf)
    | extract_lets
    | (with_reducible intro _)
    | ((conv => arg 1; with_reducible whnf); first | (with_reducible apply State.abort_ok) | (with_reducible apply settleEvent_ok) | (with_reducible apply State.settleScan_ok) | (with_reducible apply State.reschedule_ok) | (with_reducible apply foldState_ok) | (with_reducible apply State.rejoin_ok) | (with_reducible apply State.endScan_ok) | (with_reducible apply Did.ok_done) | (with_reducible apply Did.ok_goto) | (with_reducible apply Did.ok_trap) | (with_reducible apply Did.ok_wait) | (with_reducible apply Did.ok_park) | (with_reducible apply Did.ok_left) | (with_reducible apply keeps_next) | (with_reducible apply keeps_fault) | (with_reducible apply keeps_refused))
    | (split)
    | ((conv => arg 1; with_reducible whnf); split)
    | ((conv => arg 1; arg 1; with_reducible whnf); split)
    | ((conv => arg 1; with_reducible whnf); clear_value *; split)
    | ((conv => arg 1; arg 1; with_reducible whnf); clear_value *; split)
    | (clear_value *; split)
    | ((conv => arg 1; with_reducible whnf); with_reducible apply State.ok_mk)
    | (with_reducible apply State.ok_mk)
    | (with_reducible apply State.ok_mem)
    | (with_reducible apply State.ok_scm)
    | (with_reducible apply State.ok_versions)
    | (with_reducible apply State.ok_regs)

theorem execScanDrainTimeout_ok (s : State) (h_s : State.ok s) :
    keeps (execScanDrainTimeout s) := by
  unfold execScanDrainTimeout
  try extract_lets
  repeat' first
    | (with_reducible assumption)
    | (with_reducible apply State.abort_ok)
    | (with_reducible apply settleEvent_ok)
    | (with_reducible apply State.settleScan_ok)
    | (with_reducible apply State.reschedule_ok)
    | (with_reducible apply State.endScan_ok)
    | (with_reducible apply Did.ok_done)
    | (with_reducible apply Did.ok_goto)
    | (with_reducible apply Did.ok_trap)
    | (with_reducible apply Did.ok_wait)
    | (with_reducible apply Did.ok_park)
    | (with_reducible apply Did.ok_left)
    | (with_reducible apply keeps_next)
    | (with_reducible apply keeps_fault)
    | (with_reducible apply keeps_refused)
    | extract_lets
    | (with_reducible intro _)
    | (split)

theorem State.writeCoreBit_ok (s : State) (core : Nat) (b : Bool) (h_s : State.ok s) :
    State.ok (State.writeCoreBit s core b) := by
  unfold State.writeCoreBit
  try extract_lets
  repeat' first
    | (with_reducible assumption)
    | extract_lets
    | (with_reducible intro _)
    | (split)
    | (with_reducible apply State.ok_mk)
    | (with_reducible apply State.ok_mem)
    | (with_reducible apply State.ok_scm)
    | (with_reducible apply State.ok_versions)
    | (with_reducible apply State.ok_regs)

theorem execCmapWrite_ok (off width : Nat) (value : BitVec 64) (s : State) (h_s : State.ok s) :
    keeps (execCmapWrite off width value s) := by
  unfold execCmapWrite
  try extract_lets
  repeat' first
    | (with_reducible assumption)
    | (with_reducible apply foldState_ok)
    | (with_reducible apply State.writeCoreBit_ok)
    | (with_reducible apply State.reschedule_ok)
    | (with_reducible apply Did.ok_done)
    | (with_reducible apply Did.ok_goto)
    | (with_reducible apply Did.ok_trap)
    | (with_reducible apply Did.ok_wait)
    | (with_reducible apply Did.ok_park)
    | (with_reducible apply Did.ok_left)
    | (with_reducible apply keeps_next)
    | (with_reducible apply keeps_fault)
    | (with_reducible apply keeps_refused)
    | extract_lets
    | (with_reducible intro _)
    | (split)

/-! ### Launches -/

theorem State.physRead_ok (s : State) (ctx pa n : Nat) (h_s : State.ok s) :
    State.ok ((State.physRead s ctx pa n)).1 := by
  unfold State.physRead
  try extract_lets
  repeat' first
    | (with_reducible assumption)
    | (with_reducible apply State.readRange_ok)
    | extract_lets
    | (with_reducible intro _)
    | (split)

theorem State.virtRead_ok (s : State) (ctx va n : Nat) (h_s : State.ok s) :
    State.ok ((State.virtRead s ctx va n)).1 := by
  unfold State.virtRead
  try extract_lets
  repeat' first
    | (with_reducible assumption)
    | (with_reducible apply State.check_ok)
    | (with_reducible apply State.stallOn_ok)
    | (with_reducible apply State.askPeer_ok)
    | (with_reducible apply State.readRange_ok)
    | extract_lets
    | (with_reducible intro _)
    | (split)

theorem State.writeReport_ok (s : State) (ctx pa : Nat) (r : Report) (h_s : State.ok s) :
    State.ok (State.writeReport s ctx pa r) := by
  unfold State.writeReport
  try extract_lets
  repeat' first
    | (with_reducible assumption)
    | (with_reducible apply State.storeAt_ok)
    | (with_reducible apply State.setError_ok)
    | extract_lets
    | (with_reducible intro _)
    | (split)

theorem State.makeReady_ok (s : State) (key : Nat) (h_s : State.ok s) :
    State.ok (State.makeReady s key) := by
  unfold State.makeReady
  try extract_lets
  repeat' first
    | (with_reducible assumption)
    | (with_reducible apply State.distributable_ok)
    | extract_lets
    | (with_reducible intro _)
    | (split)
    | (with_reducible apply State.ok_mk)
    | (with_reducible apply State.ok_mem)
    | (with_reducible apply State.ok_scm)
    | (with_reducible apply State.ok_versions)
    | (with_reducible apply State.ok_regs)

theorem State.endLaunch_ok (s : State) (key : Nat) (l : Launch) (code : Nat) (h_s : State.ok s) :
    State.ok (State.endLaunch s key l code) := by
  unfold State.endLaunch
  try extract_lets
  repeat' first
    | (with_reducible assumption)
    | (with_reducible apply State.writeReport_ok)
    | (with_reducible apply foldState_ok)
    | (with_reducible apply State.makeReady_ok)
    | (with_reducible apply filter_wf)
    | extract_lets
    | (with_reducible intro _)
    | (split)
    | ((conv => arg 1; with_reducible whnf); split)
    | ((conv => arg 1; arg 1; with_reducible whnf); split)
    | ((conv => arg 1; with_reducible whnf); clear_value *; split)
    | ((conv => arg 1; arg 1; with_reducible whnf); clear_value *; split)
    | (clear_value *; split)
    | ((conv => arg 1; with_reducible whnf); with_reducible apply State.ok_mk)
    | (with_reducible apply State.ok_mk)
    | (with_reducible apply State.ok_mem)
    | (with_reducible apply State.ok_scm)
    | (with_reducible apply State.ok_versions)
    | (with_reducible apply State.ok_regs)

theorem State.setQueue_ok (s : State) (ctx q : Nat) (x : LaunchQueue) (h_s : State.ok s) :
    State.ok (State.setQueue s ctx q x) := by
  unfold State.setQueue
  try extract_lets
  repeat' first
    | (with_reducible assumption)
    | extract_lets
    | (with_reducible intro _)
    | (split)
    | (with_reducible apply State.ok_mk)
    | (with_reducible apply State.ok_mem)
    | (with_reducible apply State.ok_scm)
    | (with_reducible apply State.ok_versions)
    | (with_reducible apply State.ok_regs)

theorem State.queueDesc_ok (s : State) (ctx q : Nat) (h_s : State.ok s) :
    State.ok ((State.queueDesc s ctx q)).1 := by
  unfold State.queueDesc
  try extract_lets
  repeat' first
    | (with_reducible assumption)
    | (with_reducible apply State.physRead_ok)
    | extract_lets
    | (with_reducible intro _)
    | (split)

theorem State.unring_ok (s : State) (ctx : Nat) (h_s : State.ok s) :
    State.ok (State.unring s ctx) := by
  unfold State.unring
  try extract_lets
  repeat' first
    | (with_reducible assumption)
    | extract_lets
    | (with_reducible intro _)
    | (split)
    | (with_reducible apply State.ok_mk)
    | (with_reducible apply State.ok_mem)
    | (with_reducible apply State.ok_scm)
    | (with_reducible apply State.ok_versions)
    | (with_reducible apply State.ok_regs)

theorem execDoorbell_ok (value : BitVec 32) (s : State) (h_s : State.ok s) :
    keeps (execDoorbell value s) := by
  unfold execDoorbell
  try extract_lets
  repeat' first
    | (with_reducible assumption)
    | (with_reducible apply State.setQueue_ok)
    | (with_reducible apply Did.ok_done)
    | (with_reducible apply Did.ok_goto)
    | (with_reducible apply Did.ok_trap)
    | (with_reducible apply Did.ok_wait)
    | (with_reducible apply Did.ok_park)
    | (with_reducible apply Did.ok_left)
    | (with_reducible apply keeps_next)
    | (with_reducible apply keeps_fault)
    | (with_reducible apply keeps_refused)
    | extract_lets
    | (with_reducible intro _)
    | (split)

theorem execPriocmd_ok (value : BitVec 32) (s : State) (h_s : State.ok s) :
    keeps (execPriocmd value s) := by
  unfold execPriocmd
  extract_lets v prio ctx q lq s1 mine set
  have h1 : State.ok s1 := State.setQueue_ok _ _ _ _ h_s
  split
  · exact keeps_next h_s
  · exact keeps_next (State.reschedule_ok _ (State.ok_mk h1.1 h1.2.1 h1.2.2.1 h1.2.2.2))

theorem State.addLaunch_ok (s : State) (ctx q : Nat) (d : QueueDesc) (f : Nat → Nat → Nat) (h : Header) (h_s : State.ok s) :
    State.ok (State.addLaunch s ctx q d f h) := by
  unfold State.addLaunch
  try extract_lets
  repeat' first
    | (with_reducible assumption)
    | (with_reducible apply State.setQueue_ok)
    | (with_reducible apply State.makeReady_ok)
    | (with_reducible apply filter_wf)
    | extract_lets
    | (with_reducible intro _)
    | (split)
    | ((conv => arg 1; with_reducible whnf); split)
    | ((conv => arg 1; arg 1; with_reducible whnf); split)
    | ((conv => arg 1; with_reducible whnf); clear_value *; split)
    | ((conv => arg 1; arg 1; with_reducible whnf); clear_value *; split)
    | (clear_value *; split)
    | ((conv => arg 1; with_reducible whnf); with_reducible apply State.ok_mk)
    | (with_reducible apply State.ok_mk)
    | (with_reducible apply State.ok_mem)
    | (with_reducible apply State.ok_scm)
    | (with_reducible apply State.ok_versions)
    | (with_reducible apply State.ok_regs)

theorem State.acceptEntry_ok (s : State) (ctx q : Nat) (d : QueueDesc) (va : Nat) (h_s : State.ok s) :
    State.ok (State.acceptEntry s ctx q d va) := by
  unfold State.acceptEntry
  try extract_lets
  repeat' first
    | (with_reducible assumption)
    | (with_reducible apply State.virtRead_ok)
    | (with_reducible apply State.advance_ok)
    | (with_reducible apply State.storeAt_ok)
    | (with_reducible apply State.addLaunch_ok)
    | (with_reducible apply State.writeReport_ok)
    | extract_lets
    | (with_reducible intro _)
    | ((conv => arg 1; with_reducible whnf); first | (with_reducible apply State.virtRead_ok) | (with_reducible apply State.advance_ok) | (with_reducible apply State.storeAt_ok) | (with_reducible apply State.addLaunch_ok) | (with_reducible apply State.writeReport_ok))
    | (split)
    | ((conv => arg 1; with_reducible whnf); split)
    | ((conv => arg 1; arg 1; with_reducible whnf); split)

theorem execLaunchAccept_ok (ctx queue : Nat) (s : State) (h_s : State.ok s) :
    keeps (execLaunchAccept ctx queue s) := by
  unfold execLaunchAccept
  try extract_lets
  repeat' first
    | (with_reducible assumption)
    | (with_reducible apply Did.state_ok)
    | (with_reducible apply State.queueDesc_ok)
    | (with_reducible apply State.setError_ok)
    | (with_reducible apply State.setQueue_ok)
    | (with_reducible apply settleEvent_ok)
    | (with_reducible apply State.physRead_ok)
    | (with_reducible apply State.acceptEntry_ok)
    | (with_reducible apply State.settleScan_ok)
    | (with_reducible apply State.reschedule_ok)
    | (with_reducible apply Did.ok_done)
    | (with_reducible apply Did.ok_goto)
    | (with_reducible apply Did.ok_trap)
    | (with_reducible apply Did.ok_wait)
    | (with_reducible apply Did.ok_park)
    | (with_reducible apply Did.ok_left)
    | (with_reducible apply keeps_next)
    | (with_reducible apply keeps_fault)
    | (with_reducible apply keeps_refused)
    | extract_lets
    | (with_reducible intro _)
    | ((conv => arg 1; with_reducible whnf); first | (with_reducible apply Did.state_ok) | (with_reducible apply State.queueDesc_ok) | (with_reducible apply State.setError_ok) | (with_reducible apply State.setQueue_ok) | (with_reducible apply settleEvent_ok) | (with_reducible apply State.physRead_ok) | (with_reducible apply State.acceptEntry_ok) | (with_reducible apply State.settleScan_ok) | (with_reducible apply State.reschedule_ok) | (with_reducible apply Did.ok_done) | (with_reducible apply Did.ok_goto) | (with_reducible apply Did.ok_trap) | (with_reducible apply Did.ok_wait) | (with_reducible apply Did.ok_park) | (with_reducible apply Did.ok_left) | (with_reducible apply keeps_next) | (with_reducible apply keeps_fault) | (with_reducible apply keeps_refused))
    | (split)

theorem execLaunchComplete_ok (ctx launch : Nat) (s : State) (h_s : State.ok s) :
    keeps (execLaunchComplete ctx launch s) := by
  unfold execLaunchComplete
  try extract_lets
  repeat' first
    | (with_reducible assumption)
    | (with_reducible apply State.settleLaunch_ok)
    | (with_reducible apply settleEvent_ok)
    | (with_reducible apply State.endLaunch_ok)
    | (with_reducible apply State.settleScan_ok)
    | (with_reducible apply State.reschedule_ok)
    | (with_reducible apply Did.ok_done)
    | (with_reducible apply Did.ok_goto)
    | (with_reducible apply Did.ok_trap)
    | (with_reducible apply Did.ok_wait)
    | (with_reducible apply Did.ok_park)
    | (with_reducible apply Did.ok_left)
    | (with_reducible apply keeps_next)
    | (with_reducible apply keeps_fault)
    | (with_reducible apply keeps_refused)
    | extract_lets
    | (with_reducible intro _)
    | (split)

/-! ### Images -/

theorem State.vacate_ok (s : State) (key : Nat) (h_s : State.ok s) :
    State.ok (State.vacate s key) := by
  unfold State.vacate
  try extract_lets
  repeat' first
    | (with_reducible assumption)
    | (with_reducible apply State.modCluster_ok)
    | (with_reducible apply filter_wf)
    | extract_lets
    | (with_reducible intro _)
    | (split)
    | (with_reducible apply State.ok_mk)
    | (with_reducible apply State.ok_mem)
    | (with_reducible apply State.ok_scm)
    | (with_reducible apply State.ok_versions)
    | (with_reducible apply State.ok_regs)

theorem State.killWave_ok (s : State) (slot : Nat) (h_s : State.ok s) :
    State.ok (State.killWave s slot) := by
  unfold State.killWave
  try extract_lets
  repeat' first
    | (with_reducible assumption)
    | (with_reducible apply State.faultCapsule_ok)
    | (with_reducible apply State.faultAwaited_ok)
    | (with_reducible apply State.countAbort_ok)
    | (with_reducible apply State.removeWave_ok)
    | extract_lets
    | (with_reducible intro _)
    | (split)
    | ((conv => arg 1; with_reducible whnf); split)
    | ((conv => arg 1; arg 1; with_reducible whnf); split)
    | ((conv => arg 1; with_reducible whnf); with_reducible apply State.ok_mk)
    | (with_reducible apply State.ok_mk)
    | (with_reducible apply State.ok_mem)
    | (with_reducible apply State.ok_scm)
    | (with_reducible apply State.ok_versions)
    | (with_reducible apply State.ok_regs)
    | contradiction
    | (with_reducible exact trivial)
    | (with_reducible apply versionsOk_del)

theorem State.killResident_ok (s : State) (p : Wave → Bool) (h_s : State.ok s) :
    State.ok (State.killResident s p) := by
  unfold State.killResident
  try extract_lets
  repeat' first
    | (with_reducible assumption)
    | (with_reducible apply foldState_ok)
    | (with_reducible apply State.killWave_ok)
    | extract_lets
    | (with_reducible intro _)
    | (split)

theorem State.killAbsent_ok (s : State) (p : Wave → Bool) (h_s : State.ok s) :
    State.ok (State.killAbsent s p) := by
  unfold State.killAbsent
  try extract_lets
  repeat' first
    | (with_reducible assumption)
    | (with_reducible apply State.wave_ok)
    | (with_reducible apply foldState_ok)
    | (with_reducible apply State.faultCapsule_ok)
    | (with_reducible apply State.countAbort_ok)
    | (with_reducible apply State.modCluster_ok)
    | (with_reducible apply State.recount_ok)
    | (with_reducible apply filter_wf)
    | extract_lets
    | (with_reducible intro _)
    | ((conv => arg 1; with_reducible whnf); first | (with_reducible apply State.wave_ok) | (with_reducible apply foldState_ok) | (with_reducible apply State.faultCapsule_ok) | (with_reducible apply State.countAbort_ok) | (with_reducible apply State.modCluster_ok) | (with_reducible apply State.recount_ok))
    | (split)
    | ((conv => arg 1; with_reducible whnf); split)
    | ((conv => arg 1; arg 1; with_reducible whnf); split)
    | ((conv => arg 1; with_reducible whnf); clear_value *; split)
    | ((conv => arg 1; arg 1; with_reducible whnf); clear_value *; split)
    | (clear_value *; split)
    | ((conv => arg 1; with_reducible whnf); with_reducible apply State.ok_mk)
    | (with_reducible apply State.ok_mk)
    | (with_reducible apply State.ok_mem)
    | (with_reducible apply State.ok_scm)
    | (with_reducible apply State.ok_versions)
    | (with_reducible apply State.ok_regs)
    | contradiction
    | (with_reducible exact trivial)
    | (with_reducible apply versionsOk_del)

theorem State.killBroods_ok (s : State) (p : Brood → Bool) (h_s : State.ok s) :
    State.ok (State.killBroods s p) := by
  unfold State.killBroods
  try extract_lets
  repeat' first
    | (with_reducible assumption)
    | (with_reducible apply foldState_ok)
    | (with_reducible apply State.countAbort_ok)
    | (with_reducible apply filter_wf)
    | extract_lets
    | (with_reducible intro _)
    | (split)
    | ((conv => arg 1; with_reducible whnf); split)
    | ((conv => arg 1; arg 1; with_reducible whnf); split)
    | ((conv => arg 1; with_reducible whnf); clear_value *; split)
    | ((conv => arg 1; arg 1; with_reducible whnf); clear_value *; split)
    | (clear_value *; split)
    | ((conv => arg 1; with_reducible whnf); with_reducible apply State.ok_mk)
    | (with_reducible apply State.ok_mk)
    | (with_reducible apply State.ok_mem)
    | (with_reducible apply State.ok_scm)
    | (with_reducible apply State.ok_versions)
    | (with_reducible apply State.ok_regs)

theorem State.silence_ok (s : State) (ctx : Nat) (h_s : State.ok s) :
    State.ok (State.silence s ctx) := by
  unfold State.silence
  try extract_lets
  repeat' first
    | (with_reducible assumption)
    | (with_reducible apply Did.settle_ok)
    | (with_reducible apply filter_wf)
    | extract_lets
    | (with_reducible intro _)
    | ((conv => arg 1; with_reducible whnf); first | (with_reducible apply Did.settle_ok))
    | (split)
    | ((conv => arg 1; with_reducible whnf); split)
    | ((conv => arg 1; arg 1; with_reducible whnf); split)
    | ((conv => arg 1; with_reducible whnf); clear_value *; split)
    | ((conv => arg 1; arg 1; with_reducible whnf); clear_value *; split)
    | (clear_value *; split)
    | ((conv => arg 1; with_reducible whnf); with_reducible apply State.ok_mk)
    | (with_reducible apply State.ok_mk)
    | (with_reducible apply State.ok_mem)
    | (with_reducible apply State.ok_scm)
    | (with_reducible apply State.ok_versions)
    | (with_reducible apply State.ok_regs)

theorem State.resetContext_ok (s : State) (ctx : Nat) (h_s : State.ok s) :
    State.ok (State.resetContext s ctx) := by
  unfold State.resetContext
  try extract_lets
  repeat' first
    | (with_reducible assumption)
    | (with_reducible apply State.killResident_ok)
    | (with_reducible apply State.killAbsent_ok)
    | (with_reducible apply State.killBroods_ok)
    | (with_reducible apply State.silence_ok)
    | (with_reducible apply foldState_ok)
    | (with_reducible apply State.writeReport_ok)
    | (with_reducible apply State.logFault_ok)
    | (with_reducible apply State.setContext_ok)
    | (with_reducible apply Did.state_ok)
    | (with_reducible apply State.retryOwned_ok)
    | (with_reducible apply State.reschedule_ok)
    | (with_reducible apply filter_wf)
    | extract_lets
    | (with_reducible intro _)
    | ((conv => arg 1; with_reducible whnf); first | (with_reducible apply State.killResident_ok) | (with_reducible apply State.killAbsent_ok) | (with_reducible apply State.killBroods_ok) | (with_reducible apply State.silence_ok) | (with_reducible apply foldState_ok) | (with_reducible apply State.writeReport_ok) | (with_reducible apply State.logFault_ok) | (with_reducible apply State.setContext_ok) | (with_reducible apply Did.state_ok) | (with_reducible apply State.retryOwned_ok) | (with_reducible apply State.reschedule_ok))
    | (split)
    | ((conv => arg 1; with_reducible whnf); split)
    | ((conv => arg 1; arg 1; with_reducible whnf); split)
    | ((conv => arg 1; with_reducible whnf); clear_value *; split)
    | ((conv => arg 1; arg 1; with_reducible whnf); clear_value *; split)
    | (clear_value *; split)
    | ((conv => arg 1; with_reducible whnf); with_reducible apply State.ok_mk)
    | (with_reducible apply State.ok_mk)
    | (with_reducible apply State.ok_mem)
    | (with_reducible apply State.ok_scm)
    | (with_reducible apply State.ok_versions)
    | (with_reducible apply State.ok_regs)

theorem execPreemptDeadlineExpiry_ok (ctx : Nat) (s : State) (h_s : State.ok s) :
    keeps (execPreemptDeadlineExpiry ctx s) := by
  unfold execPreemptDeadlineExpiry
  try extract_lets
  repeat' first
    | (with_reducible assumption)
    | (with_reducible apply settleEvent_ok)
    | (with_reducible apply State.setContext_ok)
    | (with_reducible apply State.resetContext_ok)
    | (with_reducible apply Did.state_ok)
    | (with_reducible apply Did.ok_done)
    | (with_reducible apply Did.ok_goto)
    | (with_reducible apply Did.ok_trap)
    | (with_reducible apply Did.ok_wait)
    | (with_reducible apply Did.ok_park)
    | (with_reducible apply Did.ok_left)
    | (with_reducible apply keeps_next)
    | (with_reducible apply keeps_fault)
    | (with_reducible apply keeps_refused)
    | extract_lets
    | (with_reducible intro _)
    | (split)

theorem State.spill_ok (s : State) (key : Nat) (t : Team) (h_s : State.ok s) :
    State.ok (State.spill s key t) := by
  unfold State.spill
  try extract_lets
  repeat' first
    | (with_reducible assumption)
    | (with_reducible apply State.vacate_ok)
    | extract_lets
    | (with_reducible intro _)
    | (split)
    | ((conv => arg 1; with_reducible whnf); split)
    | ((conv => arg 1; arg 1; with_reducible whnf); split)
    | ((conv => arg 1; with_reducible whnf); clear_value *; split)
    | ((conv => arg 1; arg 1; with_reducible whnf); clear_value *; split)
    | (clear_value *; split)
    | ((conv => arg 1; with_reducible whnf); with_reducible apply State.ok_mk)
    | (with_reducible apply State.ok_mk)
    | (with_reducible apply State.ok_mem)
    | (with_reducible apply State.ok_scm)
    | (with_reducible apply State.ok_versions)
    | (with_reducible apply State.ok_regs)

theorem State.failLaunch_ok (s : State) (key : Nat) (l : Launch) (h_s : State.ok s) :
    State.ok (State.failLaunch s key l) := by
  unfold State.failLaunch
  try extract_lets
  repeat' first
    | (with_reducible assumption)
    | (with_reducible apply State.killResident_ok)
    | (with_reducible apply State.killAbsent_ok)
    | (with_reducible apply State.killBroods_ok)
    | (with_reducible apply State.retryOwned_ok)
    | (with_reducible apply State.logFault_ok)
    | (with_reducible apply filter_wf)
    | extract_lets
    | (with_reducible intro _)
    | ((conv => arg 1; with_reducible whnf); first | (with_reducible apply State.killResident_ok) | (with_reducible apply State.killAbsent_ok) | (with_reducible apply State.killBroods_ok) | (with_reducible apply State.retryOwned_ok) | (with_reducible apply State.logFault_ok))
    | (split)
    | ((conv => arg 1; with_reducible whnf); split)
    | ((conv => arg 1; arg 1; with_reducible whnf); split)
    | ((conv => arg 1; with_reducible whnf); clear_value *; split)
    | ((conv => arg 1; arg 1; with_reducible whnf); clear_value *; split)
    | (clear_value *; split)
    | ((conv => arg 1; with_reducible whnf); with_reducible apply State.ok_mk)
    | (with_reducible apply State.ok_mk)
    | (with_reducible apply State.ok_mem)
    | (with_reducible apply State.ok_scm)
    | (with_reducible apply State.ok_versions)
    | (with_reducible apply State.ok_regs)

theorem execWbarSpill_ok (ctx launch : Nat) (s : State) (h_s : State.ok s) :
    keeps (execWbarSpill ctx launch s) := by
  unfold execWbarSpill
  try extract_lets
  repeat' first
    | (with_reducible assumption)
    | (with_reducible apply State.spill_ok)
    | (with_reducible apply State.reschedule_ok)
    | (with_reducible apply settleEvent_ok)
    | (with_reducible apply State.failLaunch_ok)
    | (with_reducible apply foldl_ok)
    | (with_reducible apply Did.ok_done)
    | (with_reducible apply Did.ok_goto)
    | (with_reducible apply Did.ok_trap)
    | (with_reducible apply Did.ok_wait)
    | (with_reducible apply Did.ok_park)
    | (with_reducible apply Did.ok_left)
    | (with_reducible apply keeps_next)
    | (with_reducible apply keeps_fault)
    | (with_reducible apply keeps_refused)
    | (with_reducible apply foldl_set_wf)
    | extract_lets
    | (with_reducible intro _)
    | (split)
    | ((conv => arg 1; with_reducible whnf); split)
    | ((conv => arg 1; with_reducible whnf); clear_value *; split)

theorem State.writeHeaders_ok (s : State) (ctx part : Nat) (h_s : State.ok s) :
    State.ok (State.writeHeaders s ctx part) := by
  unfold State.writeHeaders
  try extract_lets
  repeat' first
    | (with_reducible assumption)
    | (with_reducible apply foldState_ok)
    | (with_reducible apply State.storeAt_ok)
    | extract_lets
    | (with_reducible intro _)

theorem State.addImage_ok (s : State) (m : Image) (h_s : State.ok s) :
    ∀ u, (State.addImage s m) = some u → State.ok u := by
  unfold State.addImage
  try extract_lets
  repeat' first
    | (with_reducible assumption)
    | (refine some_ok ?_)
    | (refine none_ok)
    | (refine map_ok ?_)
    | (refine bind_ok ?_)
    | extract_lets
    | (split)
    | (with_reducible intro _)
    | (split)
    | (with_reducible apply State.ok_mk)
    | (with_reducible apply State.ok_mem)
    | (with_reducible apply State.ok_scm)
    | (with_reducible apply State.ok_versions)
    | (with_reducible apply State.ok_regs)

theorem State.addImages_ok (s : State) (a0 : List Image) (h_s : State.ok s) :
    ∀ u, (State.addImages s a0) = some u → State.ok u := by
  induction a0 generalizing s with
  | nil =>
    unfold State.addImages
    try extract_lets
    repeat' first
      | (with_reducible assumption)
      | (with_reducible refine State.addImage_ok _ _ ?_)
      | (with_reducible refine State.addImage_ok _ _ ?_ _ (by assumption))
      | (refine some_ok ?_)
  | cons c_ l_ ih =>
    unfold State.addImages
    try extract_lets
    repeat' first
      | (with_reducible assumption)
      | (refine ih _ ?_)
      | (refine ih _ ?_ _ (by assumption))
      | (with_reducible refine State.addImage_ok _ _ ?_)
      | (with_reducible refine State.addImage_ok _ _ ?_ _ (by assumption))
      | (refine some_ok ?_)
      | (refine none_ok)
      | (refine map_ok ?_)
      | (refine bind_ok ?_)
      | extract_lets
      | (split)
      | (with_reducible intro _)

theorem State.writeBodies_ok (s : State) (first n : Nat) (h_s : State.ok s) :
    State.ok (State.writeBodies s first n) := by
  unfold State.writeBodies
  try extract_lets
  repeat' first
    | (with_reducible assumption)
    | (with_reducible apply foldState_ok)
    | (with_reducible apply State.storeRun_ok)
    | extract_lets
    | (with_reducible intro _)
    | (split)
    | ((conv => arg 1; with_reducible whnf); split)
    | ((conv => arg 1; arg 1; with_reducible whnf); split)
    | ((conv => arg 1; with_reducible whnf); with_reducible apply State.ok_mk)
    | (with_reducible apply State.ok_mk)
    | (with_reducible apply State.ok_mem)
    | (with_reducible apply State.ok_scm)
    | (with_reducible apply State.ok_versions)
    | (with_reducible apply State.ok_regs)

theorem State.linkChains_ok (s : State) (image : Nat) (slots : List Nat) (h_s : State.ok s) :
    State.ok (State.linkChains s image slots) := by
  unfold State.linkChains
  try extract_lets
  repeat' first
    | (with_reducible assumption)
    | extract_lets
    | (with_reducible intro _)
    | (split)
    | (with_reducible apply State.ok_mk)
    | (with_reducible apply State.ok_mem)
    | (with_reducible apply State.ok_scm)
    | (with_reducible apply State.ok_versions)
    | (with_reducible apply State.ok_regs)

theorem State.saveTeam_ok (s : State) (key kind : Nat) (t : Team) (h_s : State.ok s) :
    ∀ u, (State.saveTeam s key kind t) = some u → State.ok u := by
  unfold State.saveTeam
  try extract_lets
  repeat' first
    | (with_reducible assumption)
    | (with_reducible refine State.addImages_ok _ _ ?_)
    | (with_reducible refine State.addImages_ok _ _ ?_ _ (by assumption))
    | (with_reducible apply State.resetContext_ok)
    | (with_reducible apply foldState_ok)
    | (with_reducible apply State.vacate_ok)
    | (with_reducible apply State.linkChains_ok)
    | (with_reducible apply State.recount_ok)
    | (with_reducible apply State.writeBodies_ok)
    | (with_reducible apply State.writeHeaders_ok)
    | (with_reducible apply State.settlePreempt_ok)
    | (with_reducible apply State.reschedule_ok)
    | (refine some_ok ?_)
    | (refine none_ok)
    | (refine map_ok ?_)
    | (refine bind_ok ?_)
    | extract_lets
    | (split)
    | (with_reducible intro _)

theorem State.commitTeam_ok (s : State) (t : Team) (h_s : State.ok s) :
    State.ok (State.commitTeam s t) := by
  unfold State.commitTeam
  try extract_lets
  repeat' first
    | (with_reducible assumption)
    | (with_reducible apply foldState_ok)
    | (with_reducible apply State.wave_ok)
    | (with_reducible apply State.commitSlot_ok)
    | (with_reducible apply State.commit_ok)
    | extract_lets
    | (with_reducible intro _)
    | (split)

theorem execTeamSave_ok (team : Nat) (s : State) (h_s : State.ok s) :
    keeps (execTeamSave team s) := by
  unfold execTeamSave
  try extract_lets
  repeat' first
    | (with_reducible assumption)
    | (with_reducible apply Did.state_ok)
    | (with_reducible apply State.setTeam_ok)
    | (with_reducible apply State.commitTeam_ok)
    | (with_reducible apply settleEvent_ok)
    | (with_reducible refine State.saveTeam_ok _ _ _ _ ?_)
    | (with_reducible refine State.saveTeam_ok _ _ _ _ ?_ _ (by assumption))
    | (with_reducible apply Did.ok_done)
    | (with_reducible apply Did.ok_goto)
    | (with_reducible apply Did.ok_trap)
    | (with_reducible apply Did.ok_wait)
    | (with_reducible apply Did.ok_park)
    | (with_reducible apply Did.ok_left)
    | (with_reducible apply keeps_next)
    | (with_reducible apply keeps_fault)
    | (with_reducible apply keeps_refused)
    | extract_lets
    | (with_reducible intro _)
    | (split)

theorem execTeamDiscard_ok (team : Nat) (s : State) (h_s : State.ok s) :
    keeps (execTeamDiscard team s) := by
  unfold execTeamDiscard
  try extract_lets
  repeat' first
    | (with_reducible assumption)
    | (with_reducible apply Did.state_ok)
    | (with_reducible apply State.setTeam_ok)
    | (with_reducible refine State.saveTeam_ok _ _ _ _ ?_)
    | (with_reducible refine State.saveTeam_ok _ _ _ _ ?_ _ (by assumption))
    | (with_reducible apply settleEvent_ok)
    | (with_reducible apply foldl_ok)
    | (with_reducible apply Did.ok_done)
    | (with_reducible apply Did.ok_goto)
    | (with_reducible apply Did.ok_trap)
    | (with_reducible apply Did.ok_wait)
    | (with_reducible apply Did.ok_park)
    | (with_reducible apply Did.ok_left)
    | (with_reducible apply keeps_next)
    | (with_reducible apply keeps_fault)
    | (with_reducible apply keeps_refused)
    | (with_reducible apply foldl_set_wf)
    | extract_lets
    | (with_reducible intro _)
    | (split)
    | ((conv => arg 1; with_reducible whnf); split)
    | ((conv => arg 1; arg 1; with_reducible whnf); split)
    | ((conv => arg 1; with_reducible whnf); clear_value *; split)
    | ((conv => arg 1; arg 1; with_reducible whnf); clear_value *; split)
    | (clear_value *; split)
    | ((conv => arg 1; with_reducible whnf); with_reducible apply State.ok_mk)
    | (with_reducible apply State.ok_mk)
    | (with_reducible apply State.ok_mem)
    | (with_reducible apply State.ok_scm)
    | (with_reducible apply State.ok_versions)
    | (with_reducible apply State.ok_regs)
    | contradiction
    | (with_reducible exact trivial)
    | (with_reducible apply versionsOk_del)
    | (with_reducible apply versionsOk_dels)

theorem State.loadRuns_ok (s : State) (core base lines : Nat) (a0 : List SpadRun) (h_s : State.ok s) :
    State.ok (State.loadRuns s core base lines a0) := by
  induction a0 generalizing s core base lines with
  | nil =>
    unfold State.loadRuns
    try extract_lets
    repeat' first
      | (with_reducible assumption)
  | cons c_ l_ ih =>
    unfold State.loadRuns
    try extract_lets
    repeat' first
      | (with_reducible assumption)
      | (with_reducible apply ih)
      | (with_reducible apply State.loadRun_ok)

theorem State.seatWaves_ok (s : State) (slots : List Nat) (a0 : List (Wave × Nat)) (h_s : State.ok s) :
    State.ok (State.seatWaves s slots a0) := by
  induction a0 generalizing s slots with
  | nil =>
    unfold State.seatWaves
    try extract_lets
    repeat' first
      | (with_reducible assumption)
  | cons c_ l_ ih =>
    unfold State.seatWaves
    try extract_lets
    repeat' first
      | (with_reducible assumption)
      | (with_reducible apply ih)
      | (with_reducible apply State.setWave_ok)
      | (with_reducible apply State.clearL1_ok)
      | (with_reducible apply State.acquireDue_ok)

theorem State.restoreImage_ok (s : State) (mv : Moves) (key : Nat) (m : Image) (die x y : Nat) (o : Nat × Nat) (h_s : State.ok s) :
    ∀ u, (State.restoreImage s mv key m die x y o) = some u → State.ok u.1 := by
  unfold State.restoreImage
  try extract_lets
  repeat' first
    | (with_reducible assumption)
    | (with_reducible apply State.recallImage_ok)
    | (with_reducible apply State.modCluster_ok)
    | (with_reducible apply State.setTeam_ok)
    | (with_reducible apply State.seatWaves_ok)
    | (with_reducible apply State.loadRuns_ok)
    | (with_reducible apply foldl_ok)
    | (with_reducible apply foldl_set_wf)
    | (refine some_ok_fst ?_)
    | (refine none_ok_fst)
    | (refine map_ok_fst ?_)
    | (refine bind_ok_fst ?_)
    | extract_lets
    | (split)
    | (with_reducible intro _)

theorem State.restoreImages_ok (s : State) (mv : Moves) (die x y : Nat) (o : Nat × Nat) (a0 : List (Nat × Image)) (h_s : State.ok s) :
    ∀ u, (State.restoreImages s mv die x y o a0) = some u → State.ok u.1 := by
  induction a0 generalizing s mv die x y o with
  | nil =>
    unfold State.restoreImages
    try extract_lets
    repeat' first
      | (with_reducible assumption)
      | (with_reducible refine State.restoreImage_ok _ _ _ _ _ _ _ _ ?_)
      | (with_reducible refine State.restoreImage_ok _ _ _ _ _ _ _ _ ?_ _ (by assumption))
      | (refine some_ok_fst ?_)
  | cons c_ l_ ih =>
    unfold State.restoreImages
    try extract_lets
    repeat' first
      | (with_reducible assumption)
      | (refine ih _ _ _ _ _ _ ?_)
      | (refine ih _ _ _ _ _ _ ?_ _ (by assumption))
      | (with_reducible refine State.restoreImage_ok _ _ _ _ _ _ _ _ ?_)
      | (with_reducible refine State.restoreImage_ok _ _ _ _ _ _ _ _ ?_ _ (by assumption))
      | (refine some_ok_fst ?_)
      | (refine none_ok_fst)
      | (refine map_ok_fst ?_)
      | (refine bind_ok_fst ?_)
      | extract_lets
      | (split)
      | (with_reducible intro _)

theorem State.restoreChain_ok (s : State) (mv : Moves) (m : Image) (h_s : State.ok s) :
    ∀ u, (State.restoreChain s mv m) = some u → State.ok u := by
  unfold State.restoreChain
  try extract_lets
  repeat' first
    | (with_reducible assumption)
    | (with_reducible apply State.recallImage_ok)
    | (with_reducible apply State.modCluster_ok)
    | (with_reducible apply State.setTeam_ok)
    | (with_reducible apply State.seatWaves_ok)
    | (with_reducible apply State.loadRuns_ok)
    | (refine some_ok ?_)
    | (refine none_ok)
    | (refine map_ok ?_)
    | (refine bind_ok ?_)
    | extract_lets
    | (split)

theorem State.restoreChains_ok (s : State) (mv : Moves) (a0 : List (Nat × Image)) (h_s : State.ok s) :
    ∀ u, (State.restoreChains s mv a0) = some u → State.ok u := by
  induction a0 generalizing s mv with
  | nil =>
    unfold State.restoreChains
    try extract_lets
    repeat' first
      | (with_reducible assumption)
      | (with_reducible refine State.restoreChain_ok _ _ _ ?_)
      | (with_reducible refine State.restoreChain_ok _ _ _ ?_ _ (by assumption))
      | (refine some_ok ?_)
  | cons c_ l_ ih =>
    unfold State.restoreChains
    try extract_lets
    repeat' first
      | (with_reducible assumption)
      | (refine ih _ _ ?_)
      | (refine ih _ _ ?_ _ (by assumption))
      | (with_reducible refine State.restoreChain_ok _ _ _ ?_)
      | (with_reducible refine State.restoreChain_ok _ _ _ ?_ _ (by assumption))
      | (refine some_ok ?_)
      | (refine none_ok)
      | (refine map_ok ?_)
      | (refine bind_ok ?_)
      | extract_lets
      | (split)
      | (with_reducible intro _)

theorem State.relinkChains_ok (s : State) (mv : Moves) (h_s : State.ok s) :
    State.ok (State.relinkChains s mv) := by
  unfold State.relinkChains
  try extract_lets
  repeat' first
    | (with_reducible assumption)
    | (with_reducible apply State.wave_ok)
    | extract_lets
    | (with_reducible intro _)
    | (split)
    | (with_reducible apply State.ok_mk)
    | (with_reducible apply State.ok_mem)
    | (with_reducible apply State.ok_scm)
    | (with_reducible apply State.ok_versions)
    | (with_reducible apply State.ok_regs)

theorem State.restorePart_ok (s : State) (ctx part die x y : Nat) (h_s : State.ok s) :
    ∀ u, (State.restorePart s ctx part die x y) = some u → State.ok u := by
  unfold State.restorePart
  try extract_lets
  repeat' first
    | (with_reducible assumption)
    | (with_reducible refine State.restoreImages_ok _ _ _ _ _ _ _ ?_)
    | (with_reducible refine State.restoreImages_ok _ _ _ _ _ _ _ ?_ _ (by assumption))
    | (with_reducible refine State.restoreChains_ok _ _ _ ?_)
    | (with_reducible refine State.restoreChains_ok _ _ _ ?_ _ (by assumption))
    | (with_reducible apply State.forgetPages_ok)
    | (with_reducible apply foldState_ok)
    | (with_reducible apply State.modWave_ok)
    | (with_reducible apply State.relinkChains_ok)
    | (with_reducible apply State.restartWave_ok)
    | (with_reducible apply State.retest_ok)
    | (with_reducible apply State.retryOwned_ok)
    | (with_reducible apply State.reschedule_ok)
    | (with_reducible apply filter_wf)
    | (refine some_ok ?_)
    | (refine none_ok)
    | (refine map_ok ?_)
    | (refine bind_ok ?_)
    | extract_lets
    | (split)
    | (with_reducible intro _)
    | (split)
    | ((conv => arg 1; with_reducible whnf); split)
    | ((conv => arg 1; arg 1; with_reducible whnf); split)
    | ((conv => arg 1; with_reducible whnf); clear_value *; split)
    | ((conv => arg 1; arg 1; with_reducible whnf); clear_value *; split)
    | (clear_value *; split)
    | ((conv => arg 1; with_reducible whnf); with_reducible apply State.ok_mk)
    | (with_reducible apply State.ok_mk)
    | (with_reducible apply State.ok_mem)
    | (with_reducible apply State.ok_scm)
    | (with_reducible apply State.ok_versions)
    | (with_reducible apply State.ok_regs)

theorem execCtxEnable_ok (ctx : Nat) (s : State) (h_s : State.ok s) :
    keeps (execCtxEnable ctx s) := by
  unfold execCtxEnable
  try extract_lets
  repeat' first
    | (with_reducible assumption)
    | (with_reducible apply Did.state_ok)
    | (with_reducible apply State.physRead_ok)
    | (with_reducible apply State.setError_ok)
    | (with_reducible apply settleEvent_ok)
    | (with_reducible apply State.setContext_ok)
    | (with_reducible apply State.unring_ok)
    | (with_reducible apply Did.ok_done)
    | (with_reducible apply Did.ok_goto)
    | (with_reducible apply Did.ok_trap)
    | (with_reducible apply Did.ok_wait)
    | (with_reducible apply Did.ok_park)
    | (with_reducible apply Did.ok_left)
    | (with_reducible apply keeps_next)
    | (with_reducible apply keeps_fault)
    | (with_reducible apply keeps_refused)
    | extract_lets
    | (with_reducible intro _)
    | (split)

theorem execCtxDisable_ok (ctx : Nat) (s : State) (h_s : State.ok s) :
    keeps (execCtxDisable ctx s) := by
  unfold execCtxDisable
  try extract_lets
  repeat' first
    | (with_reducible assumption)
    | (with_reducible apply Did.state_ok)
    | (with_reducible apply State.setContext_ok)
    | (with_reducible apply Did.ok_done)
    | (with_reducible apply Did.ok_goto)
    | (with_reducible apply Did.ok_trap)
    | (with_reducible apply Did.ok_wait)
    | (with_reducible apply Did.ok_park)
    | (with_reducible apply Did.ok_left)
    | (with_reducible apply keeps_next)
    | (with_reducible apply keeps_fault)
    | (with_reducible apply keeps_refused)
    | extract_lets
    | (with_reducible intro _)
    | (split)

theorem execCtxPreempt_ok (ctx : Nat) (s : State) (h_s : State.ok s) :
    keeps (execCtxPreempt ctx s) := by
  unfold execCtxPreempt
  try extract_lets
  repeat' first
    | (with_reducible assumption)
    | (with_reducible apply Did.state_ok)
    | (with_reducible apply State.startPreempt_ok)
    | (with_reducible apply Did.ok_done)
    | (with_reducible apply Did.ok_goto)
    | (with_reducible apply Did.ok_trap)
    | (with_reducible apply Did.ok_wait)
    | (with_reducible apply Did.ok_park)
    | (with_reducible apply Did.ok_left)
    | (with_reducible apply keeps_next)
    | (with_reducible apply keeps_fault)
    | (with_reducible apply keeps_refused)
    | extract_lets
    | (with_reducible intro _)
    | (split)

theorem execCtxResume_ok (ctx : Nat) (s : State) (h_s : State.ok s) :
    keeps (execCtxResume ctx s) := by
  unfold execCtxResume
  try extract_lets
  repeat' first
    | (with_reducible assumption)
    | (with_reducible apply Did.state_ok)
    | (with_reducible apply foldState_ok)
    | (with_reducible apply State.distributable_ok)
    | (with_reducible apply State.setContext_ok)
    | (with_reducible apply settleEvent_ok)
    | (with_reducible apply State.settleScan_ok)
    | (with_reducible apply State.reschedule_ok)
    | (with_reducible apply Did.ok_done)
    | (with_reducible apply Did.ok_goto)
    | (with_reducible apply Did.ok_trap)
    | (with_reducible apply Did.ok_wait)
    | (with_reducible apply Did.ok_park)
    | (with_reducible apply Did.ok_left)
    | (with_reducible apply keeps_next)
    | (with_reducible apply keeps_fault)
    | (with_reducible apply keeps_refused)
    | (with_reducible apply filter_wf)
    | extract_lets
    | (with_reducible intro _)
    | (split)
    | ((conv => arg 1; with_reducible whnf); split)
    | ((conv => arg 1; arg 1; with_reducible whnf); split)
    | ((conv => arg 1; with_reducible whnf); clear_value *; split)
    | ((conv => arg 1; arg 1; with_reducible whnf); clear_value *; split)
    | (clear_value *; split)
    | ((conv => arg 1; with_reducible whnf); with_reducible apply State.ok_mk)
    | (with_reducible apply State.ok_mk)
    | (with_reducible apply State.ok_mem)
    | (with_reducible apply State.ok_scm)
    | (with_reducible apply State.ok_versions)
    | (with_reducible apply State.ok_regs)

theorem execCtxReset_ok (ctx : Nat) (s : State) (h_s : State.ok s) :
    keeps (execCtxReset ctx s) := by
  unfold execCtxReset
  try extract_lets
  repeat' first
    | (with_reducible assumption)
    | (with_reducible apply Did.state_ok)
    | (with_reducible apply settleEvent_ok)
    | (with_reducible apply State.resetContext_ok)
    | (with_reducible apply Did.ok_done)
    | (with_reducible apply Did.ok_goto)
    | (with_reducible apply Did.ok_trap)
    | (with_reducible apply Did.ok_wait)
    | (with_reducible apply Did.ok_park)
    | (with_reducible apply Did.ok_left)
    | (with_reducible apply keeps_next)
    | (with_reducible apply keeps_fault)
    | (with_reducible apply keeps_refused)
    | extract_lets
    | (with_reducible intro _)
    | (split)

/-! ### Distribute -/

theorem execPartRestore_ok (ctx part die x y : Nat) (s : State) (h_s : State.ok s) :
    keeps (execPartRestore ctx part die x y s) := by
  unfold execPartRestore
  try extract_lets
  repeat' first
    | (with_reducible assumption)
    | (with_reducible apply Did.state_ok)
    | (with_reducible apply settleEvent_ok)
    | (with_reducible apply State.setError_ok)
    | (with_reducible apply State.resetContext_ok)
    | (with_reducible refine State.restorePart_ok _ _ _ _ _ _ ?_)
    | (with_reducible refine State.restorePart_ok _ _ _ _ _ _ ?_ _ (by assumption))
    | (with_reducible apply Did.ok_done)
    | (with_reducible apply Did.ok_goto)
    | (with_reducible apply Did.ok_trap)
    | (with_reducible apply Did.ok_wait)
    | (with_reducible apply Did.ok_park)
    | (with_reducible apply Did.ok_left)
    | (with_reducible apply keeps_next)
    | (with_reducible apply keeps_fault)
    | (with_reducible apply keeps_refused)
    | extract_lets
    | (with_reducible intro _)
    | (split)

theorem execDistribute_ok (clus : Nat) (affinity : List Nat) (s : State) (h_s : State.ok s) :
    keeps (execDistribute clus affinity s) := by
  unfold execDistribute
  try extract_lets
  repeat' first
    | (with_reducible assumption)
    | (with_reducible apply State.sendTo_ok)
    | (with_reducible apply Did.ok_done)
    | (with_reducible apply Did.ok_goto)
    | (with_reducible apply Did.ok_trap)
    | (with_reducible apply Did.ok_wait)
    | (with_reducible apply Did.ok_park)
    | (with_reducible apply Did.ok_left)
    | (with_reducible apply keeps_next)
    | (with_reducible apply keeps_fault)
    | (with_reducible apply keeps_refused)
    | (with_reducible apply filter_wf)
    | extract_lets
    | (with_reducible intro _)
    | ((conv => arg 1; with_reducible whnf); first | (with_reducible apply State.sendTo_ok) | (with_reducible apply Did.ok_done) | (with_reducible apply Did.ok_goto) | (with_reducible apply Did.ok_trap) | (with_reducible apply Did.ok_wait) | (with_reducible apply Did.ok_park) | (with_reducible apply Did.ok_left) | (with_reducible apply keeps_next) | (with_reducible apply keeps_fault) | (with_reducible apply keeps_refused))
    | (split)

end Sys2Proof.Machine
end

