-- ==== Sys2Proof/Laws/KeepPackage.lean ====
section
/-! SUPPORT. The canonical form of both memories is kept by captures, the platform and the system registers.
The lemma `f_ok` of a function f says so of f (log entry 3). -/

namespace Sys2Proof.Machine

/-! ### Capture -/

theorem execSnapCaptureStart_ok (value : BitVec 32) (s : State) (h_s : State.ok s) :
    keeps (execSnapCaptureStart value s) := by
  unfold execSnapCaptureStart
  try extract_lets
  repeat' first
    | (with_reducible assumption)
    | (with_reducible apply settleEvent_ok)
    | (with_reducible apply State.snapWrite_ok)
    | (with_reducible apply Did.ok_done)
    | (with_reducible apply Did.ok_goto)
    | (with_reducible apply Did.ok_trap)
    | (with_reducible apply Did.ok_wait)
    | (with_reducible apply Did.ok_park)
    | (with_reducible apply Did.ok_left)
    | (with_reducible apply keeps_next)

theorem State.settleCapture_ok (s : State) (h_s : State.ok s) :
    State.ok (State.settleCapture s) := by
  unfold State.settleCapture
  try extract_lets
  repeat' first
    | (with_reducible assumption)
    | (with_reducible apply Did.state_ok)
    | extract_lets
    | (with_reducible intro _)
    | (split)
    | ((conv => arg 1; with_reducible whnf); split)
    | ((conv => arg 1; arg 1; with_reducible whnf); split)
    | ((conv => arg 1; with_reducible whnf); clear_value *; split)
    | ((conv => arg 1; arg 1; with_reducible whnf); clear_value *; split)
    | (clear_value *; split)
    | ((conv => arg 1; with_reducible whnf); with_reducible apply State.ok_mk)
    | (with_reducible apply State.ok_mk)
    | (with_reducible apply State.ok_mem)
    | (with_reducible apply State.ok_scm)
    | (with_reducible apply State.ok_versions)
    | (with_reducible apply State.ok_regs)

theorem execCutClose_ok (s : State) (h_s : State.ok s) :
    keeps (execCutClose s) := by
  unfold execCutClose
  try extract_lets
  repeat' first
    | (with_reducible assumption)
    | (with_reducible apply Did.state_ok)
    | (with_reducible apply State.failCapture_ok)
    | (with_reducible apply State.settleCapture_ok)
    | (with_reducible apply Did.ok_done)
    | (with_reducible apply Did.ok_goto)
    | (with_reducible apply Did.ok_trap)
    | (with_reducible apply Did.ok_wait)
    | (with_reducible apply Did.ok_park)
    | (with_reducible apply Did.ok_left)
    | (with_reducible apply keeps_next)
    | (with_reducible apply keeps_fault)
    | (with_reducible apply keeps_refused)
    | extract_lets
    | (with_reducible intro _)
    | (split)
    | ((conv => arg 1; with_reducible whnf); split)
    | ((conv => arg 1; arg 1; with_reducible whnf); split)
    | ((conv => arg 1; with_reducible whnf); clear_value *; split)
    | ((conv => arg 1; arg 1; with_reducible whnf); clear_value *; split)
    | (clear_value *; split)
    | ((conv => arg 1; with_reducible whnf); with_reducible apply State.ok_mk)
    | (with_reducible apply State.ok_mk)
    | (with_reducible apply State.ok_mem)
    | (with_reducible apply State.ok_scm)
    | (with_reducible apply State.ok_versions)
    | (with_reducible apply State.ok_regs)

theorem execTileCapture_ok (s : State) (h_s : State.ok s) :
    keeps (execTileCapture s) := by
  unfold execTileCapture
  try extract_lets
  repeat' first
    | (with_reducible assumption)
    | (with_reducible apply Did.state_ok)
    | (with_reducible apply State.failCapture_ok)
    | (with_reducible apply State.settleCapture_ok)
    | (with_reducible apply Did.ok_done)
    | (with_reducible apply Did.ok_goto)
    | (with_reducible apply Did.ok_trap)
    | (with_reducible apply Did.ok_wait)
    | (with_reducible apply Did.ok_park)
    | (with_reducible apply Did.ok_left)
    | (with_reducible apply keeps_next)
    | (with_reducible apply keeps_fault)
    | (with_reducible apply keeps_refused)
    | extract_lets
    | (with_reducible intro _)
    | (split)
    | (with_reducible apply State.ok_mk)
    | (with_reducible apply State.ok_mem)
    | (with_reducible apply State.ok_scm)
    | (with_reducible apply State.ok_versions)
    | (with_reducible apply State.ok_regs)

theorem execCowCopy_ok (tile : Nat) (s : State) (h_s : State.ok s) :
    keeps (execCowCopy tile s) := by
  unfold execCowCopy
  try extract_lets
  repeat' first
    | (with_reducible assumption)
    | (with_reducible apply Did.state_ok)
    | (with_reducible apply State.failCapture_ok)
    | (with_reducible apply State.storeRun_ok)
    | (with_reducible apply settleEvent_ok)
    | (with_reducible apply Did.ok_done)
    | (with_reducible apply Did.ok_goto)
    | (with_reducible apply Did.ok_trap)
    | (with_reducible apply Did.ok_wait)
    | (with_reducible apply Did.ok_park)
    | (with_reducible apply Did.ok_left)
    | (with_reducible apply keeps_next)
    | (with_reducible apply keeps_fault)
    | (with_reducible apply keeps_refused)
    | (with_reducible apply filter_wf)
    | extract_lets
    | (with_reducible intro _)
    | (split)
    | ((conv => arg 1; with_reducible whnf); split)
    | ((conv => arg 1; arg 1; with_reducible whnf); split)
    | ((conv => arg 1; with_reducible whnf); clear_value *; split)
    | ((conv => arg 1; arg 1; with_reducible whnf); clear_value *; split)
    | (clear_value *; split)
    | ((conv => arg 1; with_reducible whnf); with_reducible apply State.ok_mk)
    | (with_reducible apply State.ok_mk)
    | (with_reducible apply State.ok_mem)
    | (with_reducible apply State.ok_scm)
    | (with_reducible apply State.ok_versions)
    | (with_reducible apply State.ok_regs)

theorem execStagedTileWrite_ok (s : State) (h_s : State.ok s) :
    keeps (execStagedTileWrite s) := by
  unfold execStagedTileWrite
  try extract_lets
  repeat' first
    | (with_reducible assumption)
    | (with_reducible apply Did.state_ok)
    | (with_reducible apply State.failCapture_ok)
    | (with_reducible apply State.settleCapture_ok)
    | (with_reducible apply Did.ok_done)
    | (with_reducible apply Did.ok_goto)
    | (with_reducible apply Did.ok_trap)
    | (with_reducible apply Did.ok_wait)
    | (with_reducible apply Did.ok_park)
    | (with_reducible apply Did.ok_left)
    | (with_reducible apply keeps_next)
    | (with_reducible apply keeps_fault)
    | (with_reducible apply keeps_refused)
    | extract_lets
    | (with_reducible intro _)
    | (split)
    | (with_reducible apply State.ok_mk)
    | (with_reducible apply State.ok_mem)
    | (with_reducible apply State.ok_scm)
    | (with_reducible apply State.ok_versions)
    | (with_reducible apply State.ok_regs)

theorem execShardsDurable_ok (peerShards : List (List (BitVec 8))) (s : State) (h_s : State.ok s) :
    keeps (execShardsDurable peerShards s) := by
  unfold execShardsDurable
  try extract_lets
  repeat' first
    | (with_reducible assumption)
    | (with_reducible apply Did.state_ok)
    | (with_reducible apply State.failCapture_ok)
    | (with_reducible apply foldState_ok)
    | (with_reducible apply State.durable_ok)
    | (with_reducible apply settleEvent_ok)
    | (with_reducible apply Did.ok_done)
    | (with_reducible apply Did.ok_goto)
    | (with_reducible apply Did.ok_trap)
    | (with_reducible apply Did.ok_wait)
    | (with_reducible apply Did.ok_park)
    | (with_reducible apply Did.ok_left)
    | (with_reducible apply keeps_next)
    | (with_reducible apply keeps_fault)
    | (with_reducible apply keeps_refused)
    | extract_lets
    | (with_reducible intro _)
    | (split)
    | ((conv => arg 1; with_reducible whnf); split)
    | ((conv => arg 1; arg 1; with_reducible whnf); split)
    | ((conv => arg 1; with_reducible whnf); clear_value *; split)
    | ((conv => arg 1; arg 1; with_reducible whnf); clear_value *; split)
    | (clear_value *; split)
    | ((conv => arg 1; with_reducible whnf); with_reducible apply State.ok_mk)
    | (with_reducible apply State.ok_mk)
    | (with_reducible apply State.ok_mem)
    | (with_reducible apply State.ok_scm)
    | (with_reducible apply State.ok_versions)
    | (with_reducible apply State.ok_regs)

theorem State.failStep_ok (s : State) (h_s : State.ok s) :
    State.ok (State.failStep s) := by
  unfold State.failStep
  try extract_lets
  repeat' first
    | (with_reducible assumption)
    | extract_lets
    | (with_reducible intro _)
    | (split)
    | (with_reducible apply State.ok_mk)
    | (with_reducible apply State.ok_mem)
    | (with_reducible apply State.ok_scm)
    | (with_reducible apply State.ok_versions)
    | (with_reducible apply State.ok_regs)

theorem State.actStep_ok (s : State) (h_s : State.ok s) :
    State.ok (State.actStep s) := by
  unfold State.actStep
  try extract_lets
  repeat' first
    | (with_reducible assumption)
    | extract_lets
    | (with_reducible intro _)
    | (split)
    | (with_reducible apply State.ok_mk)
    | (with_reducible apply State.ok_mem)
    | (with_reducible apply State.ok_scm)
    | (with_reducible apply State.ok_versions)
    | (with_reducible apply State.ok_regs)

theorem State.recoveryStep_ok (s : State) (step : Nat) (ok : State → Bool) (act : State → State) (h_s : State.ok s) (h_act : ∀ (act_0 : State), State.ok act_0 → State.ok (act act_0)) :
    State.ok (State.recoveryStep s step ok act) := by
  unfold State.recoveryStep
  try extract_lets
  repeat' first
    | (with_reducible assumption)
    | (with_reducible apply h_act)
    | (with_reducible apply State.failStep_ok)
    | (with_reducible apply State.actStep_ok)
    | extract_lets
    | (with_reducible intro _)
    | (split)

theorem State.setPeers_ok (s : State) (es : List Nat) (state pkg : Nat) (h_s : State.ok s) :
    State.ok (State.setPeers s es state pkg) := by
  unfold State.setPeers
  try extract_lets
  repeat' first
    | (with_reducible assumption)
    | (with_reducible apply foldState_ok)
    | (with_reducible apply State.setPeer_ok)
    | (with_reducible apply Did.state_ok)
    | extract_lets
    | (with_reducible intro _)

theorem execRecoverFence_ok (s : State) (h_s : State.ok s) :
    keeps (execRecoverFence s) := by
  unfold execRecoverFence
  try extract_lets
  repeat' first
    | (with_reducible assumption)
    | (with_reducible apply State.recoveryStep_ok)
    | (with_reducible apply State.setPeers_ok)
    | (with_reducible apply State.checkStripe_ok)
    | (with_reducible apply Did.ok_done)
    | (with_reducible apply Did.ok_goto)
    | (with_reducible apply Did.ok_trap)
    | (with_reducible apply Did.ok_wait)
    | (with_reducible apply Did.ok_park)
    | (with_reducible apply Did.ok_left)
    | (with_reducible apply keeps_next)
    | (with_reducible apply keeps_fault)
    | (with_reducible apply keeps_refused)
    | extract_lets
    | (with_reducible intro _)

theorem execRecoverElect_ok (s : State) (h_s : State.ok s) :
    keeps (execRecoverElect s) := by
  exact keeps_next (State.recoveryStep_ok _ _ _ _ h_s fun _ h => h)

theorem execRecoverRebuild_ok (ok : Bool) (s : State) (h_s : State.ok s) :
    keeps (execRecoverRebuild ok s) := by
  exact keeps_next (State.recoveryStep_ok _ _ _ _ h_s fun _ h => h)

theorem execRecoverRemap_ok (s : State) (h_s : State.ok s) :
    keeps (execRecoverRemap s) := by
  unfold execRecoverRemap
  try extract_lets
  repeat' first
    | (with_reducible assumption)
    | (with_reducible apply State.recoveryStep_ok)
    | (with_reducible apply State.setPeers_ok)
    | (with_reducible apply Did.ok_done)
    | (with_reducible apply Did.ok_goto)
    | (with_reducible apply Did.ok_trap)
    | (with_reducible apply Did.ok_wait)
    | (with_reducible apply Did.ok_park)
    | (with_reducible apply Did.ok_left)
    | (with_reducible apply keeps_next)
    | (with_reducible apply keeps_fault)
    | (with_reducible apply keeps_refused)
    | extract_lets
    | (with_reducible intro _)

theorem State.slotRead_ok (s : State) (x : SlotInfo) (a n : Nat) (h_s : State.ok s) :
    State.ok ((State.slotRead s x a n)).1 := by
  unfold State.slotRead
  try extract_lets
  repeat' first
    | (with_reducible assumption)
    | (with_reducible apply foldState_ok)
    | (with_reducible apply State.readRange_ok)
    | extract_lets
    | (with_reducible intro _)
    | (split)

theorem State.restoreTile_ok (s : State) (x : SlotInfo) (count k : Nat) (h_s : State.ok s) :
    State.ok (State.restoreTile s x count k) := by
  unfold State.restoreTile
  try extract_lets
  repeat' first
    | (with_reducible assumption)
    | (with_reducible apply State.slotRead_ok)
    | (with_reducible apply State.storeRun_ok)
    | extract_lets
    | (with_reducible intro _)
    | (split)

theorem State.restoreTiles_ok (s : State) (x : SlotInfo) (h_s : State.ok s) :
    State.ok (State.restoreTiles s x) := by
  unfold State.restoreTiles
  try extract_lets
  repeat' first
    | (with_reducible assumption)
    | (with_reducible apply State.slotRead_ok)
    | (with_reducible apply foldState_ok)
    | (with_reducible apply State.restoreTile_ok)
    | extract_lets
    | (with_reducible intro _)
    | (split)

theorem execRecoverResume_ok (s : State) (h_s : State.ok s) :
    keeps (execRecoverResume s) := by
  unfold execRecoverResume
  try extract_lets
  repeat' first
    | (with_reducible assumption)
    | (with_reducible apply settleEvent_ok)
    | (with_reducible apply State.recoveryStep_ok)
    | (with_reducible apply State.restoreTiles_ok)
    | (with_reducible apply Did.ok_done)
    | (with_reducible apply Did.ok_goto)
    | (with_reducible apply Did.ok_trap)
    | (with_reducible apply Did.ok_wait)
    | (with_reducible apply Did.ok_park)
    | (with_reducible apply Did.ok_left)
    | (with_reducible apply keeps_next)
    | (with_reducible apply keeps_fault)
    | (with_reducible apply keeps_refused)
    | extract_lets
    | (with_reducible intro _)
    | (split)

theorem execRecoverStepDone_ok (s : State) (h_s : State.ok s) :
    keeps (execRecoverStepDone s) := by
  unfold execRecoverStepDone
  try extract_lets
  repeat' first
    | (with_reducible assumption)
    | (with_reducible apply Did.ok_done)
    | (with_reducible apply Did.ok_goto)
    | (with_reducible apply Did.ok_trap)
    | (with_reducible apply Did.ok_wait)
    | (with_reducible apply Did.ok_park)
    | (with_reducible apply Did.ok_left)
    | (with_reducible apply keeps_next)
    | (with_reducible apply keeps_fault)
    | (with_reducible apply keeps_refused)
    | extract_lets
    | (with_reducible intro _)
    | (split)
    | ((conv => arg 1; with_reducible whnf); split)
    | ((conv => arg 1; arg 1; with_reducible whnf); split)
    | ((conv => arg 1; with_reducible whnf); clear_value *; split)
    | ((conv => arg 1; arg 1; with_reducible whnf); clear_value *; split)
    | (clear_value *; split)
    | ((conv => arg 1; with_reducible whnf); with_reducible apply State.ok_mk)
    | (with_reducible apply State.ok_mk)
    | (with_reducible apply State.ok_mem)
    | (with_reducible apply State.ok_scm)
    | (with_reducible apply State.ok_versions)
    | (with_reducible apply State.ok_regs)

/-! ### Platform -/

theorem Regfile.legal_iff {r : Regfile} : r.legal = true ↔ 500 ≤ r.pceil ∧ r.pceil ≤ 2200 ∧ r.req < 8 ∧ r.permit < 8 ∧ r.cur < 8 ∧ r.target < 8 := by
  unfold Regfile.legal; exact decide_eq_true_iff

theorem legal_target {r : Regfile} {b : Bool} (h : r.legal = true) : ({ r with target := max r.req r.permit, trans := b } : Regfile).legal = true := by
  rw [Regfile.legal_iff] at *; exact ⟨h.1, h.2.1, h.2.2.1, h.2.2.2.1, h.2.2.2.2.1, by show max _ _ < 8; omega⟩

theorem legal_pceil {r : Regfile} {w : Nat} (h : r.legal = true) (hw : ¬(w < 500 ∨ 2200 < w)) : ({ r with pceil := w } : Regfile).legal = true := by
  rw [Regfile.legal_iff] at *; exact ⟨by show 500 ≤ w; omega, by show w ≤ 2200; omega, h.2.2⟩

theorem legal_req {r : Regfile} {n : Nat} (h : r.legal = true) (hn : n < 8) : ({ r with req := n } : Regfile).legal = true := by
  rw [Regfile.legal_iff] at *; exact ⟨h.1, h.2.1, hn, h.2.2.2⟩

theorem legal_cur {r : Regfile} (h : r.legal = true) : ({ r with cur := r.target, trans := false } : Regfile).legal = true := by
  rw [Regfile.legal_iff] at *; exact ⟨h.1, h.2.1, h.2.2.1, h.2.2.2.1, h.2.2.2.2.2, h.2.2.2.2.2⟩

theorem legal_govern {r : Regfile} {m p f : Nat} (h : r.legal = true) : (r.govern m p f).legal = true := by
  rw [Regfile.legal_iff] at *
  unfold Regfile.govern
  extract_lets ceiling sum full r1
  have h1 : 500 ≤ r1.pceil ∧ r1.pceil ≤ 2200 ∧ r1.req < 8 ∧ r1.permit < 8 ∧ r1.cur < 8 ∧ r1.target < 8 := h
  clear_value r1
  split
  · exact ⟨h1.1, h1.2.1, h1.2.2.1, by show min 7 _ < 8; omega, h1.2.2.2.2⟩
  · split
    · exact ⟨h1.1, h1.2.1, h1.2.2.1, by show r.permit - 1 < 8; omega, h1.2.2.2.2⟩
    · exact h1

theorem legal_write8 {r : Regfile} {off v : Nat} (h : r.legal = true) : (r.write8 off v).legal = true := by
  unfold Regfile.write8
  split <;> exact h

theorem State.postInval_ok (s : State) (k : InvalKind) (h_s : State.ok s) :
    State.ok (State.postInval s k) := by
  unfold State.postInval
  try extract_lets
  repeat' first
    | (with_reducible assumption)
    | extract_lets
    | (with_reducible intro _)
    | (split)
    | (with_reducible apply State.ok_mk)
    | (with_reducible apply State.ok_mem)
    | (with_reducible apply State.ok_scm)
    | (with_reducible apply State.ok_versions)
    | (with_reducible apply State.ok_regs)

theorem execInvalPage_ok (ctx va : Nat) (s : State) (h_s : State.ok s) :
    keeps (execInvalPage ctx va s) := by
  unfold execInvalPage
  try extract_lets
  repeat' first
    | (with_reducible assumption)
    | (with_reducible apply State.postInval_ok)
    | (with_reducible apply Did.ok_done)
    | (with_reducible apply Did.ok_goto)
    | (with_reducible apply Did.ok_trap)
    | (with_reducible apply Did.ok_wait)
    | (with_reducible apply Did.ok_park)
    | (with_reducible apply Did.ok_left)
    | (with_reducible apply keeps_next)
    | (with_reducible apply keeps_fault)
    | (with_reducible apply keeps_refused)
    | extract_lets
    | (with_reducible intro _)
    | (split)

theorem execInvalContext_ok (ctx : Nat) (s : State) (h_s : State.ok s) :
    keeps (execInvalContext ctx s) := by
  unfold execInvalContext
  try extract_lets
  repeat' first
    | (with_reducible assumption)
    | (with_reducible apply State.postInval_ok)
    | (with_reducible apply Did.ok_done)
    | (with_reducible apply Did.ok_goto)
    | (with_reducible apply Did.ok_trap)
    | (with_reducible apply Did.ok_wait)
    | (with_reducible apply Did.ok_park)
    | (with_reducible apply Did.ok_left)
    | (with_reducible apply keeps_next)
    | (with_reducible apply keeps_fault)
    | (with_reducible apply keeps_refused)
    | extract_lets
    | (with_reducible intro _)
    | (split)

theorem execInvalAll_ok (s : State) (h_s : State.ok s) :
    keeps (execInvalAll s) := by
  unfold execInvalAll
  try extract_lets
  repeat' first
    | (with_reducible assumption)
    | (with_reducible apply State.postInval_ok)
    | (with_reducible apply Did.ok_done)
    | (with_reducible apply Did.ok_goto)
    | (with_reducible apply Did.ok_trap)
    | (with_reducible apply Did.ok_wait)
    | (with_reducible apply Did.ok_park)
    | (with_reducible apply Did.ok_left)
    | (with_reducible apply keeps_next)

theorem execInvalidationPerformed_ok (s : State) (h_s : State.ok s) :
    keeps (execInvalidationPerformed s) := by
  unfold execInvalidationPerformed
  try extract_lets
  repeat' first
    | (with_reducible assumption)
    | (with_reducible apply Did.ok_done)
    | (with_reducible apply Did.ok_goto)
    | (with_reducible apply Did.ok_trap)
    | (with_reducible apply Did.ok_wait)
    | (with_reducible apply Did.ok_park)
    | (with_reducible apply Did.ok_left)
    | (with_reducible apply keeps_next)
    | (with_reducible apply keeps_fault)
    | (with_reducible apply keeps_refused)
    | (with_reducible apply filter_wf)
    | extract_lets
    | (with_reducible intro _)
    | (split)
    | (with_reducible apply State.ok_mk)
    | (with_reducible apply State.ok_mem)
    | (with_reducible apply State.ok_scm)
    | (with_reducible apply State.ok_versions)
    | (with_reducible apply State.ok_regs)
    | (refine State.ok_regs_of (s := _) (by assumption) rfl)

theorem execParkRequest_ok (die : Nat) (s : State) (h_s : State.ok s) :
    keeps (execParkRequest die s) := by
  unfold execParkRequest
  try extract_lets
  repeat' first
    | (with_reducible assumption)
    | (with_reducible apply Did.refused_ok)
    | (with_reducible apply State.modDie_ok)
    | (with_reducible apply State.abort_ok)
    | (with_reducible apply State.withdraw_ok)
    | (with_reducible apply State.reschedule_ok)
    | (with_reducible apply Did.ok_done)
    | (with_reducible apply Did.ok_goto)
    | (with_reducible apply Did.ok_trap)
    | (with_reducible apply Did.ok_wait)
    | (with_reducible apply Did.ok_park)
    | (with_reducible apply Did.ok_left)
    | (with_reducible apply keeps_next)
    | (with_reducible apply keeps_fault)
    | (with_reducible apply keeps_refused)
    | extract_lets
    | (with_reducible intro _)
    | (split)

theorem State.unparkWrite_ok (s : State) (die : Nat) (h_s : State.ok s) :
    State.ok (State.unparkWrite s die) := by
  unfold State.unparkWrite
  try extract_lets
  repeat' first
    | (with_reducible assumption)
    | (with_reducible apply State.modDie_ok)
    | (with_reducible apply State.reschedule_ok)
    | (with_reducible apply Did.ok_done)
    | (with_reducible apply Did.ok_goto)
    | (with_reducible apply Did.ok_trap)
    | (with_reducible apply Did.ok_wait)
    | (with_reducible apply Did.ok_park)
    | (with_reducible apply Did.ok_left)
    | extract_lets
    | (with_reducible intro _)
    | (split)

theorem execParkCancel_ok (die : Nat) (s : State) (h_s : State.ok s) :
    keeps (execParkCancel die s) := by
  unfold execParkCancel
  try extract_lets
  repeat' first
    | (with_reducible assumption)
    | (with_reducible apply State.unparkWrite_ok)
    | (with_reducible apply Did.ok_done)
    | (with_reducible apply Did.ok_goto)
    | (with_reducible apply Did.ok_trap)
    | (with_reducible apply Did.ok_wait)
    | (with_reducible apply Did.ok_park)
    | (with_reducible apply Did.ok_left)
    | (with_reducible apply keeps_next)
    | (with_reducible apply keeps_fault)
    | (with_reducible apply keeps_refused)
    | extract_lets
    | (with_reducible intro _)
    | (split)

theorem execUnpark_ok (die : Nat) (s : State) (h_s : State.ok s) :
    keeps (execUnpark die s) := by
  unfold execUnpark
  try extract_lets
  repeat' first
    | (with_reducible assumption)
    | (with_reducible apply State.unparkWrite_ok)
    | (with_reducible apply Did.ok_done)
    | (with_reducible apply Did.ok_goto)
    | (with_reducible apply Did.ok_trap)
    | (with_reducible apply Did.ok_wait)
    | (with_reducible apply Did.ok_park)
    | (with_reducible apply Did.ok_left)
    | (with_reducible apply keeps_next)
    | (with_reducible apply keeps_fault)
    | (with_reducible apply keeps_refused)
    | extract_lets
    | (with_reducible intro _)
    | (split)

theorem State.clearDie_ok (s : State) (die : Nat) (h_s : State.ok s) :
    State.ok (State.clearDie s die) := by
  unfold State.clearDie
  try extract_lets
  repeat' first
    | (with_reducible assumption)
    | (with_reducible apply filter_wf)
    | extract_lets
    | (with_reducible intro _)
    | (split)
    | (with_reducible apply State.ok_mk)
    | (with_reducible apply State.ok_mem)
    | (with_reducible apply State.ok_scm)
    | (with_reducible apply State.ok_versions)
    | (with_reducible apply State.ok_regs)

theorem execDiePowerDown_ok (die : Nat) (s : State) (h_s : State.ok s) :
    keeps (execDiePowerDown die s) := by
  unfold execDiePowerDown
  try extract_lets
  repeat' first
    | (with_reducible assumption)
    | (with_reducible apply State.modDie_ok)
    | (with_reducible apply State.clearDie_ok)
    | (with_reducible apply Did.ok_done)
    | (with_reducible apply Did.ok_goto)
    | (with_reducible apply Did.ok_trap)
    | (with_reducible apply Did.ok_wait)
    | (with_reducible apply Did.ok_park)
    | (with_reducible apply Did.ok_left)
    | (with_reducible apply keeps_next)
    | (with_reducible apply keeps_fault)
    | (with_reducible apply keeps_refused)
    | extract_lets
    | (with_reducible intro _)
    | (split)

theorem execUnparkComplete_ok (die : Nat) (s : State) (h_s : State.ok s) :
    keeps (execUnparkComplete die s) := by
  unfold execUnparkComplete
  try extract_lets
  repeat' first
    | (with_reducible assumption)
    | (with_reducible apply State.clearDie_ok)
    | (with_reducible apply State.modDie_ok)
    | (with_reducible apply State.reschedule_ok)
    | (with_reducible apply Did.ok_done)
    | (with_reducible apply Did.ok_goto)
    | (with_reducible apply Did.ok_trap)
    | (with_reducible apply Did.ok_wait)
    | (with_reducible apply Did.ok_park)
    | (with_reducible apply Did.ok_left)
    | (with_reducible apply keeps_next)
    | (with_reducible apply keeps_fault)
    | (with_reducible apply keeps_refused)
    | extract_lets
    | (with_reducible intro _)
    | (split)

theorem State.retarget_ok (s : State) (h_s : State.ok s) :
    State.ok (State.retarget s) := by
  exact ⟨h_s.1, h_s.2.1, h_s.2.2.1, legal_target h_s.2.2.2⟩

theorem execPceilWrite_ok (value : BitVec 32) (s : State) (h_s : State.ok s) :
    keeps (execPceilWrite value s) := by
  unfold execPceilWrite
  extract_lets w
  refine keeps_next ?_
  split
  · exact h_s
  · exact ⟨h_s.1, h_s.2.1, h_s.2.2.1, legal_pceil h_s.2.2.2 ‹_›⟩

theorem execPstateWrite_ok (value : BitVec 32) (s : State) (h_s : State.ok s) :
    keeps (execPstateWrite value s) := by
  exact keeps_next (State.retarget_ok _ ⟨h_s.1, h_s.2.1, h_s.2.2.1, legal_req h_s.2.2.2 (Nat.mod_lt _ (by decide))⟩)

theorem execPstateTransitionDone_ok (s : State) (h_s : State.ok s) :
    keeps (execPstateTransitionDone s) := by
  unfold execPstateTransitionDone
  refine keeps_next ?_
  split
  · exact State.reschedule_ok _ (State.retarget_ok _ ⟨h_s.1, h_s.2.1, h_s.2.2.1, legal_cur h_s.2.2.2⟩)
  · exact h_s

theorem State.account_ok (s : State) (es : Assoc Nat) (h_s : State.ok s) :
    State.ok (State.account s es) := by
  unfold State.account
  try extract_lets
  repeat' first
    | (with_reducible assumption)
    | (with_reducible apply filter_wf)
    | extract_lets
    | (with_reducible intro _)
    | (split)
    | ((conv => arg 1; with_reducible whnf); split)
    | ((conv => arg 1; arg 1; with_reducible whnf); split)
    | ((conv => arg 1; with_reducible whnf); with_reducible apply State.ok_mk)
    | (with_reducible apply State.ok_mk)
    | (with_reducible apply State.ok_mem)
    | (with_reducible apply State.ok_scm)
    | (with_reducible apply State.ok_versions)
    | (with_reducible apply State.ok_regs)

theorem State.attribute_ok (s : State) (e : Nat) (h_s : State.ok s) :
    State.ok (State.attribute s e) := by
  unfold State.attribute
  try extract_lets
  repeat' first
    | (with_reducible assumption)
    | (with_reducible apply State.account_ok)
    | extract_lets
    | (with_reducible intro _)
    | (split)
    | ((conv => arg 1; with_reducible whnf); split)
    | ((conv => arg 1; arg 1; with_reducible whnf); split)
    | ((conv => arg 1; with_reducible whnf); clear_value *; split)
    | ((conv => arg 1; arg 1; with_reducible whnf); clear_value *; split)
    | (clear_value *; split)
    | ((conv => arg 1; with_reducible whnf); with_reducible apply State.ok_mk)
    | (with_reducible apply State.ok_mk)
    | (with_reducible apply State.ok_mem)
    | (with_reducible apply State.ok_scm)
    | (with_reducible apply State.ok_versions)
    | (with_reducible apply State.ok_regs)
    | (refine State.ok_regs_of (s := _) (by assumption) rfl)

theorem execPowerMeasure_ok (milliwatts projected faster : Nat) (s : State) (h_s : State.ok s) :
    keeps (execPowerMeasure milliwatts projected faster s) := by
  have h := State.attribute_ok _ milliwatts h_s
  exact keeps_next (State.retarget_ok _ ⟨h.1, h.2.1, h.2.2.1, legal_govern h.2.2.2⟩)

theorem execFeatacceptWrite_ok (value : BitVec 64) (s : State) (h_s : State.ok s) :
    keeps (execFeatacceptWrite value s) := by
  unfold execFeatacceptWrite
  try extract_lets
  repeat' first
    | (with_reducible assumption)
    | (with_reducible apply Did.ok_done)
    | (with_reducible apply Did.ok_goto)
    | (with_reducible apply Did.ok_trap)
    | (with_reducible apply Did.ok_wait)
    | (with_reducible apply Did.ok_park)
    | (with_reducible apply Did.ok_left)
    | (with_reducible apply keeps_next)
    | (with_reducible apply keeps_fault)
    | (with_reducible apply keeps_refused)
    | extract_lets
    | (with_reducible intro _)
    | (split)
    | (with_reducible apply State.ok_mk)
    | (with_reducible apply State.ok_mem)
    | (with_reducible apply State.ok_scm)
    | (with_reducible apply State.ok_versions)
    | (with_reducible apply State.ok_regs)
    | (refine State.ok_regs_of (s := _) (by assumption) rfl)

theorem execAttcmd_ok (value : BitVec 32) (s : State) (h_s : State.ok s) :
    keeps (execAttcmd value s) := by
  unfold execAttcmd
  try extract_lets
  repeat' first
    | (with_reducible assumption)
    | (with_reducible apply Did.ok_done)
    | (with_reducible apply Did.ok_goto)
    | (with_reducible apply Did.ok_trap)
    | (with_reducible apply Did.ok_wait)
    | (with_reducible apply Did.ok_park)
    | (with_reducible apply Did.ok_left)
    | (with_reducible apply keeps_next)
    | (with_reducible apply keeps_fault)
    | (with_reducible apply keeps_refused)
    | extract_lets
    | (with_reducible intro _)
    | (split)
    | (with_reducible apply State.ok_mk)
    | (with_reducible apply State.ok_mem)
    | (with_reducible apply State.ok_scm)
    | (with_reducible apply State.ok_versions)
    | (with_reducible apply State.ok_regs)
    | (refine State.ok_regs_of (s := _) (by assumption) rfl)

theorem execQuoteComplete_ok (s : State) (h_s : State.ok s) :
    keeps (execQuoteComplete s) := by
  unfold execQuoteComplete
  try extract_lets
  repeat' first
    | (with_reducible assumption)
    | (with_reducible apply Did.ok_done)
    | (with_reducible apply Did.ok_goto)
    | (with_reducible apply Did.ok_trap)
    | (with_reducible apply Did.ok_wait)
    | (with_reducible apply Did.ok_park)
    | (with_reducible apply Did.ok_left)
    | (with_reducible apply keeps_next)
    | (with_reducible apply keeps_fault)
    | (with_reducible apply keeps_refused)
    | extract_lets
    | (with_reducible intro _)
    | (split)
    | (with_reducible apply State.ok_mk)
    | (with_reducible apply State.ok_mem)
    | (with_reducible apply State.ok_scm)
    | (with_reducible apply State.ok_versions)
    | (with_reducible apply State.ok_regs)
    | (refine State.ok_regs_of (s := _) (by assumption) rfl)

theorem State.exposeFrames_ok (s : State) (die : Nat) (h_s : State.ok s) :
    State.ok (State.exposeFrames s die) := by
  unfold State.exposeFrames
  try extract_lets
  repeat' first
    | (with_reducible assumption)
    | (with_reducible apply foldState_ok)
    | (with_reducible apply splice_wf)
    | (with_reducible apply filter_wf)
    | extract_lets
    | (with_reducible intro _)
    | ((conv => arg 1; with_reducible whnf); first | (with_reducible apply foldState_ok))
    | (split)
    | ((conv => arg 1; with_reducible whnf); split)
    | ((conv => arg 1; arg 1; with_reducible whnf); split)
    | ((conv => arg 1; with_reducible whnf); clear_value *; split)
    | ((conv => arg 1; arg 1; with_reducible whnf); clear_value *; split)
    | (clear_value *; split)
    | ((conv => arg 1; with_reducible whnf); with_reducible apply State.ok_mk)
    | (with_reducible apply State.ok_mk)
    | (with_reducible apply State.ok_mem)
    | (with_reducible apply State.ok_scm)
    | (with_reducible apply State.ok_versions)
    | (with_reducible apply State.ok_regs)

theorem execTierpoolWrite_ok (die : Nat) (value : BitVec 64) (s : State) (h_s : State.ok s) :
    keeps (execTierpoolWrite die value s) := by
  unfold execTierpoolWrite
  try extract_lets
  repeat' first
    | (with_reducible assumption)
    | (with_reducible apply State.exposeFrames_ok)
    | (with_reducible apply State.modDie_ok)
    | (with_reducible apply Did.ok_done)
    | (with_reducible apply Did.ok_goto)
    | (with_reducible apply Did.ok_trap)
    | (with_reducible apply Did.ok_wait)
    | (with_reducible apply Did.ok_park)
    | (with_reducible apply Did.ok_left)
    | (with_reducible apply keeps_next)
    | (with_reducible apply keeps_fault)
    | (with_reducible apply keeps_refused)
    | extract_lets
    | (with_reducible intro _)
    | (split)

theorem execTierpolWrite_ok (die : Nat) (value : BitVec 32) (s : State) (h_s : State.ok s) :
    keeps (execTierpolWrite die value s) := by
  unfold execTierpolWrite
  try extract_lets
  repeat' first
    | (with_reducible assumption)
    | (with_reducible apply State.modDie_ok)
    | (with_reducible apply State.settlePool_ok)
    | (with_reducible apply Did.ok_done)
    | (with_reducible apply Did.ok_goto)
    | (with_reducible apply Did.ok_trap)
    | (with_reducible apply Did.ok_wait)
    | (with_reducible apply Did.ok_park)
    | (with_reducible apply Did.ok_left)
    | (with_reducible apply keeps_next)
    | (with_reducible apply keeps_fault)
    | (with_reducible apply keeps_refused)
    | extract_lets
    | (with_reducible intro _)
    | (split)

theorem execErrstatWrite_ok (value : BitVec 64) (s : State) (h_s : State.ok s) :
    keeps (execErrstatWrite value s) := by
  unfold execErrstatWrite
  try extract_lets
  repeat' first
    | (with_reducible assumption)
    | (with_reducible apply Did.ok_done)
    | (with_reducible apply Did.ok_goto)
    | (with_reducible apply Did.ok_trap)
    | (with_reducible apply Did.ok_wait)
    | (with_reducible apply Did.ok_park)
    | (with_reducible apply Did.ok_left)
    | (with_reducible apply keeps_next)
    | (with_reducible apply keeps_fault)
    | (with_reducible apply keeps_refused)
    | extract_lets
    | (with_reducible intro _)
    | (split)
    | ((conv => arg 1; with_reducible whnf); split)
    | ((conv => arg 1; arg 1; with_reducible whnf); split)
    | ((conv => arg 1; with_reducible whnf); clear_value *; split)
    | ((conv => arg 1; arg 1; with_reducible whnf); clear_value *; split)
    | (clear_value *; split)
    | ((conv => arg 1; with_reducible whnf); with_reducible apply State.ok_mk)
    | (with_reducible apply State.ok_mk)
    | (with_reducible apply State.ok_mem)
    | (with_reducible apply State.ok_scm)
    | (with_reducible apply State.ok_versions)
    | (with_reducible apply State.ok_regs)
    | (refine State.ok_regs_of (s := _) (by assumption) rfl)

theorem execRegisterWrite_ok (off width : Nat) (value : BitVec 64) (s : State) (h_s : State.ok s) :
    keeps (execRegisterWrite off width value s) := by
  unfold execRegisterWrite
  extract_lets v
  refine keeps_next ?_
  have h8 := legal_write8 (off := off) (v := v) h_s.2.2.2
  clear_value v
  have h1 := h_s.1
  have h2 := h_s.2.1
  have h3 := h_s.2.2.1
  have h4 := h_s.2.2.2
  repeat' split
  all_goals first
    | (with_reducible assumption)
    | (with_reducible apply State.ok_mk) <;> with_reducible first | assumption | (refine Regfile.legal_of h4 ?_; rfl)

theorem State.setCapacity_ok (s : State) (cap : Nat) (h_s : State.ok s) :
    State.ok (State.setCapacity s cap) := by
  unfold State.setCapacity
  try extract_lets
  repeat' first
    | (with_reducible assumption)
    | (with_reducible apply foldState_ok)
    | (with_reducible apply State.modDie_ok)
    | extract_lets
    | (with_reducible intro _)

theorem execHoldupMeasure_ok (millijoules : Nat) (s : State) (h_s : State.ok s) :
    keeps (execHoldupMeasure millijoules s) := by
  unfold execHoldupMeasure
  extract_lets cap t
  have h : t.ok := State.setCapacity_ok _ _ h_s
  clear_value t
  exact keeps_next ⟨h.1, h.2.1, h.2.2.1, Regfile.legal_of h.2.2.2 rfl⟩

theorem State.restarted_ok (s : State) (h_s : State.ok s) :
    State.ok (State.restarted s) := by
  exact ⟨h_s.1, h_s.2.1, rfl, Regfile.legal_of (x := Regfile.reset) rfl rfl⟩

theorem State.bringUp_ok (s : State) (drain : Nat) (h_s : State.ok s) :
    State.ok (State.bringUp s drain) := by
  unfold State.bringUp
  try extract_lets
  repeat' first
    | (with_reducible assumption)
    | (with_reducible apply State.restarted_ok)
    | (with_reducible apply State.setCapacity_ok)
    | (with_reducible apply foldl_ok)
    | (with_reducible apply foldl_set_wf)
    | (with_reducible apply filter_wf)
    | extract_lets
    | (with_reducible intro _)
    | (split)
    | ((conv => arg 1; with_reducible whnf); split)
    | ((conv => arg 1; arg 1; with_reducible whnf); split)
    | ((conv => arg 1; with_reducible whnf); clear_value *; split)
    | ((conv => arg 1; arg 1; with_reducible whnf); clear_value *; split)
    | (clear_value *; split)
    | ((conv => arg 1; with_reducible whnf); with_reducible apply State.ok_mk)
    | (with_reducible apply State.ok_mk)
    | (with_reducible apply State.ok_mem)
    | (with_reducible apply State.ok_scm)
    | (with_reducible apply State.ok_versions)
    | (with_reducible apply State.ok_regs)
    | (refine State.ok_regs_of (s := _) (by assumption) rfl)
    | (refine State.ok_regs_of (s := _) ?_ rfl)

theorem execDevctlReset_ok (value : BitVec 64) (s : State) (h_s : State.ok s) :
    keeps (execDevctlReset value s) := by
  unfold execDevctlReset
  try extract_lets
  repeat' first
    | (with_reducible assumption)
    | (with_reducible apply State.bringUp_ok)
    | (with_reducible apply Did.ok_done)
    | (with_reducible apply Did.ok_goto)
    | (with_reducible apply Did.ok_trap)
    | (with_reducible apply Did.ok_wait)
    | (with_reducible apply Did.ok_park)
    | (with_reducible apply Did.ok_left)
    | (with_reducible apply keeps_next)
    | (with_reducible apply keeps_fault)
    | (with_reducible apply keeps_refused)
    | extract_lets
    | (with_reducible intro _)
    | (split)

theorem execPowerLoss_ok (s : State) (h_s : State.ok s) :
    keeps (execPowerLoss s) := by
  unfold execPowerLoss
  try extract_lets
  repeat' first
    | (with_reducible assumption)
    | (with_reducible apply Did.ok_done)
    | (with_reducible apply Did.ok_goto)
    | (with_reducible apply Did.ok_trap)
    | (with_reducible apply Did.ok_wait)
    | (with_reducible apply Did.ok_park)
    | (with_reducible apply Did.ok_left)
    | (with_reducible apply keeps_next)
    | (with_reducible apply keeps_fault)
    | (with_reducible apply keeps_refused)
    | extract_lets
    | (with_reducible intro _)
    | (split)
    | (with_reducible apply State.ok_mk)
    | (with_reducible apply State.ok_mem)
    | (with_reducible apply State.ok_scm)
    | (with_reducible apply State.ok_versions)
    | (with_reducible apply State.ok_regs)

theorem execDrainComplete_ok (s : State) (h_s : State.ok s) :
    keeps (execDrainComplete s) := by
  unfold execDrainComplete
  try extract_lets
  repeat' first
    | (with_reducible assumption)
    | (with_reducible apply Did.ok_done)
    | (with_reducible apply Did.ok_goto)
    | (with_reducible apply Did.ok_trap)
    | (with_reducible apply Did.ok_wait)
    | (with_reducible apply Did.ok_park)
    | (with_reducible apply Did.ok_left)
    | (with_reducible apply keeps_next)
    | (with_reducible apply keeps_fault)
    | (with_reducible apply keeps_refused)
    | extract_lets
    | (with_reducible intro _)
    | (split)
    | (with_reducible apply State.ok_mk)
    | (with_reducible apply State.ok_mem)
    | (with_reducible apply State.ok_scm)
    | (with_reducible apply State.ok_versions)
    | (with_reducible apply State.ok_regs)

theorem execPowerOn_ok (s : State) (h_s : State.ok s) :
    keeps (execPowerOn s) := by
  unfold execPowerOn
  try extract_lets
  repeat' first
    | (with_reducible assumption)
    | (with_reducible apply State.bringUp_ok)
    | (with_reducible apply Did.ok_done)
    | (with_reducible apply Did.ok_goto)
    | (with_reducible apply Did.ok_trap)
    | (with_reducible apply Did.ok_wait)
    | (with_reducible apply Did.ok_park)
    | (with_reducible apply Did.ok_left)
    | (with_reducible apply keeps_next)
    | (with_reducible apply keeps_fault)
    | (with_reducible apply keeps_refused)
    | extract_lets
    | (with_reducible intro _)
    | (split)
    | ((conv => arg 1; with_reducible whnf); split)
    | ((conv => arg 1; arg 1; with_reducible whnf); split)
    | ((conv => arg 1; with_reducible whnf); clear_value *; split)
    | ((conv => arg 1; arg 1; with_reducible whnf); clear_value *; split)
    | (clear_value *; split)
    | ((conv => arg 1; with_reducible whnf); with_reducible apply State.ok_mk)
    | (with_reducible apply State.ok_mk)
    | (with_reducible apply State.ok_mem)
    | (with_reducible apply State.ok_scm)
    | (with_reducible apply State.ok_versions)
    | (with_reducible apply State.ok_regs)

/-! ### System -/

theorem execSmfr_ok (q : Sched) (sd : SReg) (num : BitVec 8) (s : State) (h_s : State.ok s) :
    keeps (execSmfr q sd num s) := by
  unfold execSmfr
  try extract_lets
  repeat' first
    | (with_reducible assumption)
    | (with_reducible apply issueWord_ok)
    | (with_reducible apply State.later_ok)
    | (with_reducible apply State.putNow_ok)
    | (with_reducible apply Did.ok_done)
    | (with_reducible apply Did.ok_goto)
    | (with_reducible apply Did.ok_trap)
    | (with_reducible apply Did.ok_wait)
    | (with_reducible apply Did.ok_park)
    | (with_reducible apply Did.ok_left)
    | (with_reducible apply keeps_next)
    | (with_reducible apply keeps_fault)
    | (with_reducible apply keeps_refused)
    | extract_lets
    | (with_reducible intro _)
    | (split)

theorem execSmto_ok (q : Sched) (sa : SReg) (num : BitVec 8) (s : State) (h_s : State.ok s) :
    keeps (execSmto q sa num s) := by
  unfold execSmto
  try extract_lets
  repeat' first
    | (with_reducible assumption)
    | (with_reducible apply issueWord_ok)
    | (with_reducible apply Issue.raiseAll_ok)
    | (with_reducible apply State.snapWrite_ok)
    | (with_reducible apply State.wave_ok)
    | (with_reducible apply Did.ok_done)
    | (with_reducible apply Did.ok_goto)
    | (with_reducible apply Did.ok_trap)
    | (with_reducible apply Did.ok_wait)
    | (with_reducible apply Did.ok_park)
    | (with_reducible apply Did.ok_left)
    | (with_reducible apply keeps_next)
    | (with_reducible apply keeps_fault)
    | (with_reducible apply keeps_refused)
    | extract_lets
    | (with_reducible intro _)
    | (split)

end Sys2Proof.Machine
end

