-- ==== Sys2Proof/Laws/PcTable.lean ====
section
/-! SUPPORT. The PC table of a wave (spec/01 R18 to R23): which lanes stand in it, and that the operations on it keep them. -/

namespace Sys2Proof.Machine

/-- The entries of a table that a lane stands in. -/
def standing (t : List Entry) (l : Nat) : Nat := t.countP fun e => e.lanes.getLsbD l

/-- No entry is empty, and no lane stands in two. -/
def distinctLanes (t : List Entry) : Prop := (∀ e ∈ t, e.lanes ≠ 0) ∧ ∀ l, standing t l ≤ 1

theorem standing_cons (e : Entry) (t : List Entry) (l : Nat) : standing (e :: t) l = standing t l + if e.lanes.getLsbD l then 1 else 0 := by
  unfold standing; rw [List.countP_cons]

theorem standing_append (a b : List Entry) (l : Nat) : standing (a ++ b) l =
    standing a l + standing b l := by unfold standing; rw [List.countP_append]

/-- A merge keeps where lanes stand. -/
theorem standing_absorb : ∀ (e : Entry) (acc : List Entry) (l : Nat), standing (e :: acc) l ≤ 1 →
    standing (absorb e acc) l = standing (e :: acc) l
  | e, [], l, _ => rfl
  | e, x :: t, l, h => by
    unfold absorb
    split
    · rw [standing_cons, standing_cons] at h
      rw [standing_cons, standing_cons, standing_cons, BitVec.getLsbD_or]
      by_cases h1 : x.lanes.getLsbD l = true <;> by_cases h2 : e.lanes.getLsbD l = true <;> simp [h1, h2] at h ⊢
    · rw [standing_cons, standing_cons] at h
      have := standing_absorb e t l (by rw [standing_cons]; omega)
      rw [standing_cons, this, standing_cons, standing_cons, standing_cons]; omega

theorem ne_absorb : ∀ (e : Entry) (acc : List Entry), (∀ x ∈ e :: acc, x.lanes ≠ 0) → ∀ x ∈ absorb e acc, x.lanes ≠ 0
  | e, [], h => h
  | e, x :: t, h => by
    unfold absorb
    split
    · intro y hy
      rcases List.mem_cons.1 hy with rfl | hy
      · intro h0
        have hx := h x (by simp)
        apply hx
        apply BitVec.eq_of_getLsbD_eq
        intro i hi
        have := congrArg (fun b : DWord => b.getLsbD i) h0
        simp only [BitVec.getLsbD_or, BitVec.ofNat_eq_ofNat, BitVec.getLsbD_zero] at this ⊢
        exact (Bool.or_eq_false_iff.1 this).1
      · exact h y (by simp [hy])
    · intro y hy
      rcases List.mem_cons.1 hy with rfl | hy
      · exact h y (by simp)
      · exact ne_absorb e t (fun z hz => h z (by rcases List.mem_cons.1 hz with rfl | hz <;> simp [*])) y hy

theorem merge_fold : ∀ (t acc : List Entry), distinctLanes (t ++ acc) → distinctLanes (t.foldl (fun acc e => absorb e acc) acc) ∧
    ∀ l, standing (t.foldl (fun acc e => absorb e acc) acc) l = standing (t ++ acc) l
  | [], acc, h => ⟨h, fun _ => rfl⟩
  | e :: t, acc, h => by
    have hc : ∀ l, standing (absorb e acc) l = standing (e :: acc) l := fun l => standing_absorb e acc l (by
      have := h.2 l; simp only [List.cons_append, standing_cons, standing_append] at *; omega)
    have h' : distinctLanes (t ++ absorb e acc) := ⟨fun x hx => by
      rcases List.mem_append.1 hx with hx | hx
      · exact h.1 x (by simp [hx])
      · exact ne_absorb e acc (fun y hy => h.1 y (by rcases List.mem_cons.1 hy with rfl | hy <;> simp [*])) x hx,
      fun l => by have := h.2 l; simp only [List.cons_append, standing_cons, standing_append, hc] at *; omega⟩
    obtain ⟨a, b⟩ := merge_fold t (absorb e acc) h'
    refine ⟨a, fun l => ?_⟩
    rw [List.foldl_cons, b l]; simp only [List.cons_append, standing_cons, standing_append, hc]; omega

/-- Merging the ready entries of equal PC keeps where lanes stand. -/
theorem merge_ok (t : List Entry) (h : distinctLanes t) : distinctLanes (mergeReady t) ∧ ∀ l, standing (mergeReady t) l = standing t l := by
  have := merge_fold t [] (by simpa using h)
  simpa [mergeReady] using this

theorem exists_bit (x : DWord) (h : x ≠ 0) : ∃ l, x.getLsbD l = true := by
  by_contra hc
  apply h
  apply BitVec.eq_of_getLsbD_eq
  intro i hi
  have : ¬x.getLsbD i = true := fun h => hc ⟨i, h⟩
  simpa using this

theorem standing_pos {t : List Entry} {e : Entry} (h : e ∈ t) {l : Nat} (hl : e.lanes.getLsbD l = true) : 0 < standing t l :=
  List.countP_pos_iff.2 ⟨e, h, hl⟩

/-- A table without the entry of some lanes. -/
theorem remove_ok (L : DWord) : ∀ (t : List Entry), distinctLanes t → (∃ e ∈ t, e.lanes = L) →
    distinctLanes (t.filter fun x => !decide (x.lanes = L)) ∧
        ∀ l, standing (t.filter fun x => !decide (x.lanes = L)) l = if L.getLsbD l then 0 else standing t l
  | [], _, h => by simp at h
  | e :: t, h, hm => by
    have ht : distinctLanes t := ⟨fun x hx => h.1 x (by simp [hx]), fun l => by have := h.2 l; rw [standing_cons] at this; omega⟩
    have hl : distinctLanes (e :: t) →
        distinctLanes ((e :: t).filter fun x => !decide (x.lanes = L)) := fun hk => ⟨fun x hx => hk.1 x (List.mem_filter.1 hx).1, fun l =>
      le_trans (by unfold standing; exact List.Sublist.countP_le (List.filter_sublist ..)) (hk.2 l)⟩
    refine ⟨hl h, fun l => ?_⟩
    by_cases he : e.lanes = L
    · have hn : ∀ x ∈ t, x.lanes ≠ L := by
        intro x hx hxl
        obtain ⟨k, hk⟩ := exists_bit L (he ▸ h.1 e (by simp))
        have h1 := h.2 k
        rw [standing_cons, he, hk] at h1
        have := standing_pos hx (by rw [hxl]; exact hk : x.lanes.getLsbD k = true)
        simp at h1; omega
      have hf : (e :: t).filter (fun x => !decide (x.lanes = L)) = t := by
        rw [List.filter_cons_of_neg (by simp [he]), List.filter_eq_self]
        intro x hx; simp [hn x hx]
      rw [hf]
      have h1 := h.2 l
      rw [standing_cons, he] at *
      split
      · rename_i hb; simp [hb] at h1; simp [h1, hb]
      · simp
    · have hm' : ∃ x ∈ t, x.lanes = L := by
        obtain ⟨x, hx, hxl⟩ := hm
        rcases List.mem_cons.1 hx with rfl | hx
        · exact absurd hxl he
        · exact ⟨x, hx, hxl⟩
      rw [List.filter_cons_of_pos (by simp [he]), standing_cons, (remove_ok L t ht hm').2 l, standing_cons]
      split
      · rename_i hb
        obtain ⟨x, hx, hxl⟩ := hm'
        have h1 := h.2 l
        have h2 := standing_pos hx (by rw [hxl]; exact hb : x.lanes.getLsbD l = true)
        rw [standing_cons] at h1
        split at h1 <;> simp_all
      · rfl

theorem without_eq (L : DWord) (t : List Entry) (h : distinctLanes t) (hm : ∃ e ∈ t, e.lanes = L) :
    (t.filter fun e => decide (e.lanes &&& L = 0)) = t.filter fun x => !decide (x.lanes = L) := by
  apply List.filter_congr
  intro x hx
  by_cases hxl : x.lanes = L
  · have := h.1 x hx
    simp only [hxl, decide_true, Bool.not_true, BitVec.and_self, decide_eq_false_iff_not]; rw [← hxl]; exact this
  · simp only [hxl, decide_false, Bool.not_false, decide_eq_true_eq]
    apply BitVec.eq_of_getLsbD_eq
    intro l hl
    rw [BitVec.getLsbD_and]
    by_contra hc
    simp at hc
    obtain ⟨e, he, hel⟩ := hm
    have h1 := (remove_ok L t h ⟨e, he, hel⟩).2 l
    rw [if_pos hc.2] at h1
    have := standing_pos (t := t.filter fun x => !decide (x.lanes = L)) (List.mem_filter.2 ⟨hx, by simp [hxl]⟩) hc.1
    omega

theorem tableOk_okT {w : Wave}
    (h : w.tableOk) : distinctLanes w.table := ⟨h.1, fun l => by have := h.2 l; unfold Wave.stands at this; unfold standing; omega⟩

/-- Same lanes from same counts and handler. -/
theorem same_of {w x : Wave} (hw : w.tableOk) (hne : ∀ e ∈ x.table, e.lanes ≠ 0) (hc : ∀ l, standing x.table l =
    standing w.table l) (hh : x.handler = w.handler) : w.sameLanes x := by
  have : ∀ l, x.stands l = w.stands l := fun l => by have := hc l; unfold Wave.stands; rw [hh]; unfold standing at this; omega
  exact ⟨⟨hne, fun l => by rw [this]; exact hw.2 l⟩, this⟩

theorem same_trans {w x y : Wave} (h1 : w.sameLanes x) (h2 : x.sameLanes y) : w.sameLanes y := ⟨h2.1, fun l => (h2.2 l).trans (h1.2 l)⟩

theorem merged_ok {w : Wave} (h : distinctLanes w.table) : distinctLanes w.merged.table ∧ ∀ l, standing w.merged.table l = standing w.table l := by
  unfold Wave.merged
  split
  · rename_i a e t _ he
    dsimp only
    rw [he] at h ⊢
    have ht : distinctLanes t := ⟨fun x hx => h.1 x (by simp [hx]), fun l => by have := h.2 l; rw [standing_cons] at this; omega⟩
    obtain ⟨m1, m2⟩ := merge_ok t ht
    have hc : ∀ l, standing (e :: mergeReady t) l = standing (e :: t) l := fun l => by rw [standing_cons, standing_cons, m2]
    exact ⟨⟨fun x hx => by rcases List.mem_cons.1 hx with rfl | hx; exacts [h.1 _ (by simp), m1.1 x hx], fun l => by rw [hc]; exact h.2 l⟩, hc⟩
  · exact merge_ok _ h

theorem merged_handler (w : Wave) : w.merged.handler = w.handler := by unfold Wave.merged; split <;> rfl

theorem parts_cnt (gs : List (DWord × DWord)) (l : Nat) : standing (gs.map fun g => ({ pc := g.1, lanes := g.2, park := none } : Entry)) l =
    gs.countP fun g => g.2.getLsbD l := by
  unfold standing; rw [List.countP_map]; rfl

theorem split_cnt (t : List Entry) (p : Entry → Bool) (l : Nat) : standing (t.filter p) l + standing (t.filter fun e => !p e) l = standing t l := by
  induction t with
  | nil => rfl
  | cons e t ih => by_cases h : p e <;> simp [h, standing_cons] <;> omega

/-- A resumed entry keeps the lanes of its wave. -/
theorem resumeAt_same {w : Wave} (hw : w.tableOk) (now : Nat) (L : DWord) (gs : List (DWord × DWord)) (hm : ∃ e ∈ w.table, e.lanes = L)
    (hg : ∀ g ∈ gs, g.2 ≠ 0) (hc : ∀ l, gs.countP (fun g => g.2.getLsbD l) = if L.getLsbD l then 1 else 0) : w.sameLanes (w.resumeAt now L gs) ∧
        (w.resumeAt now L gs).handler = w.handler := by
  obtain ⟨r1, r2⟩ := remove_ok L w.table (tableOk_okT hw) hm
  have hcnt : ∀ l, standing ((w.table.filter fun (e : Entry) => !decide (e.lanes =
      L)) ++ gs.map fun g => ({ pc := g.1, lanes := g.2, park := none } : Entry)) l = standing w.table l := by
    intro l
    rw [standing_append, r2, parts_cnt, hc]
    split
    · rename_i hb
      obtain ⟨e, he, hel⟩ := hm
      have := standing_pos he (by rw [hel]; exact hb : e.lanes.getLsbD l = true)
      have := (tableOk_okT hw).2 l
      omega
    · omega
  have hk : distinctLanes ((w.table.filter fun (e : Entry) => !decide (e.lanes =
      L)) ++ gs.map fun g => ({ pc := g.1, lanes := g.2, park := none } : Entry)) :=
    ⟨fun x hx => by
      rcases List.mem_append.1 hx with hx | hx
      · exact r1.1 x hx
      · obtain ⟨g, hg', rfl⟩ := List.mem_map.1 hx; exact hg g hg', fun l => by rw [hcnt]; exact (tableOk_okT hw).2 l⟩
  unfold Wave.resumeAt
  dsimp only
  obtain ⟨m1, m2⟩ := merged_ok (w := { w with
     table := (w.table.filter fun (e : Entry) => !decide (e.lanes = L)) ++ gs.map fun g => ({ pc := g.1, lanes := g.2, park := none } : Entry)
     resort := true
     eligAt := if w.table.any fun e => e.park.isNone then w.eligAt else max w.nextIssue now }) hk
  exact ⟨same_of hw m1.1 (fun l => (m2 l).trans (hcnt l)) (merged_handler _), merged_handler _⟩

/-- A jump keeps the lanes of its wave. -/
theorem moveTo_same {w : Wave} (hw : w.tableOk) (L : DWord) (gs : List (DWord × DWord)) (front : Option DWord) (hm : ∃ e ∈ w.table, e.lanes = L)
    (hg : ∀ g ∈ gs, g.2 ≠ 0) (hc : ∀ l, gs.countP (fun g => g.2.getLsbD l) = if L.getLsbD l then 1 else 0) : w.sameLanes (w.moveTo L gs front) := by
  obtain ⟨r1, r2⟩ := remove_ok L w.table (tableOk_okT hw) hm
  let parts : List Entry := gs.map fun g => { pc := g.1, lanes := g.2, park := none }
  have hcnt : ∀ l, standing ((parts.filter fun e => decide (some e.pc = front)) ++ (parts.filter fun e => !decide (some e.pc =
      front)) ++ (w.table.filter fun (e : Entry) => !decide (e.lanes = L))) l = standing w.table l := by
    intro l
    rw [standing_append, standing_append, split_cnt, r2]
    simp only [parts]; rw [parts_cnt, hc]
    split
    · rename_i hb
      obtain ⟨e, he, hel⟩ := hm
      have := standing_pos he (by rw [hel]; exact hb : e.lanes.getLsbD l = true)
      have := (tableOk_okT hw).2 l
      omega
    · omega
  have hp : ∀ x ∈ parts, x.lanes ≠ 0 := fun x hx => by obtain ⟨g, hg', rfl⟩ := List.mem_map.1 hx; exact hg g hg'
  have hk : distinctLanes ((parts.filter fun e => decide (some e.pc = front)) ++ (parts.filter fun e => !decide (some e.pc =
      front)) ++ (w.table.filter fun (e : Entry) => !decide (e.lanes = L))) :=
    ⟨fun x hx => by
      rcases List.mem_append.1 hx with hx | hx
      · rcases List.mem_append.1 hx with hx | hx
        · exact hp x (List.mem_filter.1 hx).1
        · exact hp x (List.mem_filter.1 hx).1
      · exact r1.1 x hx, fun l => by rw [hcnt]; exact (tableOk_okT hw).2 l⟩
  obtain ⟨m1, m2⟩ := merge_ok _ hk
  exact same_of hw m1.1 (fun l => (m2 l).trans (hcnt l)) rfl

theorem lowestReady_mem : ∀ (t : List Entry) (e : Entry), lowestReady t = some e → e ∈ t
  | [], e, h => by cases h
  | x :: t, e, h => by
    unfold lowestReady at h
    have ih := lowestReady_mem t
    split at h
    · rename_i y hy _
      split at h
      · obtain rfl := Option.some.inj h; exact List.mem_cons_of_mem _ (ih _ (by assumption))
      · obtain rfl := Option.some.inj h; simp
    · obtain rfl := Option.some.inj h; simp
    · exact List.mem_cons_of_mem _ (ih _ h)

/-- A re-sort keeps the lanes of its wave. -/
theorem resorted_same {w : Wave} (hw : w.tableOk) : w.sameLanes w.resorted := by
  unfold Wave.resorted
  extract_lets table
  obtain ⟨m1, m2⟩ := merge_ok _ (tableOk_okT hw)
  split
  · rename_i e he
    have hm := lowestReady_mem _ _ he
    obtain ⟨r1, r2⟩ := remove_ok e.lanes table m1 ⟨e, hm, rfl⟩
    refine same_of hw (fun x hx => ?_) (fun l => ?_) rfl
    · rcases List.mem_cons.1 hx with rfl | hx
      · exact m1.1 _ hm
      · exact r1.1 x hx
    · show standing (toFront e table) l = _
      unfold toFront
      rw [standing_cons, r2, ← m2 l]
      split
      · rename_i hb
        have := standing_pos hm hb
        have := m1.2 l
        simp only [table] at *; omega
      · rfl
  · exact same_of hw (tableOk_okT hw).1 (fun _ => rfl) rfl

/-- `tret` keeps the lanes of its wave. -/
theorem leave_same {w : Wave} {h : Handler} (hw : w.tableOk) (hh : w.handler = some h) (h0 : h.lanes ≠ 0) : w.sameLanes (w.leaveHandler h) := by
  have hk : distinctLanes (({ pc := w.epc, lanes := h.lanes, park := none } : Entry) :: w.table) := ⟨fun x hx => by
    rcases List.mem_cons.1 hx with rfl | hx
    · exact h0
    · exact hw.1 x hx, fun l => by have := hw.2 l; unfold Wave.stands at this; rw [standing_cons]; unfold standing; simpa [hh] using this⟩
  obtain ⟨m1, m2⟩ := merge_ok _ hk
  have hs : ∀ l, (w.leaveHandler h).stands l = w.stands l := by
    intro l
    have := m2 l
    rw [standing_cons] at this
    unfold Wave.stands
    show standing (mergeReady (_ :: w.table)) l + _ = standing w.table l + _
    rw [this, hh]; rfl
  exact ⟨⟨m1.1, fun l => by rw [hs]; exact hw.2 l⟩, hs⟩

/-- A release keeps the lanes of its wave. -/
theorem releaseWhere_same {w : Wave} (hw : w.tableOk) (now : Nat) (p : Park → Bool) : w.sameLanes (w.releaseWhere now p) ∧
    (w.releaseWhere now p).handler = w.handler := by
  unfold Wave.releaseWhere
  split
  · have hl : ∀ e : Entry, (if e.park.any p then e.release else e).lanes = e.lanes := fun e => by split <;> rfl
    refine ⟨same_of hw (fun x hx => ?_) (fun l => ?_) rfl, rfl⟩
    · obtain ⟨e, he, rfl⟩ := List.mem_map.1 hx; rw [hl]; exact hw.1 e he
    · unfold standing; rw [List.countP_map]; congr 1; funext e; simp only [Function.comp, hl]
  · exact ⟨same_of hw hw.1 (fun _ => rfl) rfl, rfl⟩

/-- The test of a mask keeps the lanes of its wave. -/
theorem recheck_same {w : Wave} (hw : w.tableOk) (m : Nat) : w.sameLanes (w.recheck m) ∧ (w.recheck m).handler = w.handler := by
  unfold Wave.recheck
  split
  · obtain ⟨a, b⟩ := releaseWhere_same hw w.eligAt fun p => decide (p = .waitm m)
    obtain ⟨c, d⟩ := merged_ok (tableOk_okT a.1)
    exact ⟨same_trans a (same_of a.1 c.1 d (merged_handler _)), (merged_handler _).trans b⟩
  · exact ⟨same_of hw hw.1 (fun _ => rfl) rfl, rfl⟩

theorem rechecks_same : ∀ (l : List Nat) {w : Wave}, w.tableOk → w.sameLanes (l.foldl (fun w m => w.recheck m) w)
  | [], w, hw => same_of hw hw.1 (fun _ => rfl) rfl
  | m :: l, w, hw => same_trans (recheck_same hw m).1 (rechecks_same l (recheck_same hw m).1.1)

/-- Lanes that exit stand in no entry after, the others as before. -/
theorem dropLanes_ok {w : Wave} (hw : w.tableOk) (L : DWord) (hm : ∃ e ∈ w.table, e.lanes = L) :
    (w.dropLanes L).tableOk ∧ ∀ l, (w.dropLanes L).stands l = if L.getLsbD l then 0 else w.stands l := by
  unfold Wave.dropLanes
  extract_lets g w1
  have ht : w1.table = w.table.filter fun x => !decide (x.lanes = L) := without_eq L w.table (tableOk_okT hw) hm
  obtain ⟨r1, r2⟩ := remove_ok L w.table (tableOk_okT hw) hm
  have hs : ∀ l, w1.stands l = if L.getLsbD l then 0 else w.stands l := by
    intro l
    have := r2 l
    unfold Wave.stands
    rw [ht]; unfold standing at this; rw [this]
    show _ + (if w.handler.any _ then 1 else 0) = _
    split
    · rename_i hb
      obtain ⟨e, he, hel⟩ := hm
      have h1 := standing_pos he (by rw [hel]; exact hb : e.lanes.getLsbD l = true)
      have h2 := hw.2 l
      unfold Wave.stands at h2; unfold standing at h1; omega
    · rfl
  have h1 : w1.tableOk := ⟨by rw [ht]; exact r1.1, fun l => by rw [hs]; split; exacts [by omega, hw.2 l]⟩
  obtain ⟨a, b⟩ := rechecks_same (List.range 12) h1
  exact ⟨a, fun l => (b l).trans (hs l)⟩

/-- A charged issue changes no PC table. -/
theorem charge_table (s : State) (ls : List Nat) (slot gap n : Nat) (g : Bool) (w : Wave) (hw : s.waves.get? n = some w) :
    ∃ x, (s.charge ls slot gap g).waves.get? n = some x ∧ x.table = w.table ∧ x.handler = w.handler ∧ x.adopt = w.adopt ∧ x.tvec = w.tvec := by
  unfold State.charge
  dsimp only
  rw [get?_mapKey _ _ (by intro e; split <;> [rfl; (split <;> rfl)]), hw]
  refine ⟨_, rfl, ?_⟩
  dsimp only
  split
  · exact ⟨rfl, rfl, rfl, rfl⟩
  · split
    · unfold State.passedOver; dsimp only; split <;> exact ⟨rfl, rfl, rfl, rfl⟩
    · exact ⟨rfl, rfl, rfl, rfl⟩

theorem charge_tables (s : State) (ls : List Nat) (slot gap n : Nat) (g : Bool) : ((s.charge ls slot gap g).waves.get? n).map (·.table) =
    (s.waves.get? n).map (·.table) := by
  cases hw : s.waves.get? n with
  | some w => obtain ⟨x, hx, ht, -⟩ := charge_table s ls slot gap n g w hw; rw [hx]; simp [ht]
  | none =>
    unfold State.charge; dsimp only
    rw [get?_mapKey _ _ (by intro e; split <;> [rfl; (split <;> rfl)]), hw]; rfl

theorem same_congr {w x y : Wave} (h : x.table = y.table ∧ x.handler = y.handler) (hs : w.sameLanes x) : w.sameLanes y := by
  unfold Wave.sameLanes Wave.tableOk Wave.stands at *; rw [← h.1, ← h.2]; exact hs

theorem modWave_get (s : State) (n k : Nat) (f : Wave →
    Wave) : (s.modWave n f).waves.get? k = (s.waves.get? k).map fun w => if k = n then f w else w := by
  rw [State.modWave_waves, get?_modify]; split <;> simp

end Sys2Proof.Machine
end

