-- ==== Sys2Proof/Laws/PerInstr.lean ====
section
/-! SUPPORT. Decoding the word of an instruction gives it back, one lemma for each constructor. -/

namespace Sys2Proof

theorem VSrc.code_lt (b : VSrc) : b.code < 256 := by
  cases b with
  | v n => have := n.isLt; simp only [VSrc.code]; omega
  | s n => have := n.isLt; simp only [VSrc.code]; omega
  | int k => have := k.isLt; simp only [VSrc.code]; omega
  | flt k => have := k.isLt; simp only [VSrc.code]; omega
  | lit => decide
  | lane => decide

theorem VSrc.ofCode_code (b : VSrc) : VSrc.ofCode b.code = some b := by
  cases b with
  | v n =>
    have := n.isLt
    simp [VSrc.code, VSrc.ofCode, show n.toNat < 128 by omega]
  | s n =>
    have := n.isLt
    simp [VSrc.code, VSrc.ofCode, show 128 + n.toNat < 192 by omega]
  | int k =>
    have := k.isLt
    rw [VSrc.code, VSrc.ofCode, if_neg (by omega), if_neg (by omega), if_pos (by omega)]
    exact congrArg (fun x => some (VSrc.int x)) (Fin.ext (by simp only; omega))
  | flt k =>
    have := k.isLt
    rw [VSrc.code, VSrc.ofCode, if_neg (by omega), if_neg (by omega), if_neg (by omega), if_pos (by omega)]
    exact congrArg (fun x => some (VSrc.flt x)) (Fin.ext (by simp only; omega))
  | lit => decide
  | lane => decide

theorem SSrc.code_lt (b : SSrc) : b.code < 256 := by
  cases b with
  | s n => have := n.isLt; simp only [SSrc.code]; omega
  | int k => have := k.isLt; simp only [SSrc.code]; omega

theorem SSrc.ofCode_code (b : SSrc) : SSrc.ofCode b.code = some b := by
  cases b with
  | s n =>
    have := n.isLt
    simp [SSrc.code, SSrc.ofCode, show n.toNat < 64 by omega]
  | int k =>
    have := k.isLt
    rw [SSrc.code, SSrc.ofCode, if_neg (by omega)]
    exact congrArg (fun x => some (SSrc.int x)) (Fin.ext (by simp only; omega))

theorem ShflMode.code_lt (x : ShflMode) : x.code < 4 := by cases x <;> decide

theorem ICond.code_lt (x : ICond) : x.code < 16 := by cases x <;> decide

theorem FCond.code_lt (x : FCond) : x.code < 8 := by cases x <;> decide

theorem CvtFmt.code_lt (x : CvtFmt) : x.code < 8 := by cases x <;> decide

theorem CvtRound.code_lt (x : CvtRound) : x.code < 4 := by cases x <;> decide

theorem BrHint.code_lt (x : BrHint) : x.code < 4 := by cases x <;> decide

theorem Width.code_lt (x : Width) : x.code < 8 := by cases x <;> decide

theorem AtomOp.code_lt (x : AtomOp) : x.code < 16 := by cases x <;> decide

theorem RedOp.code_lt (x : RedOp) : x.code < 8 := by cases x <;> decide

theorem FenceKind.code_lt (x : FenceKind) : x.code < 4 := by cases x <;> decide

theorem WbarScope.code_lt (x : WbarScope) : x.code < 4 := by cases x <;> decide

end Sys2Proof

namespace Sys2Proof.Laws.Enc

/-- The words of a well-formed instruction decode to it. -/
def Statement (i : Instr) : Prop := i.wf = true → ∀ w, encode i = some w → decode w = .ok i

theorem eventless {i : Instr} (h : encodeNat i = none) : Statement i := by
  intro _ w hw
  simp [encode, h] at hw

theorem encoded {i : Instr} {n : Nat} (h : encodeNat i = some n) (hd : n < 2 ^ 32 ∧ decodeFields n = some i) : Statement i := by
  intro hwf w hw
  simp only [encode, h, Option.map_some, Option.some.injEq] at hw
  subst hw
  rw [decode, BitVec.toNat_ofNat, Nat.mod_eq_of_lt hd.1, hd.2]
  simp [hwf]

theorem encodedWord {i : Instr} {q : Sched} {m x y w : Nat} (h : encodeNat i = some (wordOf q m x)) (hx : x = y) (hw : w = wordOf q m y)
    (hl : w < 2 ^ 32) (hd : decodeFields w = some i) : Statement i :=
  encoded (by rw [h, hx, ← hw]) ⟨hl, hd⟩

theorem encodedHint {i : Instr} {x y w : Nat} (h : encodeNat i = some (268435456 + x)) (hx : x = y) (hw : w = 268435456 + y)
    (hl : w < 2 ^ 32) (hd : decodeFields w = some i) : Statement i :=
  encoded (by rw [h, hx, ← hw]) ⟨hl, hd⟩

theorem bit_lt (b : Bool) : bit b < 2 ^ 1 := by cases b <;> decide

theorem fld_of {w lo n : Nat} {x : BitVec n} (h : nat w lo n = x.toNat) : fld w lo n = x :=
  BitVec.eq_of_toNat_eq (by simpa [fld, nat] using h)

theorem flag_of {w lo : Nat} {b : Bool} (h : nat w lo 1 = bit b) : flag w lo = b := by
  cases b <;> simp_all [flag, nat, bit]

theorem sched_of {w : Nat} {q : Sched} (h : nat w 30 2 = q.gap.toNat) (h' : nat w 29 1 = bit q.giveWay) : schedOf w = q := by
  rw [schedOf, fld_of h, flag_of h']

theorem fields_22_2_0_8_15_7_8_7 (q : Sched) (major : Nat) (x0 x1 x2 x3 : Nat) (bm : major < 32) (b0 : x0 < 2 ^ 2) (b1 : x1 < 2 ^ 8) (b2 : x2 < 2 ^ 7) (b3 : x3 < 2 ^ 7) :
    ∃ w, w = wordOf q major (x0 * 4194304 + x1 * 1 + x2 * 32768 + x3 * 256) ∧ w < 2 ^ 32 ∧ nat w 24 5 = major ∧ schedOf w = q ∧
      nat w 22 2 = x0 ∧
      nat w 0 8 = x1 ∧
      nat w 15 7 = x2 ∧
      nat w 8 7 = x3 := by
  have h0 := q.gap.isLt
  have h1 := bit_lt q.giveWay
  obtain ⟨w, hw'⟩ : ∃ w, w = wordOf q major (x0 * 4194304 + x1 * 1 + x2 * 32768 + x3 * 256) := ⟨_, rfl⟩
  have hw : w = q.gap.toNat * 1073741824 + bit q.giveWay * 536870912 + major * 16777216 + (x0 * 4194304 + x1 * 1 + x2 * 32768 + x3 * 256) := hw'
  refine ⟨w, hw', by omega, by unfold nat; omega, sched_of (by unfold nat; omega) (by unfold nat; omega), by unfold nat; omega, by unfold nat; omega, by unfold nat; omega, by unfold nat; omega⟩

theorem fields_23_1_15_6_21_2_0_8_8_7 (q : Sched) (major : Nat) (x0 x1 x2 x3 x4 : Nat) (bm : major < 32) (b0 : x0 < 2 ^ 1) (b1 : x1 < 2 ^ 6) (b2 : x2 < 2 ^ 2) (b3 : x3 < 2 ^ 8) (b4 : x4 < 2 ^ 7) :
    ∃ w, w = wordOf q major (x0 * 8388608 + x1 * 32768 + x2 * 2097152 + x3 * 1 + x4 * 256) ∧ w < 2 ^ 32 ∧ nat w 24 5 = major ∧ schedOf w = q ∧
      nat w 23 1 = x0 ∧
      nat w 15 6 = x1 ∧
      nat w 21 2 = x2 ∧
      nat w 0 8 = x3 ∧
      nat w 8 7 = x4 := by
  have h0 := q.gap.isLt
  have h1 := bit_lt q.giveWay
  obtain ⟨w, hw'⟩ : ∃ w, w = wordOf q major (x0 * 8388608 + x1 * 32768 + x2 * 2097152 + x3 * 1 + x4 * 256) := ⟨_, rfl⟩
  have hw : w = q.gap.toNat * 1073741824 + bit q.giveWay * 536870912 + major * 16777216 + (x0 * 8388608 + x1 * 32768 + x2 * 2097152 + x3 * 1 + x4 * 256) := hw'
  refine ⟨w, hw', by omega, by unfold nat; omega, sched_of (by unfold nat; omega) (by unfold nat; omega), by unfold nat; omega, by unfold nat; omega, by unfold nat; omega, by unfold nat; omega, by unfold nat; omega⟩

theorem fields_23_1_15_6_22_1_0_8_8_7_21_1 (q : Sched) (major : Nat) (x0 x1 x2 x3 x4 x5 : Nat) (bm : major < 32) (b0 : x0 < 2 ^ 1) (b1 : x1 < 2 ^ 6) (b2 : x2 < 2 ^ 1) (b3 : x3 < 2 ^ 8) (b4 : x4 < 2 ^ 7) (b5 : x5 < 2 ^ 1) :
    ∃ w, w = wordOf q major (x0 * 8388608 + x1 * 32768 + x2 * 4194304 + x3 * 1 + x4 * 256 + x5 * 2097152) ∧ w < 2 ^ 32 ∧ nat w 24 5 = major ∧ schedOf w = q ∧
      nat w 23 1 = x0 ∧
      nat w 15 6 = x1 ∧
      nat w 22 1 = x2 ∧
      nat w 0 8 = x3 ∧
      nat w 8 7 = x4 ∧
      nat w 21 1 = x5 := by
  have h0 := q.gap.isLt
  have h1 := bit_lt q.giveWay
  obtain ⟨w, hw'⟩ : ∃ w, w = wordOf q major (x0 * 8388608 + x1 * 32768 + x2 * 4194304 + x3 * 1 + x4 * 256 + x5 * 2097152) := ⟨_, rfl⟩
  have hw : w = q.gap.toNat * 1073741824 + bit q.giveWay * 536870912 + major * 16777216 + (x0 * 8388608 + x1 * 32768 + x2 * 4194304 + x3 * 1 + x4 * 256 + x5 * 2097152) := hw'
  refine ⟨w, hw', by omega, by unfold nat; omega, sched_of (by unfold nat; omega) (by unfold nat; omega), by unfold nat; omega, by unfold nat; omega, by unfold nat; omega, by unfold nat; omega, by unfold nat; omega, by unfold nat; omega⟩

theorem fields_23_1_20_3_17_3_15_2_0_8_8_7 (q : Sched) (major : Nat) (x0 x1 x2 x3 x4 x5 : Nat) (bm : major < 32) (b0 : x0 < 2 ^ 1) (b1 : x1 < 2 ^ 3) (b2 : x2 < 2 ^ 3) (b3 : x3 < 2 ^ 2) (b4 : x4 < 2 ^ 8) (b5 : x5 < 2 ^ 7) :
    ∃ w, w = wordOf q major (x0 * 8388608 + x1 * 1048576 + x2 * 131072 + x3 * 32768 + x4 * 1 + x5 * 256) ∧ w < 2 ^ 32 ∧ nat w 24 5 = major ∧ schedOf w = q ∧
      nat w 23 1 = x0 ∧
      nat w 20 3 = x1 ∧
      nat w 17 3 = x2 ∧
      nat w 15 2 = x3 ∧
      nat w 0 8 = x4 ∧
      nat w 8 7 = x5 := by
  have h0 := q.gap.isLt
  have h1 := bit_lt q.giveWay
  obtain ⟨w, hw'⟩ : ∃ w, w = wordOf q major (x0 * 8388608 + x1 * 1048576 + x2 * 131072 + x3 * 32768 + x4 * 1 + x5 * 256) := ⟨_, rfl⟩
  have hw : w = q.gap.toNat * 1073741824 + bit q.giveWay * 536870912 + major * 16777216 + (x0 * 8388608 + x1 * 1048576 + x2 * 131072 + x3 * 32768 + x4 * 1 + x5 * 256) := hw'
  refine ⟨w, hw', by omega, by unfold nat; omega, sched_of (by unfold nat; omega) (by unfold nat; omega), by unfold nat; omega, by unfold nat; omega, by unfold nat; omega, by unfold nat; omega, by unfold nat; omega, by unfold nat; omega⟩

theorem fields_19_5_0_8_15_4_8_7 (q : Sched) (major : Nat) (x0 x1 x2 x3 : Nat) (bm : major < 32) (b0 : x0 < 2 ^ 5) (b1 : x1 < 2 ^ 8) (b2 : x2 < 2 ^ 4) (b3 : x3 < 2 ^ 7) :
    ∃ w, w = wordOf q major (x0 * 524288 + x1 * 1 + x2 * 32768 + x3 * 256) ∧ w < 2 ^ 32 ∧ nat w 24 5 = major ∧ schedOf w = q ∧
      nat w 19 5 = x0 ∧
      nat w 0 8 = x1 ∧
      nat w 15 4 = x2 ∧
      nat w 8 7 = x3 := by
  have h0 := q.gap.isLt
  have h1 := bit_lt q.giveWay
  obtain ⟨w, hw'⟩ : ∃ w, w = wordOf q major (x0 * 524288 + x1 * 1 + x2 * 32768 + x3 * 256) := ⟨_, rfl⟩
  have hw : w = q.gap.toNat * 1073741824 + bit q.giveWay * 536870912 + major * 16777216 + (x0 * 524288 + x1 * 1 + x2 * 32768 + x3 * 256) := hw'
  refine ⟨w, hw', by omega, by unfold nat; omega, sched_of (by unfold nat; omega) (by unfold nat; omega), by unfold nat; omega, by unfold nat; omega, by unfold nat; omega, by unfold nat; omega⟩

theorem fields_20_4_0_8_14_6_8_6 (q : Sched) (major : Nat) (x0 x1 x2 x3 : Nat) (bm : major < 32) (b0 : x0 < 2 ^ 4) (b1 : x1 < 2 ^ 8) (b2 : x2 < 2 ^ 6) (b3 : x3 < 2 ^ 6) :
    ∃ w, w = wordOf q major (x0 * 1048576 + x1 * 1 + x2 * 16384 + x3 * 256) ∧ w < 2 ^ 32 ∧ nat w 24 5 = major ∧ schedOf w = q ∧
      nat w 20 4 = x0 ∧
      nat w 0 8 = x1 ∧
      nat w 14 6 = x2 ∧
      nat w 8 6 = x3 := by
  have h0 := q.gap.isLt
  have h1 := bit_lt q.giveWay
  obtain ⟨w, hw'⟩ : ∃ w, w = wordOf q major (x0 * 1048576 + x1 * 1 + x2 * 16384 + x3 * 256) := ⟨_, rfl⟩
  have hw : w = q.gap.toNat * 1073741824 + bit q.giveWay * 536870912 + major * 16777216 + (x0 * 1048576 + x1 * 1 + x2 * 16384 + x3 * 256) := hw'
  refine ⟨w, hw', by omega, by unfold nat; omega, sched_of (by unfold nat; omega) (by unfold nat; omega), by unfold nat; omega, by unfold nat; omega, by unfold nat; omega, by unfold nat; omega⟩

theorem fields_20_4_18_2_14_4_0_8_8_6 (q : Sched) (major : Nat) (x0 x1 x2 x3 x4 : Nat) (bm : major < 32) (b0 : x0 < 2 ^ 4) (b1 : x1 < 2 ^ 2) (b2 : x2 < 2 ^ 4) (b3 : x3 < 2 ^ 8) (b4 : x4 < 2 ^ 6) :
    ∃ w, w = wordOf q major (x0 * 1048576 + x1 * 262144 + x2 * 16384 + x3 * 1 + x4 * 256) ∧ w < 2 ^ 32 ∧ nat w 24 5 = major ∧ schedOf w = q ∧
      nat w 20 4 = x0 ∧
      nat w 18 2 = x1 ∧
      nat w 14 4 = x2 ∧
      nat w 0 8 = x3 ∧
      nat w 8 6 = x4 := by
  have h0 := q.gap.isLt
  have h1 := bit_lt q.giveWay
  obtain ⟨w, hw'⟩ : ∃ w, w = wordOf q major (x0 * 1048576 + x1 * 262144 + x2 * 16384 + x3 * 1 + x4 * 256) := ⟨_, rfl⟩
  have hw : w = q.gap.toNat * 1073741824 + bit q.giveWay * 536870912 + major * 16777216 + (x0 * 1048576 + x1 * 262144 + x2 * 16384 + x3 * 1 + x4 * 256) := hw'
  refine ⟨w, hw', by omega, by unfold nat; omega, sched_of (by unfold nat; omega) (by unfold nat; omega), by unfold nat; omega, by unfold nat; omega, by unfold nat; omega, by unfold nat; omega, by unfold nat; omega⟩

theorem fields_20_4_8_6_0_8_14_6 (q : Sched) (major : Nat) (x0 x1 x2 x3 : Nat) (bm : major < 32) (b0 : x0 < 2 ^ 4) (b1 : x1 < 2 ^ 6) (b2 : x2 < 2 ^ 8) (b3 : x3 < 2 ^ 6) :
    ∃ w, w = wordOf q major (x0 * 1048576 + x1 * 256 + x2 * 1 + x3 * 16384) ∧ w < 2 ^ 32 ∧ nat w 24 5 = major ∧ schedOf w = q ∧
      nat w 20 4 = x0 ∧
      nat w 8 6 = x1 ∧
      nat w 0 8 = x2 ∧
      nat w 14 6 = x3 := by
  have h0 := q.gap.isLt
  have h1 := bit_lt q.giveWay
  obtain ⟨w, hw'⟩ : ∃ w, w = wordOf q major (x0 * 1048576 + x1 * 256 + x2 * 1 + x3 * 16384) := ⟨_, rfl⟩
  have hw : w = q.gap.toNat * 1073741824 + bit q.giveWay * 536870912 + major * 16777216 + (x0 * 1048576 + x1 * 256 + x2 * 1 + x3 * 16384) := hw'
  refine ⟨w, hw', by omega, by unfold nat; omega, sched_of (by unfold nat; omega) (by unfold nat; omega), by unfold nat; omega, by unfold nat; omega, by unfold nat; omega, by unfold nat; omega⟩

theorem fields_20_4_14_6_8_6_4_4_0_4 (q : Sched) (major : Nat) (x0 x1 x2 x3 x4 : Nat) (bm : major < 32) (b0 : x0 < 2 ^ 4) (b1 : x1 < 2 ^ 6) (b2 : x2 < 2 ^ 6) (b3 : x3 < 2 ^ 4) (b4 : x4 < 2 ^ 4) :
    ∃ w, w = wordOf q major (x0 * 1048576 + x1 * 16384 + x2 * 256 + x3 * 16 + x4 * 1) ∧ w < 2 ^ 32 ∧ nat w 24 5 = major ∧ schedOf w = q ∧
      nat w 20 4 = x0 ∧
      nat w 14 6 = x1 ∧
      nat w 8 6 = x2 ∧
      nat w 4 4 = x3 ∧
      nat w 0 4 = x4 := by
  have h0 := q.gap.isLt
  have h1 := bit_lt q.giveWay
  obtain ⟨w, hw'⟩ : ∃ w, w = wordOf q major (x0 * 1048576 + x1 * 16384 + x2 * 256 + x3 * 16 + x4 * 1) := ⟨_, rfl⟩
  have hw : w = q.gap.toNat * 1073741824 + bit q.giveWay * 536870912 + major * 16777216 + (x0 * 1048576 + x1 * 16384 + x2 * 256 + x3 * 16 + x4 * 1) := hw'
  refine ⟨w, hw', by omega, by unfold nat; omega, sched_of (by unfold nat; omega) (by unfold nat; omega), by unfold nat; omega, by unfold nat; omega, by unfold nat; omega, by unfold nat; omega, by unfold nat; omega⟩

theorem fields_22_2_16_6_0_16 (q : Sched) (major : Nat) (x0 x1 x2 : Nat) (bm : major < 32) (b0 : x0 < 2 ^ 2) (b1 : x1 < 2 ^ 6) (b2 : x2 < 2 ^ 16) :
    ∃ w, w = wordOf q major (x0 * 4194304 + x1 * 65536 + x2 * 1) ∧ w < 2 ^ 32 ∧ nat w 24 5 = major ∧ schedOf w = q ∧
      nat w 22 2 = x0 ∧
      nat w 16 6 = x1 ∧
      nat w 0 16 = x2 := by
  have h0 := q.gap.isLt
  have h1 := bit_lt q.giveWay
  obtain ⟨w, hw'⟩ : ∃ w, w = wordOf q major (x0 * 4194304 + x1 * 65536 + x2 * 1) := ⟨_, rfl⟩
  have hw : w = q.gap.toNat * 1073741824 + bit q.giveWay * 536870912 + major * 16777216 + (x0 * 4194304 + x1 * 65536 + x2 * 1) := hw'
  refine ⟨w, hw', by omega, by unfold nat; omega, sched_of (by unfold nat; omega) (by unfold nat; omega), by unfold nat; omega, by unfold nat; omega, by unfold nat; omega⟩

theorem fields_22_2_17_4_0_17_21_1 (q : Sched) (major : Nat) (x0 x1 x2 x3 : Nat) (bm : major < 32) (b0 : x0 < 2 ^ 2) (b1 : x1 < 2 ^ 4) (b2 : x2 < 2 ^ 17) (b3 : x3 < 2 ^ 1) :
    ∃ w, w = wordOf q major (x0 * 4194304 + x1 * 131072 + x2 * 1 + x3 * 2097152) ∧ w < 2 ^ 32 ∧ nat w 24 5 = major ∧ schedOf w = q ∧
      nat w 22 2 = x0 ∧
      nat w 17 4 = x1 ∧
      nat w 0 17 = x2 ∧
      nat w 21 1 = x3 := by
  have h0 := q.gap.isLt
  have h1 := bit_lt q.giveWay
  obtain ⟨w, hw'⟩ : ∃ w, w = wordOf q major (x0 * 4194304 + x1 * 131072 + x2 * 1 + x3 * 2097152) := ⟨_, rfl⟩
  have hw : w = q.gap.toNat * 1073741824 + bit q.giveWay * 536870912 + major * 16777216 + (x0 * 4194304 + x1 * 131072 + x2 * 1 + x3 * 2097152) := hw'
  refine ⟨w, hw', by omega, by unfold nat; omega, sched_of (by unfold nat; omega) (by unfold nat; omega), by unfold nat; omega, by unfold nat; omega, by unfold nat; omega, by unfold nat; omega⟩

theorem fields_19_5_0_19 (q : Sched) (major : Nat) (x0 x1 : Nat) (bm : major < 32) (b0 : x0 < 2 ^ 5) (b1 : x1 < 2 ^ 19) :
    ∃ w, w = wordOf q major (x0 * 524288 + x1 * 1) ∧ w < 2 ^ 32 ∧ nat w 24 5 = major ∧ schedOf w = q ∧
      nat w 19 5 = x0 ∧
      nat w 0 19 = x1 := by
  have h0 := q.gap.isLt
  have h1 := bit_lt q.giveWay
  obtain ⟨w, hw'⟩ : ∃ w, w = wordOf q major (x0 * 524288 + x1 * 1) := ⟨_, rfl⟩
  have hw : w = q.gap.toNat * 1073741824 + bit q.giveWay * 536870912 + major * 16777216 + (x0 * 524288 + x1 * 1) := hw'
  refine ⟨w, hw', by omega, by unfold nat; omega, sched_of (by unfold nat; omega) (by unfold nat; omega), by unfold nat; omega, by unfold nat; omega⟩

theorem fields_19_5_15_4_0_8_8_7 (q : Sched) (major : Nat) (x0 x1 x2 x3 : Nat) (bm : major < 32) (b0 : x0 < 2 ^ 5) (b1 : x1 < 2 ^ 4) (b2 : x2 < 2 ^ 8) (b3 : x3 < 2 ^ 7) :
    ∃ w, w = wordOf q major (x0 * 524288 + x1 * 32768 + x2 * 1 + x3 * 256) ∧ w < 2 ^ 32 ∧ nat w 24 5 = major ∧ schedOf w = q ∧
      nat w 19 5 = x0 ∧
      nat w 15 4 = x1 ∧
      nat w 0 8 = x2 ∧
      nat w 8 7 = x3 := by
  have h0 := q.gap.isLt
  have h1 := bit_lt q.giveWay
  obtain ⟨w, hw'⟩ : ∃ w, w = wordOf q major (x0 * 524288 + x1 * 32768 + x2 * 1 + x3 * 256) := ⟨_, rfl⟩
  have hw : w = q.gap.toNat * 1073741824 + bit q.giveWay * 536870912 + major * 16777216 + (x0 * 524288 + x1 * 32768 + x2 * 1 + x3 * 256) := hw'
  refine ⟨w, hw', by omega, by unfold nat; omega, sched_of (by unfold nat; omega) (by unfold nat; omega), by unfold nat; omega, by unfold nat; omega, by unfold nat; omega, by unfold nat; omega⟩

theorem fields_19_5_4_15_0_4 (q : Sched) (major : Nat) (x0 x1 x2 : Nat) (bm : major < 32) (b0 : x0 < 2 ^ 5) (b1 : x1 < 2 ^ 15) (b2 : x2 < 2 ^ 4) :
    ∃ w, w = wordOf q major (x0 * 524288 + x1 * 16 + x2 * 1) ∧ w < 2 ^ 32 ∧ nat w 24 5 = major ∧ schedOf w = q ∧
      nat w 19 5 = x0 ∧
      nat w 4 15 = x1 ∧
      nat w 0 4 = x2 := by
  have h0 := q.gap.isLt
  have h1 := bit_lt q.giveWay
  obtain ⟨w, hw'⟩ : ∃ w, w = wordOf q major (x0 * 524288 + x1 * 16 + x2 * 1) := ⟨_, rfl⟩
  have hw : w = q.gap.toNat * 1073741824 + bit q.giveWay * 536870912 + major * 16777216 + (x0 * 524288 + x1 * 16 + x2 * 1) := hw'
  refine ⟨w, hw', by omega, by unfold nat; omega, sched_of (by unfold nat; omega) (by unfold nat; omega), by unfold nat; omega, by unfold nat; omega, by unfold nat; omega⟩

theorem fields_19_5_13_6_0_8_8_5 (q : Sched) (major : Nat) (x0 x1 x2 x3 : Nat) (bm : major < 32) (b0 : x0 < 2 ^ 5) (b1 : x1 < 2 ^ 6) (b2 : x2 < 2 ^ 8) (b3 : x3 < 2 ^ 5) :
    ∃ w, w = wordOf q major (x0 * 524288 + x1 * 8192 + x2 * 1 + x3 * 256) ∧ w < 2 ^ 32 ∧ nat w 24 5 = major ∧ schedOf w = q ∧
      nat w 19 5 = x0 ∧
      nat w 13 6 = x1 ∧
      nat w 0 8 = x2 ∧
      nat w 8 5 = x3 := by
  have h0 := q.gap.isLt
  have h1 := bit_lt q.giveWay
  obtain ⟨w, hw'⟩ : ∃ w, w = wordOf q major (x0 * 524288 + x1 * 8192 + x2 * 1 + x3 * 256) := ⟨_, rfl⟩
  have hw : w = q.gap.toNat * 1073741824 + bit q.giveWay * 536870912 + major * 16777216 + (x0 * 524288 + x1 * 8192 + x2 * 1 + x3 * 256) := hw'
  refine ⟨w, hw', by omega, by unfold nat; omega, sched_of (by unfold nat; omega) (by unfold nat; omega), by unfold nat; omega, by unfold nat; omega, by unfold nat; omega, by unfold nat; omega⟩

theorem fields_19_5_8_11_0_8 (q : Sched) (major : Nat) (x0 x1 x2 : Nat) (bm : major < 32) (b0 : x0 < 2 ^ 5) (b1 : x1 < 2 ^ 11) (b2 : x2 < 2 ^ 8) :
    ∃ w, w = wordOf q major (x0 * 524288 + x1 * 256 + x2 * 1) ∧ w < 2 ^ 32 ∧ nat w 24 5 = major ∧ schedOf w = q ∧
      nat w 19 5 = x0 ∧
      nat w 8 11 = x1 ∧
      nat w 0 8 = x2 := by
  have h0 := q.gap.isLt
  have h1 := bit_lt q.giveWay
  obtain ⟨w, hw'⟩ : ∃ w, w = wordOf q major (x0 * 524288 + x1 * 256 + x2 * 1) := ⟨_, rfl⟩
  have hw : w = q.gap.toNat * 1073741824 + bit q.giveWay * 536870912 + major * 16777216 + (x0 * 524288 + x1 * 256 + x2 * 1) := hw'
  refine ⟨w, hw', by omega, by unfold nat; omega, sched_of (by unfold nat; omega) (by unfold nat; omega), by unfold nat; omega, by unfold nat; omega, by unfold nat; omega⟩

theorem fieldsHint_20_4_0_20 (x0 x1 : Nat) (b0 : x0 < 2 ^ 4) (b1 : x1 < 2 ^ 20) :
    ∃ w, w = 268435456 + (x0 * 1048576 + x1 * 1) ∧ w < 2 ^ 32 ∧ nat w 24 5 = 16 ∧ nat w 29 3 = 0 ∧
      nat w 20 4 = x0 ∧
      nat w 0 20 = x1 := by
  simp only [nat]; refine ⟨_, rfl, by omega, by omega, by omega, by omega, by omega⟩

theorem fieldsHint_20_4_12_8_0_12 (x0 x1 x2 : Nat) (b0 : x0 < 2 ^ 4) (b1 : x1 < 2 ^ 8) (b2 : x2 < 2 ^ 12) :
    ∃ w, w = 268435456 + (x0 * 1048576 + x1 * 4096 + x2 * 1) ∧ w < 2 ^ 32 ∧ nat w 24 5 = 16 ∧ nat w 29 3 = 0 ∧
      nat w 20 4 = x0 ∧
      nat w 12 8 = x1 ∧
      nat w 0 12 = x2 := by
  simp only [nat]; refine ⟨_, rfl, by omega, by omega, by omega, by omega, by omega, by omega⟩

theorem fieldsHint_20_4_5_15_0_4_4_1 (x0 x1 x2 x3 : Nat) (b0 : x0 < 2 ^ 4) (b1 : x1 < 2 ^ 15) (b2 : x2 < 2 ^ 4) (b3 : x3 < 2 ^ 1) :
    ∃ w, w = 268435456 + (x0 * 1048576 + x1 * 32 + x2 * 1 + x3 * 16) ∧ w < 2 ^ 32 ∧ nat w 24 5 = 16 ∧ nat w 29 3 = 0 ∧
      nat w 20 4 = x0 ∧
      nat w 5 15 = x1 ∧
      nat w 0 4 = x2 ∧
      nat w 4 1 = x3 := by
  simp only [nat]; refine ⟨_, rfl, by omega, by omega, by omega, by omega, by omega, by omega, by omega⟩

theorem fieldsHint_20_4_13_7_9_4_6_2_8_1_5_1_4_1_3_1_2_1_1_1_0_1 (x0 x1 x2 x3 x4 x5 x6 x7 x8 x9 x10 : Nat) (b0 : x0 < 2 ^ 4) (b1 : x1 < 2 ^ 7) (b2 : x2 < 2 ^ 4) (b3 : x3 < 2 ^ 2) (b4 : x4 < 2 ^ 1) (b5 : x5 < 2 ^ 1) (b6 : x6 < 2 ^ 1) (b7 : x7 < 2 ^ 1) (b8 : x8 < 2 ^ 1) (b9 : x9 < 2 ^ 1) (b10 : x10 < 2 ^ 1) :
    ∃ w, w = 268435456 + (x0 * 1048576 + x1 * 8192 + x2 * 512 + x3 * 64 + x4 * 256 + x5 * 32 + x6 * 16 + x7 * 8 + x8 * 4 + x9 * 2 + x10 * 1) ∧ w < 2 ^ 32 ∧ nat w 24 5 = 16 ∧ nat w 29 3 = 0 ∧
      nat w 20 4 = x0 ∧
      nat w 13 7 = x1 ∧
      nat w 9 4 = x2 ∧
      nat w 6 2 = x3 ∧
      nat w 8 1 = x4 ∧
      nat w 5 1 = x5 ∧
      nat w 4 1 = x6 ∧
      nat w 3 1 = x7 ∧
      nat w 2 1 = x8 ∧
      nat w 1 1 = x9 ∧
      nat w 0 1 = x10 := by
  simp only [nat]; refine ⟨_, rfl, by omega, by omega, by omega, by omega, by omega, by omega, by omega, by omega, by omega, by omega, by omega, by omega, by omega, by omega⟩

theorem fieldsHint_20_4_3_17_0_3 (x0 x1 x2 : Nat) (b0 : x0 < 2 ^ 4) (b1 : x1 < 2 ^ 17) (b2 : x2 < 2 ^ 3) :
    ∃ w, w = 268435456 + (x0 * 1048576 + x1 * 8 + x2 * 1) ∧ w < 2 ^ 32 ∧ nat w 24 5 = 16 ∧ nat w 29 3 = 0 ∧
      nat w 20 4 = x0 ∧
      nat w 3 17 = x1 ∧
      nat w 0 3 = x2 := by
  simp only [nat]; refine ⟨_, rfl, by omega, by omega, by omega, by omega, by omega, by omega⟩

theorem fieldsHint_20_4_2_18_0_2 (x0 x1 x2 : Nat) (b0 : x0 < 2 ^ 4) (b1 : x1 < 2 ^ 18) (b2 : x2 < 2 ^ 2) :
    ∃ w, w = 268435456 + (x0 * 1048576 + x1 * 4 + x2 * 1) ∧ w < 2 ^ 32 ∧ nat w 24 5 = 16 ∧ nat w 29 3 = 0 ∧
      nat w 20 4 = x0 ∧
      nat w 2 18 = x1 ∧
      nat w 0 2 = x2 := by
  simp only [nat]; refine ⟨_, rfl, by omega, by omega, by omega, by omega, by omega, by omega⟩

theorem fieldsHint_20_4_8_12_0_8 (x0 x1 x2 : Nat) (b0 : x0 < 2 ^ 4) (b1 : x1 < 2 ^ 12) (b2 : x2 < 2 ^ 8) :
    ∃ w, w = 268435456 + (x0 * 1048576 + x1 * 256 + x2 * 1) ∧ w < 2 ^ 32 ∧ nat w 24 5 = 16 ∧ nat w 29 3 = 0 ∧
      nat w 20 4 = x0 ∧
      nat w 8 12 = x1 ∧
      nat w 0 8 = x2 := by
  simp only [nat]; refine ⟨_, rfl, by omega, by omega, by omega, by omega, by omega, by omega⟩

theorem fields_0_2_2_3_17_7_12_5_5_7 (q : Sched) (major : Nat) (x0 x1 x2 x3 x4 : Nat) (bm : major < 32) (b0 : x0 < 2 ^ 2) (b1 : x1 < 2 ^ 3) (b2 : x2 < 2 ^ 7) (b3 : x3 < 2 ^ 5) (b4 : x4 < 2 ^ 7) :
    ∃ w, w = wordOf q major (x0 * 1 + x1 * 4 + x2 * 131072 + x3 * 4096 + x4 * 32) ∧ w < 2 ^ 32 ∧ nat w 24 5 = major ∧ schedOf w = q ∧
      nat w 0 2 = x0 ∧
      nat w 2 3 = x1 ∧
      nat w 17 7 = x2 ∧
      nat w 12 5 = x3 ∧
      nat w 5 7 = x4 := by
  have h0 := q.gap.isLt
  have h1 := bit_lt q.giveWay
  obtain ⟨w, hw'⟩ : ∃ w, w = wordOf q major (x0 * 1 + x1 * 4 + x2 * 131072 + x3 * 4096 + x4 * 32) := ⟨_, rfl⟩
  have hw : w = q.gap.toNat * 1073741824 + bit q.giveWay * 536870912 + major * 16777216 + (x0 * 1 + x1 * 4 + x2 * 131072 + x3 * 4096 + x4 * 32) := hw'
  refine ⟨w, hw', by omega, by unfold nat; omega, sched_of (by unfold nat; omega) (by unfold nat; omega), by unfold nat; omega, by unfold nat; omega, by unfold nat; omega, by unfold nat; omega, by unfold nat; omega⟩

theorem fields_0_1_20_4_13_7_6_7_1_5 (q : Sched) (major : Nat) (x0 x1 x2 x3 x4 : Nat) (bm : major < 32) (b0 : x0 < 2 ^ 1) (b1 : x1 < 2 ^ 4) (b2 : x2 < 2 ^ 7) (b3 : x3 < 2 ^ 7) (b4 : x4 < 2 ^ 5) :
    ∃ w, w = wordOf q major (x0 * 1 + x1 * 1048576 + x2 * 8192 + x3 * 64 + x4 * 2) ∧ w < 2 ^ 32 ∧ nat w 24 5 = major ∧ schedOf w = q ∧
      nat w 0 1 = x0 ∧
      nat w 20 4 = x1 ∧
      nat w 13 7 = x2 ∧
      nat w 6 7 = x3 ∧
      nat w 1 5 = x4 := by
  have h0 := q.gap.isLt
  have h1 := bit_lt q.giveWay
  obtain ⟨w, hw'⟩ : ∃ w, w = wordOf q major (x0 * 1 + x1 * 1048576 + x2 * 8192 + x3 * 64 + x4 * 2) := ⟨_, rfl⟩
  have hw : w = q.gap.toNat * 1073741824 + bit q.giveWay * 536870912 + major * 16777216 + (x0 * 1 + x1 * 1048576 + x2 * 8192 + x3 * 64 + x4 * 2) := hw'
  refine ⟨w, hw', by omega, by unfold nat; omega, sched_of (by unfold nat; omega) (by unfold nat; omega), by unfold nat; omega, by unfold nat; omega, by unfold nat; omega, by unfold nat; omega, by unfold nat; omega⟩

theorem fields_21_3_9_1_15_6_10_5_0_8_8_1 (q : Sched) (major : Nat) (x0 x1 x2 x3 x4 x5 : Nat) (bm : major < 32) (b0 : x0 < 2 ^ 3) (b1 : x1 < 2 ^ 1) (b2 : x2 < 2 ^ 6) (b3 : x3 < 2 ^ 5) (b4 : x4 < 2 ^ 8) (b5 : x5 < 2 ^ 1) :
    ∃ w, w = wordOf q major (x0 * 2097152 + x1 * 512 + x2 * 32768 + x3 * 1024 + x4 * 1 + x5 * 256) ∧ w < 2 ^ 32 ∧ nat w 24 5 = major ∧ schedOf w = q ∧
      nat w 21 3 = x0 ∧
      nat w 9 1 = x1 ∧
      nat w 15 6 = x2 ∧
      nat w 10 5 = x3 ∧
      nat w 0 8 = x4 ∧
      nat w 8 1 = x5 := by
  have h0 := q.gap.isLt
  have h1 := bit_lt q.giveWay
  obtain ⟨w, hw'⟩ : ∃ w, w = wordOf q major (x0 * 2097152 + x1 * 512 + x2 * 32768 + x3 * 1024 + x4 * 1 + x5 * 256) := ⟨_, rfl⟩
  have hw : w = q.gap.toNat * 1073741824 + bit q.giveWay * 536870912 + major * 16777216 + (x0 * 2097152 + x1 * 512 + x2 * 32768 + x3 * 1024 + x4 * 1 + x5 * 256) := hw'
  refine ⟨w, hw', by omega, by unfold nat; omega, sched_of (by unfold nat; omega) (by unfold nat; omega), by unfold nat; omega, by unfold nat; omega, by unfold nat; omega, by unfold nat; omega, by unfold nat; omega, by unfold nat; omega⟩

theorem fields_21_3_9_1_4_4_0_4_15_6_10_5_8_1 (q : Sched) (major : Nat) (x0 x1 x2 x3 x4 x5 x6 : Nat) (bm : major < 32) (b0 : x0 < 2 ^ 3) (b1 : x1 < 2 ^ 1) (b2 : x2 < 2 ^ 4) (b3 : x3 < 2 ^ 4) (b4 : x4 < 2 ^ 6) (b5 : x5 < 2 ^ 5) (b6 : x6 < 2 ^ 1) :
    ∃ w, w = wordOf q major (x0 * 2097152 + x1 * 512 + x2 * 16 + x3 * 1 + x4 * 32768 + x5 * 1024 + x6 * 256) ∧ w < 2 ^ 32 ∧ nat w 24 5 = major ∧ schedOf w = q ∧
      nat w 21 3 = x0 ∧
      nat w 9 1 = x1 ∧
      nat w 4 4 = x2 ∧
      nat w 0 4 = x3 ∧
      nat w 15 6 = x4 ∧
      nat w 10 5 = x5 ∧
      nat w 8 1 = x6 := by
  have h0 := q.gap.isLt
  have h1 := bit_lt q.giveWay
  obtain ⟨w, hw'⟩ : ∃ w, w = wordOf q major (x0 * 2097152 + x1 * 512 + x2 * 16 + x3 * 1 + x4 * 32768 + x5 * 1024 + x6 * 256) := ⟨_, rfl⟩
  have hw : w = q.gap.toNat * 1073741824 + bit q.giveWay * 536870912 + major * 16777216 + (x0 * 2097152 + x1 * 512 + x2 * 16 + x3 * 1 + x4 * 32768 + x5 * 1024 + x6 * 256) := hw'
  refine ⟨w, hw', by omega, by unfold nat; omega, sched_of (by unfold nat; omega) (by unfold nat; omega), by unfold nat; omega, by unfold nat; omega, by unfold nat; omega, by unfold nat; omega, by unfold nat; omega, by unfold nat; omega, by unfold nat; omega⟩

theorem fields_21_3_9_1_0_8_15_6_10_5_8_1 (q : Sched) (major : Nat) (x0 x1 x2 x3 x4 x5 : Nat) (bm : major < 32) (b0 : x0 < 2 ^ 3) (b1 : x1 < 2 ^ 1) (b2 : x2 < 2 ^ 8) (b3 : x3 < 2 ^ 6) (b4 : x4 < 2 ^ 5) (b5 : x5 < 2 ^ 1) :
    ∃ w, w = wordOf q major (x0 * 2097152 + x1 * 512 + x2 * 1 + x3 * 32768 + x4 * 1024 + x5 * 256) ∧ w < 2 ^ 32 ∧ nat w 24 5 = major ∧ schedOf w = q ∧
      nat w 21 3 = x0 ∧
      nat w 9 1 = x1 ∧
      nat w 0 8 = x2 ∧
      nat w 15 6 = x3 ∧
      nat w 10 5 = x4 ∧
      nat w 8 1 = x5 := by
  have h0 := q.gap.isLt
  have h1 := bit_lt q.giveWay
  obtain ⟨w, hw'⟩ : ∃ w, w = wordOf q major (x0 * 2097152 + x1 * 512 + x2 * 1 + x3 * 32768 + x4 * 1024 + x5 * 256) := ⟨_, rfl⟩
  have hw : w = q.gap.toNat * 1073741824 + bit q.giveWay * 536870912 + major * 16777216 + (x0 * 2097152 + x1 * 512 + x2 * 1 + x3 * 32768 + x4 * 1024 + x5 * 256) := hw'
  refine ⟨w, hw', by omega, by unfold nat; omega, sched_of (by unfold nat; omega) (by unfold nat; omega), by unfold nat; omega, by unfold nat; omega, by unfold nat; omega, by unfold nat; omega, by unfold nat; omega, by unfold nat; omega⟩

theorem fields_20_4_7_7_14_6_0_7 (q : Sched) (major : Nat) (x0 x1 x2 x3 : Nat) (bm : major < 32) (b0 : x0 < 2 ^ 4) (b1 : x1 < 2 ^ 7) (b2 : x2 < 2 ^ 6) (b3 : x3 < 2 ^ 7) :
    ∃ w, w = wordOf q major (x0 * 1048576 + x1 * 128 + x2 * 16384 + x3 * 1) ∧ w < 2 ^ 32 ∧ nat w 24 5 = major ∧ schedOf w = q ∧
      nat w 20 4 = x0 ∧
      nat w 7 7 = x1 ∧
      nat w 14 6 = x2 ∧
      nat w 0 7 = x3 := by
  have h0 := q.gap.isLt
  have h1 := bit_lt q.giveWay
  obtain ⟨w, hw'⟩ : ∃ w, w = wordOf q major (x0 * 1048576 + x1 * 128 + x2 * 16384 + x3 * 1) := ⟨_, rfl⟩
  have hw : w = q.gap.toNat * 1073741824 + bit q.giveWay * 536870912 + major * 16777216 + (x0 * 1048576 + x1 * 128 + x2 * 16384 + x3 * 1) := hw'
  refine ⟨w, hw', by omega, by unfold nat; omega, sched_of (by unfold nat; omega) (by unfold nat; omega), by unfold nat; omega, by unfold nat; omega, by unfold nat; omega, by unfold nat; omega⟩

theorem fields_20_4_13_1_14_6_7_6_0_7 (q : Sched) (major : Nat) (x0 x1 x2 x3 x4 : Nat) (bm : major < 32) (b0 : x0 < 2 ^ 4) (b1 : x1 < 2 ^ 1) (b2 : x2 < 2 ^ 6) (b3 : x3 < 2 ^ 6) (b4 : x4 < 2 ^ 7) :
    ∃ w, w = wordOf q major (x0 * 1048576 + x1 * 8192 + x2 * 16384 + x3 * 128 + x4 * 1) ∧ w < 2 ^ 32 ∧ nat w 24 5 = major ∧ schedOf w = q ∧
      nat w 20 4 = x0 ∧
      nat w 13 1 = x1 ∧
      nat w 14 6 = x2 ∧
      nat w 7 6 = x3 ∧
      nat w 0 7 = x4 := by
  have h0 := q.gap.isLt
  have h1 := bit_lt q.giveWay
  obtain ⟨w, hw'⟩ : ∃ w, w = wordOf q major (x0 * 1048576 + x1 * 8192 + x2 * 16384 + x3 * 128 + x4 * 1) := ⟨_, rfl⟩
  have hw : w = q.gap.toNat * 1073741824 + bit q.giveWay * 536870912 + major * 16777216 + (x0 * 1048576 + x1 * 8192 + x2 * 16384 + x3 * 128 + x4 * 1) := hw'
  refine ⟨w, hw', by omega, by unfold nat; omega, sched_of (by unfold nat; omega) (by unfold nat; omega), by unfold nat; omega, by unfold nat; omega, by unfold nat; omega, by unfold nat; omega, by unfold nat; omega⟩

theorem fields_20_4_6_1_14_6_7_7_0_6 (q : Sched) (major : Nat) (x0 x1 x2 x3 x4 : Nat) (bm : major < 32) (b0 : x0 < 2 ^ 4) (b1 : x1 < 2 ^ 1) (b2 : x2 < 2 ^ 6) (b3 : x3 < 2 ^ 7) (b4 : x4 < 2 ^ 6) :
    ∃ w, w = wordOf q major (x0 * 1048576 + x1 * 64 + x2 * 16384 + x3 * 128 + x4 * 1) ∧ w < 2 ^ 32 ∧ nat w 24 5 = major ∧ schedOf w = q ∧
      nat w 20 4 = x0 ∧
      nat w 6 1 = x1 ∧
      nat w 14 6 = x2 ∧
      nat w 7 7 = x3 ∧
      nat w 0 6 = x4 := by
  have h0 := q.gap.isLt
  have h1 := bit_lt q.giveWay
  obtain ⟨w, hw'⟩ : ∃ w, w = wordOf q major (x0 * 1048576 + x1 * 64 + x2 * 16384 + x3 * 128 + x4 * 1) := ⟨_, rfl⟩
  have hw : w = q.gap.toNat * 1073741824 + bit q.giveWay * 536870912 + major * 16777216 + (x0 * 1048576 + x1 * 64 + x2 * 16384 + x3 * 128 + x4 * 1) := hw'
  refine ⟨w, hw', by omega, by unfold nat; omega, sched_of (by unfold nat; omega) (by unfold nat; omega), by unfold nat; omega, by unfold nat; omega, by unfold nat; omega, by unfold nat; omega, by unfold nat; omega⟩

theorem fields_20_4_14_6_7_7_0_7 (q : Sched) (major : Nat) (x0 x1 x2 x3 : Nat) (bm : major < 32) (b0 : x0 < 2 ^ 4) (b1 : x1 < 2 ^ 6) (b2 : x2 < 2 ^ 7) (b3 : x3 < 2 ^ 7) :
    ∃ w, w = wordOf q major (x0 * 1048576 + x1 * 16384 + x2 * 128 + x3 * 1) ∧ w < 2 ^ 32 ∧ nat w 24 5 = major ∧ schedOf w = q ∧
      nat w 20 4 = x0 ∧
      nat w 14 6 = x1 ∧
      nat w 7 7 = x2 ∧
      nat w 0 7 = x3 := by
  have h0 := q.gap.isLt
  have h1 := bit_lt q.giveWay
  obtain ⟨w, hw'⟩ : ∃ w, w = wordOf q major (x0 * 1048576 + x1 * 16384 + x2 * 128 + x3 * 1) := ⟨_, rfl⟩
  have hw : w = q.gap.toNat * 1073741824 + bit q.giveWay * 536870912 + major * 16777216 + (x0 * 1048576 + x1 * 16384 + x2 * 128 + x3 * 1) := hw'
  refine ⟨w, hw', by omega, by unfold nat; omega, sched_of (by unfold nat; omega) (by unfold nat; omega), by unfold nat; omega, by unfold nat; omega, by unfold nat; omega, by unfold nat; omega⟩

theorem fields_20_4_18_2_7_7_14_4_0_7 (q : Sched) (major : Nat) (x0 x1 x2 x3 x4 : Nat) (bm : major < 32) (b0 : x0 < 2 ^ 4) (b1 : x1 < 2 ^ 2) (b2 : x2 < 2 ^ 7) (b3 : x3 < 2 ^ 4) (b4 : x4 < 2 ^ 7) :
    ∃ w, w = wordOf q major (x0 * 1048576 + x1 * 262144 + x2 * 128 + x3 * 16384 + x4 * 1) ∧ w < 2 ^ 32 ∧ nat w 24 5 = major ∧ schedOf w = q ∧
      nat w 20 4 = x0 ∧
      nat w 18 2 = x1 ∧
      nat w 7 7 = x2 ∧
      nat w 14 4 = x3 ∧
      nat w 0 7 = x4 := by
  have h0 := q.gap.isLt
  have h1 := bit_lt q.giveWay
  obtain ⟨w, hw'⟩ : ∃ w, w = wordOf q major (x0 * 1048576 + x1 * 262144 + x2 * 128 + x3 * 16384 + x4 * 1) := ⟨_, rfl⟩
  have hw : w = q.gap.toNat * 1073741824 + bit q.giveWay * 536870912 + major * 16777216 + (x0 * 1048576 + x1 * 262144 + x2 * 128 + x3 * 16384 + x4 * 1) := hw'
  refine ⟨w, hw', by omega, by unfold nat; omega, sched_of (by unfold nat; omega) (by unfold nat; omega), by unfold nat; omega, by unfold nat; omega, by unfold nat; omega, by unfold nat; omega, by unfold nat; omega⟩

theorem fields_20_4_11_3_7_3_14_6_0_7_10_1 (q : Sched) (major : Nat) (x0 x1 x2 x3 x4 x5 : Nat) (bm : major < 32) (b0 : x0 < 2 ^ 4) (b1 : x1 < 2 ^ 3) (b2 : x2 < 2 ^ 3) (b3 : x3 < 2 ^ 6) (b4 : x4 < 2 ^ 7) (b5 : x5 < 2 ^ 1) :
    ∃ w, w = wordOf q major (x0 * 1048576 + x1 * 2048 + x2 * 128 + x3 * 16384 + x4 * 1 + x5 * 1024) ∧ w < 2 ^ 32 ∧ nat w 24 5 = major ∧ schedOf w = q ∧
      nat w 20 4 = x0 ∧
      nat w 11 3 = x1 ∧
      nat w 7 3 = x2 ∧
      nat w 14 6 = x3 ∧
      nat w 0 7 = x4 ∧
      nat w 10 1 = x5 := by
  have h0 := q.gap.isLt
  have h1 := bit_lt q.giveWay
  obtain ⟨w, hw'⟩ : ∃ w, w = wordOf q major (x0 * 1048576 + x1 * 2048 + x2 * 128 + x3 * 16384 + x4 * 1 + x5 * 1024) := ⟨_, rfl⟩
  have hw : w = q.gap.toNat * 1073741824 + bit q.giveWay * 536870912 + major * 16777216 + (x0 * 1048576 + x1 * 2048 + x2 * 128 + x3 * 16384 + x4 * 1 + x5 * 1024) := hw'
  refine ⟨w, hw', by omega, by unfold nat; omega, sched_of (by unfold nat; omega) (by unfold nat; omega), by unfold nat; omega, by unfold nat; omega, by unfold nat; omega, by unfold nat; omega, by unfold nat; omega, by unfold nat; omega⟩

theorem fields_20_4_19_1_14_3_7_7_0_7_18_1_17_1 (q : Sched) (major : Nat) (x0 x1 x2 x3 x4 x5 x6 : Nat) (bm : major < 32) (b0 : x0 < 2 ^ 4) (b1 : x1 < 2 ^ 1) (b2 : x2 < 2 ^ 3) (b3 : x3 < 2 ^ 7) (b4 : x4 < 2 ^ 7) (b5 : x5 < 2 ^ 1) (b6 : x6 < 2 ^ 1) :
    ∃ w, w = wordOf q major (x0 * 1048576 + x1 * 524288 + x2 * 16384 + x3 * 128 + x4 * 1 + x5 * 262144 + x6 * 131072) ∧ w < 2 ^ 32 ∧ nat w 24 5 = major ∧ schedOf w = q ∧
      nat w 20 4 = x0 ∧
      nat w 19 1 = x1 ∧
      nat w 14 3 = x2 ∧
      nat w 7 7 = x3 ∧
      nat w 0 7 = x4 ∧
      nat w 18 1 = x5 ∧
      nat w 17 1 = x6 := by
  have h0 := q.gap.isLt
  have h1 := bit_lt q.giveWay
  obtain ⟨w, hw'⟩ : ∃ w, w = wordOf q major (x0 * 1048576 + x1 * 524288 + x2 * 16384 + x3 * 128 + x4 * 1 + x5 * 262144 + x6 * 131072) := ⟨_, rfl⟩
  have hw : w = q.gap.toNat * 1073741824 + bit q.giveWay * 536870912 + major * 16777216 + (x0 * 1048576 + x1 * 524288 + x2 * 16384 + x3 * 128 + x4 * 1 + x5 * 262144 + x6 * 131072) := hw'
  refine ⟨w, hw', by omega, by unfold nat; omega, sched_of (by unfold nat; omega) (by unfold nat; omega), by unfold nat; omega, by unfold nat; omega, by unfold nat; omega, by unfold nat; omega, by unfold nat; omega, by unfold nat; omega, by unfold nat; omega⟩

theorem fields_20_4_4_4_14_6_8_6_0_4 (q : Sched) (major : Nat) (x0 x1 x2 x3 x4 : Nat) (bm : major < 32) (b0 : x0 < 2 ^ 4) (b1 : x1 < 2 ^ 4) (b2 : x2 < 2 ^ 6) (b3 : x3 < 2 ^ 6) (b4 : x4 < 2 ^ 4) :
    ∃ w, w = wordOf q major (x0 * 1048576 + x1 * 16 + x2 * 16384 + x3 * 256 + x4 * 1) ∧ w < 2 ^ 32 ∧ nat w 24 5 = major ∧ schedOf w = q ∧
      nat w 20 4 = x0 ∧
      nat w 4 4 = x1 ∧
      nat w 14 6 = x2 ∧
      nat w 8 6 = x3 ∧
      nat w 0 4 = x4 := by
  have h0 := q.gap.isLt
  have h1 := bit_lt q.giveWay
  obtain ⟨w, hw'⟩ : ∃ w, w = wordOf q major (x0 * 1048576 + x1 * 16 + x2 * 16384 + x3 * 256 + x4 * 1) := ⟨_, rfl⟩
  have hw : w = q.gap.toNat * 1073741824 + bit q.giveWay * 536870912 + major * 16777216 + (x0 * 1048576 + x1 * 16 + x2 * 16384 + x3 * 256 + x4 * 1) := hw'
  refine ⟨w, hw', by omega, by unfold nat; omega, sched_of (by unfold nat; omega) (by unfold nat; omega), by unfold nat; omega, by unfold nat; omega, by unfold nat; omega, by unfold nat; omega, by unfold nat; omega⟩

theorem fields_20_4_5_15_3_2_0_3 (q : Sched) (major : Nat) (x0 x1 x2 x3 : Nat) (bm : major < 32) (b0 : x0 < 2 ^ 4) (b1 : x1 < 2 ^ 15) (b2 : x2 < 2 ^ 2) (b3 : x3 < 2 ^ 3) :
    ∃ w, w = wordOf q major (x0 * 1048576 + x1 * 32 + x2 * 8 + x3 * 1) ∧ w < 2 ^ 32 ∧ nat w 24 5 = major ∧ schedOf w = q ∧
      nat w 20 4 = x0 ∧
      nat w 5 15 = x1 ∧
      nat w 3 2 = x2 ∧
      nat w 0 3 = x3 := by
  have h0 := q.gap.isLt
  have h1 := bit_lt q.giveWay
  obtain ⟨w, hw'⟩ : ∃ w, w = wordOf q major (x0 * 1048576 + x1 * 32 + x2 * 8 + x3 * 1) := ⟨_, rfl⟩
  have hw : w = q.gap.toNat * 1073741824 + bit q.giveWay * 536870912 + major * 16777216 + (x0 * 1048576 + x1 * 32 + x2 * 8 + x3 * 1) := hw'
  refine ⟨w, hw', by omega, by unfold nat; omega, sched_of (by unfold nat; omega) (by unfold nat; omega), by unfold nat; omega, by unfold nat; omega, by unfold nat; omega, by unfold nat; omega⟩

theorem fields_20_4_6_14_0_6 (q : Sched) (major : Nat) (x0 x1 x2 : Nat) (bm : major < 32) (b0 : x0 < 2 ^ 4) (b1 : x1 < 2 ^ 14) (b2 : x2 < 2 ^ 6) :
    ∃ w, w = wordOf q major (x0 * 1048576 + x1 * 64 + x2 * 1) ∧ w < 2 ^ 32 ∧ nat w 24 5 = major ∧ schedOf w = q ∧
      nat w 20 4 = x0 ∧
      nat w 6 14 = x1 ∧
      nat w 0 6 = x2 := by
  have h0 := q.gap.isLt
  have h1 := bit_lt q.giveWay
  obtain ⟨w, hw'⟩ : ∃ w, w = wordOf q major (x0 * 1048576 + x1 * 64 + x2 * 1) := ⟨_, rfl⟩
  have hw : w = q.gap.toNat * 1073741824 + bit q.giveWay * 536870912 + major * 16777216 + (x0 * 1048576 + x1 * 64 + x2 * 1) := hw'
  refine ⟨w, hw', by omega, by unfold nat; omega, sched_of (by unfold nat; omega) (by unfold nat; omega), by unfold nat; omega, by unfold nat; omega, by unfold nat; omega⟩

theorem fields_20_4_0_20 (q : Sched) (major : Nat) (x0 x1 : Nat) (bm : major < 32) (b0 : x0 < 2 ^ 4) (b1 : x1 < 2 ^ 20) :
    ∃ w, w = wordOf q major (x0 * 1048576 + x1 * 1) ∧ w < 2 ^ 32 ∧ nat w 24 5 = major ∧ schedOf w = q ∧
      nat w 20 4 = x0 ∧
      nat w 0 20 = x1 := by
  have h0 := q.gap.isLt
  have h1 := bit_lt q.giveWay
  obtain ⟨w, hw'⟩ : ∃ w, w = wordOf q major (x0 * 1048576 + x1 * 1) := ⟨_, rfl⟩
  have hw : w = q.gap.toNat * 1073741824 + bit q.giveWay * 536870912 + major * 16777216 + (x0 * 1048576 + x1 * 1) := hw'
  refine ⟨w, hw', by omega, by unfold nat; omega, sched_of (by unfold nat; omega) (by unfold nat; omega), by unfold nat; omega, by unfold nat; omega⟩

theorem fields_20_4_14_6_0_8_8_6 (q : Sched) (major : Nat) (x0 x1 x2 x3 : Nat) (bm : major < 32) (b0 : x0 < 2 ^ 4) (b1 : x1 < 2 ^ 6) (b2 : x2 < 2 ^ 8) (b3 : x3 < 2 ^ 6) :
    ∃ w, w = wordOf q major (x0 * 1048576 + x1 * 16384 + x2 * 1 + x3 * 256) ∧ w < 2 ^ 32 ∧ nat w 24 5 = major ∧ schedOf w = q ∧
      nat w 20 4 = x0 ∧
      nat w 14 6 = x1 ∧
      nat w 0 8 = x2 ∧
      nat w 8 6 = x3 := by
  have h0 := q.gap.isLt
  have h1 := bit_lt q.giveWay
  obtain ⟨w, hw'⟩ : ∃ w, w = wordOf q major (x0 * 1048576 + x1 * 16384 + x2 * 1 + x3 * 256) := ⟨_, rfl⟩
  have hw : w = q.gap.toNat * 1073741824 + bit q.giveWay * 536870912 + major * 16777216 + (x0 * 1048576 + x1 * 16384 + x2 * 1 + x3 * 256) := hw'
  refine ⟨w, hw', by omega, by unfold nat; omega, sched_of (by unfold nat; omega) (by unfold nat; omega), by unfold nat; omega, by unfold nat; omega, by unfold nat; omega, by unfold nat; omega⟩

theorem fields_20_4_6_2_14_6_8_6_0_6 (q : Sched) (major : Nat) (x0 x1 x2 x3 x4 : Nat) (bm : major < 32) (b0 : x0 < 2 ^ 4) (b1 : x1 < 2 ^ 2) (b2 : x2 < 2 ^ 6) (b3 : x3 < 2 ^ 6) (b4 : x4 < 2 ^ 6) :
    ∃ w, w = wordOf q major (x0 * 1048576 + x1 * 64 + x2 * 16384 + x3 * 256 + x4 * 1) ∧ w < 2 ^ 32 ∧ nat w 24 5 = major ∧ schedOf w = q ∧
      nat w 20 4 = x0 ∧
      nat w 6 2 = x1 ∧
      nat w 14 6 = x2 ∧
      nat w 8 6 = x3 ∧
      nat w 0 6 = x4 := by
  have h0 := q.gap.isLt
  have h1 := bit_lt q.giveWay
  obtain ⟨w, hw'⟩ : ∃ w, w = wordOf q major (x0 * 1048576 + x1 * 64 + x2 * 16384 + x3 * 256 + x4 * 1) := ⟨_, rfl⟩
  have hw : w = q.gap.toNat * 1073741824 + bit q.giveWay * 536870912 + major * 16777216 + (x0 * 1048576 + x1 * 64 + x2 * 16384 + x3 * 256 + x4 * 1) := hw'
  refine ⟨w, hw', by omega, by unfold nat; omega, sched_of (by unfold nat; omega) (by unfold nat; omega), by unfold nat; omega, by unfold nat; omega, by unfold nat; omega, by unfold nat; omega, by unfold nat; omega⟩

theorem fields_20_4_14_6_6_2_8_6_0_6 (q : Sched) (major : Nat) (x0 x1 x2 x3 x4 : Nat) (bm : major < 32) (b0 : x0 < 2 ^ 4) (b1 : x1 < 2 ^ 6) (b2 : x2 < 2 ^ 2) (b3 : x3 < 2 ^ 6) (b4 : x4 < 2 ^ 6) :
    ∃ w, w = wordOf q major (x0 * 1048576 + x1 * 16384 + x2 * 64 + x3 * 256 + x4 * 1) ∧ w < 2 ^ 32 ∧ nat w 24 5 = major ∧ schedOf w = q ∧
      nat w 20 4 = x0 ∧
      nat w 14 6 = x1 ∧
      nat w 6 2 = x2 ∧
      nat w 8 6 = x3 ∧
      nat w 0 6 = x4 := by
  have h0 := q.gap.isLt
  have h1 := bit_lt q.giveWay
  obtain ⟨w, hw'⟩ : ∃ w, w = wordOf q major (x0 * 1048576 + x1 * 16384 + x2 * 64 + x3 * 256 + x4 * 1) := ⟨_, rfl⟩
  have hw : w = q.gap.toNat * 1073741824 + bit q.giveWay * 536870912 + major * 16777216 + (x0 * 1048576 + x1 * 16384 + x2 * 64 + x3 * 256 + x4 * 1) := hw'
  refine ⟨w, hw', by omega, by unfold nat; omega, sched_of (by unfold nat; omega) (by unfold nat; omega), by unfold nat; omega, by unfold nat; omega, by unfold nat; omega, by unfold nat; omega, by unfold nat; omega⟩

theorem fields_20_4_14_6_2_6_0_2_8_6 (q : Sched) (major : Nat) (x0 x1 x2 x3 x4 : Nat) (bm : major < 32) (b0 : x0 < 2 ^ 4) (b1 : x1 < 2 ^ 6) (b2 : x2 < 2 ^ 6) (b3 : x3 < 2 ^ 2) (b4 : x4 < 2 ^ 6) :
    ∃ w, w = wordOf q major (x0 * 1048576 + x1 * 16384 + x2 * 4 + x3 * 1 + x4 * 256) ∧ w < 2 ^ 32 ∧ nat w 24 5 = major ∧ schedOf w = q ∧
      nat w 20 4 = x0 ∧
      nat w 14 6 = x1 ∧
      nat w 2 6 = x2 ∧
      nat w 0 2 = x3 ∧
      nat w 8 6 = x4 := by
  have h0 := q.gap.isLt
  have h1 := bit_lt q.giveWay
  obtain ⟨w, hw'⟩ : ∃ w, w = wordOf q major (x0 * 1048576 + x1 * 16384 + x2 * 4 + x3 * 1 + x4 * 256) := ⟨_, rfl⟩
  have hw : w = q.gap.toNat * 1073741824 + bit q.giveWay * 536870912 + major * 16777216 + (x0 * 1048576 + x1 * 16384 + x2 * 4 + x3 * 1 + x4 * 256) := hw'
  refine ⟨w, hw', by omega, by unfold nat; omega, sched_of (by unfold nat; omega) (by unfold nat; omega), by unfold nat; omega, by unfold nat; omega, by unfold nat; omega, by unfold nat; omega, by unfold nat; omega⟩

theorem fields_20_4_0_14_14_6 (q : Sched) (major : Nat) (x0 x1 x2 : Nat) (bm : major < 32) (b0 : x0 < 2 ^ 4) (b1 : x1 < 2 ^ 14) (b2 : x2 < 2 ^ 6) :
    ∃ w, w = wordOf q major (x0 * 1048576 + x1 * 1 + x2 * 16384) ∧ w < 2 ^ 32 ∧ nat w 24 5 = major ∧ schedOf w = q ∧
      nat w 20 4 = x0 ∧
      nat w 0 14 = x1 ∧
      nat w 14 6 = x2 := by
  have h0 := q.gap.isLt
  have h1 := bit_lt q.giveWay
  obtain ⟨w, hw'⟩ : ∃ w, w = wordOf q major (x0 * 1048576 + x1 * 1 + x2 * 16384) := ⟨_, rfl⟩
  have hw : w = q.gap.toNat * 1073741824 + bit q.giveWay * 536870912 + major * 16777216 + (x0 * 1048576 + x1 * 1 + x2 * 16384) := hw'
  refine ⟨w, hw', by omega, by unfold nat; omega, sched_of (by unfold nat; omega) (by unfold nat; omega), by unfold nat; omega, by unfold nat; omega, by unfold nat; omega⟩

theorem fields_20_4_4_16_0_4 (q : Sched) (major : Nat) (x0 x1 x2 : Nat) (bm : major < 32) (b0 : x0 < 2 ^ 4) (b1 : x1 < 2 ^ 16) (b2 : x2 < 2 ^ 4) :
    ∃ w, w = wordOf q major (x0 * 1048576 + x1 * 16 + x2 * 1) ∧ w < 2 ^ 32 ∧ nat w 24 5 = major ∧ schedOf w = q ∧
      nat w 20 4 = x0 ∧
      nat w 4 16 = x1 ∧
      nat w 0 4 = x2 := by
  have h0 := q.gap.isLt
  have h1 := bit_lt q.giveWay
  obtain ⟨w, hw'⟩ : ∃ w, w = wordOf q major (x0 * 1048576 + x1 * 16 + x2 * 1) := ⟨_, rfl⟩
  have hw : w = q.gap.toNat * 1073741824 + bit q.giveWay * 536870912 + major * 16777216 + (x0 * 1048576 + x1 * 16 + x2 * 1) := hw'
  refine ⟨w, hw', by omega, by unfold nat; omega, sched_of (by unfold nat; omega) (by unfold nat; omega), by unfold nat; omega, by unfold nat; omega, by unfold nat; omega⟩

theorem fields_20_4_7_13_0_7 (q : Sched) (major : Nat) (x0 x1 x2 : Nat) (bm : major < 32) (b0 : x0 < 2 ^ 4) (b1 : x1 < 2 ^ 13) (b2 : x2 < 2 ^ 7) :
    ∃ w, w = wordOf q major (x0 * 1048576 + x1 * 128 + x2 * 1) ∧ w < 2 ^ 32 ∧ nat w 24 5 = major ∧ schedOf w = q ∧
      nat w 20 4 = x0 ∧
      nat w 7 13 = x1 ∧
      nat w 0 7 = x2 := by
  have h0 := q.gap.isLt
  have h1 := bit_lt q.giveWay
  obtain ⟨w, hw'⟩ : ∃ w, w = wordOf q major (x0 * 1048576 + x1 * 128 + x2 * 1) := ⟨_, rfl⟩
  have hw : w = q.gap.toNat * 1073741824 + bit q.giveWay * 536870912 + major * 16777216 + (x0 * 1048576 + x1 * 128 + x2 * 1) := hw'
  refine ⟨w, hw', by omega, by unfold nat; omega, sched_of (by unfold nat; omega) (by unfold nat; omega), by unfold nat; omega, by unfold nat; omega, by unfold nat; omega⟩

theorem fields_20_4_0_8_8_6_14_6 (q : Sched) (major : Nat) (x0 x1 x2 x3 : Nat) (bm : major < 32) (b0 : x0 < 2 ^ 4) (b1 : x1 < 2 ^ 8) (b2 : x2 < 2 ^ 6) (b3 : x3 < 2 ^ 6) :
    ∃ w, w = wordOf q major (x0 * 1048576 + x1 * 1 + x2 * 256 + x3 * 16384) ∧ w < 2 ^ 32 ∧ nat w 24 5 = major ∧ schedOf w = q ∧
      nat w 20 4 = x0 ∧
      nat w 0 8 = x1 ∧
      nat w 8 6 = x2 ∧
      nat w 14 6 = x3 := by
  have h0 := q.gap.isLt
  have h1 := bit_lt q.giveWay
  obtain ⟨w, hw'⟩ : ∃ w, w = wordOf q major (x0 * 1048576 + x1 * 1 + x2 * 256 + x3 * 16384) := ⟨_, rfl⟩
  have hw : w = q.gap.toNat * 1073741824 + bit q.giveWay * 536870912 + major * 16777216 + (x0 * 1048576 + x1 * 1 + x2 * 256 + x3 * 16384) := hw'
  refine ⟨w, hw', by omega, by unfold nat; omega, sched_of (by unfold nat; omega) (by unfold nat; omega), by unfold nat; omega, by unfold nat; omega, by unfold nat; omega, by unfold nat; omega⟩

theorem fields_22_2_8_8_16_6_0_8 (q : Sched) (major : Nat) (x0 x1 x2 x3 : Nat) (bm : major < 32) (b0 : x0 < 2 ^ 2) (b1 : x1 < 2 ^ 8) (b2 : x2 < 2 ^ 6) (b3 : x3 < 2 ^ 8) :
    ∃ w, w = wordOf q major (x0 * 4194304 + x1 * 256 + x2 * 65536 + x3 * 1) ∧ w < 2 ^ 32 ∧ nat w 24 5 = major ∧ schedOf w = q ∧
      nat w 22 2 = x0 ∧
      nat w 8 8 = x1 ∧
      nat w 16 6 = x2 ∧
      nat w 0 8 = x3 := by
  have h0 := q.gap.isLt
  have h1 := bit_lt q.giveWay
  obtain ⟨w, hw'⟩ : ∃ w, w = wordOf q major (x0 * 4194304 + x1 * 256 + x2 * 65536 + x3 * 1) := ⟨_, rfl⟩
  have hw : w = q.gap.toNat * 1073741824 + bit q.giveWay * 536870912 + major * 16777216 + (x0 * 4194304 + x1 * 256 + x2 * 65536 + x3 * 1) := hw'
  refine ⟨w, hw', by omega, by unfold nat; omega, sched_of (by unfold nat; omega) (by unfold nat; omega), by unfold nat; omega, by unfold nat; omega, by unfold nat; omega, by unfold nat; omega⟩

theorem fields_22_2_0_16_16_6 (q : Sched) (major : Nat) (x0 x1 x2 : Nat) (bm : major < 32) (b0 : x0 < 2 ^ 2) (b1 : x1 < 2 ^ 16) (b2 : x2 < 2 ^ 6) :
    ∃ w, w = wordOf q major (x0 * 4194304 + x1 * 1 + x2 * 65536) ∧ w < 2 ^ 32 ∧ nat w 24 5 = major ∧ schedOf w = q ∧
      nat w 22 2 = x0 ∧
      nat w 0 16 = x1 ∧
      nat w 16 6 = x2 := by
  have h0 := q.gap.isLt
  have h1 := bit_lt q.giveWay
  obtain ⟨w, hw'⟩ : ∃ w, w = wordOf q major (x0 * 4194304 + x1 * 1 + x2 * 65536) := ⟨_, rfl⟩
  have hw : w = q.gap.toNat * 1073741824 + bit q.giveWay * 536870912 + major * 16777216 + (x0 * 4194304 + x1 * 1 + x2 * 65536) := hw'
  refine ⟨w, hw', by omega, by unfold nat; omega, sched_of (by unfold nat; omega) (by unfold nat; omega), by unfold nat; omega, by unfold nat; omega, by unfold nat; omega⟩

theorem vadd (q : Sched) (vd : VReg) (va : VReg) (b : VSrc) : Statement (.vadd q vd va b) := by
  obtain ⟨w, hw, hl, hm, hq, h0, h1, h2, h3⟩ := fields_22_2_0_8_15_7_8_7 q 0 0 b.code vd.toNat va.toNat (by decide) (by decide) b.code_lt vd.isLt va.isLt
  exact encodedWord rfl (by omega) hw hl (by simp [decodeFields, decode00, VSrc.ofCode_code, hm, hq, h0, h1, fld_of h2, fld_of h3])

theorem vsub (q : Sched) (vd : VReg) (va : VReg) (b : VSrc) : Statement (.vsub q vd va b) := by
  obtain ⟨w, hw, hl, hm, hq, h0, h1, h2, h3⟩ := fields_22_2_0_8_15_7_8_7 q 0 1 b.code vd.toNat va.toNat (by decide) (by decide) b.code_lt vd.isLt va.isLt
  exact encodedWord rfl (by omega) hw hl (by simp [decodeFields, decode00, VSrc.ofCode_code, hm, hq, h0, h1, fld_of h2, fld_of h3])

theorem vmul (q : Sched) (vd : VReg) (va : VReg) (b : VSrc) : Statement (.vmul q vd va b) := by
  obtain ⟨w, hw, hl, hm, hq, h0, h1, h2, h3⟩ := fields_22_2_0_8_15_7_8_7 q 0 2 b.code vd.toNat va.toNat (by decide) (by decide) b.code_lt vd.isLt va.isLt
  exact encodedWord rfl (by omega) hw hl (by simp [decodeFields, decode00, VSrc.ofCode_code, hm, hq, h0, h1, fld_of h2, fld_of h3])

theorem vmulhi (q : Sched) (vd : VReg) (va : VReg) (b : VSrc) : Statement (.vmulhi q vd va b) := by
  obtain ⟨w, hw, hl, hm, hq, h0, h1, h2, h3⟩ := fields_22_2_0_8_15_7_8_7 q 0 3 b.code vd.toNat va.toNat (by decide) (by decide) b.code_lt vd.isLt va.isLt
  exact encodedWord rfl (by omega) hw hl (by simp [decodeFields, decode00, VSrc.ofCode_code, hm, hq, h0, h1, fld_of h2, fld_of h3])

theorem vand (q : Sched) (vd : VReg) (va : VReg) (b : VSrc) : Statement (.vand q vd va b) := by
  obtain ⟨w, hw, hl, hm, hq, h0, h1, h2, h3⟩ := fields_22_2_0_8_15_7_8_7 q 1 0 b.code vd.toNat va.toNat (by decide) (by decide) b.code_lt vd.isLt va.isLt
  exact encodedWord rfl (by omega) hw hl (by simp [decodeFields, decode01, VSrc.ofCode_code, hm, hq, h0, h1, fld_of h2, fld_of h3])

theorem vor (q : Sched) (vd : VReg) (va : VReg) (b : VSrc) : Statement (.vor q vd va b) := by
  obtain ⟨w, hw, hl, hm, hq, h0, h1, h2, h3⟩ := fields_22_2_0_8_15_7_8_7 q 1 1 b.code vd.toNat va.toNat (by decide) (by decide) b.code_lt vd.isLt va.isLt
  exact encodedWord rfl (by omega) hw hl (by simp [decodeFields, decode01, VSrc.ofCode_code, hm, hq, h0, h1, fld_of h2, fld_of h3])

theorem vxor (q : Sched) (vd : VReg) (va : VReg) (b : VSrc) : Statement (.vxor q vd va b) := by
  obtain ⟨w, hw, hl, hm, hq, h0, h1, h2, h3⟩ := fields_22_2_0_8_15_7_8_7 q 1 2 b.code vd.toNat va.toNat (by decide) (by decide) b.code_lt vd.isLt va.isLt
  exact encodedWord rfl (by omega) hw hl (by simp [decodeFields, decode01, VSrc.ofCode_code, hm, hq, h0, h1, fld_of h2, fld_of h3])

theorem vshl (q : Sched) (vd : VReg) (va : VReg) (b : VSrc) : Statement (.vshl q vd va b) := by
  obtain ⟨w, hw, hl, hm, hq, h0, h1, h2, h3⟩ := fields_22_2_0_8_15_7_8_7 q 1 3 b.code vd.toNat va.toNat (by decide) (by decide) b.code_lt vd.isLt va.isLt
  exact encodedWord rfl (by omega) hw hl (by simp [decodeFields, decode01, VSrc.ofCode_code, hm, hq, h0, h1, fld_of h2, fld_of h3])

theorem vshr (q : Sched) (vd : VReg) (va : VReg) (b : VSrc) : Statement (.vshr q vd va b) := by
  obtain ⟨w, hw, hl, hm, hq, h0, h1, h2, h3⟩ := fields_22_2_0_8_15_7_8_7 q 2 0 b.code vd.toNat va.toNat (by decide) (by decide) b.code_lt vd.isLt va.isLt
  exact encodedWord rfl (by omega) hw hl (by simp [decodeFields, decode02, VSrc.ofCode_code, hm, hq, h0, h1, fld_of h2, fld_of h3])

theorem vsra (q : Sched) (vd : VReg) (va : VReg) (b : VSrc) : Statement (.vsra q vd va b) := by
  obtain ⟨w, hw, hl, hm, hq, h0, h1, h2, h3⟩ := fields_22_2_0_8_15_7_8_7 q 2 1 b.code vd.toNat va.toNat (by decide) (by decide) b.code_lt vd.isLt va.isLt
  exact encodedWord rfl (by omega) hw hl (by simp [decodeFields, decode02, VSrc.ofCode_code, hm, hq, h0, h1, fld_of h2, fld_of h3])

theorem vmin (q : Sched) (vd : VReg) (va : VReg) (b : VSrc) : Statement (.vmin q vd va b) := by
  obtain ⟨w, hw, hl, hm, hq, h0, h1, h2, h3⟩ := fields_22_2_0_8_15_7_8_7 q 2 2 b.code vd.toNat va.toNat (by decide) (by decide) b.code_lt vd.isLt va.isLt
  exact encodedWord rfl (by omega) hw hl (by simp [decodeFields, decode02, VSrc.ofCode_code, hm, hq, h0, h1, fld_of h2, fld_of h3])

theorem vmax (q : Sched) (vd : VReg) (va : VReg) (b : VSrc) : Statement (.vmax q vd va b) := by
  obtain ⟨w, hw, hl, hm, hq, h0, h1, h2, h3⟩ := fields_22_2_0_8_15_7_8_7 q 2 3 b.code vd.toNat va.toNat (by decide) (by decide) b.code_lt vd.isLt va.isLt
  exact encodedWord rfl (by omega) hw hl (by simp [decodeFields, decode02, VSrc.ofCode_code, hm, hq, h0, h1, fld_of h2, fld_of h3])

theorem vminu (q : Sched) (vd : VReg) (va : VReg) (b : VSrc) : Statement (.vminu q vd va b) := by
  obtain ⟨w, hw, hl, hm, hq, h0, h1, h2, h3⟩ := fields_22_2_0_8_15_7_8_7 q 3 0 b.code vd.toNat va.toNat (by decide) (by decide) b.code_lt vd.isLt va.isLt
  exact encodedWord rfl (by omega) hw hl (by simp [decodeFields, decode03, VSrc.ofCode_code, hm, hq, h0, h1, fld_of h2, fld_of h3])

theorem vmaxu (q : Sched) (vd : VReg) (va : VReg) (b : VSrc) : Statement (.vmaxu q vd va b) := by
  obtain ⟨w, hw, hl, hm, hq, h0, h1, h2, h3⟩ := fields_22_2_0_8_15_7_8_7 q 3 1 b.code vd.toNat va.toNat (by decide) (by decide) b.code_lt vd.isLt va.isLt
  exact encodedWord rfl (by omega) hw hl (by simp [decodeFields, decode03, VSrc.ofCode_code, hm, hq, h0, h1, fld_of h2, fld_of h3])

theorem vmad (q : Sched) (vd : VReg) (va : VReg) (b : VSrc) : Statement (.vmad q vd va b) := by
  obtain ⟨w, hw, hl, hm, hq, h0, h1, h2, h3⟩ := fields_22_2_0_8_15_7_8_7 q 3 2 b.code vd.toNat va.toNat (by decide) (by decide) b.code_lt vd.isLt va.isLt
  exact encodedWord rfl (by omega) hw hl (by simp [decodeFields, decode03, VSrc.ofCode_code, hm, hq, h0, h1, fld_of h2, fld_of h3])

theorem vabsd (q : Sched) (vd : VReg) (va : VReg) (b : VSrc) : Statement (.vabsd q vd va b) := by
  obtain ⟨w, hw, hl, hm, hq, h0, h1, h2, h3⟩ := fields_22_2_0_8_15_7_8_7 q 3 3 b.code vd.toNat va.toNat (by decide) (by decide) b.code_lt vd.isLt va.isLt
  exact encodedWord rfl (by omega) hw hl (by simp [decodeFields, decode03, VSrc.ofCode_code, hm, hq, h0, h1, fld_of h2, fld_of h3])

theorem vfadd (q : Sched) (vd : VReg) (va : VReg) (b : VSrc) : Statement (.vfadd q vd va b) := by
  obtain ⟨w, hw, hl, hm, hq, h0, h1, h2, h3⟩ := fields_22_2_0_8_15_7_8_7 q 4 0 b.code vd.toNat va.toNat (by decide) (by decide) b.code_lt vd.isLt va.isLt
  exact encodedWord rfl (by omega) hw hl (by simp [decodeFields, decode04, VSrc.ofCode_code, hm, hq, h0, h1, fld_of h2, fld_of h3])

theorem vfsub (q : Sched) (vd : VReg) (va : VReg) (b : VSrc) : Statement (.vfsub q vd va b) := by
  obtain ⟨w, hw, hl, hm, hq, h0, h1, h2, h3⟩ := fields_22_2_0_8_15_7_8_7 q 4 1 b.code vd.toNat va.toNat (by decide) (by decide) b.code_lt vd.isLt va.isLt
  exact encodedWord rfl (by omega) hw hl (by simp [decodeFields, decode04, VSrc.ofCode_code, hm, hq, h0, h1, fld_of h2, fld_of h3])

theorem vfmul (q : Sched) (vd : VReg) (va : VReg) (b : VSrc) : Statement (.vfmul q vd va b) := by
  obtain ⟨w, hw, hl, hm, hq, h0, h1, h2, h3⟩ := fields_22_2_0_8_15_7_8_7 q 4 2 b.code vd.toNat va.toNat (by decide) (by decide) b.code_lt vd.isLt va.isLt
  exact encodedWord rfl (by omega) hw hl (by simp [decodeFields, decode04, VSrc.ofCode_code, hm, hq, h0, h1, fld_of h2, fld_of h3])

theorem vffma (q : Sched) (vd : VReg) (va : VReg) (b : VSrc) : Statement (.vffma q vd va b) := by
  obtain ⟨w, hw, hl, hm, hq, h0, h1, h2, h3⟩ := fields_22_2_0_8_15_7_8_7 q 4 3 b.code vd.toNat va.toNat (by decide) (by decide) b.code_lt vd.isLt va.isLt
  exact encodedWord rfl (by omega) hw hl (by simp [decodeFields, decode04, VSrc.ofCode_code, hm, hq, h0, h1, fld_of h2, fld_of h3])

theorem vfmin (q : Sched) (vd : VReg) (va : VReg) (b : VSrc) : Statement (.vfmin q vd va b) := by
  obtain ⟨w, hw, hl, hm, hq, h0, h1, h2, h3⟩ := fields_22_2_0_8_15_7_8_7 q 5 0 b.code vd.toNat va.toNat (by decide) (by decide) b.code_lt vd.isLt va.isLt
  exact encodedWord rfl (by omega) hw hl (by simp [decodeFields, decode05, VSrc.ofCode_code, hm, hq, h0, h1, fld_of h2, fld_of h3])

theorem vfmax (q : Sched) (vd : VReg) (va : VReg) (b : VSrc) : Statement (.vfmax q vd va b) := by
  obtain ⟨w, hw, hl, hm, hq, h0, h1, h2, h3⟩ := fields_22_2_0_8_15_7_8_7 q 5 1 b.code vd.toNat va.toNat (by decide) (by decide) b.code_lt vd.isLt va.isLt
  exact encodedWord rfl (by omega) hw hl (by simp [decodeFields, decode05, VSrc.ofCode_code, hm, hq, h0, h1, fld_of h2, fld_of h3])

theorem vhfma (q : Sched) (vd : VReg) (va : VReg) (b : VSrc) : Statement (.vhfma q vd va b) := by
  obtain ⟨w, hw, hl, hm, hq, h0, h1, h2, h3⟩ := fields_22_2_0_8_15_7_8_7 q 5 2 b.code vd.toNat va.toNat (by decide) (by decide) b.code_lt vd.isLt va.isLt
  exact encodedWord rfl (by omega) hw hl (by simp [decodeFields, decode05, VSrc.ofCode_code, hm, hq, h0, h1, fld_of h2, fld_of h3])

theorem vhadd (q : Sched) (vd : VReg) (va : VReg) (b : VSrc) : Statement (.vhadd q vd va b) := by
  obtain ⟨w, hw, hl, hm, hq, h0, h1, h2, h3⟩ := fields_22_2_0_8_15_7_8_7 q 5 3 b.code vd.toNat va.toNat (by decide) (by decide) b.code_lt vd.isLt va.isLt
  exact encodedWord rfl (by omega) hw hl (by simp [decodeFields, decode05, VSrc.ofCode_code, hm, hq, h0, h1, fld_of h2, fld_of h3])

theorem vhmul (q : Sched) (vd : VReg) (va : VReg) (b : VSrc) : Statement (.vhmul q vd va b) := by
  obtain ⟨w, hw, hl, hm, hq, h0, h1, h2, h3⟩ := fields_22_2_0_8_15_7_8_7 q 6 0 b.code vd.toNat va.toNat (by decide) (by decide) b.code_lt vd.isLt va.isLt
  exact encodedWord rfl (by omega) hw hl (by simp [decodeFields, decode06, VSrc.ofCode_code, hm, hq, h0, h1, fld_of h2, fld_of h3])

theorem vsel (q : Sched) (vd : VReg) (va : VReg) (b : VSrc) : Statement (.vsel q vd va b) := by
  obtain ⟨w, hw, hl, hm, hq, h0, h1, h2, h3⟩ := fields_22_2_0_8_15_7_8_7 q 6 1 b.code vd.toNat va.toNat (by decide) (by decide) b.code_lt vd.isLt va.isLt
  exact encodedWord rfl (by omega) hw hl (by simp [decodeFields, decode06, VSrc.ofCode_code, hm, hq, h0, h1, fld_of h2, fld_of h3])

theorem vpack2 (q : Sched) (vd : VReg) (va : VReg) (b : VSrc) : Statement (.vpack2 q vd va b) := by
  obtain ⟨w, hw, hl, hm, hq, h0, h1, h2, h3⟩ := fields_22_2_0_8_15_7_8_7 q 6 2 b.code vd.toNat va.toNat (by decide) (by decide) b.code_lt vd.isLt va.isLt
  exact encodedWord rfl (by omega) hw hl (by simp [decodeFields, decode06, VSrc.ofCode_code, hm, hq, h0, h1, fld_of h2, fld_of h3])

theorem vcopysign (q : Sched) (vd : VReg) (va : VReg) (b : VSrc) : Statement (.vcopysign q vd va b) := by
  obtain ⟨w, hw, hl, hm, hq, h0, h1, h2, h3⟩ := fields_22_2_0_8_15_7_8_7 q 6 3 b.code vd.toNat va.toNat (by decide) (by decide) b.code_lt vd.isLt va.isLt
  exact encodedWord rfl (by omega) hw hl (by simp [decodeFields, decode06, VSrc.ofCode_code, hm, hq, h0, h1, fld_of h2, fld_of h3])

theorem vshfl (q : Sched) (mode : ShflMode) (vd : VReg) (va : VReg) (b : VSrc) : Statement (.vshfl q mode vd va b) := by
  obtain ⟨w, hw, hl, hm, hq, h0, h1, h2, h3⟩ := fields_22_2_0_8_15_7_8_7 q 7 mode.code b.code vd.toNat va.toNat (by decide) mode.code_lt b.code_lt vd.isLt va.isLt
  exact encodedWord rfl (by omega) hw hl (by simp [decodeFields, decode07, ShflMode.ofCode_code, VSrc.ofCode_code, hm, hq, h0, h1, fld_of h2, fld_of h3])

theorem vmov (q : Sched) (vd : VReg) (b : VSrc) : Statement (.vmov q vd b) := by
  obtain ⟨w, hw, hl, hm, hq, h0, h1, h2, h3, h4⟩ := fields_23_1_15_6_21_2_0_8_8_7 q 8 0 0 0 b.code vd.toNat (by decide) (by decide) (by decide) (by decide) b.code_lt vd.isLt
  exact encodedWord rfl (by omega) hw hl (by simp [decodeFields, decodeUnary, ifField, decode08, VSrc.ofCode_code, hm, hq, h0, h1, h2, h3, fld_of h4])

theorem vnot (q : Sched) (vd : VReg) (b : VSrc) : Statement (.vnot q vd b) := by
  obtain ⟨w, hw, hl, hm, hq, h0, h1, h2, h3, h4⟩ := fields_23_1_15_6_21_2_0_8_8_7 q 8 0 1 0 b.code vd.toNat (by decide) (by decide) (by decide) (by decide) b.code_lt vd.isLt
  exact encodedWord rfl (by omega) hw hl (by simp [decodeFields, decodeUnary, ifField, decode08, VSrc.ofCode_code, hm, hq, h0, h1, h2, h3, fld_of h4])

theorem vneg (q : Sched) (vd : VReg) (b : VSrc) : Statement (.vneg q vd b) := by
  obtain ⟨w, hw, hl, hm, hq, h0, h1, h2, h3, h4⟩ := fields_23_1_15_6_21_2_0_8_8_7 q 8 0 2 0 b.code vd.toNat (by decide) (by decide) (by decide) (by decide) b.code_lt vd.isLt
  exact encodedWord rfl (by omega) hw hl (by simp [decodeFields, decodeUnary, ifField, decode08, VSrc.ofCode_code, hm, hq, h0, h1, h2, h3, fld_of h4])

theorem vabs (q : Sched) (vd : VReg) (b : VSrc) : Statement (.vabs q vd b) := by
  obtain ⟨w, hw, hl, hm, hq, h0, h1, h2, h3, h4⟩ := fields_23_1_15_6_21_2_0_8_8_7 q 8 0 3 0 b.code vd.toNat (by decide) (by decide) (by decide) (by decide) b.code_lt vd.isLt
  exact encodedWord rfl (by omega) hw hl (by simp [decodeFields, decodeUnary, ifField, decode08, VSrc.ofCode_code, hm, hq, h0, h1, h2, h3, fld_of h4])

theorem vpopc (q : Sched) (vd : VReg) (b : VSrc) : Statement (.vpopc q vd b) := by
  obtain ⟨w, hw, hl, hm, hq, h0, h1, h2, h3, h4⟩ := fields_23_1_15_6_21_2_0_8_8_7 q 8 0 4 0 b.code vd.toNat (by decide) (by decide) (by decide) (by decide) b.code_lt vd.isLt
  exact encodedWord rfl (by omega) hw hl (by simp [decodeFields, decodeUnary, ifField, decode08, VSrc.ofCode_code, hm, hq, h0, h1, h2, h3, fld_of h4])

theorem vclz (q : Sched) (vd : VReg) (b : VSrc) : Statement (.vclz q vd b) := by
  obtain ⟨w, hw, hl, hm, hq, h0, h1, h2, h3, h4⟩ := fields_23_1_15_6_21_2_0_8_8_7 q 8 0 5 0 b.code vd.toNat (by decide) (by decide) (by decide) (by decide) b.code_lt vd.isLt
  exact encodedWord rfl (by omega) hw hl (by simp [decodeFields, decodeUnary, ifField, decode08, VSrc.ofCode_code, hm, hq, h0, h1, h2, h3, fld_of h4])

theorem vbrev (q : Sched) (vd : VReg) (b : VSrc) : Statement (.vbrev q vd b) := by
  obtain ⟨w, hw, hl, hm, hq, h0, h1, h2, h3, h4⟩ := fields_23_1_15_6_21_2_0_8_8_7 q 8 0 6 0 b.code vd.toNat (by decide) (by decide) (by decide) (by decide) b.code_lt vd.isLt
  exact encodedWord rfl (by omega) hw hl (by simp [decodeFields, decodeUnary, ifField, decode08, VSrc.ofCode_code, hm, hq, h0, h1, h2, h3, fld_of h4])

theorem vbfe (q : Sched) (vd : VReg) (b : VSrc) : Statement (.vbfe q vd b) := by
  obtain ⟨w, hw, hl, hm, hq, h0, h1, h2, h3, h4⟩ := fields_23_1_15_6_21_2_0_8_8_7 q 8 0 7 0 b.code vd.toNat (by decide) (by decide) (by decide) (by decide) b.code_lt vd.isLt
  exact encodedWord rfl (by omega) hw hl (by simp [decodeFields, decodeUnary, ifField, decode08, VSrc.ofCode_code, hm, hq, h0, h1, h2, h3, fld_of h4])

theorem vbfi (q : Sched) (vd : VReg) (b : VSrc) : Statement (.vbfi q vd b) := by
  obtain ⟨w, hw, hl, hm, hq, h0, h1, h2, h3, h4⟩ := fields_23_1_15_6_21_2_0_8_8_7 q 8 0 8 0 b.code vd.toNat (by decide) (by decide) (by decide) (by decide) b.code_lt vd.isLt
  exact encodedWord rfl (by omega) hw hl (by simp [decodeFields, decodeUnary, ifField, decode08, VSrc.ofCode_code, hm, hq, h0, h1, h2, h3, fld_of h4])

theorem vrand (q : Sched) (vd : VReg) (b : VSrc) : Statement (.vrand q vd b) := by
  obtain ⟨w, hw, hl, hm, hq, h0, h1, h2, h3, h4⟩ := fields_23_1_15_6_21_2_0_8_8_7 q 8 0 9 0 b.code vd.toNat (by decide) (by decide) (by decide) (by decide) b.code_lt vd.isLt
  exact encodedWord rfl (by omega) hw hl (by simp [decodeFields, decodeUnary, ifField, decode08, VSrc.ofCode_code, hm, hq, h0, h1, h2, h3, fld_of h4])

theorem vbcast (q : Sched) (vd : VReg) (b : VSrc) : Statement (.vbcast q vd b) := by
  obtain ⟨w, hw, hl, hm, hq, h0, h1, h2, h3, h4⟩ := fields_23_1_15_6_21_2_0_8_8_7 q 8 0 10 0 b.code vd.toNat (by decide) (by decide) (by decide) (by decide) b.code_lt vd.isLt
  exact encodedWord rfl (by omega) hw hl (by simp [decodeFields, decodeUnary, ifField, decode08, VSrc.ofCode_code, hm, hq, h0, h1, h2, h3, fld_of h4])

theorem vfrcp (q : Sched) (packed : Bool) (vd : VReg) (b : VSrc) : Statement (.vfrcp q packed vd b) := by
  obtain ⟨w, hw, hl, hm, hq, h0, h1, h2, h3, h4, h5⟩ := fields_23_1_15_6_22_1_0_8_8_7_21_1 q 8 0 16 0 b.code vd.toNat (bit packed) (by decide) (by decide) (by decide) (by decide) b.code_lt vd.isLt (bit_lt packed)
  exact encodedWord rfl (by omega) hw hl (by simp [decodeFields, decodeUnary, ifField, decode08, VSrc.ofCode_code, hm, hq, h0, h1, h2, h3, fld_of h4, flag_of h5])

theorem vfrsq (q : Sched) (packed : Bool) (vd : VReg) (b : VSrc) : Statement (.vfrsq q packed vd b) := by
  obtain ⟨w, hw, hl, hm, hq, h0, h1, h2, h3, h4, h5⟩ := fields_23_1_15_6_22_1_0_8_8_7_21_1 q 8 0 17 0 b.code vd.toNat (bit packed) (by decide) (by decide) (by decide) (by decide) b.code_lt vd.isLt (bit_lt packed)
  exact encodedWord rfl (by omega) hw hl (by simp [decodeFields, decodeUnary, ifField, decode08, VSrc.ofCode_code, hm, hq, h0, h1, h2, h3, fld_of h4, flag_of h5])

theorem vfsqrt (q : Sched) (packed : Bool) (vd : VReg) (b : VSrc) : Statement (.vfsqrt q packed vd b) := by
  obtain ⟨w, hw, hl, hm, hq, h0, h1, h2, h3, h4, h5⟩ := fields_23_1_15_6_22_1_0_8_8_7_21_1 q 8 0 18 0 b.code vd.toNat (bit packed) (by decide) (by decide) (by decide) (by decide) b.code_lt vd.isLt (bit_lt packed)
  exact encodedWord rfl (by omega) hw hl (by simp [decodeFields, decodeUnary, ifField, decode08, VSrc.ofCode_code, hm, hq, h0, h1, h2, h3, fld_of h4, flag_of h5])

theorem vfexp2 (q : Sched) (packed : Bool) (vd : VReg) (b : VSrc) : Statement (.vfexp2 q packed vd b) := by
  obtain ⟨w, hw, hl, hm, hq, h0, h1, h2, h3, h4, h5⟩ := fields_23_1_15_6_22_1_0_8_8_7_21_1 q 8 0 19 0 b.code vd.toNat (bit packed) (by decide) (by decide) (by decide) (by decide) b.code_lt vd.isLt (bit_lt packed)
  exact encodedWord rfl (by omega) hw hl (by simp [decodeFields, decodeUnary, ifField, decode08, VSrc.ofCode_code, hm, hq, h0, h1, h2, h3, fld_of h4, flag_of h5])

theorem vflog2 (q : Sched) (packed : Bool) (vd : VReg) (b : VSrc) : Statement (.vflog2 q packed vd b) := by
  obtain ⟨w, hw, hl, hm, hq, h0, h1, h2, h3, h4, h5⟩ := fields_23_1_15_6_22_1_0_8_8_7_21_1 q 8 0 20 0 b.code vd.toNat (bit packed) (by decide) (by decide) (by decide) (by decide) b.code_lt vd.isLt (bit_lt packed)
  exact encodedWord rfl (by omega) hw hl (by simp [decodeFields, decodeUnary, ifField, decode08, VSrc.ofCode_code, hm, hq, h0, h1, h2, h3, fld_of h4, flag_of h5])

theorem vfsin (q : Sched) (packed : Bool) (vd : VReg) (b : VSrc) : Statement (.vfsin q packed vd b) := by
  obtain ⟨w, hw, hl, hm, hq, h0, h1, h2, h3, h4, h5⟩ := fields_23_1_15_6_22_1_0_8_8_7_21_1 q 8 0 21 0 b.code vd.toNat (bit packed) (by decide) (by decide) (by decide) (by decide) b.code_lt vd.isLt (bit_lt packed)
  exact encodedWord rfl (by omega) hw hl (by simp [decodeFields, decodeUnary, ifField, decode08, VSrc.ofCode_code, hm, hq, h0, h1, h2, h3, fld_of h4, flag_of h5])

theorem vfcos (q : Sched) (packed : Bool) (vd : VReg) (b : VSrc) : Statement (.vfcos q packed vd b) := by
  obtain ⟨w, hw, hl, hm, hq, h0, h1, h2, h3, h4, h5⟩ := fields_23_1_15_6_22_1_0_8_8_7_21_1 q 8 0 22 0 b.code vd.toNat (bit packed) (by decide) (by decide) (by decide) (by decide) b.code_lt vd.isLt (bit_lt packed)
  exact encodedWord rfl (by omega) hw hl (by simp [decodeFields, decodeUnary, ifField, decode08, VSrc.ofCode_code, hm, hq, h0, h1, h2, h3, fld_of h4, flag_of h5])

theorem vftanh (q : Sched) (packed : Bool) (vd : VReg) (b : VSrc) : Statement (.vftanh q packed vd b) := by
  obtain ⟨w, hw, hl, hm, hq, h0, h1, h2, h3, h4, h5⟩ := fields_23_1_15_6_22_1_0_8_8_7_21_1 q 8 0 23 0 b.code vd.toNat (bit packed) (by decide) (by decide) (by decide) (by decide) b.code_lt vd.isLt (bit_lt packed)
  exact encodedWord rfl (by omega) hw hl (by simp [decodeFields, decodeUnary, ifField, decode08, VSrc.ofCode_code, hm, hq, h0, h1, h2, h3, fld_of h4, flag_of h5])

theorem vfrnd (q : Sched) (packed : Bool) (vd : VReg) (b : VSrc) : Statement (.vfrnd q packed vd b) := by
  obtain ⟨w, hw, hl, hm, hq, h0, h1, h2, h3, h4, h5⟩ := fields_23_1_15_6_22_1_0_8_8_7_21_1 q 8 0 24 0 b.code vd.toNat (bit packed) (by decide) (by decide) (by decide) (by decide) b.code_lt vd.isLt (bit_lt packed)
  exact encodedWord rfl (by omega) hw hl (by simp [decodeFields, decodeUnary, ifField, decode08, VSrc.ofCode_code, hm, hq, h0, h1, h2, h3, fld_of h4, flag_of h5])

theorem vfclass (q : Sched) (packed : Bool) (vd : VReg) (b : VSrc) : Statement (.vfclass q packed vd b) := by
  obtain ⟨w, hw, hl, hm, hq, h0, h1, h2, h3, h4, h5⟩ := fields_23_1_15_6_22_1_0_8_8_7_21_1 q 8 0 25 0 b.code vd.toNat (bit packed) (by decide) (by decide) (by decide) (by decide) b.code_lt vd.isLt (bit_lt packed)
  exact encodedWord rfl (by omega) hw hl (by simp [decodeFields, decodeUnary, ifField, decode08, VSrc.ofCode_code, hm, hq, h0, h1, h2, h3, fld_of h4, flag_of h5])

theorem vcvt (q : Sched) (dst : CvtFmt) (src : CvtFmt) (sel : CvtRound) (vd : VReg) (b : VSrc) : Statement (.vcvt q dst src sel vd b) := by
  obtain ⟨w, hw, hl, hm, hq, h0, h1, h2, h3, h4, h5⟩ := fields_23_1_20_3_17_3_15_2_0_8_8_7 q 8 1 dst.code src.code sel.code b.code vd.toNat (by decide) (by decide) dst.code_lt src.code_lt sel.code_lt b.code_lt vd.isLt
  exact encodedWord rfl (by omega) hw hl (by simp [decodeFields, decode08, CvtFmt.ofCode_code, CvtRound.ofCode_code, VSrc.ofCode_code, hm, hq, h0, h1, h2, h3, h4, fld_of h5])

theorem vcmp (q : Sched) (cond : ICond) (md : BitVec 4) (va : VReg) (b : VSrc) : Statement (.vcmp q cond md va b) := by
  obtain ⟨w, hw, hl, hm, hq, h0, h1, h2, h3⟩ := fields_19_5_0_8_15_4_8_7 q 9 cond.code b.code md.toNat va.toNat (by decide) (Nat.lt_trans cond.code_lt (by decide)) b.code_lt md.isLt va.isLt
  exact encodedWord rfl (by omega) hw hl (by simp [decodeFields, decode09, ICond.ofCode_code, VSrc.ofCode_code, hm, hq, h0, h1, fld_of h2, fld_of h3])

theorem vfcmp (q : Sched) (cond : FCond) (md : BitVec 4) (va : VReg) (b : VSrc) : Statement (.vfcmp q cond md va b) := by
  obtain ⟨w, hw, hl, hm, hq, h0, h1, h2, h3⟩ := fields_19_5_0_8_15_4_8_7 q 10 cond.code b.code md.toNat va.toNat (by decide) (Nat.lt_trans cond.code_lt (by decide)) b.code_lt md.isLt va.isLt
  exact encodedWord rfl (by omega) hw hl (by simp [decodeFields, decode0A, FCond.ofCode_code, VSrc.ofCode_code, hm, hq, h0, h1, fld_of h2, fld_of h3])

theorem sadd (q : Sched) (sd : SReg) (sa : SReg) (b : SSrc) : Statement (.sadd q sd sa b) := by
  obtain ⟨w, hw, hl, hm, hq, h0, h1, h2, h3⟩ := fields_20_4_0_8_14_6_8_6 q 11 0 b.code sd.toNat sa.toNat (by decide) (by decide) b.code_lt sd.isLt sa.isLt
  exact encodedWord rfl (by omega) hw hl (by simp [decodeFields, decode0B, SSrc.ofCode_code, hm, hq, h0, h1, fld_of h2, fld_of h3])

theorem ssub (q : Sched) (sd : SReg) (sa : SReg) (b : SSrc) : Statement (.ssub q sd sa b) := by
  obtain ⟨w, hw, hl, hm, hq, h0, h1, h2, h3⟩ := fields_20_4_0_8_14_6_8_6 q 11 1 b.code sd.toNat sa.toNat (by decide) (by decide) b.code_lt sd.isLt sa.isLt
  exact encodedWord rfl (by omega) hw hl (by simp [decodeFields, decode0B, SSrc.ofCode_code, hm, hq, h0, h1, fld_of h2, fld_of h3])

theorem smul (q : Sched) (sd : SReg) (sa : SReg) (b : SSrc) : Statement (.smul q sd sa b) := by
  obtain ⟨w, hw, hl, hm, hq, h0, h1, h2, h3⟩ := fields_20_4_0_8_14_6_8_6 q 11 2 b.code sd.toNat sa.toNat (by decide) (by decide) b.code_lt sd.isLt sa.isLt
  exact encodedWord rfl (by omega) hw hl (by simp [decodeFields, decode0B, SSrc.ofCode_code, hm, hq, h0, h1, fld_of h2, fld_of h3])

theorem smulhi (q : Sched) (sd : SReg) (sa : SReg) (b : SSrc) : Statement (.smulhi q sd sa b) := by
  obtain ⟨w, hw, hl, hm, hq, h0, h1, h2, h3⟩ := fields_20_4_0_8_14_6_8_6 q 11 3 b.code sd.toNat sa.toNat (by decide) (by decide) b.code_lt sd.isLt sa.isLt
  exact encodedWord rfl (by omega) hw hl (by simp [decodeFields, decode0B, SSrc.ofCode_code, hm, hq, h0, h1, fld_of h2, fld_of h3])

theorem sand (q : Sched) (sd : SReg) (sa : SReg) (b : SSrc) : Statement (.sand q sd sa b) := by
  obtain ⟨w, hw, hl, hm, hq, h0, h1, h2, h3⟩ := fields_20_4_0_8_14_6_8_6 q 11 4 b.code sd.toNat sa.toNat (by decide) (by decide) b.code_lt sd.isLt sa.isLt
  exact encodedWord rfl (by omega) hw hl (by simp [decodeFields, decode0B, SSrc.ofCode_code, hm, hq, h0, h1, fld_of h2, fld_of h3])

theorem sor (q : Sched) (sd : SReg) (sa : SReg) (b : SSrc) : Statement (.sor q sd sa b) := by
  obtain ⟨w, hw, hl, hm, hq, h0, h1, h2, h3⟩ := fields_20_4_0_8_14_6_8_6 q 11 5 b.code sd.toNat sa.toNat (by decide) (by decide) b.code_lt sd.isLt sa.isLt
  exact encodedWord rfl (by omega) hw hl (by simp [decodeFields, decode0B, SSrc.ofCode_code, hm, hq, h0, h1, fld_of h2, fld_of h3])

theorem sxor (q : Sched) (sd : SReg) (sa : SReg) (b : SSrc) : Statement (.sxor q sd sa b) := by
  obtain ⟨w, hw, hl, hm, hq, h0, h1, h2, h3⟩ := fields_20_4_0_8_14_6_8_6 q 11 6 b.code sd.toNat sa.toNat (by decide) (by decide) b.code_lt sd.isLt sa.isLt
  exact encodedWord rfl (by omega) hw hl (by simp [decodeFields, decode0B, SSrc.ofCode_code, hm, hq, h0, h1, fld_of h2, fld_of h3])

theorem sshl (q : Sched) (sd : SReg) (sa : SReg) (b : SSrc) : Statement (.sshl q sd sa b) := by
  obtain ⟨w, hw, hl, hm, hq, h0, h1, h2, h3⟩ := fields_20_4_0_8_14_6_8_6 q 11 7 b.code sd.toNat sa.toNat (by decide) (by decide) b.code_lt sd.isLt sa.isLt
  exact encodedWord rfl (by omega) hw hl (by simp [decodeFields, decode0B, SSrc.ofCode_code, hm, hq, h0, h1, fld_of h2, fld_of h3])

theorem sshr (q : Sched) (sd : SReg) (sa : SReg) (b : SSrc) : Statement (.sshr q sd sa b) := by
  obtain ⟨w, hw, hl, hm, hq, h0, h1, h2, h3⟩ := fields_20_4_0_8_14_6_8_6 q 11 8 b.code sd.toNat sa.toNat (by decide) (by decide) b.code_lt sd.isLt sa.isLt
  exact encodedWord rfl (by omega) hw hl (by simp [decodeFields, decode0B, SSrc.ofCode_code, hm, hq, h0, h1, fld_of h2, fld_of h3])

theorem ssra (q : Sched) (sd : SReg) (sa : SReg) (b : SSrc) : Statement (.ssra q sd sa b) := by
  obtain ⟨w, hw, hl, hm, hq, h0, h1, h2, h3⟩ := fields_20_4_0_8_14_6_8_6 q 11 9 b.code sd.toNat sa.toNat (by decide) (by decide) b.code_lt sd.isLt sa.isLt
  exact encodedWord rfl (by omega) hw hl (by simp [decodeFields, decode0B, SSrc.ofCode_code, hm, hq, h0, h1, fld_of h2, fld_of h3])

theorem smin (q : Sched) (sd : SReg) (sa : SReg) (b : SSrc) : Statement (.smin q sd sa b) := by
  obtain ⟨w, hw, hl, hm, hq, h0, h1, h2, h3⟩ := fields_20_4_0_8_14_6_8_6 q 11 10 b.code sd.toNat sa.toNat (by decide) (by decide) b.code_lt sd.isLt sa.isLt
  exact encodedWord rfl (by omega) hw hl (by simp [decodeFields, decode0B, SSrc.ofCode_code, hm, hq, h0, h1, fld_of h2, fld_of h3])

theorem smax (q : Sched) (sd : SReg) (sa : SReg) (b : SSrc) : Statement (.smax q sd sa b) := by
  obtain ⟨w, hw, hl, hm, hq, h0, h1, h2, h3⟩ := fields_20_4_0_8_14_6_8_6 q 11 11 b.code sd.toNat sa.toNat (by decide) (by decide) b.code_lt sd.isLt sa.isLt
  exact encodedWord rfl (by omega) hw hl (by simp [decodeFields, decode0B, SSrc.ofCode_code, hm, hq, h0, h1, fld_of h2, fld_of h3])

theorem sminu (q : Sched) (sd : SReg) (sa : SReg) (b : SSrc) : Statement (.sminu q sd sa b) := by
  obtain ⟨w, hw, hl, hm, hq, h0, h1, h2, h3⟩ := fields_20_4_0_8_14_6_8_6 q 11 12 b.code sd.toNat sa.toNat (by decide) (by decide) b.code_lt sd.isLt sa.isLt
  exact encodedWord rfl (by omega) hw hl (by simp [decodeFields, decode0B, SSrc.ofCode_code, hm, hq, h0, h1, fld_of h2, fld_of h3])

theorem smaxu (q : Sched) (sd : SReg) (sa : SReg) (b : SSrc) : Statement (.smaxu q sd sa b) := by
  obtain ⟨w, hw, hl, hm, hq, h0, h1, h2, h3⟩ := fields_20_4_0_8_14_6_8_6 q 11 13 b.code sd.toNat sa.toNat (by decide) (by decide) b.code_lt sd.isLt sa.isLt
  exact encodedWord rfl (by omega) hw hl (by simp [decodeFields, decode0B, SSrc.ofCode_code, hm, hq, h0, h1, fld_of h2, fld_of h3])

theorem saddc (q : Sched) (sd : SReg) (sa : SReg) (b : SSrc) : Statement (.saddc q sd sa b) := by
  obtain ⟨w, hw, hl, hm, hq, h0, h1, h2, h3⟩ := fields_20_4_0_8_14_6_8_6 q 11 14 b.code sd.toNat sa.toNat (by decide) (by decide) b.code_lt sd.isLt sa.isLt
  exact encodedWord rfl (by omega) hw hl (by simp [decodeFields, decode0B, SSrc.ofCode_code, hm, hq, h0, h1, fld_of h2, fld_of h3])

theorem ssubb (q : Sched) (sd : SReg) (sa : SReg) (b : SSrc) : Statement (.ssubb q sd sa b) := by
  obtain ⟨w, hw, hl, hm, hq, h0, h1, h2, h3⟩ := fields_20_4_0_8_14_6_8_6 q 11 15 b.code sd.toNat sa.toNat (by decide) (by decide) b.code_lt sd.isLt sa.isLt
  exact encodedWord rfl (by omega) hw hl (by simp [decodeFields, decode0B, SSrc.ofCode_code, hm, hq, h0, h1, fld_of h2, fld_of h3])

theorem scmp (q : Sched) (cond : ICond) (sa : SReg) (b : SSrc) : Statement (.scmp q cond sa b) := by
  obtain ⟨w, hw, hl, hm, hq, h0, h1, h2, h3, h4⟩ := fields_20_4_18_2_14_4_0_8_8_6 q 12 0 0 cond.code b.code sa.toNat (by decide) (by decide) (by decide) cond.code_lt b.code_lt sa.isLt
  exact encodedWord rfl (by omega) hw hl (by simp [decodeFields, decode0C, ifField, ICond.ofCode_code, SSrc.ofCode_code, hm, hq, h0, h1, h2, h3, fld_of h4])

theorem ssel (q : Sched) (sd : SReg) (sa : SReg) (b : SSrc) : Statement (.ssel q sd sa b) := by
  obtain ⟨w, hw, hl, hm, hq, h0, h1, h2, h3⟩ := fields_20_4_0_8_14_6_8_6 q 12 1 b.code sd.toNat sa.toNat (by decide) (by decide) b.code_lt sd.isLt sa.isLt
  exact encodedWord rfl (by omega) hw hl (by simp [decodeFields, decode0C, SSrc.ofCode_code, hm, hq, h0, h1, fld_of h2, fld_of h3])

theorem smov (q : Sched) (sd : SReg) (b : SSrc) : Statement (.smov q sd b) := by
  obtain ⟨w, hw, hl, hm, hq, h0, h1, h2, h3⟩ := fields_20_4_8_6_0_8_14_6 q 12 2 0 b.code sd.toNat (by decide) (by decide) (by decide) b.code_lt sd.isLt
  exact encodedWord rfl (by omega) hw hl (by simp [decodeFields, decode0C, ifField, SSrc.ofCode_code, hm, hq, h0, h1, h2, fld_of h3])

theorem spopc (q : Sched) (sd : SReg) (b : SSrc) : Statement (.spopc q sd b) := by
  obtain ⟨w, hw, hl, hm, hq, h0, h1, h2, h3⟩ := fields_20_4_8_6_0_8_14_6 q 12 3 0 b.code sd.toNat (by decide) (by decide) (by decide) b.code_lt sd.isLt
  exact encodedWord rfl (by omega) hw hl (by simp [decodeFields, decode0C, ifField, SSrc.ofCode_code, hm, hq, h0, h1, h2, fld_of h3])

theorem sclz (q : Sched) (sd : SReg) (b : SSrc) : Statement (.sclz q sd b) := by
  obtain ⟨w, hw, hl, hm, hq, h0, h1, h2, h3⟩ := fields_20_4_8_6_0_8_14_6 q 12 4 0 b.code sd.toNat (by decide) (by decide) (by decide) b.code_lt sd.isLt
  exact encodedWord rfl (by omega) hw hl (by simp [decodeFields, decode0C, ifField, SSrc.ofCode_code, hm, hq, h0, h1, h2, fld_of h3])

theorem sbfe (q : Sched) (sd : SReg) (sa : SReg) (b : SSrc) : Statement (.sbfe q sd sa b) := by
  obtain ⟨w, hw, hl, hm, hq, h0, h1, h2, h3⟩ := fields_20_4_0_8_14_6_8_6 q 12 5 b.code sd.toNat sa.toNat (by decide) (by decide) b.code_lt sd.isLt sa.isLt
  exact encodedWord rfl (by omega) hw hl (by simp [decodeFields, decode0C, SSrc.ofCode_code, hm, hq, h0, h1, fld_of h2, fld_of h3])

theorem sfadd (q : Sched) (sd : SReg) (sa : SReg) (b : SSrc) : Statement (.sfadd q sd sa b) := by
  obtain ⟨w, hw, hl, hm, hq, h0, h1, h2, h3⟩ := fields_20_4_0_8_14_6_8_6 q 12 6 b.code sd.toNat sa.toNat (by decide) (by decide) b.code_lt sd.isLt sa.isLt
  exact encodedWord rfl (by omega) hw hl (by simp [decodeFields, decode0C, SSrc.ofCode_code, hm, hq, h0, h1, fld_of h2, fld_of h3])

theorem sfmul (q : Sched) (sd : SReg) (sa : SReg) (b : SSrc) : Statement (.sfmul q sd sa b) := by
  obtain ⟨w, hw, hl, hm, hq, h0, h1, h2, h3⟩ := fields_20_4_0_8_14_6_8_6 q 12 7 b.code sd.toNat sa.toNat (by decide) (by decide) b.code_lt sd.isLt sa.isLt
  exact encodedWord rfl (by omega) hw hl (by simp [decodeFields, decode0C, SSrc.ofCode_code, hm, hq, h0, h1, fld_of h2, fld_of h3])

theorem sffma (q : Sched) (sd : SReg) (sa : SReg) (b : SSrc) : Statement (.sffma q sd sa b) := by
  obtain ⟨w, hw, hl, hm, hq, h0, h1, h2, h3⟩ := fields_20_4_0_8_14_6_8_6 q 12 8 b.code sd.toNat sa.toNat (by decide) (by decide) b.code_lt sd.isLt sa.isLt
  exact encodedWord rfl (by omega) hw hl (by simp [decodeFields, decode0C, SSrc.ofCode_code, hm, hq, h0, h1, fld_of h2, fld_of h3])

theorem sfmin (q : Sched) (sd : SReg) (sa : SReg) (b : SSrc) : Statement (.sfmin q sd sa b) := by
  obtain ⟨w, hw, hl, hm, hq, h0, h1, h2, h3⟩ := fields_20_4_0_8_14_6_8_6 q 12 9 b.code sd.toNat sa.toNat (by decide) (by decide) b.code_lt sd.isLt sa.isLt
  exact encodedWord rfl (by omega) hw hl (by simp [decodeFields, decode0C, SSrc.ofCode_code, hm, hq, h0, h1, fld_of h2, fld_of h3])

theorem sfmax (q : Sched) (sd : SReg) (sa : SReg) (b : SSrc) : Statement (.sfmax q sd sa b) := by
  obtain ⟨w, hw, hl, hm, hq, h0, h1, h2, h3⟩ := fields_20_4_0_8_14_6_8_6 q 12 10 b.code sd.toNat sa.toNat (by decide) (by decide) b.code_lt sd.isLt sa.isLt
  exact encodedWord rfl (by omega) hw hl (by simp [decodeFields, decode0C, SSrc.ofCode_code, hm, hq, h0, h1, fld_of h2, fld_of h3])

theorem sfcvt (q : Sched) (sd : SReg) (sa : SReg) (dst : BitVec 4) (src : BitVec 4) : Statement (.sfcvt q sd sa dst src) := by
  obtain ⟨w, hw, hl, hm, hq, h0, h1, h2, h3, h4⟩ := fields_20_4_14_6_8_6_4_4_0_4 q 12 11 sd.toNat sa.toNat dst.toNat src.toNat (by decide) (by decide) sd.isLt sa.isLt dst.isLt src.isLt
  exact encodedWord rfl (by omega) hw hl (by simp [decodeFields, decode0C, hm, hq, h0, fld_of h1, fld_of h2, fld_of h3, fld_of h4])

theorem drawm (q : Sched) (sd : SReg) (sa : SReg) : Statement (.drawm q sd sa) := by
  obtain ⟨w, hw, hl, hm, hq, h0, h1, h2, h3⟩ := fields_20_4_0_8_14_6_8_6 q 12 12 0 sd.toNat sa.toNat (by decide) (by decide) (by decide) sd.isLt sa.isLt
  exact encodedWord rfl (by omega) hw hl (by simp [decodeFields, decode0C, ifField, hm, hq, h0, h1, fld_of h2, fld_of h3])

theorem sfexp2 (q : Sched) (sd : SReg) (b : SSrc) : Statement (.sfexp2 q sd b) := by
  obtain ⟨w, hw, hl, hm, hq, h0, h1, h2, h3⟩ := fields_20_4_8_6_0_8_14_6 q 12 13 0 b.code sd.toNat (by decide) (by decide) (by decide) b.code_lt sd.isLt
  exact encodedWord rfl (by omega) hw hl (by simp [decodeFields, decode0C, ifField, SSrc.ofCode_code, hm, hq, h0, h1, h2, fld_of h3])

theorem smovi (q : Sched) (sd : SReg) (imm : BitVec 16) : Statement (.smovi q sd imm) := by
  obtain ⟨w, hw, hl, hm, hq, h0, h1, h2⟩ := fields_22_2_16_6_0_16 q 13 0 sd.toNat imm.toNat (by decide) (by decide) sd.isLt imm.isLt
  exact encodedWord rfl (by omega) hw hl (by simp [decodeFields, decode0D, hm, hq, h0, fld_of h1, fld_of h2])

theorem sori (q : Sched) (sd : SReg) (imm : BitVec 16) : Statement (.sori q sd imm) := by
  obtain ⟨w, hw, hl, hm, hq, h0, h1, h2⟩ := fields_22_2_16_6_0_16 q 13 1 sd.toNat imm.toNat (by decide) (by decide) sd.isLt imm.isLt
  exact encodedWord rfl (by omega) hw hl (by simp [decodeFields, decode0D, hm, hq, h0, fld_of h1, fld_of h2])

theorem saddi (q : Sched) (sd : SReg) (imm : BitVec 16) : Statement (.saddi q sd imm) := by
  obtain ⟨w, hw, hl, hm, hq, h0, h1, h2⟩ := fields_22_2_16_6_0_16 q 13 2 sd.toNat imm.toNat (by decide) (by decide) sd.isLt imm.isLt
  exact encodedWord rfl (by omega) hw hl (by simp [decodeFields, decode0D, hm, hq, h0, fld_of h1, fld_of h2])

theorem scmpi (q : Sched) (sd : SReg) (imm : BitVec 16) : Statement (.scmpi q sd imm) := by
  obtain ⟨w, hw, hl, hm, hq, h0, h1, h2⟩ := fields_22_2_16_6_0_16 q 13 3 sd.toNat imm.toNat (by decide) (by decide) sd.isLt imm.isLt
  exact encodedWord rfl (by omega) hw hl (by simp [decodeFields, decode0D, hm, hq, h0, fld_of h1, fld_of h2])

theorem br (q : Sched) (hint : BrHint) (inv : Bool) (cond : BitVec 4) (off : BitVec 17) : Statement (.br q hint inv cond off) := by
  obtain ⟨w, hw, hl, hm, hq, h0, h1, h2, h3⟩ := fields_22_2_17_4_0_17_21_1 q 14 hint.code cond.toNat off.toNat (bit inv) (by decide) hint.code_lt cond.isLt off.isLt (bit_lt inv)
  exact encodedWord rfl (by omega) hw hl (by simp [decodeFields, decode0E, BrHint.ofCode_code, hm, hq, h0, fld_of h1, fld_of h2, flag_of h3])

theorem jmp (q : Sched) (off : BitVec 19) : Statement (.jmp q off) := by
  obtain ⟨w, hw, hl, hm, hq, h0, h1⟩ := fields_19_5_0_19 q 15 0 off.toNat (by decide) (by decide) off.isLt
  exact encodedWord rfl (by omega) hw hl (by simp [decodeFields, decode0F, hm, hq, h0, fld_of h1])

theorem call (q : Sched) (off : BitVec 19) : Statement (.call q off) := by
  obtain ⟨w, hw, hl, hm, hq, h0, h1⟩ := fields_19_5_0_19 q 15 1 off.toNat (by decide) (by decide) off.isLt
  exact encodedWord rfl (by omega) hw hl (by simp [decodeFields, decode0F, hm, hq, h0, fld_of h1])

theorem ret (q : Sched) : Statement (.ret q) := by
  obtain ⟨w, hw, hl, hm, hq, h0, h1⟩ := fields_19_5_0_19 q 15 2 0 (by decide) (by decide) (by decide)
  exact encodedWord rfl (by omega) hw hl (by simp [decodeFields, decode0F, ifField, hm, hq, h0, h1])

theorem brx (q : Sched) (va : VReg) : Statement (.brx q va) := by
  obtain ⟨w, hw, hl, hm, hq, h0, h1, h2, h3⟩ := fields_19_5_15_4_0_8_8_7 q 15 3 0 0 va.toNat (by decide) (by decide) (by decide) (by decide) va.isLt
  exact encodedWord rfl (by omega) hw hl (by simp [decodeFields, decode0F, ifField, hm, hq, h0, h1, h2, fld_of h3])

theorem exit (q : Sched) : Statement (.exit q) := by
  obtain ⟨w, hw, hl, hm, hq, h0, h1⟩ := fields_19_5_0_19 q 15 4 0 (by decide) (by decide) (by decide)
  exact encodedWord rfl (by omega) hw hl (by simp [decodeFields, decode0F, ifField, hm, hq, h0, h1])

theorem join (q : Sched) (m : BitVec 4) : Statement (.join q m) := by
  obtain ⟨w, hw, hl, hm, hq, h0, h1, h2⟩ := fields_19_5_4_15_0_4 q 15 5 0 m.toNat (by decide) (by decide) (by decide) m.isLt
  exact encodedWord rfl (by omega) hw hl (by simp [decodeFields, decode0F, ifField, hm, hq, h0, h1, fld_of h2])

theorem leave (q : Sched) (m : BitVec 4) : Statement (.leave q m) := by
  obtain ⟨w, hw, hl, hm, hq, h0, h1, h2⟩ := fields_19_5_4_15_0_4 q 15 6 0 m.toNat (by decide) (by decide) (by decide) m.isLt
  exact encodedWord rfl (by omega) hw hl (by simp [decodeFields, decode0F, ifField, hm, hq, h0, h1, fld_of h2])

theorem waitm (q : Sched) (m : BitVec 4) : Statement (.waitm q m) := by
  obtain ⟨w, hw, hl, hm, hq, h0, h1, h2⟩ := fields_19_5_4_15_0_4 q 15 7 0 m.toNat (by decide) (by decide) (by decide) m.isLt
  exact encodedWord rfl (by omega) hw hl (by simp [decodeFields, decode0F, ifField, hm, hq, h0, h1, fld_of h2])

theorem sleep (q : Sched) (n : BitVec 5) (t : SSrc) : Statement (.sleep q n t) := by
  obtain ⟨w, hw, hl, hm, hq, h0, h1, h2, h3⟩ := fields_19_5_13_6_0_8_8_5 q 15 8 0 t.code n.toNat (by decide) (by decide) (by decide) t.code_lt n.isLt
  exact encodedWord rfl (by omega) hw hl (by simp [decodeFields, decode0F, ifField, SSrc.ofCode_code, hm, hq, h0, h1, h2, fld_of h3])

theorem yield (q : Sched) : Statement (.yield q) := by
  obtain ⟨w, hw, hl, hm, hq, h0, h1⟩ := fields_19_5_0_19 q 15 9 0 (by decide) (by decide) (by decide)
  exact encodedWord rfl (by omega) hw hl (by simp [decodeFields, decode0F, ifField, hm, hq, h0, h1])

theorem nop (q : Sched) : Statement (.nop q) := by
  obtain ⟨w, hw, hl, hm, hq, h0, h1⟩ := fields_19_5_0_19 q 15 10 0 (by decide) (by decide) (by decide)
  exact encodedWord rfl (by omega) hw hl (by simp [decodeFields, decode0F, ifField, hm, hq, h0, h1])

theorem trap (q : Sched) (code : BitVec 8) : Statement (.trap q code) := by
  obtain ⟨w, hw, hl, hm, hq, h0, h1, h2⟩ := fields_19_5_8_11_0_8 q 15 11 0 code.toNat (by decide) (by decide) (by decide) code.isLt
  exact encodedWord rfl (by omega) hw hl (by simp [decodeFields, decode0F, ifField, hm, hq, h0, h1, fld_of h2])

theorem tret (q : Sched) : Statement (.tret q) := by
  obtain ⟨w, hw, hl, hm, hq, h0, h1⟩ := fields_19_5_0_19 q 15 12 0 (by decide) (by decide) (by decide)
  exact encodedWord rfl (by omega) hw hl (by simp [decodeFields, decode0F, ifField, hm, hq, h0, h1])

theorem tretAbort (q : Sched) : Statement (.tretAbort q) := by
  obtain ⟨w, hw, hl, hm, hq, h0, h1⟩ := fields_19_5_0_19 q 15 12 1 (by decide) (by decide) (by decide)
  exact encodedWord rfl (by omega) hw hl (by simp [decodeFields, decode0F, ifField, hm, hq, h0, h1])

theorem brk (q : Sched) (code : BitVec 8) : Statement (.brk q code) := by
  obtain ⟨w, hw, hl, hm, hq, h0, h1, h2⟩ := fields_19_5_8_11_0_8 q 15 13 0 code.toNat (by decide) (by decide) (by decide) code.isLt
  exact encodedWord rfl (by omega) hw hl (by simp [decodeFields, decode0F, ifField, hm, hq, h0, h1, fld_of h2])

theorem isync (q : Sched) : Statement (.isync q) := by
  obtain ⟨w, hw, hl, hm, hq, h0, h1⟩ := fields_19_5_0_19 q 15 14 0 (by decide) (by decide) (by decide)
  exact encodedWord rfl (by omega) hw hl (by simp [decodeFields, decode0F, ifField, hm, hq, h0, h1])

theorem ppt (q : Sched) : Statement (.ppt q) := by
  obtain ⟨w, hw, hl, hm, hq, h0, h1⟩ := fields_19_5_0_19 q 15 15 0 (by decide) (by decide) (by decide)
  exact encodedWord rfl (by omega) hw hl (by simp [decodeFields, decode0F, ifField, hm, hq, h0, h1])

theorem idem (q : Sched) : Statement (.idem q) := by
  obtain ⟨w, hw, hl, hm, hq, h0, h1⟩ := fields_19_5_0_19 q 15 16 0 (by decide) (by decide) (by decide)
  exact encodedWord rfl (by omega) hw hl (by simp [decodeFields, decode0F, ifField, hm, hq, h0, h1])

theorem idemend (q : Sched) : Statement (.idemend q) := by
  obtain ⟨w, hw, hl, hm, hq, h0, h1⟩ := fields_19_5_0_19 q 15 17 0 (by decide) (by decide) (by decide)
  exact encodedWord rfl (by omega) hw hl (by simp [decodeFields, decode0F, ifField, hm, hq, h0, h1])

theorem hintLitlo (lit : BitVec 20) : Statement (.hintLitlo lit) := by
  obtain ⟨w, hw, hl, hm, hq, h0, h1⟩ := fieldsHint_20_4_0_20 0 lit.toNat (by decide) lit.isLt
  exact encodedHint rfl (by omega) hw hl (by simp [decodeFields, decode10, ifField, hm, hq, h0, fld_of h1])

theorem hintLithi (lit : BitVec 12) : Statement (.hintLithi lit) := by
  obtain ⟨w, hw, hl, hm, hq, h0, h1, h2⟩ := fieldsHint_20_4_12_8_0_12 1 0 lit.toNat (by decide) (by decide) lit.isLt
  exact encodedHint rfl (by omega) hw hl (by simp [decodeFields, decode10, ifField, hm, hq, h0, h1, fld_of h2])

theorem hintGuard (inv : Bool) (m : BitVec 4) : Statement (.hintGuard inv m) := by
  obtain ⟨w, hw, hl, hm, hq, h0, h1, h2, h3⟩ := fieldsHint_20_4_5_15_0_4_4_1 2 0 m.toNat (bit inv) (by decide) (by decide) m.isLt (bit_lt inv)
  exact encodedHint rfl (by omega) hw hl (by simp [decodeFields, decode10, ifField, hm, hq, h0, h1, fld_of h2, flag_of h3])

theorem hintMod (sel : BitVec 4) (hf : Bool) (ord : BitVec 2) (w64 : Bool) (sat : Bool) (ab : Bool) (nb : Bool) (aa : Bool) (na : Bool) : Statement (.hintMod sel hf ord w64 sat ab nb aa na) := by
  obtain ⟨w, hw, hl, hm, hq, h0, h1, h2, h3, h4, h5, h6, h7, h8, h9, h10⟩ := fieldsHint_20_4_13_7_9_4_6_2_8_1_5_1_4_1_3_1_2_1_1_1_0_1 3 0 sel.toNat ord.toNat (bit hf) (bit w64) (bit sat) (bit ab) (bit nb) (bit aa) (bit na) (by decide) (by decide) sel.isLt ord.isLt (bit_lt hf) (bit_lt w64) (bit_lt sat) (bit_lt ab) (bit_lt nb) (bit_lt aa) (bit_lt na)
  exact encodedHint rfl (by omega) hw hl (by simp [decodeFields, decode10, ifField, hm, hq, h0, h1, fld_of h2, fld_of h3, flag_of h4, flag_of h5, flag_of h6, flag_of h7, flag_of h8, flag_of h9, flag_of h10])

theorem hintRnd (mode : BitVec 3) : Statement (.hintRnd mode) := by
  obtain ⟨w, hw, hl, hm, hq, h0, h1, h2⟩ := fieldsHint_20_4_3_17_0_3 4 0 mode.toNat (by decide) (by decide) mode.isLt
  exact encodedHint rfl (by omega) hw hl (by simp [decodeFields, decode10, ifField, hm, hq, h0, h1, fld_of h2])

theorem hintScope (scope : BitVec 3) : Statement (.hintScope scope) := by
  obtain ⟨w, hw, hl, hm, hq, h0, h1, h2⟩ := fieldsHint_20_4_3_17_0_3 5 0 scope.toNat (by decide) (by decide) scope.isLt
  exact encodedHint rfl (by omega) hw hl (by simp [decodeFields, decode10, ifField, hm, hq, h0, h1, fld_of h2])

theorem hintCache (policy : BitVec 2) : Statement (.hintCache policy) := by
  obtain ⟨w, hw, hl, hm, hq, h0, h1, h2⟩ := fieldsHint_20_4_2_18_0_2 6 0 policy.toNat (by decide) (by decide) policy.isLt
  exact encodedHint rfl (by omega) hw hl (by simp [decodeFields, decode10, ifField, hm, hq, h0, h1, fld_of h2])

theorem hintGap (gap : BitVec 8) : Statement (.hintGap gap) := by
  obtain ⟨w, hw, hl, hm, hq, h0, h1, h2⟩ := fieldsHint_20_4_8_12_0_8 7 0 gap.toNat (by decide) (by decide) gap.isLt
  exact encodedHint rfl (by omega) hw hl (by simp [decodeFields, decode10, ifField, hm, hq, h0, h1, fld_of h2])

theorem vld (q : Sched) (vd : VReg) (base : BitVec 5) (voff : BitVec 7) (width : Width) : Statement (.vld q vd base voff width) := by
  obtain ⟨w, hw, hl, hm, hq, h0, h1, h2, h3, h4⟩ := fields_0_2_2_3_17_7_12_5_5_7 q 17 0 width.code vd.toNat base.toNat voff.toNat (by decide) (by decide) width.code_lt vd.isLt base.isLt voff.isLt
  refine encodedWord rfl (by omega) hw hl ?_
  clear hw hl
  cases width <;> simp_all [decodeFields, decode11, Width.ofCode_code, hm, hq, h0, h1, fld_of h2, fld_of h3, fld_of h4, Width.code, AtomOp.code, Width.ofCode, AtomOp.ofCode]

theorem vpref (q : Sched) (base : BitVec 5) (voff : BitVec 7) : Statement (.vpref q base voff) := by
  obtain ⟨w, hw, hl, hm, hq, h0, h1, h2, h3, h4⟩ := fields_0_2_2_3_17_7_12_5_5_7 q 17 0 7 0 base.toNat voff.toNat (by decide) (by decide) (by decide) (by decide) base.isLt voff.isLt
  exact encodedWord rfl (by omega) hw hl (by simp [decodeFields, decode11, ifField, hm, hq, h0, h1, h2, fld_of h3, fld_of h4])

theorem vlds (q : Sched) (vd : VReg) (base : BitVec 5) (voff : BitVec 7) (width : Width) : Statement (.vlds q vd base voff width) := by
  obtain ⟨w, hw, hl, hm, hq, h0, h1, h2, h3, h4⟩ := fields_0_2_2_3_17_7_12_5_5_7 q 17 1 width.code vd.toNat base.toNat voff.toNat (by decide) (by decide) width.code_lt vd.isLt base.isLt voff.isLt
  exact encodedWord rfl (by omega) hw hl (by simp [decodeFields, decode11, Width.ofCode_code, hm, hq, h0, h1, fld_of h2, fld_of h3, fld_of h4])

theorem vldc (q : Sched) (vd : VReg) (base : BitVec 5) (voff : BitVec 7) (width : Width) : Statement (.vldc q vd base voff width) := by
  obtain ⟨w, hw, hl, hm, hq, h0, h1, h2, h3, h4⟩ := fields_0_2_2_3_17_7_12_5_5_7 q 17 2 width.code vd.toNat base.toNat voff.toNat (by decide) (by decide) width.code_lt vd.isLt base.isLt voff.isLt
  exact encodedWord rfl (by omega) hw hl (by simp [decodeFields, decode11, Width.ofCode_code, hm, hq, h0, h1, fld_of h2, fld_of h3, fld_of h4])

theorem vldt (q : Sched) (vd : VReg) (base : BitVec 5) (voff : BitVec 7) (width : Width) : Statement (.vldt q vd base voff width) := by
  obtain ⟨w, hw, hl, hm, hq, h0, h1, h2, h3, h4⟩ := fields_0_2_2_3_17_7_12_5_5_7 q 17 3 width.code vd.toNat base.toNat voff.toNat (by decide) (by decide) width.code_lt vd.isLt base.isLt voff.isLt
  exact encodedWord rfl (by omega) hw hl (by simp [decodeFields, decode11, Width.ofCode_code, hm, hq, h0, h1, fld_of h2, fld_of h3, fld_of h4])

theorem vst (q : Sched) (vs : VReg) (base : BitVec 5) (voff : BitVec 7) (width : Width) : Statement (.vst q vs base voff width) := by
  obtain ⟨w, hw, hl, hm, hq, h0, h1, h2, h3, h4⟩ := fields_0_2_2_3_17_7_12_5_5_7 q 18 0 width.code vs.toNat base.toNat voff.toNat (by decide) (by decide) width.code_lt vs.isLt base.isLt voff.isLt
  exact encodedWord rfl (by omega) hw hl (by simp [decodeFields, decode12, Width.ofCode_code, hm, hq, h0, h1, fld_of h2, fld_of h3, fld_of h4])

theorem vsts (q : Sched) (vs : VReg) (base : BitVec 5) (voff : BitVec 7) (width : Width) : Statement (.vsts q vs base voff width) := by
  obtain ⟨w, hw, hl, hm, hq, h0, h1, h2, h3, h4⟩ := fields_0_2_2_3_17_7_12_5_5_7 q 18 1 width.code vs.toNat base.toNat voff.toNat (by decide) (by decide) width.code_lt vs.isLt base.isLt voff.isLt
  exact encodedWord rfl (by omega) hw hl (by simp [decodeFields, decode12, Width.ofCode_code, hm, hq, h0, h1, fld_of h2, fld_of h3, fld_of h4])

theorem vpwb (q : Sched) (base : BitVec 5) (voff : BitVec 7) : Statement (.vpwb q base voff) := by
  obtain ⟨w, hw, hl, hm, hq, h0, h1, h2, h3, h4⟩ := fields_0_2_2_3_17_7_12_5_5_7 q 18 2 7 0 base.toNat voff.toNat (by decide) (by decide) (by decide) (by decide) base.isLt voff.isLt
  exact encodedWord rfl (by omega) hw hl (by simp [decodeFields, decode12, ifField, hm, hq, h0, h1, h2, fld_of h3, fld_of h4])

theorem vatom (q : Sched) (op : AtomOp) (vd : VReg) (voff : BitVec 7) (base : BitVec 5) : Statement (.vatom q op vd voff base) := by
  obtain ⟨w, hw, hl, hm, hq, h0, h1, h2, h3, h4⟩ := fields_0_1_20_4_13_7_6_7_1_5 q 19 0 op.code vd.toNat voff.toNat base.toNat (by decide) (by decide) op.code_lt vd.isLt voff.isLt base.isLt
  refine encodedWord rfl (by omega) hw hl ?_
  clear hw hl
  cases op <;> simp_all [decodeFields, decode13, AtomOp.ofCode_code, hm, hq, h0, h1, fld_of h2, fld_of h3, fld_of h4, Width.code, AtomOp.code, Width.ofCode, AtomOp.ofCode]

theorem vatoms (q : Sched) (op : AtomOp) (vd : VReg) (voff : BitVec 7) (base : BitVec 5) : Statement (.vatoms q op vd voff base) := by
  obtain ⟨w, hw, hl, hm, hq, h0, h1, h2, h3, h4⟩ := fields_0_1_20_4_13_7_6_7_1_5 q 19 1 op.code vd.toNat voff.toNat base.toNat (by decide) (by decide) op.code_lt vd.isLt voff.isLt base.isLt
  refine encodedWord rfl (by omega) hw hl ?_
  clear hw hl
  cases op <;> simp_all [decodeFields, decode13, AtomOp.ofCode_code, hm, hq, h0, h1, fld_of h2, fld_of h3, fld_of h4, Width.code, AtomOp.code, Width.ofCode, AtomOp.ofCode]

theorem vcas (q : Sched) (vd : VReg) (voff : BitVec 7) (base : BitVec 5) : Statement (.vcas q vd voff base) := by
  obtain ⟨w, hw, hl, hm, hq, h0, h1, h2, h3, h4⟩ := fields_0_1_20_4_13_7_6_7_1_5 q 19 0 11 vd.toNat voff.toNat base.toNat (by decide) (by decide) (by decide) vd.isLt voff.isLt base.isLt
  exact encodedWord rfl (by omega) hw hl (by simp [decodeFields, decode13, hm, hq, h0, h1, fld_of h2, fld_of h3, fld_of h4])

theorem vatomsCas (q : Sched) (vd : VReg) (voff : BitVec 7) (base : BitVec 5) : Statement (.vatomsCas q vd voff base) := by
  obtain ⟨w, hw, hl, hm, hq, h0, h1, h2, h3, h4⟩ := fields_0_1_20_4_13_7_6_7_1_5 q 19 1 11 vd.toNat voff.toNat base.toNat (by decide) (by decide) (by decide) vd.isLt voff.isLt base.isLt
  exact encodedWord rfl (by omega) hw hl (by simp [decodeFields, decode13, hm, hq, h0, h1, fld_of h2, fld_of h3, fld_of h4])

theorem bfadd (q : Sched) (vd : VReg) (voff : BitVec 7) (base : BitVec 5) : Statement (.bfadd q vd voff base) := by
  obtain ⟨w, hw, hl, hm, hq, h0, h1, h2, h3, h4⟩ := fields_0_1_20_4_13_7_6_7_1_5 q 19 0 12 vd.toNat voff.toNat base.toNat (by decide) (by decide) (by decide) vd.isLt voff.isLt base.isLt
  exact encodedWord rfl (by omega) hw hl (by simp [decodeFields, decode13, hm, hq, h0, h1, fld_of h2, fld_of h3, fld_of h4])

theorem sld (q : Sched) (sd : SReg) (base : BitVec 5) (w64 : Bool) (off : BitVec 8) : Statement (.sld q sd base w64 off) := by
  obtain ⟨w, hw, hl, hm, hq, h0, h1, h2, h3, h4, h5⟩ := fields_21_3_9_1_15_6_10_5_0_8_8_1 q 20 0 0 sd.toNat base.toNat off.toNat (bit w64) (by decide) (by decide) (by decide) sd.isLt base.isLt off.isLt (bit_lt w64)
  exact encodedWord rfl (by omega) hw hl (by simp [decodeFields, decode14, ifField, hm, hq, h0, h1, fld_of h2, fld_of h3, fld_of h4, flag_of h5])

theorem sst (q : Sched) (sd : SReg) (base : BitVec 5) (w64 : Bool) (off : BitVec 8) : Statement (.sst q sd base w64 off) := by
  obtain ⟨w, hw, hl, hm, hq, h0, h1, h2, h3, h4, h5⟩ := fields_21_3_9_1_15_6_10_5_0_8_8_1 q 20 1 0 sd.toNat base.toNat off.toNat (bit w64) (by decide) (by decide) (by decide) sd.isLt base.isLt off.isLt (bit_lt w64)
  exact encodedWord rfl (by omega) hw hl (by simp [decodeFields, decode14, ifField, hm, hq, h0, h1, fld_of h2, fld_of h3, fld_of h4, flag_of h5])

theorem sldk (q : Sched) (sd : SReg) (base : BitVec 5) (w64 : Bool) (off : BitVec 8) : Statement (.sldk q sd base w64 off) := by
  obtain ⟨w, hw, hl, hm, hq, h0, h1, h2, h3, h4, h5⟩ := fields_21_3_9_1_15_6_10_5_0_8_8_1 q 20 2 0 sd.toNat base.toNat off.toNat (bit w64) (by decide) (by decide) (by decide) sd.isLt base.isLt off.isLt (bit_lt w64)
  exact encodedWord rfl (by omega) hw hl (by simp [decodeFields, decode14, ifField, hm, hq, h0, h1, fld_of h2, fld_of h3, fld_of h4, flag_of h5])

theorem satom (q : Sched) (sd : SReg) (base : BitVec 5) (w64 : Bool) (op : AtomOp) : Statement (.satom q sd base w64 op) := by
  obtain ⟨w, hw, hl, hm, hq, h0, h1, h2, h3, h4, h5, h6⟩ := fields_21_3_9_1_4_4_0_4_15_6_10_5_8_1 q 20 3 0 0 op.code sd.toNat base.toNat (bit w64) (by decide) (by decide) (by decide) (by decide) op.code_lt sd.isLt base.isLt (bit_lt w64)
  exact encodedWord rfl (by omega) hw hl (by simp [decodeFields, decode14, ifField, AtomOp.ofCode_code, hm, hq, h0, h1, h2, h3, fld_of h4, fld_of h5, flag_of h6])

theorem scas (q : Sched) (sd : SReg) (base : BitVec 5) (w64 : Bool) : Statement (.scas q sd base w64) := by
  obtain ⟨w, hw, hl, hm, hq, h0, h1, h2, h3, h4, h5⟩ := fields_21_3_9_1_0_8_15_6_10_5_8_1 q 20 4 0 0 sd.toNat base.toNat (bit w64) (by decide) (by decide) (by decide) (by decide) sd.isLt base.isLt (bit_lt w64)
  exact encodedWord rfl (by omega) hw hl (by simp [decodeFields, decode14, ifField, hm, hq, h0, h1, h2, fld_of h3, fld_of h4, flag_of h5])

theorem vrfl (q : Sched) (sd : SReg) (va : VReg) : Statement (.vrfl q sd va) := by
  obtain ⟨w, hw, hl, hm, hq, h0, h1, h2, h3⟩ := fields_20_4_7_7_14_6_0_7 q 21 0 0 sd.toNat va.toNat (by decide) (by decide) (by decide) sd.isLt va.isLt
  exact encodedWord rfl (by omega) hw hl (by simp [decodeFields, decode15, ifField, hm, hq, h0, h1, fld_of h2, fld_of h3])

theorem vrdln (q : Sched) (sd : SReg) (sl : SReg) (va : VReg) : Statement (.vrdln q sd sl va) := by
  obtain ⟨w, hw, hl, hm, hq, h0, h1, h2, h3, h4⟩ := fields_20_4_13_1_14_6_7_6_0_7 q 21 1 0 sd.toNat sl.toNat va.toNat (by decide) (by decide) (by decide) sd.isLt sl.isLt va.isLt
  exact encodedWord rfl (by omega) hw hl (by simp [decodeFields, decode15, ifField, hm, hq, h0, h1, fld_of h2, fld_of h3, fld_of h4])

theorem vwrln (q : Sched) (sl : SReg) (vd : VReg) (sb : SReg) : Statement (.vwrln q sl vd sb) := by
  obtain ⟨w, hw, hl, hm, hq, h0, h1, h2, h3, h4⟩ := fields_20_4_6_1_14_6_7_7_0_6 q 21 2 0 sl.toNat vd.toNat sb.toNat (by decide) (by decide) (by decide) sl.isLt vd.isLt sb.isLt
  exact encodedWord rfl (by omega) hw hl (by simp [decodeFields, decode15, ifField, hm, hq, h0, h1, fld_of h2, fld_of h3, fld_of h4])

theorem vmatch (q : Sched) (vd : VReg) (va : VReg) : Statement (.vmatch q vd va) := by
  obtain ⟨w, hw, hl, hm, hq, h0, h1, h2, h3⟩ := fields_20_4_14_6_7_7_0_7 q 21 3 0 vd.toNat va.toNat (by decide) (by decide) (by decide) vd.isLt va.isLt
  exact encodedWord rfl (by omega) hw hl (by simp [decodeFields, decode15, ifField, hm, hq, h0, h1, fld_of h2, fld_of h3])

theorem vballot (q : Sched) (md : BitVec 4) (va : VReg) : Statement (.vballot q md va) := by
  obtain ⟨w, hw, hl, hm, hq, h0, h1, h2, h3, h4⟩ := fields_20_4_18_2_7_7_14_4_0_7 q 21 4 0 0 md.toNat va.toNat (by decide) (by decide) (by decide) (by decide) md.isLt va.isLt
  exact encodedWord rfl (by omega) hw hl (by simp [decodeFields, decode15, ifField, hm, hq, h0, h1, h2, fld_of h3, fld_of h4])

theorem vredu (q : Sched) (sd : SReg) (fl : Bool) (op : RedOp) (va : VReg) : Statement (.vredu q sd fl op va) := by
  obtain ⟨w, hw, hl, hm, hq, h0, h1, h2, h3, h4, h5⟩ := fields_20_4_11_3_7_3_14_6_0_7_10_1 q 21 5 0 op.code sd.toNat va.toNat (bit fl) (by decide) (by decide) (by decide) op.code_lt sd.isLt va.isLt (bit_lt fl)
  exact encodedWord rfl (by omega) hw hl (by simp [decodeFields, decode15, ifField, RedOp.ofCode_code, hm, hq, h0, h1, h2, fld_of h3, fld_of h4, flag_of h5])

theorem vscan (q : Sched) (excl : Bool) (fl : Bool) (op : RedOp) (vd : VReg) (va : VReg) : Statement (.vscan q excl fl op vd va) := by
  obtain ⟨w, hw, hl, hm, hq, h0, h1, h2, h3, h4, h5, h6⟩ := fields_20_4_19_1_14_3_7_7_0_7_18_1_17_1 q 21 6 0 op.code vd.toNat va.toNat (bit excl) (bit fl) (by decide) (by decide) (by decide) op.code_lt vd.isLt va.isLt (bit_lt excl) (bit_lt fl)
  exact encodedWord rfl (by omega) hw hl (by simp [decodeFields, decode15, ifField, RedOp.ofCode_code, hm, hq, h0, h1, h2, fld_of h3, fld_of h4, flag_of h5, flag_of h6])

theorem vdraw (q : Sched) (sd : SReg) (sc : SReg) (va : VReg) : Statement (.vdraw q sd sc va) := by
  obtain ⟨w, hw, hl, hm, hq, h0, h1, h2, h3, h4⟩ := fields_20_4_13_1_14_6_7_6_0_7 q 21 7 0 sd.toNat sc.toNat va.toNat (by decide) (by decide) (by decide) sd.isLt sc.isLt va.isLt
  exact encodedWord rfl (by omega) hw hl (by simp [decodeFields, decode15, ifField, hm, hq, h0, h1, fld_of h2, fld_of h3, fld_of h4])

theorem mand (q : Sched) (md : BitVec 6) (ma : BitVec 6) (mb : BitVec 4) : Statement (.mand q md ma mb) := by
  obtain ⟨w, hw, hl, hm, hq, h0, h1, h2, h3, h4⟩ := fields_20_4_4_4_14_6_8_6_0_4 q 22 0 0 md.toNat ma.toNat mb.toNat (by decide) (by decide) (by decide) md.isLt ma.isLt mb.isLt
  exact encodedWord rfl (by omega) hw hl (by simp [decodeFields, decode16, ifField, hm, hq, h0, h1, fld_of h2, fld_of h3, fld_of h4])

theorem mor (q : Sched) (md : BitVec 6) (ma : BitVec 6) (mb : BitVec 4) : Statement (.mor q md ma mb) := by
  obtain ⟨w, hw, hl, hm, hq, h0, h1, h2, h3, h4⟩ := fields_20_4_4_4_14_6_8_6_0_4 q 22 1 0 md.toNat ma.toNat mb.toNat (by decide) (by decide) (by decide) md.isLt ma.isLt mb.isLt
  exact encodedWord rfl (by omega) hw hl (by simp [decodeFields, decode16, ifField, hm, hq, h0, h1, fld_of h2, fld_of h3, fld_of h4])

theorem mxor (q : Sched) (md : BitVec 6) (ma : BitVec 6) (mb : BitVec 4) : Statement (.mxor q md ma mb) := by
  obtain ⟨w, hw, hl, hm, hq, h0, h1, h2, h3, h4⟩ := fields_20_4_4_4_14_6_8_6_0_4 q 22 2 0 md.toNat ma.toNat mb.toNat (by decide) (by decide) (by decide) md.isLt ma.isLt mb.isLt
  exact encodedWord rfl (by omega) hw hl (by simp [decodeFields, decode16, ifField, hm, hq, h0, h1, fld_of h2, fld_of h3, fld_of h4])

theorem mandn (q : Sched) (md : BitVec 6) (ma : BitVec 6) (mb : BitVec 4) : Statement (.mandn q md ma mb) := by
  obtain ⟨w, hw, hl, hm, hq, h0, h1, h2, h3, h4⟩ := fields_20_4_4_4_14_6_8_6_0_4 q 22 3 0 md.toNat ma.toNat mb.toNat (by decide) (by decide) (by decide) md.isLt ma.isLt mb.isLt
  exact encodedWord rfl (by omega) hw hl (by simp [decodeFields, decode16, ifField, hm, hq, h0, h1, fld_of h2, fld_of h3, fld_of h4])

theorem mmov (q : Sched) (md : BitVec 6) (ma : BitVec 6) : Statement (.mmov q md ma) := by
  obtain ⟨w, hw, hl, hm, hq, h0, h1, h2, h3⟩ := fields_20_4_0_8_14_6_8_6 q 22 4 0 md.toNat ma.toNat (by decide) (by decide) (by decide) md.isLt ma.isLt
  exact encodedWord rfl (by omega) hw hl (by simp [decodeFields, decode16, ifField, hm, hq, h0, h1, fld_of h2, fld_of h3])

theorem mpopc (q : Sched) (sd : SReg) (ma : BitVec 6) : Statement (.mpopc q sd ma) := by
  obtain ⟨w, hw, hl, hm, hq, h0, h1, h2, h3⟩ := fields_20_4_0_8_14_6_8_6 q 22 5 0 sd.toNat ma.toNat (by decide) (by decide) (by decide) sd.isLt ma.isLt
  exact encodedWord rfl (by omega) hw hl (by simp [decodeFields, decode16, ifField, hm, hq, h0, h1, fld_of h2, fld_of h3])

theorem mfirst (q : Sched) (md : BitVec 6) (ma : BitVec 6) : Statement (.mfirst q md ma) := by
  obtain ⟨w, hw, hl, hm, hq, h0, h1, h2, h3⟩ := fields_20_4_0_8_14_6_8_6 q 22 6 0 md.toNat ma.toNat (by decide) (by decide) (by decide) md.isLt ma.isLt
  exact encodedWord rfl (by omega) hw hl (by simp [decodeFields, decode16, ifField, hm, hq, h0, h1, fld_of h2, fld_of h3])

theorem mset (q : Sched) (md : BitVec 6) (sa : SReg) : Statement (.mset q md sa) := by
  obtain ⟨w, hw, hl, hm, hq, h0, h1, h2, h3⟩ := fields_20_4_0_8_14_6_8_6 q 22 7 0 md.toNat sa.toNat (by decide) (by decide) (by decide) md.isLt sa.isLt
  exact encodedWord rfl (by omega) hw hl (by simp [decodeFields, decode16, ifField, hm, hq, h0, h1, fld_of h2, fld_of h3])

theorem mget (q : Sched) (sd : SReg) (ma : BitVec 6) : Statement (.mget q sd ma) := by
  obtain ⟨w, hw, hl, hm, hq, h0, h1, h2, h3⟩ := fields_20_4_0_8_14_6_8_6 q 22 8 0 sd.toNat ma.toNat (by decide) (by decide) (by decide) sd.isLt ma.isLt
  exact encodedWord rfl (by omega) hw hl (by simp [decodeFields, decode16, ifField, hm, hq, h0, h1, fld_of h2, fld_of h3])

theorem fence (q : Sched) (kind : FenceKind) (scope : BitVec 3) : Statement (.fence q kind scope) := by
  obtain ⟨w, hw, hl, hm, hq, h0, h1, h2, h3⟩ := fields_20_4_5_15_3_2_0_3 q 23 0 0 kind.code scope.toNat (by decide) (by decide) (by decide) kind.code_lt scope.isLt
  exact encodedWord rfl (by omega) hw hl (by simp [decodeFields, decode17, ifField, FenceKind.ofCode_code, hm, hq, h0, h1, h2, fld_of h3])

theorem qfence (q : Sched) (queues : BitVec 6) : Statement (.qfence q queues) := by
  obtain ⟨w, hw, hl, hm, hq, h0, h1, h2⟩ := fields_20_4_6_14_0_6 q 23 1 0 queues.toNat (by decide) (by decide) (by decide) queues.isLt
  exact encodedWord rfl (by omega) hw hl (by simp [decodeFields, decode17, ifField, hm, hq, h0, h1, fld_of h2])

theorem pfence (q : Sched) : Statement (.pfence q) := by
  obtain ⟨w, hw, hl, hm, hq, h0, h1⟩ := fields_20_4_0_20 q 23 2 0 (by decide) (by decide) (by decide)
  exact encodedWord rfl (by omega) hw hl (by simp [decodeFields, decode17, ifField, hm, hq, h0, h1])

theorem barinit (q : Sched) (sa : SReg) : Statement (.barinit q sa) := by
  obtain ⟨w, hw, hl, hm, hq, h0, h1, h2, h3⟩ := fields_20_4_14_6_0_8_8_6 q 23 3 0 0 sa.toNat (by decide) (by decide) (by decide) (by decide) sa.isLt
  exact encodedWord rfl (by omega) hw hl (by simp [decodeFields, decode17, ifField, hm, hq, h0, h1, h2, fld_of h3])

theorem bararr (q : Sched) (sa : SReg) : Statement (.bararr q sa) := by
  obtain ⟨w, hw, hl, hm, hq, h0, h1, h2, h3⟩ := fields_20_4_14_6_0_8_8_6 q 23 4 0 0 sa.toNat (by decide) (by decide) (by decide) (by decide) sa.isLt
  exact encodedWord rfl (by omega) hw hl (by simp [decodeFields, decode17, ifField, hm, hq, h0, h1, h2, fld_of h3])

theorem bartest (q : Sched) (sd : SReg) (sa : SReg) (sb : SReg) : Statement (.bartest q sd sa sb) := by
  obtain ⟨w, hw, hl, hm, hq, h0, h1, h2, h3, h4⟩ := fields_20_4_6_2_14_6_8_6_0_6 q 23 5 0 sd.toNat sa.toNat sb.toNat (by decide) (by decide) (by decide) sd.isLt sa.isLt sb.isLt
  exact encodedWord rfl (by omega) hw hl (by simp [decodeFields, decode17, ifField, hm, hq, h0, h1, fld_of h2, fld_of h3, fld_of h4])

theorem barwait (q : Sched) (sa : SReg) (sb : SReg) : Statement (.barwait q sa sb) := by
  obtain ⟨w, hw, hl, hm, hq, h0, h1, h2, h3, h4⟩ := fields_20_4_14_6_6_2_8_6_0_6 q 23 6 0 0 sa.toNat sb.toNat (by decide) (by decide) (by decide) (by decide) sa.isLt sb.isLt
  exact encodedWord rfl (by omega) hw hl (by simp [decodeFields, decode17, ifField, hm, hq, h0, h1, h2, fld_of h3, fld_of h4])

theorem barinv (q : Sched) (sa : SReg) : Statement (.barinv q sa) := by
  obtain ⟨w, hw, hl, hm, hq, h0, h1, h2, h3⟩ := fields_20_4_14_6_0_8_8_6 q 23 7 0 0 sa.toNat (by decide) (by decide) (by decide) (by decide) sa.isLt
  exact encodedWord rfl (by omega) hw hl (by simp [decodeFields, decode17, ifField, hm, hq, h0, h1, h2, fld_of h3])

theorem wbar (q : Sched) (scope : WbarScope) (sa : SReg) : Statement (.wbar q scope sa) := by
  obtain ⟨w, hw, hl, hm, hq, h0, h1, h2, h3, h4⟩ := fields_20_4_14_6_2_6_0_2_8_6 q 23 8 0 0 scope.code sa.toNat (by decide) (by decide) (by decide) (by decide) scope.code_lt sa.isLt
  exact encodedWord rfl (by omega) hw hl (by simp [decodeFields, decode17, ifField, WbarScope.ofCode_code, hm, hq, h0, h1, h2, h3, fld_of h4])

theorem cpy (q : Sched) (sa : SReg) : Statement (.cpy q sa) := by
  obtain ⟨w, hw, hl, hm, hq, h0, h1, h2⟩ := fields_20_4_0_14_14_6 q 24 0 0 sa.toNat (by decide) (by decide) (by decide) sa.isLt
  exact encodedWord rfl (by omega) hw hl (by simp [decodeFields, decode18, ifField, hm, hq, h0, h1, fld_of h2])

theorem cpym (q : Sched) (sa : SReg) (sm : SReg) : Statement (.cpym q sa sm) := by
  obtain ⟨w, hw, hl, hm, hq, h0, h1, h2, h3⟩ := fields_20_4_0_8_14_6_8_6 q 24 1 0 sa.toNat sm.toNat (by decide) (by decide) (by decide) sa.isLt sm.isLt
  exact encodedWord rfl (by omega) hw hl (by simp [decodeFields, decode18, ifField, hm, hq, h0, h1, fld_of h2, fld_of h3])

theorem xfer (q : Sched) (sa : SReg) : Statement (.xfer q sa) := by
  obtain ⟨w, hw, hl, hm, hq, h0, h1, h2⟩ := fields_20_4_0_14_14_6 q 24 2 0 sa.toNat (by decide) (by decide) (by decide) sa.isLt
  exact encodedWord rfl (by omega) hw hl (by simp [decodeFields, decode18, ifField, hm, hq, h0, h1, fld_of h2])

theorem coll (q : Sched) (sa : SReg) : Statement (.coll q sa) := by
  obtain ⟨w, hw, hl, hm, hq, h0, h1, h2⟩ := fields_20_4_0_14_14_6 q 24 3 0 sa.toNat (by decide) (by decide) (by decide) sa.isLt
  exact encodedWord rfl (by omega) hw hl (by simp [decodeFields, decode18, ifField, hm, hq, h0, h1, fld_of h2])

theorem signal (q : Sched) (sa : SReg) (sb : SReg) : Statement (.signal q sa sb) := by
  obtain ⟨w, hw, hl, hm, hq, h0, h1, h2, h3⟩ := fields_20_4_0_8_14_6_8_6 q 24 4 0 sa.toNat sb.toNat (by decide) (by decide) (by decide) sa.isLt sb.isLt
  exact encodedWord rfl (by omega) hw hl (by simp [decodeFields, decode18, ifField, hm, hq, h0, h1, fld_of h2, fld_of h3])

theorem tagc (q : Sched) (sa : SReg) (sb : SReg) : Statement (.tagc q sa sb) := by
  obtain ⟨w, hw, hl, hm, hq, h0, h1, h2, h3⟩ := fields_20_4_0_8_14_6_8_6 q 24 5 0 sa.toNat sb.toNat (by decide) (by decide) (by decide) sa.isLt sb.isLt
  exact encodedWord rfl (by omega) hw hl (by simp [decodeFields, decode18, ifField, hm, hq, h0, h1, fld_of h2, fld_of h3])

theorem tagq (q : Sched) (sd : SReg) (sa : SReg) : Statement (.tagq q sd sa) := by
  obtain ⟨w, hw, hl, hm, hq, h0, h1, h2, h3⟩ := fields_20_4_0_8_14_6_8_6 q 24 6 0 sd.toNat sa.toNat (by decide) (by decide) (by decide) sd.isLt sa.isLt
  exact encodedWord rfl (by omega) hw hl (by simp [decodeFields, decode18, ifField, hm, hq, h0, h1, fld_of h2, fld_of h3])

theorem oclaim (q : Sched) (sa : SReg) : Statement (.oclaim q sa) := by
  obtain ⟨w, hw, hl, hm, hq, h0, h1, h2⟩ := fields_20_4_0_14_14_6 q 25 0 0 sa.toNat (by decide) (by decide) (by decide) sa.isLt
  exact encodedWord rfl (by omega) hw hl (by simp [decodeFields, decode19, ifField, hm, hq, h0, h1, fld_of h2])

theorem orel (q : Sched) (sa : SReg) : Statement (.orel q sa) := by
  obtain ⟨w, hw, hl, hm, hq, h0, h1, h2⟩ := fields_20_4_0_14_14_6 q 25 1 0 sa.toNat (by decide) (by decide) (by decide) sa.isLt
  exact encodedWord rfl (by omega) hw hl (by simp [decodeFields, decode19, ifField, hm, hq, h0, h1, fld_of h2])

theorem oload (q : Sched) (sa : SReg) : Statement (.oload q sa) := by
  obtain ⟨w, hw, hl, hm, hq, h0, h1, h2⟩ := fields_20_4_0_14_14_6 q 25 2 0 sa.toNat (by decide) (by decide) (by decide) sa.isLt
  exact encodedWord rfl (by omega) hw hl (by simp [decodeFields, decode19, ifField, hm, hq, h0, h1, fld_of h2])

theorem aclaim (q : Sched) (sa : SReg) : Statement (.aclaim q sa) := by
  obtain ⟨w, hw, hl, hm, hq, h0, h1, h2⟩ := fields_20_4_0_14_14_6 q 25 3 0 sa.toNat (by decide) (by decide) (by decide) sa.isLt
  exact encodedWord rfl (by omega) hw hl (by simp [decodeFields, decode19, ifField, hm, hq, h0, h1, fld_of h2])

theorem arel (q : Sched) (sa : SReg) : Statement (.arel q sa) := by
  obtain ⟨w, hw, hl, hm, hq, h0, h1, h2⟩ := fields_20_4_0_14_14_6 q 25 4 0 sa.toNat (by decide) (by decide) (by decide) sa.isLt
  exact encodedWord rfl (by omega) hw hl (by simp [decodeFields, decode19, ifField, hm, hq, h0, h1, fld_of h2])

theorem mma (q : Sched) (sa : SReg) : Statement (.mma q sa) := by
  obtain ⟨w, hw, hl, hm, hq, h0, h1, h2⟩ := fields_20_4_0_14_14_6 q 25 5 0 sa.toNat (by decide) (by decide) (by decide) sa.isLt
  exact encodedWord rfl (by omega) hw hl (by simp [decodeFields, decode19, ifField, hm, hq, h0, h1, fld_of h2])

theorem mzero (q : Sched) (tile : BitVec 4) : Statement (.mzero q tile) := by
  obtain ⟨w, hw, hl, hm, hq, h0, h1, h2⟩ := fields_20_4_4_16_0_4 q 25 6 0 tile.toNat (by decide) (by decide) (by decide) tile.isLt
  exact encodedWord rfl (by omega) hw hl (by simp [decodeFields, decode19, ifField, hm, hq, h0, h1, fld_of h2])

theorem mstore (q : Sched) (sa : SReg) : Statement (.mstore q sa) := by
  obtain ⟨w, hw, hl, hm, hq, h0, h1, h2⟩ := fields_20_4_0_14_14_6 q 25 7 0 sa.toNat (by decide) (by decide) (by decide) sa.isLt
  exact encodedWord rfl (by omega) hw hl (by simp [decodeFields, decode19, ifField, hm, hq, h0, h1, fld_of h2])

theorem mwait (q : Sched) (tile : BitVec 4) : Statement (.mwait q tile) := by
  obtain ⟨w, hw, hl, hm, hq, h0, h1, h2⟩ := fields_20_4_4_16_0_4 q 25 8 0 tile.toNat (by decide) (by decide) (by decide) tile.isLt
  exact encodedWord rfl (by omega) hw hl (by simp [decodeFields, decode19, ifField, hm, hq, h0, h1, fld_of h2])

theorem spawn (q : Sched) (va : VReg) : Statement (.spawn q va) := by
  obtain ⟨w, hw, hl, hm, hq, h0, h1, h2⟩ := fields_20_4_7_13_0_7 q 26 0 0 va.toNat (by decide) (by decide) (by decide) va.isLt
  exact encodedWord rfl (by omega) hw hl (by simp [decodeFields, decode1A, ifField, hm, hq, h0, h1, fld_of h2])

theorem fbind (q : Sched) (sa : SReg) : Statement (.fbind q sa) := by
  obtain ⟨w, hw, hl, hm, hq, h0, h1, h2, h3⟩ := fields_20_4_14_6_0_8_8_6 q 26 1 0 0 sa.toNat (by decide) (by decide) (by decide) (by decide) sa.isLt
  exact encodedWord rfl (by omega) hw hl (by simp [decodeFields, decode1A, ifField, hm, hq, h0, h1, h2, fld_of h3])

theorem fset (q : Sched) (sa : SReg) (sb : SReg) : Statement (.fset q sa sb) := by
  obtain ⟨w, hw, hl, hm, hq, h0, h1, h2, h3⟩ := fields_20_4_0_8_8_6_14_6 q 26 2 0 sa.toNat sb.toNat (by decide) (by decide) (by decide) sa.isLt sb.isLt
  exact encodedWord rfl (by omega) hw hl (by simp [decodeFields, decode1A, ifField, hm, hq, h0, h1, fld_of h2, fld_of h3])

theorem fwait (q : Sched) (sd : SReg) (sa : SReg) : Statement (.fwait q sd sa) := by
  obtain ⟨w, hw, hl, hm, hq, h0, h1, h2, h3⟩ := fields_20_4_0_8_14_6_8_6 q 26 3 0 sd.toNat sa.toNat (by decide) (by decide) (by decide) sd.isLt sa.isLt
  exact encodedWord rfl (by omega) hw hl (by simp [decodeFields, decode1A, ifField, hm, hq, h0, h1, fld_of h2, fld_of h3])

theorem qres (q : Sched) (sd : SReg) (sa : SReg) : Statement (.qres q sd sa) := by
  obtain ⟨w, hw, hl, hm, hq, h0, h1, h2, h3⟩ := fields_20_4_0_8_14_6_8_6 q 26 4 0 sd.toNat sa.toNat (by decide) (by decide) (by decide) sd.isLt sa.isLt
  exact encodedWord rfl (by omega) hw hl (by simp [decodeFields, decode1A, ifField, hm, hq, h0, h1, fld_of h2, fld_of h3])

theorem qpub (q : Sched) (sa : SReg) (sb : SReg) : Statement (.qpub q sa sb) := by
  obtain ⟨w, hw, hl, hm, hq, h0, h1, h2, h3⟩ := fields_20_4_0_8_8_6_14_6 q 26 5 0 sa.toNat sb.toNat (by decide) (by decide) (by decide) sa.isLt sb.isLt
  exact encodedWord rfl (by omega) hw hl (by simp [decodeFields, decode1A, ifField, hm, hq, h0, h1, fld_of h2, fld_of h3])

theorem qtake (q : Sched) (sd : SReg) (sa : SReg) : Statement (.qtake q sd sa) := by
  obtain ⟨w, hw, hl, hm, hq, h0, h1, h2, h3⟩ := fields_20_4_0_8_14_6_8_6 q 26 6 0 sd.toNat sa.toNat (by decide) (by decide) (by decide) sd.isLt sa.isLt
  exact encodedWord rfl (by omega) hw hl (by simp [decodeFields, decode1A, ifField, hm, hq, h0, h1, fld_of h2, fld_of h3])

theorem qdone (q : Sched) (sa : SReg) (sb : SReg) : Statement (.qdone q sa sb) := by
  obtain ⟨w, hw, hl, hm, hq, h0, h1, h2, h3⟩ := fields_20_4_0_8_8_6_14_6 q 26 7 0 sa.toNat sb.toNat (by decide) (by decide) (by decide) sa.isLt sb.isLt
  exact encodedWord rfl (by omega) hw hl (by simp [decodeFields, decode1A, ifField, hm, hq, h0, h1, fld_of h2, fld_of h3])

theorem qclose (q : Sched) (sa : SReg) : Statement (.qclose q sa) := by
  obtain ⟨w, hw, hl, hm, hq, h0, h1, h2, h3⟩ := fields_20_4_14_6_0_8_8_6 q 26 8 0 0 sa.toNat (by decide) (by decide) (by decide) (by decide) sa.isLt
  exact encodedWord rfl (by omega) hw hl (by simp [decodeFields, decode1A, ifField, hm, hq, h0, h1, h2, fld_of h3])

theorem publ (q : Sched) : Statement (.publ q) := by
  obtain ⟨w, hw, hl, hm, hq, h0, h1⟩ := fields_20_4_0_20 q 26 9 0 (by decide) (by decide) (by decide)
  exact encodedWord rfl (by omega) hw hl (by simp [decodeFields, decode1A, ifField, hm, hq, h0, h1])

theorem center (q : Sched) (sd : SReg) (sa : SReg) : Statement (.center q sd sa) := by
  obtain ⟨w, hw, hl, hm, hq, h0, h1, h2, h3⟩ := fields_20_4_0_8_14_6_8_6 q 27 0 0 sd.toNat sa.toNat (by decide) (by decide) (by decide) sd.isLt sa.isLt
  exact encodedWord rfl (by omega) hw hl (by simp [decodeFields, decode1B, ifField, hm, hq, h0, h1, fld_of h2, fld_of h3])

theorem cstep (q : Sched) (sa : SReg) (sb : SReg) : Statement (.cstep q sa sb) := by
  obtain ⟨w, hw, hl, hm, hq, h0, h1, h2, h3⟩ := fields_20_4_0_8_8_6_14_6 q 27 1 0 sa.toNat sb.toNat (by decide) (by decide) (by decide) sa.isLt sb.isLt
  exact encodedWord rfl (by omega) hw hl (by simp [decodeFields, decode1B, ifField, hm, hq, h0, h1, fld_of h2, fld_of h3])

theorem cexit (q : Sched) (sa : SReg) (sb : SReg) : Statement (.cexit q sa sb) := by
  obtain ⟨w, hw, hl, hm, hq, h0, h1, h2, h3⟩ := fields_20_4_0_8_8_6_14_6 q 27 2 0 sa.toNat sb.toNat (by decide) (by decide) (by decide) sa.isLt sb.isLt
  exact encodedWord rfl (by omega) hw hl (by simp [decodeFields, decode1B, ifField, hm, hq, h0, h1, fld_of h2, fld_of h3])

theorem cres (q : Sched) (sd : SReg) (sa : SReg) : Statement (.cres q sd sa) := by
  obtain ⟨w, hw, hl, hm, hq, h0, h1, h2, h3⟩ := fields_20_4_0_8_14_6_8_6 q 27 3 0 sd.toNat sa.toNat (by decide) (by decide) (by decide) sd.isLt sa.isLt
  exact encodedWord rfl (by omega) hw hl (by simp [decodeFields, decode1B, ifField, hm, hq, h0, h1, fld_of h2, fld_of h3])

theorem smfr (q : Sched) (s : SReg) (num : BitVec 8) : Statement (.smfr q s num) := by
  obtain ⟨w, hw, hl, hm, hq, h0, h1, h2, h3⟩ := fields_22_2_8_8_16_6_0_8 q 28 0 0 s.toNat num.toNat (by decide) (by decide) (by decide) s.isLt num.isLt
  exact encodedWord rfl (by omega) hw hl (by simp [decodeFields, decode1C, ifField, hm, hq, h0, h1, fld_of h2, fld_of h3])

theorem smto (q : Sched) (s : SReg) (num : BitVec 8) : Statement (.smto q s num) := by
  obtain ⟨w, hw, hl, hm, hq, h0, h1, h2, h3⟩ := fields_22_2_8_8_16_6_0_8 q 28 1 0 s.toNat num.toNat (by decide) (by decide) (by decide) s.isLt num.isLt
  exact encodedWord rfl (by omega) hw hl (by simp [decodeFields, decode1C, ifField, hm, hq, h0, h1, fld_of h2, fld_of h3])

theorem scan (q : Sched) (s : SReg) : Statement (.scan q s) := by
  obtain ⟨w, hw, hl, hm, hq, h0, h1, h2⟩ := fields_22_2_0_16_16_6 q 28 2 0 s.toNat (by decide) (by decide) (by decide) s.isLt
  exact encodedWord rfl (by omega) hw hl (by simp [decodeFields, decode1C, ifField, hm, hq, h0, h1, fld_of h2])

theorem broodTimeout (clus : Nat) : Statement (.broodTimeout clus) := eventless rfl

theorem capsuleLeaseExpiry (pa : Nat) : Statement (.capsuleLeaseExpiry pa) := eventless rfl

theorem sleepTimeout (slot : Nat) : Statement (.sleepTimeout slot) := eventless rfl

theorem wbarSpill (ctx : Nat) (launch : Nat) : Statement (.wbarSpill ctx launch) := eventless rfl

theorem barrierByteCount (clus : Nat) (n : Nat) : Statement (.barrierByteCount clus n) := eventless rfl

theorem copyCommandStart (clus : Nat) (team : Nat) : Statement (.copyCommandStart clus team) := eventless rfl

theorem copyPortionWrite (clus : Nat) (team : Nat) (portion : Nat) : Statement (.copyPortionWrite clus team portion) := eventless rfl

theorem oloadStart (clus : Nat) (team : Nat) : Statement (.oloadStart clus team) := eventless rfl

theorem claimZeroFillDone (slot : Nat) : Statement (.claimZeroFillDone slot) := eventless rfl

theorem matrixGrant (clus : Nat) (port : Bool) : Statement (.matrixGrant clus port) := eventless rfl

theorem passComplete (clus : Nat) : Statement (.passComplete clus) := eventless rfl

theorem mzeroComplete (clus : Nat) : Statement (.mzeroComplete clus) := eventless rfl

theorem mstoreComplete (clus : Nat) : Statement (.mstoreComplete clus) := eventless rfl

theorem tierCopy (die : Nat) (team : Nat) : Statement (.tierCopy die team) := eventless rfl

theorem tierFetch (die : Nat) (team : Nat) : Statement (.tierFetch die team) := eventless rfl

theorem tierEvict (die : Nat) (team : Nat) : Statement (.tierEvict die team) := eventless rfl

theorem tileMoveComplete (die : Nat) (tile : Nat) : Statement (.tileMoveComplete die tile) := eventless rfl

theorem tagcPerform (die : Nat) (team : Nat) : Statement (.tagcPerform die team) := eventless rfl

theorem tagqPerform (die : Nat) (n : Nat) : Statement (.tagqPerform die n) := eventless rfl

theorem policyVictimChoose (die : Nat) : Statement (.policyVictimChoose die) := eventless rfl

theorem completionRecordWrite (die : Nat) (n : Nat) : Statement (.completionRecordWrite die n) := eventless rfl

theorem collSum (collid : Nat) (round : Nat) (remote : List (Nat × List (BitVec 8))) : Statement (.collSum collid round remote) := eventless rfl

theorem collMax (collid : Nat) (round : Nat) (remote : List (Nat × List (BitVec 8))) : Statement (.collMax collid round remote) := eventless rfl

theorem collMin (collid : Nat) (round : Nat) (remote : List (Nat × List (BitVec 8))) : Statement (.collMin collid round remote) := eventless rfl

theorem collDraw (collid : Nat) (round : Nat) (remote : List (Nat × List (BitVec 8))) : Statement (.collDraw collid round remote) := eventless rfl

theorem collBarrier (collid : Nat) (round : Nat) (remote : List (Nat × List (BitVec 8))) : Statement (.collBarrier collid round remote) := eventless rfl

theorem collBroadcast (collid : Nat) (round : Nat) (remote : List (Nat × List (BitVec 8))) : Statement (.collBroadcast collid round remote) := eventless rfl

theorem collAllgather (collid : Nat) (round : Nat) (remote : List (Nat × List (BitVec 8))) : Statement (.collAllgather collid round remote) := eventless rfl

theorem collRoundComplete (collid : Nat) (round : Nat) : Statement (.collRoundComplete collid round) := eventless rfl

theorem collTimeout (collid : Nat) (round : Nat) : Statement (.collTimeout collid round) := eventless rfl

theorem remoteStorePerform (n : Nat) : Statement (.remoteStorePerform n) := eventless rfl

theorem remoteAck (n : Nat) : Statement (.remoteAck n) := eventless rfl

theorem remoteFailure (n : Nat) : Statement (.remoteFailure n) := eventless rfl

theorem inboundAccess (pkg : Nat) (off : Nat) (len : Nat) (access : PeerAccess) : Statement (.inboundAccess pkg off len access) := eventless rfl

theorem flitReplay (port : Nat) : Statement (.flitReplay port) := eventless rfl

theorem portDown (port : Nat) : Statement (.portDown port) := eventless rfl

theorem mailboxWrite (port : Nat) (off : Nat) (data : List (BitVec 8)) : Statement (.mailboxWrite port off data) := eventless rfl

theorem mailboxRead (port : Nat) (off : Nat) (len : Nat) : Statement (.mailboxRead port off len) := eventless rfl

theorem persistGroupEnter (n : Nat) : Statement (.persistGroupEnter n) := eventless rfl

theorem wbqDrainWrite (die : Nat) : Statement (.wbqDrainWrite die) := eventless rfl

theorem scrub (pa : Nat) (found : ScrubResult) : Statement (.scrub pa found) := eventless rfl

theorem launchAccept (ctx : Nat) (queue : Nat) : Statement (.launchAccept ctx queue) := eventless rfl

theorem distribute (clus : Nat) (affinity : List Nat) : Statement (.distribute clus affinity) := eventless rfl

theorem place (core : Nat) (affinity : List Nat) : Statement (.place core affinity) := eventless rfl

theorem agingExpiry (item : Nat) : Statement (.agingExpiry item) := eventless rfl

theorem launchComplete (ctx : Nat) (launch : Nat) : Statement (.launchComplete ctx launch) := eventless rfl

theorem teamSave (team : Nat) : Statement (.teamSave team) := eventless rfl

theorem teamDiscard (team : Nat) : Statement (.teamDiscard team) := eventless rfl

theorem preemptDeadlineExpiry (ctx : Nat) : Statement (.preemptDeadlineExpiry ctx) := eventless rfl

theorem partRestore (ctx : Nat) (part : Nat) (die : Nat) (x : Nat) (y : Nat) : Statement (.partRestore ctx part die x y) := eventless rfl

theorem ctxEnable (ctx : Nat) : Statement (.ctxEnable ctx) := eventless rfl

theorem ctxDisable (ctx : Nat) : Statement (.ctxDisable ctx) := eventless rfl

theorem ctxPreempt (ctx : Nat) : Statement (.ctxPreempt ctx) := eventless rfl

theorem ctxResume (ctx : Nat) : Statement (.ctxResume ctx) := eventless rfl

theorem ctxReset (ctx : Nat) : Statement (.ctxReset ctx) := eventless rfl

theorem doorbell (value : BitVec 32) : Statement (.doorbell value) := eventless rfl

theorem priocmd (value : BitVec 32) : Statement (.priocmd value) := eventless rfl

theorem invalPage (ctx : Nat) (va : Nat) : Statement (.invalPage ctx va) := eventless rfl

theorem invalContext (ctx : Nat) : Statement (.invalContext ctx) := eventless rfl

theorem invalAll : Statement (.invalAll) := eventless rfl

theorem invalidationPerformed : Statement (.invalidationPerformed) := eventless rfl

theorem parkRequest (die : Nat) : Statement (.parkRequest die) := eventless rfl

theorem parkCancel (die : Nat) : Statement (.parkCancel die) := eventless rfl

theorem unpark (die : Nat) : Statement (.unpark die) := eventless rfl

theorem diePowerDown (die : Nat) : Statement (.diePowerDown die) := eventless rfl

theorem unparkComplete (die : Nat) : Statement (.unparkComplete die) := eventless rfl

theorem pceilWrite (value : BitVec 32) : Statement (.pceilWrite value) := eventless rfl

theorem pstateWrite (value : BitVec 32) : Statement (.pstateWrite value) := eventless rfl

theorem pstateTransitionDone : Statement (.pstateTransitionDone) := eventless rfl

theorem powerMeasure (milliwatts : Nat) (projected : Nat) (faster : Nat) : Statement (.powerMeasure milliwatts projected faster) := eventless rfl

theorem featacceptWrite (value : BitVec 64) : Statement (.featacceptWrite value) := eventless rfl

theorem attcmd (value : BitVec 32) : Statement (.attcmd value) := eventless rfl

theorem quoteComplete : Statement (.quoteComplete) := eventless rfl

theorem tierpoolWrite (die : Nat) (value : BitVec 64) : Statement (.tierpoolWrite die value) := eventless rfl

theorem tierpolWrite (die : Nat) (value : BitVec 32) : Statement (.tierpolWrite die value) := eventless rfl

theorem errstatWrite (value : BitVec 64) : Statement (.errstatWrite value) := eventless rfl

theorem cmapWrite (off : Nat) (width : Nat) (value : BitVec 64) : Statement (.cmapWrite off width value) := eventless rfl

theorem devctlReset (value : BitVec 64) : Statement (.devctlReset value) := eventless rfl

theorem powerOn : Statement (.powerOn) := eventless rfl

theorem registerWrite (off : Nat) (width : Nat) (value : BitVec 64) : Statement (.registerWrite off width value) := eventless rfl

theorem powerLoss : Statement (.powerLoss) := eventless rfl

theorem drainComplete : Statement (.drainComplete) := eventless rfl

theorem holdupMeasure (millijoules : Nat) : Statement (.holdupMeasure millijoules) := eventless rfl

theorem scanDrainDone : Statement (.scanDrainDone) := eventless rfl

theorem scanRunDone (failmask : BitVec 8) : Statement (.scanRunDone failmask) := eventless rfl

theorem scanDrainTimeout : Statement (.scanDrainTimeout) := eventless rfl

theorem snapCaptureStart (value : BitVec 32) : Statement (.snapCaptureStart value) := eventless rfl

theorem cutClose : Statement (.cutClose) := eventless rfl

theorem tileCapture : Statement (.tileCapture) := eventless rfl

theorem cowCopy (tile : Nat) : Statement (.cowCopy tile) := eventless rfl

theorem stagedTileWrite : Statement (.stagedTileWrite) := eventless rfl

theorem shardsDurable (peerShards : List (List (BitVec 8))) : Statement (.shardsDurable peerShards) := eventless rfl

theorem recoverFence : Statement (.recoverFence) := eventless rfl

theorem recoverElect : Statement (.recoverElect) := eventless rfl

theorem recoverRebuild (ok : Bool) : Statement (.recoverRebuild ok) := eventless rfl

theorem recoverRemap : Statement (.recoverRemap) := eventless rfl

theorem recoverResume : Statement (.recoverResume) := eventless rfl

theorem recoverStepDone : Statement (.recoverStepDone) := eventless rfl

theorem groupTableWrite (off : Nat) (width : Nat) (value : BitVec 64) : Statement (.groupTableWrite off width value) := eventless rfl

theorem peerTableWrite (off : Nat) (width : Nat) (value : BitVec 64) : Statement (.peerTableWrite off width value) := eventless rfl

end Sys2Proof.Laws.Enc
end

