-- ==== Sys2Proof/Tests/Slice0.lean ====
section
/-! SUPPORT. Tests of one step or one word each; expected values come from the spec's examples and tables, or from calculation by hand
from its rules. The theorems whose names begin with `witness_` show states and operands that meet the hypotheses of the statements. -/

namespace Sys2Proof.Tests

open Sys2Proof Sys2Proof.Machine

set_option Elab.async false

/-! ### Small states -/

/-- A wave of 16 lanes at its start, with some scalars from s0 on and lane numbers in v0 and v1. -/
def labWave (ss : List Word) : Wave :=
  { Wave.start 1 0 0 0 loadedHeader 0 (laneMask 16) 0 [] 0 with
    regs := { Regs.zero with
      s := Sparse.setList [] 0 ss
      v := Sparse.setList (Sparse.setList [] 0 ((List.range 16).map (BitVec.ofNat 32))) 64 ((List.range 16).map (BitVec.ofNat 32)) } }

/-- That wave's word in issue at 0x10040, in a package that has loaded a program; hints are held. -/
def labHeld (h : Hints) (ss : List Word) : State :=
  { State.reset.loaded with
    waves := [(0, labWave ss)]
    issue := { slot := 0, lanes := laneMask 16, pc := 0x10040, first := 0x10040, held := h, src := (labWave ss).regs, resumed := false } }

def lab (ss : List Word) : State := labHeld Hints.empty ss

def q0 : Sched := ⟨0, false⟩

def literal (lo : BitVec 20) : Hints := { Hints.empty with litlo := some lo }

/-- All these words issue for the wave. -/
def allIssue (h : Hints) (ss : List Word) (is : List Instr) : Bool := is.all fun i => issues i (labHeld h ss) (labWave ss)

/-! ### The words of the spec's encodings -/
/-- spec/03 (the fragment of the chapter), spec/04 (the words after R122) and spec/05: vector words. -/
theorem test_decode_vector :
    decodeTableWord 32 0xC4818102 = some (.vfmul ⟨3, false⟩ 3 1 (.v 2)) ∧ decodeTableWord 32 0x000203C1 = some (.vadd ⟨0, false⟩ 4 3 (.int 1)) ∧
    decodeTableWord 32 0x200203C1 = some (.vadd ⟨0, true⟩ 4 3 (.int 1)) ∧
    decodeTableWord 32 0x08918509 = some (.vcvt q0 .bf16 .fp32 .rsr 5 (.v 9)) ∧ decodeTableWord 32 0x44018186 = some (.vfadd ⟨1, false⟩ 3 1 (.s 6)) ∧
    decodeTableWord 32 0x08B08509 = some (.vcvt q0 .e4m3 .fp32 .rne 5 (.v 9)) ∧
    decodeTableWord 32 0x09118102 = some (.vcmp q0 .lt 3 1 (.v 2)) ∧ decodeTableWord 32 0x074283C1 = some (.vshfl q0 .xor 5 3 (.int 1)) ∧
    decodeTableWord 32 0x080482BF = some (.vrand q0 2 (.s 63)) := by decide +kernel

/-- spec/05 R138 to R144: cross-lane and mask words. -/
theorem test_decode_crosslane :
    decodeTableWord 32 0x15300301 = some (.vmatch q0 6 1) ∧ decodeTableWord 32 0x15520001 = some (.vredu q0 8 false .add 1) ∧
    decodeTableWord 32 0x15640481 = some (.vscan q0 true false .add 9 1) ∧ decodeTableWord 32 0x15024001 = some (.vrfl q0 9 1) ∧
    decodeTableWord 32 0x15751F04 = some (.vdraw q0 20 62 4) ∧ decodeTableWord 32 0x16608100 = some (.mfirst q0 2 1) := by decide +kernel

/-- spec/04 R95, R96, R102, R108 and spec/03: scalar and control words, and hint words. -/
theorem test_decode_scalar :
    decodeTableWord 32 0x0C004000 = some (.scmp q0 .ne 0 (.s 0)) ∧ decodeTableWord 32 0x0BE28406 = some (.saddc q0 10 4 (.s 6)) ∧
    decodeTableWord 32 0x0BE2C507 = some (.saddc q0 11 5 (.s 7)) ∧ decodeTableWord 32 0x0D070020 = some (.smovi q0 7 0x20) ∧
    decodeTableWord 32 0x0E47FFFC = some (.br q0 .likely false 3 (-4)) ∧ decodeTableWord 32 0x0F4002E4 = some (.sleep q0 2 (.int 164)) ∧
    decodeTableWord 32 0x0F600000 = some (.tret q0) ∧ decodeTableWord 32 0x0F600001 = some (.tretAbort q0) ∧
    decodeTableWord 32 0x10000020 = some (.hintLitlo 0x20) ∧
    decodeTableWord 32 0x10300010 = some (.hintMod 0 false 0 false true false false false false) ∧
    decodeTableWord 32 0x1C4A0018 = some (.smto q0 10 0x18) ∧ decodeTableWord 32 0x1C8A0000 = some (.scan q0 10) := by decide +kernel

/-- spec/06: memory words, atomics and fences. -/
theorem test_decode_memory :
    decodeTableWord 32 0x11102050 = some (.vld q0 8 2 2 .b32) ∧ decodeTableWord 32 0x12042034 = some (.vst q0 2 2 1 .b64) ∧
    decodeTableWord 32 0x1100203C = some (.vpref q0 2 1) ∧ decodeTableWord 32 0x1200203E = some (.vpwb q0 2 1) ∧
    decodeTableWord 32 0x14250804 = some (.sst q0 10 2 false 4) ∧ decodeTableWord 32 0x13D0A044 = some (.vatom q0 .minu 5 1 2) ∧
    decodeTableWord 32 0x14638800 = some (.satom q0 7 2 false .add) ∧ decodeTableWord 32 0x13C0C048 = some (.bfadd q0 6 1 4) ∧
    decodeTableWord 32 0x1700000C = some (.fence q0 .rel 4) ∧ decodeTableWord 32 0x17000004 = some (.fence q0 .acq 4) ∧
    decodeTableWord 32 0x17100003 = some (.qfence q0 3) ∧ decodeTableWord 32 0x17200000 = some (.pfence q0) := by decide +kernel

/-- spec/07 and spec/08: the matrix engine, copies and barriers; the last ones are built from the forms of R209 and R212 to R217. -/
theorem test_decode_engines :
    decodeTableWord 32 0x19530000 = some (.mma q0 12) ∧ decodeTableWord 32 0x19800004 = some (.mwait q0 4) ∧
    decodeTableWord 32 0x19250000 = some (.oload q0 20) ∧ decodeTableWord 32 0x19318000 = some (.aclaim q0 6) ∧
    decodeTableWord 32 0x19718000 = some (.mstore q0 6) ∧ decodeTableWord 32 0x17300A00 = some (.barinit q0 10) ∧
    decodeTableWord 32 0x17400D00 = some (.bararr q0 13) ∧ decodeTableWord 32 0x17600D0E = some (.barwait q0 13 14) ∧
    decodeTableWord 32 0x17540D0E = some (.bartest q0 16 13 14) ∧ decodeTableWord 32 0x18151A00 = some (.cpym q0 20 26) ∧
    decodeTableWord 32 (0x17800000 + 256 * 5 + 1) = some (.wbar q0 .clus 5) ∧ decodeTableWord 32 (0x18200000 + 2 ^ 14 * 56) = some (.xfer q0 56) ∧
    decodeTableWord 32 (0x18300000 + 2 ^ 14 * 2) = some (.coll q0 2) ∧
    decodeTableWord 32 (0x18400000 + 2 ^ 14 * 2 + 256 * 7) = some (.signal q0 2 7) ∧
    decodeTableWord 32 (0x18500000 + 2 ^ 14 * 2 + 256 * 7) = some (.tagc q0 2 7) ∧
    decodeTableWord 32 (0x18600000 + 2 ^ 14 * 7 + 256 * 2) = some (.tagq q0 7 2) := by decide +kernel

/-- spec/09 R219: tasks, futures, rings and capsules. -/
theorem test_decode_tasks :
    decodeTableWord 32 0x1A000008 = some (.spawn q0 8) ∧ decodeTableWord 32 0x1A101400 = some (.fbind q0 20) ∧
    decodeTableWord 32 0x1A259400 = some (.fset q0 20 22) ∧ decodeTableWord 32 0x1A361400 = some (.fwait q0 24 20) ∧
    decodeTableWord 32 0x1A428800 = some (.qres q0 10 8) ∧ decodeTableWord 32 0x1A528800 = some (.qpub q0 8 10) ∧
    decodeTableWord 32 0x1A630800 = some (.qtake q0 12 8) ∧ decodeTableWord 32 0x1A730800 = some (.qdone q0 8 12) ∧
    decodeTableWord 32 0x1A800800 = some (.qclose q0 8) ∧ decodeTableWord 32 0x1A900000 = some (.publ q0) ∧
    decodeTableWord 32 0x1B07A800 = some (.center q0 30 40) ∧ decodeTableWord 32 0x1B17E800 = some (.cstep q0 40 31) ∧
    decodeTableWord 32 0x1B282800 = some (.cexit q0 40 32) ∧ decodeTableWord 32 0x1B38A800 = some (.cres q0 34 40) := by decide +kernel

/-- Reserved majors, minors and codes decode to nothing (spec/03 R72, R75, R85). -/
theorem test_decode_refuses :
    decodeTableWord 32 0x1D000000 = none ∧ decodeTableWord 32 0x1F000000 = none ∧ decodeTableWord 32 0x1A000009 = none ∧
    decodeTableWord 32 0x09518102 = none ∧ decodeTableWord 32 0x0A418102 = none ∧ decodeTableWord 32 0x1C8A4000 = none ∧
    decodeTableWord 32 0x091E0102 = none ∧ decodeTableWord 32 0x17100000 = none := by decide +kernel

/-! ### Well-formedness -/

/-- One ill-formed term for each check of WellFormed.lean: each is refused. -/
theorem test_ill_formed :
    ([.vcvt q0 .fp32 .fp32 .rne 0 (.v 0), .vcmp q0 .eq 12 0 (.v 0), .vfcmp q0 .eq 15 0 (.v 0), .sfcvt q0 0 0 5 0, .sfcvt q0 0 0 0 8,
      .sfcvt q0 0 0 3 3, .drawm q0 62 0, .drawm q0 0 62, .br q0 .none false 14 0, .br q0 .none true 0 0, .join q0 12, .leave q0 12, .waitm q0 12,
      .hintGuard false 12, .hintMod 12 false 0 false false false false false false, .hintRnd 5, .hintScope 6, .vld q0 1 0 0 .b64,
      .vlds q0 2 0 0 .b128, .vldc q0 1 0 0 .b128, .vldt q0 0 0 0 .b64, .vldt q0 0 0 0 .i8, .vst q0 0 0 0 .i8, .vst q0 1 0 0 .b64,
      .vsts q0 0 0 0 .i16, .vsts q0 2 0 0 .b128] : List Instr).all (fun i => !i.wf) = true := by decide +kernel

theorem test_ill_formed_groups :
    ([.vcas q0 1 0 0, .vatomsCas q0 1 0 0, .sld q0 1 0 true 0, .sst q0 1 0 true 0, .sldk q0 1 0 true 0, .satom q0 0 0 false .fadd,
      .satom q0 0 0 false .fmin, .satom q0 0 0 false .fmax, .satom q0 1 0 true .add, .scas q0 2 0 true, .scas q0 1 0 false, .vmatch q0 1 0,
      .vballot q0 12 0, .vredu q0 0 true .and 0, .vredu q0 0 true .or 0, .vscan q0 false true .or 0 0, .vdraw q0 62 0 0, .mand q0 12 0 0,
      .mor q0 0 12 0, .mxor q0 0 0 12, .mandn q0 63 0 0, .mmov q0 12 0, .mmov q0 0 12, .mpopc q0 0 12, .mfirst q0 12 0, .mfirst q0 0 12,
      .mset q0 12 0, .mset q0 0 1, .mget q0 1 0, .mget q0 0 12, .fence q0 .acq 6, .qfence q0 0, .barinit q0 62] : List Instr).all
      (fun i => !i.wf) = true := by decide +kernel

theorem test_ill_formed_blocks :
    ([.cpy q0 1, .cpy q0 60, .cpym q0 1 0, .cpym q0 60 0, .xfer q0 1, .xfer q0 58, .coll q0 1, .signal q0 1 0, .tagc q0 1 0, .tagq q0 0 1,
      .orel q0 1, .oload q0 1, .oload q0 60, .spawn q0 2, .fbind q0 1, .fbind q0 62, .fset q0 1 0, .fset q0 0 1, .fwait q0 1 0, .fwait q0 0 1,
      .qres q0 62 0, .qtake q0 62 0, .center q0 62 0, .center q0 0 1, .cstep q0 1 0, .cexit q0 1 0, .cexit q0 0 1, .cres q0 1 0, .cres q0 0 1,
      .smfr q0 0 0x19, .smfr q0 1 0x0B, .smto q0 0 0x19, .smto q0 1 0x0E, .scan q0 1] : List Instr).all (fun i => !i.wf) = true := by decide +kernel

/-! ### Results of one step -/

/-- The wave of slot 0 after an outcome, with its pending results landed. -/
def after0 (o : Host.Outcome State Fault Refusal) : Option Wave := match o with
  | .next t => (t.waves.get? 0).map Wave.landAll
  | _ => none

def regS (o : Host.Outcome State Fault Refusal) (n : Nat) : Option Word := (after0 o).map fun w => w.regs.s.get n
def regV (o : Host.Outcome State Fault Refusal) (n l : Nat) : Option Word := (after0 o).map fun w => w.regs.v.get (64 * n + l)
def regM (o : Host.Outcome State Fault Refusal) (n : Nat) : Option DWord := (after0 o).map fun w => w.regs.m.get n
def regSc (o : Host.Outcome State Fault Refusal) : Option Bool := (after0 o).map fun w => w.regs.sc
def fstat (o : Host.Outcome State Fault Refusal) : Option Nat := (after0 o).map fun w => w.fstat.toNat

/-- The handler's state after a trap: cause, `sr.epc` and `sr.tmask`. -/
def trapOf (o : Host.Outcome State Fault Refusal) : Option (Nat × Nat × Nat) :=
  (after0 o).bind fun w => w.handler.map fun _ => (w.tsw.toNat, w.epc.toNat, w.tmask.toNat)

/-- The same word in issue for a wave as a function changes it. -/
def labWith (h : Hints) (ss : List Word) (f : Wave → Wave) : State :=
  { labHeld h ss with waves := [(0, f (labWave ss))], issue := { (labHeld h ss).issue with src := (f (labWave ss)).regs } }

/-- With a v-register set in its first lanes, and a bundle of some lanes. -/
def labVec (h : Hints) (ss : List Word) (n : Nat) (vs : List Word) (lanes : DWord) : State :=
  let s := labWith h ss fun w => { w with regs := { w.regs with v := Sparse.setList w.regs.v (64 * n) vs } }
  { s with issue := { s.issue with lanes := lanes } }

/-- `smovi s7, 0x0020` (spec/07), placed where the next step fetches it, is the first word that runs. -/
theorem test_step_runs_placed_word : regS (step (State.reset.withFetchWord 32 0x0D070020)) 7 = some 0x20 := by decide +kernel

/-- The example of spec/04 R95: s4:s5 = 0x1_FFFF_FFF0, s6:s7 = 0x2_0000_0020. -/
theorem test_saddc_low :
    let o := exec (.saddc q0 10 4 (.s 6)) (lab [0, 0, 0, 0, 0xFFFFFFF0, 1, 0x20, 2])
    regS o 10 = some 0x10 ∧ regSc o = some true := by decide +kernel
theorem test_saddc_high :
    let s := labWith Hints.empty [0, 0, 0, 0, 0xFFFFFFF0, 1, 0x20, 2] fun w => { w with regs := { w.regs with sc := true } }
    regS (exec (.saddc q0 11 5 (.s 7)) s) 11 = some 4 ∧ regSc (exec (.saddc q0 11 5 (.s 7)) s) = some false := by decide +kernel

/-- spec/04 R95: 0 - 1 borrows. -/
theorem test_ssubb_borrow : regS (exec (.ssubb q0 1 0 (.int 65)) (lab [0])) 1 = some 0xFFFFFFFF ∧
    regSc (exec (.ssubb q0 1 0 (.int 65)) (lab [0])) = some true := by decide +kernel

/-- spec/04 R95: the high half of a signed product, and a shift by more than 31 that uses the low five bits. -/
theorem test_smulhi : regS (exec (.smulhi q0 1 0 (.int 66)) (lab [0x80000000])) 1 = some 0xFFFFFFFF := by decide +kernel
theorem test_ssra : regS (exec (.ssra q0 1 0 (.s 2)) (lab [0x80000000, 0, 33])) 1 = some 0xC0000000 := by decide +kernel
theorem test_smin_signed : regS (exec (.smin q0 1 0 (.int 65)) (lab [0x80000000])) 1 = some 0x80000000 ∧
    regS (exec (.sminu q0 1 0 (.int 65)) (lab [0x80000000])) 1 = some 1 := by decide +kernel
theorem test_sbfe : regS (exec (.sbfe q0 1 0 (.s 2)) (lab [0xABCD1234, 0, 0x0808])) 1 = some 0x12 := by decide +kernel
theorem test_smovi_signed : regS (exec (.smovi q0 1 0xFFFF) (lab [])) 1 = some 0xFFFFFFFF := by decide +kernel
theorem test_sori : regS (exec (.sori q0 0 0xABCD) (lab [0x1234])) 0 = some 0xABCD1234 := by decide +kernel
theorem test_sclz : regS (exec (.sclz q0 1 (.s 0)) (lab [0x00010000])) 1 = some 15 := by decide +kernel

/-- spec/04 R99: 300.0 as E4M3 is 288, and INEXACT (bit 0) is set. -/
theorem test_sfcvt : regS (exec (.sfcvt q0 3 4 3 0) (labHeld { Hints.empty with rnd := some 0 } [0, 0, 0, 0, 0x43960000])) 3 = some 0x79 := by decide +kernel

/-- The vcvt table of spec/05 R135, without `.sat`. -/
theorem test_vcvt_e4m3 :
    let o := exec (.vcvt q0 .e4m3 .fp32 .rne 5 (.v 9)) (labVec Hints.empty [] 9 [0x43960000, 0x43E60000, 0x43FA0000, 0x7F800000] 0xF)
    regV o 5 0 = some 0x79 ∧ regV o 5 1 = some 0x7E ∧ regV o 5 2 = some 0x7F ∧ regV o 5 3 = some 0x7F := by decide +kernel
theorem test_vcvt_e4m3_sat :
    let h : Hints := { Hints.empty with mod := some { sel := 0, hf := false, ord := 0, w64 := false, sat := true, ab := false, nb := false, aa := false, na := false } }
    let o := exec (.vcvt q0 .e4m3 .fp32 .rne 5 (.v 9)) (labVec h [] 9 [0x43960000, 0x43E60000, 0x43FA0000, 0x7F800000] 0xF)
    regV o 5 0 = some 0x79 ∧ regV o 5 2 = some 0x7E ∧ regV o 5 3 = some 0x7E := by decide +kernel

/-- The example of spec/05 R140: v1 holds 5, 2, 5, 7, 2, 5, 9, 7 in lanes 0 to 7. -/
def crossLab : State := labVec Hints.empty [] 1 [5, 2, 5, 7, 2, 5, 9, 7] 0xFF
theorem test_vmatch :
    let o := exec (.vmatch q0 6 1) crossLab
    regV o 6 0 = some 0x25 ∧ regV o 6 4 = some 0x12 ∧ regV o 6 7 = some 0x88 ∧ regV o 6 6 = some 0x40 ∧ regV o 7 0 = some 0 ∧
      regV o 6 8 = some 0 := by decide +kernel
theorem test_vredu_add : regS (exec (.vredu q0 8 false .add 1) crossLab) 8 = some 42 := by decide +kernel
theorem test_vscan_add_excl :
    let o := exec (.vscan q0 true false .add 9 1) crossLab
    regV o 9 0 = some 0 ∧ regV o 9 1 = some 5 ∧ regV o 9 2 = some 7 ∧ regV o 9 7 = some 35 ∧ regV o 9 8 = some 0 := by decide +kernel
theorem test_vrfl : regS (exec (.vrfl q0 9 1) crossLab) 9 = some 5 := by decide +kernel

/-- spec/05 R144, R145: -inf in all four lanes gives (0xFFFF_FFFF, +0, -inf); with s62 = +inf the triple is (1, 2.0, 3.0). -/
theorem test_vdraw_empty :
    let o := exec (.vdraw q0 20 62 4) (labVec Hints.empty [] 4 [0xFF800000, 0xFF800000, 0xFF800000, 0xFF800000] 0xF)
    regS o 20 = some 0xFFFFFFFF ∧ regS o 21 = some 0 ∧ regS o 22 = some 0xFF800000 := by decide +kernel
theorem test_vdraw_infinite :
    let s := labVec Hints.empty ((List.replicate 62 0) ++ [0x7F800000, 0]) 4 [0x3F800000, 0x40400000, 0x40400000, 0xFF800000] 0xF
    let o := exec (.vdraw q0 20 62 4) s
    regS o 20 = some 1 ∧ regS o 21 = some 0x40000000 ∧ regS o 22 = some 0x40400000 := by decide +kernel

/-- spec/05 R126, R131: wraps and signs; lane 1 of v1 holds 1. -/
theorem test_vsub_wraps : regV (exec (.vsub q0 2 1 (.int 2)) (lab [])) 2 1 = some 0xFFFFFFFF := by decide +kernel
theorem test_vabsd : regV (exec (.vabsd q0 2 1 (.s 0)) (lab [0x80000000])) 2 0 = some 0x80000000 := by decide +kernel
theorem test_vmad : regV (exec (.vmad q0 0 1 (.lane)) (lab [])) 0 3 = some 12 := by decide +kernel
theorem test_vshfl_xor : regV (exec (.vshfl q0 .xor 5 1 (.int 1)) (lab [])) 5 3 = some 2 := by decide +kernel
theorem test_vcmp_keeps_inactive :
    let s := labWith Hints.empty [] fun w => { w with regs := { w.regs with m := Sparse.set [] 3 0xFF00 } }
    regM (exec (.vcmp q0 .lt 3 1 (.int 2)) { s with issue := { s.issue with lanes := 0xFF } }) 3 = some 0xFF03 := by decide +kernel
theorem test_vfadd_ties : regV (exec (.vfadd q0 2 1 (.s 0)) (labVec Hints.empty [0x33800000] 1 [0x3F800000] 1)) 2 0 = some 0x3F800000 ∧
    fstat (exec (.vfadd q0 2 1 (.s 0)) (labVec Hints.empty [0x33800000] 1 [0x3F800000] 1)) ≠ some 0 := by decide +kernel
theorem test_vfmin_zero : regV (exec (.vfmin q0 2 1 (.s 0)) (labVec Hints.empty [0x80000000] 1 [0] 1)) 2 0 = some 0x80000000 := by decide +kernel
theorem test_mfirst : regM (exec (.mfirst q0 2 1) (labWith Hints.empty [] fun w => { w with regs := { w.regs with m := Sparse.set [] 1 0x28 } })) 2
    = some 8 := by decide +kernel

/-- spec/04 R123: `vfmul v3, v1, v2` then `vadd v4, v3, 1` at distance 1: with `sr.chk` = 0 the old v3 is read, with `sr.chk` = 1 the
vadd traps STALL_UNDERSIZE in the whole bundle. -/
def pendingV3 (chk : Bool) : State := labWith Hints.empty [] fun w =>
  { w with chk := chk, tvec := 0x10080, pend := [{ ready := 4, write := .vec 3 [(0, 7)] }] }
theorem test_early_read_unchecked : regV (exec (.vadd q0 4 3 (.int 1)) (pendingV3 false)) 4 0 = some 1 := by decide +kernel
theorem test_early_read_checked : (trapOf (exec (.vadd q0 4 3 (.int 1)) (pendingV3 true))).map (fun x => (x.1 % 256, x.2)) =
    some (cStall, 0x10040, 0xFFFF) := by decide +kernel

/-- spec/11 R269 to R273: `trap 5` outside a restartable task. -/
theorem test_trap_registers :
    trapOf (exec (.trap q0 5) (labWith Hints.empty [] fun w => { w with tvec := 0x10080 })) = some (0x512, 0x10040, 0xFFFF) := by decide +kernel
theorem test_trap_tret : (after0 (exec (.tret q0) (labWith Hints.empty [] fun w =>
      { w with tsw := 0x512, epc := 0x10040, table := [],
               handler := some { pc := 0x10080, lanes := 0xFFFF, frameS := [7], frameM10 := 0, frameM11 := 0, frameSc := true, frameFstat := 0 } }))).map
    (fun w => (w.handler.isNone, w.table.map (·.pc.toNat), w.regs.s.get 48, w.regs.sc)) = some (true, [0x10040], 7, true) := by decide +kernel

/-- spec/04 R102 to R104: `br` with the bundle parted, `call` and `ret`. -/
theorem test_br_parts : (after0 (exec (.br q0 .likely false 3 (-4)) (labWith Hints.empty [] fun w =>
      { w with regs := { w.regs with m := Sparse.set [] 2 0x0F } }))).map (fun w => w.table.map fun e => (e.pc.toNat, e.lanes.toNat)) =
    some [(0x10030, 0x0F), (0x10044, 0xFFF0)] := by decide +kernel
theorem test_call_pushes : (after0 (exec (.call q0 16) (lab []))).map (fun w => (w.table.map (·.pc.toNat), (w.rstack.getD 15 []).map (·.toNat))) =
    some ([0x10080], [0x10044]) := by decide +kernel
theorem test_ret_empty : (trapOf (exec (.ret q0) (labWith Hints.empty [] fun w => { w with tvec := 0x10080 }))).map (fun x => x.1 % 256) =
    some cIllegalReturn := by decide +kernel

/-- spec/01 R27: a register that is read-only traps PRIV with its number as INFO. -/
theorem test_smto_read_only : (trapOf (exec (.smto q0 2 0x00) (labWith Hints.empty [] fun w => { w with tvec := 0x10080 }))).map (fun x => x.1 % 65536) =
    some (0x00 * 256 + cPriv) := by decide +kernel
theorem test_smto_bad_rmode : (trapOf (exec (.smto q0 2 0x0D) (labWith Hints.empty [0, 0, 5] fun w => { w with tvec := 0x10080 }))).map
    (fun x => x.1 % 256) = some cIllegal := by decide +kernel

/-- spec/06 R160: `incw` wraps at the limit; `min` is signed. -/
theorem test_atom_incw : AtomOp.new .incw 4 7 7 = 0 ∧ AtomOp.new .incw 4 6 7 = 7 ∧ AtomOp.new .min 4 0x80000000 1 = 0x80000000 := by decide +kernel

/-! ### Witnesses: words that issue -/

def noFlags : Hints := { Hints.empty with mod := some { sel := 3, hf := false, ord := 0, w64 := false, sat := false, ab := false, nb := false, aa := false, na := false } }

theorem witness_DecodeEncode :
    ([.vadd ⟨3, true⟩ 127 127 .lane, .vfcmp q0 .unord 11 0 (.flt 7), .br q0 .uniform true 13 (-65536), .jmp q0 (-262144), .hintLitlo 0xFFFFF,
      .vld q0 124 31 127 .b128, .sst q0 62 31 true 255, .smto q0 62 0x16, .cpy q0 58, .spawn q0 124, .qfence q0 63] : List Instr).all
      (fun i => i.wf && (encode i).isSome) = true := by decide +kernel

theorem witness_ScalarOperandCodes : Hints.empty.hasLiteral = false ∧ SSrc.ofCode 63 = some (.s 63) ∧ (SSrc.ofCode 255).map (lab []).issue.sint = some 127 ∧
    (SSrc.ofCode 64).map (lab []).issue.sint = some (-64) := by decide +kernel

/-- A package whose next step fetches `vadd v4, v3, 1`. -/
def stepLab : State := State.reset.withFetchWord 32 0x000203C1

/-- An item that has waited since clock 0. -/
def sleeper : Item := { ctx := 0, kind := .owner 0, prio := 0, since := 0, aged := false, clus := none, hdr := loadedHeader }

theorem witness_StepRunsTheDecodedWord :
    stepLab.stopped = false ∧ stepLab.stopDue? = none ∧ stepLab.wakes.find? stepLab.handlerWake = none ∧ stepLab.firstWake stepLab.wakes = none ∧ stepLab.turns = [] ∧ stepLab.due? = none ∧
    (stepLab.pick stepLab.focus).any (fun x => decide (x.1 = 0)) = true ∧
    ((stepLab.pick stepLab.focus).bind fun x => ((stepLab.prepare 0 x.2).waves.get? 0).map fun y =>
      ((stepLab.prepare 0 x.2).fetch 0 y (stepLab.prepare 0 x.2).issue.pc).2) = some (.word 0x000203C1) ∧
    decodeTableWord 32 0x000203C1 = some (.vadd q0 4 3 (.int 1)) ∧
    (let s : State := { State.reset with turns := [.event .invalAll] }
     s.stopped = false ∧ s.stopDue? = none ∧ s.wakes = [] ∧ s.due? = none ∧ isWord .invalAll = false) ∧
    (let s : State := { State.reset with items := [(5, sleeper)], clock := BitVec.ofNat 64 (clocksOf 1000) }
     s.stopped = false ∧ s.stopDue? = none ∧ s.wakes = [] ∧ s.due? = some (.agingExpiry 5)) := by decide +kernel

/-- A wave that waited at issue when it was last tried, in cycle 5: before a word, with some results still to land. -/
def waitLab (word : Nat) (pend : List Pend) : State :=
  ({ State.reset.withFetchWord 32 word with now := 5 } : State).modWave 0 fun w => { w with waits := true, pend := pend }

theorem witness_StepTriesAWaitingWave :
    [(waitLab 0x000203C1 [], some (false, 5, 0)),
     (waitLab ((encodeNat (.smfr q0 5 0x0C)).getD 0) [{ ready := 9, write := .sca 7 1 }], some (true, 6, 6))].all (fun x =>
      decide ((x.1.toProbe x.1.focus).any (fun y => decide (y.1 = 0)) = true ∧ x.1.pick x.1.focus = none ∧ x.1.stopped = false ∧ x.1.stopDue? = none ∧ x.1.wakes = [] ∧
        x.1.turns = [] ∧ x.1.due? = none ∧
        (match step x.1 with
         | .next t => (t.waves.get? 0).map fun w => (w.waits, w.eligAt, w.nextIssue)
         | _ => none) = x.2)) = true := by decide +kernel

/-- A wave with no wait behind it and a result outstanding, that is tried in this cycle or has been. -/
theorem witness_StepTriesAWaitingWave_first :
    let s (tried : Nat) : State := ({ State.reset.withFetchWord 32 0x000203C1 with now := 5 } : State).modWave 0 fun w =>
      { w with varPend := [.s 9], triedAt := tried, eligAt := 2 }
    ((s 5).toProbe (s 5).focus).any (fun y => decide (y.1 = 0) && !y.2.waits) = true ∧ (s 5).stopDue? = none ∧ (s 5).wakes = [] ∧ (s 5).turns = [] ∧
      (s 5).due? = none ∧ (s 5).stopped = false ∧ (s 6).toProbe (s 6).focus = none ∧
      (match step (s 5) with
        | .next t => (t.waves.get? 0).map fun w => (w.waits, w.triedAt, w.eligAt)
        | _ => none) = some (false, 6, 2) := by decide +kernel

theorem witness_FetchReadsMemory :
    let r := stepLab.translate 0 0 (some 0) 0x10040
    r.2 = .ok 0x30040 (codeLeaf 0x30000) ∧ pteX (codeLeaf 0x30000) = true ∧ inHbm 0x30040 = true ∧ r.1.moving 0x30040 = false ∧ stepLab.accessOk 0 0x30040 4 false = true ∧
    stepLab.marked 0x30040 4 = false ∧ 0x30040 % 4 = 0 ∧ r.1.stall = [] ∧ r.1.version 1 = [] ∧ r.1.waiting 1 = [] ∧
    (r.1.core 0).icache.get? (0x30040 / 64) = none ∧ (r.1.fetchComb (0x30040 / 1024)).stall = [] := by decide +kernel

theorem witness_StepKeepsInv : State.reset.Inv = true ∧ (match step State.reset with | .next _ => true | _ => false) = true := by decide +kernel

theorem witness_VectorIntegerResults : allIssue Hints.empty []
    [.vadd q0 2 1 (.v 0), .vsub q0 127 1 (.s 63), .vmul q0 2 1 (.int 31), .vmulhi q0 2 1 .lane, .vand q0 2 1 (.v 0), .vor q0 2 1 (.v 0),
     .vxor q0 2 1 (.v 0), .vshl q0 2 1 (.v 0), .vshr q0 2 1 (.v 0), .vsra q0 2 1 (.v 0), .vmin q0 2 1 (.v 0), .vmax q0 2 1 (.v 0),
     .vminu q0 2 1 (.v 0), .vmaxu q0 2 1 (.v 0), .vmad q0 2 1 (.v 0), .vabsd q0 2 1 (.v 0)] = true := by decide +kernel

theorem witness_VectorMoveResults :
    allIssue Hints.empty [] [.vmov q0 2 (.v 0), .vnot q0 2 (.v 0), .vneg q0 2 (.v 0), .vabs q0 2 (.v 0), .vpopc q0 2 (.v 0), .vclz q0 2 (.v 0),
      .vbrev q0 2 (.v 0), .vpack2 q0 2 1 (.v 0), .vcopysign q0 2 1 (.v 0)] = true ∧
    allIssue noFlags [] [.vsel q0 2 1 (.v 0)] = true ∧
    allIssue (literal 0x201F) [] [.vbfe q0 2 (.v 0), .vbfi q0 2 (.v 0)] = true ∧ allIssue (literal 15) [] [.vbcast q0 2 (.v 0)] = true := by decide +kernel

theorem witness_VrandWritesItsWord : allIssue Hints.empty [] [.vrand q0 2 (.s 63)] = true ∧
    (lab []).waves.get? (lab []).issue.slot = some (labWave []) ∧ (lab []).stall = [] ∧ (Instr.vrand q0 2 .lane).wf = true := by decide +kernel

theorem witness_VectorFloatResults : allIssue Hints.empty []
    [.vfadd q0 2 1 (.v 0), .vfsub q0 2 1 (.v 0), .vfmul q0 2 1 (.v 0), .vffma q0 2 1 (.flt 7), .vfmin q0 2 1 (.v 0), .vfmax q0 2 1 (.v 0),
     .vhfma q0 2 1 (.v 0), .vhadd q0 2 1 (.v 0), .vhmul q0 2 1 (.v 0)] = true := by decide +kernel

theorem witness_VectorFunctionResults : ([true, false].all fun p => allIssue Hints.empty []
    [.vfrcp q0 p 2 (.v 0), .vfrsq q0 p 2 (.v 0), .vfsqrt q0 p 2 (.v 0), .vfexp2 q0 p 2 (.v 0), .vflog2 q0 p 2 (.v 0), .vfsin q0 p 2 (.v 0),
     .vfcos q0 p 2 (.v 0), .vftanh q0 p 2 (.v 0), .vfrnd q0 p 2 (.v 0), .vfclass q0 p 2 (.v 0), .vcvt q0 .uint8 .fp32 .dynamic 2 (.v 0)]) = true := by
  decide +kernel

theorem witness_CompareAndShuffleResults : allIssue Hints.empty []
    [.vcmp q0 .geu 11 1 (.v 0), .vfcmp q0 .unord 11 1 (.v 0), .vshfl q0 .idx 2 1 (.v 0), .vshfl q0 .down 2 1 (.v 0)] = true := by decide +kernel

theorem witness_ScalarIntegerResults : allIssue Hints.empty []
    [.sadd q0 63 1 (.s 2), .ssub q0 3 1 (.s 2), .smul q0 3 1 (.s 2), .smulhi q0 3 1 (.s 2), .sand q0 3 1 (.s 2), .sor q0 3 1 (.s 2),
     .sxor q0 3 1 (.s 2), .sshl q0 3 1 (.s 2), .sshr q0 3 1 (.s 2), .ssra q0 3 1 (.s 2), .smin q0 3 1 (.s 2), .smax q0 3 1 (.s 2),
     .sminu q0 3 1 (.s 2), .smaxu q0 3 1 (.s 2), .saddc q0 3 1 (.s 2), .ssubb q0 3 1 (.s 2), .scmp q0 .geu 1 (.s 2), .ssel q0 3 1 (.s 2),
     .smov q0 3 (.int 0), .spopc q0 3 (.s 2), .sclz q0 3 (.s 2), .sbfe q0 3 1 (.s 2), .smovi q0 3 0xFFFF, .sori q0 3 1, .saddi q0 3 1,
     .scmpi q0 3 1] = true := by decide +kernel

theorem witness_ScalarFloatResults : allIssue Hints.empty []
    [.sfadd q0 3 1 (.s 2), .sfmul q0 3 1 (.s 2), .sffma q0 3 1 (.s 2), .sfmin q0 3 1 (.s 2), .sfmax q0 3 1 (.s 2), .sfexp2 q0 3 (.s 2),
     .sfcvt q0 3 1 7 0, .drawm q0 61 61] = true := by decide +kernel

theorem witness_MaskResults : allIssue Hints.empty []
    [.mand q0 11 0 11, .mor q0 1 2 3, .mxor q0 1 2 3, .mandn q0 1 2 3, .mmov q0 1 2, .mfirst q0 1 2, .mset q0 1 62, .mpopc q0 3 11,
     .mget q0 62 11] = true := by decide +kernel

theorem witness_CrossLaneResults : allIssue Hints.empty []
    [.vrfl q0 3 1, .vballot q0 11 1, .vmatch q0 126 1, .vrdln q0 3 2 1, .vwrln q0 3 2 1] = true := by decide +kernel

theorem witness_FoldResults : allIssue Hints.empty []
    [.vredu q0 3 false .or 1, .vredu q0 3 true .max 1, .vscan q0 true false .and 2 1, .vscan q0 false true .min 2 1, .vdraw q0 61 2 1] = true := by
  decide +kernel

theorem witness_FrameOfRegisterWords :
    ([.vadd q0 2 1 (.v 0), .vfadd q0 2 1 (.v 0), .saddc q0 3 1 (.s 2), .vmatch q0 126 1, .mget q0 62 11, .vdraw q0 61 2 1] : List Instr).all (fun i =>
      (Instr.dests i).isSome && issues i (lab []) (labWave [])) = true := by decide +kernel

/-! ### Witnesses: control -/

/-- A request of task 1 for a store of accumulator tile 0 to global memory. -/
def labStore : StoreRec :=
  { team := loadedTeam, core := 0, tile := 0, dfmt := 0, spadSpace := false, sat := false, scale := false, trans := false, rm := 0, stride := 512,
    dst := 0x10000, scaddr := 0, bar := none, ctr := 0 }

def labReq (kind : ReqKind) (granted : Bool) : Req :=
  { num := 7, team := 0, ctx := 0, slot := 0, task := 1, launches := [], prio := 0, kind := kind, after := [], fmode := 0, seed := 0,
    eligible := some 0, granted := granted }

def labGlobal : Req := labReq (.mstore labStore) false

/-- Two entries: lanes 0 to 7 in issue and lanes 8 to 15 at another PC. -/
def twoEntries : Wave → Wave := fun w =>
  { w with table := [{ pc := 0x10040, lanes := 0xFF, park := none }, { pc := 0x10080, lanes := 0xFF00, park := none }] }

def labTwo : State := let s := labWith Hints.empty [] twoEntries
  { s with issue := { s.issue with lanes := 0xFF } }

theorem witness_BranchMovesLanes : allIssue Hints.empty []
    [.br q0 .none false 0 65535, .br q0 .likely true 12 (-65536), .br q0 .uniform false 13 1] = true := by decide +kernel

theorem witness_JumpsMoveLanes : allIssue Hints.empty [] [.jmp q0 262143, .brx q0 1, .call q0 (-262144), .ret q0] = true := by decide +kernel

theorem witness_MaskControl : allIssue Hints.empty [] [.join q0 11, .leave q0 0, .waitm q0 11] = true := by decide +kernel

theorem witness_ExitRetiresLanes :
    let leave (s : State) := (s.wave fun x => (x.dropLanes s.issue.lanes).endGroup).suspendOwner 0
    let late : State := { lab [] with waves := [(0, { labWave [] with ctx := 0 })], clusters := [(0, { Cluster.idle with resv := [labGlobal] })] }
    issues (.exit q0) labTwo (twoEntries (labWave [])) = true ∧ (twoEntries (labWave [])).without labTwo.issue.lanes ≠ [] ∧ (leave labTwo).stall = [] ∧
    issues (.exit q0) (lab []) (labWave []) = true ∧ (labWave []).without (lab []).issue.lanes = [] ∧
    (lab []).globalStores (labWave []) = false ∧ ((lab []).commit 0).stall = [] ∧ (((lab []).commit 0).removeWave 0 true none).stall = [] ∧
    issues (.exit q0) late (labWave []) = true ∧ late.globalStores (labWave []) = true := by decide +kernel

/-- The kernel's table of regions: one region from offset 0x40 to 0x80. -/
def regionLab : State :=
  let f (w : Wave) : Wave := { w with hdr := { w.hdr with idemtab := 0x100 } }
  let s := labWith Hints.empty [] f
  { s with mem := (cellsAt 0x30100 (leBytes 4 1 ++ leBytes 4 0x40 ++ leBytes 4 0x80)).foldl (fun m c => Sparse.set m c.1 c.2) s.mem }

theorem witness_SmallControlWords :
    allIssue Hints.empty [] [.nop q0, .yield q0, .isync q0, .ppt q0] = true ∧
    (let r : Region := { pc := 0x10040, s := [], endOff := 0x40 }
     let f (w : Wave) : Wave := { w with region := some r }
     issues (.idemend q0) (labWith Hints.empty [] f) (f (labWave [])) = true ∧ (labWith Hints.empty [] f).issue.lanes = (f (labWave [])).liveLanes ∧
       (labWith Hints.empty [] f).issue.offset (f (labWave [])) = r.endOff) ∧
    (let s := (lab []).setContext 0 { (lab []).context 0 with state := 2 }
     issues (.ppt q0) s (labWave []) = true ∧ (s.context 0).state = 2 ∧
       (s.teams.get? (s.rootTeam 0 (labWave []))).any (fun x => !x.saving && !x.discarding && !s.discards (s.rootTeam 0 (labWave [])) x) = true ∧
       (let d := labWith Hints.empty [] fun w => { w with restart := true }
        let u := d.setContext 0 { d.context 0 with state := 2 }
        (u.teams.get? 0).any (fun x => u.discards 0 x)) = true) := by decide +kernel

theorem witness_SleepParks :
    let r (s : State) := s.check 0 0 (some 0) (s.issue.src.pair 0).toNat 4 4 { rd := true, wr := false }
    allIssue Hints.empty [] [.sleep q0 0 (.s 0), .sleep q0 31 (.int 191)] = true ∧ (r (lab [0x10020, 0])).1.stall = [] ∧
      (match (r (lab [0x10020, 0])).2 with | .ok _ => true | _ => false) = true ∧
      (match (r (lab [0x10021, 0])).2 with | .error e => decide (e.1 = cMisaligned) | _ => false) = true ∧ (r (lab [0x10021, 0])).1.stall = [] := by
  decide +kernel

theorem witness_IdemOpensRegion :
    let at_ (s : State) : State × Except (Nat × Nat) (Option Nat) :=
      match s.waves.get? 0 with
      | some w => s.regionAt 0 w (s.issue.offset w)
      | none => (s, .ok none)
    let ok (s : State) : Bool := (s.waves.get? 0).any fun w => issues (.idem q0) s w && decide (s.issue.lanes = w.liveLanes) && decide (w.region = none) &&
      (at_ s).1.stall.isEmpty
    let far : State := { regionLab with issue := { regionLab.issue with pc := 0x10048, first := 0x10048 } }
    let bad := labWith Hints.empty [] fun w => { w with hdr := { w.hdr with idemtab := 0x40000000 } }
    labTwo.issue.lanes ≠ (twoEntries (labWave [])).liveLanes ∧ issues (.idem q0) labTwo (twoEntries (labWave [])) = true ∧
      (let f (w : Wave) : Wave := { w with region := some { pc := 0x10040, s := [], endOff := 0x40 } }
       issues (.idem q0) (labWith Hints.empty [] f) (f (labWave [])) = true ∧ (f (labWave [])).region.isSome = true) ∧
      ok regionLab = true ∧ (match (at_ regionLab).2 with | .ok (some stop) => decide (stop = 0x80) | _ => false) = true ∧
      ok far = true ∧ (match (at_ far).2 with | .ok none => true | _ => false) = true ∧
      ok bad = true ∧ (match (at_ bad).2 with | .error e => decide (e.1 = cTranslation) | _ => false) = true := by decide +kernel

theorem witness_SoftwareTrapEntersHandler :
    let f (w : Wave) : Wave := { w with tvec := 0x10080 }
    let s := labWith Hints.empty [] f
    issues (.trap q0 255) s (f (labWave [])) = true ∧ issues (.brk q0 0) s (f (labWave [])) = true ∧ (f (labWave [])).handler = none ∧
      (f (labWave [])).tvec ≠ 0 ∧ s.issue.lanes ≠ 0 ∧ s.issue.resumed = false := by decide +kernel

/-- The wave runs its handler with a saved status. -/
def inHandler (tsw : Word) (w : Wave) : Wave :=
  { w with tsw := tsw, epc := 0x10040, tvec := 0x10080, table := [],
           handler := some { pc := 0x10080, lanes := 0xFFFF, frameS := [], frameM10 := 0, frameM11 := 0, frameSc := false, frameFstat := 0 } }

theorem witness_HandlerReturns :
    let s := labWith Hints.empty [] (inHandler 0x512)
    let w := inHandler 0x512 (labWave [])
    let bad := inHandler 0x100512 (labWave [])
    issues (.tret q0) s w = true ∧ issues (.tretAbort q0) s w = true ∧ w.handler.isSome = true ∧ w.tsw.toNat / 2 ^ 20 = 0 ∧ 1 ≤ w.tsw.toNat % 256 ∧
      w.tsw.toNat % 256 ≤ 0x13 ∧ w.epc.toNat % 4 = 0 ∧ w.epc.toNat / 2 ^ 52 = 0 ∧
      (((s.countWord w).abort 0 0 w.tsw.toNat w.epc true).stall = []) ∧
      issues (.tret q0) (lab []) (labWave []) = true ∧ issues (.tretAbort q0) (lab []) (labWave []) = true ∧ (labWave []).handler = none ∧
      issues (.tret q0) (labWith Hints.empty [] (inHandler 0x100512)) bad = true ∧ bad.tsw.toNat / 2 ^ 20 ≠ 0 ∧
      issues (.tretAbort q0) (labWith Hints.empty [] (inHandler 0x100512)) bad = true := by decide +kernel

theorem witness_HintsAreHeld :
    let w := labWave []
    (lab []).waves.get? (lab []).issue.slot = some w ∧ w.inBody = false ∧ Hints.list (lab []).issue.held < 2 ∧
    ([.hintLitlo 0xFFFFF, .hintLithi 0xFFF, .hintGuard true 11, .hintMod 11 true 3 true true true true true true, .hintRnd 4, .hintScope 5,
      .hintCache 3, .hintGap 255] : List Instr).all (fun i => i.wf && decide (Instr.version i ≤ w.hdr.encv)) = true := by decide +kernel

theorem witness_SystemRegisters :
    allIssue Hints.empty [] [.smfr q0 62 0x0B, .smfr q0 63 0x00, .smfr q0 3 0x0C, .smto q0 2 0x00, .smto q0 2 0x0D, .smto q0 2 0x18] = true ∧
    (labWave []).valueOk 0x0D 4 = true ∧ (labWave []).valueOk 0x0D 5 = false ∧
    (let s : State := { lab [] with contexts := [(0, { (lab []).context 0 with priv := true })] }
     issues (.smto q0 2 0x18) s (labWave []) = true ∧ (s.context 0).priv = true ∧ (s.snapWrite 0).stall = []) := by decide +kernel

def labPriv (ss : List Word) : State := { lab ss with contexts := [(0, { (lab ss).context 0 with priv := true })] }

/-- A scan in hand of core 3 of cluster 0. -/
def labScan : Scan := 
  { ctx := 0, descVa := 0x10000, phase := .drain, die := 0, clus := 0, mask := 8, matrix := false, abortPrio := 7, pattern := 0, drainMax := 10,
    status := 0x10040, tstart := 0, abort := false }

theorem witness_ScanNeedsPrivilege :
    allIssue Hints.empty [] [.scan q0 62] = true ∧ ((lab []).context 0).priv = false ∧ issues (.scan q0 10) (labPriv []) (labWave []) = true ∧
    ((labPriv []).context 0).priv = true ∧ (labPriv []).scanning = none ∧
    ((labPriv []).acceptScan 0 ((labPriv []).issue.src.pair 10).toNat).stall = [] ∧
    issues (.scan q0 10) { labPriv [] with scanning := some labScan } (labWave []) = true := by decide +kernel

/-! ### Witnesses: memory -/

/-- The state and the places that a granted access leaves; whether it is granted. -/
def leaves (s : State) (w : Wave) (n : Nat) (want : Want) (race : Option Bool) (addr : List (Nat × Nat)) : State × List Acc × Bool :=
  let c := s.checkLanes s.issue.slot w n n 0 want addr
  match race with
  | none => (c.1, c.2.2, decide (c.2.1 = []))
  | some store =>
    let r := c.1.raceLanes s.issue.slot store c.2.2
    (r.1, c.2.2, decide (c.2.1 = []) && decide (r.2 = []))

theorem grants_leaves {s : State} {w : Wave} {n : Nat} {want : Want} {race : Option Bool} {addr : List (Nat × Nat)}
    (h : (leaves s w n want race addr).2.2 = true) : s.grants w n want race addr (leaves s w n want race addr).1 (leaves s w n want race addr).2.1 := by
  unfold leaves at h ⊢
  unfold State.grants
  cases race with
  | none =>
    simp only [decide_eq_true_eq] at h ⊢
    exact ⟨Prod.ext h rfl, trivial⟩
  | some b =>
    simp only [Bool.and_eq_true, decide_eq_true_eq] at h ⊢
    exact ⟨Prod.ext h.1 rfl, Prod.ext rfl h.2⟩

/-- An access that is granted. -/
theorem granted_leaves {s : State} {w : Wave} {va n align : Nat} {want : Want} (h : (s.granted w va n align want).isSome = true) :
    ∃ u pa pte, s.granted w va n align want = some (u, pa, pte) := by
  obtain ⟨⟨u, pa, pte⟩, h⟩ := Option.isSome_iff_exists.1 h
  exact ⟨u, pa, pte, h⟩

/-- The bytes of a page of the loaded program, with its leaf entry. -/
def pageLab (h : Hints) (ss : List Word) (leaf : Nat) (cells : List Host.Cell) : State :=
  let s := labHeld h ss
  let cs := cellsAt 0x22008 (leBytes 2 leaf) ++ cells
  { s with mem := cs.foldl (fun m c => Sparse.set m c.1 c.2) s.mem }

/-- Each lane's own word of the page, from its lane number. -/
def wordLanes : List (Nat × Nat) := [(0, 0x10000), (15, 0x1000C)]

theorem witness_VectorLoads :
    let s := lab [0x10000, 0]
    let at_ := s.issue.activeLanes.map fun l => (l, s.issue.globalVa 0 1 l)
    let x := leaves s (labWave [0x10000, 0]) 1 { rd := true, wr := false } (some false) at_
    let r := (x.1.afterRemote (labWave [0x10000, 0]) 1 x.2.1).readLanes 0 (labWave [0x10000, 0]) 1 s.issue.held.bypass x.2.1
    issues (.vld q0 2 0 1 .b8) s (labWave [0x10000, 0]) = true ∧ issues (.vldc q0 2 0 1 .i8) s (labWave [0x10000, 0]) = true ∧ x.2.2 = true ∧
      x.1.markedLanes 1 0 false x.2.1 = [] ∧ r.2.1 = [] ∧
      (r.1.putLanes 2 1 (r.2.2.map fun x => (x.1, Width.load .b8 x.2))).stall = [] := by decide +kernel

theorem witness_VectorLoads_columns :
    let w := labWave [0x10000, 0]
    let s := pageLab Hints.empty [0x10000, 0] 0x3F []
    let at_ := s.issue.activeLanes.map fun l => (l, s.issue.globalVa 0 1 l)
    let x := leaves s w 1 { rd := true, wr := false, comb := true } (some false) at_
    issues (.vldt q0 2 0 1 .b8) s w = true ∧ x.2.2 = true ∧ x.1.markedLanes 1 0 false x.2.1 = [] ∧
      ((x.1.afterRemote w 1 x.2.1).readColumns 0 w 1 x.2.1).2.1 = [] ∧
      (((x.1.afterRemote w 1 x.2.1).readColumns 0 w 1 x.2.1).1.putLanes 2 1
        (((x.1.afterRemote w 1 x.2.1).readColumns 0 w 1 x.2.1).2.2.map fun x => (x.1, Width.load .b8 x.2))).stall = [] := by decide +kernel

/-- The scratchpad places of the sixteen lanes at base + lane. -/
def spadPlaces (base : Nat) : List SpadAcc := (List.range 16).map fun l => { lane := l, core := 0, off := base + l }

theorem spadLab_grants (store : Bool) :
    (lab [2032]).grantsSpad (labWave [2032]) 1 store ((lab [2032]).issue.activeLanes.map fun l => (l, (lab [2032]).issue.spadVa 0 1 l)) (spadPlaces 2032) := by
  refine ⟨⟨loadedTeam, ?_⟩, ?_⟩
  · decide +kernel
  · intro a ha
    have : (spadPlaces 2032).all (fun a => !(lab [2032]).lineAbsent a.core (a.off / 128) && !(lab [2032]).linePoisoned a.core (a.off / 128) &&
        !(lab [2032]).typedIn a.core a.off 1) = true := by decide +kernel
    have := List.all_eq_true.1 this a ha
    simp only [Bool.and_eq_true, Bool.not_eq_true'] at this
    exact ⟨this.1.1, this.1.2, fun _ => this.2⟩

theorem witness_VectorLoads_spad : issues (.vlds q0 2 0 1 .b8) (lab [2032]) (labWave [2032]) = true ∧ spadPlaces 2032 ≠ [] ∧
    (lab [2032]).countWord (labWave [2032]) = lab [2032] := ⟨by decide +kernel, by decide +kernel, rfl⟩

theorem witness_FrameOfScratchpadStores : issues (.vsts q0 2 0 1 .b8) (lab [2032]) (labWave [2032]) = true ∧
    (lab [2032]).grantsSpad (labWave [2032]) 1 true ((lab [2032]).issue.activeLanes.map fun l => (l, (lab [2032]).issue.spadVa 0 1 l)) (spadPlaces 2032) :=
  ⟨by decide +kernel, spadLab_grants true⟩

theorem witness_ScalarMemoryWords :
    let w := labWave [0x10000, 0]
    let s := lab [0x10000, 0]
    let x := leaves s w 8 { rd := true, wr := false } (some false) [(0, 0x103F8)]
    let y := leaves s w 4 { rd := false, wr := true } (some true) [(0, 0x103FC)]
    issues (.sld q0 62 0 true 254) s w = true ∧ issues (.sldk q0 62 0 true 254) s w = true ∧ issues (.sst q0 63 0 false 255) s w = true ∧
      (s.issue.src.pair 0 + 4 * (254 : BitVec 8).setWidth 64).toNat = 0x103F8 ∧ s.issue.leader = 0 ∧
      x.2.2 = true ∧ x.2.1.length = 1 ∧ x.1.markedLanes 8 0 false x.2.1 = [] ∧
      ((x.1.afterRemote w 8 x.2.1).readLanes 0 w 8 false x.2.1).2 = ([], [(0, List.replicate 8 0)]) ∧
      y.2.2 = true ∧ y.2.1.length = 1 ∧ (y.1.storeLanes w (y.2.1.map fun a => (a, leBytes 4 0))).stall = [] := by decide +kernel

theorem witness_VectorStores :
    let w := labWave [0x10000, 0]
    let s := lab [0x10000, 0]
    let at_ := s.issue.activeLanes.map fun l => (l, s.issue.globalVa 0 1 l)
    let x := leaves s w 1 { rd := false, wr := true } (some true) at_
    issues (.vst q0 2 0 1 .b8) s w = true ∧ x.2.2 = true ∧ (x.1.storeLanes w (x.2.1.map fun a => (a, [(0 : Byte)]))).stall = [] ∧
      issues (.vpref q0 0 1) s w = true ∧ issues (.vpwb q0 0 1) s w = true ∧
      (at_.filter fun x => s.persistLane 0 w x.2) = [] := by decide +kernel

/-- Cluster 0 as a function changes it. -/
def labClus (ss : List Word) (f : Cluster → Cluster) : State := (lab ss).modCluster 0 f

theorem witness_PublWaitsAndCommits :
    let s := lab []
    let u := labClus [] fun k => { k with resv := [labReq (.mstore labStore) false] }
    issues (.publ q0) s (labWave []) = true ∧ (s.countWord (labWave [])).globalStores (labWave []) = false ∧
      ((s.countWord (labWave [])).commit 0).stall = [] ∧
      issues (.publ q0) u (labWave []) = true ∧ (u.countWord (labWave [])).globalStores (labWave []) = true := by decide +kernel

/-- The hints of an atomic with an ordering. -/
def ordered_ (ord : BitVec 2) : Hints :=
  { Hints.empty with mod := some { sel := 0, hf := false, ord := ord, w64 := false, sat := false, ab := false, nb := false, aa := false, na := false } }

/-- The conditions of an atomic of the Leader at 0x10000, with an ordering. -/
def atomOk (h : Hints) (f : AtomFun) (count : Nat) : Bool :=
  let w := labWave [0x10000, 0]
  let s := labHeld h [0x10000, 0]
  let x := leaves s w 4 { rd := true, wr := true } none [(0, 0x10000)]
  let u := x.1.afterRemote w 4 x.2.1
  let c : Option State := if 2 ≤ s.issue.held.ord then u.released w s.issue.held.scopeOr else some u
  let rest (c : State) : Bool :=
    let r := c.atomLanes w 4 f (x.2.1.map fun a => (a, List.replicate count (0 : Word)))
    decide (r.refused = []) && decide (((putOldScalar 3 4 r.state r.old).atomAcquire s.issue.held.ord s.issue.held.scopeOr).stall = [])
  x.2.2 && decide (x.1.markedLanes 4 0 true x.2.1 = []) && c.any rest

theorem witness_GlobalAtomics :
    let w := labWave [0x10000, 0]
    issues (.satom q0 3 0 false .add) (lab [0x10000, 0]) w = true ∧ issues (.scas q0 62 0 false) (lab [0x10000, 0]) w = true ∧
      issues (.satom q0 3 0 false .maxu) (labHeld (ordered_ 3) [0x10000, 0]) w = true ∧
      atomOk Hints.empty (atomFun .add 4) 1 = true ∧ atomOk (ordered_ 3) (atomFun .maxu 4) 1 = true ∧ atomOk Hints.empty (casFun 4) 2 = true := by decide +kernel

/-- The same for vector words: a bundle of lane 0 alone, whose offset in v1 is 0. -/
def oneLane (h : Hints) (ss : List Word) : State := let s := labHeld h ss
  { s with issue := { s.issue with lanes := 1 } }

theorem witness_GlobalAtomics_vector :
    let w := labWave [0x10000, 0]
    let s := oneLane (ordered_ 2) [0x10000, 0]
    let x := leaves s w 4 { rd := true, wr := true } none (s.issue.activeLanes.map fun l => (l, s.issue.globalVa 0 1 l))
    issues (.vatom q0 .fadd 2 1 0) s w = true ∧ issues (.vcas q0 126 1 0) s w = true ∧ x.2.2 = true ∧ x.2.1.length = 1 ∧
      x.1.markedLanes 4 0 true x.2.1 = [] ∧
      ((x.1.afterRemote w 4 x.2.1).released w s.issue.held.scopeOr).any (fun c =>
        let r := c.atomLanes w 4 (atomFun .fadd 4) (x.2.1.map fun a => (a, [0]))
        decide (r.refused = []) && decide (((putOld 2 4 r.state r.old).atomAcquire 2 s.issue.held.scopeOr).stall = [])) = true := by decide +kernel

theorem witness_AtomicNewValues : (4 = 4 ∨ 4 = 8) ∧ 2 ^ 32 - 1 < 2 ^ (8 * 4) ∧ 2 ^ 64 - 1 < 2 ^ (8 * 8) ∧ AtomOp.add ≠ .fadd := by decide +kernel

theorem witness_OtherAtomics :
    let w := labWave [2044]
    let s := oneLane (ordered_ 3) [2044]
    issues (.vatoms q0 .add 2 1 0) s w = true ∧ issues (.vatomsCas q0 2 1 0) s w = true ∧ (s.issue.activeLanes.map fun l => (l, s.issue.spadVa 0 1 l)) = [(0, 2044)] ∧
      (s.released w (min s.issue.held.scopeOr 2)).any (fun c =>
        decide (((putOld 2 4 c [(0, 0)]).atomAcquire 3 (min s.issue.held.scopeOr 2)).stall = [])) = true := by decide +kernel

theorem oneLane_grants :
    (oneLane (ordered_ 3) [2044]).grantsSpad (labWave [2044]) 4 true [(0, 2044)] [{ lane := 0, core := 0, off := 2044 }] := by
  refine ⟨⟨loadedTeam, ?_⟩, ?_⟩ <;> decide +kernel

/-- A readable and writable page of accumulators at memory. -/
theorem witness_OtherAtomics_bfadd :
    let w := labWave [0x10008, 0]
    let s := { pageLab Hints.empty [0x10008, 0] 0x4F [] with issue := { (labHeld Hints.empty [0x10008, 0]).issue with lanes := 1 } }
    let addr := s.issue.activeLanes.map fun l => (l, s.issue.globalVa 0 1 l)
    let r := s.checkLanes 0 w 8 8 0 { rd := true, wr := true, mside := true } addr
    issues (.bfadd q0 2 1 0) s w = true ∧ addr = [(0, 0x10008)] ∧ 0x10008 % 8 = 0 ∧ 8 ≤ 0x10008 % 64 ∧ r.2.1 = [] ∧ r.2.2.length = 1 ∧
      r.2.2.all (fun a => !r.1.marked (a.pa / 64 * 64) 64) = true ∧
      (let ls : List BfLane := r.2.2.map fun a => { lane := a.lane, block := a.pa / 64, elem := a.pa % 64 / 8 - 1, addend := 0 }
       let x := State.bfBlocks ((r.1.commit 0).ordered 0) ls (ls.map (·.block)).eraseDups
       ((x.1.putNow (.vec 2 x.2)).atomAcquire 0 s.issue.held.scopeOr).stall = []) := by decide +kernel

theorem witness_FenceWords :
    allIssue Hints.empty [] [.fence q0 .acq 5, .fence q0 .rel 0, .fence q0 .full 5, .qfence q0 63, .pfence q0] = true ∧
    ((lab []).released (labWave []) 0).any (fun c => decide (c.stall = [])) = true ∧
    ((lab []).released (labWave []) 5).any (fun c => decide (c.stall = [])) = true := by decide +kernel

/-! ### Witnesses: scratchpad objects -/

/-- Bytes in core 0's scratchpad. -/
def labSpad (ss : List Word) (off : Nat) (bs : List Byte) (f : Core → Core) : State :=
  (lab ss).modCore 0 fun c => f { c with spad := Sparse.setList c.spad off bs }

theorem witness_BarrierWords :
    let ss := [2032, 65535, 0]
    let w := labWave ss
    let s := lab ss
    let t := labSpad ss 2032 (leBytes 2 2) fun c => { c with typed := [2032] }
    s.objectAt w 2032 16 = some (0, 2032) ∧ issues (.barinit q0 0) s w = true ∧ s.isTyped 0 2032 = false ∧
      t.objectAt w 2032 16 = some (0, 2032) ∧ t.isTyped 0 2032 = true ∧ issues (.bararr q0 0) t w = true ∧ issues (.bartest q0 63 0 1) t w = true ∧
      issues (.barwait q0 0 2) t w = true ∧ issues (.barinv q0 0) t w = true ∧
      (t.released w 2).any (fun c => decide ((c.changeBar 0 2032 (c.readBar 0 2032).arrive).stall = [])) = true := by decide +kernel

theorem witness_BarrierWords_wbar :
    let s := lab [0]
    let w := labWave [0]
    issues (.wbar q0 .team 0) s w = true ∧ s.issue.lanes = w.liveLanes ∧ s.teams.get? w.team = some loadedTeam ∧
      descOk 0 .team w.hdr.vregs = true ∧ s.wbarAgrees loadedTeam .team (descGroup 0) = true ∧
      (s.released w (wbarScopeCode .team)).any (fun c => (c.teams.get? w.team).isSome && decide (c.stall = [])) = true := by decide +kernel

theorem witness_VersionsAndCommits :
    let s : State := { lab [] with versions := [(1, [(0x30000, 7)])] }
    s.waves.get? 0 = some (labWave []) ∧ (versionCombs (s.version 1)).contains (0x30004 / 1024) = true ∧ ascending (s.version 1) = true ∧
      (s.commit 0).stall = [] := by decide +kernel

/-! ### Witnesses: engines -/

theorem witness_CopyWordsPost :
    let spad := [2032, 0xFFFFFFFF, 0x10000, 0, 0, 0]
    let regs := [0x40000000 + 65536 * 127, 0xFFFFFFFF, 0x10000, 0, 0, 0]
    let win := [0x00800010, 0x00800000, 0x10000, 0, 0, 0, 15]
    let slot := [63, 0xFFFFFFFF, 0x10000, 0, 0, 0]
    issues (.cpy q0 0) (lab spad) (labWave spad) = true ∧ (lab spad).barOf 0 (labWave spad) 0xFFFFFFFF = .ok none ∧
      ((lab spad).placeOf 0 (labWave spad) 2032).isSome = true ∧ (lab spad).copiesOf 0 0 < 64 ∧ (((lab spad).commit 0).ordered 0).stall = [] ∧
      issues (.cpy q0 0) (lab regs) (labWave regs) = true ∧ (0x40000000 + 65536 * 127) / 2 ^ 30 = 1 ∧
      issues (.cpym q0 0 6) (lab win) (labWave win) = true ∧ ((lab win).placeOf 0 (labWave win) 0x00800010).isSome = true ∧
      inWindow0 0x00800010 = true ∧ inWindow0 0x00800000 = true ∧ (lab win).barOf 0 (labWave win) 0x00800000 = .ok (some (0, 0)) ∧
      (let s := labClus slot fun k => { k with slots := [(63, (claimOf 0 []).slot)] }
       issues (.oload q0 0) s (labWave slot) = true ∧ (s.cluster s.hereClus).holdsSlot 0 63 = true) := by decide +kernel

theorem witness_EngineWordsPost :
    let code (c : Word) := [0x10000, 0, 0, 0, 64, c, 0x10020, 0]
    let w := labWave (code 0)
    let s := lab (code 0)
    issues (.xfer q0 0) s w = true ∧ (s.granted w 0x10020 32 32 { rd := true, wr := true }).isSome = true ∧
      issues (.xfer q0 0) (lab (code 1)) (labWave (code 1)) = true ∧ issues (.xfer q0 0) (lab (code 2)) (labWave (code 2)) = true ∧
      (((s.commit 0).ordered 0).postTier w (.copy 0x10000 0 64) 0x10020 0 ((s.commit 0).teamAfter w 1)).stall = [] ∧
      issues (.tagc q0 0 2) (lab [0x10000, 0, 4096]) (labWave [0x10000, 0, 4096]) = true ∧
      ((lab [0x10000, 0, 4096]).checkTiles 0 0 [0x10000]).2 = none ∧
      issues (.tagq q0 63 0) s w = true ∧ (s.granted w 0x10000 1 1 { rd := true, wr := false }).isSome = true ∧
      issues (.coll q0 0) s w = true ∧ (s.granted w 0x10000 64 64 { rd := true, wr := false }).isSome = true ∧
      issues (.signal q0 0 4) s w = true ∧ (s.granted w 0x10000 4 4 { rd := false, wr := true }).isSome = true := by decide +kernel

/-- A claim record: slots 0 and 63, BF16, K = 32. -/
def labClaim : List Byte := leBytes 8 (2 ^ 63 + 1) ++ leBytes 1 1 ++ leBytes 1 0 ++ leBytes 2 32 ++ leBytes 4 0

theorem witness_ClaimsAndReleases :
    let ss := [0xFFFF, 0x80000000]
    let w := labWave ss
    let s := lab ss
    let t := labClus ss fun k => { k with tiles := (List.range 16).map fun n => (n, Tile.claimed 0) }
    let u := labClus [1, 0x80000000] fun k => { k with slots := [(0, (claimOf 0 labClaim).slot), (63, (claimOf 0 labClaim).slot)] }
    let o := labSpad [2032] 2032 labClaim id
    issues (.aclaim q0 0) s w = true ∧ (List.range 16).all (fun n => !(s.cluster 0).holdsTile 0 n) = true ∧
      issues (.arel q0 0) t w = true ∧ (List.range 16).all (fun n => (t.cluster 0).holdsTile 0 n) = true ∧
      issues (.oclaim q0 0) o (labWave [2032]) = true ∧ o.objectAt (labWave [2032]) 2032 16 = some (0, 2032) ∧
      (claimOf 0 (o.spadBytes 0 2032 16)).valid = true ∧ (claimOf 0 (o.spadBytes 0 2032 16)).slots = [0, 63] ∧
      ([0, 63].all fun n => !(o.cluster 0).holdsSlot 0 n) = true ∧
      issues (.orel q0 0) u (labWave [1, 0x80000000]) = true ∧ ([0, 63].all fun n => (u.cluster 0).holdsSlot 0 n) = true := by decide +kernel

/-- A pass block: tile 15, slots 0 and 63, KCNT 32; and a store record: tile 0 to 0x10000, STRIDE 512, no barrier. -/
def labPass : List Byte := leBytes 1 15 ++ leBytes 1 0 ++ leBytes 1 63 ++ leBytes 1 1 ++ leBytes 2 32 ++ leBytes 26 0
def labRecord : List Byte := leBytes 4 0 ++ leBytes 4 512 ++ leBytes 8 0x10000 ++ leBytes 8 0 ++ leBytes 4 0xFFFFFFFF ++ leBytes 4 0

def labEngine (bs : List Byte) : State :=
  (labSpad [2016] 2016 bs id).modCluster 0 fun k =>
    { k with tiles := [(0, Tile.claimed 0), (15, Tile.claimed 0)], slots := [(0, (claimOf 0 labClaim).slot), (63, (claimOf 0 labClaim).slot)] }

theorem witness_MatrixWordsPost :
    let w := labWave [2016]
    let s := labEngine labPass
    let k := s.cluster s.hereClus
    let f := fieldOf (s.spadBytes 0 2016 32)
    issues (.mma q0 0) s w = true ∧ s.objectAt w 2016 32 = some (0, 2016) ∧ f 0 1 = 15 ∧ f 1 1 = 0 ∧ f 2 1 = 63 ∧ f 3 1 < 2 ∧ f 6 26 = 0 ∧
      k.holdsTile 0 15 = true ∧ k.holdsSlot 0 0 = true ∧ k.holdsSlot 0 63 = true ∧ f 4 2 = 32 ∧ ((k.slots.get? 63).map (·.kext)).getD 0 = 32 ∧
      k.resv.length < 32 ∧ issues (.mzero q0 15) s w = true ∧ issues (.mwait q0 15) s w = true ∧ k.tileBusy 0 15 = false := by decide +kernel

theorem witness_MatrixWordsPost_store :
    let w := labWave [2016]
    let s := labEngine labRecord
    let f := fieldOf (s.spadBytes 0 2016 32)
    issues (.mstore q0 0) s w = true ∧ s.objectAt w 2016 32 = some (0, 2016) ∧ s.teams.get? 0 = some loadedTeam ∧ f 8 8 % 16 = 0 ∧
      f 2 1 / 4 % 2 = 0 ∧ f 24 4 = 2 ^ 32 - 1 ∧ s.barOf 0 w (BitVec.ofNat 32 (f 24 4)) = .ok none ∧ f 2 1 % 2 = 0 ∧
      storeRecOk (s.cluster s.hereClus) 0 (s.spadBytes 0 2016 32) = true := by decide +kernel

/-! ### Witnesses: tasks, rings and capsules -/

/-- A future of the page, with a state. -/
def futureLab (state : Nat) : State := pageLab Hints.empty [0x10000, 0, 1] 0x1F (cellsAt 0x30000 (leBytes 4 state ++ leBytes 4 1 ++ leBytes 8 9))

/-- A kernel header at 0x10100: ENCV 3, WIDTH 16, 8 v- and s-registers, SPAD 1, TEAM 1; v4 and v5 name it. -/
def spawnLab : State :=
  let head := leBytes 4 0x4E444541 ++ [3, 16, 8, 8] ++ leBytes 2 1 ++ [1] ++ leBytes 53 0
  let s := pageLab Hints.empty [] 0x1F (cellsAt 0x30100 head)
  let f (w : Wave) : Wave := { w with regs := { w.regs with v := Sparse.setList w.regs.v 256 (List.replicate 16 0x10100) } }
  { s with waves := [(0, f (labWave []))], issue := { s.issue with lanes := 1, src := (f (labWave [])).regs } }

/-- The headers that `spawn v4` reads there, and what the word leaves. -/
def spawnReads (s : State) (w : Wave) : State × List Raise × List (Nat × Header) :=
  (s.countWord w).spawnLanes 0 w [(0, (pairOf (s.issue.src.lane 4 0) (s.issue.src.lane 5 0)).toNat)]

def spawnLeaves (c : State) (w : Wave) (i : Issue) (hs : List (Nat × Header)) : State :=
  let b := c.broodLanes c.hereClus w i 4 hs
  b.1.putLanes 4 2 b.2

def spawnOk (s : State) (w : Wave) : Bool :=
  issues (.spawn q0 4) s w && (spawnReads s w).2.1.isEmpty && ((spawnReads s w).2.2.map fun x => x.1) == [0] &&
    ((spawnReads s w).1.released w 4).any fun c => (spawnLeaves c w s.issue (spawnReads s w).2.2).stall.isEmpty

theorem witness_TaskWords_spawn : (spawnLab.waves.get? 0).any (spawnOk spawnLab) = true := by decide +kernel

theorem witness_TaskWords :
    let w := labWave [0x10000, 0, 1]
    let x (k : Nat) := (futureLab k).objectBytes w 0x10000 32 false
    issues (.publ q0) (futureLab 0) w = true ∧
      (x 0).any (fun y => !futureBad y.2.2 && decide (y.1.waitersOn y.2.1 = 0) && decide ((readFuture y.2.2).state % 4 = 0)) = true ∧
      (x 0).any (fun y => (y.1.released w 4).any fun c => (c.objectBytes w 0x10000 32 false).isSome) = true ∧
      issues (.fbind q0 0) (futureLab 0) w = true ∧ issues (.fset q0 0 2) (futureLab 0) w = true ∧
      (x 1).any (fun y => !futureBad y.2.2 && decide ((readFuture y.2.2).state % 4 = 1)) = true ∧ issues (.fwait q0 62 0) (futureLab 1) w = true ∧
      (x 2).any (fun y => !futureBad y.2.2 && decide ((readFuture y.2.2).state % 4 = 2)) = true ∧
      issues (.fwait q0 62 0) (futureLab 2) w = true := by decide +kernel

/-- A ring of two slots of 16 bytes at 0, its slots at 32 and 48 with their words; one slot could be lent. -/
def ringLab (stat : Nat) (w0 w1 : Nat) : State :=
  labSpad [0, 40] 0 (leBytes 2 2 ++ leBytes 2 16 ++ leBytes 4 32 ++ leBytes 4 64 ++ leBytes 2 1 ++ leBytes 2 0 ++ leBytes 4 1 ++ leBytes 4 2 ++
    leBytes 2 0 ++ leBytes 2 0 ++ leBytes 2 1 ++ leBytes 2 stat ++ leBytes 8 w0 ++ leBytes 8 0 ++ leBytes 8 w1) id

def ringAt (s : State) : RingAt :=
  { core := 0, off := 0, ring := s.readRing 0 0, slots := [{ num := 0, payload := 40, core := 0, off := 32 }, { num := 1, payload := 56, core := 0, off := 48 }],
    next := some { num := 2, payload := 72, core := 0, off := 64 } }

theorem ringLab_ready : (ringLab 0 0 0).ringReady (labWave [0, 40]) 0 (ringAt (ringLab 0 0 0)) := by
  refine ⟨loadedTeam, ?_, ?_, rfl, ?_, ?_, ?_, ?_, ?_⟩ <;> decide +kernel

theorem witness_RingWords :
    let w := labWave [0, 40]
    let named (s : State) (k : Nat) : Bool :=
      ((ringAt s).slots.find? fun y => decide (y.payload = (s.issue.src.scalar 1).toNat)).any fun y => decide (s.slotState y = k)
    issues (.qres q0 61 0) (ringLab 0 0 0) w = true ∧ (ringAt (ringLab 0 0 0)).ring.ok = true ∧
      ((ringAt (ringLab 0 0 0)).slots.find? fun y => decide ((ringLab 0 0 0).slotState y = 0)).isSome = true ∧
      (ringAt (ringLab 8 0 0)).ring.faulted = true ∧ (ringAt (ringLab 8 0 0)).ring.ok = true ∧ (ringAt (ringLab 1 0 0)).ring.closed = true ∧
      issues (.qpub q0 0 1) (ringLab 0 0x10000 0) w = true ∧ named (ringLab 0 0x10000 0) 1 = true ∧
      ((ringLab 0 0x10000 0).released w 2).isSome = true ∧
      issues (.qtake q0 61 0) (ringLab 0 0x20000 0) w = true ∧
      ((ringAt (ringLab 0 0x20000 0)).slots.find? fun y =>
        decide ((ringLab 0 0x20000 0).slotState y = 2 ∧ (ringLab 0 0x20000 0).slotSeq y = 0)).isSome = true ∧
      issues (.qdone q0 0 1) (ringLab 0 0x30000 0) w = true ∧ named (ringLab 0 0x30000 0) 3 = true ∧
      issues (.qclose q0 0) (ringLab 0 0 0) w = true := by decide +kernel

/-- A capsule at 0x10000 on an MSIDE page: a holder, a step, flags and code at 0x10040. -/
def capsuleLab (holder step flags : Nat) (key : DWord) : State :=
  let s := pageLab Hints.empty [0x10000, 0, 0] 0x4F (cellsAt 0x30000 (leBytes 4 holder ++ leBytes 2 step ++ leBytes 2 flags ++ leBytes 8 0 ++ leBytes 8 0x10040))
  { s with
    waves := [(0, { labWave [0x10000, 0, BitVec.ofNat 32 step] with ckey := key })]
    issue := { s.issue with src := (labWave [0x10000, 0, BitVec.ofNat 32 step]).regs } }

def capsuleWave (step : Nat) (key : DWord) : Wave := { labWave [0x10000, 0, BitVec.ofNat 32 step] with ckey := key }

theorem witness_CapsuleWords :
    let read (s : State) (w : Wave) := (s.countWord w).objectBytes w 0x10000 256 true
    let mine := capsuleLab 1 14 1 0x10000
    let w := capsuleWave 14 0x10000
    (read mine w).any (fun x => !capsuleBad x.2.2 && (readCapsule x.2.2).mine w 14 && (x.1.released w 4).isSome) = true ∧
      issues (.cstep q0 0 2) mine w = true ∧ issues (.cexit q0 0 0) mine w = true ∧
      (read (capsuleLab 2 14 1 0x10000) w).any (fun x => !capsuleBad x.2.2 && !(readCapsule x.2.2).mine w 14) = true ∧
      issues (.cstep q0 0 2) (capsuleLab 2 14 1 0x10000) w = true ∧
      (read (capsuleLab 0 0 2 0) (capsuleWave 0 0)).any (fun x => (readCapsule x.2.2).done) = true ∧
      issues (.cres q0 62 0) (capsuleLab 0 0 2 0) (capsuleWave 0 0) = true ∧ issues (.center q0 61 0) (capsuleLab 0 0 0 0) (capsuleWave 0 0) = true ∧
      (read (capsuleLab 0 0 0 0) (capsuleWave 0 0)).any (fun x =>
        decide ((x.1.commit 0).stall = []) && ((x.1.commit 0).objectBytes (capsuleWave 0 0) 0x10000 256 true).any fun y =>
          let e := readCapsule y.2.2
          !capsuleBad y.2.2 && !e.done && !e.faulted && !e.held && (lanesOf (laneMask 16)).all fun l => decide (((capsuleWave 0 0).rstack.getD l []).length < 16)) =
        true := by decide +kernel

/-! ### Witnesses: events -/

def labAt (cycles : Nat) : State := { lab [] with clock := BitVec.ofNat 64 cycles }

def labItem (since : Nat) : Item :=
  { ctx := 0, kind := .owner 0, prio := 0, since := since, aged := false, clus := none, hdr := loadedHeader }

def labBrood : Brood := { ctx := 0, hdr := loadedHeader, depth := 1, seed := 0, prio := 0, task := 2, args := [], launches := [], openedAt := 0 }

theorem witness_TimeoutEvents :
    let s : State := { labAt (clocksOf 1000) with items := [(5, labItem 0), (6, labItem 1)] }
    let u := (labSpad [] 0 (leBytes 2 1) fun c => { c with typed := [0] }).modCluster 0 fun k =>
      { k with counts := [{ core := 0, off := 0, bytes := 128, toExpected := false, cause := 0, launches := [] }] }
    ((({ lab [] with clock := BitVec.ofNat 64 (clocksOf 2) } : State).modCluster 0 fun k => { k with brood := [labBrood] }).cluster 0).brood.find?
        (fun b => decide (b.openedAt + clocksOf 2 ≤ clocksOf 2 ∧ ((lab []).context b.ctx).state = 1)) = some labBrood ∧
      (labAt 0).clock.toNat < ({ labAt 0 with mem := [(0x30008, 1)] } : State).valueAt (0x30000 + 8) 8 ∧
      (labAt 1).valueAt (0x30000 + 8) 8 ≤ (labAt 1).clock.toNat ∧
      s.items.get? 5 = some (labItem 0) ∧ (labItem 0).since + clocksOf 1000 ≤ s.clock.toNat ∧
      s.items.get? 6 = some (labItem 1) ∧ s.clock.toNat < (labItem 1).since + clocksOf 1000 ∧
      ((u.cluster 0).counts[0]?).isSome = true ∧ u.lineAbsent 0 0 = false ∧ u.linePoisoned 0 0 = false ∧ u.isTyped 0 0 = true := by
  decide +kernel

/-- Cluster 0 with a copy of 128 bytes from 0x10000 to scratchpad offset 0, or of an `oload` of slot 63. -/
def labWindow : Window :=
  { base := 0x10000, fmt := 0, blen := 0, padval := 0, dims := [32, 1, 1, 1], strides := [128, 128, 128], boxes := [32, 1, 1, 1], origin := [0, 0, 0, 0], sbase := 0,
    sstrides := [0, 0, 0] }

def labCopy (kind : CopyKind) (started : Option Window) : CopyCmd :=
  { num := 3, team := 0, ctx := 0, task := 1, launches := [], kind := kind, bar := none, layout := 0x10100, coords := [0], after := [],
    started := started, done := [], failed := [], fetched := [] }

def labCopying (kind : CopyKind) (started : Option Window) : State :=
  labClus [] fun k => { k with copies := [labCopy kind started], slots := [(63, (claimOf 0 []).slot)] }

/-- Layout 0x10100 of one dimension: KIND, FORMAT and bytes that name 32 words. -/
theorem witness_CopyAndMatrixEvents :
    let c := labCopy (.toSpad 0 0 2048) none
    let s := labCopying (.toSpad 0 0 2048) none
    let o := labCopying (.oload 63) none
    let d : Dest := { num := 0, core := 0, off := 0, limit := 2048 }
    s.headCopy 0 0 = some c ∧ s.copyReady 0 c = true ∧ turnOf (s.cluster 0).lastTeam 0 (s.readyTeams 0) = true ∧ isOload c.kind = false ∧
      (s.startCopy 0 0 c layoutOf).stall = [] ∧
      o.headCopy 0 0 = some (labCopy (.oload 63) none) ∧ o.copyReady 0 (labCopy (.oload 63) none) = true ∧ ((o.cluster 0).slots.get? 63).isSome = true ∧
      (let w := labWindow
       let u := labCopying (.toSpad 0 0 2048) (some w)
       (c.dests 0).find? (fun d => decide (d.num = 0 / 65536)) = some d ∧ 0 < (labCopy (.toSpad 0 0 2048) (some w)).portions w d ∧
        (match u.readImage 0 (labCopy (.toSpad 0 0 2048) (some w)) none ((c.offsets w d 0).map fun o => (o, w.piece o)) with
          | (v, .ok bytes) => decide (((v.landLine 0 (labCopy (.toSpad 0 0 2048) (some w)) w d 0 bytes).copyWork 0 c).stall = [])
          | _ => false) = true) := by decide +kernel

theorem witness_CopyAndMatrixEvents_matrix :
    let fill := labClus [] fun k => { k with fills := [{ slot := 0, task := 1 }] }
    let req (kind : ReqKind) (granted : Bool) := labClus [] fun k =>
      { k with resv := [labReq kind granted], tiles := [(15, Tile.claimed 0), (0, Tile.claimed 0)], slots := [(0, (claimOf 0 labClaim).slot)] }
    let best (kind : ReqKind) (port : Bool) :=
      bestReq 0 ((((req kind false).stampReqs 0).cluster 0).resv.filter fun r => r.tilePort == port && r.eligible.isSome)
    (fill.cluster (clusOf (coreOf 0))).fills = [{ slot := 0, task := 1 }] ∧
      (best (.pass 15 0 0 true 32) false).isSome = true ∧ (best (.mzero 15) true).isSome = true ∧ (best (.pass 15 0 0 true 32) true).isNone = true ∧
      ((req (.pass 15 0 0 true 32) true).grantedReq 0 fun r => !r.tilePort) = some (labReq (.pass 15 0 0 true 32) true) ∧
      ((req (.mzero 15) true).grantedReq 0 fun r => r.tilePort) = some (labReq (.mzero 15) true) ∧
      ((req (.mstore labStore) true).grantedReq 0 fun r => r.tilePort) = some (labReq (.mstore labStore) true) ∧
      (match (lab []).storeGlobal 0 (labReq (.mstore labStore) true) 0x10000 (leBytes 4 0) with
        | .ok t => decide ((t.countStore 0 (labReq (.mstore labStore) true) labStore 0).stall = [])
        | _ => false) = true := by decide +kernel

/-- Die 0 with a command in its tier queue. -/
def labTier (op : TierOp) : TierCmd :=
  { num := 3, team := 0, ctx := 0, launches := [], op := op, ring := 0, tag := 0, after := [], accepted := true, bytes := 0, tiles := [], cause := 0,
    quiet := true }

def labDie (f : Die → Die) : State := (lab []).modDie 0 f

theorem witness_TierEvents :
    let at_ (op : TierOp) := labDie fun d => { d with tierQ := [labTier op] }
    let heads (op : TierOp) : Bool := decide ((at_ op).headTier 0 0 = some (labTier op))
    let m : TileMove := { tile := 7, kind := .fetch, waiters := [] }
    let moving := labDie fun d => { d with moves := [m], poolFrames := 1 }
    let victim : State := { labDie fun d => { d with poolFrames := 2, polEnable := true, thresh1 := 0, thresh2 := 1, thresh3 := 255 } with dir := [(0, { DirEntry.reset with state := 0, reuse := 255 })] }
    let query := labDie fun d => { d with tagqs := [{ num := 9, slot := 0, task := 1, reg := 63, pa := 0x30000 }] }
    heads (.copy 0x10000 0x10040 0) = true ∧ ((at_ (.copy 0x10000 0x10040 0)).finishTier 0 { labTier (.copy 0x10000 0x10040 0) with cause := cSlot }).stall = [] ∧
      heads (.copy 0x10001 0x10040 64) = true ∧ heads (.copy 0x10000 0x10040 64) = true ∧
      ((at_ (.copy 0x10000 0x10040 64)).copyBlock 0 (labTier (.copy 0x10000 0x10040 64)) 0x10000 0x10040 64).stall = [] ∧
      heads (.fetch 0x10000 65536) = true ∧ ((at_ (.fetch 0x10000 65536)).moveStep 0 (labTier (.fetch 0x10000 65536)) true 0x10000 65536).stall = [] ∧
      heads (.evict 0x10000 65536) = true ∧ ((at_ (.evict 0x10000 65536)).moveStep 0 (labTier (.evict 0x10000 65536)) false 0x10000 65536).stall = [] ∧
      (moving.die 0).moves = [m] ∧ (moving.performMove 0 m).isSome = true ∧ heads (.tagc 0x10000 1 255 15) = true ∧
      (query.die 0).tagqs[0]? = some { num := 9, slot := 0, task := 1, reg := 63, pa := 0x30000 } ∧ inHbm 0x30000 = true ∧
      firstVictim ((lab []).victims 0) = none ∧ (firstVictim (victim.victims 0)).isSome = true ∧ (victim.die 0).polEnable = true ∧
      (victim.die 0).level ((victim.dirHere 0).filter fun e => decide (e.2.state = 0)).length = 2 ∧
      (let rec_ : Completion := { ctx := 0, num := 3, ring := 0x10020, tag := 0, status := 0, cause := 0, flags := 0, bytes := 0 }
       let w := labDie fun d => { d with completions := [rec_] }
       (w.die 0).completions[0]? = some rec_ ∧ (w.writeRecord 0 0 rec_).stall = []) := by decide +kernel

/-- Group 9 of one member, this package, device reach, whose member list stands at 0x30000; and a round of it that member 0 has joined. -/
def labGroup (timeout : Nat) : State :=
  let s := lab []
  { s with
    groupTable := Sparse.setList [] 0 (leBytes 4 9 ++ leBytes 2 1 ++ leBytes 2 4 ++ leBytes 8 0 ++ leBytes 8 0x30000 ++ leBytes 4 timeout ++ leBytes 4 0)
    clock := BitVec.ofNat 64 (850 * timeout) }

def labColl : CollCmd :=
  { num := 3, team := 0, ctx := 0, die := 0, task := 1, launches := [], desc := 0x10000, chunk := none, after := [], joined := true, quiet := true }

def labRound (op : Nat) (result : Option (List Byte)) : Round :=
  { collid := 9, round := 1, spec := { op := op, fmt := 0, head := 0, count := 1 },
    members := [{ rank := 0, cmd := labColl, src := 0x10000, dst := 0x10040, ring := 0, tag := 0, cause := 0 }], gone := [], result := result, flags := 0,
    cause := 0, openedAt := 0 }

def inRound (op : Nat) (result : Option (List Byte)) : State := { labGroup 1 with rounds := [labRound op result] }

/-- A round of an operation has all its contributions, and its result is computed with nothing in the way. -/
def roundComputes (op : Nat) : Bool :=
  let s := inRound op none
  ((s.joinAll.rounds.find? fun r => decide (r.collid = 9 ∧ r.round = 1)) == some (labRound op none)) && (s.joinAll.group? 9).any fun g =>
    match (s.joinAll.readGroup 9).1.gather (labRound op none) (g.root (isBound 1)) [] (g.ranks (isBound 1)) with
    | (u, some (cs, faults)) =>
      let bs := cs.filterMap fun c => match c with
        | .bytes b => some b
        | _ => none
      bs.length == cs.length && faults.isEmpty &&
        (u.setRound { labRound op none with result := some ((labRound op none).compute g bs).1 }).stall.isEmpty
    | _ => false

theorem witness_CollectiveEvents :
    let done := inRound 1 (some [0, 0, 0, 0])
    [1, 2, 3, 4, 5, 6, 7].all roundComputes = true ∧ ((labGroup 1).group? 9).isSome = true ∧
      done.joinAll.barrierWaits (labRound 1 (some [0, 0, 0, 0])) (done.joinAll.group? 9) = false ∧
      (match (done.joinAll.readGroup 9).1.completeMembers (labRound 1 (some [0, 0, 0, 0])) (labRound 1 (some [0, 0, 0, 0])).members with
        | .ok u => decide (u.stall = [])
        | _ => false) = true ∧
      ((inRound 1 none).group? 9).any (fun g => decide (g.timeout = 1)) = true ∧ (labRound 1 none).openedAt + 850 * 1 ≤ (inRound 1 none).clock.toNat ∧
      (let early : State := { inRound 1 none with clock := 849 }
       (early.group? 9).any (fun g => decide (early.clock.toNat < (labRound 1 none).openedAt + 850 * g.timeout) &&
         (g.ranks (isBound 1)).all fun m => decide (m.2.1 = early.regs.pkgid)) = true) ∧
      32760 % 8 = 0 ∧ 32760 < 32768 := by decide +kernel

def labRemote (local_ : Bool) : RemoteOp :=
  { num := 3, via := if local_ then none else some 0, slot := 0, task := 1, core := 0, launches := [], pa := 0x30000, data := [1, 0, 0, 0], local_ := local_,
    signal := none, persist := none, resent := false, sent := false, after := [], performed := false }

/-- The same to the window of peer entry 2. -/
def labAway : RemoteOp := { labRemote false with pa := 0x2004000000000 }

/-- A package that has posted a remote operation; and one that exports 64 bytes at 0x30000 to package 5, and to the mailbox of port 0. -/
def posted (r : RemoteOp) : State := { lab [] with remoteOps := [r] }

def fencedLab (entry : DWord) : State := { posted labAway with peerTable := [(2, entry)] }

def openLab : State :=
  { lab [] with
    peerTable := [(2, BitVec.ofNat 64 (2 ^ 63 + 2 ^ 60 + 5 * 2 ^ 48 + 1))]
    regs := { (lab []).regs with expbase := 0x30000, expsize := 64, mbwin := 0x30000 }
    access := (lab []).access.mapIdx fun k x => if k = 8 * 19 ∨ k = 8 * 16 then { base := 0, limit := 0x8000000000, rd := true, wr := true } else x }

theorem witness_FabricEvents :
    let gone (r : RemoteOp) := { r with performed := true }
    (posted (labRemote true)).remoteReady (labRemote true) = true ∧ ((posted (labRemote true)).writeFlag (labRemote true)).stall = [] ∧
      (posted (labRemote false)).remoteReady (labRemote false) = true ∧ (labRemote false).local_ = false ∧
      (gone (labRemote false)) ∈ (posted (gone (labRemote false))).remoteOps ∧
      (posted (labRemote true)).turnedAway (labRemote true) = false ∧ (fencedLab 0xB007000000000001).remoteReady labAway = true ∧
      (fencedLab 0xB007000000000001).turnedAway labAway = true ∧ (fencedLab 0xB007000000000001).sendable labAway = true ∧
      (fencedLab 0x9007000000000001).turnedAway labAway = false ∧
      ((openLab).port 23).up = true ∧ openLab.mailboxOk 2 0 1 true = false ∧ openLab.mailboxOk 0 (2 ^ 28 - 8) 8 true = true ∧
      openLab.mailboxOk 0 0 8 false = true ∧ openLab.mailboxBusy 0 = false ∧ inRemote 0x30000 = false ∧ inOnchip 0x30000 = false ∧
      (openLab.storeAt 0x30000 (leBytes 8 1)).stall = [] ∧ ((openLab.readPoint 0x30000 8).1.rangeRead 0x30000 8).stall = [] ∧
      ({ openLab with remoteOps := [{ labRemote false with task := 0, slot := 0 }] } : State).mailboxBusy 0 = true ∧
      32760 % 8 = 0 ∧ 16 ≤ 32760 ∧ 32760 < 32768 := by decide +kernel

theorem witness_FabricEvents_inbound :
    let n := 8
    let pa := 0x30038
    let read := (openLab.readPoint pa n).1.rangeRead pa n
    peerHolds n .read = true ∧ peerHolds n (.write (leBytes 8 1)) = true ∧ peerHolds n (.atomic .add (leBytes 8 1)) = true ∧
      peerHolds n (.cas (leBytes 8 0) (leBytes 8 1)) = true ∧ peerHolds n (.write []) = false ∧
      (lab []).admits 5 = false ∧ openLab.regs.expsize < 57 + 8 ∧ openLab.admits 5 = true ∧ 0x38 + n ≤ openLab.regs.expsize ∧
      openLab.exists_ pa n = true ∧ openLab.accessOk 19 pa n true = true ∧ openLab.accessOk 19 pa n false = true ∧ openLab.marked pa n = false ∧
      (openLab.storeAt pa (leBytes 8 1)).stall = [] ∧ read.stall = [] ∧ (read.storeAt pa (leBytes 8 1)).stall = [] ∧
      (openLab.readPoint pa n).2 = List.replicate 8 0 := by decide +kernel

def labPersist (n : Nat) : WbqGroup := { num := n, slot := 0, task := 1, launches := [], epoch := n, die := 0, bytes := [(0x1000000000000 + n, 1)], marks := [] }

theorem witness_PersistenceEvents :
    let s : State := { lab [] with persists := [labPersist 0] }
    let q := labDie fun d => { d with wbq := [labPersist 0] }
    s.fits (labPersist 0) = true ∧ s.signalBefore (labPersist 0) = false ∧ (∀ h ∈ s.persists.take 0, s.holdsBack h (labPersist 0) = false) ∧
      ({ (s.enter (labPersist 0)) with persists := [] } : State).stall = [] ∧ (q.die 0).wbq = [labPersist 0] ∧ inHbm 0x7FFFFFFFFF = true ∧
      inScm 0x1000000000000 = true ∧ (lab []).powered = true ∧ (lab []).holdUp = false ∧
      (∀ e ∈ ({ lab [] with holdUp := true } : State).dies, e.2.wbq = []) := by decide +kernel

/-- Context 0 with a queue whose doorbell has rung: descriptor at 0x50000 with HEAD and TAIL. -/
def labQueue (head tail : Nat) : State :=
  let s := lab []
  let cs := cellsAt 0x60000 (leBytes 8 0x50000) ++ cellsAt 0x50000 (leBytes 8 0x51000 ++ leBytes 4 2 ++ leBytes 4 tail ++ leBytes 4 head ++ leBytes 4 0 ++ leBytes 8 0x52000 ++ leBytes 32 0)
  { s with
    queues := [(0, { rung := true, override := none, last := none })]
    contexts := s.contexts.map fun e => (e.1, { e.2 with qenable := 1, qtable := 0x60000 })
    regs := { s.regs with featAccept := 1 }
    mem := cs.foldl (fun m c => Sparse.set m c.1 c.2) s.mem }

/-- The queue reads as a descriptor, and what the acceptance leaves has no stall. -/
def accepts (head tail : Nat) : Bool :=
  let s := labQueue head tail
  match s.queueDesc 0 0 with
  | (t, some d) =>
    decide (d.head = head ∧ d.tail = tail ∧ (d.head + 2 ^ 32 - d.retired) % 2 ^ 32 < d.subCount) && (match t.physRead 0 (d.subBase + 8 * (d.head % d.subCount)) 8 with
      | (u, some b) => ((u.acceptEntry 0 0 d (leNat b)).settleScan.reschedule).stall.isEmpty
      | _ => false)
  | _ => false

/-- A context with no wave and one work item that waits for a slot; and the one wave's context while it is preempted. -/
def labSaving (deadline : Nat) : State :=
  let s := lab []
  { s with
    contexts := s.contexts.map fun e =>
      (e.1, { e.2 with state := 2, preempting := true, deadline := deadline, saveBase := 0x1000000000000, saveSize := 0x100000 }) }

theorem witness_SchedulerEvents_accept :
    (labQueue 0 1).regs.featAccept ≠ 0 ∧ ((labQueue 0 1).context 0).qenable.getLsbD 0 = true ∧ accepts 0 1 = true ∧ accepts 1 1 = true ∧
      ((lab []).queue 0 63).rung = false := by decide +kernel

/-- A launch of one team on context 0. -/
def labLaunch (phase : LaunchPhase) : Launch :=
  { ctx := 0, id := 1, queue := 0, entry := 0, cplBase := 0x52000, subCount := 2, hdr := loadedHeader, gx := 1, gy := 1, gz := 1, prio := 0, args := 0, budget := 0,
    collid := 0, collop := 0, collhead := 0, collfmt := 0, resLayout := 0, chunkMap := 0, boundNo := 0, phase := phase, deps := [], nextTeam := 0,
    readyAt := 0, aged := false, overBudget := false, aborted := false, cfault := false, ccause := 0, aborts := 0, cfloat := 0, energy := 0, code := 0,
    wbarGroup := none }

theorem witness_SchedulerEvents_place :
    let ready : State := { labQueue 1 1 with launches := [(4, labLaunch .ready)] }
    let at_ (c : Cand) := findPlace c.hdr (ready.mayUse c) (ready.plannedRooms 191)
    let chosen := firstCand (fun c => match at_ c with
          | some x => ready.affinity [] x.1 c
          | none => 0)
        (ready.undistributed.filter fun c => if (ready.savedOf? c.key).isSome then ready.savedFits 191 c
          else withinBudget (ready.undistributed ++ ready.localCands) c && (at_ c).isSome && ready.together 191 c)
    let sent := chosen.map fun c => (c, ready.sendTo 191 c)
    (ready.localQueue 191).length < 8 ∧ chosen.isSome = true ∧
      sent.any (fun x => (firstCand (x.2.affinity [] 767)
          ((x.2.startable (clusOf 767)).filter fun c => (findPlace c.hdr (x.2.mayPlace c 767) (x.2.rooms (clusOf 767))).isSome)).any
        fun c => (x.2.items.get? c.key).isSome && (findPlace c.hdr (x.2.mayPlace c 767) (x.2.rooms (clusOf 767))).isSome) = true := by decide +kernel

theorem witness_SchedulerEvents_complete :
    let s : State := { labQueue 1 1 with launches := [(4, { labLaunch .draining with nextTeam := 1 })], waves := [], teams := [] }
    (s.launchNamed 0 1).isSome = true ∧ ((s.settleLaunch 4).launches.get? 4).any (fun m => decide (m.phase = .draining) &&
      ((s.endLaunch 4 m m.code).settleScan.reschedule).stall.isEmpty) = true ∧ s.counting 4 = false ∧ s.launchBusy 4 = false := by decide +kernel

theorem witness_SchedulerEvents_save :
    let s := labSaving 0
    let parked : State := { s with waves := s.waves.map fun e => (e.1, { e.2 with table := e.2.table.map fun x => { x with park := some (.barwait 0 0 0) } }) }
    (s.context 0).state = 2 ∧ (parked.teams.get? 0).any (fun t =>
      let s1 := parked.setTeam 0 { t with saving := true }
      !t.discarding && !parked.isOwnerTeam 0 && parked.allParked t && s1.quiet 0 t && (s1.commitTeam t).stall.isEmpty &&
        ((s1.commitTeam t).teams.get? 0).any fun u => ((s1.commitTeam t).saveTeam 0 0 u).any fun v => v.stall.isEmpty) = true ∧
      (s.context 0).preemptAt + clocksOf (s.context 0).deadline ≤ s.clock.toNat ∧ (s.resetContext 0).stall = [] := by decide +kernel

theorem witness_ContextEvents :
    let desc := leBytes 8 1 ++ leBytes 8 0x10000 ++ leBytes 8 1 ++ leBytes 8 0x60000 ++ leBytes 96 0
    let off : State := { lab [] with contexts := [], regs := { (lab []).regs with ctxbase := 0x70000 }
                                     mem := (cellsAt 0x70000 desc).foldl (fun m c => Sparse.set m c.1 c.2) (lab []).mem }
    let bad : State := { off with access := [] }
    let empty : State := { lab [] with waves := [], teams := [], contexts := [(15, { Context.off with state := 3 })] }
    (match off.physRead 0 0x70000 128 with
      | (_, some b) => (off.parseContext (off.context 0) 0x70000 b).isSome
      | _ => false) = true ∧ (off.context 0).state = 0 ∧ (0x70000 + 128 * 0) % 128 = 0 ∧ inHbm 0x70000 = true ∧ (bad.physRead 0 0x70000 128).2 = none ∧
      (empty.context 15).state = 3 ∧ ((empty.setContext 15 { empty.context 15 with state := 1 }).settleScan.reschedule).stall = [] ∧
      (empty.resetContext 15).stall = [] ∧ (labQueue 0 1).regs.featAccept ≠ 0 ∧ State.reset.regs.featAccept = 0 ∧ (1023 : BitVec 32).toNat < 1024 ∧ 1024 ≤ (1024 : BitVec 32).toNat ∧
      (BitVec.ofNat 32 (255 * 2 ^ 16 + 15 * 2 ^ 10 + 63 * 16)).toNat = 255 * 2 ^ 16 + 15 * 2 ^ 10 + 63 * 16 ∧ (lab []).items = [] ∧
      ((lab []).postInval .all).invals ≠ [] := by decide +kernel

theorem witness_PlatformEvents :
    let s : State := { State.reset with regs := { State.reset.regs with featAccept := 0x41 } }
    let park (k : Nat) : State := s.modDie 3 fun d => { d with park := k, powerDown := true }
    s.regs.featAccept.getLsbD 6 = true ∧ s.lastRunning 3 = false ∧ s.scanning = none ∧ State.reset.regs.featAccept.getLsbD 6 = false ∧
      ((park 1).die 3).powerDown = true ∧ (park 1).dieBusy 3 = false ∧ ((park 2).die 3).park = 2 ∧ ((park 3).die 3).park = 3 ∧
      500 ≤ (500 : BitVec 32).toNat % 4096 ∧ (2200 : BitVec 32).toNat % 4096 ≤ 2200 ∧ 2200 < (2201 : BitVec 32).toNat % 4096 ∧
      (1 : BitVec 64).toNat % 8 ≠ 0 ∧ (255 : BitVec 64).toNat < 256 ∧ State.reset.regs.featAccept = 0 ∧ s.regs.featAccept ≠ 0 ∧
      (State.reset.die 3).polEnable = false ∧ (0x3C8C80 : BitVec 32).toNat % 256 < (0x3C8C80 : BitVec 32).toNat / 2 ^ 8 % 256 ∧
      (0xFFFEFD : BitVec 32).toNat / 2 ^ 8 % 256 < (0xFFFEFD : BitVec 32).toNat / 2 ^ 16 % 256 ∧ 92 % 4 = 0 ∧ 92 + 4 ≤ 96 ∧ 96 < 96 + 4 ∧
      0x1FF8 < 0x2000 ∧ 0x1FF8 % 8 = 0 := by decide +kernel

def labSnap (f : Snap → Snap) : State := { lab [] with snap := f (lab []).snap }

theorem witness_ScanSnapshotAndRecoveryEvents :
    let x (phase : ScanPhase) : Scan :=
      { ctx := 0, descVa := 0x10000, phase := phase, die := 0, clus := 0, mask := 1, matrix := false, abortPrio := 0, pattern := 0, drainMax := 1,
        status := 0x10020, tstart := 0, abort := false }
    let scan (phase : ScanPhase) (cycles : Nat) : State := { labAt cycles with scanning := some (x phase), cmapOff := [0] }
    (x .drain).cores.all (fun c => (scan .drain 0).cmapOff.contains c || !(scan .drain 0).teamOn c) = true ∧
      ((scan .run 0).endScan (x .run) 1 0).stall = [] ∧ (x .drain).tstart + clocksOf (x .drain).drainMax ≤ (scan .drain (clocksOf 1)).clock.toNat ∧
      ((scan .drain (clocksOf 1)).endScan (x .drain) 5 0).stall = [] ∧ ((lab []).snapWrite 1).stall = [] ∧
      (labSnap fun p => { p with state := 1 }).snap.cut = false ∧ (labSnap fun p => { p with state := 1, cut := true, uncaptured := [3] }).stagingFull = false ∧
      (labSnap fun p => { p with state := 2 }).stripeLost = false := by decide +kernel

theorem witness_ResultsLand : 7 ≤ 7 ∧ 7 < 8 ∧ (63 ∈ [63] ∧ 63 < 64) ∧ (labWave []).pend = [] ∧ ¬(2 = 2 ∧ 0 ∈ [63]) := by decide +kernel

/-- A store whose 16,384 elements all fall in one page, of a task that has ended: every write is permitted and none is held. -/
def endedReq : Req := { labReq (.mstore { labStore with stride := 0 }) true with task := 99 }

def endedLab : State := labClus [] fun k =>
  { k with resv := [endedReq], tiles := [(0, Tile.claimed 0)], tlb := [{ ctx := 0, level := 4, page := 1, entry := codeLeaf 0x30000 }] }

theorem endedLab_pages (j : Fin 128) : (endedLab.translate 0 0 (some 0) (0x10000 + 4 * j.1)).1 = endedLab ∧
    (endedLab.translate 0 0 (some 0) (0x10000 + 4 * j.1)).2 = .ok (0x30000 + 4 * j.1) (codeLeaf 0x30000) ∧
    endedLab.accessOk 0 (0x30000 + 4 * j.1) 4 true = true ∧ inOnchip (0x30000 + 4 * j.1) = false ∧ inRemote (0x30000 + 4 * j.1) = false := by
  have hx : ∀ j : Fin 128, (endedLab.translate 0 0 (some 0) (0x10000 + 4 * j.1)).2 = .ok (0x30000 + 4 * j.1) (codeLeaf 0x30000) := by decide +kernel
  have ht : (endedLab.cluster 0).tlb = [{ ctx := 0, level := 4, page := 1, entry := codeLeaf 0x30000 }] := rfl
  have ha : (endedLab.access.drop (8 * 0)).take 8 = { base := 0, limit := 0x8000000000, rd := true, wr := true } ::
    List.replicate 7 { base := 0, limit := 0, rd := false, wr := false } := by decide +kernel
  refine ⟨?_, hx j, ?_, ?_, ?_⟩
  · have hp : (0x10000 + 4 * j.1) / 2 ^ levelShift 4 = 1 := by rw [show levelShift 4 = 16 from rfl]; omega
    have hm : pteMside (codeLeaf 0x30000) = false := by decide
    have hl : endedLab.lookup 0 0 (some 0) (0x10000 + 4 * j.1) = (endedLab, (endedLab.lookup 0 0 (some 0) (0x10000 + 4 * j.1)).2) := by
      unfold State.lookup
      simp only [ht, List.find?, show ¬ 2 ^ 52 ≤ 0x10000 + 4 * j.1 by omega, if_false, hp, and_self, decide_true]
    have h2 : (endedLab.lookup 0 0 (some 0) (0x10000 + 4 * j.1)).2 = .ok (0x30000 + 4 * j.1) (codeLeaf 0x30000) := hx j
    unfold State.translate
    rw [hl, h2]
    simp only [State.noteSide, hm, Bool.false_eq_true, if_false]
    rfl
  · simp only [State.accessOk, ha, List.any_cons, if_true, Bool.true_and]
    simp; omega
  · simp [inOnchip]; omega
  · simp [inRemote]; omega

theorem endedLab_stores (es : List (Nat × List Byte)) (h : ∀ e ∈ es, ∃ j : Fin 128, e.1 = 0x10000 + 4 * j.1 ∧ e.2.length = 4) :
    endedLab.storeAll 0 endedReq { labStore with stride := 0 } es = .ok endedLab := by
  induction es with
  | nil => rfl
  | cons e t ih =>
    obtain ⟨j, hj, hl⟩ := h e (by simp)
    obtain ⟨h1, h2, h3, h4, h5⟩ := endedLab_pages j
    have hm : e.1 % 2 ^ 64 = 0x10000 + 4 * j.1 := by omega
    have hold : ∀ pa bs, endedLab.holdFor 99 pa bs = endedLab := fun _ _ => rfl
    have one : endedLab.storeGlobal 0 endedReq (e.1 % 2 ^ 64) e.2 = .ok endedLab := by
      have hp : pteWr (codeLeaf 0x30000) = true := by decide
      have hd : dieOf 0 = 0 := rfl
      rw [hm]
      simp only [State.storeGlobal, show endedReq.ctx = 0 from rfl, show endedReq.task = 99 from rfl, hd, h1, h2, hl, h3, h4, h5, hp, hold]
      rfl
    rw [State.storeAll]
    simp only [labStore, Bool.false_eq_true, if_false] at one ⊢
    rw [one]
    exact ih fun e he => h e (by simp [he])

theorem witness_CopyAndMatrixEvents_mstore (tile : Sparse 32) : (endedLab.grantedReq 0 fun r => r.tilePort) = some endedReq ∧
    endedLab.storeAll 0 endedReq { labStore with stride := 0 } (({ labStore with stride := 0 } : StoreRec).writes 0 tile).1 = .ok endedLab ∧
    (endedLab.countStore 0 endedReq { labStore with stride := 0 } 0).stall = [] := by
  refine ⟨by decide +kernel, endedLab_stores _ ?_, rfl⟩
  simp only [StoreRec.writes, labStore, List.map_map, Bool.false_eq_true, if_false, List.append_nil, List.mem_map, List.mem_range, Function.comp]
  rintro e ⟨x, -, rfl⟩
  exact ⟨⟨x % 128, by omega⟩, by simp [StoreRec.at, dfmtBytes]; omega, by simp [dfmtBytes, leBytes]⟩

/-! ### Reads of BAR0 (spec/15 R374); the values are the reset columns of R329, R363, R365, R370 and R359 -/

theorem test_barRead_reset :
    [(0x1000, 4), (0x1004, 4), (0x4008, 4), (0x18, 8), (0x1100, 4), (0x1004, 8), (0x1006, 4), (0x10000, 8), (0xF000, 4)].map
      (fun x => State.reset.barRead x.1 x.2) = [2200, 0x700, 0x03F8E6CD, 0xFF, 0, 0, 0, 0xFFFFFFFFFFFFFFFF, 0] := by decide +kernel

/-- Master 18 has one window over every address at reset (spec/14 R360); BASE holds RD in bit 0 and WR in bit 1. -/
theorem test_barRead_access : [0x40900, 0x40908, 0x40910].map (State.reset.barRead · 8) = [3, 2 ^ 50, 0] := by decide +kernel

/-- P2 requested and in force: ALLOW 5, CUR 2 and REQ 2 (spec/15 R361, R363). -/
theorem test_barRead_pstate :
    ({ State.reset with regs := { Regfile.reset with cur := 2, req := 2 } } : State).barRead 0x1004 4 = 0x522 := by decide +kernel

/-! ### Witnesses: clauses of memory words that need a state of their own -/

/-- The program's page in SCM, readable, writable and persistent, where persistence is accepted; its context may reach every address. -/
def persistLab (ss : List Word) : State :=
  let s := lab ss
  { s with
    mem := (cellsAt 0x22008 (leBytes 8 (2 ^ 56 + 0x8F))).foldl (fun m c => Sparse.set m c.1 c.2) s.mem
    access := { base := 0, limit := 2 ^ 50, rd := true, wr := true } :: s.access.drop 1
    regs := { s.regs with featAccept := 9 } }

/-- With no lane in the bundle that a guard leaves active: m0 is clear. -/
def guarded (ss : List Word) : State := labHeld { Hints.empty with guard := some (false, 0) } ss

theorem witness_VectorStores_vpref :
    let w := labWave [0x10000, 0]
    let s := lab [0x10000, 0]
    issues (.vpref q0 0 1) s w = true ∧
      (foldState (fun s l => s.prefetch 0 w false (s.issue.globalVa 0 1 l)) s s.issue.activeLanes).stall = [] := by decide +kernel

theorem witness_VectorStores_vpwb :
    let w := labWave [0x10000, 0]
    let s := persistLab [0x10000, 0]
    let x := leaves s w 1 { rd := false, wr := true } none ((s.issue.activeLanes.map fun l => (l, s.issue.globalVa 0 1 l)).filter fun x => s.persistLane 0 w x.2)
    let c := x.1.commit 0
    issues (.vpwb q0 0 1) s w = true ∧ s.issue.activeLanes ≠ [] ∧ x.2.2 = true ∧ x.2.1.length = 16 ∧
      ((c.ordered 0).enterNow w 0 (c.lineBytes x.2.1)).stall = [] ∧ ((c.ordered 0).enterNow w 0 (c.lineBytes x.2.1)).dies.map (fun e => e.2.wbq.length) = [1] := by
  decide +kernel

theorem witness_EmptyBundles :
    let w := labWave [0x10000, 0]
    let s := guarded [0x10000, 0]
    s.issue.activeLanes = [] ∧ ([.vpwb q0 0 1, .vatom q0 .add 2 1 0, .vcas q0 2 1 0, .vatoms q0 .add 2 1 0, .vatomsCas q0 2 1 0, .bfadd q0 2 1 0,
      .vadd q0 2 1 (.v 0), .vredu q0 3 false .or 1, .vmatch q0 4 1] : List Instr).all (fun i => issues i s w) = true := by decide +kernel

theorem witness_ScalarMemoryWords_body :
    let w : Wave := { labWave [0x10000, 0] with ckey := 0x10000 }
    let s := labWith Hints.empty [0x10000, 0] fun w => { w with ckey := 0x10000 }
    let y := leaves (s.countWord w) w 4 { rd := false, wr := true } (some true) [(0, 0x103FC)]
    issues (.sst q0 63 0 false 255) s w = true ∧ w.inBody = true ∧ y.2.2 = true ∧ y.2.1.length = 1 ∧ y.1.stall = [] := by decide +kernel

theorem witness_SystemRegisters_pending :
    let f (w : Wave) : Wave := { w with pend := [{ ready := 4, write := .sca 1 7 }] }
    issues (.smfr q0 3 0x0C) (labWith Hints.empty [] f) (f (labWave [])) = true ∧ (f (labWave [])).pend ≠ [] ∧
      issues (.smto q0 3 0x0C) (labWith Hints.empty [] f) (f (labWave [])) = true ∧
      (let h := inHandler 0x512
       issues (.smto q0 2 0x0F) (labWith Hints.empty [0, 0, 5] h) (h (labWave [0, 0, 5])) = true ∧
         (h (labWave [0, 0, 5])).handler.isSome = true ∧ (h (labWave [0, 0, 5])).valueOk 0x0F 5 = true) := by decide +kernel

/-! ### Witnesses: commands that trap or wait -/

/-- An `oload` that waits in the copy engine. -/
def queuedCopy : CopyCmd :=
  { num := 3, team := 0, ctx := 0, task := 1, launches := [], kind := .oload 0, bar := none, layout := 0, coords := [], after := [], started := none,
    done := [], failed := [], fetched := [] }

theorem witness_CopyWordsPost_traps :
    let bar (b : Word) := (lab [2032, b, 0x10000, 0, 0, 0]).barOf 0 (labWave [2032, b, 0x10000, 0, 0, 0]) b
    let copies (n : Nat) : State := labClus [] fun k => { k with copies := List.replicate n queuedCopy }
    ([0xC0000010, 0x01000010, 0x80000011, 0x41000000, 0x40000001, 0x40800000, 0x50000000] : List Word).all (fun d =>
      issues (.cpy q0 0) (lab [d]) (labWave [d])) = true ∧
      2033 % 16 ≠ 0 ∧ bar 1 = .error (cMisaligned, 0) ∧ bar 0x7FFFF0 = .error (cPermission, 4) ∧
      ((lab [2048]).placeOf 0 (labWave [2048]) 2048).isNone = true ∧ issues (.cpy q0 0) (lab [2048]) (labWave [2048]) = true ∧
      (copies 64).copiesOf 0 0 = 64 ∧ issues (.cpy q0 0) (copies 64) (labWave []) = true ∧
      issues (.cpym q0 0 6) (lab [0x00800010, 0, 0, 0, 0, 0, 0]) (labWave [0x00800010, 0, 0, 0, 0, 0, 0]) = true ∧
      issues (.cpym q0 0 6) (lab [0x00800010, 0, 0, 0, 0, 0, 16]) (labWave [0x00800010, 0, 0, 0, 0, 0, 16]) = true ∧
      inWindow0 16 = false ∧ ((lab []).placeOf 0 (labWave []) 16).isSome = true ∧
      issues (.oload q0 0) (lab [63]) (labWave [63]) = true ∧ ((lab []).cluster 0).holdsSlot 0 63 = false := by decide +kernel

theorem witness_MatrixWordsPost_waits :
    let w := labWave [2016]
    let s := (labEngine labPass).modCluster 0 fun k => { k with resv := List.replicate 32 (labReq (.mzero 15) false) }
    let old := (labEngine labPass).modCluster 0 fun k => { k with resv := [{ labReq (.mzero 15) false with num := 0 }] }
    let faulty := (labEngine labPass).modCluster 0 fun k => { k with tiles := [(15, { Tile.claimed 0 with fault := cPoison })] }
    issues (.mma q0 0) s w = true ∧ (s.cluster 0).resv.length = 32 ∧
      issues (.mwait q0 15) old w = true ∧ (old.cluster 0).holdsTile 0 15 = true ∧
      ((old.cluster 0).resv.any fun r => decide (r.team = 0 ∧ r.num < old.mwaitFrom w) && r.tiles.contains 15) = true ∧
      issues (.mwait q0 15) faulty w = true ∧ (((faulty.cluster 0).tiles.get? 15).map (·.fault)).getD 0 = cPoison ∧ (faulty.cluster 0).resv = [] := by
  decide +kernel

/-- A store record to the scratchpad with a scale: tile 0 as E4M3 to offset 1024, STRIDE 128, the scale at 1020. -/
def labScaled : List Byte := [0, 3, 5, 0] ++ leBytes 4 128 ++ leBytes 8 1024 ++ leBytes 8 1020 ++ leBytes 4 0xFFFFFFFF ++ leBytes 4 0

theorem witness_MatrixWordsPost_scaled :
    let w := labWave [2016]
    let s := labEngine labScaled
    let f := fieldOf (s.spadBytes 0 2016 32)
    issues (.mstore q0 0) s w = true ∧ f 8 8 % 16 = 0 ∧ f 16 8 % 4 = 0 ∧ (s.spadPlace loadedTeam 0 (f 8 8 % 2 ^ 32)).isSome = true ∧
      (s.spadPlace loadedTeam 0 (f 16 8)).isSome = true ∧ storeRecOk (s.cluster s.hereClus) 0 (s.spadBytes 0 2016 32) = true := by decide +kernel

/-! ### Witnesses: tasks, rings and capsules that wait, adopt or refuse -/

/-- Task 2 in a forming brood wave of cluster 0, with a slot area of 64 pages for the context. -/
def withOwner (s : State) : State :=
  (s.setContext 0 { s.context 0 with cslotPages := 64 }).modCluster 0 fun k =>
    { k with brood := [{ ctx := 0, hdr := loadedHeader, depth := 1, seed := 0, prio := 0, task := 2, args := [0], launches := [], openedAt := 0 }] }

/-- The future of the page, with a state and an owner. -/
def futureOf (state owner : Nat) : State :=
  pageLab Hints.empty [0x10000, 0, 1] 0x1F (cellsAt 0x30000 (leBytes 4 state ++ leBytes 4 owner ++ leBytes 8 9))

theorem witness_TaskWords_futures :
    let w := labWave [0x10000, 0, 1]
    let at_ (s : State) (p : State → Nat → Future → Bool) : Bool :=
      issues (.fwait q0 62 0) s w && issues (.fset q0 0 2) s w && (s.objectBytes w 0x10000 32 false).any fun y =>
        !futureBad y.2.2 && p y.1 y.2.1 (readFuture y.2.2)
    let mine (u : State) (f : Future) : Bool := decide (f.owner = w.task) || (u.chainOf 0).contains f.owner
    at_ (futureOf 1 0) (fun u _ f => decide (f.state % 4 = 1) && (u.released w 4).isSome) = true ∧
      at_ (futureOf 0 0) (fun u pa f => decide (f.state % 4 = 0 ∧ f.state / 4 % 2 = 0) && (u.setWhead w pa f true).stall.isEmpty) = true ∧
      at_ (futureOf 4 1) (fun u _ f => decide (f.state % 4 = 0 ∧ f.state / 4 % 2 = 1) && mine u f) = true ∧
      at_ (futureOf 4 2) (fun u _ f => !mine u f && !u.live f.owner) = true ∧
      at_ ((withOwner (futureOf 4 2)).setContext 0 { (withOwner (futureOf 4 2)).context 0 with cslotPages := 0 }) (fun u pa f =>
        !mine u f && u.live f.owner && (u.adoptable? 0 w f.owner).isNone && (u.setWhead w pa f true).stall.isEmpty) = true ∧
      at_ (withOwner (futureOf 4 2)) (fun u pa f => !mine u f && u.live f.owner && (u.adoptable? 0 w f.owner).any fun o =>
        ((u.setWhead w pa f false).adopt w o (.object pa { instr := .fwait q0 62 0, held := Hints.empty, first := 0x10040, src := u.issue.src })).stall.isEmpty) =
        true := by decide +kernel

theorem witness_TaskWords_refused :
    let f (w : Wave) : Wave := { w with regs := { w.regs with v := Sparse.setList w.regs.v 256 (List.replicate 16 0x10101) } }
    let s := labWith Hints.empty [] f
    issues (.spawn q0 4) s (f (labWave [])) = true ∧
      (s.spawnLanes 0 (f (labWave [])) [(0, (pairOf (s.issue.src.lane 4 0) (s.issue.src.lane 5 0)).toNat)]).2.1.map (fun r => (r.lane, r.cause)) =
        [(0, cMisaligned)] := by decide +kernel

/-- That ring with another STAT and nothing to lend, as the checks see it. -/
def ringFull (stat : Nat) (w0 w1 : Nat) : State :=
  labSpad [0, 40] 0 (leBytes 2 2 ++ leBytes 2 16 ++ leBytes 4 32 ++ leBytes 4 64 ++ leBytes 2 0 ++ leBytes 2 0 ++ leBytes 4 2 ++ leBytes 4 2 ++
    leBytes 2 0 ++ leBytes 2 0 ++ leBytes 2 2 ++ leBytes 2 stat ++ leBytes 8 w0 ++ leBytes 8 0 ++ leBytes 8 w1) id

def ringThere (s : State) : RingAt := { ringAt s with next := none }

theorem ringFull_ready : (ringFull 6 0x10000 0x10000).ringReady (labWave [0, 40]) 0 (ringThere (ringFull 6 0x10000 0x10000)) := by
  refine ⟨loadedTeam, ?_, ?_, rfl, ?_, ?_, ?_, ?_, ?_⟩ <;> decide +kernel

theorem witness_RingWords_waits :
    let w := labWave [0, 40]
    let r (s : State) := (ringThere s).ring
    let full := ringFull 6 0x10000 0x10000
    let lend := ringLab 0 0x10000 0x10000
    let done (stat : Nat) := ringFull stat 0 0
    issues (.qres q0 61 0) full w = true ∧ (r full).faulted = false ∧ (r full).closed = false ∧
      ((ringThere full).slots.find? fun y => decide (full.slotState y = 0)) = none ∧ (ringThere full).next = none ∧ full.adoptable? 0 w 2 = none ∧
      ((withOwner full).adoptable? 0 w 2).isSome = true ∧ issues (.qres q0 61 0) (withOwner full) w = true ∧
      ((ringAt lend).slots.find? fun y => decide (lend.slotState y = 0)) = none ∧ (ringAt lend).next.isSome = true ∧ issues (.qres q0 61 0) lend w = true ∧
      ([6, 1, 8].all fun k => issues (.qtake q0 61 0) (done k) w &&
        ((ringThere (done k)).slots.find? fun y => decide ((done k).slotState y = 2 ∧ (done k).slotSeq y = (r (done k)).takeseq)) == none) = true ∧
      (r (done 8)).faulted = true ∧ (r (done 1)).closed = true ∧ (r (done 1)).takeseq = (r (done 1)).resseq ∧ (r (done 1)).faulted = false ∧
      (r (done 6)).closed = false ∧ (done 6).adoptable? 0 w 2 = none ∧ ((withOwner (done 6)).adoptable? 0 w 2).isSome = true := by decide +kernel

/-- A capsule with a lease end, before a wave that runs none, or that holds another. -/
def capsuleAt (holder step flags : Nat) (deadline : Nat) : State :=
  pageLab Hints.empty [0x10000, 0, BitVec.ofNat 32 step] 0x4F
    (cellsAt 0x30000 (leBytes 4 holder ++ leBytes 2 step ++ leBytes 2 flags ++ leBytes 8 deadline ++ leBytes 8 0x10040))

theorem witness_CapsuleWords_enters :
    let w := capsuleWave 3 0
    let at_ (s : State) (p : State → Capsule → Bool) : Bool := issues (.center q0 61 0) s w && (s.objectBytes w 0x10000 256 true).any fun x =>
      !capsuleBad x.2.2 && decide ((x.1.commit 0).stall = []) && p x.1 (readCapsule x.2.2)
    let other (s : State) : State := { s with waves := s.waves ++ [(1, { labWave [] with task := 2 })] }
    let leased (u : State) (c : Capsule) : Bool := c.held && u.resident c.holder && decide (u.clock.toNat < c.deadline)
    at_ (capsuleAt 0 3 0 0) (fun _ c => !c.done && !c.faulted && !c.held) = true ∧
      at_ (other (capsuleAt 2 3 1 100)) (fun u c => !c.done && !c.faulted && leased u c) = true ∧
      at_ (other (capsuleAt 2 3 1 0)) (fun u c => !c.done && !c.faulted && c.held && u.resident c.holder && !leased u c) = true ∧
      at_ (capsuleAt 2 3 1 100) (fun u c => !c.done && !c.faulted && c.held && !u.resident c.holder && !leased u c) = true ∧
      at_ (capsuleAt 0 3 2 0) (fun _ c => c.done) = true ∧ at_ (capsuleAt 2 3 4 0) (fun _ c => !c.done && c.faulted) = true ∧
      (lanesOf (laneMask 16)).all (fun l => decide ((w.rstack.getD l []).length < 16)) = true := by decide +kernel

theorem witness_CapsuleWords_refused :
    let read (s : State) (w : Wave) := s.objectBytes w 0x10000 256 true
    let at_ (j : Instr) (s : State) (w : Wave) (p : Capsule → Bool) : Bool := issues j s w && (read (s.countWord w) w).any fun x =>
      !capsuleBad x.2.2 && p (readCapsule x.2.2)
    let w15 := capsuleWave 15 0x10000
    at_ (.cstep q0 0 2) (capsuleLab 1 15 1 0x10000) w15 (fun c => c.mine w15 15) = true ∧
      at_ (.cexit q0 0 0) (capsuleLab 2 15 1 0x10000) w15 (fun c => !c.mine w15 c.step) = true ∧
      bodyRefuses (.center q0 61 0) (capsuleLab 1 15 1 0x10000) w15 = true ∧
      ([.publ q0, .ppt q0, .yield q0, .pfence q0] : List Instr).all (fun j => bodyRefuses j (capsuleLab 1 15 1 0x10000) w15) = true ∧
      (let f (w : Wave) : Wave := { w with ckey := 0x10000, stepWords := 32 }
       bodyRefuses (.nop q0) (labWith Hints.empty [] f) (f (labWave [])) = true) ∧
      at_ (.cres q0 62 0) (capsuleLab 2 0 4 0) (capsuleWave 0 0) (fun c => !c.done && c.faulted) = true ∧
      at_ (.cres q0 62 0) (capsuleLab 2 0 1 0) (capsuleWave 0 0) (fun c => !c.done && !c.faulted) = true := by decide +kernel

/-! ### Witnesses: portions of every kind of command -/

/-- Cluster 0 with that command in hand, as a function changes it. -/
def labPortion (kind : CopyKind) (f : CopyCmd → CopyCmd) : State :=
  labClus [] fun k => { k with copies := [f (labCopy kind (some labWindow))], slots := [(63, (claimOf 0 labClaim).slot)] }

/-- A state and a command for which the first portion is about to land, and what its image reads as. -/
def imageOfPortion (s : State) (c : CopyCmd) (p : Nat) : State × Except Nat (List (Nat × Byte)) :=
  match (c.dests 0).find? (fun d => decide (d.num = 0)) with
  | some d => s.readImage 0 c none ((c.offsets labWindow d p).map fun o => (o, labWindow.piece o))
  | none => (s, .error 0)

def portionReady (kind : CopyKind) (lands : State → CopyCmd → Dest → State × Except Nat (List (Nat × Byte)) → Bool) : Bool :=
  let s := labPortion kind id
  let c := labCopy kind (some labWindow)
  decide (s.headCopy 0 0 = some c) && ((c.dests 0).find? fun d => decide (d.num = 0)).any fun d =>
    decide (0 < c.portions labWindow d) && !c.done.contains (portionKey d 0) && !c.failed.contains d.num && lands s c d (imageOfPortion s c 0)

def settled_ (s : State) : Bool := s.stall.isEmpty

theorem witness_CopyAndMatrixEvents_portions :
    let w := labWindow
    let bytes (r : State × Except Nat (List (Nat × Byte))) (f : State → List (Nat × Byte) → State) : Bool := match r.2 with
      | .ok b => settled_ (f r.1 b)
      | _ => false
    portionReady (.toRegs 0 0) (fun _ c d r => bytes r fun t b => (t.landRegisters 0 c w d 0 0 0 b).copyWork 0 c) = true ∧
      portionReady (.toTensor 0 0 2048) (fun s c d _ => settled_ ((s.landTensor 0 c w d 0).copyWork 0 c)) = true ∧
      portionReady (.oload 63) (fun s c d _ => settled_ ((s.landRow 0 c w d 63 0).copyWork 0 c)) = true ∧
      portionReady (.multi 0 1) (fun _ c d r => (c.fetched.get? 0).isNone &&
        bytes r fun t b => (t.landLine 0 { c with fetched := c.fetched.put 0 b } w d 0 b).copyWork 0 c) = true ∧
      (let f (c : CopyCmd) : CopyCmd := { c with fetched := [(0, [])] }
       let s := labPortion (.multi 0 1) f
       s.headCopy 0 0 = some (f (labCopy (.multi 0 1) (some w))) ∧
         ((f (labCopy (.multi 0 1) (some w))).dests 0).any (fun d => settled_ ((s.landLine 0 (f (labCopy (.multi 0 1) (some w))) w d 0 []).copyWork 0 (labCopy (.multi 0 1) (some w)))) = true) := by
  decide +kernel

/-- A window where no page is mapped. -/
def farWindow : Window := { labWindow with base := 0x40000000 }

theorem witness_CopyAndMatrixEvents_faults :
    let c := labCopy (.toSpad 0 0 2048) (some farWindow)
    let s := labClus [] fun k => { k with copies := [c] }
    let r := (c.dests 0).head?.map fun d => s.readImage 0 c none ((c.offsets farWindow d 0).map fun o => (o, farWindow.piece o))
    let done := labPortion (.toSpad 0 0 2048) fun c => { c with done := [portionKey { num := 0, core := 0, off := 0, limit := 2048 } 0] }
    s.headCopy 0 0 = some c ∧ r.any (fun x => match x.2 with
      | .error e => settled_ ((x.1.failCopy 0 c (some farWindow) e).copyWork 0 c)
      | .ok _ => false) = true ∧
      (done.headCopy 0 0).any (fun c => c.started.isSome && c.done.contains (portionKey { num := 0, core := 0, off := 0, limit := 2048 } 0)) = true ∧
      ((labClus [] fun k => { k with fills := [{ slot := 0, task := 1 }, { slot := 0, task := 1 }] }).cluster 0).fills.erase { slot := 0, task := 1 } =
        [{ slot := 0, task := 1 }] ∧
      ([] : List ClaimFill) = [({ slot := 0, task := 1 } : ClaimFill)].erase { slot := 0, task := 1 } := by decide +kernel

theorem witness_CopyAndMatrixEvents_mstore_fault :
    let x : StoreRec := { labStore with dst := 0x40000000 }
    let r := labReq (.mstore x) true
    let s := labClus [] fun k => { k with resv := [r], tiles := [(0, Tile.claimed 0)] }
    (s.grantedReq 0 fun r => r.tilePort) = some r ∧
      (match s.storeAll 0 r x (x.writes 0 []).1 with
        | .fault t e => decide (e = cTranslation) && settled_ ((t.faultTile 0 0 e).countStore 0 r x e)
        | _ => false) = true := by decide +kernel

/-! ### Witnesses: timeouts, spills and the scheduler -/

/-- A launch of two teams of which the first waits at a grid-wide barrier, while every die parks. -/
def spillLab (area : Nat) : State :=
  let s := labWith Hints.empty [] fun w => { w with launches := [4], table := w.table.map fun e => { e with park := some .wbar } }
  { s with
    teams := [(0, { loadedTeam with launch := some 4, wbarScope := some .grid, arrived := [0], liveSets := [(0, 0)] })]
    launches := [(4, { labLaunch .running with gx := 2, nextTeam := 1 })]
    contexts := s.contexts.map fun e => (e.1, { e.2 with phaseBase := 0x100000, phaseSize := area })
    dies := (List.range 4).map fun d => (d, { Die.idle with park := 2 }) }

theorem witness_TimeoutEvents_spill :
    let s := spillLab 0x10000
    let l := { labLaunch .running with gx := 2, nextTeam := 1 }
    let full := { l with nextTeam := 2 }
    s.launchNamed 0 1 = some (4, l) ∧ s.memberMissing 4 l = true ∧ s.stuck 4 l = true ∧ (s.spillable 4).map (·.1) = [0] ∧
      (s.spillable 4).all (fun e => s.phaseFits 0 (phaseBytes e.2 ((s.teamWaves e.2).map (·.2)))) = true ∧
      ({ s with launches := [(4, full)] } : State).memberMissing 4 full = false := by decide +kernel

theorem witness_TimeoutEvents_launch :
    let l := labLaunch .ready
    let at_ (cycles : Nat) : State := { labAt cycles with launches := [(5, l)] }
    (at_ 0).items.get? 5 = none ∧ (at_ 0).launches.get? 5 = some l ∧ ((at_ 0).launchCand 5 l).isSome = true ∧
      l.readyAt + clocksOf 1000 ≤ (at_ (clocksOf 1000)).clock.toNat ∧ (at_ 0).clock.toNat < l.readyAt + clocksOf 1000 ∧ (0 < 12288) := by decide +kernel

theorem witness_SchedulerEvents_saves :
    let s := labSaving 0
    let f (restart : Bool) : State := { s with waves := s.waves.map fun e =>
      (e.1, { e.2 with restart := restart, table := e.2.table.map fun x => { x with park := some (.barwait 0 0 0) } }) }
    ((f false).teams.get? 0).any (fun t => (f false).allParked t && !(f false).discards 0 t) = true ∧
      ((f true).teams.get? 0).any (fun t =>
        let s1 := (f true).setTeam 0 { t with discarding := true }
        !t.saving && decide ((f true).chainTeams 0 t = []) && (f true).discardable t && s1.quiet 0 t &&
          (({ s1 with versions := (s1.teamWaves t).foldl (fun v e => v.del e.2.task) s1.versions } : State).saveTeam 0 1
            { t with discarding := false }).any fun v => v.stall.isEmpty) = true ∧
      (let bad := (lab []).setContext 0 { (lab []).context 0 with slotBad := true }
       (bad.context 0).slotBad = true ∧ ((bad.setContext 0 { bad.context 0 with slotBad := false }).resetContext 0).stall = []) := by decide +kernel

/-- An image of the program's team, of part 0, whose header stands at 0x80000. -/
def imageLab (good : Bool) : State :=
  let s := lab []
  let m : Image :=
    { key := 0, kind := 0, ctx := 0, part := 0, dx := 0, dy := 0, coreNo := 0, team := { loadedTeam with slots := [] }, waves := [labWave []], oldSlots := [0],
      seats := [0], spad := [{ data := [], absent := [], poison := [], typed := [] }], tiles := [], slots := [], address := 0x80000, size := 64, saved := [] }
  let t : State := { s with waves := [], teams := [], images := [(9, m)] }
  if good then { t with mem := (cellsAt 0x80000 (t.imageHeader m 0 0)).foldl (fun m c => Sparse.set m c.1 c.2) t.mem } else t

theorem witness_SchedulerEvents_restore :
    let parts (s : State) := s.partOf 0 0
    ((imageLab true).context 0).state = 1 ∧ parts (imageLab true) ≠ [] ∧ ((parts (imageLab true)).any fun e => !(imageLab true).imageOk e.2) = false ∧
      ((imageLab true).restorePart 0 0 3 7 5).any (fun t => t.stall.isEmpty && t.waves.length == 1) = true ∧
      (imageLab true).restorePart 0 0 4 0 0 = none ∧ (imageLab true).partMay 0 0 = true ∧ (imageLab true).partBehind 0 0 3 7 5 = false ∧
      ((parts (imageLab false)).any fun e => !(imageLab false).imageOk e.2) = true ∧ (imageLab false).partMay 0 0 = true ∧
      (imageLab false).partBehind 0 0 3 7 5 = false ∧
      (((imageLab false).setError errImage 0).resetContext 0).stall = [] := by decide +kernel

theorem witness_SchedulerEvents_queue :
    let s := labQueue 1 1
    let u : State := { s with queues := [] }
    (u.queue 0 0).rung = false ∧ (s.queue 0 0).rung = true ∧ (s.queueDesc 0 0).2.any (fun d => decide (d.head = d.tail)) = true ∧
      ((s.queueDesc 0 0).1.setQueue 0 0 { s.queue 0 0 with rung := false }).stall = [] := by decide +kernel

/-! ### Witnesses: persistence, tiers and collectives -/

theorem witness_PersistenceEvents_drain :
    let g := labPersist 0
    let s := labDie fun d => { d with wbq := [g] }
    let closed : State := { s with access := s.access.map fun _ => { base := 0, limit := 0, rd := false, wr := false } }
    s.drainOk g = true ∧ closed.drainOk g = false ∧ (closed.die 0).wbq = [g] ∧ (lab []).accessOk 20 0x30000 1 false = true ∧
      (lab []).accessOk 20 0x1000000000000 1 false = true ∧ inScm 0x1000000000000 = true ∧
      ({ lab [] with powered := false } : State).powered = false ∧ ({ lab [] with holdUp := true } : State).holdUp = true ∧ (2 : BitVec 64) ≠ 1 := by
  decide +kernel

theorem witness_TierEvents_level1 :
    let s : State := { labDie fun d => { d with poolFrames := 4, polEnable := true, thresh1 := 64, thresh2 := 128, thresh3 := 255 } with
      dir := [(0, { DirEntry.reset with state := 0, reuse := 128 })] }
    (firstVictim (s.victims 0)).any (fun v => decide (128 ≤ v.2.reuse) && (s.startMove v.1 .offload).stall.isEmpty) = true ∧
      (s.die 0).level ((s.dirHere 0).filter fun e => decide (e.2.state = 0)).length = 1 ∧ (s.die 0).poolFrames ≠ 0 ∧ (s.die 0).polDisabling = false := by
  decide +kernel

/-- The contributions of a round in a state: what their gathering gives. -/
def gathered (s : State) (r : Round) (remote : List (Nat × List Byte)) (p : State → List Contribution → Bool) : Bool :=
  (s.joinAll.group? 9).any fun g => match (s.joinAll.readGroup 9).1.gather r (g.root (isBound 1)) remote (g.ranks (isBound 1)) with
    | (u, some (cs, _)) => p u cs
    | _ => false

/-- A group of this package and package 7, which the peer table lists at entry 2 with a state. -/
def pairGroup (state : Nat) : State :=
  let s := labGroup 0
  { s with
    groupTable := Sparse.setList [] 0 (leBytes 4 9 ++ leBytes 2 2 ++ leBytes 2 4 ++ leBytes 8 0 ++ leBytes 8 0x30000 ++ leBytes 4 0 ++ leBytes 4 0)
    mem := (cellsAt 0x30004 (leBytes 4 7)).foldl (fun m c => Sparse.set m c.1 c.2) s.mem
    peerTable := [(2, BitVec.ofNat 64 (2 ^ 63 + state * 2 ^ 61 + 7 * 2 ^ 48 + 1))]
    rounds := [labRound 1 none] }

theorem witness_CollectiveEvents_fails :
    let r := labRound 1 none
    let has (state : Nat) (r : Round) (remote : List (Nat × List Byte)) (p : List Contribution → Bool) (z : State → State) : Bool :=
      gathered (pairGroup state) r remote fun u cs => p cs && (z u).stall.isEmpty
    let far : Round := { r with members := r.members.map fun m => { m with src := 0x40000000 } }
    has 1 r [] (fun cs => cs.contains .lost) (fun u => (u.setRound { r with cause := codePeerLost }).peerFailure r.homeDie) = true ∧
      has 0 r [(1, [1])] (fun cs => !cs.contains .lost && cs.contains .mismatch) (fun u => u.setRound { r with cause := codeMismatch }) = true ∧
      has 0 r [(1, [])] (fun cs => !cs.contains .lost && !cs.contains .mismatch && cs.contains .faulted) id = true ∧
      has 0 far [(1, [0, 0, 0, 0])] (fun cs => !cs.contains .lost && !cs.contains .mismatch && cs.contains .faulted) id = true ∧
      has 0 r [] (fun cs => !cs.contains .lost && !cs.contains .mismatch && !cs.contains .faulted && cs.contains .missing) id = true ∧
      ((pairGroup 0).joinAll.rounds.find? fun x => decide (x.collid = 9 ∧ x.round = 1)) = some r := by decide +kernel

theorem witness_CollectiveEvents_ends :
    let done : State := { pairGroup 0 with rounds := [{ labRound 1 none with cause := codePeerLost }] }
    let r : Round := { labRound 1 none with cause := codePeerLost }
    done.joinAll.barrierWaits r (done.joinAll.group? 9) = false ∧
      (match (done.joinAll.readGroup 9).1.completeMembers r r.members with
        | .ok u => u.stall.isEmpty
        | _ => false) = true ∧
      (((pairGroup 0).group? 9).any fun g => (g.ranks (isBound 1)).any fun m => decide (m.2.1 ≠ (pairGroup 0).regs.pkgid)) = true := by decide +kernel

/-! ### Witnesses: invalidations, captures and recovery -/

theorem witness_ContextEvents_invalidation :
    let i : Inval := { kind := .page 0 0x10000, before := none }
    let s : State := { lab [] with invals := [(0, i)] }
    let t : State := { lab [] with invals := [(0, { i with before := some 9 })] }
    let w : State := { t with heldFrom := [(1, 1)], versions := [(1, [(0x30000, 7)])] }
    s.invals = [(0, i)] ∧ i.before = none ∧ t.begunBefore i.kind 9 = false ∧ w.begunBefore i.kind 9 = true := by decide +kernel

/-- A capture that has closed its cut, with a staging area of two tiles. -/
def captureLab (f : Snap → Snap) : State :=
  let s := labSnap fun p => f { p with state := 1, cut := true }
  { s with regs := { s.regs with stagebase := 0x200000, stagesize := 0x20000, slotbase := 0x100000, snapcfg := BitVec.ofNat 64 (2 * 2 ^ 26) }
           peerTable := [(2, BitVec.ofNat 64 (2 ^ 63 + 7 * 2 ^ 48 + 1))]
           mem := (cellsAt 0x100000 (leBytes 4 0x534E4150) ++ cellsAt 0x100038 (leBytes 8 1)).foldl (fun m c => Sparse.set m c.1 c.2) s.mem }

/-- The access table shut for every master. -/
def shut (s : State) : State := { s with access := s.access.map fun _ => { base := 0, limit := 0, rd := false, wr := false } }

theorem witness_ScanSnapshot_capture :
    let tiles := captureLab fun p => { p with uncaptured := [3] }
    let cow := captureLab fun p => { p with copying := [3] }
    let staged := captureLab fun p => { p with staged := [(3, 1)] }
    let cut := captureLab fun p => { p with cut := false }
    let early : State := { cut with contexts := [], regs := { cut.regs with shards := 4096, snapcfg := 2 ^ 18 * 6 } }
    early.snap.state = 1 ∧ early.snap.cut = false ∧ imageLength early.stepTiles.length ≤ early.regs.units * early.regs.shardSize ∧
      tiles.snap.uncaptured = [3] ∧ tiles.stagingFull = false ∧ tiles.tileOk 3 = true ∧ (shut tiles).tileOk 3 = false ∧
      cow.snap.freePlace cow.regs.stageRoom = some 0 ∧ cow.tileOk 3 = true ∧ cow.snapOk (cow.regs.stageAt 0) 65536 true = true ∧
      (shut cow).snapOk (cow.regs.stageAt 0) 65536 true = false ∧
      staged.snap.staged = [(3, 1)] ∧ staged.snapOk (staged.regs.stageAt 1) 65536 false = true ∧ (shut staged).snapOk (staged.regs.stageAt 1) 65536 false = false := by
  decide +kernel

theorem witness_ScanSnapshot_shards :
    let s := captureLab fun p => { p with state := 2 }
    let slot := s.regs.slotOf s.snap.step
    let u := ((foldState (fun t k => t.durable (slot + 4096 + k * s.regs.shardSize) (s.regs.shard s.snap.image [] k)) s (List.range s.regs.shardCount)).durable slot
      s.slotHeader).durable (slot + 0x38) (leBytes 8 1)
    let striped : State := { s with regs := { s.regs with snapcfg := s.regs.snapcfg + 1 } }
    s.snap.state = 2 ∧ s.stripeLost = false ∧ u.snap.state = 2 ∧ u.stall = [] ∧ striped.stripeLost = true ∧
      (((shut s).durable slot s.slotHeader).durable (slot + 0x38) (leBytes 8 1)).snap.state = 3 := by decide +kernel

/-- A recovery step in hand, at the position 1 that was lost. -/
def recoverLab (step : Nat) (acted : Bool) : State :=
  let s := captureLab id
  { s with recover := { step := step, lost := 1, newpkg := 9, failed := false, done := false, running := true, good := [(step - 1, 1)], acted := acted } }

theorem witness_ScanSnapshot_recovery :
    let ready (k : Nat) : Bool :=
      let s := recoverLab k false
      let r := s.recover
      r.running && !r.acted && decide (r.step = k ∧ s.regs.gpos ≠ r.lost) && (decide (k = 1) || r.good.contains (k - 1, r.lost))
    let s := recoverLab 1 false
    [1, 2, 3, 4, 5].all ready = true ∧ 2 ≤ s.regs.entryOf 1 ∧ peerValid (s.peer (s.regs.entryOf 1)) = true ∧ s.lastSlot.isSome = true ∧
      (s.lastSlot.any fun k => ((recoverLab 5 false).restoreTiles k).actStep.stall.isEmpty) = true ∧
      (recoverLab 1 true).recover.running = true ∧ (recoverLab 1 true).recover.acted = true ∧ (recoverLab 1 true).requestsTo (recoverLab 1 true).lostPkg = false ∧
      (lab []).recover.running = false := by decide +kernel

theorem witness_PlatformEvents_quote :
    let s : State := { State.reset with regs := { State.reset.regs with attcmd := true, featAccept := 0x41, errstat := 1, trans := true } }
    s.regs.attcmd = true ∧ s.regs.trans = true ∧ s.regs.errstat.toNat % 16 ≠ 0 ∧ (16 : BitVec 64).toNat % 16 = 0 ∧
      (0 : BitVec 64).toNat / 2 ^ 22 % 2 ^ 21 + (0 : BitVec 64).toNat % 2 ^ 22 ≤ 2097152 ∧
      (({ State.reset with dies := [(3, { Die.idle with polEnable := true })] } : State).die 3).polEnable = true := by decide +kernel

theorem witness_FabricEvents_peers : (0 : BitVec 64) &&& 0xFFFF0000003FFFFF = 0 ∧ 16 % 8 = 0 ∧ 16 < 32768 := by decide

/-! ### Witnesses: frames and the PC table -/

theorem witness_FrameOfGlobalStores :
    let w := labWave [0x10000, 0]
    let s := lab [0x10000, 0]
    let at_ := s.issue.activeLanes.map fun l => (l, s.issue.globalVa 0 1 l)
    let x := leaves s w 1 { rd := false, wr := true } (some true) at_
    let y := leaves s w 4 { rd := false, wr := true } (some true) [(0, 0x103FC)]
    versionsOk s.versions = true ∧ issues (.vst q0 2 0 1 .b8) s w = true ∧ x.2.2 = true ∧ x.2.1.all (fun a => !pteRaceLog a.pte) = true ∧
      (x.1.storeLanes w (x.2.1.map fun a => (a, [(0 : Byte)]))).stall = [] ∧ y.2.2 = true ∧
      (y.1.storeLanes w (y.2.1.map fun a => (a, leBytes 4 0))).stall = [] ∧ atomOk Hints.empty (atomFun .add 4) 1 = true ∧
      atomOk (ordered_ 3) (casFun 4) 2 = true ∧ issues (.satom q0 3 0 false .add) s w = true ∧ issues (.scas q0 62 0 false) s w = true := by decide +kernel

theorem witness_FrameOfGlobalStores_mstore : (endedLab.grantedReq 0 fun r => r.tilePort) = some endedReq ∧
    (match endedReq.kind with
      | .mstore x => decide (x = { labStore with stride := 0 })
      | _ => false) = true := by decide +kernel

theorem witness_WordsKeepTheTable :
    let w := labWave []
    let p := twoEntries w
    let h := inHandler 0x512 w
    let ok (w : Wave) : Bool := (w.table.all fun e => decide (e.lanes ≠ 0)) && (List.range 64).all fun l => decide (w.stands l ≤ 1)
    ok w = true ∧ ok p = true ∧ ok h = true ∧ (labTwo).waves.get? 0 = some p ∧ (p.table.any fun e => decide (e.lanes = labTwo.issue.lanes)) = true ∧
      ([(0x10080, 0x0F), (0x10044, 0xF0)] : List (DWord × DWord)).all (fun g => decide (g.2 ≠ 0)) = true ∧
      ((List.range 64).all fun l => ([(0x10080, 0x0F), (0x10044, 0xF0)] : List (DWord × DWord)).countP (fun g => g.2.getLsbD l) ==
        if labTwo.issue.lanes.getLsbD l then 1 else 0) = true ∧
      p.adopt = 0 ∧ p.handler = none ∧ (let t : Wave := { p with tvec := 0x10080 }
        ok t && decide (t.tvec ≠ 0)) = true ∧ h.handler.isSome = true ∧ h.handler.any (fun x => decide (x.lanes ≠ 0)) = true := by decide +kernel

/-! ### Witnesses: stops, code in SCM, and clauses that refuse -/

/-- The program's wave while its context is pre-empted: parked, or restartable with its flag set. -/
def stopLab (restart : Bool) : State :=
  let s := labSaving 0
  { s with waves := s.waves.map fun e =>
      (e.1, { e.2 with restart := restart, table := if restart then e.2.table else e.2.table.map fun x => { x with park := some (.barwait 0 0 0) } }) }

theorem witness_StepRunsTheEvent_stops :
    (stopLab false).stopped = false ∧ (stopLab false).stopDue? = some (0, { loadedTeam with saving := true }) ∧
      (stopLab true).stopDue? = some (0, { loadedTeam with discarding := true }) ∧
      (let begun := (stopLab false).setTeam 0 { loadedTeam with discarding := true }
       begun.stopDue? = some (0, loadedTeam)) := by decide +kernel

/-- The program's page stands in SCM and is executable. -/
def scmCode : State :=
  let s := stepLab
  { s with
    access := { base := 0, limit := 2 ^ 50, rd := true, wr := true } :: s.access.drop 1
    clusters := [(0, { s.cluster 0 with tlb := [{ ctx := 0, level := 4, page := 1, entry := codeLeaf 0x1000000000000 }] })] }

theorem witness_FetchReadsMemory_scm :
    let r := scmCode.translate 0 0 (some 0) 0x10040
    r.2 = .ok 0x1000000000040 (codeLeaf 0x1000000000000) ∧ pteX (codeLeaf 0x1000000000000) = true ∧ inHbm 0x1000000000040 = false ∧ inScm 0x1000000000040 = true ∧
      r.1.moving 0x1000000000040 = false ∧ scmCode.accessOk 0 0x1000000000040 4 false = true ∧ scmCode.marked 0x1000000000040 4 = false ∧
      0x1000000000040 % 4 = 0 ∧ r.1.stall = [] ∧ r.1.version 1 = [] ∧ r.1.waiting 1 = [] ∧
      (r.1.core 0).icache.get? (0x1000000000040 / 64) = none ∧ (r.1.fetchComb (0x1000000000040 / 1024)).stall = [] := by decide +kernel

theorem witness_TimeoutEvents_early :
    let early : State := ({ lab [] with clock := BitVec.ofNat 64 (clocksOf 2 - 1) } : State).modCluster 0 fun k => { k with brood := [labBrood] }
    let late : State := { early with clock := BitVec.ofNat 64 (clocksOf 2) }
    let due (s : State) := (s.cluster 0).brood.find? fun b => decide (b.openedAt + clocksOf 2 ≤ s.clock.toNat ∧ (s.context b.ctx).state = 1)
    (early.cluster 0).brood = [labBrood] ∧ due early = none ∧ due late = some labBrood ∧
      due ((late.setContext 0 { late.context 0 with state := 3 })) = none := by decide +kernel

theorem witness_TierEvents_scm : inScm 0x1000000000000 = true ∧ inHbm 0x1000000000000 = false ∧ inScm 0x103FFFFFFFFFF = true ∧ inHbm 0 = true := by decide +kernel

/-- A die with some frames in its pool, one of them in use by a tile with a cost, and what its policy may do; no context is enabled. -/
def policyLab (frames cost : Nat) (f : Die → Die) : State :=
  let s := labDie fun d => f { d with poolFrames := frames, polEnable := true, thresh1 := 64, thresh2 := 128, thresh3 := 192, discMax := 15 }
  { s with contexts := [], dir := [(0, { DirEntry.reset with state := 0, reuse := 0, cost := cost })] }

theorem witness_TierEvents_levels : ([5, 4, 2, 1].map fun k =>
    ((policyLab k 0 id).die 0).level (((policyLab k 0 id).dirHere 0).filter fun e => decide (e.2.state = 0)).length) = [0, 1, 2, 3] := by decide +kernel

theorem witness_TierEvents_victims :
    let victim (s : State) (f : Nat × DirEntry → Bool) : Bool := (firstVictim (s.victims 0)).any f
    victim (policyLab 1 14 id) (fun v => decide (v.2.cost ≤ 15 ∧ v.2.cost ≠ 15) && !(policyLab 1 14 id).guarded v.1) = true ∧
      victim (policyLab 1 15 id) (fun v => decide (v.2.cost = 15)) = true ∧
      victim (policyLab 1 14 fun d => { d with discMax := 13 }) (fun v => decide (13 < v.2.cost)) = true ∧
      victim (policyLab 1 0 fun d => { d with polDisabling := true }) (fun _ => true) = true ∧
      victim (policyLab 1 0 fun d => { d with polEnable := false }) (fun _ => true) = true := by decide +kernel

theorem witness_ContextEvents_items :
    let s : State := { imageLab true with
      contexts := (imageLab true).contexts.map fun e => (e.1, { e.2 with state := 3 })
      launches := [(4, labLaunch .running)]
      items := [(5, { ctx := 0, kind := .team 4 0, prio := 3, since := 0, aged := false, clus := none, hdr := loadedHeader })] }
    (s.context 0).state = 3 ∧ (s.images.filter fun e => decide (e.2.ctx = 0 ∧ e.2.kind ≠ 2) && (s.savedItem e.1).isNone).length = 1 ∧
      (((s.setContext 0 { s.context 0 with state := 1 }).distributable 0).settleScan.reschedule).stall = [] ∧ s.items ≠ [] ∧
      (0x050000 : BitVec 32).toNat = 5 * 2 ^ 16 + 0 * 2 ^ 10 + 0 * 16 ∧ (0x080000 : BitVec 32).toNat / 2 ^ 16 % 256 = 8 ∧
      (0xFE0000 : BitVec 32).toNat / 2 ^ 16 % 256 = 254 ∧ (0x1000000 : BitVec 32).toNat / 2 ^ 24 ≠ 0 ∧ (1 : BitVec 32).toNat % 16 ≠ 0 ∧
      (0x4000 : BitVec 32).toNat / 2 ^ 14 % 4 ≠ 0 := by decide +kernel

theorem witness_PlatformEvents_refused :
    (0x3C8080 : BitVec 32).toNat % 256 = (0x3C8080 : BitVec 32).toNat / 2 ^ 8 % 256 ∧
      (0x8080FF : BitVec 32).toNat / 2 ^ 16 % 256 = (0x8080FF : BitVec 32).toNat / 2 ^ 8 % 256 ∧
      2097152 < (BitVec.ofNat 64 (2 ^ 22 + 2097152)).toNat / 2 ^ 22 % 2 ^ 21 + (BitVec.ofNat 64 (2 ^ 22 + 2097152)).toNat % 2 ^ 22 ∧
      (0xF8 : BitVec 64).toNat % 8 = 0 ∧ 256 ≤ (0x101 : BitVec 64).toNat ∧ State.reset.regs.featAccept = 0 := by decide +kernel

theorem witness_ScanSnapshotAndRecoveryEvents_fails :
    let x : Scan := { ctx := 0, descVa := 0x10000, phase := .run, die := 0, clus := 0, mask := 3, matrix := true, abortPrio := 0, pattern := 0, drainMax := 1,
                      status := 0x10020, tstart := 0, abort := false }
    let s : State := { lab [] with scanning := some x }
    let y : State := { lab [] with scanning := some { x with abort := true } }
    let found (fail : BitVec 8) : Nat := (fail.toNat % 16 &&& x.mask.toNat) + if x.matrix && fail.getLsbD 4 then 16 else 0
    found 0 = 0 ∧ found 0xEC = 0 ∧ found 2 = 2 ∧ found 0x10 = 16 ∧ found 0xFF = 19 ∧
      ((s.endScan x 2 2).reschedule).stall = [] ∧ (y.settleScan.reschedule).stall = [] := by decide +kernel

theorem witness_ScanSnapshot_recovery_fails :
    let s := recoverLab 3 false
    let at_ (lost : Nat) (good : List (Nat × Nat)) (step : Nat) : State :=
      { s with recover := { s.recover with step := step, lost := lost, good := good } }
    let done := [(1, 1), (2, 1), (3, 1), (4, 1), (5, 1)]
    s.regs.gpos = 0 ∧ s.recover.good.contains (2, 1) = true ∧ (at_ 1 done 1).recover.good.contains (4, 1) = true ∧
      (at_ 1 done 2).recover.good.contains (1, 1) = true ∧ (at_ 0 [] 5).recover.lost = s.regs.gpos ∧ (at_ 0 [] 5).lastSlot.isSome = true ∧
      ((at_ 0 [] 5).lastSlot.any fun k => ((at_ 0 [] 5).restoreTiles k).actStep.stall.isEmpty) = true ∧
      (at_ 1 [(1, 2)] 2).recover.good.contains (1, 1) = false ∧ peerValid ((at_ 2 [] 1).peer ((at_ 2 [] 1).regs.entryOf 2)) = false ∧
      ({ at_ 1 done 3 with mem := [] } : State).lastSlot = none := by decide +kernel

theorem witness_CopyWordsPost_refused :
    let t (dst : Word) := lab [dst, 0xFFFFFFFF, 0x10000, 0, 0, 0, 15, 16, 0]
    let w (dst : Word) := labWave [dst, 0xFFFFFFFF, 0x10000, 0, 0, 0, 15, 16, 0]
    let all (dst : Word) : Bool := issues (.cpy q0 0) (t dst) (w dst) && issues (.cpym q0 0 6) (t dst) (w dst) && issues (.oload q0 0) (t dst) (w dst)
    let waves (dst : Word) : Nat := (((t dst).teams.get? (w dst).team).map (·.waves)).getD 0
    ([0xC0000000, 0x41000000, 0x01000000, 2036, 0x00FFFFF0, 64] : List Word).all all = true ∧
      (0xC0000000 : Word).toNat / 2 ^ 30 = 3 ∧ waves 0x41000000 = 1 ∧ (0x41000000 : Word).toNat / 2 ^ 24 % 16 = 1 ∧
      (0x01000000 : Word).toNat / 2 ^ 24 % 64 = 1 ∧ (2036 : Word).toNat % 16 = 4 ∧
      (t 0x00FFFFF0).placeOf 0 (w 0x00FFFFF0) 0xFFFFF0 = none ∧ (0x00FFFFF0 : Word).toNat % 16 = 0 ∧
      issues (.cpym q0 0 7) (t 2032) (w 2032) = true ∧ issues (.cpym q0 0 8) (t 2032) (w 2032) = true ∧
      ((t 2032).issue.src.scalar 7).toNat = 16 ∧ ((t 2032).issue.src.scalar 8).toNat = 0 ∧ inWindow0 2032 = false ∧
      ((t 2032).placeOf 0 (w 2032) 2032).isSome = true ∧ ((t 63).cluster (t 63).hereClus).holdsSlot 0 63 = false := by decide +kernel

theorem witness_CopyWordsPost_barriers :
    let s (bar : Word) := labClus [63, bar, 0x10000, 0, 0, 0] fun k => { k with slots := [(63, (claimOf 0 []).slot)] }
    let w (bar : Word) := labWave [63, bar, 0x10000, 0, 0, 0]
    (s 8).barOf 0 (w 8) 8 = .error (cMisaligned, 0) ∧ (s 0xFFFFF0).barOf 0 (w 0xFFFFF0) 0xFFFFF0 = .error (cPermission, 4) ∧
      issues (.oload q0 0) (s 8) (w 8) = true ∧ ((s 8).cluster (s 8).hereClus).holdsSlot 0 63 = true ∧
      (let c := [0x00800010, 2032, 0x10000, 0, 0, 0, 15]
       (lab c).barOf 0 (labWave c) 2032 = .ok (some (0, 2032)) ∧ inWindow0 2032 = false ∧ inWindow0 0x00800010 = true) := by decide +kernel

theorem witness_RingWords_ready (s : State) (h : s ∈ [ringFull 6 0x10000 0x10000, ringFull 6 0 0, ringFull 1 0 0, ringFull 8 0 0, withOwner (ringFull 6 0x10000 0x10000),
    withOwner (ringFull 6 0 0)]) : (s.countWord (labWave [0, 40])).ringReady (labWave [0, 40]) 0 (ringThere s) := by
  simp only [List.mem_cons, List.not_mem_nil, or_false] at h
  rcases h with rfl | rfl | rfl | rfl | rfl | rfl <;>
    (refine ⟨loadedTeam, ?_, ?_, rfl, ?_, ?_, ?_, ?_, ?_⟩ <;> decide +kernel)

/-- Both slots are taken and a third may be lent. -/
theorem witness_RingWords_lent : (ringLab 0 0x10000 0x10000).ringReady (labWave [0, 40]) 0 (ringAt (ringLab 0 0x10000 0x10000)) ∧
    ((ringAt (ringLab 0 0x10000 0x10000)).slots.find? fun y => decide ((ringLab 0 0x10000 0x10000).slotState y = 0)) = none ∧
    (ringAt (ringLab 0 0x10000 0x10000)).next = some { num := 2, payload := 72, core := 0, off := 64 } := by
  refine ⟨⟨loadedTeam, ?_, ?_, rfl, ?_, ?_, ?_, ?_, ?_⟩, ?_, rfl⟩ <;> decide +kernel

theorem witness_SchedulerEvents_saved :
    let item : Item := { ctx := 0, kind := .saved 9, prio := 0, since := 0, aged := false, clus := none, hdr := loadedHeader }
    let s : State := { imageLab true with items := [(5, item)] }
    let first : State := { s with items := [(5, item), (6, { item with kind := .brood labBrood, aged := true })] }
    let spent : State := { s with
      launches := [(4, { labLaunch .running with overBudget := true })]
      images := s.images.map fun e => (e.1, { e.2 with waves := e.2.waves.map fun w => { w with launches := [4] } })
      items := [(5, item), (6, { item with kind := .brood labBrood })] }
    (s.savedOf? 5).isSome = true ∧ s.partMay 0 0 = true ∧ s.partBehind 0 0 3 7 5 = false ∧ first.partBehind 0 0 3 7 5 = true ∧ spent.partMay 0 0 = false ∧
      (firstCand (fun _ => 0) (s.undistributed.filter fun c => if (s.savedOf? c.key).isSome then s.savedFits 191 c else false)).any
        (fun c => (s.savedOf? c.key).isSome) = true := by decide +kernel

end Sys2Proof.Tests
end

section
/-! PROOF. No step stops (spec/00 R10, spec/04 R105). The only outcome of `exec` other than a next state is the fault of a word with no issuing
wave, and `State.plan` names a word only where the wave in issue is resident: a fetch that gives a word leaves the waves as they are, an entry
that is decided again stands in a resident wave, and what falls due or stands on the agenda is an event. -/

namespace Sys2Proof.Machine

/-! ### An instruction whose wave is resident -/

/-- The instruction is an event, or the wave in issue is resident. -/
def State.hasIssuer (s : State) (i : Instr) : Prop := isWord i = true → ∃ w, s.waves.get? s.issue.slot = some w

theorem hasIssuer_of_event {s : State} {i : Instr} (h : isWord i = false) : s.hasIssuer i := fun hw => by simp [h] at hw

theorem hasIssuer_of_wave {s : State} {i : Instr} {w : Wave} (h : s.waves.get? s.issue.slot = some w) : s.hasIssuer i := fun _ => ⟨w, h⟩

/-! ### The outcome of `exec` -/

/-- The issue of a word never refuses, and faults only where there is no issuing wave. -/
theorem issueWord_next {q : Sched} {i : Instr} {s : State} {body : State → Wave → Did} (h : ∃ w, s.waves.get? s.issue.slot = some w) :
    ∃ t, issueWord q i s body = .next t := by
  obtain ⟨w, hw⟩ := h
  exact ⟨_, by rw [issueWord, hw]⟩

/-- The same of a hint word. -/
theorem issueHint_next {i : Instr} {s : State} (h : ∃ w, s.waves.get? s.issue.slot = some w) : ∃ t, issueHint i s = .next t := by
  obtain ⟨w, hw⟩ := h
  simp only [issueHint, hw]
  split <;> exact ⟨_, rfl⟩

/-- A float function issues in its packed form as in its FP32 form. -/
theorem unaryOp_next {q : Sched} {i : Instr} {p : Bool} {lat : Nat} {vd : VReg} {b : VSrc} {g : FFmt → RMode → Nat → Nat → Flagged Nat}
    {s : State} (h : ∃ w, s.waves.get? s.issue.slot = some w) : ∃ t, unaryOp q i p lat vd b g s = .next t := by
  cases p
  · exact issueWord_next h
  · exact issueWord_next h

theorem funOp_next {q : Sched} {i : Instr} {p : Bool} {f : FFun} {vd : VReg} {b : VSrc} {s : State}
    (h : ∃ w, s.waves.get? s.issue.slot = some w) : ∃ t, funOp q i p f vd b s = .next t := unaryOp_next h

theorem execBarrierByteCount_next (clus n : Nat) (s : State) : ∃ t, execBarrierByteCount clus n s = .next t := by
  unfold execBarrierByteCount
  split
  · exact ⟨_, rfl⟩
  · extract_lets
    split
    · exact ⟨_, rfl⟩
    · split <;> exact ⟨_, rfl⟩

theorem execGroupTableWrite_next (off width : Nat) (value : BitVec 64) (s : State) : ∃ t, execGroupTableWrite off width value s = .next t := by
  unfold execGroupTableWrite
  split <;> exact ⟨_, rfl⟩

theorem execPeerTableWrite_next (off width : Nat) (value : BitVec 64) (s : State) : ∃ t, execPeerTableWrite off width value s = .next t := by
  unfold execPeerTableWrite
  split <;> exact ⟨_, rfl⟩

theorem execPriocmd_next (value : BitVec 32) (s : State) : ∃ t, execPriocmd value s = .next t := by
  unfold execPriocmd
  extract_lets
  split <;> exact ⟨_, rfl⟩

/-- Every event answers a next state, and so does every word whose wave is resident. -/
theorem exec_next {i : Instr} {s : State} (h : s.hasIssuer i) : ∃ t, exec i s = .next t := by
  cases i
  case barrierByteCount => exact execBarrierByteCount_next ..
  case groupTableWrite => exact execGroupTableWrite_next ..
  case peerTableWrite => exact execPeerTableWrite_next ..
  case priocmd => exact execPriocmd_next ..
  case broodTimeout | capsuleLeaseExpiry | sleepTimeout | wbarSpill | copyCommandStart | copyPortionWrite | oloadStart | claimZeroFillDone
      | matrixGrant | passComplete | mzeroComplete | mstoreComplete | tierCopy | tierFetch | tierEvict | tileMoveComplete | tagcPerform
      | tagqPerform | policyVictimChoose | completionRecordWrite | collSum | collMax | collMin | collDraw | collBarrier | collBroadcast
      | collAllgather | collRoundComplete | collTimeout | remoteStorePerform | remoteAck | remoteFailure | inboundAccess | flitReplay
      | portDown | mailboxWrite | mailboxRead | persistGroupEnter | wbqDrainWrite | scrub | launchAccept | distribute | place
      | agingExpiry | launchComplete | teamSave | teamDiscard | preemptDeadlineExpiry | partRestore | ctxEnable | ctxDisable | ctxPreempt
      | ctxResume | ctxReset | doorbell | invalPage | invalContext | invalAll | invalidationPerformed | parkRequest | parkCancel | unpark
      | diePowerDown | unparkComplete | pceilWrite | pstateWrite | pstateTransitionDone | powerMeasure | featacceptWrite | attcmd
      | quoteComplete | tierpoolWrite | tierpolWrite | errstatWrite | cmapWrite | devctlReset | powerOn | registerWrite | powerLoss
      | drainComplete | holdupMeasure | scanDrainDone | scanRunDone | scanDrainTimeout | snapCaptureStart | cutClose | tileCapture
      | cowCopy | stagedTileWrite | shardsDurable | recoverFence | recoverElect | recoverRebuild | recoverRemap | recoverResume
      | recoverStepDone => exact ⟨_, rfl⟩
  case hintLitlo | hintLithi | hintGuard | hintMod | hintRnd | hintScope | hintCache | hintGap => exact issueHint_next (h rfl)
  case vfrcp | vfrsq | vfsqrt | vfexp2 | vflog2 | vfsin | vfcos | vftanh => exact funOp_next (h rfl)
  case vfrnd => rw [exec_vfrnd]; exact unaryOp_next (h rfl)
  case vfclass => rw [exec_vfclass]; exact unaryOp_next (h rfl)
  all_goals exact issueWord_next (h rfl)

/-! ### A fetch that gives a word -/

theorem fillIcache_same (s : State) (core block : Nat) (bs : List Byte) : Same s (s.fillIcache core block bs) := by
  unfold State.fillIcache
  extract_lets
  split
  · exact modCore_same ..
  · exact Same.trans (t := { s with free := s.free + 1 }) ⟨⟨rfl, rfl, rfl, rfl, rfl⟩, id⟩ (modCore_same ..)

/-- A remote read that is answered counts no refusal of the peer. -/
theorem askPeer_some_same {s : State} {die pa n : Nat} {bs : List Byte} (h : (s.askPeer die pa n).2 = some bs) :
    Same s (s.askPeer die pa n).1 := by
  unfold State.askPeer State.askAgain at h ⊢
  extract_lets r x at h ⊢
  have hr : Same s r.1 := readRemote_same n s [] pa
  clear_value r
  by_cases hn : r.2.2.isNone = true
  · simp [x, hn] at h
  · simpa [x, hn] using hr

theorem readCode_word_same {s : State} {core task pa : Nat} {v : Word} (h : (s.readCode core task pa).2 = .word v) :
    Same s (s.readCode core task pa).1 := by
  unfold State.readCode at h ⊢
  split at h
  · rename_i hi
    rw [if_pos hi]
    extract_lets r at h ⊢
    have hs : Same s (if s.remoteHeld pa then s.stallOn .remote else s) := by
      split
      · exact stallOn_same ..
      · exact Same.refl s
    cases hb : r.2 with
    | none => simp [hb] at h
    | some bs => exact hs.trans (askPeer_some_same hb)
  · rename_i hi
    rw [if_neg hi]
    extract_lets
    split
    · exact (readPoint_same s pa 4).trans ((combRead_same ..).trans (combRead_same ..))
    · split
      · exact Same.refl s
      · exact (readPoint_same ..).trans (((combRead_same ..).trans (combRead_same ..)).trans (fillIcache_same ..))

theorem fetch_word_same {s : State} {slot : Nat} {w : Wave} {pc : DWord} {v : Word} (h : (s.fetch slot w pc).2 = .word v) :
    Same s (s.fetch slot w pc).1 := by
  unfold State.fetch at h ⊢
  extract_lets _ _ x at h ⊢
  have hx : Same s x.1 := translate_same ..
  cases hp : x.2 with
  | bad i => simp [hp] at h
  | ok pa pte =>
    simp only [hp] at h ⊢
    split_ifs at h ⊢
    exact hx.trans (readCode_word_same h)

/-! ### What a step plans -/

/-- The instruction that a plan names, if it names one, has an issuer in the state in which it runs. -/
def Plan.hasIssuer : Plan → Prop
  | .run i t => t.hasIssuer i
  | .rest _ => True
  | .probe _ _ i t => t.hasIssuer i

theorem tried_hasIssuer {slot : Nat} {s : State} : ∀ {p : Plan}, p.hasIssuer → (p.tried slot s).hasIssuer
  | .run _ _, h => h
  | .rest _, _ => trivial
  | .probe _ _ _ _, h => h

/-- A word runs where its wave was found before the fetch, which leaves the waves as they are. -/
theorem issueWave_hasIssuer (s : State) (slot : Nat) (w : Wave) : (s.issueWave slot w).hasIssuer := by
  unfold State.issueWave
  extract_lets p
  have hp : p.issue.slot = slot := rfl
  clear_value p
  split
  · trivial
  · rename_i x hx
    extract_lets f
    split
    · trivial
    · trivial
    · rename_i v hf
      obtain ⟨⟨-, -, -, hw, hi⟩, -⟩ := fetch_word_same hf
      split
      · exact hasIssuer_of_wave (w := x) (by rw [hw, hi, hp]; exact hx)
      · trivial

theorem probeWave_hasIssuer (s : State) (slot : Nat) (w : Wave) : (s.probeWave slot w).hasIssuer :=
  tried_hasIssuer (issueWave_hasIssuer s slot w)

theorem happen_hasIssuer (s : State) (e : Instr) : (s.happen e).hasIssuer := by
  unfold State.happen
  split
  · trivial
  · rename_i h
    rw [Bool.or_eq_true, not_or] at h
    exact hasIssuer_of_event (Bool.eq_false_of_not_eq_true h.1)

theorem take_hasIssuer (s : State) (t : Turn) : (s.take t).hasIssuer := by
  unfold State.take
  split
  case h_1 => exact happen_hasIssuer ..
  case h_2 =>
    split
    · exact issueWave_hasIssuer ..
    · trivial
  all_goals trivial

theorem turn_hasIssuer (s : State) (t : Turn) (rest : List Turn) : (s.turn t rest).hasIssuer := by
  unfold State.turn
  split
  · split
    · exact probeWave_hasIssuer ..
    · exact take_hasIssuer ..
  · trivial
  · exact take_hasIssuer ..

/-- An entry that is decided again stands in a resident wave. -/
theorem wakeable_wave {s : State} {slot : Nat} {lanes : DWord} {x : Entry × Retry} (h : s.wakeable slot lanes = some x) :
    ∃ w, s.waves.get? slot = some w := by
  cases hw : s.waves.get? slot with
  | none => simp [State.wakeable, hw] at h
  | some w => exact ⟨w, rfl⟩

theorem firstWake_wave {s : State} {n : Nat} {l : DWord} {e : Entry} {r : Retry} :
    ∀ {xs : List (Nat × DWord)}, s.firstWake xs = some (n, l, e, r) → ∃ w, s.waves.get? n = some w
  | [], h => by cases h
  | (m, k) :: xs, h => by
    unfold State.firstWake at h
    split at h
    · rename_i hk
      obtain ⟨rfl, -⟩ := Prod.mk.inj (Option.some.inj h)
      exact wakeable_wave hk
    · exact firstWake_wave h

/-- A list of times for one event names that event alone. -/
theorem event_of_mem_map {α : Type} {f : α → Nat} {i : Instr} {l : List α} {x : Nat × Instr} (hi : isWord i = false)
    (h : x ∈ l.map fun a => (f a, i)) : isWord x.2 = false := by
  obtain ⟨a, -, rfl⟩ := List.mem_map.1 h
  exact hi

theorem event_of_mem_singleton {n : Nat} {i : Instr} {x : Nat × Instr} (hi : isWord i = false) (h : x ∈ [(n, i)]) : isWord x.2 = false := by
  rw [List.mem_singleton.1 h]
  exact hi

theorem leases_event {s : State} {slot : Nat} {w : Wave} {x : Nat × Instr} (h : x ∈ s.leases slot w) : isWord x.2 = false := by
  obtain ⟨e, -, hx⟩ := List.mem_flatMap.1 h
  split at hx
  · split at hx
    · cases hx
    · exact event_of_mem_singleton rfl hx
  · cases hx

/-- Only events fall due by the clock. -/
theorem timers_event {s : State} {x : Nat × Instr} (h : x ∈ s.timers) : isWord x.2 = false := by
  unfold State.timers at h
  simp only [List.mem_append, List.mem_flatMap] at h
  rcases h with (((((((⟨_, -, hsleep⟩ | ⟨_, -, _, -, hsaved⟩) | ⟨_, -, hlease⟩) | ⟨_, -, _, -, hslot⟩) | ⟨_, -, hbrood⟩) | ⟨_, -, hitem⟩) |
    ⟨_, -, hlaunch⟩) | hscan) | ⟨_, -, hctx⟩
  · exact event_of_mem_map rfl hsleep
  · exact event_of_mem_map rfl hsaved
  · exact leases_event hlease
  · exact leases_event hslot
  · exact event_of_mem_map rfl hbrood
  · split at hitem
    · cases hitem
    · exact event_of_mem_singleton rfl hitem
  · split at hlaunch
    · exact event_of_mem_singleton rfl hlaunch
    · cases hlaunch
  · split at hscan
    · split at hscan
      · exact event_of_mem_singleton rfl hscan
      · cases hscan
    · cases hscan
  · split at hctx
    · exact event_of_mem_singleton rfl hctx
    · split at hctx
      · exact event_of_mem_singleton rfl hctx
      · cases hctx

theorem due?_event {s : State} {e : Instr} (h : s.due? = some e) : isWord e = false := by
  obtain ⟨x, hx, rfl⟩ := Option.map_eq_some_iff.1 h
  exact timers_event (List.mem_of_find?_eq_some hx)

theorem plan_hasIssuer (s : State) : s.plan.hasIssuer := by
  unfold State.plan
  split
  · split
    · exact happen_hasIssuer ..
    · trivial
    · trivial
  split
  · trivial
  split
  · trivial
  split
  · rename_i hk
    obtain ⟨w, hw⟩ := firstWake_wave hk
    exact hasIssuer_of_wave (w := w) hw
  split
  · rename_i hd
    exact hasIssuer_of_event (due?_event hd)
  split
  · exact turn_hasIssuer ..
  split
  · exact probeWave_hasIssuer ..
  · exact issueWave_hasIssuer ..
  · trivial

/-- Every step answers a next state, since what its plan names has an issuer. -/
theorem step_next (s : State) : ∃ t, step s = .next t := by
  have h := plan_hasIssuer s
  unfold step
  cases hp : s.plan with
  | run i t =>
    rw [hp] at h
    exact exec_next h
  | rest t => exact ⟨t, rfl⟩
  | probe slot was i t =>
    rw [hp] at h
    obtain ⟨u, hu⟩ := exec_next h
    exact ⟨was.probed slot u, by simp only [hu]⟩

/-- Settles O9: what a step runs has an issuer, and so answers a next state. -/
theorem stepNeverStops : Obligations.StepNeverStops := step_next

end Sys2Proof.Machine
end

section
/-! PROOF. A word that issues, by the form of its body: it is done, it waits, or it raises causes (spec/04 R119, R122, spec/11 R270). -/

namespace Sys2Proof.Machine

/-- A word that is always done completes as its body says. -/
theorem completes_of_done {i : Instr} {q : Sched} {s : State} {w : Wave} {g : State → Wave → State} (h : issues i s w = true)
    (he : exec i s = issueWord q i s fun t x => .done (g t x)) (hs : (g (s.countWord w) w).stall = []) : completes i q s w fun c => g c w := by
  rw [completes, performs, he, issueWord_completes h hs]

/-- A word whose body does d is performed so, where d meets no stall and does not wait. -/
theorem performs_of_does {i : Instr} {q : Sched} {s : State} {w : Wave} {body : State → Wave → Did} {d : State → Did}
    (h : issues i s w = true) (he : exec i s = issueWord q i s body) (hb : body (s.countWord w) w = d (s.countWord w))
    (hs : (d (s.countWord w)).state.stall = []) (hw : ∀ t, d (s.countWord w) ≠ .wait t) : performs i q s w d := by
  rw [performs, he, issueWord_does h hb hs hw]

/-- A word whose body waits is not counted in a capsule step. -/
theorem performs_of_wait {i : Instr} {q : Sched} {s : State} {w : Wave} {body : State → Wave → Did} (h : issues i s w = true)
    (he : exec i s = issueWord q i s body) (hb : body (s.countWord w) w = .wait (s.countWord w)) :
    performs i q s w fun c => (Did.wait c).uncounted s.issue.slot w := by
  rw [performs, he, issueWord_waits h hb (issues_stall h)]

/-- A word whose body raises causes for its bundle, or for its Leader. -/
theorem performs_of_raise {i : Instr} {q : Sched} {s : State} {w : Wave} {body : State → Wave → Did} {rs : List Raise}
    (h : issues i s w = true) (he : exec i s = issueWord q i s body)
    (hb : body (s.countWord w) w = Did.orTrap (s.countWord w) rs (.left (s.countWord w))) :
    performs i q s w fun c => Did.orTrap c rs (.left c) :=
  performs_of_does h he hb (orTrap_left_stall (issues_stall h)) (orTrap_wait (by simp))

end Sys2Proof.Machine
end

section
/-! PROOF. The mask instructions (spec/05 R141). -/

namespace Sys2Proof.Machine

/-- A mask operation of latency 1 acts on the operands at issue. -/
theorem maskOp_completes {q : Sched} {i : Instr} {md : BitVec 6} {f : Issue → DWord} {s : State} {w : Wave}
    (he : exec i s = maskOp q i md f s) (h : issues i s w = true) :
    completes i q s w fun c => c.laterMask 1 md.toNat (f s.issue &&& w.mask) := by
  have := completes_of_done (g := fun t x => t.laterMask 1 md.toNat (f t.issue &&& x.mask)) h he (issues_stall h)
  rwa [completes, performs, countWord_issue] at this

/-- Settles O19: each mask form is one mask operation, and the two scalar forms read the mask at issue. -/
theorem maskResults : Obligations.MaskResults := by
  intro q md ma mb sd s w x y gives
  refine ⟨?mand, ?mor, ?mxor, ?mandn, ?mmov, ?mfirst, ?mset, ?mpopc, ?mget⟩
  case mand => exact fun h => (maskOp_completes (exec_mand q md ma mb s) h :)
  case mor => exact fun h => (maskOp_completes (exec_mor q md ma mb s) h :)
  case mxor => exact fun h => (maskOp_completes (exec_mxor q md ma mb s) h :)
  case mandn => exact fun h => (maskOp_completes (exec_mandn q md ma mb s) h :)
  case mmov => exact fun h => (maskOp_completes (exec_mmov q md ma s) h :)
  case mfirst => exact fun h => (maskOp_completes (exec_mfirst q md ma s) h :)
  case mset => exact fun h => (maskOp_completes (exec_mset q md sd s) h :)
  case mpopc =>
    intro h
    have := completes_of_done h (exec_mpopc ..) (issues_stall h)
    rwa [completes, performs, countWord_issue, popCount, ← List.countP_eq_length_filter] at this
  case mget =>
    intro h
    have := completes_of_done h (exec_mget ..) (issues_stall h)
    rwa [completes, performs, countWord_issue] at this

end Sys2Proof.Machine
end

section
/-! PROOF. `br`, `join`, `leave`, `waitm` and `exit` (spec/04 R102, R106, R107). Each body is read on the operands at issue, which counting the
word leaves as they are. -/

namespace Sys2Proof.Machine

/-! ### Branches -/

/-- The lanes of a bundle outside those in a mask are the bundle's lanes outside the mask. -/
theorem and_not_and_self (l x : DWord) : l &&& ~~~(l &&& x) = l &&& ~~~x := by
  rw [BitVec.not_and, BitVec.and_or_distrib_left, BitVec.and_not_self]
  exact BitVec.zero_or

/-- The lanes that take a branch are those of the bundle in its condition's mask, or outside it where the condition is inverted. -/
theorem taken_eq (i : Issue) (inv : Bool) (cond : BitVec 4) : i.taken inv cond =
    let holds : DWord := if cond = 0 then BitVec.allOnes 64 else if cond.toNat ≤ 12 then i.src.mask (cond.toNat - 1)
      else if i.src.sc then BitVec.allOnes 64 else 0
    i.lanes &&& (if inv then ~~~holds else holds) := by
  extract_lets holds
  have hyes : (if cond = 0 then i.lanes else if cond.toNat ≤ 12 then i.lanes &&& i.src.mask (cond.toNat - 1)
      else if i.src.sc then i.lanes else 0) = i.lanes &&& holds := by
    simp only [holds]
    split_ifs
    · exact BitVec.and_allOnes.symm
    · rfl
    · exact BitVec.and_allOnes.symm
    · exact BitVec.and_zero.symm
  rw [Issue.taken, hyes]
  cases inv
  · rfl
  · exact and_not_and_self i.lanes holds

/-- Settles O22: the body of `br` decides as the statement does, on the operands at issue, and none of its outcomes stalls or waits. -/
theorem branchMovesLanes : Obligations.BranchMovesLanes := by
  intro q hint inv cond off s w i holds yes no target front h
  refine performs_of_does h (exec_br ..) ?same ?stall ?nowait
  case same =>
    have hfront : frontOf hint target (i.pc + 4) = front := by cases hint <;> rfl
    simp only [countWord_issue, taken_eq]
    rw [ite_or, ← hfront]
    rfl
  case stall =>
    have hc := issues_stall h
    split_ifs
    · exact orTrap_left_stall hc
    all_goals exact hc
  case nowait =>
    split_ifs
    · exact orTrap_wait (by simp)
    all_goals simp

/-! ### Reconvergence and exit -/

/-- A write of a mask by `join` or `leave`, of the bundle at issue. -/
theorem joinOp_completes {q : Sched} {i : Instr} {m : BitVec 4} {f : DWord → DWord → DWord} {s : State} {w : Wave}
    (he : exec i s = joinOp q i m f s) (h : issues i s w = true) :
    completes i q s w fun c => c.wave fun x =>
      { ((x.now (.msk m.toNat (f (x.maskFinal m.toNat) s.issue.lanes))).recheck m.toNat) with resort := true } := by
  have := completes_of_done h he (issues_stall h)
  rwa [completes, performs, countWord_issue] at this

/-- Settles O24: `join` and `leave` are one operation on a mask, and `exit` goes one of its three ways. -/
theorem maskControl : Obligations.MaskControl := by
  refine ⟨?masks, ?exit⟩
  case masks =>
    intro q m s w n set
    refine ⟨fun h => (joinOp_completes (exec_join q m s) h :), fun h => (joinOp_completes (exec_leave q m s) h :), fun h => ?_⟩
    exact performs_of_does h (exec_waitm q m s) rfl (issues_stall h) (by simp)
  case exit =>
    intro q s w h c leave last
    refine ⟨fun hw hs => ?othersLive, fun hw hg => ?storesInFlight, fun hw hg hc hs => ?lastExit⟩
    case othersLive =>
      refine performs_of_does h (exec_exit q s) ?_ hs (by simp)
      simp only [countWord_issue, if_pos hw, leave]
    case storesInFlight =>
      rw [performs, exec_exit]
      refine issueWord_waits_out h rfl ?_ (issues_stall h)
      simp only [countWord_issue, if_neg (not_not_intro hw)]
      exact if_pos hg
    case lastExit =>
      refine performs_of_does h (exec_exit q s) ?_ hs (by simp)
      simp only [countWord_issue, if_neg (not_not_intro hw)]
      simp only [c] at hg hc
      simp only [hg, Bool.false_eq_true, if_false, if_neg (not_not_intro hc), last]

end Sys2Proof.Machine
end

section
/-! PROOF. `smfr` and `smto` (spec/01 R27 to R32, spec/04 R116, R117). -/

namespace Sys2Proof.Machine

/-- The system registers of 64 bits (spec/01 R27). -/
theorem sysReg64_iff (num : BitVec 8) : sysReg64? num = some true ↔ num.toNat ∈ [0x0B, 0x0E, 0x10, 0x11, 0x14, 0x16] := by
  unfold sysReg64?
  split <;> simp_all

/-- Who may write which register (spec/01 R27). -/
theorem mayWrite_iff (s : State) (w : Wave) (n : Nat) : s.mayWrite w n = true ↔
    n ∈ [0x0C, 0x0D, 0x0E, 0x13, 0x14, 0x15] ∨ (n ∈ [0x0F, 0x10, 0x11, 0x12] ∧ w.handler.isSome = true) ∨
      (n = 0x18 ∧ (s.context w.ctx).priv = true) := by
  unfold State.mayWrite
  split <;> simp_all

/-- Counting a word changes no right to write. -/
theorem countWord_mayWrite (s : State) (w x : Wave) (n : Nat) : (s.countWord w).mayWrite x n = s.mayWrite x n := by
  unfold State.countWord; split <;> rfl

theorem flagsDue_iff (w : Wave) (num : BitVec 8) : w.flagsDue num = true ↔ num = 0x0C ∧ w.pend ≠ [] := by
  simp [Wave.flagsDue]

theorem flagsDue_false (w : Wave) (num : BitVec 8) : w.flagsDue num = false ↔ (num = 0x0C → w.pend = []) := by
  simp [Wave.flagsDue]

/-- Settles O29: `smfr` reads once nothing is due, and `smto` decides by who may write and by the value. -/
theorem systemRegisters : Obligations.SystemRegisters := by
  refine ⟨?smfr, ?smto⟩
  case smfr =>
    intro q sd num s w h
    refine ⟨fun hn hp => performs_of_wait h (exec_smfr ..) (if_pos ((flagsDue_iff w num).2 ⟨hn, hp⟩)), fun hd => ?_⟩
    refine performs_of_does h (exec_smfr q sd num s) ?_ ?_ (by simp)
    · simp only [countWord_issue, (flagsDue_false w num).2 hd, sysReg64_iff, Bool.false_eq_true, if_false]
    · split_ifs <;> exact issues_stall h
  case smto =>
    intro q sa num s w h i n v open_ raise
    have hmay : (s.countWord w).mayWrite w num.toNat = true ↔ open_ := by rw [countWord_mayWrite, mayWrite_iff]
    have hval : (if sysReg64? num = some true then s.issue.src.pair sa.toNat else (s.issue.src.scalar sa.toNat).setWidth 64) = v := by
      simp only [sysReg64_iff]; rfl
    have hsnap : num = 0x18 ↔ n = 0x18 := ⟨fun e => by simp [n, e], fun e => BitVec.eq_of_toNat_eq e⟩
    refine ⟨fun hn hp => performs_of_wait h (exec_smto ..) (if_pos ((flagsDue_iff w num).2 ⟨hn, hp⟩)), fun ho => ?priv, fun ho hv => ?illegal,
      fun ho hv hn hd => ?writes, fun ho hn hs => ?snap⟩
    case priv =>
      have hm : (s.countWord w).mayWrite w num.toNat = false := by rwa [← Bool.not_eq_true, hmay]
      have hd : w.flagsDue num = false := (flagsDue_false w num).2 fun hn => absurd (Or.inl (by simp [n, hn])) ho
      refine performs_of_raise h (exec_smto q sa num s) ?_
      simp only [hd, hm, Bool.not_false, Bool.false_eq_true, if_true, if_false, countWord_issue]
      rfl
    case illegal =>
      have hd : w.flagsDue num = false := (flagsDue_false w num).2 fun hn => by simp [n, hn, Wave.valueOk] at hv
      refine performs_of_raise h (exec_smto q sa num s) ?_
      have hv : w.valueOk num.toNat v = false := hv
      simp only [hd, hmay.2 ho, countWord_issue, hval, hv, Bool.not_true, Bool.not_false, Bool.false_eq_true, if_true, if_false]
      rfl
    case writes =>
      refine performs_of_does h (exec_smto q sa num s) ?_ (issues_stall h) (by simp)
      have hv : w.valueOk num.toNat v = true := hv
      simp only [(flagsDue_false w num).2 hd, hmay.2 ho, countWord_issue, hval, hsnap, hn, hv, Bool.not_true, Bool.false_eq_true, if_false]
      rfl
    case snap =>
      have hd : w.flagsDue num = false := (flagsDue_false w num).2 fun e => by simp [n, e] at hn
      have hv : w.valueOk num.toNat v = true := by rw [show num.toNat = 0x18 from hn]; rfl
      refine performs_of_does h (exec_smto q sa num s) ?_ hs (by simp)
      simp only [hd, hmay.2 ho, countWord_issue, hval, hsnap, hn, hv, Bool.not_true, Bool.false_eq_true, if_true, if_false]

end Sys2Proof.Machine
end

section
/-! PROOF. When results land (spec/04 R119 to R121). -/

namespace Sys2Proof.Machine

/-- A result that is ready lands alone where none was pending before it. -/
theorem landAt_only {w : Wave} {ready t : Nat} {r : Landing} (hr : ready ≤ t) (hp : w.pend = []) :
    ((w.later ready r).landAt t).regs = w.regs.land w.mask r := by
  simp only [Wave.landAt, Wave.later, hp, List.nil_append, splitPend, hr, true_or, if_true]
  rfl

/-- Settles O55: a result that is ready lands last, and one that is not waits behind the others. -/
theorem resultsLand : Obligations.ResultsLand := by
  intro w ready t n x m b ls f
  refine ⟨fun hr => ⟨?sca, ?msk, ?cond, fun l hl h64 => ?vec⟩, fun ht r => ?waits, fun hr hp k j hk hj => ?others⟩
  case sca =>
    obtain ⟨a, ha⟩ := landAt_now w t ready (.sca n x) hr
    rw [ha]
    exact Sys2Proof.Laws.get_set_same ..
  case msk =>
    obtain ⟨a, ha⟩ := landAt_now w t ready (.msk n m) hr
    rw [ha]
    exact Sys2Proof.Laws.get_set_same ..
  case cond =>
    obtain ⟨a, ha⟩ := landAt_now w t ready (.cond b) hr
    rw [ha]
    rfl
  case vec =>
    obtain ⟨a, ha⟩ := landAt_now w t ready (.vec n (ls.map fun l => (l, f l))) hr
    rw [ha]
    exact (land_vec_get n f ls _ n l h64).trans (if_pos ⟨rfl, hl⟩)
  case waits =>
    simp only [Wave.landAt, Wave.later, split_later t ⟨ready, r⟩ ht]
    rfl
  case others =>
    rw [landAt_only hr hp]
    exact (land_vec_get n f ls _ k j hj).trans (if_neg hk)

end Sys2Proof.Machine
end

section
/-! PROOF. The PC table under a trap that meets a stall (spec/11 R273, R277). -/

namespace Sys2Proof.Machine

/-- Charging an issue stalls nothing. -/
theorem charge_stall (s : State) (ls : List Nat) (slot gap : Nat) (g : Bool) : (s.charge ls slot gap g).stall = s.stall := by
  have h : ∀ c, (s.addActivity c ls 1).stall = s.stall := fun c => by unfold State.addActivity; split <;> rfl
  exact h _

/-- A trap that a handler takes stalls nothing. -/
theorem takeTrap_stall {s : State} {slot : Nat} {w : Wave} (hw : s.waves.get? slot = some w) (hh : w.handler = none) (ht : w.tvec ≠ 0)
    (bundle epc : DWord) (r : Raise) (rest : List Raise) : (s.takeTrap slot bundle epc r rest).stall = s.stall := by
  simp only [State.takeTrap, hw, hh, if_neg ht]
  rfl

/-- A trap of a word that has just issued is taken where its state does not stall; where it does, the wave waits in the state at issue instead
(spec/11 R277). -/
theorem after_trap_eq {q : Sched} {s t : State} {w : Wave} (hw : t.waves.get? s.issue.slot = some w) (hh : w.handler = none)
    (ht : w.tvec ≠ 0) (hn : s.issue.resumed = false) (r : Raise) (rest : List Raise) :
    s.after q (.trap t r rest) =
      if t.stall = [] then
        (t.charge (s.launchesAt s.issue.slot) s.issue.slot 0 false).takeTrap s.issue.slot s.issue.lanes s.issue.first r rest
      else (foldState (fun u x => u.noteStall s.issue.slot x) s t.stall).waitIssue s.issue.slot := by
  obtain ⟨x, hx, -, hxh, -, hxt⟩ := charge_table t (s.launchesAt s.issue.slot) s.issue.slot 0 s.issue.slot false w hw
  have hu : ((t.charge (s.launchesAt s.issue.slot) s.issue.slot 0 false).takeTrap s.issue.slot s.issue.lanes s.issue.first r rest).stall =
      t.stall := by
    rw [takeTrap_stall hx (hxh.trans hh) (by rwa [hxt]), charge_stall]
  simp only [State.after, Did.finish, Did.settle, hn, State.orWait, State.waitAgain, Bool.false_eq_true, if_false, hu]

/-- A wave of 16 ready lanes with a handler's address, outside its handler. -/
def readyWave : Wave := { Wave.start 1 0 0 0 loadedHeader 0 (laneMask 16) 0 [] 0 with tvec := 0x10080 }

/-- That wave's word in issue, in a state that does not stall. -/
def readyIssue : State :=
  { State.reset.loaded with
    waves := [(0, readyWave)]
    issue := { slot := 0, lanes := laneMask 16, pc := 0x10040, first := 0x10040, held := Hints.empty, src := Regs.zero, resumed := false } }

theorem readyWave_tableOk : readyWave.tableOk := by
  refine ⟨fun e he => ?_, fun l => List.countP_le_length⟩
  rw [List.mem_singleton.1 he]
  decide

/-- Refutes O60: the state `t` in which a trap is raised may stall, here on persistent stores that have not entered their queue; then the trap
is not taken, and no handler starts. A word that issues waits instead of trapping in such a state (`Did.unstalled`), but the statement has no
premise `t.stall = []`. -/
theorem not_wordsKeepTheTable : ¬ Obligations.WordsKeepTheTable := by
  intro h
  obtain ⟨-, hentry, -⟩ := h ⟨0, false⟩ readyIssue { readyIssue with stall := [.persists] } readyWave rfl readyWave_tableOk
  obtain ⟨-, -, htrap, -⟩ := hentry ⟨_, List.mem_cons_self, rfl⟩
  obtain ⟨x, k, hx, hk, -⟩ := htrap rfl (by decide) { lane := 0, cause := cSoftware, info := 0, write := false, space := 0 } []
  rw [after_trap_eq rfl rfl (by decide) rfl, if_neg (by decide)] at hx
  obtain rfl := Option.some.inj hx
  cases hk

end Sys2Proof.Machine
end

section
/-! PROOF. Encoding and decoding (spec/03 R63 to R84). -/

namespace Sys2Proof.Laws.Enc

/-- A word has its constructor's round trip, and an event has no word. -/
theorem statement_of : ∀ i : Instr, Statement i
  | .vadd .. => vadd _ _ _ _ | .vsub .. => vsub _ _ _ _ | .vmul .. => vmul _ _ _ _ | .vmulhi .. => vmulhi _ _ _ _ | .vand .. => vand _ _ _ _
  | .vor .. => vor _ _ _ _ | .vxor .. => vxor _ _ _ _ | .vshl .. => vshl _ _ _ _ | .vshr .. => vshr _ _ _ _ | .vsra .. => vsra _ _ _ _
  | .vmin .. => vmin _ _ _ _ | .vmax .. => vmax _ _ _ _ | .vminu .. => vminu _ _ _ _ | .vmaxu .. => vmaxu _ _ _ _ | .vmad .. => vmad _ _ _ _
  | .vabsd .. => vabsd _ _ _ _ | .vfadd .. => vfadd _ _ _ _ | .vfsub .. => vfsub _ _ _ _ | .vfmul .. => vfmul _ _ _ _ | .vffma .. => vffma _ _ _ _
  | .vfmin .. => vfmin _ _ _ _ | .vfmax .. => vfmax _ _ _ _ | .vhfma .. => vhfma _ _ _ _ | .vhadd .. => vhadd _ _ _ _ | .vhmul .. => vhmul _ _ _ _
  | .vsel .. => vsel _ _ _ _ | .vpack2 .. => vpack2 _ _ _ _ | .vcopysign .. => vcopysign _ _ _ _ | .vshfl .. => vshfl _ _ _ _ _
  | .vmov .. => vmov _ _ _ | .vnot .. => vnot _ _ _ | .vneg .. => vneg _ _ _ | .vabs .. => vabs _ _ _ | .vpopc .. => vpopc _ _ _
  | .vclz .. => vclz _ _ _ | .vbrev .. => vbrev _ _ _ | .vbfe .. => vbfe _ _ _ | .vbfi .. => vbfi _ _ _ | .vrand .. => vrand _ _ _
  | .vbcast .. => vbcast _ _ _ | .vfrcp .. => vfrcp _ _ _ _ | .vfrsq .. => vfrsq _ _ _ _ | .vfsqrt .. => vfsqrt _ _ _ _ | .vfexp2 .. => vfexp2 _ _ _ _
  | .vflog2 .. => vflog2 _ _ _ _ | .vfsin .. => vfsin _ _ _ _ | .vfcos .. => vfcos _ _ _ _ | .vftanh .. => vftanh _ _ _ _ | .vfrnd .. => vfrnd _ _ _ _
  | .vfclass .. => vfclass _ _ _ _ | .vcvt .. => vcvt _ _ _ _ _ _ | .vcmp .. => vcmp _ _ _ _ _ | .vfcmp .. => vfcmp _ _ _ _ _
  | .sadd .. => sadd _ _ _ _ | .ssub .. => ssub _ _ _ _ | .smul .. => smul _ _ _ _ | .smulhi .. => smulhi _ _ _ _ | .sand .. => sand _ _ _ _
  | .sor .. => sor _ _ _ _ | .sxor .. => sxor _ _ _ _ | .sshl .. => sshl _ _ _ _ | .sshr .. => sshr _ _ _ _ | .ssra .. => ssra _ _ _ _
  | .smin .. => smin _ _ _ _ | .smax .. => smax _ _ _ _ | .sminu .. => sminu _ _ _ _ | .smaxu .. => smaxu _ _ _ _ | .saddc .. => saddc _ _ _ _
  | .ssubb .. => ssubb _ _ _ _ | .scmp .. => scmp _ _ _ _ | .ssel .. => ssel _ _ _ _ | .smov .. => smov _ _ _ | .spopc .. => spopc _ _ _
  | .sclz .. => sclz _ _ _ | .sbfe .. => sbfe _ _ _ _ | .sfadd .. => sfadd _ _ _ _ | .sfmul .. => sfmul _ _ _ _ | .sffma .. => sffma _ _ _ _
  | .sfmin .. => sfmin _ _ _ _ | .sfmax .. => sfmax _ _ _ _ | .sfcvt .. => sfcvt _ _ _ _ _ | .drawm .. => drawm _ _ _ | .sfexp2 .. => sfexp2 _ _ _
  | .smovi .. => smovi _ _ _ | .sori .. => sori _ _ _ | .saddi .. => saddi _ _ _ | .scmpi .. => scmpi _ _ _ | .br .. => br _ _ _ _ _
  | .jmp .. => jmp _ _ | .call .. => call _ _ | .ret .. => ret _ | .brx .. => brx _ _ | .exit .. => exit _ | .join .. => join _ _
  | .leave .. => leave _ _ | .waitm .. => waitm _ _ | .sleep .. => sleep _ _ _ | .yield .. => yield _ | .nop .. => nop _ | .trap .. => trap _ _
  | .tret .. => tret _ | .tretAbort .. => tretAbort _ | .brk .. => brk _ _ | .isync .. => isync _ | .ppt .. => ppt _ | .idem .. => idem _
  | .idemend .. => idemend _ | .hintLitlo .. => hintLitlo _ | .hintLithi .. => hintLithi _ | .hintGuard .. => hintGuard _ _
  | .hintMod .. => hintMod _ _ _ _ _ _ _ _ _ | .hintRnd .. => hintRnd _ | .hintScope .. => hintScope _ | .hintCache .. => hintCache _
  | .hintGap .. => hintGap _ | .vld .. => vld _ _ _ _ _ | .vpref .. => vpref _ _ _ | .vlds .. => vlds _ _ _ _ _ | .vldc .. => vldc _ _ _ _ _
  | .vldt .. => vldt _ _ _ _ _ | .vst .. => vst _ _ _ _ _ | .vsts .. => vsts _ _ _ _ _ | .vpwb .. => vpwb _ _ _ | .vatom .. => vatom _ _ _ _ _
  | .vatoms .. => vatoms _ _ _ _ _ | .vcas .. => vcas _ _ _ _ | .vatomsCas .. => vatomsCas _ _ _ _ | .bfadd .. => bfadd _ _ _ _
  | .sld .. => sld _ _ _ _ _ | .sst .. => sst _ _ _ _ _ | .sldk .. => sldk _ _ _ _ _ | .satom .. => satom _ _ _ _ _ | .scas .. => scas _ _ _ _
  | .vrfl .. => vrfl _ _ _ | .vrdln .. => vrdln _ _ _ _ | .vwrln .. => vwrln _ _ _ _ | .vmatch .. => vmatch _ _ _ | .vballot .. => vballot _ _ _
  | .vredu .. => vredu _ _ _ _ _ | .vscan .. => vscan _ _ _ _ _ _ | .vdraw .. => vdraw _ _ _ _ | .mand .. => mand _ _ _ _ | .mor .. => mor _ _ _ _
  | .mxor .. => mxor _ _ _ _ | .mandn .. => mandn _ _ _ _ | .mmov .. => mmov _ _ _ | .mpopc .. => mpopc _ _ _ | .mfirst .. => mfirst _ _ _
  | .mset .. => mset _ _ _ | .mget .. => mget _ _ _ | .fence .. => fence _ _ _ | .qfence .. => qfence _ _ | .pfence .. => pfence _
  | .barinit .. => barinit _ _ | .bararr .. => bararr _ _ | .bartest .. => bartest _ _ _ _ | .barwait .. => barwait _ _ _ | .barinv .. => barinv _ _
  | .wbar .. => wbar _ _ _ | .cpy .. => cpy _ _ | .cpym .. => cpym _ _ _ | .xfer .. => xfer _ _ | .coll .. => coll _ _ | .signal .. => signal _ _ _
  | .tagc .. => tagc _ _ _ | .tagq .. => tagq _ _ _ | .oclaim .. => oclaim _ _ | .orel .. => orel _ _ | .oload .. => oload _ _
  | .aclaim .. => aclaim _ _ | .arel .. => arel _ _ | .mma .. => mma _ _ | .mzero .. => mzero _ _ | .mstore .. => mstore _ _ | .mwait .. => mwait _ _
  | .spawn .. => spawn _ _ | .fbind .. => fbind _ _ | .fset .. => fset _ _ _ | .fwait .. => fwait _ _ _ | .qres .. => qres _ _ _
  | .qpub .. => qpub _ _ _ | .qtake .. => qtake _ _ _ | .qdone .. => qdone _ _ _ | .qclose .. => qclose _ _ | .publ .. => publ _
  | .center .. => center _ _ _ | .cstep .. => cstep _ _ _ | .cexit .. => cexit _ _ _ | .cres .. => cres _ _ _ | .smfr .. => smfr _ _ _
  | .smto .. => smto _ _ _ | .scan .. => scan _ _
  | .broodTimeout .. | .capsuleLeaseExpiry .. | .sleepTimeout .. | .wbarSpill .. | .barrierByteCount .. | .copyCommandStart ..
  | .copyPortionWrite .. | .oloadStart .. | .claimZeroFillDone .. | .matrixGrant .. | .passComplete .. | .mzeroComplete ..
  | .mstoreComplete .. | .tierCopy .. | .tierFetch .. | .tierEvict .. | .tileMoveComplete .. | .tagcPerform .. | .tagqPerform ..
  | .policyVictimChoose .. | .completionRecordWrite .. | .collSum .. | .collMax .. | .collMin .. | .collDraw .. | .collBarrier ..
  | .collBroadcast .. | .collAllgather .. | .collRoundComplete .. | .collTimeout .. | .remoteStorePerform .. | .remoteAck ..
  | .remoteFailure .. | .inboundAccess .. | .flitReplay .. | .portDown .. | .mailboxWrite .. | .mailboxRead .. | .persistGroupEnter ..
  | .wbqDrainWrite .. | .scrub .. | .launchAccept .. | .distribute .. | .place .. | .agingExpiry .. | .launchComplete .. | .teamSave ..
  | .teamDiscard .. | .preemptDeadlineExpiry .. | .partRestore .. | .ctxEnable .. | .ctxDisable .. | .ctxPreempt .. | .ctxResume ..
  | .ctxReset .. | .doorbell .. | .priocmd .. | .invalPage .. | .invalContext .. | .invalAll .. | .invalidationPerformed ..
  | .parkRequest .. | .parkCancel .. | .unpark .. | .diePowerDown .. | .unparkComplete .. | .pceilWrite .. | .pstateWrite ..
  | .pstateTransitionDone .. | .powerMeasure .. | .featacceptWrite .. | .attcmd .. | .quoteComplete .. | .tierpoolWrite ..
  | .tierpolWrite .. | .errstatWrite .. | .cmapWrite .. | .devctlReset .. | .powerOn .. | .registerWrite .. | .powerLoss ..
  | .drainComplete .. | .holdupMeasure .. | .scanDrainDone .. | .scanRunDone .. | .scanDrainTimeout .. | .snapCaptureStart .. | .cutClose ..
  | .tileCapture .. | .cowCopy .. | .stagedTileWrite .. | .shardsDurable .. | .recoverFence .. | .recoverElect .. | .recoverRebuild ..
  | .recoverRemap .. | .recoverResume .. | .recoverStepDone .. | .groupTableWrite .. | .peerTableWrite .. => eventless rfl

/-- Settles O1: the round trip of each constructor. -/
theorem decodeEncode : Obligations.DecodeEncode := fun i w hwf => statement_of i hwf w

end Sys2Proof.Laws.Enc

namespace Sys2Proof.Machine

/-- Settles O2: the decoder computes each word. -/
theorem wordsOfTheSpecDecode : Obligations.WordsOfTheSpecDecode := by
  refine ⟨?saddc, ?vrand, ?br, ?vst, ?vatom, ?satom, ?qfence, ?cpym, ?aclaim, ?qtake, ?cstep, ?smto⟩ <;> decide

/-- Without a literal, the operand of a code below 64 is a scalar register. -/
theorem sint_ofCode_register {c : Nat} {i : Issue} (hc : c < 64) (hl : i.held.hasLiteral = false) :
    (SSrc.ofCode c).map i.sint = some (i.src.scalar c) := by
  have hn : (BitVec.ofNat 6 c).toNat = c := (BitVec.toNat_ofNat ..).trans (Nat.mod_eq_of_lt hc)
  simp [SSrc.ofCode, hc, Issue.sint, hl, hn]

/-- Without a literal, the operand of a code from 64 on is the integer 128 below the code. -/
theorem sint_ofCode_integer {c : Nat} {i : Issue} (hlo : 64 ≤ c) (hc : c < 256) (hl : i.held.hasLiteral = false) :
    (SSrc.ofCode c).map i.sint = some (BitVec.ofInt 32 ((c : Int) - 128)) := by
  have hv : (((c - 64) % 192 : Nat) : Int) - 64 = (c : Int) - 128 := by omega
  simp only [SSrc.ofCode, Nat.not_lt.2 hlo, if_false, Option.map_some, Issue.sint, hl, Bool.false_eq_true, sIntCode, hv]

/-- Settles O3: the codes below 64 name registers, and those above name integers. -/
theorem scalarOperandCodes : Obligations.ScalarOperandCodes := by
  intro c i hc hl
  by_cases h : c < 64
  · obtain ⟨b, hb, hv⟩ := Option.map_eq_some_iff.1 (sint_ofCode_register h hl)
    exact ⟨b, hb, by rw [hv, if_pos h]⟩
  · obtain ⟨b, hb, hv⟩ := Option.map_eq_some_iff.1 (sint_ofCode_integer (Nat.not_lt.1 h) hc hl)
    exact ⟨b, hb, by rw [hv, if_neg h]⟩

end Sys2Proof.Machine
end

section
/-! PROOF. Hint words (spec/03 R65 to R67). -/

namespace Sys2Proof.Machine

/-- A hint word that is legal for the wave, has room in its group and is the first of its kind is held (spec/03 R67). -/
theorem issueHint_held {j : Instr} {s : State} {w : Wave} {h : Hints} (hadd : Hints.add s.issue.held j = some h)
    (hw : s.waves.get? s.issue.slot = some w) (hwf : j.wf = true) (hver : Instr.version j ≤ w.hdr.encv) (hroom : Hints.list s.issue.held < 2)
    (hbody : w.inBody = true → Instr.inCapsule j = true) :
    issueHint j s = .next ((s.charge w.launches s.issue.slot 0 false).modWave s.issue.slot fun x => x.hinted s.issue h) := by
  have hlegal : (!j.wf || decide (w.hdr.encv < Instr.version j) || decide (2 ≤ Hints.list s.issue.held)) = false := by
    simp [hwf, Nat.not_lt.2 hver, Nat.not_le.2 hroom]
  have hcap : (w.inBody && !Instr.inCapsule j) = false := by
    cases hb : w.inBody
    · rfl
    · simp [hbody hb]
  simp only [issueHint, hw, hlegal, hadd, hcap, Bool.false_eq_true, if_false]

/-- Settles O28: each kind that is not held yet is added to the hints held. -/
theorem hintsAreHeld : Obligations.HintsAreHeld := by
  intro x20 x12 inv m d x3 x2 x8 s w i held
  have holds {j : Instr} {h : Hints} (he : exec j s = issueHint j s) (hadd : Hints.add i.held j = some h) : held j h := by
    intro hw hwf hver hroom hbody
    rw [he]
    exact issueHint_held hadd hw hwf hver hroom hbody
  refine ⟨fun hn => holds rfl ?litlo, fun hn => holds rfl ?lithi, fun hn => holds rfl ?guard, fun hn => holds rfl ?mod, fun hn => holds rfl ?rnd,
    fun hn => holds rfl ?scope, fun hn => holds rfl ?cache, fun hn => holds rfl ?gap⟩ <;> simp [Hints.add, hn]

end Sys2Proof.Machine
end

section
/-! PROOF. A fetch through memory (spec/03 R63, spec/04 R105, spec/13 R320). -/

namespace Sys2Proof.Machine

/-! ### The bytes of a block -/

/-- A byte of a range that is read. -/
theorem getList_getElem? (m : Sparse 8) : ∀ (n k j : Nat), j < n → (Sparse.getList m k n)[j]? = some (m.get (k + j))
  | 0, _, _, h => absurd h (Nat.not_lt_zero _)
  | _ + 1, _, 0, _ => rfl
  | n + 1, k, j + 1, h => by
    rw [Sparse.getList, List.getElem?_cons_succ, getList_getElem? m n (k + 1) j (Nat.lt_of_succ_lt_succ h), Nat.add_right_comm, Nat.add_assoc]

/-- The byte at an address, in the block of 64 bytes around it. -/
theorem block_getD (s : State) (pa j : Nat) (h : pa % 64 + j < 64) :
    ((s.bytesAt (pa / 64 * 64) 64).drop (pa % 64)).getD j 0 = s.byteAt (pa + j) := by
  have hj : pa / 64 * 64 + (pa % 64 + j) = pa + j := by omega
  rw [List.getD_eq_getElem?_getD, List.getElem?_drop, State.bytesAt, getList_getElem? _ _ _ _ h, hj]
  rfl

/-- An aligned word stands in one block. -/
theorem wordOf4_block (s : State) {pa : Nat} (h : pa % 4 = 0) :
    wordOf4 ((s.bytesAt (pa / 64 * 64) 64).drop (pa % 64)) =
      wordOfBytes (s.byteAt pa) (s.byteAt (pa + 1)) (s.byteAt (pa + 2)) (s.byteAt (pa + 3)) := by
  rw [wordOf4, block_getD s pa 0 (by omega), block_getD s pa 1 (by omega), block_getD s pa 2 (by omega), block_getD s pa 3 (by omega)]
  rfl

/-! ### Where a word is fetched from -/

/-- HBM and SCM lie beside the on-chip map and the peers' windows (spec/01 R36). -/
theorem memory_near {pa : Nat} (h : inHbm pa = true ∨ inScm pa = true) : inOnchip pa = false ∧ inRemote pa = false := by
  simp only [inHbm, inScm, decide_eq_true_eq] at h
  simp only [inOnchip, inRemote, decide_eq_false_iff_not]
  omega

/-- An aligned block moves with the tile that it lies in. -/
theorem moving_block (s : State) (pa : Nat) : s.moving (pa / 64 * 64) = s.moving pa := by
  have ht : pa / 64 * 64 / 65536 = pa / 65536 := by omega
  have hs : inScm (pa / 64 * 64) = inScm pa := by simp only [inScm, decide_eq_decide]; omega
  rw [State.moving, State.moving, hs, ht]

/-- A comb that finds a way is read without a wait. -/
theorem combRead_ready {s : State} {pa : Nat} (col : Option Nat) (hs : s.stall = []) (hf : (s.fetchComb (pa / 1024)).stall = []) :
    (s.combRead pa col).stall = [] := by
  rw [combRead_stall]
  split <;> assumption

/-- A block that neither the task nor the instruction cache holds is read at the ordering point (spec/13 R320). -/
theorem readCode_memory {t : State} {core task pa : Nat} (hr : inRemote pa = false) (hv : t.version task = []) (hp : t.waiting task = [])
    (hc : (t.core core).icache.get? (pa / 64) = none) (hm : t.moving pa = false) (hs : t.stall = [])
    (hf : (t.fetchComb (pa / 1024)).stall = []) :
    (t.readCode core task pa).1.stall = [] ∧
      (t.readCode core task pa).2 = .word (wordOf4 ((t.bytesAt (pa / 64 * 64) 64).drop (pa % 64))) := by
  have hpoint : t.readPoint (pa / 64 * 64) 64 = (t, t.bytesAt (pa / 64 * 64) 64) := by
    rw [State.readPoint, moving_block, hm]; rfl
  have hread := combRead_again t pa none none (combRead_ready none hs hf)
  simp only [State.readCode, hr, hv, hp, hc, hpoint, List.any_nil, Bool.or_self, Bool.false_eq_true, if_false, fillIcache_stall, hread, and_self]

/-- Settles O5: the checks of the fetch pass, and the word is read from its block. -/
theorem fetchReadsMemory : Obligations.FetchReadsMemory := by
  intro s t slot w pc pa pte hx hexec hmem hmoving hok hmarks halign hs hv hp hc hf
  obtain ⟨hon, hr⟩ := memory_near hmem
  obtain ⟨hstall, hword⟩ := readCode_memory (core := coreOf slot) hr hv hp hc hmoving hs hf
  simp only [State.fetch, hx, hexec, hon, hr, hok, hmarks, hstall, hword, wordOf4_block t halign, Bool.not_true, Bool.not_false, Bool.and_false,
    Bool.false_eq_true, if_false, if_true]

end Sys2Proof.Machine
end

section
/-! PROOF. `vpwb` of a line that carries an error mark (spec/06 R170, spec/13 R328). -/

namespace Sys2Proof.Machine

/-- A wave of one lane, with the address 0x10000 in its first scalar pair. -/
def lineWave : Wave := Wave.start 1 0 0 0 loadedHeader 0 1 0x10000 [] 0

/-- That wave's word in issue; its page lies on the first tile of SCM, where persistence is accepted, and the page's first line is marked. -/
def lineIssue : State :=
  { State.reset.loaded with
    waves := [(0, lineWave)]
    issue := { slot := 0, lanes := 1, pc := 0x10040, first := 0x10040, held := Hints.empty, src := lineWave.regs, resumed := false }
    clusters := [(0, { State.reset.loaded.cluster 0 with tlb := [{ ctx := 0, level := 4, page := 1, entry := BitVec.ofNat 64 (2 ^ 56 + 0x8F) }] })]
    access := [{ base := 0, limit := 2 ^ 50, rd := true, wr := true }]
    regs := { State.reset.regs with featAccept := 9 }
    marks := [0x1000000000000] }

/-- The error marks of the groups in the write-back queues that an outcome leaves. -/
def queuedMarks : Host.Outcome State Fault Refusal → List (List Nat)
  | .next t => t.dies.flatMap fun e => e.2.wbq.map (·.marks)
  | _ => []

/-- Refutes O33: where the line of a `vpwb` is marked, the group that enters the write-back queue carries the mark to SCM; the statement's
group carries none, since it restores the marks of the coherent copy alone. -/
theorem not_vectorStores : ¬ Obligations.VectorStores := by
  intro h
  obtain ⟨-, -, -, -, hpwb⟩ := h ⟨0, false⟩ 0 0 0x7F .b8 lineIssue lineWave
  have hexec := hpwb (by decide +kernel) (by decide +kernel) _ _ ⟨Prod.ext (by decide +kernel) rfl, rfl⟩ (by decide +kernel)
  exact absurd (congrArg queuedMarks hexec) (by decide +kernel)

end Sys2Proof.Machine
end

section
/-! PROOF. The new values of the atomics (spec/06 R160, R162). -/

namespace Sys2Proof.Machine

/-! ### Values as registers -/

theorem leNat_leBytes : ∀ n v, leNat (leBytes n v) = v % 256 ^ n
  | 0, v => by rw [pow_zero, Nat.mod_one]; rfl
  | n + 1, v => by rw [leBytes, leNat, leNat_leBytes n, pow_succ', Nat.mod_mul, BitVec.toNat_ofNat]

theorem leNat_append : ∀ xs ys : List Byte, leNat (xs ++ ys) = leNat xs + 256 ^ xs.length * leNat ys
  | [], ys => by simp [leNat]
  | x :: xs, ys => by
    rw [List.cons_append, leNat, leNat, leNat_append xs ys, List.length_cons, pow_succ']
    ring

/-- The registers that hold a value of n bytes, low half first (spec/03 R79). -/
def wordsOf (n x : Nat) : List Word := (List.range (n / 4)).map fun j => BitVec.ofNat 32 (x / 2 ^ (32 * j))

@[simp] theorem wordsOf_length (n x : Nat) : (wordsOf n x).length = n / 4 := by simp [wordsOf]

theorem storeBytes_four (x : Word) (rs : List Word) : storeBytes 4 (x :: rs) = leBytes 4 x.toNat := by
  rw [storeBytes, List.flatMap_cons, List.take_left' (leBytes_length ..)]

theorem storeBytes_eight (x y : Word) (rs : List Word) : storeBytes 8 (x :: y :: rs) = leBytes 4 x.toNat ++ leBytes 4 y.toNat := by
  rw [storeBytes, List.flatMap_cons, List.flatMap_cons, ← List.append_assoc, List.take_left' (by simp [leBytes_length])]

/-- A value is read back from its registers, whatever registers follow. -/
theorem wordsAt_wordsOf {n v : Nat} (hn : n = 4 ∨ n = 8) (hv : v < 2 ^ (8 * n)) (rs : List Word) : wordsAt n 0 (wordsOf n v ++ rs) = v := by
  rcases hn with rfl | rfl
  · have hw : wordsOf 4 v = [BitVec.ofNat 32 v] := by simp [wordsOf]
    rw [wordsAt, List.drop_zero, hw, List.singleton_append, storeBytes_four, leNat_leBytes, BitVec.toNat_ofNat]
    omega
  · have hw : wordsOf 8 v = [BitVec.ofNat 32 v, BitVec.ofNat 32 (v / 2 ^ 32)] := by simp [wordsOf, List.range_succ]
    rw [wordsAt, List.drop_zero, hw, List.cons_append, List.singleton_append, storeBytes_eight, leNat_append, leNat_leBytes, leNat_leBytes,
      leBytes_length, BitVec.toNat_ofNat, BitVec.toNat_ofNat]
    omega

/-- The registers after those of a value. -/
theorem wordsAt_after (n v : Nat) (rs : List Word) : wordsAt n (n / 4) (wordsOf n v ++ rs) = wordsAt n 0 rs := by
  rw [wordsAt, List.drop_left' (wordsOf_length n v)]
  rfl

/-! ### Compare and swap, and the operations -/

theorem casFun_wordsOf {n o v swap : Nat} (hn : n = 4 ∨ n = 8) (hv : v < 2 ^ (8 * n)) (hs : swap < 2 ^ (8 * n)) :
    casFun n o (wordsOf n v ++ wordsOf n swap) = if o = v then some swap else none := by
  have hswap := wordsAt_wordsOf hn hs []
  rw [List.append_nil] at hswap
  rw [casFun, wordsAt_wordsOf hn hv, wordsAt_after, hswap]

theorem atomFun_wordsOf {n o v : Nat} (hn : n = 4 ∨ n = 8) (hv : v < 2 ^ (8 * n)) (op : AtomOp) :
    atomFun op n o (wordsOf n v) = some (AtomOp.new op n o v) := by
  have h := wordsAt_wordsOf hn hv []
  rw [List.append_nil] at h
  rw [atomFun, h]

theorem signedOf_min (n o v : Nat) : signedOf n (AtomOp.new .min n o v) = min (signedOf n o) (signedOf n v) := by
  rw [AtomOp.new, apply_ite (signedOf n), min_def]
  split_ifs <;> omega

theorem signedOf_max (n o v : Nat) : signedOf n (AtomOp.new .max n o v) = max (signedOf n o) (signedOf n v) := by
  rw [AtomOp.new, apply_ite (signedOf n), max_def]
  split_ifs <;> omega

/-- An integer operation stays in its width. -/
theorem atomNew_lt {n o v : Nat} (ho : o < 2 ^ (8 * n)) (hv : v < 2 ^ (8 * n)) {op : AtomOp} (hadd : op ≠ .fadd) (hmin : op ≠ .fmin)
    (hmax : op ≠ .fmax) : AtomOp.new op n o v < 2 ^ (8 * n) := by
  cases op with
  | add => exact Nat.mod_lt _ (Nat.two_pow_pos _)
  | fadd => exact absurd rfl hadd
  | fmin => exact absurd rfl hmin
  | fmax => exact absurd rfl hmax
  | and => exact Nat.and_lt_two_pow _ hv
  | or => exact Nat.or_lt_two_pow ho hv
  | xor => exact Nat.xor_lt_two_pow ho hv
  | exch => exact hv
  | min | max => simp only [AtomOp.new]; split <;> assumption
  | minu => exact lt_of_le_of_lt (Nat.min_le_left ..) ho
  | maxu => exact max_lt ho hv
  | incw =>
    simp only [AtomOp.new]
    split <;> omega

end Sys2Proof.Machine
end

section
/-! PROOF. The atomics on global memory and in a scratchpad, and `bfadd` (spec/06 R160 to R165). -/

namespace Sys2Proof.Machine

/-! ### Operands -/

theorem run_map {α : Type} (g : Nat → α) (first n : Nat) : (run first n).map g = (List.range n).map fun k => g (first + k) := List.map_map

/-- An operation of the table reads the registers of one value, in the 4-byte and in the 8-byte form (spec/03 R79). -/
theorem operandCount_op (b : Bool) : (if b then 2 else 1) * (if false then 2 else 1) = (if b then 8 else 4) / 4 := by cases b <;> rfl

/-- A compare and swap reads the registers of two values (spec/03 R79, spec/06 R162). -/
theorem operandCount_cas (b : Bool) : (if b then 2 else 1) * 2 = (if b then 8 else 4) / 2 := by cases b <;> rfl

/-! ### The release of an ordering -/

/-- The release that an ordering asks for leaves c: one that need not wait, or none. -/
def State.releasedFor (t : State) (w : Wave) (ord scope : Nat) (c : State) : Prop :=
  if 2 ≤ ord then t.released w scope = some c else c = t

theorem orderedRelease_released {t c : State} {w : Wave} {ord scope : Nat} {k : State → Did} (h : t.releasedFor w ord scope c) :
    orderedRelease t w ord scope k = k c := by
  unfold State.releasedFor at h
  unfold orderedRelease
  split at h
  · rw [if_pos ‹_›, releasing_released h]
  · rw [if_neg ‹_›, h]

/-! ### Global memory -/

/-- What a granted atomic on global memory leaves: its lanes' reads and writes, the old values in registers, and the acquire. -/
def State.atomDone (c : State) (w : Wave) (n : Nat) (f : AtomFun) (as : List Acc) (operand : Nat → List Word)
    (write : State → List (Nat × Nat) → State) (ord scope : Nat) : State :=
  let r := c.atomLanes w n f (as.map fun a => (a, operand a.lane))
  ((write r.state r.old).noteOwn w r.writes).atomAcquire ord scope

/-- An atomic whose accesses are granted and unmarked, and which no peer refuses. -/
theorem globalAtomic_granted {t u c : State} {w : Wave} {n : Nat} {f : AtomFun} {addr : List (Nat × Nat)} {as : List Acc}
    {operand : Nat → List Word} {write : State → List (Nat × Nat) → State} (ha : addr ≠ [])
    (hg : t.grants w n { rd := true, wr := true } none addr u as) (hm : u.markedLanes n 0 true as = [])
    (hc : (u.afterRemote w n as).releasedFor w t.issue.held.ord t.issue.held.scopeOr c)
    (hr : (c.atomLanes w n f (as.map fun a => (a, operand a.lane))).refused = []) :
    globalAtomic t w n f addr operand write = .done (c.atomDone w n f as operand write t.issue.held.ord t.issue.held.scopeOr) := by
  simp only [globalAtomic, if_neg ha, globalAccess_grants hg, hm, orderedRelease_released hc, hr, Did.orTrap, refusedLanes, List.map_nil,
    State.atomDone]

/-- A vector atomic on global memory whose accesses are granted. -/
theorem vatomGlobal_granted {q : Sched} {j : Instr} {vd : VReg} {voff : BitVec 7} {base : BitVec 5} {cas : Bool} {f : Nat → AtomFun}
    {s u c : State} {w : Wave} {as : List Acc} {count : Nat} (he : exec j s = vatomGlobal q j vd voff base cas f s)
    (hn : atomCount s.issue.held cas = count) (h : issues j s w = true)
    (ha : (s.issue.activeLanes.map fun l => (l, s.issue.globalVa base voff l)) ≠ [])
    (hg : (s.countWord w).grants w s.issue.atomBytes { rd := true, wr := true } none
      (s.issue.activeLanes.map fun l => (l, s.issue.globalVa base voff l)) u as)
    (hm : u.markedLanes s.issue.atomBytes 0 true as = [])
    (hc : (u.afterRemote w s.issue.atomBytes as).releasedFor w s.issue.held.ord s.issue.held.scopeOr c) :
    let operand (l : Nat) := (List.range count).map fun k => s.issue.src.lane (vd.toNat + k) l
    let y := c.atomDone w s.issue.atomBytes (f s.issue.atomBytes) as operand (putOld vd s.issue.atomBytes) s.issue.held.ord s.issue.held.scopeOr
    (c.atomLanes w s.issue.atomBytes (f s.issue.atomBytes) (as.map fun a => (a, operand a.lane))).refused = [] → y.stall = [] →
      exec j s = .next (s.after q (.done y)) := by
  intro operand y hr hs
  rw [he]
  refine issueWord_does h ?_ hs (by simp)
  simp only [countWord_issue, run_map, hn]
  rw [globalAtomic_granted ha hg hm (by rwa [countWord_issue]) hr, countWord_issue]

/-- With no active lane it changes nothing (spec/03 R68). -/
theorem vatomGlobal_idle {q : Sched} {j : Instr} {vd : VReg} {voff : BitVec 7} {base : BitVec 5} {cas : Bool} {f : Nat → AtomFun}
    {s : State} {w : Wave} (he : exec j s = vatomGlobal q j vd voff base cas f s) (h : issues j s w = true) (ha : s.issue.activeLanes = []) :
    completes j q s w fun c => c := by
  refine performs_of_does h he ?_ (issues_stall h) (by simp)
  rw [globalAtomic, if_pos (by simp only [countWord_issue, ha, List.map_nil])]

/-- A scalar atomic whose access is granted. -/
theorem scalarAtomic_granted {q : Sched} {j : Instr} {sd : SReg} {base : BitVec 5} {w64 cas : Bool} {f : Nat → AtomFun} {s u c : State}
    {w : Wave} {as : List Acc} {count : Nat} (he : exec j s = scalarAtomic q j sd base w64 cas f s)
    (hn : (if w64 then 2 else 1) * (if cas then 2 else 1) = count) (h : issues j s w = true) :
    let n := if w64 then 8 else 4
    let addr := [(s.issue.leader, (s.issue.src.pair (2 * base.toNat)).toNat)]
    let operand (_ : Nat) := (List.range count).map fun k => s.issue.src.scalar (sd.toNat + k)
    let y := c.atomDone w n (f n) as operand (putOldScalar sd n) s.issue.held.ord s.issue.held.scopeOr
    addr ≠ [] → (s.countWord w).grants w n { rd := true, wr := true } none addr u as → u.markedLanes n 0 true as = [] →
    (u.afterRemote w n as).releasedFor w s.issue.held.ord s.issue.held.scopeOr c →
    (c.atomLanes w n (f n) (as.map fun a => (a, operand a.lane))).refused = [] → y.stall = [] →
      exec j s = .next (s.after q (.done y)) := by
  intro n addr operand y ha hg hm hc hr hs
  rw [he]
  refine issueWord_does h ?_ hs (by simp)
  simp only [countWord_issue, run_map, hn]
  rw [globalAtomic_granted ha hg hm (by rwa [countWord_issue]) hr, countWord_issue]

/-! ### Scratchpads -/

/-- What a granted atomic in a scratchpad leaves: each lane in its order reads the old value and writes the new one, and the acquire follows. -/
def State.spadAtomDone (c : State) (n : Nat) (f : AtomFun) (as : List SpadAcc) (operand : Nat → List Word)
    (write : State → List (Nat × Nat) → State) (ord scope : Nat) : State :=
  let r := as.foldl (fun (a : State × List (Nat × Nat)) x =>
    let o := a.1.spadValue x.core x.off n
    (match f o (operand x.lane) with
     | some v => a.1.spadStore x.core x.off (leBytes n v)
     | none => a.1,
     a.2 ++ [(x.lane, o)])) (c, [])
  (write r.1 r.2).atomAcquire ord scope

theorem spadAtomic_granted {t c : State} {w : Wave} {j : Instr} {n : Nat} {f : AtomFun} {addr : List (Nat × Nat)} {as : List SpadAcc}
    {operand : Nat → List Word} {write : State → List (Nat × Nat) → State} (ha : addr ≠ []) (hg : t.grantsSpad w n true addr as)
    (hc : t.releasedFor w t.issue.held.ord (min t.issue.held.scopeOr 2) c) :
    spadAtomic t w j n f addr operand write =
      .done (c.spadAtomDone n f as operand write t.issue.held.ord (min t.issue.held.scopeOr 2)) := by
  simp only [spadAtomic, if_neg ha, spadAccess_grants hg, orderedRelease_released hc]
  rfl

/-- A vector atomic in a scratchpad whose accesses are granted. -/
theorem vatomSpad_granted {q : Sched} {j : Instr} {vd : VReg} {voff : BitVec 7} {base : BitVec 5} {cas : Bool} {f : Nat → AtomFun}
    {s c : State} {w : Wave} {as : List SpadAcc} {count : Nat} (he : exec j s = vatomSpad q j vd voff base cas f s)
    (hn : atomCount s.issue.held cas = count) (h : issues j s w = true) (ha : s.issue.activeLanes ≠ [])
    (hg : (s.countWord w).grantsSpad w s.issue.atomBytes true (s.issue.activeLanes.map fun l => (l, s.issue.spadVa base voff l)) as)
    (hc : (s.countWord w).releasedFor w s.issue.held.ord (min s.issue.held.scopeOr 2) c) :
    let y := c.spadAtomDone s.issue.atomBytes (f s.issue.atomBytes) as
      (fun l => (List.range count).map fun k => s.issue.src.lane (vd.toNat + k) l) (putOld vd s.issue.atomBytes) s.issue.held.ord
      (min s.issue.held.scopeOr 2)
    y.stall = [] → exec j s = .next (s.after q (.done y)) := by
  intro y hs
  rw [he]
  refine issueWord_does h ?_ hs (by simp)
  simp only [countWord_issue, run_map, hn]
  rw [spadAtomic_granted (by simpa using ha) hg (by rwa [countWord_issue]), countWord_issue]

/-- With no active lane it changes nothing (spec/03 R68). -/
theorem vatomSpad_idle {q : Sched} {j : Instr} {vd : VReg} {voff : BitVec 7} {base : BitVec 5} {cas : Bool} {f : Nat → AtomFun}
    {s : State} {w : Wave} (he : exec j s = vatomSpad q j vd voff base cas f s) (h : issues j s w = true) (ha : s.issue.activeLanes = []) :
    completes j q s w fun c => c := by
  refine performs_of_does h he ?_ (issues_stall h) (by simp)
  rw [spadAtomic, if_pos (by simp only [countWord_issue, ha, List.map_nil])]

/-! ### `bfadd` -/

/-- With no active lane `bfadd` changes nothing (spec/03 R68). -/
theorem bfadd_idle {q : Sched} {vd : VReg} {voff : BitVec 7} {base : BitVec 5} {s : State} {w : Wave}
    (h : issues (.bfadd q vd voff base) s w = true) (ha : s.issue.activeLanes = []) : completes (.bfadd q vd voff base) q s w fun c => c :=
  performs_of_does h (exec_bfadd ..) (if_pos (by simp only [countWord_issue, ha, List.map_nil])) (issues_stall h) (by simp)

/-- What a granted `bfadd` leaves: the addends of each block added in rounds, the status words, and the acquire. -/
def State.bfDone (c : State) (i : Issue) (vd : VReg) (as : List Acc) : State :=
  let ls : List BfLane := as.map fun a =>
    { lane := a.lane, block := a.pa / 64, elem := a.pa % 64 / 8 - 1, addend := i.src.lane vd.toNat a.lane }
  let x := State.bfBlocks ((c.commit i.slot).ordered i.slot) ls (ls.map (·.block)).eraseDups
  (x.1.putNow (.vec vd.toNat x.2)).atomAcquire i.held.ord i.held.scopeOr

/-- A `bfadd` whose addresses name mantissas of blocks that are granted and unmarked. -/
theorem bfadd_granted {q : Sched} {vd : VReg} {voff : BitVec 7} {base : BitVec 5} {s u c : State} {w : Wave} {as : List Acc}
    (h : issues (.bfadd q vd voff base) s w = true) (ha : s.issue.activeLanes ≠ [])
    (haligned : ∀ x ∈ s.issue.activeLanes.map fun l => (l, s.issue.globalVa base voff l), x.2 % 8 = 0 ∧ 8 ≤ x.2 % 64)
    (hg : (s.countWord w).checkLanes s.issue.slot w 8 8 0 { rd := true, wr := true, mside := true }
      (s.issue.activeLanes.map fun l => (l, s.issue.globalVa base voff l)) = (u, [], as))
    (hm : ∀ a ∈ as, u.marked (a.pa / 64 * 64) 64 = false) (hc : u.releasedFor w s.issue.held.ord s.issue.held.scopeOr c)
    (hs : (c.bfDone s.issue vd as).stall = []) :
    exec (.bfadd q vd voff base) s = .next (s.after q (.done (c.bfDone s.issue vd as))) := by
  rw [exec_bfadd]
  refine issueWord_does h ?_ hs (by simp)
  simp only [countWord_issue]
  have hnone : (s.issue.activeLanes.map fun l => (l, s.issue.globalVa base voff l)) ≠ [] := by simpa using ha
  generalize (s.issue.activeLanes.map fun l => (l, s.issue.globalVa base voff l)) = addr at haligned hg hnone
  have hgood : addr.filter (fun x => bfAligned x.2) = addr := List.filter_eq_self.2 fun x hx => decide_eq_true (haligned x hx)
  have hbad : addr.filter (fun x => !bfAligned x.2) = [] := List.filter_eq_nil_iff.2 fun x hx => by simp [bfAligned, haligned x hx]
  have hmarked : as.filter (fun a => u.marked (a.pa / 64 * 64) 64) = [] := List.filter_eq_nil_iff.2 fun a ham => by simp [hm a ham]
  simp only [hgood, hbad, hg, hmarked, if_neg hnone, List.map_nil, List.append_nil, Did.orTrap, orderedRelease_released hc]
  rfl

/-! ### The statement -/

/-- Settles O35: every form is one shared body on the operands at issue, and the new values are those of `AtomOp.new`. -/
theorem atomics : Obligations.Atomics := by
  refine ⟨?global, ?values, ?spad⟩
  case global =>
    intro q vd sd voff base w64 s w i t ord scope acts n m lanes regs sregs idle
    refine ⟨fun op => ⟨?vatom, vatomGlobal_idle (exec_vatom ..)⟩, ?vcas, vatomGlobal_idle (exec_vcas ..), fun op => ?satom, ?scas⟩
    case vatom => exact fun h ha u as c hg hm hc => vatomGlobal_granted (exec_vatom ..) (operandCount_op _) h ha hg hm hc
    case vcas => exact fun h ha u as c hg hm hc => vatomGlobal_granted (exec_vcas ..) (operandCount_cas _) h ha hg hm hc
    case satom => exact fun h ha u as c => scalarAtomic_granted (exec_satom ..) (operandCount_op _) h ha
    case scas => exact fun h ha u as c => scalarAtomic_granted (exec_scas ..) (operandCount_cas _) h ha
  case values =>
    intro n o v hn ho hv
    exact ⟨rfl, rfl, rfl, rfl, rfl, rfl, rfl, rfl, signedOf_min n o v, signedOf_max n o v, fun op => atomNew_lt ho hv, ⟨rfl, rfl, rfl⟩,
      fun swap hs => ⟨casFun_wordsOf hn hv hs, atomFun_wordsOf hn hv⟩⟩
  case spad =>
    intro q vd voff base s w i t ord n idle spad
    refine ⟨fun op => ⟨?vatoms, vatomSpad_idle (exec_vatoms ..)⟩, ?cas, vatomSpad_idle (exec_vatomsCas ..), ?bfaddIdle, ?bfadd⟩
    case vatoms => exact fun h ha as c hg hc => vatomSpad_granted (exec_vatoms ..) (operandCount_op _) h ha hg hc
    case cas => exact fun h ha as c hg hc => vatomSpad_granted (exec_vatomsCas ..) (operandCount_cas _) h ha hg hc
    case bfaddIdle => exact bfadd_idle
    case bfadd => exact fun h ha as c haligned hr => bfadd_granted h ha haligned (Prod.ext rfl hr)

end Sys2Proof.Machine
end

section
/-! PROOF. What the integer operations compute, in numbers (spec/04 R95, R96, R101, spec/05 R126, R131, R132). -/

namespace Sys2Proof.Machine

theorem add_eq_ofNat (x y : Word) : x + y = BitVec.ofNat 32 (x.toNat + y.toNat) := BitVec.add_eq ..

theorem sub_eq_ofInt (x y : Word) : x - y = BitVec.ofInt 32 (x.toInt - y.toInt) :=
  BitVec.eq_of_toInt_eq (by rw [BitVec.toInt_sub, BitVec.toInt_ofInt])

theorem mul_eq_ofNat (x y : Word) : x * y = BitVec.ofNat 32 (x.toNat * y.toNat) := BitVec.mul_eq ..

theorem shl_eq_ofNat (x y : Word) : x <<< shiftBy y = BitVec.ofNat 32 (x.toNat * 2 ^ (y.toNat % 32)) :=
  BitVec.eq_of_toNat_eq (by rw [BitVec.toNat_shiftLeft, BitVec.toNat_ofNat, Nat.shiftLeft_eq, shiftBy])

theorem shr_eq_ofNat (x y : Word) : x >>> shiftBy y = BitVec.ofNat 32 (x.toNat / 2 ^ (y.toNat % 32)) := by
  rw [shiftBy, ← Nat.shiftRight_eq_div_pow, ← BitVec.toNat_ushiftRight, BitVec.ofNat_toNat, BitVec.setWidth_eq]

theorem sra_eq_ofInt (x y : Word) : x.sshiftRight (shiftBy y) = BitVec.ofInt 32 (x.toInt / 2 ^ (y.toNat % 32)) := by
  have h : x.toInt / 2 ^ (y.toNat % 32) = (x.sshiftRight (shiftBy y)).toInt := by
    rw [BitVec.toInt_sshiftRight, Int.shiftRight_eq_div_pow, shiftBy]; norm_cast
  rw [h, BitVec.ofInt_toInt]

/-- Where equal keys stand for one word, the strict and the weak order choose the same of two words. -/
theorem ite_lt_eq_ite_le {α β : Type} [LinearOrder α] {a b : α} {x y : β} (h : a = b → x = y) :
    (if a < b then x else y) = if a ≤ b then x else y := by
  by_cases e : a = b
  · rw [h e, ite_self, ite_self]
  · exact if_congr (Ne.le_iff_lt e).symm rfl rfl

theorem minS_eq (x y : Word) : minS x y = if x.toInt ≤ y.toInt then x else y :=
  (if_congr BitVec.slt_iff_toInt_lt rfl rfl).trans (ite_lt_eq_ite_le BitVec.eq_of_toInt_eq)

theorem maxS_eq (x y : Word) : maxS x y = if x.toInt ≤ y.toInt then y else x :=
  (if_congr BitVec.slt_iff_toInt_lt rfl rfl).trans (ite_lt_eq_ite_le fun h => (BitVec.eq_of_toInt_eq h).symm)

theorem minU_eq (x y : Word) : minU x y = if x.toNat ≤ y.toNat then x else y :=
  (if_congr BitVec.ult_iff_toNat_lt rfl rfl).trans (ite_lt_eq_ite_le BitVec.eq_of_toNat_eq)

theorem maxU_eq (x y : Word) : maxU x y = if x.toNat ≤ y.toNat then y else x :=
  (if_congr BitVec.ult_iff_toNat_lt rfl rfl).trans (ite_lt_eq_ite_le fun h => (BitVec.eq_of_toNat_eq h).symm)

theorem addCarry_eq_ofNat (x y : Word) (c : Bool) :
    x + y + boolWord c = BitVec.ofNat 32 (x.toNat + y.toNat + if c then 1 else 0) := by
  rw [add_eq_ofNat x y]
  cases c
  · exact BitVec.add_zero _
  · exact (BitVec.ofNat_add ..).symm

theorem subBorrow_eq_ofInt (x y : Word) (c : Bool) :
    x - y - boolWord c = BitVec.ofInt 32 (x.toInt - y.toInt - (if c then 1 else 0 : Nat)) := by
  refine BitVec.eq_of_toInt_eq ?_
  have hc : (boolWord c).toInt = (if c then 1 else 0 : Nat) := by cases c <;> rfl
  rw [BitVec.toInt_sub, BitVec.toInt_sub, BitVec.toInt_ofInt, hc, Int.bmod_sub_bmod]

/-- The set bits are counted over the positions of the word. -/
theorem popCount_eq_countP {n : Nat} (x : BitVec n) : popCount x = (List.range n).countP fun j => x.getLsbD j :=
  List.countP_eq_length_filter.symm

/-- The leading zeros of a word are the positions above its length in bits. -/
theorem leadingZeros_eq (x : Word) : leadingZeros x = 32 - Nat.size x.toNat := by
  by_cases h : x = 0
  · simp [leadingZeros, h]
  · have h0 : x.toNat ≠ 0 := fun e => h (BitVec.eq_of_toNat_eq e)
    have hs : Nat.size x.toNat = Nat.log2 x.toNat + 1 := le_antisymm (Nat.size_le.2 Nat.lt_log2_self) (Nat.lt_size.2 (Nat.log2_self_le h0))
    rw [leadingZeros, if_neg h, hs]
    omega

/-- Halves put together are the upper one times 2^16. -/
theorem upperHalf_eq_ofNat (x : BitVec 16) : (x ++ (0 : BitVec 16) : Word) = BitVec.ofNat 32 (x.toNat * 65536) := by
  refine BitVec.eq_of_toNat_eq ?_
  rw [BitVec.toNat_append, BitVec.toNat_ofNat, Nat.shiftLeft_eq]
  have := x.isLt
  show x.toNat * 65536 ||| 0 = _
  rw [Nat.or_zero]
  omega

theorem addSigned_eq_ofInt (x : Word) (y : BitVec 16) : x + y.signExtend 32 = BitVec.ofInt 32 (x.toInt + y.toInt) := by
  refine BitVec.eq_of_toInt_eq ?_
  rw [BitVec.toInt_add, BitVec.toInt_ofInt, BitVec.toInt_signExtend_of_le (by decide)]

theorem eq_signExtend_iff (x : Word) (y : BitVec 16) : x = y.signExtend 32 ↔ x.toInt = y.toInt := by
  rw [← BitVec.toInt_inj, BitVec.toInt_signExtend_of_le (by decide)]

end Sys2Proof.Machine
end

section
/-! PROOF. The scalar instructions (spec/04 R93 to R101). -/

namespace Sys2Proof.Machine

/-- A word whose body is done with d, on the operands at issue. -/
theorem completes_of_does {i : Instr} {q : Sched} {s : State} {w : Wave} {body : State → Wave → Did} {d : State → State}
    (h : issues i s w = true) (he : exec i s = issueWord q i s body) (hb : body (s.countWord w) w = .done (d (s.countWord w)))
    (hs : (d (s.countWord w)).stall = []) : completes i q s w d :=
  performs_of_does h he hb hs (by simp)

/-- A scalar operation of latency 1 writes what it computes from the operands at issue. -/
theorem scaInt_completes {q : Sched} {i : Instr} {sd : SReg} {f : Issue → Word} {s : State} {w : Wave} {v : Word}
    (he : exec i s = scaInt q i sd f s) (hv : f s.issue = v) (h : issues i s w = true) :
    completes i q s w fun c => c.later 1 (.sca sd.toNat v) :=
  completes_of_does h he (by rw [countWord_issue, hv]) (issues_stall h)

/-- An operation that also writes `sc`. -/
theorem scaCarry_completes {q : Sched} {i : Instr} {sd : SReg} {f : Issue → Word} {g : Issue → Bool} {s : State} {w : Wave}
    {v : Word} {b : Bool} (he : exec i s = scaCarry q i sd f g s) (hv : f s.issue = v) (hb : g s.issue = b) (h : issues i s w = true) :
    completes i q s w fun c => (c.later 1 (.sca sd.toNat v)).later 1 (.cond b) :=
  completes_of_does h he (by rw [countWord_issue, hv, hb]) (issues_stall h)

/-- A compare writes `sc` alone. -/
theorem scalarTest_completes {q : Sched} {i : Instr} {g : Issue → Bool} {s : State} {w : Wave} {b : Bool}
    (he : exec i s = issueWord q i s fun t _ => .done (t.later 1 (.cond (g t.issue)))) (hb : g s.issue = b) (h : issues i s w = true) :
    completes i q s w fun c => c.later 1 (.cond b) :=
  completes_of_does h he (by rw [countWord_issue, hb]) (issues_stall h)

/-- Settles O16: each word is one of three shared operations, and its value in numbers is a lemma about the words. -/
theorem scalarIntegerResults : Obligations.ScalarIntegerResults := by
  refine ⟨?binary, ?others⟩
  case binary =>
    intro q sd sa b s w x y k n gives carries
    refine ⟨scaInt_completes (exec_sadd ..) (add_eq_ofNat x y), scaInt_completes (exec_ssub ..) (sub_eq_ofInt x y),
      scaInt_completes (exec_smul ..) (mul_eq_ofNat x y), scaInt_completes (exec_smulhi ..) rfl, scaInt_completes (exec_sand ..) rfl,
      scaInt_completes (exec_sor ..) rfl, scaInt_completes (exec_sxor ..) rfl, scaInt_completes (exec_sshl ..) (shl_eq_ofNat x y),
      scaInt_completes (exec_sshr ..) (shr_eq_ofNat x y), scaInt_completes (exec_ssra ..) (sra_eq_ofInt x y),
      scaInt_completes (exec_smin ..) (minS_eq x y), scaInt_completes (exec_smax ..) (maxS_eq x y),
      scaInt_completes (exec_sminu ..) (minU_eq x y), scaInt_completes (exec_smaxu ..) (maxU_eq x y),
      scaCarry_completes (exec_saddc ..) (addCarry_eq_ofNat x y _) rfl,
      scaCarry_completes (exec_ssubb ..) (subBorrow_eq_ofInt x y _) rfl⟩
  case others =>
    intro q sd sa b imm s w x y d o n gives tests
    refine ⟨fun cond => scalarTest_completes (g := fun i => ICond.eval cond (i.sa sa) (i.sint b)) (exec_scmp ..) rfl,
      scaInt_completes (exec_ssel ..) rfl, scaInt_completes (exec_smov ..) rfl,
      scaInt_completes (exec_spopc ..) (congrArg (BitVec.ofNat 32) (popCount_eq_countP y)),
      scaInt_completes (exec_sclz ..) (congrArg (BitVec.ofNat 32) (leadingZeros_eq y)),
      scaInt_completes (exec_sbfe ..) ?field, scaInt_completes (exec_smovi ..) rfl, scaInt_completes (exec_sori ..) ?upper,
      scaInt_completes (exec_saddi ..) (addSigned_eq_ofInt d imm),
      scalarTest_completes (g := fun i => decide (i.sa sd = imm.signExtend 32)) (exec_scmpi ..) (decide_eq_decide.2 (eq_signExtend_iff d imm))⟩
    case field =>
      rw [apply_ite (BitVec.ofNat 32)]
      rfl
    case upper => exact congrArg (d ||| ·) (upperHalf_eq_ofNat imm)

/-- A scalar float operation writes its rounded value and raises its flags. -/
theorem scaFloat_completes {q : Sched} {i : Instr} {lat : Nat} {sd : SReg} {f : Issue → Wave → Flagged Nat} {s : State} {w : Wave}
    (he : exec i s = scaFloat q i lat sd f s) (h : issues i s w = true) :
    completes i q s w fun c => (c.later lat (.sca sd.toNat (BitVec.ofNat 32 (f s.issue w).1))).raiseFlags (f s.issue w).2 :=
  completes_of_does h he (by rw [countWord_issue]) (issues_stall h)

/-- An FP32 operation on sa, b and sd. -/
theorem scaFp32_completes {q : Sched} {j : Instr} {o : FOp} {sd sa : SReg} {b : SSrc} {s : State} {w : Wave}
    (he : exec j s = scaFp32 q j o sd sa b s) (h : issues j s w = true) :
    let i := s.issue
    let r := FFmt.fp32.apply o i.held (i.mode w) (i.rsr w i.leader false) (i.src.scalar sa.toNat).toNat (i.sflt b) (i.src.scalar sd.toNat).toNat
    completes j q s w fun c => (c.later 1 (.sca sd.toNat (BitVec.ofNat 32 r.1))).raiseFlags r.2 := by
  rw [scaFp32] at he
  exact (scaFloat_completes he h :)

/-- Settles O18: every form but `drawm` is one scalar float operation on the operands at issue. -/
theorem scalarFloatResults : Obligations.ScalarFloatResults := by
  refine ⟨?rounded, ?merge⟩
  case rounded =>
    intro q sd sa b s w i m r writes op
    exact ⟨scaFp32_completes (exec_sfadd ..), scaFp32_completes (exec_sfmul ..), scaFp32_completes (exec_sffma ..),
      scaFp32_completes (exec_sfmin ..), scaFp32_completes (exec_sfmax ..), 
      fun h => (scaFloat_completes (exec_sfexp2 ..) h :), fun dst src h => (scaFloat_completes (exec_sfcvt ..) h :)⟩
  case merge =>
    intro q sd sa s w h
    refine completes_of_does h (exec_drawm ..) (by rw [countWord_issue]; rfl) ?_
    simp only [raiseFlags_stall, later_stall]
    exact issues_stall h

end Sys2Proof.Machine
end

section
/-! PROOF. The float vector instructions (spec/05 R127 to R130, R133 to R135). -/

namespace Sys2Proof.Machine

/-- A float vector operation gives each active lane its value and its flags, on the operands at issue. -/
theorem vecFloat_completes {q : Sched} {i : Instr} {lat : Nat} {vd : VReg} {f : Issue → Wave → Nat → Flagged Nat} {s : State} {w : Wave}
    (he : exec i s = vecFloat q i lat vd f s) (h : issues i s w = true) : completes i q s w fun c => c.vecFlagged lat vd (f s.issue w) :=
  completes_of_does h he (by rw [countWord_issue]) ((vecFlagged_stall ..).trans (issues_stall h))

/-- An FP32 operation on va, b and vd. -/
theorem fp32Op_completes {q : Sched} {j : Instr} {o : FOp} {vd va : VReg} {b : VSrc} {s : State} {w : Wave}
    (he : exec j s = fp32Op q j o vd va b s) (h : issues j s w = true) :
    let i := s.issue
    completes j q s w fun c => c.vecFlagged 4 vd fun l => FFmt.fp32.apply o i.held (i.mode w) (i.rsr w l false)
      (i.src.lane va.toNat l).toNat (i.vflt .fp32 b l) (i.src.lane vd.toNat l).toNat := by
  rw [fp32Op] at he
  exact (vecFloat_completes he h :)

/-- A packed-half operation on va, b and vd. -/
theorem halfOp_completes {q : Sched} {j : Instr} {o : FOp} {vd va : VReg} {b : VSrc} {s : State} {w : Wave}
    (he : exec j s = halfOp q j o vd va b s) (h : issues j s w = true) :
    let i := s.issue
    completes j q s w fun c => c.vecFlagged 8 vd fun l =>
      packed (fun r x y z => i.held.half.apply o i.held (i.mode w) r x y z) (i.rsr w l false) (i.rsr w l true)
        (i.src.lane va.toNat l).toNat (i.vhalf i.held.half b l) (i.src.lane vd.toNat l).toNat := by
  rw [halfOp] at he
  exact (vecFloat_completes he h :)

/-- Settles O13: each form is one operation in FP32, or in both halves. -/
theorem vectorFloatResults : Obligations.VectorFloatResults := by
  intro q vd va b s w i x z full half
  exact ⟨fp32Op_completes (exec_vfadd ..), fp32Op_completes (exec_vfsub ..), fp32Op_completes (exec_vfmul ..),
    fp32Op_completes (exec_vffma ..), fp32Op_completes (exec_vfmin ..), fp32Op_completes (exec_vfmax ..),
    halfOp_completes (exec_vhfma ..), halfOp_completes (exec_vhadd ..), halfOp_completes (exec_vhmul ..)⟩

/-- A function of one operand gives each active lane its value, or both halves theirs after eight cycles. -/
theorem unaryOp_completes {q : Sched} {j : Instr} {p : Bool} {lat : Nat} {vd : VReg} {b : VSrc}
    {g : FFmt → RMode → Nat → Nat → Flagged Nat} {s : State} {w : Wave} (he : exec j s = unaryOp q j p lat vd b g s) (h : issues j s w = true) :
    let i := s.issue
    completes j q s w fun c =>
      if p then c.vecFlagged 8 vd fun l =>
        packed (fun r x _ _ => g i.held.half (i.mode w) r x) (i.rsr w l false) (i.rsr w l true) (i.vhalf i.held.half b l) 0 0
      else c.vecFlagged lat vd fun l => g .fp32 (i.mode w) (i.rsr w l false) (i.vflt .fp32 b l) := by
  cases p
  · rw [unaryOp, if_neg Bool.false_ne_true] at he
    exact (vecFloat_completes he h :)
  · rw [unaryOp, if_pos rfl] at he
    exact (vecFloat_completes he h :)

/-- A correctly rounded function. -/
theorem funOp_completes {q : Sched} {j : Instr} {p : Bool} {vd : VReg} {b : VSrc} {f : FFun} {s : State} {w : Wave}
    (he : exec j s = funOp q j p f vd b s) (h : issues j s w = true) :
    let i := s.issue
    let g (fmt : FFmt) (r x : Nat) := fmt.finish (i.mode w) false r (f.eval (fmt.decode x))
    completes j q s w fun c =>
      if p then c.vecFlagged 8 vd fun l =>
        packed (fun r x _ _ => g i.held.half r x) (i.rsr w l false) (i.rsr w l true) (i.vhalf i.held.half b l) 0 0
      else c.vecFlagged 8 vd fun l => g .fp32 (i.rsr w l false) (i.vflt .fp32 b l) := by
  rw [funOp] at he
  exact (unaryOp_completes he h :)

/-- Settles O14: each form but `vcvt` is one function of one operand. -/
theorem vectorFunctionResults : Obligations.VectorFunctionResults := by
  intro q packed_ vd b s w i m gives function
  exact ⟨fun h => (funOp_completes (exec_vfrcp ..) h :), fun h => (funOp_completes (exec_vfrsq ..) h :),
    fun h => (funOp_completes (exec_vfsqrt ..) h :), fun h => (funOp_completes (exec_vfexp2 ..) h :),
    fun h => (funOp_completes (exec_vflog2 ..) h :), fun h => (funOp_completes (exec_vfsin ..) h :),
    fun h => (funOp_completes (exec_vfcos ..) h :), fun h => (funOp_completes (exec_vftanh ..) h :),
    fun h => (unaryOp_completes (exec_vfrnd ..) h :), fun h => (unaryOp_completes (exec_vfclass ..) h :),
    fun dst src sel h => (vecFloat_completes (exec_vcvt ..) h :)⟩

end Sys2Proof.Machine
end

section
/-! PROOF. Moves of bits, compares and `vshfl` (spec/05 R130 to R132, R136, R137). -/

namespace Sys2Proof.Machine

/-! ### What the moves compute, in numbers -/

theorem not_eq_ofNat (x : Word) : ~~~x = BitVec.ofNat 32 (2 ^ 32 - 1 - x.toNat) :=
  BitVec.eq_of_toNat_eq (by rw [BitVec.toNat_not, BitVec.toNat_ofNat, Nat.mod_eq_of_lt (by omega)])

theorem neg_eq_ofInt (x : Word) : 0 - x = BitVec.ofInt 32 (-x.toInt) := by
  rw [BitVec.ofInt_neg, BitVec.ofInt_toInt]
  exact BitVec.zero_sub x

theorem abs_eq_ofNat (x : Word) : (if x.msb then 0 - x else x) = BitVec.ofNat 32 x.toInt.natAbs := by
  rw [← BitVec.ofInt_natCast]
  cases hm : x.msb
  · have hx : ((x.toInt.natAbs : Nat) : Int) = x.toInt := Int.natAbs_of_nonneg (BitVec.toInt_nonneg_of_msb_false hm)
    rw [hx, BitVec.ofInt_toInt]
    rfl
  · have hx : ((x.toInt.natAbs : Nat) : Int) = -x.toInt := Int.ofNat_natAbs_of_nonpos (BitVec.toInt_neg_of_msb_true hm).le
    rw [hx, ← neg_eq_ofInt]
    rfl

/-- A field of one word above a field of another. -/
theorem toNat_fields (x y : Word) (a b m n : Nat) :
    (y.extractLsb' a m ++ x.extractLsb' b n).toNat = (y.toNat >>> a % 2 ^ m) <<< n ||| x.toNat >>> b % 2 ^ n := by
  rw [BitVec.toNat_append, BitVec.extractLsb'_toNat, BitVec.extractLsb'_toNat]

/-- The low half of one word above the low half of another. -/
theorem pack_eq_append (x y : Word) : (y <<< 16) ||| (x &&& 0xFFFF) = (y.extractLsb' 0 16 ++ x.extractLsb' 0 16 : Word) := by
  have hx : x.toNat &&& 0xFFFF = x.toNat % 2 ^ 16 := Nat.and_two_pow_sub_one_eq_mod _ 16
  have hy : y.toNat <<< 16 % 2 ^ 32 = (y.toNat % 2 ^ 16) <<< 16 := by rw [Nat.shiftLeft_eq, Nat.shiftLeft_eq]; omega
  refine BitVec.eq_of_toNat_eq ?_
  calc ((y <<< 16) ||| (x &&& 0xFFFF)).toNat = (y.toNat <<< 16 % 2 ^ 32) ||| (x.toNat &&& 0xFFFF) := rfl
    _ = (y.toNat % 2 ^ 16) <<< 16 ||| x.toNat % 2 ^ 16 := by rw [hx, hy]
    _ = _ := (toNat_fields x y 0 0 16 16).symm

/-- The sign of one word above the magnitude of another. -/
theorem copySign_eq_append (x y : Word) : (x &&& 0x7FFFFFFF) ||| (y &&& 0x80000000) = (y.extractLsb' 31 1 ++ x.extractLsb' 0 31 : Word) := by
  have hx : x.toNat &&& 0x7FFFFFFF = x.toNat % 2 ^ 31 := Nat.and_two_pow_sub_one_eq_mod _ 31
  have hy : y.toNat &&& 0x80000000 = (y.toNat >>> 31 % 2 ^ 1) <<< 31 := by
    rw [show 0x80000000 = 2 ^ 31 from rfl, Nat.and_two_pow, Nat.toNat_testBit, Nat.shiftRight_eq_div_pow, Nat.shiftLeft_eq, pow_one]
  refine BitVec.eq_of_toNat_eq ?_
  calc ((x &&& 0x7FFFFFFF) ||| (y &&& 0x80000000)).toNat = (x.toNat &&& 0x7FFFFFFF) ||| (y.toNat &&& 0x80000000) := rfl
    _ = (y.toNat >>> 31 % 2 ^ 1) <<< 31 ||| x.toNat % 2 ^ 31 := by rw [hx, hy, Nat.or_comm]
    _ = _ := (toNat_fields x y 31 0 1 31).symm

/-! ### The words -/

/-- An integer vector operation gives each active lane what it computes from the operands at issue. -/
theorem vecInt_completes {q : Sched} {i : Instr} {vd : VReg} {f : Issue → Nat → Word} {s : State} {w : Wave} {g : Nat → Word}
    (he : exec i s = vecInt q i vd f s) (hg : ∀ l, f s.issue l = g l) (h : issues i s w = true) :
    completes i q s w fun c => c.vecResult 2 vd g :=
  completes_of_does h he (by rw [countWord_issue, funext hg]) ((vecResult_stall ..).trans (issues_stall h))

/-- A move of bits in a float operation format. -/
theorem vecBits_completes {q : Sched} {i : Instr} {vd : VReg} {f : Issue → Nat → Word} {s : State} {w : Wave} {g : Nat → Word}
    (he : exec i s = vecBits q i vd f s) (hg : ∀ l, f s.issue l = g l) (h : issues i s w = true) :
    completes i q s w fun c => c.vecResult 4 vd g :=
  completes_of_does h he (by rw [countWord_issue, funext hg]) ((vecResult_stall ..).trans (issues_stall h))

/-- Settles O11: each form is one shared operation, and its value in numbers is a lemma about words. -/
theorem vectorMoveResults : Obligations.VectorMoveResults := by
  intro q vd va b s w x y o k float gives
  exact ⟨vecInt_completes (exec_vmov ..) fun l => rfl, vecInt_completes (exec_vnot ..) fun l => not_eq_ofNat (y l),
    vecInt_completes (exec_vneg ..) fun l => neg_eq_ofInt (y l), vecInt_completes (exec_vabs ..) fun l => abs_eq_ofNat (y l),
    vecInt_completes (exec_vpopc ..) fun l => congrArg (BitVec.ofNat 32) (popCount_eq_countP (y l)),
    vecInt_completes (exec_vclz ..) fun l => congrArg (BitVec.ofNat 32) (leadingZeros_eq (y l)),
    vecInt_completes (exec_vbrev ..) fun l => rfl, vecInt_completes (exec_vbfe ..) fun l => rfl,
    vecInt_completes (exec_vbfi ..) fun l => rfl, vecInt_completes (exec_vbcast ..) fun l => rfl,
    vecBits_completes (exec_vsel ..) fun l => rfl, vecBits_completes (exec_vpack2 ..) fun l => pack_eq_append (x l) (y l),
    vecBits_completes (exec_vcopysign ..) fun l => congrArg (ite _ _) (copySign_eq_append (x l) (float l))⟩

/-- A compare writes the bits of the active lanes, and nothing where no lane is active. -/
theorem compare_completes {q : Sched} {i : Instr} {lat : Nat} {md : BitVec 4} {f : Issue → Nat → Bool} {s : State} {w : Wave}
    (he : exec i s = issueWord q i s fun t x => .done (t.compare lat md x (f t.issue))) (h : issues i s w = true) :
    completes i q s w fun c => if s.issue.activeLanes = [] then c
      else c.laterMask lat md.toNat ((w.maskFinal md.toNat &&& ~~~s.issue.active) ||| maskOf (s.issue.activeLanes.filter (f s.issue))) := by
  have hc (c : State) (hi : c.issue = s.issue) : c.compare lat md w (f c.issue) = if s.issue.activeLanes = [] then c
      else c.laterMask lat md.toNat ((w.maskFinal md.toNat &&& ~~~s.issue.active) ||| maskOf (s.issue.activeLanes.filter (f s.issue))) := by
    rw [State.compare, hi]
  refine completes_of_does h he (congrArg Did.done (hc _ (countWord_issue s w))) ?_
  rw [← hc _ (countWord_issue s w), compare_stall]
  exact issues_stall h

/-- Settles O15: the compares are one operation, and `vshfl` reads the operands at issue. -/
theorem compareAndShuffleResults : Obligations.CompareAndShuffleResults := by
  intro q vd va md b s w i kept result
  refine ⟨fun cond => ?integer, fun cond => ?float, fun mode h => ?shuffle⟩
  case integer => exact compare_completes (f := fun i l => ICond.eval cond (i.va va l) (i.vint b l)) (exec_vcmp ..)
  case float =>
    exact compare_completes (f := fun i l => FCond.eval cond (i.held.modA (FFmt.fp32.decode (i.va va l).toNat))
      (i.held.modB (FFmt.fp32.decode (i.vflt .fp32 b l)))) (exec_vfcmp ..)
  case shuffle =>
    refine completes_of_does h (exec_vshfl ..) ?_ ?_
    · simp only [countWord_issue, i, apply_ite (s.issue.src.lane va.toNat)]
      rfl
    · split_ifs <;> exact issues_stall h

end Sys2Proof.Machine
end

section
/-! PROOF. The cross-lane moves, the folds and the draw (spec/05 R138 to R140, R144 to R146). -/

namespace Sys2Proof.Machine

/-- A cross-lane instruction acts where a lane is active, and changes nothing else. -/
theorem crossOp_completes {q : Sched} {i : Instr} {f : State → Wave → State} {g : State → State} {s : State} {w : Wave}
    (he : exec i s = crossOp q i f s) (hg : ∀ c : State, c.issue = s.issue → f c w = g c) (hs : ∀ c : State, c.stall = [] → (g c).stall = [])
    (h : issues i s w = true) : completes i q s w fun c => if s.issue.activeLanes = [] then c else g c := by
  refine completes_of_does h he (by rw [countWord_issue, hg _ (countWord_issue s w)]) ?_
  split_ifs
  · exact issues_stall h
  · exact hs _ (issues_stall h)

/-- A lane access acts where a lane is active, and always inside a handler. -/
theorem laneOp_completes {q : Sched} {i : Instr} {f : State → Wave → State} {g : State → State} {s : State} {w : Wave}
    (he : exec i s = laneOp q i f s) (hg : ∀ c : State, c.issue = s.issue → f c w = g c) (hs : ∀ c : State, c.stall = [] → (g c).stall = [])
    (h : issues i s w = true) : completes i q s w fun c => if s.issue.activeLanes = [] ∧ w.handler = none then c else g c := by
  refine completes_of_does h he (by rw [countWord_issue, hg _ (countWord_issue s w)]) ?_
  split_ifs
  · exact issues_stall h
  · exact hs _ (issues_stall h)

theorem crossResult_stall (s : State) (w : Wave) (l : Landing) : (s.crossResult w l).stall = s.stall := by
  unfold State.crossResult
  split <;> rfl

/-- Settles O20: three cross-lane operations and two lane accesses, on the operands at issue. -/
theorem crossLaneResults : Obligations.CrossLaneResults := by
  intro q sd sl sb vd va md s w i x on n acts put
  refine ⟨?vrfl, ?vballot, ?vmatch, ?vrdln, ?vwrln⟩
  case vrfl => exact crossOp_completes (exec_vrfl ..) (fun c hc => by rw [hc]; rfl) fun c hc => hc
  case vballot => exact crossOp_completes (exec_vballot ..) (fun c hc => by rw [hc]; rfl) fun c hc => hc
  case vmatch => exact crossOp_completes (exec_vmatch ..) (fun c hc => by rw [hc]; rfl) fun c hc => hc
  case vrdln =>
    exact laneOp_completes (exec_vrdln ..) (fun c hc => by rw [hc]; rfl) fun c hc => (crossResult_stall c w _).trans hc
  case vwrln =>
    refine laneOp_completes (exec_vwrln ..) (fun c hc => by rw [hc]; rfl) fun c hc => ?_
    split_ifs
    · exact (crossResult_stall c w _).trans hc
    · exact hc

/-- Settles O21: two folds over the active lanes, and the draw over them. -/
theorem foldResults : Obligations.FoldResults := by
  intro q sd sc excl fl op vd va s w i on parts out coin
  refine ⟨?vredu, ?vscan, fun h => ?vdraw⟩
  case vredu =>
    refine crossOp_completes (exec_vredu ..) (fun c hc => by rw [hc] <;> rfl) fun c hc => ?_
    split <;> exact hc
  case vscan =>
    refine crossOp_completes (exec_vscan ..) (fun c hc => ?_) fun c hc => hc
    rw [hc]
    refine congrArg₂ (fun x f => (c.later 6 (.vec vd.toNat x)).raiseFlags f) (List.map_congr_left fun r _ => ?value)
      (congrArg (List.foldl · 0 parts) (funext₂ fun f r => ?flags))
    all_goals
      obtain ⟨l, before, own⟩ := r
      cases before <;> rfl
  case vdraw =>
    refine completes_of_does h (exec_vdraw ..) ?_ ?_
    · simp only [countWord_issue, Issue.va, coinBits, i, on, coin]
      generalize drawLanes _ _ _ _ _ = r
      cases r <;> rfl
    · split
      · exact issues_stall h
      · simp only [raiseFlags_stall, putNow_stall]
        exact issues_stall h

end Sys2Proof.Machine
end

section
/-! PROOF. Jumps, the small control words, `tret` and `scan` (spec/04 R103, R104, R108 to R111, R113, R115, R118). -/

namespace Sys2Proof.Machine

/-! ### Jumps, calls and returns -/

/-- Settles O23: each body reads the operands at issue, and none of its outcomes stalls or waits. -/
theorem jumpsMoveLanes : Obligations.JumpsMoveLanes := by
  intro q off va s w i ls target stack raise
  refine ⟨fun h => ?jmp, fun h => ?brx, fun h => ?call, fun h => ?ret⟩
  case jmp => exact performs_of_does h (exec_jmp q off s) (by rw [countWord_issue]; rfl) (issues_stall h) (by simp)
  case brx => exact performs_of_does h (exec_brx q va s) (by rw [countWord_issue]; rfl) (issues_stall h) (by simp)
  case call =>
    exact performs_of_does h (exec_call q off s) (by rw [callTo, countWord_issue]; rfl) (orTrap_stall (issues_stall h) (issues_stall h))
      (orTrap_wait (by simp))
  case ret =>
    exact performs_of_does h (exec_ret q s) (by rw [countWord_issue]; rfl) (orTrap_stall (issues_stall h) (issues_stall h))
      (orTrap_wait (by simp))

/-! ### Regions -/

/-- Settles O25: each body is read on the operands at issue; the table's answer decides what `idem` does, and the check of its address what `sleep`
does. -/
theorem smallControlWords : Obligations.SmallControlWords := by
  refine ⟨?simple, ?idem, ?sleep⟩
  case simple =>
    intro q s w i
    refine ⟨fun h => ?nop, fun h => ?yield, fun h => ?isync, fun h => ?ppt, fun r hr hl ho h => ?idemend⟩
    case nop => exact completes_of_does h (exec_nop q s) rfl (issues_stall h)
    case yield => exact completes_of_does h (exec_yield q s) (by rw [countWord_issue]) (issues_stall h)
    case isync => exact completes_of_does h (exec_isync q s) (by rw [countWord_issue]) (issues_stall h)
    case ppt =>
      have hpend (k : Nat) (x : Team) :
          (k ≠ 2 ∨ x.saving = true ∨ x.discarding = true) ↔ ¬(k = 2 ∧ x.saving = false ∧ x.discarding = false) := by
        simp [imp_iff_not_or]
      refine completes_of_does h (exec_ppt q s) ?_ ?_
      · simp only [countWord_issue, hpend, ite_not]
        rfl
      · dsimp only
        split
        · exact issues_stall h
        · split_ifs <;> exact issues_stall h
    case idemend =>
      refine completes_of_does h (exec_idemend q s) ?_ (issues_stall h)
      simp only [countWord_issue, hr]
      exact if_neg (not_or.2 ⟨not_not_intro hl, not_not_intro ho⟩)
  case idem =>
    intro q s w h i r open_
    refine ⟨fun hl => ?refused, fun ho hn => ?unlisted, fun cause info ho he => ?fault, fun stop ho hf => ?opens⟩
    case refused =>
      refine performs_of_raise h (exec_idem q s) ?_
      simp only [countWord_issue]
      exact if_pos hl
    all_goals
      obtain ⟨hl, hr, hs⟩ := ho
      have hin : ¬(s.issue.lanes ≠ w.liveLanes ∨ w.region.isSome = true) := not_or.2 ⟨not_not_intro hl, by simp [hr]⟩
    case unlisted =>
      have hn : ((s.countWord w).regionAt s.issue.slot w (s.issue.offset w)).2 = .ok none := hn
      refine performs_of_does h (exec_idem q s) ?_ (orTrap_left_stall hs) (orTrap_wait (by simp))
      simp only [countWord_issue, if_neg hin, hn]
      rfl
    case fault =>
      have he : ((s.countWord w).regionAt s.issue.slot w (s.issue.offset w)).2 = .error (cause, info) := he
      refine performs_of_does h (exec_idem q s) ?_ (orTrap_left_stall hs) (orTrap_wait (by simp))
      simp only [countWord_issue, if_neg hin, he]
      rfl
    case opens =>
      have hf : ((s.countWord w).regionAt s.issue.slot w (s.issue.offset w)).2 = .ok (some stop) := hf
      refine completes_of_does h (exec_idem q s) ?_ hs
      simp only [countWord_issue, if_neg hin, hf]
      rfl
  case sleep =>
    intro q n b s w h i clus time r hs
    refine performs_of_does h (exec_sleep q n b s) ?same ?stall ?nowait
    case same =>
      simp only [countWord_issue] <;> rfl
    case stall =>
      split
      · exact orTrap_left_stall hs
      · exact hs
    case nowait =>
      split
      · exact orTrap_wait (by simp)
      · simp

/-! ### `tret` and `scan` -/

/-- The saved status of a handler is legal (spec/11 R275). -/
theorem statusOk_iff (w : Wave) : w.statusOk = true ↔ w.tsw.toNat / 2 ^ 20 = 0 ∧ 1 ≤ w.tsw.toNat % 256 ∧ w.tsw.toNat % 256 ≤ 0x13 ∧
    w.epc.toNat % 4 = 0 ∧ w.epc.toNat / 2 ^ 52 = 0 := decide_eq_true_iff

/-- The end of a handler whose status is legal. -/
theorem endHandler_leaves {q : Sched} {i : Instr} {f : State → Wave → Handler → State} {s : State} {w : Wave} {x : Handler}
    {d : State → State} (he : exec i s = endHandler q i f s) (h : issues i s w = true) (hw : w.handler = some x) (hk : w.statusOk = true)
    (hd : f (s.countWord w) w x = d (s.countWord w)) (hs : (d (s.countWord w)).stall = []) :
    performs i q s w fun c => .left (d c) :=
  performs_of_does h he (by simp only [hw, hk, if_true, hd]) hs (by simp)

/-- Outside a handler its end raises ILLEGAL_RETURN. -/
theorem endHandler_outside {q : Sched} {i : Instr} {f : State → Wave → Handler → State} {s : State} {w : Wave}
    (he : exec i s = endHandler q i f s) (hp : Instr.perLane i = true) (hw : w.handler = none) (h : issues i s w = true) :
    performs i q s w fun c => Did.orTrap c (bundleRaise s.issue.lanes cIllegalReturn 0) (.left c) :=
  performs_of_raise h he (by simp only [hw, countWord_issue, Issue.raiseAll, Issue.raising, hp, if_true])

/-- With an illegal status the end of a handler raises BAD_STATUS. -/
theorem endHandler_badStatus {q : Sched} {i : Instr} {f : State → Wave → Handler → State} {s : State} {w : Wave}
    (he : exec i s = endHandler q i f s) (hp : Instr.perLane i = true) (hw : w.handler.isSome = true) (hk : w.statusOk = false)
    (h : issues i s w = true) : performs i q s w fun c => Did.orTrap c (bundleRaise s.issue.lanes cBadStatus 0) (.left c) := by
  obtain ⟨x, hx⟩ := Option.isSome_iff_exists.1 hw
  exact performs_of_raise h he (by
    simp only [hx, hk, countWord_issue, Issue.raiseAll, Issue.raising, hp, if_true, Bool.false_eq_true, if_false])

/-- Settles O27: both words are one end of a handler. -/
theorem handlerReturns : Obligations.HandlerReturns := by
  intro q s w raise legal
  have hbad (hl : ¬legal) : w.statusOk = false := Bool.eq_false_iff.2 fun hk => hl ((statusOk_iff w).1 hk)
  refine ⟨fun x h hw hl => ?resume, fun x h hw hl hs => ?abort, fun hw => ⟨?_, ?_⟩, fun hw hl => ⟨?_, ?_⟩⟩
  case resume => exact endHandler_leaves (exec_tret q s) h hw ((statusOk_iff w).2 hl) rfl (issues_stall h)
  case abort => exact endHandler_leaves (exec_tretAbort q s) h hw ((statusOk_iff w).2 hl) (by rw [countWord_issue]) hs
  · exact endHandler_outside (exec_tret q s) rfl hw
  · exact endHandler_outside (exec_tretAbort q s) rfl hw
  · exact endHandler_badStatus (exec_tret q s) rfl hw (hbad hl)
  · exact endHandler_badStatus (exec_tretAbort q s) rfl hw (hbad hl)

/-- Counting a word changes no context. -/
theorem countWord_context (s : State) (w : Wave) (k : Nat) : (s.countWord w).context k = s.context k := by
  unfold State.countWord
  split <;> rfl

theorem countWord_scanning (s : State) (w : Wave) : (s.countWord w).scanning = s.scanning := by
  unfold State.countWord
  split <;> rfl

/-- Settles O30: the privilege of the context decides, and then whether a request is held. -/
theorem scanNeedsPrivilege : Obligations.ScanNeedsPrivilege := by
  intro q sa s w h
  refine ⟨fun hp => ?refused, fun hp hh => ?held, fun hp hh hs => ?posted⟩
  case refused =>
    refine performs_of_raise h (exec_scan q sa s) ?_
    simp only [countWord_context, countWord_issue, hp, Bool.not_false, if_true]
    rfl
  case held =>
    refine completes_of_does h (exec_scan q sa s) ?_ (issues_stall h)
    simp only [countWord_context, countWord_scanning, hp, hh, Bool.not_true, Bool.false_eq_true, if_true, if_false]
  case posted =>
    refine completes_of_does h (exec_scan q sa s) ?_ hs
    simp only [countWord_context, countWord_scanning, countWord_issue, hp, hh, Bool.not_true, Option.isSome_none, Bool.false_eq_true, if_false]

end Sys2Proof.Machine
end

section
/-! PROOF. What a step runs (spec/04 R105, spec/12 R312, R313). -/

namespace Sys2Proof.Machine

theorem decodeFields_of_decode {v : Word} {i : Instr} (h : decode v = .ok i) : decodeFields v.toNat = some i := by
  unfold decode at h
  split at h
  · cases h
  · rename_i hi
    split_ifs at h
    exact hi.trans (congrArg some (Except.ok.inj h))

/-- A wave whose fetch gives a word that decodes issues that instruction, at the state that the fetch leaves. -/
theorem issueWave_decoded {s : State} {slot : Nat} {w x : Wave} {v : Word} {i : Instr} {f : State}
    (hx : (s.prepare slot w).waves.get? slot = some x)
    (hf : (s.prepare slot w).fetch slot x (s.prepare slot w).issue.pc = (f, .word v)) (hd : decode v = .ok i) :
    s.issueWave slot w = .run i f := by
  simp only [State.issueWave, hx, hf, decodeFields_of_decode hd]

/-- A core picks no wave while one of its waves is to be tried. -/
theorem toProbe_of_pick {s : State} {core : Nat} {x : Nat × Wave} (h : s.pick core = some x) : s.toProbe core = none := by
  unfold State.pick at h
  split at h
  · cases h
  · simp_all

/-! ### What a step plans, in the order of precedence -/

section
variable {s : State} (hr : s.stopped = false)
include hr

/-- A team whose save or discard has come due, or whose discard ends unfinished, comes first. -/
theorem plan_stopDue {x : Nat × Team} (h : s.stopDue? = some x) : s.plan = .rest (s.setTeam x.1 x.2) := by
  simp only [State.plan, hr, h, Bool.false_eq_true, if_false]

variable (ht : s.stopDue? = none) (hh : s.wakes.find? s.handlerWake = none) (hw : s.firstWake s.wakes = none)
include ht hh hw

/-- A timeout that is due comes next. -/
theorem plan_due {e : Instr} (h : s.due? = some e) : s.plan = .run e { s with tried := e :: s.tried } := by
  simp only [State.plan, hr, ht, hh, hw, h, Bool.false_eq_true, if_false]

/-- Then the turn at the head of the agenda. -/
theorem plan_turn {t : Turn} {rest : List Turn} (hd : s.due? = none) (h : s.turns = t :: rest) : s.plan = s.turn t rest := by
  simp only [State.plan, hr, ht, hh, hw, hd, h, Bool.false_eq_true, if_false]

/-- Then a wave of the focus core that is to be tried. -/
theorem plan_probe {slot : Nat} {w : Wave} (hd : s.due? = none) (hn : s.turns = []) (h : s.toProbe s.focus = some (slot, w)) :
    s.plan = s.probeWave slot w := by
  simp only [State.plan, hr, ht, hh, hw, hd, hn, h, Bool.false_eq_true, if_false]

/-- Then the wave that the focus core picks. -/
theorem plan_issue {slot : Nat} {w : Wave} (hd : s.due? = none) (hn : s.turns = []) (h : s.pick s.focus = some (slot, w)) :
    s.plan = s.issueWave slot w := by
  simp only [State.plan, hr, ht, hh, hw, hd, hn, toProbe_of_pick h, h, Bool.false_eq_true, if_false]

end

/-- The turn of an event runs it at the state without that turn. -/
theorem turn_event {s : State} (hr : s.stopped = false) {e : Instr} (he : isWord e = false) (rest : List Turn) :
    s.turn (.event e) rest = .run e { s with turns := rest } := by
  have hs : ({ s with turns := rest } : State).stopped = false := hr
  simp only [State.turn, State.take, State.happen, he, hs, Bool.false_and, Bool.or_self, Bool.false_eq_true, if_false]

/-- Settles O4: a step performs its plan, and the plan follows the order of precedence. -/
theorem stepRunsTheDecodedWord : Obligations.StepRunsTheDecodedWord := by
  refine ⟨?word, ?event, ?probe⟩
  case word =>
    intro s slot w x v i f hr ht hh hw hn hd hp hx hf hi
    rw [step, plan_issue hr ht hh hw hd hn hp, issueWave_decoded hx hf hi]
  case event =>
    intro s e rest hr
    refine ⟨fun x hx => ?stops, fun ht hh hw => ⟨fun hn he hd => ?turn, fun hd => ?due⟩⟩
    case stops => rw [step, plan_stopDue hr hx]
    case turn => rw [step, plan_turn hr ht hh hw hd hn, turn_event hr he]
    case due => rw [step, plan_due hr ht hh hw hd]
  case probe =>
    intro s slot w x v i f u hr ht hh hw hn hd hp hx hf hi hu
    rw [step, plan_probe hr ht hh hw hd hn hp, State.probeWave, issueWave_decoded hx hf hi, Plan.tried]
    simp only [hu]
    rfl

end Sys2Proof.Machine
end

section
/-! PROOF. Taking a trap of the whole bundle (spec/11 R269 to R273). -/

namespace Sys2Proof.Machine

/-! ### Lanes and masks -/

/-- The mask of a list of lanes holds those below 64, over what the fold starts from. -/
theorem foldl_lanes_getLsbD (k : Nat) (hk : k < 64) : ∀ (ls : List Nat) (m : DWord),
    (ls.foldl (fun m l => m ||| (1#64 <<< l)) m).getLsbD k = (m.getLsbD k || decide (k ∈ ls))
  | [], m => by simp
  | l :: ls, m => by
    have hbit : (1#64 <<< l).getLsbD k = decide (k = l) := by
      rw [BitVec.getLsbD_shiftLeft, BitVec.getLsbD_one, Bool.eq_iff_iff]
      simp [hk]
      omega
    rw [List.foldl_cons, foldl_lanes_getLsbD k hk ls, BitVec.getLsbD_or, hbit, Bool.or_assoc, ← Bool.decide_or]
    simp only [List.mem_cons]

/-- The lanes of a mask make up the mask. -/
theorem maskOf_lanesOf (m : DWord) : maskOf (lanesOf m) = m := by
  refine BitVec.eq_of_getLsbD_eq fun k hk => ?_
  rw [maskOf, foldl_lanes_getLsbD k hk]
  simp [lanesOf, hk]

/-- A bundle that is not empty has a lane. -/
theorem lanesOf_ne_nil {m : DWord} (h : m ≠ 0) : lanesOf m ≠ [] := fun e => h (by rw [← maskOf_lanesOf m, e]; rfl)

/-! ### The selected cause -/

/-- The raise that is reported is one of those raised. -/
theorem reportedFrom_mem : ∀ (rs : List Raise) (r : Raise), reportedFrom r rs ∈ r :: rs
  | [], r => List.mem_cons_self
  | x :: rs, r => by
    rw [reportedFrom]
    rcases List.mem_cons.1 (reportedFrom_mem rs (if raiseBefore x r then x else r)) with h | h
    · rw [h]
      split
      · exact List.mem_cons_of_mem _ List.mem_cons_self
      · exact List.mem_cons_self
    · exact List.mem_cons_of_mem _ (List.mem_cons_of_mem _ h)

/-- What every raise of one cause by a bundle holds. -/
theorem bundleRaise_eq {lanes : DWord} {cause info : Nat} {r : Raise} (h : r ∈ bundleRaise lanes cause info) :
    r.cause = cause ∧ r.info = info ∧ r.write = false ∧ r.space = 0 := by
  obtain ⟨l, -, rfl⟩ := List.mem_map.1 h
  exact ⟨rfl, rfl, rfl, rfl⟩

/-- The status of a raise that is no write and has no space (spec/11 R271). -/
theorem tswOf_plain {r : Raise} {restart : Bool} (hw : r.write = false) (hs : r.space = 0) (hi : r.info < 256) (hc : r.cause < 256) :
    tswOf restart r = (if restart then 65536 else 0) + r.info * 256 + r.cause := by
  rw [tswOf, hw, hs, Nat.mod_eq_of_lt hi, Nat.mod_eq_of_lt hc]
  simp

/-- The lanes that raise the cause of the bundle are those of the bundle. -/
theorem tmaskOf_bundle (lanes : DWord) (cause info : Nat) : tmaskOf lanes cause (bundleRaise lanes cause info) = lanes := by
  rw [tmaskOf]
  split
  · rfl
  · have hf : (bundleRaise lanes cause info).filter (fun r => decide (r.cause = cause)) = bundleRaise lanes cause info :=
      List.filter_eq_self.2 fun r hr => decide_eq_true (bundleRaise_eq hr).1
    have hm : (bundleRaise lanes cause info).map (·.lane) = lanesOf lanes := by rw [bundleRaise, List.map_map]; exact List.map_id _
    rw [hf, hm, maskOf_lanesOf]

/-- No other cause is pending where all raise one. -/
theorem tpendOf_same {cause : Nat} : ∀ {rs : List Raise}, (∀ r ∈ rs, r.cause = cause) → tpendOf cause rs = 0
  | [], _ => rfl
  | r :: rs, h => by
    have ih : tpendOf cause rs = 0 := tpendOf_same fun x hx => h x (List.mem_cons_of_mem _ hx)
    rw [tpendOf, List.foldl_cons, if_pos (Or.inl (h r List.mem_cons_self))]
    exact ih

/-! ### The trap -/

/-- A wave whose word has issued with a gap of 0: its next word comes a cycle later, and it no longer gives way or waits. -/
def Wave.charged (w : Wave) (now : Nat) : Wave := { w with nextIssue := now + 1 + 0, eligAt := now + 1 + 0, giveWay := false, waits := false }

/-- Charging an issue to its core changes of the wave only when it issues next. -/
theorem charge_own {s : State} {slot : Nat} {w : Wave} (ls : List Nat) (hw : s.waves.get? slot = some w) :
    (s.charge ls slot 0 false).waves.get? slot = some (w.charged s.now) := by
  unfold State.charge
  dsimp only
  rw [get?_mapKey _ _ (by intro e; split <;> [rfl; (split <;> rfl)]), hw, Option.map_some, if_pos rfl]
  rfl

/-- A trap outside a handler, where a handler's address stands, starts the handler. -/
theorem takeTrap_enters {s : State} {slot : Nat} {w : Wave} (hw : s.waves.get? slot = some w) (hh : w.handler = none) (ht : w.tvec ≠ 0)
    (bundle epc : DWord) (r : Raise) (rest : List Raise) :
    let x := w.trapped bundle epc (reportedFrom r rest) (r :: rest)
    s.takeTrap slot bundle epc r rest = s.setWave slot { x with handler := some (x.handlerFor bundle) } := by
  simp only [State.takeTrap, hw, hh, if_neg ht]

/-- A word that raises one cause in every lane of its bundle enters the handler. -/
theorem raise_enters {q : Sched} {j : Instr} {s : State} {w : Wave} {cause info : Nat} (hc : cause < 256) (hi : info < 256)
    (hcap : Instr.inCapsule j = false) (h : issues j s w = true)
    (hp : performs j q s w fun c => Did.orTrap c (bundleRaise s.issue.lanes cause info) (.left c))
    (hh : w.handler = none) (ht : w.tvec ≠ 0) (hl : s.issue.lanes ≠ 0) (hn : s.issue.resumed = false) :
    ∃ t x, exec j s = .next t ∧ t.waves.get? s.issue.slot = some x ∧
      x.tsw = BitVec.ofNat 32 ((if w.restart then 65536 else 0) + info * 256 + cause) ∧
      x.epc = s.issue.first ∧ x.tmask = s.issue.lanes ∧ x.tpend = 0 ∧ x.table = w.without s.issue.lanes ∧
      x.regs = w.landAll.regs ∧ x.pend = [] ∧
      x.handler = some {
        pc := w.tvec, lanes := s.issue.lanes, frameS := Sparse.getList w.landAll.regs.s 48 16, frameM10 := w.landAll.regs.m.get 10
        frameM11 := w.landAll.regs.m.get 11, frameSc := w.landAll.regs.sc, frameFstat := w.fstat } ∧
      t.mem = s.mem ∧ t.scm = s.scm := by
  obtain ⟨hw, -, -, hs, -, -, -⟩ := issues_iff.1 h
  have hcount : s.countWord w = s := by
    rw [State.countWord, issues_inBody h hcap]
    rfl
  obtain ⟨r, rest, hrs⟩ := List.exists_cons_of_ne_nil (l := bundleRaise s.issue.lanes cause info)
    (by simpa [bundleRaise] using lanesOf_ne_nil hl)
  have hrest := charge_rest s (s.launchesAt s.issue.slot) s.issue.slot 0 false
  obtain ⟨hcause, hinfo, hwrite, hspace⟩ := bundleRaise_eq (hrs ▸ reportedFrom_mem rest r)
  have htsw : tswOf w.restart (reportedFrom r rest) = (if w.restart then 65536 else 0) + info * 256 + cause := by
    rw [tswOf_plain hwrite hspace (hinfo ▸ hi) (hcause ▸ hc), hinfo, hcause]
  have htmask : tmaskOf s.issue.lanes (reportedFrom r rest).cause (r :: rest) = s.issue.lanes := by rw [hcause, ← hrs, tmaskOf_bundle]
  have htpend : tpendOf (reportedFrom r rest).cause (r :: rest) = 0 :=
    tpendOf_same fun x hx => (bundleRaise_eq (hrs ▸ hx)).1.trans hcause.symm
  rw [performs, hcount, hrs] at hp
  simp only [Did.orTrap] at hp
  rw [after_trap_eq hw hh ht hn, if_pos hs, takeTrap_enters (charge_own _ hw) hh ht] at hp
  exact ⟨_, _, hp, Sys2Proof.Laws.get?_put_same .., (congrArg (BitVec.ofNat 32) htsw :), rfl, htmask, htpend, rfl, rfl, rfl, rfl,
    congrArg (·.1) hrest, congrArg (·.2.1) hrest⟩

/-- Settles O26: both words raise one cause in every lane of the bundle. -/
theorem softwareTrapEntersHandler : Obligations.SoftwareTrapEntersHandler := by
  intro q code s w i enters
  refine ⟨fun h => ?trap, fun h => ?brk⟩
  case trap => exact raise_enters (by decide) code.isLt rfl h (performs_of_raise h (exec_trap q code s) (by rw [countWord_issue]; rfl))
  case brk => exact raise_enters (by decide) code.isLt rfl h (performs_of_raise h (exec_brk q code s) (by rw [countWord_issue]; rfl))

end Sys2Proof.Machine
end

section
/-! PROOF. The timeouts and the counts that wait (spec/04 R108, spec/08 R200, R204, spec/09 R222, R234, R246, spec/12 R301, R305, R310). -/

namespace Sys2Proof.Machine

/-- The brood unit: the oldest forming wave whose time has passed leaves it. -/
theorem execBroodTimeout_none {s : State} {clus : Nat}
    (h : (s.cluster clus).brood.find? (fun b => decide (b.openedAt + clocksOf 2 ≤ s.clock.toNat ∧ (s.context b.ctx).state = 1)) = none) :
    execBroodTimeout clus s = .next s := by
  rw [execBroodTimeout, h]

theorem execBroodTimeout_some {s : State} {clus : Nat} {b : Brood}
    (h : (s.cluster clus).brood.find? (fun b => decide (b.openedAt + clocksOf 2 ≤ s.clock.toNat ∧ (s.context b.ctx).state = 1)) = some b) :
    execBroodTimeout clus s = .next
      ((s.modCluster clus fun c => { c with brood := c.brood.filter fun x => !decide (x.task = b.task) }).queueBrood b) := by
  rw [execBroodTimeout, h]

/-- A lease that has not run out: nothing is decided again. -/
theorem execCapsuleLeaseExpiry_early {s : State} {pa : Nat} (h : s.clock.toNat < s.valueAt (pa + 8) 8) :
    execCapsuleLeaseExpiry pa s = .next s := by
  simp only [execCapsuleLeaseExpiry, if_neg (Nat.not_le.2 h)]

/-- Aging counts 1 ms from when an item was queued. -/
theorem execAgingExpiry_item {s : State} {n : Nat} {it : Item} (h : s.items.get? n = some it) :
    execAgingExpiry n s = .next (if it.since + clocksOf 1000 ≤ s.clock.toNat then
      ({ s with items := s.items.put n { it with aged := true } } : State).reschedule else s) := by
  simp only [execAgingExpiry, h, decide_eq_true_eq]

/-- Aging counts 1 ms from when a launch with teams to distribute became ready. -/
theorem execAgingExpiry_launch {s : State} {n : Nat} {l : Launch} (hi : s.items.get? n = none) (h : s.launches.get? n = some l)
    (hc : (s.launchCand n l).isSome = true) :
    execAgingExpiry n s = .next (if l.readyAt + clocksOf 1000 ≤ s.clock.toNat then
      ({ s with launches := s.launches.put n { l with aged := true } } : State).reschedule else s) := by
  simp only [execAgingExpiry, hi, h, hc, Bool.and_true, decide_eq_true_eq]

/-- A count that waits reaches its barrier, where the line is present and not poisoned. -/
theorem execBarrierByteCount_reaches {s : State} {clus n : Nat} {k : BarCount} (hk : (s.cluster clus).counts[n]? = some k)
    (ha : s.lineAbsent k.core (k.off / 128) = false) (hp : s.linePoisoned k.core (k.off / 128) = false) (ht : s.isTyped k.core k.off = true) :
    execBarrierByteCount clus n s = .next
      ((s.modCluster clus fun c => { c with counts := dropAt n c.counts }).changeBar k.core k.off
        (((s.readBar k.core k.off).receive
          (if k.toExpected then (s.readBar k.core k.off).expb - (s.readBar k.core k.off).rcvb else k.bytes)).fail k.cause)) := by
  simp only [execBarrierByteCount, hk, ha, hp, ht, Bool.not_true, Bool.or_self, Bool.false_eq_true, if_false]

/-- Where no member of a launch's barrier waits to be placed, nothing is spilled. -/
theorem execWbarSpill_complete {s : State} {ctx launch k : Nat} {l : Launch} (h : s.launchNamed ctx launch = some (k, l))
    (hm : s.memberMissing k l = false) : execWbarSpill ctx launch s = .next s := by
  simp only [execWbarSpill, h, hm, Bool.not_false, Bool.true_or, if_true]

/-- The one team of a launch that may be spilled leaves its slots, where the phase area takes its record. -/
theorem execWbarSpill_spills {s : State} {ctx launch k : Nat} {l : Launch} {e : Nat × Team} (h : s.launchNamed ctx launch = some (k, l))
    (hm : s.memberMissing k l = true) (hs : s.stuck k l = true) (he : s.spillable k = [e])
    (hf : s.phaseFits ctx (phaseBytes e.2 ((s.teamWaves e.2).map (·.2))) = true) :
    execWbarSpill ctx launch s = .next ((s.spill e.1 e.2).reschedule) := by
  simp only [execWbarSpill, h, hm, hs, he, hf, Bool.not_true, Bool.or_self, Bool.false_eq_true, if_true, if_false, List.foldl_cons, List.foldl_nil]

/-- Settles O45: each event has its effect where its time has come. -/
theorem timeoutEvents : Obligations.TimeoutEvents := by
  intro s clus slot pa n item ctx launch
  refine ⟨execBroodTimeout_none, fun b => execBroodTimeout_some, execCapsuleLeaseExpiry_early, fun h => ?lease, fun h => ?sleep,
    fun l hi hl hc => ⟨fun h => ?launchAged, fun h => ?launchEarly⟩, fun it hi h => ?itemAged, fun it hi h => ?itemEarly,
    fun k => execBarrierByteCount_reaches, fun k l => execWbarSpill_complete, fun k l e => execWbarSpill_spills⟩
  case lease => exact congrArg Host.Outcome.next ((if_pos h).trans (congrArg s.retryWhere (funext fun p => rfl)))
  case sleep => exact congrArg Host.Outcome.next (if_pos h)
  case launchAged => rw [exec_agingExpiry, execAgingExpiry_launch hi hl hc, if_pos h]
  case launchEarly => rw [exec_agingExpiry, execAgingExpiry_launch hi hl hc, if_neg (Nat.not_le.2 h)]
  case itemAged => rw [exec_agingExpiry, execAgingExpiry_item hi, if_pos h]
  case itemEarly => rw [exec_agingExpiry, execAgingExpiry_item hi, if_neg (Nat.not_le.2 h)]

end Sys2Proof.Machine
end

section
/-! PROOF. What a register-only word leaves alone (spec/04 R93, spec/05 R124). Each such word is one of the shared bodies, and each body is
made of results and flags of the wave in issue, whose frame is a relation on states that composes. -/

namespace Sys2Proof.Machine

/-! ### The frame of a wave -/

/-- x is w but for the registers ds, and, for a float word, for flags that were added. -/
structure Wave.Framed (ds : List RegName) (float : Bool) (w x : Wave) : Prop where
  settled : ∀ r l, r ∉ ds → l < 64 → x.settled r l = w.settled r l
  flags : float = false → x.fstat = w.fstat
  added : x.fstat &&& w.fstat = w.fstat
  specials : x.specials = w.specials
  rstack : x.rstack = w.rstack
  hdr : x.hdr = w.hdr

namespace Wave.Framed

variable {ds : List RegName} {float : Bool} {w x y : Wave}

theorem trans (h : Framed ds float w x) (k : Framed ds float x y) : Framed ds float w y where
  settled r l hr hl := (k.settled r l hr hl).trans (h.settled r l hr hl)
  flags hf := (k.flags hf).trans (h.flags hf)
  added := by rw [← h.added, ← BitVec.and_assoc, k.added]
  specials := k.specials.trans h.specials
  rstack := k.rstack.trans h.rstack
  hdr := k.hdr.trans h.hdr

/-- A wave with the same data is framed by any registers. -/
theorem of_data (h : x.data = w.data) : Framed ds float w x := by
  obtain ⟨hregs, hpend, hfstat, hspecials, hrstack, hhdr⟩ := by simpa only [Wave.data, Prod.mk.injEq] using h
  exact {
    settled := fun r l _ _ => by rw [settled_regs, settled_regs, Wave.mask, Wave.mask, hregs, hpend, hhdr]
    flags := fun _ => hfstat
    added := by rw [hfstat, BitVec.and_self]
    specials := hspecials
    rstack := hrstack
    hdr := hhdr }

theorem later (t : Nat) (r : Landing) (hr : r.reg ∈ ds) (w : Wave) : Framed ds float w (w.later t r) where
  settled k l hk hl := settled_later w t r k l (fun e => hk (e ▸ hr)) hl
  flags _ := rfl
  added := BitVec.and_self
  specials := rfl
  rstack := rfl
  hdr := rfl

theorem now (r : Landing) (hr : r.reg ∈ ds) (w : Wave) : Framed ds float w (w.now r) where
  settled k l hk hl := settled_now w r k l (fun e => hk (e ▸ hr)) hl
  flags _ := rfl
  added := BitVec.and_self
  specials := rfl
  rstack := rfl
  hdr := rfl

theorem recheck (m : Nat) (w : Wave) : Framed ds float w (w.recheck m) := of_data (recheck_data w m)

/-- Flags that are ORed in are added. -/
theorem raised (f : FFlags) (w : Wave) : Framed ds true w { w with fstat := w.fstat ||| f } where
  settled _ _ _ _ := rfl
  flags h := by cases h
  added := by
    refine BitVec.eq_of_getLsbD_eq fun k _ => ?_
    simp only [BitVec.getLsbD_and, BitVec.getLsbD_or]
    cases w.fstat.getLsbD k <;> simp
  specials := rfl
  rstack := rfl
  hdr := rfl

end Wave.Framed

/-! ### The frame of a state -/

/-- t is s but for the wave in issue, of which only the registers ds and, for a float word, flags that were added differ. -/
structure State.Framed (ds : List RegName) (float : Bool) (s t : State) : Prop where
  issue : t.issue = s.issue
  stall : t.stall = s.stall
  rest : t.rest = s.rest
  others : ∀ n, n ≠ s.issue.slot → t.dataAt n = s.dataAt n
  own : ∀ w, s.waves.get? s.issue.slot = some w → ∃ x, t.waves.get? s.issue.slot = some x ∧ Wave.Framed ds float w x

namespace State.Framed

variable {ds : List RegName} {float : Bool} {s t u : State}

theorem refl (s : State) : Framed ds float s s where
  issue := rfl
  stall := rfl
  rest := rfl
  others _ _ := rfl
  own w hw := ⟨w, hw, Wave.Framed.of_data rfl⟩

theorem trans (h : Framed ds float s t) (k : Framed ds float t u) : Framed ds float s u where
  issue := k.issue.trans h.issue
  stall := k.stall.trans h.stall
  rest := k.rest.trans h.rest
  others n hn := (k.others n (h.issue ▸ hn)).trans (h.others n hn)
  own w hw := by
    obtain ⟨x, hx, hwx⟩ := h.own w hw
    obtain ⟨y, hy, hxy⟩ := k.own x (h.issue ▸ hx)
    exact ⟨y, h.issue ▸ hy, hwx.trans hxy⟩

/-- A change of the wave in issue. -/
theorem wave {f : Wave → Wave} (hf : ∀ w, Wave.Framed ds float w (f w)) (s : State) : Framed ds float s (s.wave f) where
  issue := rfl
  stall := rfl
  rest := rfl
  others n hn := by rw [State.dataAt, State.wave_waves, get?_modify, if_neg hn]; rfl
  own w hw := ⟨f w, by rw [State.wave_waves, get?_modify, if_pos rfl, hw]; rfl, hf w⟩

theorem later (n : Nat) (r : Landing) (hr : r.reg ∈ ds) (s : State) : Framed ds float s (s.later n r) := wave (Wave.Framed.later _ r hr) s

theorem putNow (r : Landing) (hr : r.reg ∈ ds) (s : State) : Framed ds float s (s.putNow r) := wave (Wave.Framed.now r hr) s

theorem raiseFlags (f : FFlags) (s : State) : Framed ds true s (s.raiseFlags f) := wave (Wave.Framed.raised f) s

theorem laterMask (n m : Nat) (x : DWord) (hm : RegName.m m ∈ ds) (s : State) : Framed ds float s (s.laterMask n m x) :=
  wave (fun w => (Wave.Framed.later _ (.msk m x) hm w).trans (Wave.Framed.recheck m _)) s

theorem crossResult (w : Wave) (r : Landing) (hr : r.reg ∈ ds) (s : State) : Framed ds float s (s.crossResult w r) := by
  unfold State.crossResult
  split
  · exact putNow r hr s
  · exact later 6 r hr s

theorem vecResult (n : Nat) (vd : VReg) (f : Nat → Word) (hv : RegName.v vd.toNat ∈ ds) (s : State) : Framed ds float s (s.vecResult n vd f) := by
  unfold State.vecResult
  split
  · exact refl s
  · exact later n _ hv s

theorem vecFlagged (n : Nat) (vd : VReg) (f : Nat → Flagged Nat) (hv : RegName.v vd.toNat ∈ ds) (s : State) :
    Framed ds true s (s.vecFlagged n vd f) := by
  unfold State.vecFlagged
  split
  · exact refl s
  · exact (later n _ hv s).trans (raiseFlags _ _)

theorem compare (n : Nat) (md : BitVec 4) (w : Wave) (f : Nat → Bool) (hm : RegName.m md.toNat ∈ ds) (s : State) :
    Framed ds float s (s.compare n md w f) := by
  unfold State.compare
  split
  · exact refl s
  · exact laterMask n _ _ hm s

/-- Counting a word changes no data of its wave. -/
theorem countWord {w : Wave} (hw : s.waves.get? s.issue.slot = some w) : Framed ds float s (s.countWord w) := by
  unfold State.countWord
  split
  · exact {
      issue := rfl
      stall := rfl
      rest := rfl
      others := fun n hn => by rw [State.dataAt, State.setWave_waves, Sys2Proof.Laws.get?_put_other _ _ _ _ hn]; rfl
      own := fun x hx => ⟨{ w with stepWords := w.stepWords + 1 }, by rw [State.setWave_waves, Sys2Proof.Laws.get?_put_same],
        Wave.Framed.of_data (by rw [← Option.some.inj (hw.symm.trans hx)]; rfl)⟩ }
  · exact refl s

/-- The end of an issue that goes on at the next word changes no data. -/
theorem after {w : Wave} (hw : s.waves.get? s.issue.slot = some w) (h : Framed ds float s u) (q : Sched) :
    (s.after q (.done u)).rest = s.rest ∧ (∀ n, n ≠ s.issue.slot → (s.after q (.done u)).dataAt n = s.dataAt n) ∧
      ∃ x, (s.after q (.done u)).waves.get? s.issue.slot = some x ∧ Wave.Framed ds float w x := by
  obtain ⟨hrest, hdata⟩ := settle_done u (s.launchesAt s.issue.slot) s.issue (gapOf q s.issue.held) q.giveWay
  obtain ⟨y, hy, hwy⟩ := h.own w hw
  have hown : (s.after q (.done u)).dataAt s.issue.slot = some y.data := (hdata s.issue.slot).trans (by rw [State.dataAt, hy]; rfl)
  obtain ⟨x, hx, hxy⟩ := Option.map_eq_some_iff.1 hown
  exact ⟨hrest.trans h.rest, fun n hn => (hdata n).trans (h.others n hn), x, hx, hwy.trans (Wave.Framed.of_data hxy)⟩

end State.Framed

/-! ### Words whose body frames the state -/

/-- The word is done at once, and its body writes its destinations and, for a float word, adds flags. -/
def Instr.OnRegisters (i : Instr) (s : State) : Prop :=
  ∃ q body, exec i s = issueWord q i s body ∧
    ∀ ds, Instr.dests i = some ds → ∀ (t : State) (w : Wave), ∃ u, body t w = .done u ∧ t.Framed ds (Instr.floats i) u

theorem onRegisters_of_done {q : Sched} {i : Instr} {s : State} {g : State → Wave → State} {ds : List RegName} (hd : Instr.dests i = some ds)
    (he : exec i s = issueWord q i s fun t w => .done (g t w)) (hg : ∀ (t : State) (w : Wave), t.Framed ds (Instr.floats i) (g t w)) :
    Instr.OnRegisters i s :=
  ⟨q, _, he, fun _ hk t w => ⟨g t w, rfl, Option.some.inj (hd.symm.trans hk) ▸ hg t w⟩⟩

section
variable {q : Sched} {i : Instr} {s : State}

theorem vecInt_onRegisters {vd : VReg} {f : Issue → Nat → Word} (hd : Instr.dests i = some [.v vd.toNat]) (he : exec i s = vecInt q i vd f s) :
    Instr.OnRegisters i s :=
  onRegisters_of_done hd he fun t _ => State.Framed.vecResult 2 vd _ List.mem_cons_self t

theorem vecBits_onRegisters {vd : VReg} {f : Issue → Nat → Word} (hd : Instr.dests i = some [.v vd.toNat]) (he : exec i s = vecBits q i vd f s) :
    Instr.OnRegisters i s :=
  onRegisters_of_done hd he fun t _ => State.Framed.vecResult 4 vd _ List.mem_cons_self t

theorem vecFloat_onRegisters {lat : Nat} {vd : VReg} {f : Issue → Wave → Nat → Flagged Nat} (hd : Instr.dests i = some [.v vd.toNat])
    (hf : Instr.floats i = true) (he : exec i s = vecFloat q i lat vd f s) : Instr.OnRegisters i s :=
  onRegisters_of_done hd he fun t _ => hf ▸ State.Framed.vecFlagged lat vd _ List.mem_cons_self t

theorem fp32Op_onRegisters {o : FOp} {vd va : VReg} {b : VSrc} (hd : Instr.dests i = some [.v vd.toNat]) (hf : Instr.floats i = true)
    (he : exec i s = fp32Op q i o vd va b s) : Instr.OnRegisters i s := by
  rw [fp32Op] at he
  exact vecFloat_onRegisters hd hf he

theorem halfOp_onRegisters {o : FOp} {vd va : VReg} {b : VSrc} (hd : Instr.dests i = some [.v vd.toNat]) (hf : Instr.floats i = true)
    (he : exec i s = halfOp q i o vd va b s) : Instr.OnRegisters i s := by
  rw [halfOp] at he
  exact vecFloat_onRegisters hd hf he

theorem unaryOp_onRegisters {p : Bool} {lat : Nat} {vd : VReg} {b : VSrc} {g : FFmt → RMode → Nat → Nat → Flagged Nat}
    (hd : Instr.dests i = some [.v vd.toNat]) (hf : Instr.floats i = true) (he : exec i s = unaryOp q i p lat vd b g s) :
    Instr.OnRegisters i s := by
  cases p
  · rw [unaryOp, if_neg Bool.false_ne_true] at he
    exact vecFloat_onRegisters hd hf he
  · rw [unaryOp, if_pos rfl] at he
    exact vecFloat_onRegisters hd hf he

theorem funOp_onRegisters {p : Bool} {f : FFun} {vd : VReg} {b : VSrc} (hd : Instr.dests i = some [.v vd.toNat]) (hf : Instr.floats i = true)
    (he : exec i s = funOp q i p f vd b s) : Instr.OnRegisters i s := by
  rw [funOp] at he
  exact unaryOp_onRegisters hd hf he

theorem maskOp_onRegisters {md : BitVec 6} {f : Issue → DWord} (hd : Instr.dests i = some [.m md.toNat]) (he : exec i s = maskOp q i md f s) :
    Instr.OnRegisters i s :=
  onRegisters_of_done hd he fun t _ => State.Framed.laterMask 1 _ _ List.mem_cons_self t

theorem scaInt_onRegisters {sd : SReg} {f : Issue → Word} (hd : Instr.dests i = some [.s sd.toNat]) (he : exec i s = scaInt q i sd f s) :
    Instr.OnRegisters i s :=
  onRegisters_of_done hd he fun t _ => State.Framed.later 1 (.sca ..) List.mem_cons_self t

theorem scaCarry_onRegisters {sd : SReg} {f : Issue → Word} {c : Issue → Bool} (hd : Instr.dests i = some [.s sd.toNat, .sc])
    (he : exec i s = scaCarry q i sd f c s) : Instr.OnRegisters i s :=
  onRegisters_of_done hd he fun t _ => (State.Framed.later 1 (.sca ..) List.mem_cons_self t).trans
    (State.Framed.later 1 (.cond _) (List.mem_cons_of_mem _ List.mem_cons_self) _)

theorem scaFloat_onRegisters {lat : Nat} {sd : SReg} {f : Issue → Wave → Flagged Nat} (hd : Instr.dests i = some [.s sd.toNat])
    (hf : Instr.floats i = true) (he : exec i s = scaFloat q i lat sd f s) : Instr.OnRegisters i s :=
  onRegisters_of_done hd he fun t _ =>
    hf ▸ (State.Framed.later lat (.sca ..) List.mem_cons_self t).trans (State.Framed.raiseFlags _ _)

theorem scaFp32_onRegisters {o : FOp} {sd sa : SReg} {b : SSrc} (hd : Instr.dests i = some [.s sd.toNat]) (hf : Instr.floats i = true)
    (he : exec i s = scaFp32 q i o sd sa b s) : Instr.OnRegisters i s := by
  rw [scaFp32] at he
  exact scaFloat_onRegisters hd hf he

theorem crossOp_onRegisters {ds : List RegName} {f : State → Wave → State} (hd : Instr.dests i = some ds) (he : exec i s = crossOp q i f s)
    (hf : ∀ (t : State) (w : Wave), t.Framed ds (Instr.floats i) (f t w)) : Instr.OnRegisters i s :=
  onRegisters_of_done hd he fun t w => by
    split
    · exact State.Framed.refl t
    · exact hf t w

theorem laneOp_onRegisters {ds : List RegName} {f : State → Wave → State} (hd : Instr.dests i = some ds) (he : exec i s = laneOp q i f s)
    (hf : ∀ (t : State) (w : Wave), t.Framed ds (Instr.floats i) (f t w)) : Instr.OnRegisters i s :=
  onRegisters_of_done hd he fun t w => by
    split
    · exact State.Framed.refl t
    · exact hf t w

end

/-! ### The words -/

/-- The registers of a draw's triple (spec/04 R100). -/
theorem mem_triple (n k : Nat) (hk : k < 3) : RegName.s (n + k) ∈ [RegName.s n, .s (n + 1), .s (n + 2)] := by
  obtain rfl | rfl | rfl : k = 0 ∨ k = 1 ∨ k = 2 := by omega
  all_goals simp

/-- A draw writes its triple, or nothing where no lane is drawn. -/
theorem vdraw_onRegisters (q : Sched) (sd sc : SReg) (va : VReg) (s : State) : Instr.OnRegisters (.vdraw q sd sc va) s := by
  refine ⟨q, _, exec_vdraw .., fun ds hd t w => ?_⟩
  obtain rfl := Option.some.inj hd
  dsimp only
  split
  · exact ⟨t, rfl, State.Framed.refl t⟩
  · exact ⟨_, rfl, (((State.Framed.putNow (.sca ..) (mem_triple _ 0 (by decide)) t).trans
      (State.Framed.putNow (.sca ..) (mem_triple _ 1 (by decide)) _)).trans
      (State.Framed.putNow (.sca ..) (mem_triple _ 2 (by decide)) _)).trans (State.Framed.raiseFlags _ _)⟩

/-- Every instruction with destinations works on registers alone. -/
theorem onRegisters_of_dests {i : Instr} {ds : List RegName} (s : State) (h : Instr.dests i = some ds) : Instr.OnRegisters i s := by
  cases i
  case vadd => exact vecInt_onRegisters rfl (exec_vadd ..)
  case vsub => exact vecInt_onRegisters rfl (exec_vsub ..)
  case vmul => exact vecInt_onRegisters rfl (exec_vmul ..)
  case vmulhi => exact vecInt_onRegisters rfl (exec_vmulhi ..)
  case vand => exact vecInt_onRegisters rfl (exec_vand ..)
  case vor => exact vecInt_onRegisters rfl (exec_vor ..)
  case vxor => exact vecInt_onRegisters rfl (exec_vxor ..)
  case vshl => exact vecInt_onRegisters rfl (exec_vshl ..)
  case vshr => exact vecInt_onRegisters rfl (exec_vshr ..)
  case vsra => exact vecInt_onRegisters rfl (exec_vsra ..)
  case vmin => exact vecInt_onRegisters rfl (exec_vmin ..)
  case vmax => exact vecInt_onRegisters rfl (exec_vmax ..)
  case vminu => exact vecInt_onRegisters rfl (exec_vminu ..)
  case vmaxu => exact vecInt_onRegisters rfl (exec_vmaxu ..)
  case vmad => exact vecInt_onRegisters rfl (exec_vmad ..)
  case vabsd => exact vecInt_onRegisters rfl (exec_vabsd ..)
  case vmov => exact vecInt_onRegisters rfl (exec_vmov ..)
  case vnot => exact vecInt_onRegisters rfl (exec_vnot ..)
  case vneg => exact vecInt_onRegisters rfl (exec_vneg ..)
  case vabs => exact vecInt_onRegisters rfl (exec_vabs ..)
  case vpopc => exact vecInt_onRegisters rfl (exec_vpopc ..)
  case vclz => exact vecInt_onRegisters rfl (exec_vclz ..)
  case vbrev => exact vecInt_onRegisters rfl (exec_vbrev ..)
  case vbfe => exact vecInt_onRegisters rfl (exec_vbfe ..)
  case vbfi => exact vecInt_onRegisters rfl (exec_vbfi ..)
  case vbcast => exact vecInt_onRegisters rfl (exec_vbcast ..)
  case vsel => exact vecBits_onRegisters rfl (exec_vsel ..)
  case vpack2 => exact vecBits_onRegisters rfl (exec_vpack2 ..)
  case vcopysign => exact vecBits_onRegisters rfl (exec_vcopysign ..)
  case vfadd => exact fp32Op_onRegisters rfl rfl (exec_vfadd ..)
  case vfsub => exact fp32Op_onRegisters rfl rfl (exec_vfsub ..)
  case vfmul => exact fp32Op_onRegisters rfl rfl (exec_vfmul ..)
  case vffma => exact fp32Op_onRegisters rfl rfl (exec_vffma ..)
  case vfmin => exact fp32Op_onRegisters rfl rfl (exec_vfmin ..)
  case vfmax => exact fp32Op_onRegisters rfl rfl (exec_vfmax ..)
  case vhfma => exact halfOp_onRegisters rfl rfl (exec_vhfma ..)
  case vhadd => exact halfOp_onRegisters rfl rfl (exec_vhadd ..)
  case vhmul => exact halfOp_onRegisters rfl rfl (exec_vhmul ..)
  case vfrcp => exact funOp_onRegisters rfl rfl (exec_vfrcp ..)
  case vfrsq => exact funOp_onRegisters rfl rfl (exec_vfrsq ..)
  case vfsqrt => exact funOp_onRegisters rfl rfl (exec_vfsqrt ..)
  case vfexp2 => exact funOp_onRegisters rfl rfl (exec_vfexp2 ..)
  case vflog2 => exact funOp_onRegisters rfl rfl (exec_vflog2 ..)
  case vfsin => exact funOp_onRegisters rfl rfl (exec_vfsin ..)
  case vfcos => exact funOp_onRegisters rfl rfl (exec_vfcos ..)
  case vftanh => exact funOp_onRegisters rfl rfl (exec_vftanh ..)
  case vfrnd => exact unaryOp_onRegisters rfl rfl (exec_vfrnd ..)
  case vfclass => exact unaryOp_onRegisters rfl rfl (exec_vfclass ..)
  case vcvt => exact vecFloat_onRegisters rfl rfl (exec_vcvt ..)
  case mand => exact maskOp_onRegisters rfl (exec_mand ..)
  case mor => exact maskOp_onRegisters rfl (exec_mor ..)
  case mxor => exact maskOp_onRegisters rfl (exec_mxor ..)
  case mandn => exact maskOp_onRegisters rfl (exec_mandn ..)
  case mmov => exact maskOp_onRegisters rfl (exec_mmov ..)
  case mfirst => exact maskOp_onRegisters rfl (exec_mfirst ..)
  case mset => exact maskOp_onRegisters rfl (exec_mset ..)
  case sadd => exact scaInt_onRegisters rfl (exec_sadd ..)
  case ssub => exact scaInt_onRegisters rfl (exec_ssub ..)
  case smul => exact scaInt_onRegisters rfl (exec_smul ..)
  case smulhi => exact scaInt_onRegisters rfl (exec_smulhi ..)
  case sand => exact scaInt_onRegisters rfl (exec_sand ..)
  case sor => exact scaInt_onRegisters rfl (exec_sor ..)
  case sxor => exact scaInt_onRegisters rfl (exec_sxor ..)
  case sshl => exact scaInt_onRegisters rfl (exec_sshl ..)
  case sshr => exact scaInt_onRegisters rfl (exec_sshr ..)
  case ssra => exact scaInt_onRegisters rfl (exec_ssra ..)
  case smin => exact scaInt_onRegisters rfl (exec_smin ..)
  case smax => exact scaInt_onRegisters rfl (exec_smax ..)
  case sminu => exact scaInt_onRegisters rfl (exec_sminu ..)
  case smaxu => exact scaInt_onRegisters rfl (exec_smaxu ..)
  case ssel => exact scaInt_onRegisters rfl (exec_ssel ..)
  case smov => exact scaInt_onRegisters rfl (exec_smov ..)
  case spopc => exact scaInt_onRegisters rfl (exec_spopc ..)
  case sclz => exact scaInt_onRegisters rfl (exec_sclz ..)
  case sbfe => exact scaInt_onRegisters rfl (exec_sbfe ..)
  case smovi => exact scaInt_onRegisters rfl (exec_smovi ..)
  case sori => exact scaInt_onRegisters rfl (exec_sori ..)
  case saddi => exact scaInt_onRegisters rfl (exec_saddi ..)
  case saddc => exact scaCarry_onRegisters rfl (exec_saddc ..)
  case ssubb => exact scaCarry_onRegisters rfl (exec_ssubb ..)
  case sfadd => exact scaFp32_onRegisters rfl rfl (exec_sfadd ..)
  case sfmul => exact scaFp32_onRegisters rfl rfl (exec_sfmul ..)
  case sffma => exact scaFp32_onRegisters rfl rfl (exec_sffma ..)
  case sfmin => exact scaFp32_onRegisters rfl rfl (exec_sfmin ..)
  case sfmax => exact scaFp32_onRegisters rfl rfl (exec_sfmax ..)
  case sfexp2 => exact scaFloat_onRegisters rfl rfl (exec_sfexp2 ..)
  case sfcvt => exact scaFloat_onRegisters rfl rfl (exec_sfcvt ..)
  case vrand q vd b => exact onRegisters_of_done rfl (exec_vrand ..) fun t _ => State.Framed.vecResult 4 vd _ List.mem_cons_self t
  case vcmp q cond md va b => exact onRegisters_of_done rfl (exec_vcmp ..) fun t w => State.Framed.compare 2 md w _ List.mem_cons_self t
  case vfcmp q cond md va b => exact onRegisters_of_done rfl (exec_vfcmp ..) fun t w => State.Framed.compare 4 md w _ List.mem_cons_self t
  case vshfl q mode vd va b =>
    refine onRegisters_of_done rfl (exec_vshfl ..) fun t _ => ?_
    split
    · exact State.Framed.refl t
    · exact State.Framed.putNow (.vec ..) List.mem_cons_self t
  case vrfl => exact crossOp_onRegisters rfl (exec_vrfl ..) fun t _ => State.Framed.later 6 (.sca ..) List.mem_cons_self t
  case vballot => exact crossOp_onRegisters rfl (exec_vballot ..) fun t _ => State.Framed.laterMask 6 _ _ List.mem_cons_self t
  case vmatch => exact crossOp_onRegisters rfl (exec_vmatch ..) fun t _ =>
    (State.Framed.later 6 (.vec ..) List.mem_cons_self t).trans (State.Framed.later 6 (.vec ..) (List.mem_cons_of_mem _ List.mem_cons_self) _)
  case vredu =>
    refine crossOp_onRegisters rfl (exec_vredu ..) fun t w => ?_
    split
    · exact (State.Framed.later 6 (.sca ..) List.mem_cons_self t).trans (State.Framed.raiseFlags _ _)
    · exact State.Framed.refl t
  case vscan => exact crossOp_onRegisters rfl (exec_vscan ..) fun t _ =>
    (State.Framed.later 6 (.vec ..) List.mem_cons_self t).trans (State.Framed.raiseFlags _ _)
  case vrdln => exact laneOp_onRegisters rfl (exec_vrdln ..) fun t w => State.Framed.crossResult w (.sca ..) List.mem_cons_self t
  case vwrln =>
    refine laneOp_onRegisters rfl (exec_vwrln ..) fun t w => ?_
    dsimp only
    split
    · exact State.Framed.crossResult w (.vec ..) List.mem_cons_self t
    · exact State.Framed.refl t
  case vdraw => exact vdraw_onRegisters ..
  case mpopc => exact onRegisters_of_done rfl (exec_mpopc ..) fun t _ => State.Framed.later 1 (.sca ..) List.mem_cons_self t
  case mget => exact onRegisters_of_done rfl (exec_mget ..) fun t _ =>
    (State.Framed.later 1 (.sca ..) List.mem_cons_self t).trans (State.Framed.later 1 (.sca ..) (List.mem_cons_of_mem _ List.mem_cons_self) _)
  case scmp => exact onRegisters_of_done rfl (exec_scmp ..) fun t _ => State.Framed.later 1 (.cond _) List.mem_cons_self t
  case scmpi => exact onRegisters_of_done rfl (exec_scmpi ..) fun t _ => State.Framed.later 1 (.cond _) List.mem_cons_self t
  case drawm => exact onRegisters_of_done rfl (exec_drawm ..) fun t _ =>
    (((State.Framed.later 8 (.sca ..) (mem_triple _ 0 (by decide)) t).trans
      (State.Framed.later 8 (.sca ..) (mem_triple _ 1 (by decide)) _)).trans
      (State.Framed.later 8 (.sca ..) (mem_triple _ 2 (by decide)) _)).trans (State.Framed.raiseFlags _ _)
  all_goals cases h

/-- Settles O56: the body of the word frames the state, and so does what the issue does after it. -/
theorem frameOfRegisterWords : Obligations.FrameOfRegisterWords := by
  intro i s w ds hd h
  have hw : s.waves.get? s.issue.slot = some w := (issues_iff.1 h).1
  obtain ⟨q, body, he, hbody⟩ := onRegisters_of_dests s hd
  obtain ⟨u, hu, hframe⟩ := hbody ds hd (s.countWord w) w
  have hs : u.stall = [] := hframe.stall.trans (issues_stall h)
  obtain ⟨hrest, hothers, x, hx, hwx⟩ := ((State.Framed.countWord hw).trans hframe).after hw q
  have hexec : exec i s = .next (s.after q (.done u)) := he.trans (issueWord_does h hu hs (by simp))
  obtain ⟨hmem, hscm, hversions, hcontexts, hteams, hlaunches, hdies, hclusters, hregs⟩ := by simpa only [State.rest, Prod.mk.injEq] using hrest
  refine ⟨_, x, hexec, hx, hwx.settled, hwx.flags, hwx.added, hwx.specials, hwx.rstack, hwx.hdr, fun n hn => ?others,
    fun a => congrArg (Sparse.get · a) hmem, hscm, hversions, hcontexts, hteams, hlaunches, hdies, hclusters, hregs⟩
  case others =>
    have hdata := congrArg (Option.map fun d => (d.1, d.2.1, d.2.2.1)) (hothers n hn)
    rwa [State.dataAt, State.dataAt, Option.map_map, Option.map_map] at hdata

end Sys2Proof.Machine
end

section
/-! PROOF. The integer vector instructions and `vrand` (spec/05 R126, R143). -/

namespace Sys2Proof.Machine

theorem mad_eq_ofNat (x y z : Word) : x * y + z = BitVec.ofNat 32 (x.toNat * y.toNat + z.toNat) := by
  rw [BitVec.ofNat_add, ← mul_eq_ofNat, BitVec.ofNat_toNat, BitVec.setWidth_eq]

/-- Settles O10: each form is one shared operation, and its value in numbers is a lemma about words. -/
theorem vectorIntegerResults : Obligations.VectorIntegerResults := by
  intro q vd va b s w x y z n gives
  exact ⟨vecInt_completes (exec_vadd ..) fun l => add_eq_ofNat (x l) (y l), vecInt_completes (exec_vsub ..) fun l => sub_eq_ofInt (x l) (y l),
    vecInt_completes (exec_vmul ..) fun l => mul_eq_ofNat (x l) (y l), vecInt_completes (exec_vmulhi ..) fun _ => rfl,
    vecInt_completes (exec_vand ..) fun _ => rfl, vecInt_completes (exec_vor ..) fun _ => rfl, vecInt_completes (exec_vxor ..) fun _ => rfl,
    vecInt_completes (exec_vshl ..) fun l => shl_eq_ofNat (x l) (y l), vecInt_completes (exec_vshr ..) fun l => shr_eq_ofNat (x l) (y l),
    vecInt_completes (exec_vsra ..) fun l => sra_eq_ofInt (x l) (y l), vecInt_completes (exec_vmin ..) fun l => minS_eq (x l) (y l),
    vecInt_completes (exec_vmax ..) fun l => maxS_eq (x l) (y l), vecInt_completes (exec_vminu ..) fun l => minU_eq (x l) (y l),
    vecInt_completes (exec_vmaxu ..) fun l => maxU_eq (x l) (y l), vecInt_completes (exec_vmad ..) fun l => mad_eq_ofNat (x l) (y l) (z l),
    vecInt_completes (exec_vabsd ..) fun _ => rfl⟩

/-- An operand that the instruction refuses makes its word illegal (spec/03 R69, R85). -/
theorem legal_of_operandsOk_false {i : Instr} {w : Wave} {h : Hints} (ho : Instr.operandsOk w.hdr.width h i = false) :
    Instr.legal i w h = false := by
  rw [Instr.legal, ho, Bool.and_false, Bool.false_and]

/-- An illegal word of a per-lane instruction is not performed: every lane of its bundle raises ILLEGAL_INSTR (spec/03 R85, spec/11 R270). -/
theorem performs_of_illegal {i : Instr} {q : Sched} {s : State} {w : Wave} {body : State → Wave → Did}
    (he : exec i s = issueWord q i s body) (hw : s.waves.get? s.issue.slot = some w) (hl : Instr.legal i w s.issue.held = false)
    (hp : Instr.perLane i = true) : performs i q s w fun c => Did.orTrap c (bundleRaise s.issue.lanes cIllegal 0) (.left c) := by
  have hd : s.perform i w body =
      Did.orTrap (s.countWord w) (bundleRaise s.issue.lanes cIllegal 0) (.left (s.countWord w)) := by
    simp only [State.perform, hl, Bool.not_false, Bool.or_true, if_true, Issue.raiseAll, Issue.raising, hp]
  simp only [performs, he, issueWord, hw, hd, State.after]

/-- `vrand` refuses a v-register, the lane index and a float constant as its counter. -/
theorem operandsOk_vrand {q : Sched} {vd n : VReg} {k : Fin 8} {b : VSrc} {width : Nat} {h : Hints}
    (hb : b = .v n ∨ b = .lane ∨ b = .flt k) : Instr.operandsOk width h (.vrand q vd b) = false := by
  rcases hb with rfl | rfl | rfl <;> rfl

/-- Settles O12: the word of each lane is one vector result, and a refused operand makes the word illegal. -/
theorem vrandWritesItsWord : Obligations.VrandWritesItsWord := by
  refine ⟨fun q vd b s w h => ?writes, fun q vd n k b s w hb hw _ _ => ?traps, ?encodes⟩
  case writes =>
    exact completes_of_does h (exec_vrand ..) (by rw [countWord_issue]) ((vecResult_stall ..).trans (issues_stall h))
  case traps => exact performs_of_illegal (exec_vrand ..) hw (legal_of_operandsOk_false (operandsOk_vrand hb)) rfl
  case encodes => decide

end Sys2Proof.Machine
end

section
/-! PROOF. The fences (spec/06 R166, R167, R169). -/

namespace Sys2Proof.Machine

/-- An acquire does not wait. -/
theorem acquire_stall (s : State) (slot scope : Nat) : (s.acquire slot scope).stall = s.stall := by
  have hclear (t : State) (core : Nat) : (t.clearL1 core).stall = t.stall := by unfold State.clearL1; split <;> rfl
  unfold State.acquire
  split
  · rfl
  · dsimp only
    split
    · exact hclear _ _
    · rfl

/-- Settles O36: an acquire never waits, and a release that need not wait goes on with what follows it. -/
theorem fenceWords : Obligations.FenceWords := by
  intro q scope queues s w slot t
  refine ⟨fun h => ?acq, fun h c hc hs => ?rel, fun h c hc hs => ?full, fun h => ?qfence, fun h => ?pfence⟩
  case acq =>
    exact completes_of_does h (exec_fence ..) (by rw [countWord_issue]) ((acquire_stall ..).trans (issues_stall h))
  case rel =>
    rw [exec_fence]
    exact issueWord_does h (releasing_released hc) hs (by simp)
  case full =>
    rw [exec_fence]
    refine issueWord_does h ?_ ((acquire_stall c slot scope.toNat).trans hs) (by simp)
    dsimp only
    rw [releasing_released hc, countWord_issue]
  case qfence =>
    refine completes_of_does h (exec_qfence ..) ?_ (issues_stall h)
    simp only [State.wave, State.modWave, countWord_issue]
    rfl
  case pfence => exact completes_of_does h (exec_pfence ..) rfl (issues_stall h)

end Sys2Proof.Machine
end

section
/-! PROOF. The vector loads (spec/06 R147 to R151, R154, R156, R157). -/

namespace Sys2Proof.Machine

@[simp] theorem putLanes_stall (s : State) (vd count : Nat) (res : List (Nat × List Word)) : (s.putLanes vd count res).stall = s.stall := by
  unfold State.putLanes
  exact (foldState_at (fun t _ => ⟨putNow_issue t _, putNow_stall t _⟩) _ s).2

/-- A load from global memory whose accesses are granted and unmarked, and which no peer refuses. -/
theorem loadGlobal_granted {q : Sched} {j : Instr} {vd : VReg} {base : BitVec 5} {voff : BitVec 7} {k : Width} {comb : Bool}
    {read : State → Nat → Wave → Nat → List Acc → State × List Nat × List (Nat × List Byte)} {s u : State} {w : Wave} {as : List Acc}
    (he : exec j s = loadGlobal q j vd base voff k comb read s) (h : issues j s w = true)
    (hg : (s.countWord w).grants w (Width.bytes k) { rd := true, wr := false, comb := comb } (some false)
      (s.issue.activeLanes.map fun l => (l, s.issue.globalVa base voff l)) u as)
    (hm : u.markedLanes (Width.bytes k) 0 false as = []) :
    let r := read (u.afterRemote w (Width.bytes k) as) (coreOf s.issue.slot) w (Width.bytes k) as
    let z := if as = [] then r.1 else r.1.putLanes vd.toNat (Width.count k) (r.2.2.map fun x => (x.1, Width.load k x.2))
    r.2.1 = [] → z.stall = [] → exec j s = .next (s.after q (.done z)) := by
  intro r z hr hs
  rw [he]
  refine issueWord_does h ?_ hs (by simp)
  simp only [r] at hr
  simp only [countWord_issue, globalAccess_grants hg, hm, hr, Did.orTrap, refusedLanes, List.map_nil]
  rfl

/-- A load from a scratchpad whose accesses are granted. -/
theorem vlds_granted {q : Sched} {vd : VReg} {base : BitVec 5} {voff : BitVec 7} {k : Width} {s : State} {w : Wave} {as : List SpadAcc}
    (h : issues (.vlds q vd base voff k) s w = true) (ha : as ≠ [])
    (hg : (s.countWord w).grantsSpad w (Width.bytes k) false (s.issue.activeLanes.map fun l => (l, s.issue.spadVa base voff l)) as) :
    exec (.vlds q vd base voff k) s = .next (s.after q (.done ((s.countWord w).putLanes vd.toNat (Width.count k)
      (as.map fun a => (a.lane, Width.load k ((s.countWord w).spadBytes a.core a.off (Width.bytes k))))))) := by
  rw [exec_vlds]
  refine issueWord_does h ?_ ((putLanes_stall ..).trans (issues_stall h)) (by simp)
  simp only [countWord_issue, spadAccess_grants hg, if_neg ha]

/-- Settles O31: the three loads from global memory are one load with its own way to read, and `vlds` reads a scratchpad. -/
theorem vectorLoads : Obligations.VectorLoads := by
  intro q vd base voff k s w i t n at_ loads
  refine ⟨?vld, ?vldc, ?vldt, fun h as ha hg => vlds_granted h ha hg⟩
  case vld => exact fun h u as hg hm hr => loadGlobal_granted (exec_vld ..) h hg hm hr
  case vldc => exact fun h u as hg hm hr => loadGlobal_granted (exec_vldc ..) h hg hm hr
  case vldt => exact fun h u as hg hm hr => loadGlobal_granted (exec_vldt ..) h hg hm hr

end Sys2Proof.Machine
end

section
/-! PROOF. The scalar loads and the scalar store (spec/06 R159, spec/09 R245). -/

namespace Sys2Proof.Machine

/-- A scalar load whose access is granted and unmarked, and whose bytes are read. -/
theorem scalarLoad_granted {q : Sched} {j : Instr} {sd : SReg} {base : BitVec 5} {w64 : Bool} {off : BitVec 8} {s u : State} {w : Wave}
    {a : Acc} {b : List Byte} {n : Nat} (hn : (if w64 then 8 else 4) = n) (he : exec j s = scalarLoad q j sd base w64 off s)
    (h : issues j s w = true)
    (hg : (s.countWord w).grants w n { rd := true, wr := false } (some false) [(s.issue.leader, s.issue.scalarVa base off)] u [a])
    (hm : u.markedLanes n 0 false [a] = []) :
    let r := (u.afterRemote w n [a]).readLanes (coreOf s.issue.slot) w n false [a]
    let x := leNat (overlay w.stepBytes a.pa b)
    let z := if w64 then r.1.putPair sd.toNat (BitVec.ofNat 64 x) else r.1.putNow (.sca sd.toNat (BitVec.ofNat 32 x))
    r.2 = ([], [(s.issue.leader, b)]) → z.stall = [] → exec j s = .next (s.after q (.done z)) := by
  intro r x z hr hs
  rw [he]
  refine issueWord_does h ?_ hs (by simp)
  simp only [r] at hr
  simp only [countWord_issue, hn, globalAccess_grants hg, hm, hr, Did.orTrap, refusedLanes, List.map_nil]
  rfl

/-- The bytes of whole registers, none of them cut off. -/
theorem storeBytes_whole (vs : List Word) : storeBytes (4 * vs.length) vs = vs.flatMap fun v => leBytes 4 v.toNat := by
  refine List.take_of_length_le (le_of_eq ?_)
  induction vs with
  | nil => rfl
  | cons v vs ih => rw [List.flatMap_cons, List.length_append, ih, leBytes_length, List.length_cons]; omega

/-- The bytes that a scalar store writes: those of sd, or of the pair at sd. -/
theorem scalarStore_bytes (i : Issue) (sd : SReg) (w64 : Bool) :
    storeBytes (if w64 then 8 else 4) ((run sd.toNat ((if w64 then 8 else 4) / 4)).map i.src.scalar) =
      (if w64 then [i.src.scalar sd.toNat, i.src.scalar (sd.toNat + 1)] else [i.src.scalar sd.toNat]).flatMap fun v => leBytes 4 v.toNat := by
  cases w64
  · exact storeBytes_whole [i.src.scalar sd.toNat]
  · exact storeBytes_whole [i.src.scalar sd.toNat, i.src.scalar (sd.toNat + 1)]

/-- What a granted scalar store leaves: in a capsule body its bytes join the step's buffer, and elsewhere they are held as a vector store's. -/
def State.scalarStored (u : State) (w : Wave) (a : Acc) (data : List Byte) : State :=
  if w.inBody then
    ({ u with nextNum := u.nextNum + 1 } : State).wave fun x =>
      { x with stepBuf := x.stepBuf ++ [{ num := u.nextNum, pa := a.pa, persist := ptePersist a.pte, own := false, data := data }] }
  else (u.storeLanes w [(a, data)]).noteOwn w (cellsAt a.pa data)

/-- A scalar store whose access is granted. -/
theorem sst_granted {q : Sched} {sd : SReg} {base : BitVec 5} {w64 : Bool} {off : BitVec 8} {s u : State} {w : Wave} {a : Acc}
    {data : List Byte} {n : Nat} (hn : (if w64 then 8 else 4) = n) (h : issues (.sst q sd base w64 off) s w = true)
    (hd : storeBytes n ((run sd.toNat (n / 4)).map s.issue.src.scalar) = data)
    (hg : (s.countWord w).grants w n { rd := false, wr := true } (some true) [(s.issue.leader, s.issue.scalarVa base off)] u [a])
    (hs : (u.scalarStored w a data).stall = []) :
    exec (.sst q sd base w64 off) s = .next (s.after q (.done (u.scalarStored w a data))) := by
  rw [exec_sst]
  refine issueWord_does h ?_ hs (by simp)
  simp only [countWord_issue, hn, globalAccess_grants hg, hd, List.map_cons, List.map_nil, List.flatMap_cons, List.flatMap_nil, List.append_nil]
  rfl

/-- Settles O32: both loads are one scalar load, and the store keeps its bytes where the wave stands. -/
theorem scalarMemoryWords : Obligations.ScalarMemoryWords := by
  intro q sd base w64 off s w i t n va loads data
  refine ⟨?sld, ?sldk, fun h u a hg => sst_granted rfl h (scalarStore_bytes ..) hg⟩
  case sld => exact fun h u a b => scalarLoad_granted rfl (exec_sld ..) h
  case sldk => exact fun h u a b => scalarLoad_granted rfl (exec_sldk ..) h

end Sys2Proof.Machine
end

section
/-! PROOF. What a scratchpad store leaves alone (spec/06 R151, R152). -/

namespace Sys2Proof.Machine

/-! ### One store -/

theorem core_modCore (s : State) (core k : Nat) (f : Core → Core) :
    (s.modCore core f).core k = if k = core then f (s.core core) else s.core k := by
  rw [State.core, State.modCore_cores, getD_put]
  rfl

theorem retryWhere_core (s : State) (p : Park → Bool) (k : Nat) : (s.retryWhere p).core k = s.core k := by
  rw [State.core, State.retryWhere, State.modSlots, modSlotsFor_cores]
  rfl

theorem retryWhere_at (s : State) (p : Park → Bool) : (s.retryWhere p).issue = s.issue ∧ (s.retryWhere p).stall = s.stall :=
  modSlotsFor_at ..

/-- A store to a scratchpad changes neither the waves nor the units, and does not wait. -/
theorem spadStore_rest (s : State) (core off : Nat) (bs : List Byte) :
    (s.spadStore core off bs).rest = s.rest ∧ (s.spadStore core off bs).waves = s.waves := by
  unfold State.spadStore
  dsimp only
  split
  · exact retryWhere_rest ..
  · exact ⟨rfl, rfl⟩

theorem spadStore_at (s : State) (core off : Nat) (bs : List Byte) :
    (s.spadStore core off bs).issue = s.issue ∧ (s.spadStore core off bs).stall = s.stall := by
  unfold State.spadStore
  dsimp only
  split
  · exact retryWhere_at ..
  · exact ⟨rfl, rfl⟩

/-- A read after a store to a scratchpad. -/
theorem spadStore_get (s : State) (core off k o : Nat) (bs : List Byte) :
    ((s.spadStore core off bs).core k).spad.get o =
      if k = core ∧ off ≤ o ∧ o < off + bs.length then bs.getD (o - off) 0 else (s.core k).spad.get o := by
  have hcore : (s.spadStore core off bs).core k = (s.modCore core fun c => { c with spad := Sparse.setList c.spad off bs }).core k := by
    unfold State.spadStore
    dsimp only
    split
    · exact retryWhere_core ..
    · rfl
  rw [hcore, core_modCore]
  by_cases hk : k = core
  · subst hk
    simp only [if_true, true_and]
    exact Sys2Proof.Laws.get_setList bs _ off o
  · simp only [hk, if_false, false_and]

/-! ### The stores of lanes, in their order -/

theorem foldState_append {α : Type} (f : State → α → State) : ∀ (xs ys : List α) (s : State),
    foldState f s (xs ++ ys) = foldState f (foldState f s xs) ys
  | [], _, _ => rfl
  | x :: xs, ys, s => foldState_append f xs ys (f s x)

/-- The stores of some lanes to scratchpads. -/
def State.spadStores (s : State) (data : Nat → List Byte) (as : List SpadAcc) : State :=
  foldState (fun u a => u.spadStore a.core a.off (data a.lane)) s as

section
variable (s : State) (data : Nat → List Byte) (as : List SpadAcc)

theorem spadStores_rest : (s.spadStores data as).rest = s.rest ∧ (s.spadStores data as).waves = s.waves :=
  foldState_rest (fun t a => spadStore_rest t a.core a.off (data a.lane)) as s

theorem spadStores_stall : (s.spadStores data as).stall = s.stall :=
  (foldState_at (fun t a => spadStore_at t a.core a.off (data a.lane)) as s).2

end

/-- A byte outside the accesses of every lane. -/
theorem spadStores_get_other {data : Nat → List Byte} {n core o : Nat} (hn : ∀ l, (data l).length = n) :
    ∀ (as : List SpadAcc) (s : State), (∀ a ∈ as, ¬(a.core = core ∧ a.off ≤ o ∧ o < a.off + n)) →
      ((s.spadStores data as).core core).spad.get o = (s.core core).spad.get o
  | [], _, _ => rfl
  | a :: as, s, h => by
    rw [State.spadStores, foldState, ← State.spadStores,
      spadStores_get_other hn as _ fun b hb => h b (List.mem_cons_of_mem _ hb), spadStore_get, hn]
    exact if_neg fun hc => h a List.mem_cons_self ⟨hc.1.symm, hc.2⟩

/-- The highest lane stores last: its bytes stand. -/
theorem spadStores_get_last {data : Nat → List Byte} {n j : Nat} (hn : ∀ l, (data l).length = n) (s : State) (pre : List SpadAcc)
    (a : SpadAcc) (hj : j < n) : ((s.spadStores data (pre ++ [a])).core a.core).spad.get (a.off + j) = (data a.lane).getD j 0 := by
  rw [State.spadStores, foldState_append, foldState, foldState, spadStore_get, hn, Nat.add_sub_cancel_left]
  exact if_pos ⟨rfl, Nat.le_add_right .., Nat.add_lt_add_left hj _⟩

/-! ### The word -/

theorem countWord_core (s : State) (w : Wave) (k : Nat) : (s.countWord w).core k = s.core k := by
  unfold State.countWord
  split <;> rfl

theorem countWord_dataAt {s : State} {w : Wave} (hw : s.waves.get? s.issue.slot = some w) :
    (s.countWord w).dataAt s.issue.slot = some w.data := by
  unfold State.countWord
  split
  · rw [State.dataAt, State.setWave_waves, Sys2Proof.Laws.get?_put_same]
    rfl
  · rw [State.dataAt, hw]
    rfl

theorem charge_spad (s : State) (ls : List Nat) (slot gap k : Nat) (g : Bool) :
    ((s.charge ls slot gap g).core k).spad = (s.core k).spad := by
  rw [State.charge, State.core, getD_put]
  split
  · rename_i hk
    rw [hk]
  · rfl

/-- The end of an issue that goes on at the next word changes no byte of a scratchpad. -/
theorem after_spad (s z : State) (q : Sched) (k : Nat) : ((s.after q (.done z)).core k).spad = (z.core k).spad := by
  unfold State.after Did.finish Did.settle State.afterRelease
  dsimp only
  split
  · exact congrArg Core.spad (retryWhere_core ..)
  · exact charge_spad z (s.launchesAt s.issue.slot) s.issue.slot (gapOf q s.issue.held) k q.giveWay

theorem width_bytes_le (k : Width) : Width.bytes k ≤ 4 * Width.count k := by cases k <;> decide

/-- A store to scratchpads whose accesses are granted. -/
theorem vsts_granted {q : Sched} {vs : VReg} {base : BitVec 5} {voff : BitVec 7} {k : Width} {s : State} {w : Wave} {as : List SpadAcc}
    (h : issues (.vsts q vs base voff k) s w = true)
    (hg : (s.countWord w).grantsSpad w (Width.bytes k) true (s.issue.activeLanes.map fun l => (l, s.issue.spadVa base voff l)) as) :
    exec (.vsts q vs base voff k) s = .next (s.after q (.done ((s.countWord w).spadStores (s.issue.storeData vs k) as))) := by
  rw [exec_vsts]
  refine issueWord_does h ?_ ((spadStores_stall ..).trans (issues_stall h)) (by simp)
  simp only [countWord_issue, spadAccess_grants hg]
  rfl

theorem storeData_length (i : Issue) (vs : VReg) (k : Width) (l : Nat) : (i.storeData vs k l).length = Width.bytes k :=
  storeBytes_length _ _ (by simpa [run] using width_bytes_le k)

theorem storeData_eq (i : Issue) (vs : VReg) (k : Width) (l : Nat) : i.storeData vs k l =
    ((List.range (Width.count k)).flatMap fun j => leBytes 4 (i.src.lane (vs.toNat + j) l).toNat).take (Width.bytes k) := by
  rw [Issue.storeData, storeBytes, run, List.map_map, List.flatMap_map]
  rfl

/-- Settles O58: the stores of the lanes, one after the other, change their own bytes alone, and what ends the issue changes none. -/
theorem frameOfScratchpadStores : Obligations.FrameOfScratchpadStores := by
  intro q vs base voff k s w as i n data h hg
  have hw : s.waves.get? s.issue.slot = some w := (issues_iff.1 h).1
  obtain ⟨hrest, hwaves⟩ := spadStores_rest (s.countWord w) (i.storeData vs k) as
  obtain ⟨hrest', hdata⟩ := settle_done ((s.countWord w).spadStores (i.storeData vs k) as) (s.launchesAt i.slot) i (gapOf q i.held) q.giveWay
  have hown : (s.after q (.done ((s.countWord w).spadStores (i.storeData vs k) as))).dataAt i.slot = some w.data := by
    refine (hdata i.slot).trans ?_
    rw [State.dataAt, hwaves]
    exact countWord_dataAt hw
  obtain ⟨x, hx, hxw⟩ := Option.map_eq_some_iff.1 hown
  obtain ⟨hregs, hpend, -⟩ := by simpa only [Wave.data, Prod.mk.injEq] using hxw
  obtain ⟨hmem, hscm, hversions, -⟩ := by
    simpa only [State.rest, Prod.mk.injEq] using (hrest'.trans hrest).trans (State.Framed.countWord (ds := []) (float := false) hw).rest
  refine ⟨_, x, vsts_granted h hg, hx, hregs, hpend, fun core o ho => ?other, fun pre a has j hj => ?last, hmem, hscm, hversions⟩
  case other =>
    rw [after_spad, spadStores_get_other (storeData_length i vs k) as _ ho, countWord_core]
  case last =>
    rw [after_spad, has, spadStores_get_last (storeData_length i vs k) _ pre a hj, storeData_eq]

end Sys2Proof.Machine
end

section
/-! PROOF. What the words that store to global memory leave alone (spec/06 R152, R153, R159 to R165, spec/09 R224 to R226). Each operation of
such a word has its frame; the frames compose as long as nothing waits, and what ends the issue changes no register and no byte. -/

namespace Sys2Proof.Machine

/-! ### A word that is framed -/

/-- The byte lies in none of some ranges, and in no count of forced commits. -/
def State.outside (s : State) (ranges : List (Nat × Nat)) (a : Nat) : Prop := ¬inRanges ranges a ∧ ¬s.inForced a

theorem ready_outside {s : State} {w : Wave} (hw : s.waves.get? s.issue.slot = some w) (ranges : List (Nat × Nat)) :
    Ready s.issue.slot w.task (s.outside ranges) s := ⟨⟨w, hw, rfl⟩, rfl, fun _ ha => ha.2⟩

/-- A word stays ready over the checks of its accesses, which may write records of races. -/
theorem Framed.ready_checked {slot task : Nat} {ds : List RegName} {P : Nat → Prop} {s u : State}
    (h : Framed slot task ds (fun _ => False) s u) (hs : Ready slot task P s) : Ready slot task P u := by
  obtain ⟨htask, hslot, hforced⟩ := hs
  obtain ⟨htask', hslot', -⟩ := h.ready ⟨htask, hslot, fun _ hf => hf.elim⟩
  exact ⟨htask', hslot', fun a ha => by rw [inForced_congr h.contexts]; exact hforced a ha⟩

theorem leaves_congr {s t z : State} (hmem : z.mem = t.mem) (hver : z.versions = t.versions) (k a : Nat) :
    s.leaves z k a ↔ s.leaves t k a := by
  unfold State.leaves State.byteAt State.version
  rw [hmem, hver]

/-- What the word leaves: against u, every byte outside some ranges and the counts of forced commits; and against the state at issue, other
tasks' versions, other waves' registers, and every register of its wave but ds. -/
def State.framesWord (s : State) (j : Instr) (w : Wave) (ranges : List (Nat × Nat)) (u : State) (ds : List RegName) : Prop :=
  ∃ z x, exec j s = .next z ∧ z.waves.get? s.issue.slot = some x ∧
    (∀ a, ¬inRanges ranges a → ¬s.inForced a → u.leaves z w.task a) ∧ (∀ n, n ≠ w.task → z.version n = s.version n) ∧
    w.keeps x ds ∧ s.othersKeep z s.issue.slot

/-- The wave of a word that issues, which finds nothing that waits. -/
theorem issues_found {i : Instr} {s : State} {w : Wave} (h : issues i s w = true) :
    s.waves.get? s.issue.slot = some w ∧ s.stall = [] := by
  obtain ⟨hw, -, -, hs, -⟩ := issues_iff.1 h
  exact ⟨hw, hs⟩

/-- Access checks that lead to u, and then an operation that leads to y, frame the word that leaves y: its bytes against u, everything else
against the state at issue. -/
theorem framesWord_of_frames {j : Instr} {q : Sched} {s u y : State} {w : Wave} {ds : List RegName} {ranges : List (Nat × Nat)}
    (h : issues j s w = true) (hv : versionsOk s.versions = true) (he : exec j s = .next (s.after q (.done y)))
    (hu : Frames s.issue.slot w.task ds (fun _ => False) s u) (hwait : y.stall = [] → u.stall = [])
    (hy : Ready s.issue.slot w.task (s.outside ranges) u → Frames s.issue.slot w.task ds (s.outside ranges) u y) (hs : y.stall = []) :
    s.framesWord j w ranges u ds := by
  have hw := (issues_found h).1
  have fu := hu (hwait hs)
  have hy := hy (fu.ready_checked (ready_outside hw ranges))
  obtain ⟨z, x, rfl, hx, -, hversions, hkeeps, hothers⟩ :=
    after_frames q ((hu.trans (hy.mono (fun _ h => h) fun _ h => h.elim)) hs) ⟨⟨w, hw, rfl⟩, rfl, fun _ h => h.elim⟩
  obtain ⟨hrest, -⟩ := settle_done y (s.launchesAt s.issue.slot) s.issue (gapOf q s.issue.held) q.giveWay
  obtain ⟨hmem, -, hver, -⟩ := by simpa only [State.rest, Prod.mk.injEq] using hrest
  obtain ⟨horder, -⟩ := fu.order hv
  obtain ⟨-, hleaves⟩ := (hy hs).order horder
  exact ⟨_, x, he, hx, fun a hr hf => (leaves_congr hmem hver w.task a).2 (hleaves a ⟨hr, hf⟩), hversions, hkeeps w hw, hothers⟩

/-- A byte outside the places of some accesses of n bytes. -/
theorem outside_places {s : State} {n a : Nat} {as : List Acc} (h : s.outside (as.map fun x => (x.pa, n)) a) :
    ∀ x ∈ as, ¬(x.pa ≤ a ∧ a < x.pa + n) := fun _ hx hc => h.1 ⟨_, List.mem_map_of_mem hx, hc⟩

/-! ### Stores -/

theorem countWord_mem (s : State) (w : Wave) : (s.countWord w).mem = s.mem := by
  unfold State.countWord
  split <;> rfl

/-- The checks of accesses that no RACELOG page sees write nothing. -/
theorem grants_mem {s u : State} {w : Wave} {n : Nat} {want : Want} {race : Option Bool} {addr : List (Nat × Nat)} {as : List Acc}
    (h : (s.countWord w).grants w n want race addr u as) (hl : ∀ a ∈ as, pteRaceLog a.pte = false) : u.mem = s.mem := by
  obtain ⟨⟨hmem, -⟩, -⟩ := (grants_frames (slot := 0) (task := 0) h).2 (.inr hl)
  exact hmem.trans (countWord_mem s w)

/-- From the issue of a word to the end of its checks. -/
theorem checked_frames {s u : State} {w : Wave} {n : Nat} {want : Want} {race : Option Bool} {addr : List (Nat × Nat)} {as : List Acc}
    {j : Instr} (h : issues j s w = true) (hg : (s.countWord w).grants w n want race addr u as) :
    Frames s.issue.slot w.task [] (fun _ => False) s u :=
  (countWord_frames s w (issues_found h).1).trans (grants_frames hg).1

/-- A store to global memory whose accesses are granted. -/
theorem vst_granted {q : Sched} {vs : VReg} {base : BitVec 5} {voff : BitVec 7} {k : Width} {s u : State} {w : Wave} {as : List Acc}
    (h : issues (.vst q vs base voff k) s w = true)
    (hg : (s.countWord w).grants w (Width.bytes k) { rd := false, wr := true } (some true)
      (s.issue.activeLanes.map fun l => (l, s.issue.globalVa base voff l)) u as)
    (hs : (u.storeLanes w (as.map fun a => (a, s.issue.storeData vs k a.lane))).stall = []) :
    exec (.vst q vs base voff k) s = .next (s.after q (.done (u.storeLanes w (as.map fun a => (a, s.issue.storeData vs k a.lane))))) := by
  rw [exec_vst]
  refine issueWord_does h ?_ hs (by simp)
  simp only [countWord_issue, globalAccess_grants hg]

/-- Lanes that store n bytes each, at the places of their accesses. -/
theorem storeLanes_frames_places {slot : Nat} {s u : State} {w : Wave} {n : Nat} {as : List Acc} {data : Acc → List Byte}
    (hn : ∀ a, (data a).length = n) (hs : Ready slot w.task (s.outside (as.map fun a => (a.pa, n))) u) :
    Frames slot w.task [] (s.outside (as.map fun a => (a.pa, n))) u (u.storeLanes w (as.map fun a => (a, data a))) := by
  refine storeLanes_frames u w _ hs fun b hb x hx => ?_
  obtain ⟨a, ha, rfl⟩ := List.mem_map.1 hx
  rw [hn]
  exact outside_places hb a ha

/-- What a scalar store leaves alone, in a capsule body and elsewhere. -/
theorem scalarStored_frames {slot : Nat} {P : Nat → Prop} {u : State} {w : Wave} {a : Acc} {data : List Byte} (hs : Ready slot w.task P u)
    (hp : ∀ b, P b → ¬(a.pa ≤ b ∧ b < a.pa + data.length)) : Frames slot w.task [] P u (u.scalarStored w a data) := by
  unfold State.scalarStored
  split
  · have hnum : Same u { u with nextNum := u.nextNum + 1 } := ⟨⟨rfl, rfl, rfl, rfl, rfl⟩, id⟩
    exact hnum.frames.trans (modWave_frames _ _ (fun _ => rfl) fun _ => ⟨rfl, rfl⟩)
  · refine (storeLanes_frames u w _ hs fun b hb x hx => ?_).trans (noteOwn_frames _ _ _)
    rw [List.mem_singleton.1 hx]
    exact hp b hb

theorem scalarStored_stall {u : State} {w : Wave} {a : Acc} {data : List Byte} (h : (u.scalarStored w a data).stall = []) :
    u.stall = [] := by
  unfold State.scalarStored at h
  split at h
  · exact h
  · exact storeLanes_stall _ _ _ (noteOwn_stall _ _ _ h)

/-- The bytes of n / 4 consecutive registers, n a number of whole registers. -/
theorem storeBytes_run {n : Nat} (hn : n % 4 = 0) (first : Nat) (f : Nat → Word) : storeBytes n ((run first (n / 4)).map f) =
    ((List.range (n / 4)).map fun k => f (first + k)).flatMap fun v => leBytes 4 v.toNat := by
  have h := storeBytes_whole ((run first (n / 4)).map f)
  have hlength : 4 * ((run first (n / 4)).map f).length = n := by simp [run]; omega
  rw [hlength, run_map] at h
  rw [run_map, h]

/-! ### Releases -/

/-- A release that goes on found nothing that waits. -/
theorem released_stall {t c : State} {w : Wave} {scope : Nat} (h : t.released w scope = some c) : t.stall = [] := by
  unfold State.released at h
  extract_lets x at h
  have hx : x.stall = [] → t.stall = [] := by
    simp only [x]
    split
    · exact commit_stall t _
    · exact id
  split at h
  · rename_i hc
    exact hx hc.1
  · cases h

theorem releasedFor_stall {t c : State} {w : Wave} {ord scope : Nat} (h : t.releasedFor w ord scope c) (hc : c.stall = []) : t.stall = [] := by
  unfold State.releasedFor at h
  split at h
  · exact released_stall h
  · rwa [← h]

theorem releasedFor_frames {slot task ord scope : Nat} {ds : List RegName} {P : Nat → Prop} {t c : State} {w : Wave}
    (h : t.releasedFor w ord scope c) (hs : Ready slot task P t) : Frames slot task ds P t c := by
  unfold State.releasedFor at h
  split at h
  · exact released_frames h hs
  · rw [h]
    exact Frames.refl _ _ _ _ _

/-! ### Atomics -/

theorem atomLanes_stall (s : State) (w : Wave) (n : Nat) (f : AtomFun) (as : List (Acc × List Word))
    (h : (s.atomLanes w n f as).state.stall = []) : s.stall = [] := by
  unfold State.atomLanes at h
  extract_lets slot c r at h
  have hr : r.state.stall = [] := by
    have hstore := enterNow_stall _ _ _ _ h
    split at hstore
    · exact hstore
    · exact store_stall _ _ hstore
  exact commit_stall s slot ((ordered_same ..).2 ((lanes_same ..).1.2 hr))

section
variable {slot task n ord scope : Nat} {ds : List RegName} {P : Nat → Prop} {c : State} {w : Wave} {f : AtomFun} {as : List Acc}
  {operand : Nat → List Word} {write : State → List (Nat × Nat) → State}

theorem atomDone_stall (hwait : ∀ t old, (write t old).stall = [] → t.stall = [])
    (h : (c.atomDone w n f as operand write ord scope).stall = []) : c.stall = [] :=
  atomLanes_stall _ _ _ _ _ (hwait _ _ (noteOwn_stall _ _ _ (atomAcquire_stall _ _ _ h)))

/-- The lanes of an atomic, the write of their old values to registers, and the acquire. -/
theorem atomDone_frames (hs : Ready slot w.task P c) (hp : ∀ a, P a → ∀ x ∈ as, ¬(x.pa ≤ a ∧ a < x.pa + n))
    (hwait : ∀ t old, (write t old).stall = [] → t.stall = [])
    (hwrite : ∀ t old, Ready slot w.task P t → Frames slot w.task ds P t (write t old)) :
    Frames slot w.task ds P c (c.atomDone w n f as operand write ord scope) := by
  let r := c.atomLanes w n f (as.map fun a => (a, operand a.lane))
  have hlanes : Frames slot w.task ds P c r.state := by
    refine (atomLanes_frames c w n f _ hs fun a ha x hx => ?_).mono (by simp) fun _ h => h
    obtain ⟨y, hy, rfl⟩ := List.mem_map.1 hx
    exact hp a ha y hy
  have hold : Frames slot w.task ds P c (write r.state r.old) := hlanes.next hs (hwait _ _) (hwrite _ _)
  exact (hold.trans (noteOwn_frames _ _ _)).next hs (atomAcquire_stall _ _ _) fun hr => atomAcquire_frames _ _ _ hr.2.1

/-- A granted atomic on global memory, from the issue of its word. -/
theorem globalAtomic_frames {s u : State} {addr : List (Nat × Nat)} (hw : s.waves.get? s.issue.slot = some w)
    (hg : (s.countWord w).grants w n { rd := true, wr := true } none addr u as)
    (hs : Ready s.issue.slot w.task (s.outside (as.map fun a => (a.pa, n))) s) (hc : (u.afterRemote w n as).releasedFor w ord scope c)
    (hwait : ∀ t old, (write t old).stall = [] → t.stall = [])
    (hwrite : ∀ t old, Ready s.issue.slot w.task (s.outside (as.map fun a => (a.pa, n))) t →
      Frames s.issue.slot w.task ds (s.outside (as.map fun a => (a.pa, n))) t (write t old)) :
    Frames s.issue.slot w.task ds (s.outside (as.map fun a => (a.pa, n))) s (c.atomDone w n f as operand write ord scope) := by
  have hsame := (grants_frames (slot := s.issue.slot) (task := w.task) hg).2 (.inl rfl)
  have hremote : Frames s.issue.slot w.task ds (s.outside (as.map fun a => (a.pa, n))) s (u.afterRemote w n as) :=
    (countWord_frames s w hw).trans (hsame.trans (afterRemote_same u w n as)).frames
  have hrelease := hremote.next hs (releasedFor_stall hc) (releasedFor_frames hc)
  exact hrelease.next hs (atomDone_stall hwait) fun hr => atomDone_frames hr (fun _ => outside_places) hwait hwrite

/-- A granted atomic on global memory, whose old values go to the registers ds. -/
theorem globalAtomic_framesWord {j : Instr} {q : Sched} {s u : State} {addr : List (Nat × Nat)} (h : issues j s w = true)
    (hv : versionsOk s.versions = true) (hg : (s.countWord w).grants w n { rd := true, wr := true } none addr u as)
    (hc : (u.afterRemote w n as).releasedFor w ord scope c)
    (hwait : ∀ t old, (write t old).stall = [] → t.stall = [])
    (hwrite : ∀ t old, Ready s.issue.slot w.task (s.outside (as.map fun a => (a.pa, n))) t →
      Frames s.issue.slot w.task ds (s.outside (as.map fun a => (a.pa, n))) t (write t old))
    (he : exec j s = .next (s.after q (.done (c.atomDone w n f as operand write ord scope))))
    (hs : (c.atomDone w n f as operand write ord scope).stall = []) : s.framesWord j w (as.map fun a => (a.pa, n)) s ds :=
  framesWord_of_frames h hv he (Frames.refl _ _ _ _ _) (fun _ => (issues_found h).2)
    (fun hready => globalAtomic_frames (issues_found h).1 hg hready hc hwait hwrite) hs

end

/-! ### `bfadd` -/

theorem bfDone_stall {c : State} {i : Issue} {vd : VReg} {as : List Acc} (h : (c.bfDone i vd as).stall = []) : c.stall = [] := by
  unfold State.bfDone at h
  extract_lets ls x at h
  have hx : (x.1.putNow (.vec vd.toNat x.2)).stall = [] := atomAcquire_stall _ _ _ h
  exact commit_stall c i.slot ((ordered_same ..).2 (bfBlocks_stall _ _ _ hx))

/-- A `bfadd` that goes on changes the blocks that its lanes name, and its status register. -/
theorem bfDone_frames {task : Nat} {i : Issue} {P : Nat → Prop} {c : State} {vd : VReg} {as : List Acc} (hs : Ready i.slot task P c)
    (hp : ∀ a, P a → ∀ x ∈ as, ¬(x.pa / 64 * 64 ≤ a ∧ a < x.pa / 64 * 64 + 64)) :
    Frames i.slot task [.v vd.toNat] P c (c.bfDone i vd as) := by
  unfold State.bfDone
  extract_lets ls x
  have hcommit : Frames i.slot task [.v vd.toNat] P c ((c.commit i.slot).ordered i.slot) :=
    (commit_frames c hs.task).trans (ordered_same ..).frames
  have hblocks : Frames i.slot task [.v vd.toNat] P c x.1 := by
    refine hcommit.trans (bfBlocks_frames ls _ _ fun a ha b hb => ?_)
    obtain ⟨y, hy, rfl⟩ := List.mem_map.1 (List.mem_eraseDups.1 hb)
    obtain ⟨z, hz, rfl⟩ := List.mem_map.1 hy
    exact hp a ha z hz
  have hstatus : Frames i.slot task [.v vd.toNat] P c (x.1.putNow (.vec vd.toNat x.2)) :=
    hblocks.next hs id fun hr => putNow_frames _ _ _ hr.2.1 List.mem_cons_self
  exact hstatus.next hs (atomAcquire_stall _ _ _) fun hr => atomAcquire_frames _ _ _ hr.2.1

/-- A granted `bfadd`, from the issue of its word. -/
theorem bfadd_frames {s u c : State} {w : Wave} {vd : VReg} {as : List Acc} {addr : List (Nat × Nat)} {ord scope : Nat}
    (hw : s.waves.get? s.issue.slot = some w)
    (hu : ((s.countWord w).checkLanes s.issue.slot w 8 8 0 { rd := true, wr := true, mside := true } addr).1 = u)
    (hc : u.releasedFor w ord scope c) (hs : Ready s.issue.slot w.task (s.outside (as.map fun a => (a.pa / 64 * 64, 64))) s) :
    Frames s.issue.slot w.task [.v vd.toNat] (s.outside (as.map fun a => (a.pa / 64 * 64, 64))) s (c.bfDone s.issue vd as) := by
  have hcheck : Frames s.issue.slot w.task [.v vd.toNat] (s.outside (as.map fun a => (a.pa / 64 * 64, 64))) s u :=
    (countWord_frames s w hw).trans (hu ▸ checkLanes_same ..).frames
  have hrelease := hcheck.next hs (releasedFor_stall hc) (releasedFor_frames hc)
  exact hrelease.next hs bfDone_stall fun hr =>
    bfDone_frames hr fun a ha x hx hin => ha.1 ⟨_, List.mem_map_of_mem hx, hin⟩

/-! ### `mstore` -/

theorem faultTile_frames (s : State) (clus tile cause : Nat) : (s.faultTile clus tile cause).mem = s.mem ∧
    (s.faultTile clus tile cause).versions = s.versions ∧ (s.faultTile clus tile cause).cores = s.cores ∧
    (s.faultTile clus tile cause).stall = s.stall := by
  unfold State.faultTile
  exact ⟨rfl, rfl, rfl, rfl⟩

/-- What a granted `mstore` leaves of memory, versions and cores: what its writes have left, where they do not wait, or nothing changed. -/
theorem mstoreComplete_leaves {s z : State} {clus : Nat} {r : Req} {x : StoreRec} {cells : List (Nat × List Byte)}
    (hr : s.grantedReq clus (fun r => r.tilePort) = some r) (hk : r.kind = .mstore x)
    (hcells : cells = (x.writes r.seed (((s.cluster clus).tiles.get? x.tile).map (·.data) |>.getD [])).1)
    (hz : exec (.mstoreComplete clus) s = .next z) :
    ∃ t, (t = s ∨ (s.storeAll clus r x cells).state? = some t ∧ t.stall = []) ∧
      z.mem = t.mem ∧ z.versions = t.versions ∧ z.cores = t.cores := by
  have hsettle {t y : State} (ht : (s.storeAll clus r x cells).state? = some t)
      (hy : y.mem = t.mem ∧ y.versions = t.versions ∧ y.cores = t.cores ∧ y.stall = t.stall)
      (he : settleEvent (storeAgent clus) s y = z) : ∃ t, (t = s ∨ (s.storeAll clus r x cells).state? = some t ∧ t.stall = []) ∧
        z.mem = t.mem ∧ z.versions = t.versions ∧ z.cores = t.cores := by
    obtain ⟨hmem, hver, hcores, hstall⟩ := hy
    rcases settleEvent_frames he with ⟨hs, rfl⟩ | hsame
    · exact ⟨t, .inr ⟨ht, hstall ▸ hs⟩, hmem, hver, hcores⟩
    · exact ⟨s, .inl rfl, hsame⟩
  rw [exec_mstoreComplete, execMstoreComplete, hr] at hz
  simp only [hk, ← hcells, Host.Outcome.next.injEq] at hz
  cases ho : s.storeAll clus r x cells with
  | ok t =>
    rw [ho] at hz hsettle
    exact hsettle rfl (endStore_frames t clus r x 0 _) hz
  | wait =>
    rw [ho] at hz
    exact ⟨s, .inl rfl, hz ▸ ⟨rfl, rfl, rfl⟩⟩
  | fault t cause =>
    rw [ho] at hz hsettle
    obtain ⟨hmem, hver, hcores, hstall⟩ := endStore_frames (t.faultTile clus x.tile cause) clus r x cause _
    obtain ⟨fmem, fver, fcores, fstall⟩ := faultTile_frames t clus x.tile cause
    exact hsettle rfl ⟨hmem.trans fmem, hver.trans fver, hcores.trans fcores, hstall.trans fstall⟩ hz

/-! ### The statement -/

/-- Settles O59: the operations of each word frame the state from the end of its checks on, and those before them store no byte but the
record of a race; an `mstore` leaves what its writes leave. -/
theorem frameOfGlobalStores : Obligations.FrameOfGlobalStores := by
  intro q vd sd voff base k w64 off s w i t frames places lanes regs sregs vdest sdest n m ord scope acts hv
  have hm : m = 4 ∨ m = 8 := by simp only [m]; split <;> simp
  refine ⟨fun h u as hg => ⟨grants_mem hg, ?vst⟩, fun h u a hg => ⟨fun hl => grants_mem hg (by simpa using hl), ?sst⟩, fun op => ?vatom, ?vcas,
    fun op => ?satom, ?scas, ?bfadd, ?mstore⟩
  case vst =>
    intro hs
    simp only [← storeData_eq] at hs
    exact framesWord_of_frames h hv (vst_granted h hg hs) (checked_frames h hg) (storeLanes_stall _ _ _)
      (storeLanes_frames_places fun a => storeData_length i vd k a.lane) hs
  case sst =>
    intro hs
    have hdata := storeBytes_run (by omega : m % 4 = 0) sd.toNat i.src.scalar
    have hlength := storeBytes_length m ((run sd.toNat (m / 4)).map i.src.scalar) (by simp [run]; omega)
    rw [hdata] at hlength
    refine framesWord_of_frames h hv (sst_granted rfl h hdata hg hs) (checked_frames h hg) scalarStored_stall (fun hready => ?_) hs
    refine scalarStored_frames hready fun b hb => ?_
    rw [hlength]
    exact outside_places hb a List.mem_cons_self
  case vatom =>
    exact fun h ha u as c hg hmk hc hr hs => globalAtomic_framesWord h hv hg hc (putOld_stall vd n) (putOld_frames vd n)
      (vatomGlobal_granted (exec_vatom ..) (operandCount_op _) h ha hg hmk hc hr hs) hs
  case vcas =>
    exact fun h ha u as c hg hmk hc hr hs => globalAtomic_framesWord h hv hg hc (putOld_stall vd n) (putOld_frames vd n)
      (vatomGlobal_granted (exec_vcas ..) (operandCount_cas _) h ha hg hmk hc hr hs) hs
  case satom =>
    exact fun h ha u as c hg hmk hc hr hs => globalAtomic_framesWord h hv hg hc (putOldScalar_stall sd m)
      (fun t old ht => putOldScalar_frames sd m t old ht hm)
      (scalarAtomic_granted (exec_satom ..) (operandCount_op _) h ha hg hmk hc hr hs) hs
  case scas =>
    exact fun h ha u as c hg hmk hc hr hs => globalAtomic_framesWord h hv hg hc (putOldScalar_stall sd m)
      (fun t old ht => putOldScalar_frames sd m t old ht hm)
      (scalarAtomic_granted (exec_scas ..) (operandCount_cas _) h ha hg hmk hc hr hs) hs
  case bfadd =>
    intro h ha r as c haligned hr hmk hc ls x hs
    exact framesWord_of_frames h hv (bfadd_granted h ha haligned (Prod.ext rfl hr) hmk hc hs) (Frames.refl _ _ _ _ _)
      (fun _ => (issues_found h).2) (bfadd_frames (issues_found h).1 rfl hc) hs
  case mstore =>
    intro clus r x cells z hr hk hcells hz
    obtain ⟨t, rfl | ⟨ht, hs⟩, hmem, hver, hcores⟩ := mstoreComplete_leaves hr hk hcells hz
    · exact ⟨fun _ => ⟨hmem, fun core o _ => by rw [State.core, hcores]; rfl⟩, fun _ a _ _ => (leaves_congr hmem hver r.task a).2 (leaves_refl ..)⟩
    · refine ⟨fun hx => ?spad, fun hx a hf hp => ?global⟩
      case spad =>
        obtain ⟨hmem', hspad⟩ := storeAll_spad clus r x hx cells s t ht
        refine ⟨hmem.trans hmem', fun core o ho => ?_⟩
        rw [State.core, hcores]
        exact hspad core o ho
      case global =>
        refine (leaves_congr hmem hver r.task a).2 ?_
        exact storeAll_global (P := fun b => b = a) clus r x hx cells s t hv (by rintro _ rfl; exact hf) (by rintro _ rfl; exact hp) ht hs a rfl

end Sys2Proof.Machine
end

section
/-! PROOF. What a word that hands work to an engine does beyond its own checks: a cause for its Leader, or a wait where the engine is full
(spec/04 R122, spec/11 R270). -/

namespace Sys2Proof.Machine

/-! ### Causes of the Leader -/

/-- The Leader is a lane. -/
theorem leaderOf_lt (m : DWord) : leaderOf m < 64 := by
  unfold leaderOf
  cases h : lanesOf m with
  | nil => decide
  | cons l ls =>
    have hl : l ∈ lanesOf m := h ▸ List.mem_cons_self
    exact List.mem_range.1 (List.mem_filter.1 hl).1

/-- A mask of one lane has that lane alone. -/
theorem lanesOf_single {l : Nat} (h : l < 64) : lanesOf (maskOf [l]) = [l] := by
  refine List.perm_singleton.1 ((List.perm_ext_iff_of_nodup (List.nodup_range.filter _) (List.nodup_singleton l)).2 fun k => ?_)
  rw [List.mem_filter, List.mem_range]
  constructor
  · rintro ⟨hk, hm⟩
    rw [maskOf, foldl_lanes_getLsbD k hk] at hm
    simpa using hm
  · intro hk
    obtain rfl := List.mem_singleton.1 hk
    rw [maskOf, foldl_lanes_getLsbD k h]
    simpa using h

/-- The lanes that raise a cause of an instruction that acts for its Leader. -/
theorem raising_leader {j : Instr} (hp : Instr.perLane j = false) (i : Issue) : lanesOf (i.raising j) = [i.leader] := by
  rw [Issue.raising, hp]
  exact lanesOf_single (leaderOf_lt i.lanes)

/-- A cause of the instruction as a whole is the Leader's. -/
theorem raiseAll_leader {j : Instr} (hp : Instr.perLane j = false) (i : Issue) (t : State) (cause info : Nat) :
    i.raiseAll t j cause info = .trap t { lane := i.leader, cause := cause, info := info, write := false, space := 0 } [] := by
  rw [Issue.raiseAll, bundleRaise, raising_leader hp]
  rfl

/-- A command that is refused at issue traps for the Leader. -/
theorem refuseCommand_leader {j : Instr} (hp : Instr.perLane j = false) (t : State) (cause info : Nat) :
    refuseCommand t j cause info = .trap t { lane := t.issue.leader, cause := cause, info := info, write := false, space := 3 } [] := by
  rw [refuseCommand, Issue.objectRaise, raising_leader hp]
  rfl

/-- A word whose body is refused traps for the Leader. -/
theorem performs_of_refuse {q : Sched} {j : Instr} {s : State} {w : Wave} {body : State → Wave → Did} {cause info : Nat}
    (hp : Instr.perLane j = false) (h : issues j s w = true) (he : exec j s = issueWord q j s body)
    (hb : body (s.countWord w) w = refuseCommand (s.countWord w) j cause info) :
    performs j q s w fun c => .trap c { lane := s.issue.leader, cause := cause, info := info, write := false, space := 3 } [] :=
  performs_of_does h he (by rw [hb, refuseCommand_leader hp, countWord_issue]) (issues_stall h) (by simp)

/-- A word that waits, where no capsule body holds it. -/
theorem performs_of_wait_out {q : Sched} {j : Instr} {s : State} {w : Wave} {body : State → Wave → Did} {d : State → State}
    (hc : Instr.inCapsule j = false) (h : issues j s w = true) (he : exec j s = issueWord q j s body)
    (hb : body (s.countWord w) w = .wait (d (s.countWord w))) (hs : (d (s.countWord w)).stall = []) : performs j q s w fun c => .wait (d c) := by
  rw [performs, he, issueWord_waits_out h hc hb hs]

end Sys2Proof.Machine
end

section
/-! PROOF. The copies and `oload` (spec/07 R177, spec/08 R196, R197, R201, R202). -/

namespace Sys2Proof.Machine

/-! ### A command is posted -/

/-- The command that a word posts, in a state whose version has committed where it commits. -/
def State.copyCmd (c : State) (i : Issue) (w : Wave) (kind : CopyKind) (bar : Option (Nat × Nat)) (sa : Nat) : CopyCmd :=
  { num := c.nextNum, team := w.team, ctx := w.ctx, task := w.task, launches := w.launches, kind := kind, bar := bar,
    layout := (i.src.pair (sa + 2)).toNat, coords := coordsOf (i.src.scalar (sa + 4)) (i.src.scalar (sa + 5)),
    after := c.teamAfter w 0, started := none, done := [], failed := [], fetched := [] }

/-- What a posted command leaves: it is the last of its cluster's copy engine. -/
def State.copyPosted (c : State) (i : Issue) (w : Wave) (kind : CopyKind) (bar : Option (Nat × Nat)) (sa : Nat) : State :=
  (({ c with nextNum := c.nextNum + 1 } : State).ordered i.slot).modCluster (clusOf (coreOf i.slot)) fun k =>
    { k with copies := k.copies ++ [c.copyCmd i w kind bar sa] }

/-- A command is posted, or its wave waits where the team has 64 of them. -/
theorem postCopy_eq (t : State) (w : Wave) (commit : Bool) (kind : CopyKind) (bar : Option (Nat × Nat)) (sa : Nat) :
    postCopy t w commit kind bar sa =
      if 64 ≤ t.copiesOf (clusOf (coreOf t.issue.slot)) w.team then .wait t
      else .done ((if commit then t.commit t.issue.slot else t).copyPosted t.issue w kind bar sa) := rfl

/-- A word that posts a command waits where the team has 64 of them, and else is done once the command is posted. -/
theorem posts_of_postCopy {q : Sched} {j : Instr} {s : State} {w : Wave} {body : State → Wave → Did} {commit : Bool} {kind : CopyKind}
    {bar : Option (Nat × Nat)} {sa : Nat} (hc : Instr.inCapsule j = false) (h : issues j s w = true) (he : exec j s = issueWord q j s body)
    (hb : body (s.countWord w) w = postCopy (s.countWord w) w commit kind bar sa) :
    let t := s.countWord w
    let n := t.copiesOf (clusOf (coreOf s.issue.slot)) w.team
    let z := (if commit then t.commit s.issue.slot else t).copyPosted s.issue w kind bar sa
    (64 ≤ n → performs j q s w fun c => .wait c) ∧ (n < 64 → z.stall = [] → exec j s = .next (s.after q (.done z))) := by
  rw [postCopy_eq, countWord_issue] at hb
  refine ⟨fun hn => ?full, fun hn hz => ?room⟩
  case full => exact performs_of_wait_out (d := id) hc h he (hb.trans (if_pos hn)) (issues_stall h)
  case room =>
    rw [he]
    exact issueWord_does h (hb.trans (if_neg (Nat.not_le.2 hn))) hz (by simp)

/-! ### Destinations -/

/-- A destination in a scratchpad: of KIND 0 or 2, with its reserved bits clear. -/
def spadDst (dst : Nat) : Prop := dst / 2 ^ 30 ≠ 1 ∧ dst / 2 ^ 30 ≠ 3 ∧ dst / 2 ^ 24 % 64 = 0

/-- A destination in the registers of one of some waves: of KIND 1, with its reserved bits clear. -/
def regsDst (waves dst : Nat) : Prop :=
  dst / 2 ^ 30 = 1 ∧ dst / 2 ^ 28 % 4 = 0 ∧ dst / 2 ^ 23 % 2 = 0 ∧ dst % 65536 = 0 ∧ dst / 2 ^ 24 % 16 < waves

/-- What `cpy` refuses of its destination before its alignment is what lies neither in a scratchpad nor in registers. -/
theorem cpyRefused_iff (waves dst : Nat) :
    (dst / 2 ^ 30 = 3 ∨ (dst / 2 ^ 30 ≠ 1 ∧ dst / 2 ^ 24 % 64 ≠ 0) ∨
      (dst / 2 ^ 30 = 1 ∧ (dst / 2 ^ 28 % 4 ≠ 0 ∨ dst / 2 ^ 23 % 2 ≠ 0 ∨ dst % 65536 ≠ 0 ∨ waves ≤ dst / 2 ^ 24 % 16))) ↔
    ¬ spadDst dst ∧ ¬ regsDst waves dst := by
  unfold spadDst regsDst
  by_cases h : dst / 2 ^ 30 = 1
  · simp only [h, ← Nat.not_lt]; tauto
  · simp only [h]; tauto

/-- What `cpym` accepts of its mask and its destination. -/
theorem cpymRefused_iff (mask dst : Nat) :
    (mask % 16 = 0 ∨ mask / 16 ≠ 0 ∨ dst / 2 ^ 24 ≠ 0) ↔ ¬(1 ≤ mask ∧ mask < 16 ∧ dst / 2 ^ 24 = 0) := by
  omega

/-- What `cpym` refuses of its windows: a destination, or a barrier where it has one, that is not in the cluster window with CORE 0. -/
theorem windowRefused_iff (dst bar : Nat) (b : Option (Nat × Nat)) :
    (!inWindow0 dst || (b.isSome && !inWindow0 bar)) = true ↔ inWindow0 dst = false ∨ (b.isSome = true ∧ inWindow0 bar = false) := by
  simp

/-! ### The statement -/

/-- Settles O38: each word asks of its destination, its alignment, its barrier and its place in this order, and posts the command that passes. -/
theorem copyWordsPost : Obligations.CopyWordsPost := by
  intro q sa sm s w i t clus reg dst kind mask posts traps inSpad inRegs masked
  refine ⟨fun h => ?cpy, fun h => ?cpym, fun h => ?oload⟩
  case cpy =>
    have he := exec_cpy q sa s
    have hrefused := cpyRefused_iff (((t.teams.get? w.team).map (·.waves)).getD 0) dst
    have hdest (hd : inSpad ∨ inRegs) := mt hrefused.1 fun hn => hd.elim hn.1 hn.2
    have hpass (hd : (inSpad ∧ dst % 16 = 0) ∨ inRegs) := hdest (hd.imp_left And.left)
    have haligned (hd : (inSpad ∧ dst % 16 = 0) ∨ inRegs) : ¬(kind ≠ 1 ∧ dst % 16 ≠ 0) := by
      rintro ⟨hk, ha⟩
      exact hd.elim (fun x => ha x.2) fun x => hk x.1
    have hplace {r} (hp : t.placeOf i.slot w (dst % 2 ^ 24) = r) : t.placeOf i.slot w ((i.src.scalar sa.toNat).toNat % 2 ^ 24) = r := hp
    refine ⟨fun hs hr => performs_of_refuse rfl h he ?dest, fun hs ha => performs_of_refuse rfl h he ?align,
      fun e hd hb => performs_of_refuse rfl h he ?bar, fun bar hs ha hb hp => performs_of_refuse rfl h he ?place,
      fun bar p hs ha hb hp => posts_of_postCopy rfl h he ?spad, fun bar hr hb => posts_of_postCopy rfl h he ?regs⟩
    all_goals simp only [countWord_issue]
    case dest => exact if_pos (hrefused.2 ⟨hs, hr⟩)
    case align => exact (if_neg (hdest (.inl hs))).trans (if_pos ⟨hs.1, ha⟩)
    case bar => exact (if_neg (hpass hd)).trans ((if_neg (haligned hd)).trans (by rw [hb]))
    case regs =>
      refine (if_neg (hpass (.inr hr))).trans ((if_neg (haligned (.inr hr))).trans ?_)
      rw [hb]
      exact if_pos hr.1
    all_goals
      refine (if_neg (hpass (.inl ⟨hs, ha⟩))).trans ((if_neg (haligned (.inl ⟨hs, ha⟩))).trans ?_)
      rw [hb]
      refine (if_neg hs.1).trans ?_
      rw [hplace hp] <;> rfl
  case cpym =>
    have he := exec_cpym q sa sm s
    have hrefused := cpymRefused_iff mask dst
    have hplace {r} (hp : t.placeOf i.slot w dst = r) : t.placeOf i.slot w (i.src.scalar sa.toNat).toNat = r := hp
    refine ⟨fun hm => performs_of_refuse rfl h he ?mask, fun hm ha => performs_of_refuse rfl h he ?misaligned,
      fun e hm ha hb => performs_of_refuse rfl h he ?barrier, fun bar hm ha hb hp => performs_of_refuse rfl h he ?window,
      fun bar p hm ha hb hp hw hbw => posts_of_postCopy rfl h he ?multi⟩
    all_goals simp only [countWord_issue]
    case mask => exact if_pos (hrefused.2 hm)
    all_goals refine (if_neg (mt hrefused.1 (not_not_intro hm))).trans ?_
    case misaligned => exact if_pos ha
    all_goals
      refine (if_neg (not_not_intro ha)).trans ?_
      rw [hb]
    case window =>
      cases hq : t.placeOf i.slot w dst with
      | none => rfl
      | some p =>
        refine if_pos ((windowRefused_iff ..).2 (hp.resolve_left ?_))
        rw [hq]
        exact Option.some_ne_none p
    case multi =>
      rw [hplace hp]
      refine if_neg (mt (windowRefused_iff ..).1 ?_)
      rintro (hn | ⟨hbar, hn⟩)
      · exact Bool.eq_false_iff.1 hn hw
      · exact Bool.eq_false_iff.1 hn (hbw hbar)
  case oload =>
    have he := exec_oload q sa s
    intro held
    have hheld : (64 ≤ dst ∨ (t.cluster t.hereClus).holdsSlot w.team dst = false) ↔ ¬held := by
      rw [not_and_or, Nat.not_lt, Bool.not_eq_true]
    refine ⟨fun hn => ?slot, fun e hh hb => performs_of_refuse rfl h he ?slotBarrier, fun bar hh hb => posts_of_postCopy rfl h he ?row⟩
    case slot =>
      refine performs_of_does h he ?_ (issues_stall h) (by simp)
      simp only [countWord_issue]
      refine (if_pos (hheld.2 hn)).trans ?_
      rw [slotFault, raiseAll_leader rfl, countWord_issue]
    all_goals
      simp only [countWord_issue]
      refine (if_neg (mt hheld.1 (not_not_intro hh))).trans ?_
      rw [hb] <;> rfl

end Sys2Proof.Machine
end

section
/-! PROOF. Claims and releases of tiles and slots (spec/07 R173 to R176, R179). -/

namespace Sys2Proof.Machine

/-- The numbers set in a mask are those whose bit is set. -/
theorem bitsSet_testBit (n x : Nat) : bitsSet n x = (List.range n).filter fun k => x.testBit k :=
  List.filter_congr fun _ _ => Nat.testBit_eq_decide_div_mod_eq.symm

/-- A mask below 2^n that is not zero has a number. -/
theorem bitsSet_ne_nil {n x : Nat} (h0 : x ≠ 0) (hx : x < 2 ^ n) : bitsSet n x ≠ [] := by
  obtain ⟨k, hk⟩ := Nat.exists_testBit_of_ne_zero h0
  have hn : k < n := (Nat.pow_lt_pow_iff_right (by decide)).1 (lt_of_le_of_lt (Nat.ge_two_pow_of_testBit hk) hx)
  rw [bitsSet_testBit]
  exact List.ne_nil_of_mem (List.mem_filter.2 ⟨List.mem_range.2 hn, hk⟩)

/-- A record in a scratchpad whose place passes the checks of an object is read there. -/
theorem recordAt_place {s : State} {w : Wave} {j : Instr} {sa : SReg} {n core off : Nat} {body : List Byte → Did}
    (h : (s.countWord w).objectAt w (s.issue.src.scalar sa.toNat).toNat n = some (core, off)) :
    recordAt (s.countWord w) w j sa n body = body ((s.countWord w).spadBytes core off n) :=
  spadObject_at (by rwa [countWord_issue])

/-- A claim is done, whether what it names is free or not. -/
theorem claim_does (free : Bool) (t : State) (w : Wave) (f : Cluster → Cluster) :
    (if !free then Did.done (t.putNow (.cond false)) else .done ((t.modCluster t.hereClus f).beginFill w)) =
      .done (if free then (t.modCluster t.hereClus f).beginFill w else t.putNow (.cond false)) := by
  cases free <;> rfl

/-- A claim meets no stall. -/
theorem claim_stall (free : Bool) {t : State} (w : Wave) (f : Cluster → Cluster) (h : t.stall = []) :
    (if free then (t.modCluster t.hereClus f).beginFill w else t.putNow (.cond false)).stall = [] := by
  cases free <;> exact h

/-- Settles O40: a claim asks first who holds the tiles or slots, and then whether they are free; a release asks who holds them. -/
theorem claimsAndReleases : Obligations.ClaimsAndReleases := by
  intro q sa s w i t k x tiles slots took
  have hi : t.issue = i := countWord_issue s w
  have htiles : bitsSet 16 x = tiles := bitsSet_testBit 16 x
  have hslots : bitsSet 64 (i.src.pair sa.toNat).toNat = slots := bitsSet_testBit 64 _
  have hmask (h0 : x ≠ 0) (hx : x < 65536) : tiles ≠ [] ∧ x / 65536 = 0 :=
    ⟨htiles ▸ bitsSet_ne_nil h0 hx, Nat.div_eq_of_lt hx⟩
  refine ⟨fun h h0 hx hn => ?aclaim, fun h h0 hx hn => ?arel, fun core off h hat => ?oclaim, fun h h0 hn => ?orel⟩
  case aclaim =>
    obtain ⟨hne, hhigh⟩ := hmask h0 hx
    have hother : tiles.any (k.holdsTile w.team) = false := by simpa using hn
    refine completes_of_does h (exec_aclaim q sa s) ?_ (claim_stall _ w _ (issues_stall h))
    rw [← claim_does]
    dsimp only
    rw [hi, htiles, if_neg (not_or.2 ⟨hne, not_or.2 ⟨not_not_intro hhigh, ne_true_of_eq_false hother⟩⟩)]
  case arel =>
    obtain ⟨hne, hhigh⟩ := hmask h0 hx
    have hown : tiles.all (k.holdsTile w.team) = true := List.all_eq_true.2 hn
    refine completes_of_does h (exec_arel q sa s) ?_ (issues_stall h)
    dsimp only
    rw [hi, htiles, if_neg (not_or.2 ⟨hne, not_or.2 ⟨not_not_intro hhigh, ne_false_of_eq_true hown⟩⟩)]
  case oclaim =>
    intro r hv hn
    have hother : r.slots.any (k.holdsSlot w.team) = false := by simpa using hn
    refine completes_of_does h (exec_oclaim q sa s) ?_ (claim_stall _ w _ (issues_stall h))
    rw [← claim_does, recordAt_place hat]
    dsimp only
    have hok : (!r.valid || r.slots.any (k.holdsSlot w.team)) = false := by rw [hv, hother]; rfl
    rw [if_neg (ne_true_of_eq_false hok)]
  case orel =>
    have hown : slots.all (k.holdsSlot w.team) = true := List.all_eq_true.2 hn
    refine completes_of_does h (exec_orel q sa s) ?_ (issues_stall h)
    dsimp only
    rw [hi, hslots, if_neg (not_or.2 ⟨h0, ne_false_of_eq_true hown⟩)]

end Sys2Proof.Machine
end

section
/-! PROOF. The words of the matrix engine (spec/07 R180 to R183, R186 to R189). -/

namespace Sys2Proof.Machine

/-! ### A request is posted -/

/-- The request that a word posts. -/
def State.matrixReq (t : State) (i : Issue) (w : Wave) (kind : ReqKind) : Req :=
  { num := t.nextNum, team := w.team, ctx := w.ctx, slot := i.slot, task := w.task, launches := w.launches,
    prio := ((t.teams.get? w.team).map (·.prio)).getD w.prio, kind := kind, after := t.teamAfter w 3, fmode := w.fmode, seed := w.seed,
    eligible := none, granted := false }

/-- What a posted request leaves: it is the last of the table of its cluster's matrix engine. -/
def State.reqPosted (t : State) (i : Issue) (w : Wave) (kind : ReqKind) : State :=
  ((({ t with nextNum := t.nextNum + 1 } : State).ordered i.slot).modCluster t.hereClus fun k =>
    { k with resv := k.resv ++ [t.matrixReq i w kind] }).stampReqs t.hereClus

/-- A request is posted, or its wave waits where the table is full. -/
theorem postReq_eq (t : State) (w : Wave) (kind : ReqKind) :
    postReq t w kind = if 32 ≤ (t.cluster t.hereClus).resv.length then .wait t else .done (t.reqPosted t.issue w kind) := rfl

/-- A word that posts a request waits while the table is full, and else is done once the request is posted. -/
theorem posts_of_postReq {q : Sched} {j : Instr} {s : State} {w : Wave} {body : State → Wave → Did} {kind : ReqKind}
    (hc : Instr.inCapsule j = false) (h : issues j s w = true) (he : exec j s = issueWord q j s body)
    (hb : body (s.countWord w) w = postReq (s.countWord w) w kind) :
    let t := s.countWord w
    let n := (t.cluster t.hereClus).resv.length
    let z := t.reqPosted s.issue w kind
    (32 ≤ n → performs j q s w fun c => .wait c) ∧ (n < 32 → z.stall = [] → exec j s = .next (s.after q (.done z))) := by
  rw [postReq_eq, countWord_issue] at hb
  refine ⟨fun hn => ?full, fun hn hz => ?room⟩
  case full => exact performs_of_wait_out (d := id) hc h he (hb.trans (if_pos hn)) (issues_stall h)
  case room =>
    rw [he]
    exact issueWord_does h (hb.trans (if_neg (Nat.not_le.2 hn))) hz (by simp)

/-- Where the places that a store needs are found, it is not refused one. -/
theorem needed_placed {α : Type} {spad scale : Bool} {dst sc : Option α} (hdst : spad = true → dst.isSome = true)
    (hsc : spad = true → scale = true → sc.isSome = true) : (spad && dst.isNone || (scale && (spad && sc.isNone))) = false := by
  cases spad with
  | false => simp
  | true => cases scale <;> simp_all

/-! ### The statement -/

/-- Settles O41: each word passes its checks one by one, and then posts its request; `mwait` asks for the requests before it, and then for the
fault of its tile. -/
theorem matrixWordsPost : Obligations.MatrixWordsPost := by
  intro q sa tile s w i t clus k x posts
  refine ⟨fun core off h hat => ?mma, fun h ht => ?mzero, fun h ht => ?mwait, fun core off team bar h hat hteam => ?mstore⟩
  case mma =>
    intro b f kext hacc ha hb hz hres htile hsa hsb h1 hka hkb
    refine posts_of_postReq rfl h (exec_mma q sa s) ?_
    rw [recordAt_place hat]
    refine if_neg ?_
    rintro (e | e | e | e | e | e | e | e | e | e)
    exacts [e (Nat.div_eq_of_lt hacc), e (Nat.div_eq_of_lt ha), e (Nat.div_eq_of_lt hb), e (Nat.div_eq_of_lt hz), e hres,
      Bool.eq_false_iff.1 e htile, Bool.eq_false_iff.1 e hsa, Bool.eq_false_iff.1 e hsb, Nat.one_le_iff_ne_zero.1 h1 e,
      Nat.not_le.2 e (Nat.le_min.2 ⟨hka, hkb⟩)]
  case mzero => exact posts_of_postReq rfl h (exec_mzero q tile s) (if_pos ht)
  case mwait =>
    intro from_ busy
    have hheld : (!k.holdsTile w.team tile.toNat) = false := by rw [ht]; rfl
    refine ⟨fun hbusy => ?waits, fun hidle => ?goes⟩
    case waits =>
      refine performs_of_wait_out (d := fun c => c.wave fun x => { x with mwait := some (i.first, from_) }) rfl h (exec_mwait q tile s) ?_
        (issues_stall h)
      dsimp only
      rw [if_neg (ne_true_of_eq_false hheld), if_pos hbusy, countWord_issue]
    case goes =>
      refine performs_of_does h (exec_mwait q tile s) ?same ?stall ?nowait
      case same =>
        dsimp only
        rw [if_neg (ne_true_of_eq_false hheld), if_neg (ne_true_of_eq_false hidle), raiseAll_leader rfl, countWord_issue]
      case stall => dsimp only; split_ifs <;> exact issues_stall h
      case nowait => dsimp only; intro u; split_ifs <;> exact Did.noConfusion
  case mstore =>
    intro b f scale spad hdst hsc hbar16 hbar hplace hscale hok
    refine posts_of_postReq rfl h (exec_mstore q sa s) ?_
    rw [recordAt_place hat]
    dsimp only
    rw [hteam, countWord_issue]
    refine (if_neg ?misaligned).trans ?_
    case misaligned =>
      rintro (e | ⟨hs, e⟩ | ⟨hne, e⟩)
      exacts [e hdst, e (hsc hs), hbar16.elim hne e]
    rw [hbar]
    have hrec : (!storeRecOk k w.team b) = false := by rw [hok]; rfl
    exact (if_neg (ne_true_of_eq_false (needed_placed hplace hscale))).trans (if_neg (ne_true_of_eq_false hrec))

end Sys2Proof.Machine
end

section
/-! PROOF. The events of the copy engine and of the matrix engine (spec/07 R175, R177, R183 to R190, spec/08 R198 to R201). -/

namespace Sys2Proof.Machine

/-- An event that meets no stall leaves what it has done. -/
theorem settleEvent_done {agent : Nat} {s z : State} (h : z.stall = []) : settleEvent agent s z = z := if_pos h

/-! ### The start of a command -/

/-- A copy at the head of its team's queue starts in its turn. -/
theorem execCopyCommandStart_starts {s : State} {clus team : Nat} {c : CopyCmd} (hc : s.headCopy clus team = some c)
    (hr : s.copyReady clus c = true) (ht : turnOf (s.cluster clus).lastTeam team (s.readyTeams clus) = true) (hk : isOload c.kind = false)
    (hs : (s.startCopy clus team c layoutOf).stall = []) :
    execCopyCommandStart clus team s = .next (s.startCopy clus team c layoutOf) := by
  simp only [execCopyCommandStart, hc, hr, ht, hk, Bool.not_false, Bool.and_self, if_true, settleEvent_done hs]

/-- An `oload` at the head of its team's queue starts in its turn. -/
theorem execOloadStart_starts {s : State} {clus team n : Nat} {c : CopyCmd} {x : OSlot} (hc : s.headCopy clus team = some c)
    (hr : s.copyReady clus c = true) (ht : turnOf (s.cluster clus).lastTeam team (s.readyTeams clus) = true) (hk : c.kind = .oload n)
    (hx : (s.cluster clus).slots.get? n = some x) (hs : (s.startOload clus team c n x).stall = []) :
    execOloadStart clus team s = .next (s.startOload clus team c n x) := by
  simp only [execOloadStart, hc, hk, hx, hr, ht, Bool.and_self, if_true, settleEvent_done hs]

/-! ### Portions -/

/-- A portion read for a command that copies from a tensor: its bytes with their offsets in the image, or a cause. -/
def State.readPortion (s : State) (clus : Nat) (c : CopyCmd) (w : Window) (d : Dest) (p : Nat) : State × Except Nat (List (Nat × Byte)) :=
  s.readImage clus c none ((c.offsets w d p).map fun o => (o, w.piece o))

/-- What a portion that reads the tensor leaves, where its bytes land as f says. -/
def State.landRead (s : State) (clus : Nat) (c : CopyCmd) (w : Window) (d : Dest) (p : Nat) (f : State → List (Nat × Byte) → State) : State :=
  let r := s.readPortion clus c w d p
  match r.2 with
  | .error e => r.1.failCopy clus c (some w) e
  | .ok bytes => f r.1 bytes

/-- What a portion of a command leaves, by the command's KIND. -/
def State.landPortion (s : State) (clus : Nat) (c : CopyCmd) (w : Window) (d : Dest) (p : Nat) : State :=
  match c.kind with
  | .toTensor _ _ _ => s.landTensor clus c w d p
  | .oload slot => s.landRow clus c w d slot p
  | .toRegs wave first => s.landRead clus c w d p fun t bytes => t.landRegisters clus c w d p wave first bytes
  | .toSpad _ _ _ => s.landRead clus c w d p fun t bytes => t.landLine clus c w d p bytes
  | .multi _ _ =>
    match c.fetched.get? p with
    | some bytes => s.landLine clus c w d p bytes
    | none => s.landRead clus c w d p fun t bytes => t.landLine clus { c with fetched := c.fetched.put p bytes } w d p bytes

section
variable {s : State} {clus team portion : Nat} {c : CopyCmd} {w : Window} {d : Dest}

/-- A portion of the command in hand lands, unless it has landed, its destination has faulted, or the destination has no such portion. -/
theorem execCopyPortionWrite_eq (hc : s.headCopy clus team = some c) (hw : c.started = some w)
    (hd : (c.dests clus).find? (fun d => decide (d.num = portion / 65536)) = some d) :
    let p := portion % 65536
    execCopyPortionWrite clus team portion s = .next (
      if c.done.contains (portionKey d p) || c.failed.contains d.num || decide (c.portions w d ≤ p) then s
      else settleEvent clus s ((s.landPortion clus c w d p).copyWork clus c)) := by
  simp only [execCopyPortionWrite, hc, hw, hd, State.landPortion, State.landRead, State.readPortion] <;> rfl

/-- A read that is refused faults the command. -/
theorem landRead_error {p e : Nat} {f : State → List (Nat × Byte) → State}
    (h : (s.readPortion clus c w d p).2 = .error e) :
    s.landRead clus c w d p f = (s.readPortion clus c w d p).1.failCopy clus c (some w) e := by
  simp only [State.landRead, h]

/-- The bytes of a read that is served land. -/
theorem landRead_ok {p : Nat} {f : State → List (Nat × Byte) → State} {bytes : List (Nat × Byte)}
    (h : (s.readPortion clus c w d p).2 = .ok bytes) :
    s.landRead clus c w d p f = f (s.readPortion clus c w d p).1 bytes := by
  simp only [State.landRead, h]

/-- A portion lands as its KIND says, where nothing meets a stall. -/
theorem execCopyPortionWrite_lands {z : State} (hc : s.headCopy clus team = some c) (hw : c.started = some w)
    (hd : (c.dests clus).find? (fun d => decide (d.num = portion / 65536)) = some d)
    (hdone : c.done.contains (portionKey d (portion % 65536)) = false) (hfailed : c.failed.contains d.num = false)
    (hp : portion % 65536 < c.portions w d) (hz : s.landPortion clus c w d (portion % 65536) = z) (hs : (z.copyWork clus c).stall = []) :
    execCopyPortionWrite clus team portion s = .next (z.copyWork clus c) := by
  rw [execCopyPortionWrite_eq hc hw hd, hdone, hfailed, decide_eq_false (Nat.not_le.2 hp), hz, settleEvent_done hs]
  rfl

/-- A portion that has landed, or that will not, changes nothing. -/
theorem execCopyPortionWrite_over (hc : s.headCopy clus team = some c) (hw : c.started = some w)
    (hd : (c.dests clus).find? (fun d => decide (d.num = portion / 65536)) = some d)
    (h : c.done.contains (portionKey d (portion % 65536)) = true ∨ c.failed.contains d.num = true ∨ c.portions w d ≤ portion % 65536) :
    execCopyPortionWrite clus team portion s = .next s := by
  rw [execCopyPortionWrite_eq hc hw hd, if_pos]
  rwa [Bool.or_eq_true, Bool.or_eq_true, decide_eq_true_iff, or_assoc]

end

/-! ### Claims -/

/-- A fill of the wave in the slot is done: `sc` waits for the other fills of it, and is set with the last where the claim still waits for it. -/
theorem execClaimZeroFillDone_eq {s : State} {slot k : Nat} {f : ClaimFill} (hk : clusOf (coreOf slot) = k)
    (hf : (s.cluster k).fills.find? (fun f => decide (f.slot = slot)) = some f) :
    let rest := (s.cluster k).fills.erase f
    let t := s.modCluster k fun k => { k with fills := rest }
    execClaimZeroFillDone slot s =
      .next (if f ∈ rest then t else t.modTask f.task fun w => if w.varPend.contains .sc then w.arrive (.cond true) else w) := by
  simp only [execClaimZeroFillDone, hk, hf, List.contains_iff_mem]

/-! ### The matrix engine -/

/-- The arbiter grants the best eligible request of a port that has granted none. -/
theorem execMatrixGrant_grants {s : State} {clus : Nat} {port : Bool} {r : Req}
    (hfree : (((s.stampReqs clus).cluster clus).resv.filter fun r => r.tilePort == port).any (·.granted) = false)
    (hbest : bestReq (s.stampReqs clus).now ((((s.stampReqs clus).cluster clus).resv.filter fun r => r.tilePort == port).filter fun r =>
      r.eligible.isSome) = some r) :
    execMatrixGrant clus port s = .next ((s.stampReqs clus).modCluster clus fun k =>
      { k with resv := k.resv.map fun x => if x.num = r.num then { x with granted := true } else x }) := by
  simp only [execMatrixGrant, hfree, hbest, Bool.false_eq_true, if_false]

/-- The granted pass is performed and leaves the table. -/
theorem execPassComplete_performs {s : State} {clus acc a b n : Nat} {z : Bool} {r : Req}
    (hr : s.grantedReq clus (fun r => !r.tilePort) = some r) (hk : r.kind = .pass acc a b z n) :
    execPassComplete clus s = .next ((s.performPass clus r acc a b z n).dropReq clus r.num) := by
  simp only [execPassComplete, hr, hk]

/-- The granted `mzero` clears its tile and leaves the table. -/
theorem execMzeroComplete_performs {s : State} {clus n : Nat} {r : Req} (hr : s.grantedReq clus (fun r => r.tilePort) = some r)
    (hk : r.kind = .mzero n) : execMzeroComplete clus s = .next
      ((s.modCluster clus fun k => { k with tiles := k.tiles.modify n fun t => { t with data := [] } }).dropReq clus r.num) := by
  simp only [execMzeroComplete, hr, hk]

section
variable {s t : State} {clus : Nat} {r : Req} {x : StoreRec} {w : List (Nat × List Byte) × FFlags}
  (hr : s.grantedReq clus (fun r => r.tilePort) = some r) (hk : r.kind = .mstore x)
  (hw : x.writes r.seed (((s.cluster clus).tiles.get? x.tile).map (·.data) |>.getD []) = w)
include hr hk hw

/-- The granted `mstore` whose writes are all performed counts at its barrier and leaves the table. -/
theorem execMstoreComplete_performs (ht : s.storeAll clus r x w.1 = .ok t)
    (hs : (((t.countStore clus r x 0).modTask r.task fun x => x.orFlags w.2).dropReq clus r.num).stall = []) :
    execMstoreComplete clus s = .next (((t.countStore clus r x 0).modTask r.task fun x => x.orFlags w.2).dropReq clus r.num) := by
  simp only [execMstoreComplete, hr, hk, hw, ht, settleEvent_done hs]

/-- The granted `mstore` that meets a fault leaves it in its tile, counts it at its barrier and leaves the table. -/
theorem execMstoreComplete_faults {e : Nat} (ht : s.storeAll clus r x w.1 = .fault t e)
    (hs : ((((t.faultTile clus x.tile e).countStore clus r x e).modTask r.task fun x => x.orFlags w.2).dropReq clus r.num).stall = []) :
    execMstoreComplete clus s =
      .next ((((t.faultTile clus x.tile e).countStore clus r x e).modTask r.task fun x => x.orFlags w.2).dropReq clus r.num) := by
  simp only [execMstoreComplete, hr, hk, hw, ht, settleEvent_done hs]

end

/-! ### The statement -/

/-- Settles O46: each event by its own lemma; a portion lands by the KIND of its command. -/
theorem copyAndMatrixEvents : Obligations.CopyAndMatrixEvents := by
  intro s clus team slot portion c r happens
  refine ⟨fun hc hr ht => ⟨fun hk hs => execCopyCommandStart_starts hc hr ht hk hs, fun n x hk hx hs => execOloadStart_starts hc hr ht hk hx hs⟩,
    fun w d hc hw hd => ?portions, fun f => ?fills,
    fun port => ?grant, fun acc a b z n hr hk => execPassComplete_performs hr hk, fun n hr hk => execMzeroComplete_performs hr hk,
    fun x hr hk => ?mstore⟩
  case portions =>
    intro p lands image plain
    refine ⟨execCopyPortionWrite_over hc hw hd, fun hdone hfailed hp => ?_⟩
    have hlands {z : State} (hz : s.landPortion clus c w d p = z) : lands z :=
      execCopyPortionWrite_lands hc hw hd hdone hfailed hp hz
    refine ⟨fun e hplain he => hlands ?error, fun core off limit bytes hk hb => hlands ?spad, fun wave first bytes hk hb => hlands ?regs,
      fun core off limit hk => hlands ?tensor, fun n hk => hlands ?row, fun off mask bytes hk hf => hlands ?fetched,
      fun off mask bytes hk hf hb => hlands ?multi⟩
    case error =>
      have hread (f : State → List (Nat × Byte) → State) : s.landRead clus c w d p f = image.1.failCopy clus c (some w) e := landRead_error he
      cases hk : c.kind with
      | toSpad => simp only [State.landPortion, hk, hread]
      | toRegs => simp only [State.landPortion, hk, hread]
      | multi =>
        have hf : c.fetched.get? p = none := by simpa [plain, hk] using hplain
        simp only [State.landPortion, hk, hf, hread]
      | toTensor => simp [plain, hk] at hplain
      | oload => simp [plain, hk] at hplain
    case spad => simp only [State.landPortion, hk]; exact landRead_ok hb
    case regs => simp only [State.landPortion, hk]; exact landRead_ok hb
    case tensor => simp only [State.landPortion, hk]
    case row => simp only [State.landPortion, hk]
    case fetched => simp only [State.landPortion, hk, hf]
    case multi => simp only [State.landPortion, hk, hf]; exact landRead_ok hb
  case fills =>
    intro k rest t hf
    have he := execClaimZeroFillDone_eq rfl hf
    exact ⟨fun hm => he.trans (congrArg _ (if_pos hm)), fun hm => he.trans (congrArg _ (if_neg hm))⟩
  case grant => exact fun hfree hbest => execMatrixGrant_grants hfree hbest
  case mstore =>
    intro w
    exact ⟨fun t ht hs => execMstoreComplete_performs hr hk rfl ht hs, fun t e ht hs => execMstoreComplete_faults hr hk rfl ht hs⟩

end Sys2Proof.Machine
end

section
/-! PROOF. The barriers (spec/08 R203 to R210). -/

namespace Sys2Proof.Machine

/-! ### What the barrier operations leave of the word in issue -/

/-- A write of a barrier object meets no stall. -/
theorem writeBar_stall (s : State) (core off : Nat) (b : Bar) : (s.writeBar core off b).stall = s.stall := (spadStore_at ..).2

/-- A release of waiters with `sc` = 0, which acquires nothing, meets no stall. -/
theorem releaseBar_false_stall (s : State) (core off : Nat) (p : Nat → Bool) : (s.releaseBar core off p false).stall = s.stall := by
  unfold State.releaseBar
  extract_lets here hit free later slots s1
  split
  · rfl
  · exact (retryWhere_at ..).2.trans (modSlotsFor_at ..).2

/-- A recorded arrival meets no stall. -/
theorem recordArrival_stall (s : State) (w : Wave) (t : Team) (scope : WbarScope) (d : Word) :
    (s.recordArrival w t scope d).stall = s.stall := by
  unfold State.recordArrival
  extract_lets s1
  split <;> rfl

/-! ### A barrier instruction at its object -/

/-- A barrier instruction, at an object that passes its checks and has the typing that it needs, does what its body does there. -/
theorem barrierOp_does {q : Sched} {j : Instr} {sa : SReg} {wr typed : Bool} {body : State → Wave → Nat → Nat → Did} {s : State} {w : Wave}
    {core off : Nat} {d : Did} (h : issues j s w = true) (he : exec j s = barrierOp q j sa wr typed body s)
    (hat : (s.countWord w).objectAt w (s.issue.src.scalar sa.toNat).toNat 16 = some (core, off))
    (ht : (s.countWord w).isTyped core off = typed) (hb : body (s.countWord w) w core off = d) (hs : d.state.stall = [])
    (hw : ∀ t, d ≠ .wait t) : exec j s = .next (s.after q d) := by
  rw [he]
  refine issueWord_does h ?_ hs hw
  rw [← countWord_issue s w] at hat
  exact (spadObject_at hat).trans ((if_pos ht).trans hb)

/-- A `wbar` by all live lanes, whose descriptor is valid and agrees with the pending arrival, records its arrival after its release. -/
theorem wbar_records {q : Sched} {scope : WbarScope} {sa : SReg} {s c : State} {w : Wave} {x y : Team}
    (h : issues (.wbar q scope sa) s w = true) (hl : s.issue.lanes = w.liveLanes) (hx : (s.countWord w).teams.get? w.team = some x)
    (hd : descOk (s.issue.src.scalar sa.toNat) scope w.hdr.vregs = true)
    (ha : (s.countWord w).wbarAgrees x scope (descGroup (s.issue.src.scalar sa.toNat)) = true)
    (hc : (s.countWord w).released w (wbarScopeCode scope) = some c) (hy : c.teams.get? w.team = some y) (hs : c.stall = []) :
    exec (.wbar q scope sa) s = .next (s.after q (.park (c.recordArrival w y scope (s.issue.src.scalar sa.toNat)) .wbar)) := by
  rw [exec_wbar]
  refine issueWord_does h ?_ ((recordArrival_stall ..).trans hs) (by simp)
  simp only [countWord_issue, hl, ne_eq, not_true_eq_false, if_false, hx, hd, ha, Bool.not_true, Bool.or_self, Bool.false_eq_true,
    releasing_released hc, hy]

/-! ### The statement -/

/-- Settles O37: each barrier instruction is its body at the object that passes its checks, and none of the bodies meets a stall of its own; a
`wbar` that passes records its arrival. -/
theorem barrierWords : Obligations.BarrierWords := by
  refine ⟨fun q sd sa sb s w core off => ?objects, fun q scope sa s w x y c => wbar_records⟩
  intro i t reg p b hat
  refine ⟨fun h ht ha hexp => ?barinit, fun ht => ⟨fun h c hc hs => ?bararr, fun h => ?bartest, fun h => ?barwait, fun h => ?barinv⟩⟩
  case barinit =>
    refine barrierOp_does h (exec_barinit q sa s) hat ht ?_ ((writeBar_stall ..).trans (issues_stall h)) (by simp)
    have hcounts : ¬(65535 < reg 1 ∨ (reg 1 = 0 ∧ reg 2 = 0)) := by omega
    simp only [countWord_issue]
    exact if_neg hcounts
  case bararr => exact barrierOp_does h (exec_bararr q sa s) hat ht (releasing_released hc) hs (by simp)
  case bartest =>
    refine barrierOp_does h (exec_bartest q sd sa sb s) hat ht ?same ?stall (by simp)
    case same => simp only [putNow_issue, countWord_issue]; rfl
    case stall =>
      dsimp only [Did.state]
      split
      · exact (acquire_stall ..).trans (issues_stall h)
      · exact issues_stall h
  case barwait =>
    refine barrierOp_does h (exec_barwait q sa sb s) hat ht ?same ?stall ?nowait
    case same => simp only [countWord_issue]; rfl
    case stall =>
      dsimp only
      split
      · exact (acquire_stall ..).trans (issues_stall h)
      · exact issues_stall h
    case nowait =>
      intro u
      split <;> exact Did.noConfusion
  case barinv =>
    refine barrierOp_does h (exec_barinv q sa s) hat ht rfl ?_ (by simp)
    exact (releaseBar_false_stall ..).trans ((writeBar_stall ..).trans (issues_stall h))

end Sys2Proof.Machine
end

section
/-! PROOF. The words that hand work to the tier engine, the waggle engine and the remote queue (spec/08 R212, R214 to R217, spec/10 R262). -/

namespace Sys2Proof.Machine

/-- An object in global memory whose access is granted is worked on at its place. -/
theorem globalObject_granted {s u : State} {w : Wave} {j : Instr} {space va n align pa : Nat} {want : Want} {pte : DWord}
    {body : State → Nat → DWord → Did} (h : s.granted w va n align want = some (u, pa, pte)) :
    globalObject s w j space va n align want body = body u pa pte := by
  simp only [globalObject, granted_iff.1 h]

/-- A word whose body is done with z leaves z, where z meets no stall. -/
theorem next_of_done {j : Instr} {q : Sched} {s z : State} {w : Wave} {body : State → Wave → Did} (h : issues j s w = true)
    (he : exec j s = issueWord q j s body) (hb : body (s.countWord w) w = .done z) (hs : z.stall = []) :
    exec j s = .next (s.after q (.done z)) := by
  rw [he]
  exact issueWord_does h hb hs (by simp)

/-! ### `xfer` (spec/08 R212) -/

/-- What an `xfer` asks for by its OP, with its addresses and its LEN: nothing where there is no such OP, or where a move has a destination. -/
def xferOp (src dst len code : Nat) : Option TierOp :=
  match code % 16 with
  | 0 => some (.copy src dst len)
  | 1 => if dst = 0 then some (.fetch src len) else none
  | 2 => if dst = 0 then some (.evict src len) else none
  | _ => none

theorem xferOp_copy {src dst len code : Nat} (h : code % 16 = 0) : xferOp src dst len code = some (.copy src dst len) := by
  simp only [xferOp, h]

theorem xferOp_fetch {src dst len code : Nat} (h : code % 16 = 1) (hd : dst = 0) : xferOp src dst len code = some (.fetch src len) := by
  simp only [xferOp, h, hd, if_true]

theorem xferOp_evict {src dst len code : Nat} (h : code % 16 = 2) (hd : dst = 0) : xferOp src dst len code = some (.evict src len) := by
  simp only [xferOp, h, hd, if_true]

/-- An `xfer` whose ring is granted commits and joins the tier queue with what it asks for. -/
theorem xfer_posts {q : Sched} {sa : SReg} {s u : State} {w : Wave} {x : Nat × DWord} {op : TierOp}
    (h : issues (.xfer q sa) s w = true) :
    let i := s.issue
    let pair (k : Nat) := (i.src.pair (sa.toNat + k)).toNat
    let code := (i.src.scalar (sa.toNat + 5)).toNat
    let z := ((u.commit i.slot).ordered i.slot).postTier w op (pair 6) (code / 65536) ((u.commit i.slot).teamAfter w 1)
    (s.countWord w).granted w (pair 6) 32 32 { rd := true, wr := true } = some (u, x) →
      code / 16 % 4096 = 0 → xferOp (pair 0) (pair 2) (i.src.scalar (sa.toNat + 4)).toNat code = some op → z.stall = [] →
        exec (.xfer q sa) s = .next (s.after q (.done z)) := by
  intro i pair code z hg hr hop hz
  refine next_of_done h (exec_xfer ..) ?_ hz
  simp only [countWord_issue]
  refine (globalObject_granted hg).trans ?_
  show (match xferOp (pair 0) (pair 2) (i.src.scalar (sa.toNat + 4)).toNat code, decide (code / 16 % 4096 = 0) with
    | some op, true => Did.done (((u.commit i.slot).ordered i.slot).postTier w op (pair 6) (code / 65536) ((u.commit i.slot).teamAfter w 1))
    | _, _ => slotFault u (.xfer q sa)) = .done z
  rw [hop, decide_eq_true hr]

/-! ### The statement -/

/-- Settles O39: each word whose operands pass its checks posts its command. -/
theorem engineWordsPost : Obligations.EngineWordsPost := by
  intro q sd sa sb s w i t pair gives code len xfers
  have hxfer {op : TierOp} (hr : code / 16 % 4096 = 0) (hop : xferOp (pair 0) (pair 2) len code = some op) : xfers op :=
    fun u x h hg hz => xfer_posts h hg hr hop hz
  refine ⟨fun hc => hxfer (by omega) (xferOp_copy (by omega)), fun hc hd => hxfer (by omega) (xferOp_fetch (by omega) hd),
    fun hc hd => hxfer (by omega) (xferOp_evict (by omega) hd), ?tagc, fun u pa pte h hg hz => ?tagq,
    fun u x h hg => ?coll, fun u pa pte h hg => ?signal⟩
  case tagc =>
    intro tag u h hva htag htiles hz
    refine next_of_done h (exec_tagc ..) ?_ hz
    simp only [countWord_issue]
    refine (if_neg (not_not_intro hva)).trans ?_
    have hchecked : (s.countWord w).checkTiles w.ctx (s.countWord w).hereClus
        (tilesFrom (s.issue.src.pair sa.toNat).toNat ((s.issue.src.scalar sb.toNat).toNat / 4096)) = (u, none) := htiles
    rw [hchecked]
    have hcount : tag / 4096 ≠ 0 := by omega
    exact if_neg hcount
  case tagq =>
    refine next_of_done h (exec_tagq ..) ?_ hz
    simp only [countWord_issue]
    exact globalObject_granted hg
  case coll =>
    intro c cmd hc hz
    refine next_of_done h (exec_coll ..) ?_ hz
    simp only [countWord_issue]
    refine (globalObject_granted hg).trans ?_
    exact if_neg (not_not_intro hc)
  case signal =>
    intro c op d hz
    refine next_of_done h (exec_signal ..) ?_ hz
    simp only [countWord_issue]
    refine (globalObject_granted hg).trans ?_
    have hsent : c.sendOp { op with num := 0, via := none } = d := by
      simp only [State.sendOp, d, op]
      cases inRemote pa <;> rfl
    exact congrArg (fun y : State => Did.done (if 1 ≤ i.held.scopeOr then y.release i.slot i.held.scopeOr else y)) hsent

end Sys2Proof.Machine
end

section
/-! PROOF. The events of the tier engine (spec/08 R212, R213, R216, R217, spec/13 R330 to R333). -/

namespace Sys2Proof.Machine

/-! ### Commands of the tier queues -/

/-- The COPY at the head of a team's queue is refused for its LEN or its alignment, or goes on by a block. -/
theorem execTierCopy_eq {s : State} {die team src dst len : Nat} {c : TierCmd} (hc : s.headTier die team = some c)
    (ho : c.op = .copy src dst len) : execTierCopy die team s = .next (settleEvent (tierAgent die) s (
      if len = 0 then s.finishTier die { c with cause := cSlot }
      else if src % 64 ≠ 0 ∨ dst % 64 ≠ 0 ∨ len % 64 ≠ 0 then s.finishTier die { c with cause := cMisaligned }
      else s.copyBlock die c src dst len)) := by
  simp only [execTierCopy, hc, ho]

/-- The FETCH at the head of a team's queue goes on by a step. -/
theorem execTierFetch_steps {s : State} {die team src len : Nat} {c : TierCmd} (hc : s.headTier die team = some c)
    (ho : c.op = .fetch src len) (hs : (s.moveStep die c true src len).stall = []) :
    execTierFetch die team s = .next (s.moveStep die c true src len) := by
  simp only [execTierFetch, hc, ho, settleEvent_done hs]

/-- The EVICT at the head of a team's queue goes on by a step. -/
theorem execTierEvict_steps {s : State} {die team src len : Nat} {c : TierCmd} (hc : s.headTier die team = some c)
    (ho : c.op = .evict src len) (hs : (s.moveStep die c false src len).stall = []) :
    execTierEvict die team s = .next (s.moveStep die c false src len) := by
  simp only [execTierEvict, hc, ho, settleEvent_done hs]

/-- The only move of a die ends where it can be performed. -/
theorem execTileMoveComplete_only {s t : State} {die : Nat} {m : TileMove} (hm : (s.die die).moves = [m]) (ht : s.performMove die m = some t) :
    execTileMoveComplete die m.tile s = .next
      ((t.modDie die fun d => { d with moves := d.moves.filter fun x => !decide (x.tile = m.tile) }).settlePool die) := by
  have hfirst : ¬(m.waiters = [] ∧ [m].any (fun x => !decide (x.waiters = []) && (s.performMove die x).isSome) = true) := by
    rintro ⟨hw, ha⟩
    simp [hw] at ha
  simp only [execTileMoveComplete, hm, List.find?_cons, decide_true, if_neg hfirst, ht]

/-! ### Tags -/

/-- The `tagc` at the head of a team's queue sets the tags of the tiles that it may write. -/
theorem execTagcPerform_sets {s : State} {die team va tiles reuse cost : Nat} {c : TierCmd} (hc : s.headTier die team = some c)
    (ho : c.op = .tagc va tiles reuse cost) :
    let r := s.namedTiles c.ctx die true (tilesFrom va tiles)
    execTagcPerform die team s = .next ((foldState (fun s t => s.setTag t tiles reuse cost) r.1 r.2.1).dropTier die c.num) := by
  simp only [execTagcPerform, hc, ho]

/-- A query of a tile of this package writes the tile's tag to its register, where the register still waits for it. -/
theorem execTagqPerform_reads {s : State} {die n : Nat} {x : TagQuery} (hx : (s.die die).tagqs[n]? = some x)
    (hp : inHbm x.pa = true ∨ inScm x.pa = true) :
    execTagqPerform die n s = .next ((s.modDie die fun d => { d with tagqs := dropAt n d.tagqs }).modTask x.task fun w =>
      if w.varPend.contains (.s x.reg) then w.arrive (.sca x.reg (s.tagWord x.pa)) else w) := by
  have hhere : (inScm x.pa || inHbm x.pa) = true := Bool.or_eq_true_iff.2 hp.symm
  simp only [execTagqPerform, hx, hhere, if_true]

/-- No address lies in HBM and in SCM. -/
theorem inScm_of_inHbm {pa : Nat} (h : inHbm pa = true) : inScm pa = false := by
  simp only [inHbm, decide_eq_true_eq] at h
  simp only [inScm, decide_eq_false_iff_not]
  omega

/-- A tile homed in HBM is resident and untagged. -/
theorem tagWord_hbm {s : State} {pa : Nat} (h : inHbm pa = true) : s.tagWord pa = 15 := by
  simp only [State.tagWord, inScm_of_inHbm h, h, Bool.false_eq_true, if_false, if_true]

/-- The tag of a tile homed in SCM is that of its directory entry. -/
theorem tagWord_scm {s : State} {pa : Nat} (h : inScm pa = true) :
    let e := s.dirOf (pa / 65536)
    s.tagWord pa = BitVec.ofNat 32 (e.cost % 16 + e.reuse % 256 * 16 + e.state % 4 * 4096) := by
  simp only [State.tagWord, h, if_true]

/-! ### The residency policy -/

/-- Without a victim the policy unit does nothing. -/
theorem execPolicyVictimChoose_none {s : State} {die : Nat} (hv : firstVictim (s.victims die) = none) :
    execPolicyVictimChoose die s = .next s := by
  simp only [execPolicyVictimChoose, hv]

/-- What the policy unit does with its first victim. -/
theorem execPolicyVictimChoose_some {s : State} {die : Nat} {v : Nat × DirEntry} (hv : firstVictim (s.victims die) = some v) :
    let d := s.die die
    let level := d.level ((s.dirHere die).filter fun e => decide (e.2.state = 0)).length
    execPolicyVictimChoose die s = .next (
      if !d.polEnable then s
      else if d.polDisabling then s.startMove v.1 .offload
      else if level = 0 ∨ d.poolFrames = 0 ∨ (level = 1 ∧ v.2.reuse < 128) then s
      else if level = 3 ∧ v.2.cost ≤ d.discMax ∧ v.2.cost ≠ 15 ∧ s.guarded v.1 = false then s.startMove v.1 .discard
      else s.startMove v.1 .offload) := by
  simp only [execPolicyVictimChoose, hv]

section
variable {s : State} {die : Nat} {v : Nat × DirEntry} (hv : firstVictim (s.victims die) = some v)
include hv

/-- A pool that is off keeps its tiles. -/
theorem execPolicyVictimChoose_off (he : (s.die die).polEnable = false) : execPolicyVictimChoose die s = .next s := by
  simp only [execPolicyVictimChoose_some hv, he, Bool.not_false, if_true]

/-- A pool that is being disabled offloads every tile. -/
theorem execPolicyVictimChoose_disabling (he : (s.die die).polEnable = true) (hd : (s.die die).polDisabling = true) :
    execPolicyVictimChoose die s = .next (s.startMove v.1 .offload) := by
  simp only [execPolicyVictimChoose_some hv, he, hd, Bool.not_true, Bool.false_eq_true, if_false, if_true]

/-- A pool that is on decides by its level. -/
theorem execPolicyVictimChoose_on (he : (s.die die).polEnable = true) (hd : (s.die die).polDisabling = false)
    (hp : (s.die die).poolFrames ≠ 0) :
    let d := s.die die
    let level := d.level ((s.dirHere die).filter fun e => decide (e.2.state = 0)).length
    execPolicyVictimChoose die s = .next (
      if level = 0 ∨ (level = 1 ∧ v.2.reuse < 128) then s
      else if level = 3 ∧ v.2.cost ≤ d.discMax ∧ v.2.cost ≠ 15 ∧ s.guarded v.1 = false then s.startMove v.1 .discard
      else s.startMove v.1 .offload) := by
  simp only [execPolicyVictimChoose_some hv, he, hd, hp, Bool.not_true, Bool.false_eq_true, if_false, false_or]

end

/-! ### Records -/

/-- A record that waits reaches its ring. -/
theorem execCompletionRecordWrite_writes {s : State} {die n : Nat} {x : Completion} (hx : (s.die die).completions[n]? = some x)
    (hs : (s.writeRecord die n x).stall = []) : execCompletionRecordWrite die n s = .next (s.writeRecord die n x) := by
  simp only [execCompletionRecordWrite, hx, settleEvent_done hs]

/-! ### The statement -/

/-- Settles O47: each event by its own lemma; a COPY is refused or goes on, and the policy decides by its level. -/
theorem tierEvents : Obligations.TierEvents := by
  intro s die team tile n c happens
  refine ⟨fun src dst len hc ho => ?copy, fun src len => execTierFetch_steps, fun src len => execTierEvict_steps,
    fun m t hm htile ht => ?move, fun va tiles reuse cost => execTagcPerform_sets, fun x => execTagqPerform_reads,
    fun pa => ⟨tagWord_hbm, tagWord_scm⟩, execPolicyVictimChoose_none, fun v hv => ?policy,
    fun x => execCompletionRecordWrite_writes⟩
  case copy =>
    have he := execTierCopy_eq hc ho
    have hcopy {z : State} (hz : execTierCopy die team s = .next (settleEvent (tierAgent die) s z)) : happens (.tierCopy die team) z :=
      fun hs => hz.trans (congrArg _ (settleEvent_done hs))
    refine ⟨fun h0 => hcopy ?empty, fun h0 ha => hcopy ?misaligned, fun h0 hsrc hdst hlen => hcopy ?block⟩
    case empty => rw [he, if_pos h0]
    case misaligned => rw [he, if_neg h0, if_pos ha]
    case block => rw [he, if_neg h0, if_neg (by omega)]
  case move =>
    subst htile
    exact execTileMoveComplete_only hm ht
  case policy =>
    intro d level chooses
    refine ⟨fun he => execPolicyVictimChoose_off hv he, fun he hd => execPolicyVictimChoose_disabling hv he hd, fun he hd hp => ?_⟩
    have hon := execPolicyVictimChoose_on hv he hd hp
    refine ⟨fun hl => hon.trans (congrArg _ (if_pos hl)), fun hl => hon.trans (congrArg _ ?offload), fun hl => ?level3⟩
    case offload =>
      have hpressed : ¬(level = 0 ∨ level = 1 ∧ v.2.reuse < 128) := by omega
      have hlow : level ≠ 3 := by omega
      exact (if_neg hpressed).trans (if_neg fun h => hlow h.1)
    case level3 =>
      have hpressed : ¬(level = 0 ∨ level = 1 ∧ v.2.reuse < 128) := by omega
      refine ⟨fun hdisc => hon.trans (congrArg _ ((if_neg hpressed).trans (if_pos ⟨hl, hdisc⟩))),
        fun hkeep => hon.trans (congrArg _ ((if_neg hpressed).trans (if_neg ?_)))⟩
      rintro ⟨-, hcost, h15, hguard⟩
      exact hkeep.elim (Nat.not_lt.2 hcost) (Or.rec h15 (Bool.eq_false_iff.1 hguard))

end Sys2Proof.Machine
end

section
/-! PROOF. Every step keeps the invariant (spec/09 R224, spec/13 R317, R321, spec/15 R361 to R363). What a step plans keeps it, and so does the
meaning of each instruction (Laws/Keep*.lean); a step performs its plan. -/

namespace Sys2Proof.Machine

/-- Every instruction keeps the invariant: the meaning that its arm of `exec` calls does. -/
theorem exec_ok {s : State} (h : s.ok) (i : Instr) : keeps (exec i s) := by
  cases i with
  | vadd => exact execVadd_ok _ _ _ _ _ h
  | vsub => exact execVsub_ok _ _ _ _ _ h
  | vmul => exact execVmul_ok _ _ _ _ _ h
  | vmulhi => exact execVmulhi_ok _ _ _ _ _ h
  | vand => exact execVand_ok _ _ _ _ _ h
  | vor => exact execVor_ok _ _ _ _ _ h
  | vxor => exact execVxor_ok _ _ _ _ _ h
  | vshl => exact execVshl_ok _ _ _ _ _ h
  | vshr => exact execVshr_ok _ _ _ _ _ h
  | vsra => exact execVsra_ok _ _ _ _ _ h
  | vmin => exact execVmin_ok _ _ _ _ _ h
  | vmax => exact execVmax_ok _ _ _ _ _ h
  | vminu => exact execVminu_ok _ _ _ _ _ h
  | vmaxu => exact execVmaxu_ok _ _ _ _ _ h
  | vmad => exact execVmad_ok _ _ _ _ _ h
  | vabsd => exact execVabsd_ok _ _ _ _ _ h
  | vfadd => exact execVfadd_ok _ _ _ _ _ h
  | vfsub => exact execVfsub_ok _ _ _ _ _ h
  | vfmul => exact execVfmul_ok _ _ _ _ _ h
  | vffma => exact execVffma_ok _ _ _ _ _ h
  | vfmin => exact execVfmin_ok _ _ _ _ _ h
  | vfmax => exact execVfmax_ok _ _ _ _ _ h
  | vhfma => exact execVhfma_ok _ _ _ _ _ h
  | vhadd => exact execVhadd_ok _ _ _ _ _ h
  | vhmul => exact execVhmul_ok _ _ _ _ _ h
  | vsel => exact execVsel_ok _ _ _ _ _ h
  | vpack2 => exact execVpack2_ok _ _ _ _ _ h
  | vcopysign => exact execVcopysign_ok _ _ _ _ _ h
  | vshfl => exact execVshfl_ok _ _ _ _ _ _ h
  | vmov => exact execVmov_ok _ _ _ _ h
  | vnot => exact execVnot_ok _ _ _ _ h
  | vneg => exact execVneg_ok _ _ _ _ h
  | vabs => exact execVabs_ok _ _ _ _ h
  | vpopc => exact execVpopc_ok _ _ _ _ h
  | vclz => exact execVclz_ok _ _ _ _ h
  | vbrev => exact execVbrev_ok _ _ _ _ h
  | vbfe => exact execVbfe_ok _ _ _ _ h
  | vbfi => exact execVbfi_ok _ _ _ _ h
  | vrand => exact execVrand_ok _ _ _ _ h
  | vbcast => exact execVbcast_ok _ _ _ _ h
  | vfrcp => exact execVfrcp_ok _ _ _ _ _ h
  | vfrsq => exact execVfrsq_ok _ _ _ _ _ h
  | vfsqrt => exact execVfsqrt_ok _ _ _ _ _ h
  | vfexp2 => exact execVfexp2_ok _ _ _ _ _ h
  | vflog2 => exact execVflog2_ok _ _ _ _ _ h
  | vfsin => exact execVfsin_ok _ _ _ _ _ h
  | vfcos => exact execVfcos_ok _ _ _ _ _ h
  | vftanh => exact execVftanh_ok _ _ _ _ _ h
  | vfrnd => exact execVfrnd_ok _ _ _ _ _ h
  | vfclass => exact execVfclass_ok _ _ _ _ _ h
  | vcvt => exact execVcvt_ok _ _ _ _ _ _ _ h
  | vcmp => exact execVcmp_ok _ _ _ _ _ _ h
  | vfcmp => exact execVfcmp_ok _ _ _ _ _ _ h
  | sadd => exact execSadd_ok _ _ _ _ _ h
  | ssub => exact execSsub_ok _ _ _ _ _ h
  | smul => exact execSmul_ok _ _ _ _ _ h
  | smulhi => exact execSmulhi_ok _ _ _ _ _ h
  | sand => exact execSand_ok _ _ _ _ _ h
  | sor => exact execSor_ok _ _ _ _ _ h
  | sxor => exact execSxor_ok _ _ _ _ _ h
  | sshl => exact execSshl_ok _ _ _ _ _ h
  | sshr => exact execSshr_ok _ _ _ _ _ h
  | ssra => exact execSsra_ok _ _ _ _ _ h
  | smin => exact execSmin_ok _ _ _ _ _ h
  | smax => exact execSmax_ok _ _ _ _ _ h
  | sminu => exact execSminu_ok _ _ _ _ _ h
  | smaxu => exact execSmaxu_ok _ _ _ _ _ h
  | saddc => exact execSaddc_ok _ _ _ _ _ h
  | ssubb => exact execSsubb_ok _ _ _ _ _ h
  | scmp => exact execScmp_ok _ _ _ _ _ h
  | ssel => exact execSsel_ok _ _ _ _ _ h
  | smov => exact execSmov_ok _ _ _ _ h
  | spopc => exact execSpopc_ok _ _ _ _ h
  | sclz => exact execSclz_ok _ _ _ _ h
  | sbfe => exact execSbfe_ok _ _ _ _ _ h
  | sfadd => exact execSfadd_ok _ _ _ _ _ h
  | sfmul => exact execSfmul_ok _ _ _ _ _ h
  | sffma => exact execSffma_ok _ _ _ _ _ h
  | sfmin => exact execSfmin_ok _ _ _ _ _ h
  | sfmax => exact execSfmax_ok _ _ _ _ _ h
  | sfcvt => exact execSfcvt_ok _ _ _ _ _ _ h
  | drawm => exact execDrawm_ok _ _ _ _ h
  | sfexp2 => exact execSfexp2_ok _ _ _ _ h
  | smovi => exact execSmovi_ok _ _ _ _ h
  | sori => exact execSori_ok _ _ _ _ h
  | saddi => exact execSaddi_ok _ _ _ _ h
  | scmpi => exact execScmpi_ok _ _ _ _ h
  | br => exact execBr_ok _ _ _ _ _ _ h
  | jmp => exact execJmp_ok _ _ _ h
  | call => exact execCall_ok _ _ _ h
  | ret => exact execRet_ok _ _ h
  | brx => exact execBrx_ok _ _ _ h
  | exit => exact execExit_ok _ _ h
  | join => exact execJoin_ok _ _ _ h
  | leave => exact execLeave_ok _ _ _ h
  | waitm => exact execWaitm_ok _ _ _ h
  | sleep => exact execSleep_ok _ _ _ _ h
  | yield => exact execYield_ok _ _ h
  | nop => exact execNop_ok _ _ h
  | trap => exact execTrap_ok _ _ _ h
  | tret => exact execTret_ok _ _ h
  | tretAbort => exact execTretAbort_ok _ _ h
  | brk => exact execBrk_ok _ _ _ h
  | isync => exact execIsync_ok _ _ h
  | ppt => exact execPpt_ok _ _ h
  | idem => exact execIdem_ok _ _ h
  | idemend => exact execIdemend_ok _ _ h
  | hintLitlo => exact execHintLitlo_ok _ _ h
  | hintLithi => exact execHintLithi_ok _ _ h
  | hintGuard => exact execHintGuard_ok _ _ _ h
  | hintMod => exact execHintMod_ok _ _ _ _ _ _ _ _ _ _ h
  | hintRnd => exact execHintRnd_ok _ _ h
  | hintScope => exact execHintScope_ok _ _ h
  | hintCache => exact execHintCache_ok _ _ h
  | hintGap => exact execHintGap_ok _ _ h
  | vld => exact execVld_ok _ _ _ _ _ _ h
  | vpref => exact execVpref_ok _ _ _ _ h
  | vlds => exact execVlds_ok _ _ _ _ _ _ h
  | vldc => exact execVldc_ok _ _ _ _ _ _ h
  | vldt => exact execVldt_ok _ _ _ _ _ _ h
  | vst => exact execVst_ok _ _ _ _ _ _ h
  | vsts => exact execVsts_ok _ _ _ _ _ _ h
  | vpwb => exact execVpwb_ok _ _ _ _ h
  | vatom => exact execVatom_ok _ _ _ _ _ _ h
  | vatoms => exact execVatoms_ok _ _ _ _ _ _ h
  | vcas => exact execVcas_ok _ _ _ _ _ h
  | vatomsCas => exact execVatomsCas_ok _ _ _ _ _ h
  | bfadd => exact execBfadd_ok _ _ _ _ _ h
  | sld => exact execSld_ok _ _ _ _ _ _ h
  | sst => exact execSst_ok _ _ _ _ _ _ h
  | sldk => exact execSldk_ok _ _ _ _ _ _ h
  | satom => exact execSatom_ok _ _ _ _ _ _ h
  | scas => exact execScas_ok _ _ _ _ _ h
  | vrfl => exact execVrfl_ok _ _ _ _ h
  | vrdln => exact execVrdln_ok _ _ _ _ _ h
  | vwrln => exact execVwrln_ok _ _ _ _ _ h
  | vmatch => exact execVmatch_ok _ _ _ _ h
  | vballot => exact execVballot_ok _ _ _ _ h
  | vredu => exact execVredu_ok _ _ _ _ _ _ h
  | vscan => exact execVscan_ok _ _ _ _ _ _ _ h
  | vdraw => exact execVdraw_ok _ _ _ _ _ h
  | mand => exact execMand_ok _ _ _ _ _ h
  | mor => exact execMor_ok _ _ _ _ _ h
  | mxor => exact execMxor_ok _ _ _ _ _ h
  | mandn => exact execMandn_ok _ _ _ _ _ h
  | mmov => exact execMmov_ok _ _ _ _ h
  | mpopc => exact execMpopc_ok _ _ _ _ h
  | mfirst => exact execMfirst_ok _ _ _ _ h
  | mset => exact execMset_ok _ _ _ _ h
  | mget => exact execMget_ok _ _ _ _ h
  | fence => exact execFence_ok _ _ _ _ h
  | qfence => exact execQfence_ok _ _ _ h
  | pfence => exact execPfence_ok _ _ h
  | barinit => exact execBarinit_ok _ _ _ h
  | bararr => exact execBararr_ok _ _ _ h
  | bartest => exact execBartest_ok _ _ _ _ _ h
  | barwait => exact execBarwait_ok _ _ _ _ h
  | barinv => exact execBarinv_ok _ _ _ h
  | wbar => exact execWbar_ok _ _ _ _ h
  | cpy => exact execCpy_ok _ _ _ h
  | cpym => exact execCpym_ok _ _ _ _ h
  | xfer => exact execXfer_ok _ _ _ h
  | coll => exact execColl_ok _ _ _ h
  | signal => exact execSignal_ok _ _ _ _ h
  | tagc => exact execTagc_ok _ _ _ _ h
  | tagq => exact execTagq_ok _ _ _ _ h
  | oclaim => exact execOclaim_ok _ _ _ h
  | orel => exact execOrel_ok _ _ _ h
  | oload => exact execOload_ok _ _ _ h
  | aclaim => exact execAclaim_ok _ _ _ h
  | arel => exact execArel_ok _ _ _ h
  | mma => exact execMma_ok _ _ _ h
  | mzero => exact execMzero_ok _ _ _ h
  | mstore => exact execMstore_ok _ _ _ h
  | mwait => exact execMwait_ok _ _ _ h
  | spawn => exact execSpawn_ok _ _ _ h
  | fbind => exact execFbind_ok _ _ _ h
  | fset => exact execFset_ok _ _ _ _ h
  | fwait => exact execFwait_ok _ _ _ _ h
  | qres => exact execQres_ok _ _ _ _ h
  | qpub => exact execQpub_ok _ _ _ _ h
  | qtake => exact execQtake_ok _ _ _ _ h
  | qdone => exact execQdone_ok _ _ _ _ h
  | qclose => exact execQclose_ok _ _ _ h
  | publ => exact execPubl_ok _ _ h
  | center => exact execCenter_ok _ _ _ _ h
  | cstep => exact execCstep_ok _ _ _ _ h
  | cexit => exact execCexit_ok _ _ _ _ h
  | cres => exact execCres_ok _ _ _ _ h
  | smfr => exact execSmfr_ok _ _ _ _ h
  | smto => exact execSmto_ok _ _ _ _ h
  | scan => exact execScan_ok _ _ _ h
  | broodTimeout => exact execBroodTimeout_ok _ _ h
  | capsuleLeaseExpiry => exact execCapsuleLeaseExpiry_ok _ _ h
  | sleepTimeout => exact execSleepTimeout_ok _ _ h
  | wbarSpill => exact execWbarSpill_ok _ _ _ h
  | barrierByteCount => exact execBarrierByteCount_ok _ _ _ h
  | copyCommandStart => exact execCopyCommandStart_ok _ _ _ h
  | copyPortionWrite => exact execCopyPortionWrite_ok _ _ _ _ h
  | oloadStart => exact execOloadStart_ok _ _ _ h
  | claimZeroFillDone => exact execClaimZeroFillDone_ok _ _ h
  | matrixGrant => exact execMatrixGrant_ok _ _ _ h
  | passComplete => exact execPassComplete_ok _ _ h
  | mzeroComplete => exact execMzeroComplete_ok _ _ h
  | mstoreComplete => exact execMstoreComplete_ok _ _ h
  | tierCopy => exact execTierCopy_ok _ _ _ h
  | tierFetch => exact execTierFetch_ok _ _ _ h
  | tierEvict => exact execTierEvict_ok _ _ _ h
  | tileMoveComplete => exact execTileMoveComplete_ok _ _ _ h
  | tagcPerform => exact execTagcPerform_ok _ _ _ h
  | tagqPerform => exact execTagqPerform_ok _ _ _ h
  | policyVictimChoose => exact execPolicyVictimChoose_ok _ _ h
  | completionRecordWrite => exact execCompletionRecordWrite_ok _ _ _ h
  | collSum => exact execCollSum_ok _ _ _ _ h
  | collMax => exact execCollMax_ok _ _ _ _ h
  | collMin => exact execCollMin_ok _ _ _ _ h
  | collDraw => exact execCollDraw_ok _ _ _ _ h
  | collBarrier => exact execCollBarrier_ok _ _ _ _ h
  | collBroadcast => exact execCollBroadcast_ok _ _ _ _ h
  | collAllgather => exact execCollAllgather_ok _ _ _ _ h
  -- Named by its arm: the unifier would look for the arm inside the meaning.
  | collRoundComplete => rw [exec_collRoundComplete]; exact execCollRoundComplete_ok _ _ _ h
  | collTimeout => exact execCollTimeout_ok _ _ _ h
  | remoteStorePerform => exact execRemoteStorePerform_ok _ _ h
  | remoteAck => exact execRemoteAck_ok _ _ h
  | remoteFailure => exact execRemoteFailure_ok _ _ h
  | inboundAccess => exact execInboundAccess_ok _ _ _ _ _ h
  | flitReplay => exact execFlitReplay_ok _ _ h
  | portDown => exact execPortDown_ok _ _ h
  | mailboxWrite => exact execMailboxWrite_ok _ _ _ _ h
  | mailboxRead => exact execMailboxRead_ok _ _ _ _ h
  | persistGroupEnter => exact execPersistGroupEnter_ok _ _ h
  | wbqDrainWrite => exact execWbqDrainWrite_ok _ _ h
  | scrub => exact execScrub_ok _ _ _ h
  | launchAccept => exact execLaunchAccept_ok _ _ _ h
  | distribute => exact execDistribute_ok _ _ _ h
  | place => exact execPlace_ok _ _ _ h
  | agingExpiry => exact execAgingExpiry_ok _ _ h
  | launchComplete => exact execLaunchComplete_ok _ _ _ h
  | teamSave => exact execTeamSave_ok _ _ h
  | teamDiscard => exact execTeamDiscard_ok _ _ h
  | preemptDeadlineExpiry => exact execPreemptDeadlineExpiry_ok _ _ h
  | partRestore => exact execPartRestore_ok _ _ _ _ _ _ h
  | ctxEnable => exact execCtxEnable_ok _ _ h
  | ctxDisable => exact execCtxDisable_ok _ _ h
  | ctxPreempt => exact execCtxPreempt_ok _ _ h
  | ctxResume => exact execCtxResume_ok _ _ h
  | ctxReset => exact execCtxReset_ok _ _ h
  | doorbell => exact execDoorbell_ok _ _ h
  | priocmd => exact execPriocmd_ok _ _ h
  | invalPage => exact execInvalPage_ok _ _ _ h
  | invalContext => exact execInvalContext_ok _ _ h
  | invalAll => exact execInvalAll_ok _ h
  | invalidationPerformed => exact execInvalidationPerformed_ok _ h
  | parkRequest => exact execParkRequest_ok _ _ h
  | parkCancel => exact execParkCancel_ok _ _ h
  | unpark => exact execUnpark_ok _ _ h
  | diePowerDown => exact execDiePowerDown_ok _ _ h
  | unparkComplete => exact execUnparkComplete_ok _ _ h
  | pceilWrite => exact execPceilWrite_ok _ _ h
  | pstateWrite => exact execPstateWrite_ok _ _ h
  | pstateTransitionDone => exact execPstateTransitionDone_ok _ h
  | powerMeasure => exact execPowerMeasure_ok _ _ _ _ h
  | featacceptWrite => exact execFeatacceptWrite_ok _ _ h
  | attcmd => exact execAttcmd_ok _ _ h
  | quoteComplete => exact execQuoteComplete_ok _ h
  | tierpoolWrite => exact execTierpoolWrite_ok _ _ _ h
  | tierpolWrite => exact execTierpolWrite_ok _ _ _ h
  | errstatWrite => exact execErrstatWrite_ok _ _ h
  | cmapWrite => exact execCmapWrite_ok _ _ _ _ h
  | devctlReset => exact execDevctlReset_ok _ _ h
  | powerOn => exact execPowerOn_ok _ h
  | registerWrite => exact execRegisterWrite_ok _ _ _ _ h
  | powerLoss => exact execPowerLoss_ok _ h
  | drainComplete => exact execDrainComplete_ok _ h
  | holdupMeasure => exact execHoldupMeasure_ok _ _ h
  | scanDrainDone => exact execScanDrainDone_ok _ h
  | scanRunDone => exact execScanRunDone_ok _ _ h
  | scanDrainTimeout => exact execScanDrainTimeout_ok _ h
  | snapCaptureStart => exact execSnapCaptureStart_ok _ _ h
  | cutClose => exact execCutClose_ok _ h
  | tileCapture => exact execTileCapture_ok _ h
  | cowCopy => exact execCowCopy_ok _ _ h
  | stagedTileWrite => exact execStagedTileWrite_ok _ h
  | shardsDurable => exact execShardsDurable_ok _ _ h
  | recoverFence => exact execRecoverFence_ok _ h
  | recoverElect => exact execRecoverElect_ok _ h
  | recoverRebuild => exact execRecoverRebuild_ok _ _ h
  | recoverRemap => exact execRecoverRemap_ok _ h
  | recoverResume => exact execRecoverResume_ok _ h
  | recoverStepDone => exact execRecoverStepDone_ok _ h
  | groupTableWrite => exact execGroupTableWrite_ok _ _ _ _ h
  | peerTableWrite => exact execPeerTableWrite_ok _ _ _ _ h

/-- A step keeps the invariant: its plan does, what the plan runs does, and so does the outcome of a try. -/
theorem step_ok {s : State} (h : s.ok) : keeps (step s) := by
  have hp := State.plan_ok s h
  unfold step
  cases hs : s.plan with
  | run i t => rw [hs] at hp; exact exec_ok hp i
  | rest t => rw [hs] at hp; exact keeps_next hp
  | probe slot was i t =>
    rw [hs] at hp
    obtain ⟨hwas, ht⟩ := hp
    have he := exec_ok ht i
    dsimp only
    split
    · rename_i u hu
      exact keeps_next (State.probed_ok was slot u hwas (he u hu))
    · exact keeps_fault
    · exact keeps_refused

/-- Settles O8: `State.ok` is the invariant, clause by clause. -/
theorem stepKeepsInv : Obligations.StepKeepsInv := by
  intro s t hs ht
  rw [← State.ok_iff] at hs ⊢
  exact step_ok hs t ht

end Sys2Proof.Machine
end

section
/-! PROOF. A task's version and its commit (spec/09 R224, R225). -/

namespace Sys2Proof.Machine

/-! ### A held store -/

/-- A version after bytes have been put into it at consecutive addresses. -/
theorem foldl_put_cellsAt_get? (a : Nat) : ∀ (bs : List Byte) (pa : Nat) (v : Assoc Byte),
    ((cellsAt pa bs).foldl (fun v c => Assoc.put v c.1 c.2) v).get? a =
      if pa ≤ a ∧ a < pa + bs.length then some (bs.getD (a - pa) 0) else v.get? a
  | [], pa, v => (if_neg fun ⟨hlo, hhi⟩ => absurd hlo (Nat.not_le_of_lt hhi)).symm
  | b :: bs, pa, v => by
    rw [cellsAt, List.foldl_cons, foldl_put_cellsAt_get? a bs (pa + 1), List.length_cons]
    rcases Nat.lt_trichotomy a pa with h | rfl | h
    · rw [if_neg (by omega), if_neg (by omega), Sys2Proof.Laws.get?_put_other _ _ _ _ (by omega)]
    · rw [if_neg (by omega), if_pos (by omega), Sys2Proof.Laws.get?_put_same, Nat.sub_self]
      rfl
    · rw [Sys2Proof.Laws.get?_put_other _ _ _ _ (by omega)]
      have hs : a - pa = a - (pa + 1) + 1 := by omega
      by_cases hb : a < pa + 1 + bs.length
      · rw [if_pos (by omega), if_pos (by omega), hs, List.getD_cons_succ]
      · rw [if_neg (by omega), if_neg (by omega)]

/-- The version of each task, after the version of one has been replaced. -/
theorem version_of_put {s t : State} {task : Nat} {v : Assoc Byte} (h : t.versions = s.versions.put task v) (k : Nat) :
    t.version k = if k = task then v else s.version k := by
  rw [State.version, h, getD_put]
  rfl

/-- A store whose comb the task's version holds already goes into that version, and memory stays. -/
theorem hold_of_held {s : State} {slot pa : Nat} {w : Wave} (bs : List Byte) (hw : s.waves.get? slot = some w)
    (hc : (versionCombs (s.version w.task)).contains (pa / 1024) = true) :
    (s.hold slot pa bs).mem = s.mem ∧
      (s.hold slot pa bs).versions = s.versions.put w.task ((cellsAt pa bs).foldl (fun v c => v.put c.1 c.2) (s.version w.task)) := by
  obtain ⟨⟨hmem, hversions, -⟩, -⟩ := dropRows_same s (coreOf slot) pa bs.length
  have hversion : (s.dropRows (coreOf slot) pa bs.length).version w.task = s.version w.task := by rw [State.version, hversions]; rfl
  simp only [State.hold, hw, State.holdTask, hversion, hc, Bool.not_true, Bool.false_and, Bool.false_eq_true, if_false]
  exact ⟨hmem, by rw [hversions]⟩

/-! ### What a task reads -/

/-- A byte of some bytes under held ones. -/
theorem overlay_getD (v : Assoc Byte) : ∀ (bs : List Byte) (pa k : Nat), k < bs.length →
    (overlay v pa bs).getD k 0 = v.getD (pa + k) (bs.getD k 0)
  | [], _, _, h => absurd h (Nat.not_lt_zero _)
  | _ :: _, _, 0, _ => rfl
  | b :: bs, pa, k + 1, h => by
    rw [overlay, List.getD_cons_succ, List.getD_cons_succ, overlay_getD v bs (pa + 1) k (Nat.lt_of_succ_lt_succ h), Nat.add_right_comm,
      Nat.add_assoc]

theorem overlay_length (v : Assoc Byte) : ∀ (bs : List Byte) (pa : Nat), (overlay v pa bs).length = bs.length
  | [], _ => rfl
  | _ :: bs, pa => congrArg (· + 1) (overlay_length v bs (pa + 1))

theorem bytesAt_length (s : State) (pa n : Nat) : (s.bytesAt pa n).length = n := by
  unfold State.bytesAt
  induction n generalizing pa with
  | zero => rfl
  | succ n ih => exact congrArg (· + 1) (ih (pa + 1))

/-- A task reads its version over its waiting persistent bytes over memory. -/
theorem readTask_getD (s : State) (task pa : Nat) {n k : Nat} (h : k < n) : (s.readTask task pa n).2.getD k 0 =
    (s.version task).getD (pa + k) ((s.waiting task).getD (pa + k) (s.byteAt (pa + k))) := by
  have hbyte : (s.bytesAt pa n).getD k 0 = s.byteAt (pa + k) := by
    rw [List.getD_eq_getElem?_getD, State.bytesAt, getList_getElem? _ _ _ _ h]
    rfl
  have hlength : k < (s.bytesAt pa n).length := by rwa [bytesAt_length]
  rw [State.readTask, State.readPoint, overlay_getD _ _ _ _ (by rwa [overlay_length]), overlay_getD _ _ _ _ hlength, hbyte]

/-! ### The commit -/

/-- A task whose version has been discarded holds nothing. -/
theorem version_of_del {s t : State} {task : Nat} (h : t.versions = s.versions.del task) : t.version task = [] := by
  have hdel := Sys2Proof.Laws.get?_del s.versions task task
  rw [if_pos rfl] at hdel
  unfold Assoc.get? at hdel
  rw [State.version, h, Assoc.getD, hdel]
  rfl

/-- A commit that nothing delays makes every held byte visible and no other, and the task then holds none. -/
theorem commitHeld_visible {s : State} {core : Nat} {w : Wave} (ha : ascending (s.version w.task) = true)
    (hs : (s.commitHeld core w).stall = []) (a : Nat) :
    (s.commitHeld core w).byteAt a = (s.version w.task).getD a (s.byteAt a) ∧ (s.commitHeld core w).version w.task = [] := by
  by_cases hv : s.version w.task = []
  · simp only [State.commitHeld, hv, if_true]
    exact ⟨rfl, trivial⟩
  by_cases hp : s.fencePending w = true
  · simp only [State.commitHeld, hv, hp, if_true, if_false] at hs
    cases hs
  simp only [State.commitHeld, hv, hp, Bool.false_eq_true, if_false] at hs ⊢
  let z : State := { s with versions := s.versions.del w.task }
  obtain ⟨⟨hmem, hversions, -⟩, hstall⟩ := dropCells_same (z.store (s.version w.task)) core (s.version w.task)
  have hz : (z.store (s.version w.task)).stall = [] := hstall hs
  constructor
  · rw [State.byteAt, hmem, store_mem z _ hz, foldl_set_get _ s.mem a ha]
    rfl
  · rw [State.version, hversions]
    -- The store frames the versions of every task but the one it is for, here another.
    have hstore := store_frames (slot := 0) (task := w.task + 1) (ds := []) (P := fun a => ∀ c ∈ s.version w.task, c.1 ≠ a) z _
      (fun _ h => h) hz
    exact (hstore.versions _ (Nat.ne_of_lt (Nat.lt_succ_self _))).trans (version_of_del rfl)

/-! ### The statement -/

/-- Settles O57: a held store goes into the version of its task, a read looks through it, and a commit empties it. -/
theorem versionsAndCommits : Obligations.VersionsAndCommits := by
  intro s slot pa n a w bs hw
  refine ⟨fun hc => ?held, fun k hk => readTask_getD s w.task pa hk, fun ha hs => ?commit⟩
  case held =>
    intro t
    obtain ⟨hmem, hversions⟩ := hold_of_held bs hw hc
    have hversion := version_of_put hversions
    refine ⟨?_, congrArg (Sparse.get · a) hmem, fun k hk => (hversion k).trans (if_neg hk)⟩
    rw [hversion, if_pos rfl, foldl_put_cellsAt_get?]
  case commit =>
    have hcommit : s.commit slot = (s.setWave slot w.commits).commitHeld (coreOf slot) w := by simp only [State.commit, hw]
    rw [hcommit] at hs ⊢
    exact commitHeld_visible (s := s.setWave slot w.commits) ha hs a

end Sys2Proof.Machine
end

section
/-! PROOF. Objects in global memory, and what the operations on them leave of the word in issue (spec/09 R230, R244). -/

namespace Sys2Proof.Machine

/-! ### The word in issue stays -/

theorem performAt_issue (s : State) (blocks whole addrs : List Nat) (write : Sparse 8 → Sparse 8) :
    (s.performAt blocks whole addrs write).issue = s.issue := by
  unfold State.performAt
  extract_lets tiles held s0 s1
  split
  · rfl
  · obtain ⟨⟨-, -, -, -, hissue⟩, -⟩ : Same s s0 := Same.foldState fetchComb_same _ _
    exact (retryWhere_at ..).1.trans ((modSlotsFor_at ..).1.trans hissue)

theorem store_issue (s : State) (cs : List Host.Cell) : (s.store cs).issue = s.issue := by
  unfold State.store
  extract_lets blocks
  exact performAt_issue ..

theorem commitHeld_issue (s : State) (core : Nat) (w : Wave) : (s.commitHeld core w).issue = s.issue := by
  unfold State.commitHeld
  extract_lets v
  split
  · rfl
  · split
    · rfl
    · obtain ⟨⟨-, -, -, -, hissue⟩, -⟩ := dropCells_same (({ s with versions := s.versions.del w.task } : State).store v) core v
      exact hissue.trans (store_issue ..)

@[simp] theorem commit_issue (s : State) (slot : Nat) : (s.commit slot).issue = s.issue := by
  unfold State.commit
  split
  · rfl
  · exact commitHeld_issue ..

@[simp] theorem acquire_issue (s : State) (slot scope : Nat) : (s.acquire slot scope).issue = s.issue := by
  unfold State.acquire
  split
  · rfl
  · dsimp only
    split
    · obtain ⟨⟨-, -, -, -, hissue⟩, -⟩ := clearL1_same (s.setWave slot _) (coreOf slot)
      exact hissue
    · rfl

@[simp] theorem writeObject_issue (s : State) (w : Wave) (pa : Nat) (bs : List Byte) : (s.writeObject w pa bs).issue = s.issue := by
  unfold State.writeObject
  split
  · rfl
  · obtain ⟨⟨-, -, -, -, hissue⟩, -⟩ := dropRows_same (s.storeAt pa bs) (coreOf s.issue.slot) pa bs.length
    exact hissue.trans (store_issue s _)

@[simp] theorem setWaiters_issue (s : State) (w : Wave) (pa : Nat) (c : Capsule) (n : Nat) : (s.setWaiters w pa c n).issue = s.issue := by
  unfold State.setWaiters
  split
  · rfl
  · exact writeObject_issue ..

/-! ### The read of an object -/

theorem readHome_same (s : State) (core task pa n : Nat) : Same s (s.readHome core task pa n).1 :=
  (readPoint_same s pa n).trans ((dropRows_same ..).trans (rangeRead_same ..))

theorem afterBusy_same (s : State) (w : Wave) (pa n : Nat) : Same s (s.afterBusy w pa n) := by
  unfold State.afterBusy
  split
  · exact stallOn_same ..
  · exact Same.refl s

/-- A peer that answers reports no failure. -/
theorem askPeer_same {s : State} {die pa n : Nat} {b : List Byte} (h : (s.askPeer die pa n).2 = some b) : Same s (s.askPeer die pa n).1 := by
  unfold State.askPeer State.askAgain at h ⊢
  dsimp only at h ⊢
  split at h
  · cases h
  · rename_i hr
    rw [if_neg hr]
    exact readRemote_same ..

theorem readObject_same {s : State} {w : Wave} {pa n : Nat} {b : List Byte} (h : (s.readObject w pa n).2 = some b) :
    Same s (s.readObject w pa n).1 := by
  unfold State.readObject at h ⊢
  dsimp only at h ⊢
  refine (afterBusy_same s w pa n).trans ?_
  split
  · rename_i hr
    rw [if_pos hr] at h
    exact askPeer_same h
  · exact readHome_same ..

/-- The checks and the read of an object store nothing. -/
theorem objectBytes_same {s u : State} {w : Wave} {va n pa : Nat} {mside : Bool} {b : List Byte}
    (h : s.objectBytes w va n mside = some (u, pa, b)) : Same s u := by
  unfold State.objectBytes at h
  split at h
  · cases h
  · rename_i v pa' pte hg
    split at h
    · cases h
    · obtain ⟨x, hx, hr⟩ := Option.map_eq_some_iff.1 h
      obtain ⟨rfl, rfl, rfl⟩ := hr
      have hcheck : Same s v := by
        have := check_same s w.ctx (dieOf (clusOf (coreOf s.issue.slot))) (some (clusOf (coreOf s.issue.slot))) va n n
          { rd := true, wr := true, mside := mside }
        rwa [granted_iff.1 hg] at this
      exact hcheck.trans (readObject_same hx)

theorem objectBytes_issue {s u : State} {w : Wave} {va n pa : Nat} {mside : Bool} {b : List Byte}
    (h : (s.countWord w).objectBytes w va n mside = some (u, pa, b)) : u.issue = s.issue := by
  obtain ⟨⟨-, -, -, -, hissue⟩, -⟩ := objectBytes_same h
  exact hissue.trans (countWord_issue s w)

end Sys2Proof.Machine
end

section
/-! PROOF. `publ`, `spawn` and the futures (spec/09 R221, R229 to R233, R235). -/

namespace Sys2Proof.Machine

/-! ### `publ` -/

/-- Settles O34: `publ` may not stand in a capsule body, so that a wait is not counted in one; else its body is a commit. -/
theorem publWaitsAndCommits : Obligations.PublWaitsAndCommits := by
  intro q s w h
  refine ⟨fun hg => ?_, fun hg hs => performs_of_does h (exec_publ q s) ?_ hs (by simp)⟩
  · rw [performs, exec_publ]
    exact issueWord_waits_out h rfl (if_pos hg) (issues_stall h)
  · dsimp only
    rw [if_neg (ne_true_of_eq_false hg), countWord_issue]

/-! ### Futures -/

/-- What is done at a future that passes the checks. -/
theorem futureAct_at {t u : State} {w : Wave} {j : Instr} {sa : SReg} {pa : Nat} {b : List Byte}
    {body : State → Wave → Nat → Future → Did}
    (hat : t.objectBytes w (t.issue.src.pair sa.toNat).toNat 32 false = some (u, pa, b)) (hb : futureBad b = false) :
    futureAct t w j sa body = body u w pa (readFuture b) :=
  (memObject_bytes hat).trans (if_neg (ne_true_of_eq_false hb))

/-- An instruction that no aborted owner ends is performed. -/
theorem ownerEnded_none {t : State} {w : Wave} {sd : SReg} {body : Did} (h : w.ownerFault = none) : ownerEnded t w sd body = body := by
  simp only [ownerEnded, h]

/-- An instruction on a future that passes the checks does what its body does there. -/
theorem futureOp_does {q : Sched} {s u : State} {w : Wave} {j : Instr} {sa : SReg} {pa : Nat} {b : List Byte}
    {body : State → Wave → Nat → Future → Did} {d : Did} (h : issues j s w = true) (he : exec j s = futureOp q j sa body s)
    (hat : (s.countWord w).objectBytes w (s.issue.src.pair sa.toNat).toNat 32 false = some (u, pa, b)) (hgood : futureBad b = false)
    (hb : body u w pa (readFuture b) = d) (hw : ∀ t, d ≠ .wait t) (hs : d.state.stall = []) : exec j s = .next (s.after q d) := by
  rw [← countWord_issue s w] at hat
  rw [he]
  exact issueWord_does h ((futureAct_at hat hgood).trans hb) hs hw

/-- The same of one that may have waited, where no aborted owner ends it. -/
theorem futureWait_does {q : Sched} {s u : State} {w : Wave} {j : Instr} {sd sa : SReg} {pa : Nat} {b : List Byte}
    {body : State → Wave → Nat → Future → Did} {d : Did} (h : issues j s w = true) (ho : w.ownerFault = none)
    (he : exec j s = issueWord q j s fun t x => ownerEnded t x sd (futureAct t x j sa body))
    (hat : (s.countWord w).objectBytes w (s.issue.src.pair sa.toNat).toNat 32 false = some (u, pa, b)) (hgood : futureBad b = false)
    (hb : body u w pa (readFuture b) = d) (hw : ∀ t, d ≠ .wait t) (hs : d.state.stall = []) : exec j s = .next (s.after q d) := by
  rw [← countWord_issue s w] at hat
  rw [he]
  exact issueWord_does h ((ownerEnded_none ho).trans ((futureAct_at hat hgood).trans hb)) hs hw

/-! ### The statement -/

/-- Settles O42: `spawn` asks of its lanes' entries and then of its release; the others are performed at a future that passes the checks. -/
theorem taskWords : Obligations.TaskWords := by
  dsimp only [Obligations.TaskWords]
  intro q va sd sa sb s w
  refine ⟨fun h hg hs => (publWaitsAndCommits q s w h).2 hg hs, fun u c hs h hl hc hz => ?spawned, fun u x rs hs h hl hz => ?refused,
    fun u pa b hat hgood => ?futures⟩
  case spawned =>
    rw [exec_spawn]
    refine issueWord_does h ?_ hz (by simp)
    simp only [countWord_issue, hl, Did.orTrap]
    exact releasing_released hc
  case refused =>
    rw [exec_spawn]
    refine issueWord_does h ?_ hz (by simp)
    simp only [countWord_issue, hl, Did.orTrap]
  case futures =>
    have hu : u.issue = s.issue := objectBytes_issue hat
    refine ⟨fun h hn => futureOp_does h (exec_fbind q sa s) hat hgood ?fbind (by simp),
      fun c h hc => futureOp_does h (exec_fset q sa sb s) hat hgood ?fset (by simp), fun h ho => ?fwait⟩
    case fbind => rw [if_neg (not_not_intro hn), hu]
    case fset =>
      refine (releasing_released hc).trans ?_
      rw [hu, ite_not]
      split <;> rfl
    case fwait =>
      have does {d : Did} := futureWait_does (d := d) h ho (exec_fwait q sd sa s) hat hgood
      refine ⟨fun h1 => does ?set (by simp), fun h2 => does ?faulted (by simp), fun h0 hn => does ?unbound (by simp), fun h0 hb =>
        ⟨fun hm => does ?mine (by simp), fun hm hl => does ?dead (by simp), fun hm hl ha => does ?waits (by simp),
          fun o hm hl ha => does ?adopts (by simp)⟩⟩
      all_goals simp only [hu]
      case set => rw [if_pos h1]
      case faulted => rw [if_neg (by omega), if_pos h2]
      case unbound => rw [if_neg (by omega), if_neg (by omega), if_pos (by simp [hn])]
      all_goals rw [if_neg (by omega), if_neg (by omega), if_neg (by simp [hb])]
      case mine => rw [if_pos hm]
      all_goals rw [if_neg hm]
      case dead => rw [if_pos (by simp [hl])]
      case waits => simp [hl, ha]
      case adopts => simp [hl, ha]

end Sys2Proof.Machine
end

section
/-! PROOF. The elastic rings (spec/09 R235, R240 to R243). -/

namespace Sys2Proof.Machine

/-! ### The slots of a ring -/

/-- A list of answers that all exist holds the answer to each question. -/
theorem exists_mem_of_mapM {α β : Type} {f : α → Option β} : ∀ {l : List α} {ys : List β}, l.mapM f = some ys →
    ∀ a ∈ l, ∃ y ∈ ys, f a = some y
  | [], _, _, _, ha => absurd ha List.not_mem_nil
  | x :: l, ys, h, a, ha => by
    rw [List.mapM_cons] at h
    obtain ⟨y, hy, h⟩ := Option.bind_eq_some_iff.1 h
    obtain ⟨zs, hz, h⟩ := Option.bind_eq_some_iff.1 h
    obtain rfl := Option.some.inj h
    rcases List.mem_cons.1 ha with rfl | ha
    · exact ⟨y, List.mem_cons_self .., hy⟩
    · obtain ⟨v, hv, e⟩ := exists_mem_of_mapM hz a ha
      exact ⟨v, List.mem_cons_of_mem _ hv, e⟩

/-- The lines that the checks of a ring look at are those of its slots and of the one that would be lent next. -/
theorem slotLines_mem {s : State} {w : Wave} {team : Team} {core off : Nat} {r : Ring} {slots : List RSlot} {next : Option RSlot} {l : Nat × Nat}
    (hr : r = s.readRing core off) (ht : s.teams.get? w.team = some team) (hp : r.placed = true)
    (hs : s.ringSlots team (coreOf s.issue.slot) r (r.nslot + r.lent) = some slots)
    (hn : r.lent < r.lendmax → next = s.ringSlot team (coreOf s.issue.slot) r (r.nslot + r.lent))
    (hl : l ∈ s.slotLines w core off) : ∃ y ∈ slots ++ next.toList, l = (y.core, y.off / 128) := by
  simp only [State.slotLines, ← hr, ht, hp, if_true, List.mem_eraseDups, List.mem_filterMap, Option.map_eq_some_iff, List.mem_range] at hl
  obtain ⟨k, hk, y, hy, rfl⟩ := hl
  refine ⟨y, List.mem_append.2 ?_, rfl⟩
  by_cases hown : k < r.nslot + r.lent
  · obtain ⟨z, hz, e⟩ := exists_mem_of_mapM hs k (List.mem_range.2 hown)
    obtain rfl := Option.some.inj (hy.symm.trans e)
    exact .inl hz
  · have hlend : r.lent < r.lendmax ∧ k = r.nslot + r.lent := by omega
    obtain ⟨hlt, rfl⟩ := hlend
    rw [hn hlt]
    exact .inr (Option.mem_toList.2 hy)

/-! ### A ring instruction at its ring -/

/-- A ring instruction at a ring that passes the checks does what its body does there. -/
theorem ringAct_ready {t : State} {w : Wave} {j : Instr} {sa : SReg} {x : RingAt} {body : State → Wave → RingAt → Did}
    (h : t.ringReady w (t.issue.src.scalar sa.toNat).toNat x) : ringAct t w j sa body = body t w x := by
  obtain ⟨team, ht, hat, hr, hok, hs, hn, hlines, hwords⟩ := h
  have hplaced : x.ring.placed = true := (Bool.and_eq_true_iff.1 hok).1
  have hnext : x.next = if x.ring.lent < x.ring.lendmax then
      t.ringSlot team (coreOf t.issue.slot) x.ring (x.ring.nslot + x.ring.lent) else none := by
    split at hn
    · obtain ⟨-, hn⟩ := hn
      rw [if_pos ‹_›, hn]
    · rw [if_neg ‹_›, hn]
  have hlent : ¬(x.ring.lent < x.ring.lendmax ∧ x.next.isNone = true) := fun ⟨hlt, hnone⟩ => by
    rw [if_pos hlt] at hn
    obtain ⟨hsome, -⟩ := hn
    cases hx : x.next <;> simp [hx] at hsome hnone
  have hclean : (x.slots.any fun y => decide (t.slotWord y / 2 ^ 18 ≠ 0)) = false := 
    List.any_eq_false.2 fun y hy hbad => of_decide_eq_true hbad (hwords y hy)
  unfold ringAct
  refine (spadObjectOver_at hat fun l hl => ?_).trans ?_
  · obtain ⟨y, hy, rfl⟩ := slotLines_mem hr ht hplaced hs (fun hlt => hnext.trans (if_pos hlt)) hl
    exact hlines y hy
  · simp only [ht, ← hr, hok, hs, ← hnext, hclean, Bool.not_true, Bool.false_eq_true, if_false, if_neg hlent]

section
variable {q : Sched} {s : State} {w : Wave} {j : Instr} {sd sa : SReg} {x : RingAt} {body : State → Wave → RingAt → Did} {d : Did}

theorem ringOp_does (hr : (s.countWord w).ringReady w (s.issue.src.scalar sa.toNat).toNat x) (h : issues j s w = true)
    (he : exec j s = ringOp q j sa body s) (hb : body (s.countWord w) w x = d) (hw : ∀ t, d ≠ .wait t) (hs : d.state.stall = []) :
    exec j s = .next (s.after q d) := by
  rw [← countWord_issue s w] at hr
  rw [he]
  exact issueWord_does h ((ringAct_ready hr).trans hb) hs hw

/-- The same of one that may have waited, where no aborted owner ends it. -/
theorem ringWait_does (hr : (s.countWord w).ringReady w (s.issue.src.scalar sa.toNat).toNat x) (h : issues j s w = true)
    (ho : w.ownerFault = none) (he : exec j s = ringWait q j sd sa body s) (hb : body (s.countWord w) w x = d) (hw : ∀ t, d ≠ .wait t)
    (hs : d.state.stall = []) : exec j s = .next (s.after q d) := by
  rw [← countWord_issue s w] at hr
  rw [he]
  exact issueWord_does h ((ownerEnded_none ho).trans ((ringAct_ready hr).trans hb)) hs hw

end

/-- The slot that a register names, in the state that the instruction needs. -/
theorem named_at {x : RingAt} {t : State} {j : Instr} {payload : Word} {state : Nat} {body : RSlot → Did} {y : RSlot}
    (h : x.slots.find? (fun y => decide (y.payload = payload.toNat)) = some y ∧ t.slotState y = state) :
    x.named t j payload state body = body y := by
  obtain ⟨hfind, hstate⟩ := h
  simp only [RingAt.named, hfind, if_pos hstate]

/-- The registered owner of a side, put to a question. -/
theorem owner_bind {α : Type} (r : Ring) (bit task : Nat) (f : Nat → Option α) :
    (r.owner bit task).bind f = if r.stat / 2 ^ bit % 2 = 1 then f task else none := by
  unfold Ring.owner
  split <;> rfl

theorem helpOrPark_parks {t parked : State} {w : Wave} {owner : Option Nat} {park : Park}
    (h : owner.bind (t.adoptable? t.issue.slot w) = none) : helpOrPark t w owner park parked = .park parked park := by
  simp only [helpOrPark, h]

theorem helpOrPark_adopts {t parked : State} {w : Wave} {owner : Option Nat} {park : Park} {o : OwnerAt}
    (h : owner.bind (t.adoptable? t.issue.slot w) = some o) : helpOrPark t w owner park parked = .left (t.adopt w o park) := by
  simp only [helpOrPark, h]

/-- A ring instruction that comes to the helping decision adopts the registered owner, or parks. -/
theorem gives_helpOrPark {s : State} {w : Wave} {x : RingAt} {j : Instr} {bit task : Nat} {P : Did → Prop}
    (hP : ∀ d, helpOrPark (s.countWord w) w (x.ring.owner bit task) (x.park (s.countWord w) j) (s.countWord w) = d →
      (∀ t, d ≠ .wait t) → P d) :
    let park : Park := .ring x.core x.off (x.slots.map fun y => (y.core, y.off))
      { instr := j, held := s.issue.held, first := s.issue.first, src := s.issue.src }
    let owner := if x.ring.stat / 2 ^ bit % 2 = 1 then (s.countWord w).adoptable? s.issue.slot w task else none
    (owner = none → P (.park (s.countWord w) park)) ∧ ∀ o, owner = some o → P (.left ((s.countWord w).adopt w o park)) := by
  intro park owner
  have howner : (x.ring.owner bit task).bind ((s.countWord w).adoptable? (s.countWord w).issue.slot w) = owner := by
    rw [owner_bind, countWord_issue]
  simp only [RingAt.park, countWord_issue] at hP
  exact ⟨fun hn => hP _ (helpOrPark_parks (howner.trans hn)) (by simp), fun o ho => hP _ (helpOrPark_adopts (howner.trans ho)) (by simp)⟩

/-! ### The statement -/

/-- Settles O43: each ring instruction is its body at the ring that passes its checks; what waits there adopts or parks. -/
theorem ringWords : Obligations.RingWords := by
  dsimp only [Obligations.RingWords]
  intro q sd sa sb s w x hr
  refine ⟨fun h ho => ?qres, fun y c h hn hc => ringOp_does hr h (exec_qpub ..) ?qpub (by simp), fun h ho => ?qtake,
    fun y h hn => ringOp_does hr h (exec_qdone ..) ?qdone (by simp),
    fun c h hc => ringOp_does hr h (exec_qclose ..) (releasing_released hc) (by simp)⟩
  case qpub =>
    simp only [countWord_issue]
    exact (named_at hn).trans (releasing_released hc)
  case qdone =>
    simp only [countWord_issue]
    exact named_at hn
  case qres =>
    have does {d : Did} := ringWait_does (d := d) hr h ho (exec_qres q sd sa s)
    refine ⟨fun hf => does ?faulted (by simp), fun hf hc => does ?closed (by simp), fun hf hc =>
      ⟨fun y hy => does ?free (by simp), fun y hn hy => does ?lends (by simp),
        fun hn hx => gives_helpOrPark fun d hd => does ?full⟩⟩
    case faulted => simp only [hf, if_true]
    all_goals simp only [hf, Bool.false_eq_true, if_false]
    case closed => simp only [hc, if_true]
    all_goals simp only [hc, Bool.false_eq_true, if_false]
    case free => simp only [hy]
    case lends => simp only [hn, hy]
    case full => simpa only [hn, hx] using hd
  case qtake =>
    have does {d : Did} := ringWait_does (d := d) hr h ho (exec_qtake q sd sa s)
    refine ⟨fun y hy => does ?takes (by simp), fun hn => ⟨fun hf => does ?fault (by simp), fun hf hc he => does ?ended (by simp),
      fun hf hc => gives_helpOrPark fun d hd => does ?empty⟩⟩
    case takes => simp only [hy]
    all_goals simp only [hn]
    case fault => rw [if_pos hf]
    all_goals rw [if_neg (ne_true_of_eq_false hf)]
    case ended => rw [if_pos ⟨hc, he⟩]
    case empty => rw [if_neg hc, hd]

end Sys2Proof.Machine
end

section
/-! PROOF. The capsules (spec/09 R245 to R248). -/

namespace Sys2Proof.Machine

/-! ### A word that a capsule body refuses -/

/-- What `bodyRefuses` says, clause by clause. -/
theorem bodyRefuses_iff {i : Instr} {s : State} {w : Wave} : bodyRefuses i s w = true ↔
    s.waves.get? s.issue.slot = some w ∧ i.wf = true ∧ Instr.legal i w s.issue.held = true ∧ s.stall = [] ∧
    (s.issue.resumed = true ∨ w.awaits (Instr.reads i s.issue.held (Instr.drawsRsr i (s.issue.mode w))) = false) ∧
    w.limited i s.issue.resumed = true ∧
    (w.chk = false ∨ s.issue.resumed = true ∨ w.early (Instr.reads i s.issue.held (Instr.drawsRsr i (s.issue.mode w))) = false) := by
  simp [bodyRefuses, and_assoc, or_assoc]

/-- A word that the capsule body refuses traps with the causes that it raises and CAPSULE_LIMIT (spec/09 R245). -/
theorem performs_of_bodyRefuses {q : Sched} {j : Instr} {s : State} {w : Wave} {body : State → Wave → Did} {rs : List Raise}
    (h : bodyRefuses j s w = true) (he : exec j s = issueWord q j s body) (hr : (body (s.countWord w) w).raises = rs) :
    performs j q s w fun c => Did.orTrap c (rs ++ bundleRaise (s.issue.raising j) cCapsule 0) (.left c) := by
  obtain ⟨hg, hwf, hl, -, ha, hlim, hearly⟩ := bodyRefuses_iff.1 h
  have hp : s.perform j w body =
      Did.orTrap (s.countWord w) (rs ++ bundleRaise (s.issue.raising j) cCapsule 0) (.left (s.countWord w)) := by
    unfold State.perform
    simp only [hwf, hl, Bool.not_true, Bool.false_and, Bool.or_self, Bool.false_eq_true, if_false]
    rw [if_neg (by rcases ha with h | h <;> simp [h]), if_neg (by rcases hearly with h | h | h <;> simp [h])]
    simp only [hlim, if_true, Did.refused, hr]
  simp only [performs, he, issueWord, hg, hp, State.after]

/-- A limited word stands in a capsule body. -/
theorem limited_ckey {j : Instr} {w : Wave} {resumed : Bool} (h : w.limited j resumed = true) : w.ckey ≠ 0 := by
  simp only [Wave.limited, Wave.inBody, Bool.and_eq_true, decide_eq_true_eq] at h
  obtain ⟨⟨hkey, -⟩, -⟩ := h
  exact hkey

/-- The causes of a word that only raises are those raised. -/
theorem orTrap_left_raises (t : State) (rs : List Raise) : (Did.orTrap t rs (.left t)).raises = rs := by
  cases rs <;> rfl

/-! ### A capsule -/

/-- What is done at a capsule that passes the checks. -/
theorem capsuleOp_at {t u : State} {w : Wave} {j : Instr} {sa : SReg} {pa : Nat} {b : List Byte} {body : State → Nat → Capsule → Did}
    (hat : t.objectBytes w (t.issue.src.pair sa.toNat).toNat 256 true = some (u, pa, b)) (hb : capsuleBad b = false) :
    capsuleOp t w j sa body = body u pa (readCapsule b) :=
  (memObject_bytes hat).trans (if_neg (ne_true_of_eq_false hb))

/-- An instruction on a capsule that passes the checks does what its body does there. -/
theorem capsule_does {q : Sched} {s u : State} {w : Wave} {j : Instr} {sa : SReg} {pa : Nat} {b : List Byte}
    {body : State → Wave → State → Nat → Capsule → Did} {d : Did}
    (hat : (s.countWord w).objectBytes w (s.issue.src.pair sa.toNat).toNat 256 true = some (u, pa, b)) (hgood : capsuleBad b = false)
    (h : issues j s w = true) (he : exec j s = issueWord q j s fun t x => capsuleOp t x j sa (body t x))
    (hb : body (s.countWord w) w u pa (readCapsule b) = d) (hw : ∀ t, d ≠ .wait t) (hs : d.state.stall = []) :
    exec j s = .next (s.after q d) := by
  rw [← countWord_issue s w] at hat
  rw [he]
  exact issueWord_does h ((capsuleOp_at hat hgood).trans hb) hs hw

/-- Words that raise nothing of their own trap with CAPSULE_LIMIT alone where a capsule body refuses them. -/
theorem performs_limit {q : Sched} {s : State} {w : Wave} {j : Instr} (hj : j ∈ [Instr.nop q, .publ q, .ppt q, .yield q, .pfence q])
    (h : bodyRefuses j s w = true) :
    performs j q s w fun c => Did.orTrap c (bundleRaise (s.issue.raising j) cCapsule 0) (.left c) := by
  have none_raised {body : State → Wave → Did} (he : exec j s = issueWord q j s body) (hr : (body (s.countWord w) w).raises = []) :=
    performs_of_bodyRefuses h he hr
  simp only [List.mem_cons, List.not_mem_nil, or_false] at hj
  rcases hj with rfl | rfl | rfl | rfl | rfl
  · exact none_raised (exec_nop q s) rfl
  · exact none_raised (exec_publ q s) (by split <;> rfl)
  · exact none_raised (exec_ppt q s) rfl
  · exact none_raised (exec_yield q s) rfl
  · exact none_raised (exec_pfence q s) rfl

/-- A second `center` raises CAPSULE_LIMIT of its own, and so does the body that refuses it. -/
theorem center_second {q : Sched} {sd sa : SReg} {s u : State} {w : Wave} {pa : Nat} {b : List Byte}
    (hat : (s.countWord w).objectBytes w (s.issue.src.pair sa.toNat).toNat 256 true = some (u, pa, b)) (hgood : capsuleBad b = false)
    (h : bodyRefuses (.center q sd sa) s w = true) :
    let limit := bundleRaise (s.issue.raising (.center q sd sa)) cCapsule 0
    performs (.center q sd sa) q s w fun c => Did.orTrap c (limit ++ limit) (.left c) := by
  refine performs_of_bodyRefuses h (exec_center q sd sa s) ?_
  obtain ⟨-, -, -, -, -, hlimited, -⟩ := bodyRefuses_iff.1 h
  rw [← countWord_issue s w] at hat
  refine (congrArg Did.raises ((capsuleOp_at hat hgood).trans (if_pos (limited_ckey hlimited)))).trans ?_
  rw [countWord_issue]
  exact orTrap_left_raises ..

/-- The HELD bit of a capsule is set where the task's compare holds. -/
theorem mine_held {c : Capsule} {w : Wave} {k : Nat} (h : c.mine w k = true) : c.flags % 2 = 1 := by
  simp only [Capsule.mine, Capsule.held, Bool.and_eq_true, decide_eq_true_eq] at h
  obtain ⟨⟨hheld, -⟩, -⟩ := h
  exact hheld

/-- The checkpoint's bytes are those of s48 to s63. -/
theorem ckpt_bytes (i : Issue) : (i.ckpt.flatMap fun x => leBytes 4 x.toNat) =
    (List.range 16).flatMap fun n => leBytes 4 (i.src.scalar (48 + n)).toNat := by
  rw [Issue.ckpt, run_map, List.flatMap_map]

theorem foldState_map {α β : Type} (f : State → β → State) (g : α → β) : ∀ (l : List α) (s : State),
    foldState f s (l.map g) = foldState (fun s a => f s (g a)) s l
  | [], _ => rfl
  | a :: l, s => foldState_map f g l (f s (g a))

/-- The checkpoint's words are written one by one. -/
theorem putCkpt_words (s : State) (ws : List Word) :
    s.putCkpt ws = foldState (fun s n => s.putNow (.sca (48 + n) (ws.getD n 0))) s (List.range ws.length) := by
  have hzip : (List.range ws.length).zip ws = (List.range ws.length).map fun n => (n, ws.getD n 0) :=
    List.ext_getElem (by simp) fun n h1 h2 => by
      have hn : n < ws.length := by simpa using h2
      simp [List.getD_eq_getElem?_getD, hn]
  rw [State.putCkpt, hzip, foldState_map]

/-- The checkpoint of a capsule that was read has its sixteen words. -/
theorem putCkpt_readCapsule (s : State) (b : List Byte) : s.putCkpt (readCapsule b).ckpt =
    foldState (fun s n => s.putNow (.sca (48 + n) ((readCapsule b).ckpt.getD n 0))) s (List.range 16) := putCkpt_words ..

@[simp] theorem putCkpt_issue (s : State) (ws : List Word) : (s.putCkpt ws).issue = s.issue := by
  rw [putCkpt_words]
  generalize List.range ws.length = l
  induction l generalizing s with
  | nil => rfl
  | cons n l ih => exact (ih _).trans (putNow_issue ..)

/-- No lane's return stack is full. -/
theorem fullStacks_nil {w : Wave} {m : DWord} (h : ∀ l ∈ lanesOf m, (w.rstack.getD l []).length < 16) :
    ((lanesOf m).filter fun l => decide (16 ≤ (w.stack l).length)) = [] :=
  List.filter_eq_nil_iff.2 fun l hl hfull => absurd (of_decide_eq_true hfull) (Nat.not_le_of_lt (h l hl))

/-- A call by lanes whose return stacks have room. -/
theorem callTo_room {t : State} {w : Wave} {target : DWord} (h : ∀ l ∈ lanesOf t.issue.lanes, (w.rstack.getD l []).length < 16) :
    callTo t w target = .goto (t.wave fun x => x.pushAll (t.issue.pc + 4) (lanesOf t.issue.lanes)) [(target, t.issue.lanes)] none := by
  simp only [callTo, fullStacks_nil h]
  rfl

/-- A wave whose lanes have room on their return stacks enters a capsule's code at a step (spec/09 R246). -/
theorem enters_capsule {x : State} {i : Issue} {w : Wave} {sd step : Nat} {key code : DWord} (hx : x.issue = i)
    (h : ∀ l ∈ lanesOf i.lanes, (w.rstack.getD l []).length < 16) :
    callTo ((((x.putNow (.sca sd (BitVec.ofNat 32 step))).putNow (.cond true)).wave (·.openStep key)).acquire i.slot 4) w code =
      .goto (((((x.putNow (.sca sd (BitVec.ofNat 32 step))).putNow (.cond true)).wave fun z =>
          { z with ckey := key, stepWords := 0, stepBuf := [] }).acquire i.slot 4).wave fun z => z.pushAll (i.pc + 4) (lanesOf i.lanes))
        [(code, i.lanes)] none := by
  have hi : ((((x.putNow (.sca sd (BitVec.ofNat 32 step))).putNow (.cond true)).wave (·.openStep key)).acquire i.slot 4).issue = i := by
    simp only [acquire_issue, wave_issue, putNow_issue, hx]
  rw [callTo_room (by rwa [hi]), hi]
  rfl

/-! ### The statement -/

/-- Settles O44: each capsule instruction is its body at the capsule that passes its checks, and one that a body refuses traps. -/
theorem capsuleWords : Obligations.CapsuleWords := by
  dsimp only [Obligations.CapsuleWords]
  intro q sd sa sb s w u pa b
  refine ⟨fun j hj h => performs_limit hj h, fun hat hgood => ?_⟩
  have hu : u.issue = s.issue := objectBytes_issue hat
  refine ⟨fun h => center_second hat hgood h, fun h => ?cres, fun h => ?cstep, fun h => ?cexit, fun h hkey hv => ?center⟩
  case cres =>
    have does {d : Did} := capsule_does (d := d) hat hgood h (exec_cres q sd sa s)
    refine ⟨fun hd => does ?done (by simp), fun hd hf => does ?faulted (by simp), fun hd hf => does ?parks (by simp)⟩
    case done => simp only [hd, if_true, countWord_issue]
    all_goals simp only [hd, Bool.false_eq_true, if_false]
    case faulted => rw [if_pos hf]
    case parks => simp only [hf, Bool.false_eq_true, if_false, capsulePark, hu]
  case cstep =>
    have does {d : Did} := capsule_does (d := d) hat hgood h (exec_cstep q sa sb s)
    refine ⟨fun hm => does ?displaced (by simp), fun hm hk => does ?limit (by simp), fun r hm hk hr => does ?steps (by simp)⟩
    all_goals simp only [countWord_issue, hm, Bool.not_true, Bool.not_false, Bool.false_eq_true, if_true, if_false]
    case displaced => rfl
    case limit => rw [if_pos hk, raiseAll_leader rfl]
    case steps =>
      rw [if_neg hk, releasing_released hr, ckpt_bytes]
  case cexit =>
    have does {d : Did} := capsule_does (d := d) hat hgood h (exec_cexit q sa sb s)
    refine ⟨fun hm => does ?displaced (by simp), fun r hm hr => does ?exits (by simp)⟩
    all_goals simp only [countWord_issue, hm, Bool.not_true, Bool.not_false, Bool.false_eq_true, if_true, if_false]
    case displaced => rfl
    case exits =>
      have hflags : (readCapsule b).flags - 1 + 2 = (readCapsule b).flags + 1 := by
        have := mine_held hm
        omega
      rw [releasing_released hr, hflags]
  case center =>
    have does {d : Did} := capsule_does (d := d) hat hgood h (exec_center q sd sa s)
    have enters {y : State} (hb : _ = Did.goto y [(BitVec.ofNat 64 (readCapsule b).code, s.issue.lanes)] none) := does hb (by simp)
    refine ⟨fun hd => does ?done (by simp), fun hd hf => does ?faulted (by simp), fun hd hf hl => does ?parks (by simp),
      fun hd hf hroom => ⟨fun hh => enters ?free, fun hh hl => enters ?adopts⟩⟩
    all_goals simp only [countWord_issue, hkey, ne_eq, not_true_eq_false, if_false, hv, hd, Bool.false_eq_true, Bool.not_false, Bool.true_and,
      Bool.false_or]
    case done => rfl
    all_goals simp only [hf, Bool.false_eq_true, if_false, Bool.not_false, Bool.true_and, Bool.false_or]
    case faulted => rfl
    case parks =>
      obtain ⟨hheld, hresident, hlease⟩ := hl
      simp only [hheld, hresident, hlease, decide_true, Bool.and_self, if_true, Did.orTrap, capsulePark, commit_issue, hu]
    all_goals simp only [fullStacks_nil hroom, lanesRaise, List.map_nil, ite_self, Did.orTrap]
    case free =>
      simp only [hh, Bool.false_and, Bool.false_eq_true, if_false, ckpt_bytes]
      exact enters_capsule (by simp [hu]) hroom
    case adopts =>
      have hpassed : (u.resident (readCapsule b).holder && decide (u.clock.toNat < (readCapsule b).deadline)) = false := by
        simpa [hh] using hl
      simp only [hh, Bool.true_and, hpassed, Bool.false_eq_true, if_false, if_true]
      refine (enters_capsule (by simp [hu]) hroom).trans ?_
      rw [putCkpt_readCapsule]
      rfl

end Sys2Proof.Machine
end

section
/-! PROOF. The fabric and the host (spec/10 R262, spec/14 R346 to R349, R358). -/

namespace Sys2Proof.Machine

/-! ### Remote operations -/

section
variable {s : State} {n : Nat} {r : RemoteOp} (hr : s.remoteOps.find? (fun r => decide (r.num = n)) = some r)
include hr

/-- An operation that may leave, and that no fence turns away, is performed: a local one writes its flag. -/
theorem execRemoteStorePerform_performs (hready : s.remoteReady r = true) (hfree : s.turnedAway r = false)
    (hs : ((if r.local_ then s.writeFlag r else s).setPerformed n).stall = []) :
    execRemoteStorePerform n s = .next ((if r.local_ then s.writeFlag r else s).setPerformed n) := by
  simp only [execRemoteStorePerform, hr, hready, hfree, Bool.not_true, Bool.or_self, Bool.false_eq_true, if_false, settleEvent_done hs]

/-- An operation to a peer that its peer refuses, or that a fence turns away, is lost and counted. -/
theorem execRemoteFailure_loses (hready : (if s.turnedAway r then s.sendable r else s.remoteReady r) = true) (hl : r.local_ = false) :
    execRemoteFailure n s = .next ((s.dropRemote n).peerFailure (dieOf (clusOf r.core))) := by
  simp only [execRemoteFailure, hr, hready, hl, Bool.not_true, Bool.or_self, Bool.false_eq_true, if_false]

end

/-- An operation that has been performed is acknowledged. -/
theorem execRemoteAck_drops {s : State} {x : RemoteOp} (hx : x ∈ s.remoteOps) (hp : x.performed = true) :
    execRemoteAck x.num s = .next (s.dropRemote x.num) := by
  have hany : (s.remoteOps.any fun r => decide (r.num = x.num) && r.performed) = true := List.any_eq_true.2 ⟨x, hx, by simp [hp]⟩
  rw [execRemoteAck, if_pos hany]

/-! ### Accesses of a peer -/

/-- The access asks for the bytes that stand there. -/
def peerReads : PeerAccess → Bool
  | .write _ => false
  | _ => true

/-- The access may store bytes. -/
def peerWrites : PeerAccess → Bool
  | .read => false
  | _ => true

/-- What turns away an access whose operands fit: its package, the window, the access table, bytes that do not exist, or marked ones that it
would read. -/
def State.refusesPeer (s : State) (pkg off len : Nat) (a : PeerAccess) : Bool :=
  let pa := s.regs.expbase + off
  !s.admits pkg || decide (s.regs.expsize < off + len) || (peerReads a && !s.accessOk 19 pa len false) ||
    (peerWrites a && !s.accessOk 19 pa len true) || !s.exists_ pa len || (peerReads a && s.marked pa len)

/-- The state after what the access reads, and the bytes read. -/
def State.peerFinds (s : State) (pa len : Nat) (a : PeerAccess) : State × List Byte :=
  if peerReads a then ((s.readPoint pa len).1.rangeRead pa len, (s.readPoint pa len).2) else (s, [])

/-- Bytes are stored where there are any to store. -/
def State.storeSome (s : State) (pa : Nat) : Option (List Byte) → State
  | some bs => s.storeAt pa bs
  | none => s

/-- A peer is answered. -/
def State.replyPeer (s : State) (r : PeerReply) : State := { s with peerReplies := s.peerReplies ++ [r] }

/-- An inbound access is none, is refused, or is performed and answered. -/
theorem execInboundAccess_eq (pkg off len : Nat) (a : PeerAccess) (s : State) :
    let pa := s.regs.expbase + off
    let found := s.peerFinds pa len a
    execInboundAccess pkg off len a s = .next (
      if !peerHolds len a then s
      else if s.refusesPeer pkg off len a then s.replyPeer (.refused pkg)
      else settleEvent (inboundAgent pkg off len) s ((found.1.storeSome pa (peerWrite a found.2)).replyPeer (.data pkg found.2))) := by
  cases a <;> rfl

section
variable {s : State} {pkg off len : Nat} {a : PeerAccess}

/-- An access whose operands have another length is none. -/
theorem execInboundAccess_unfit (hh : peerHolds len a = false) : execInboundAccess pkg off len a s = .next s := by
  rw [execInboundAccess_eq, hh, Bool.not_false, if_pos rfl]

/-- An access of a package that no entry admits, or beyond the window, is refused. -/
theorem execInboundAccess_refuses (hh : peerHolds len a = true) (hr : s.admits pkg = false ∨ s.regs.expsize < off + len) :
    execInboundAccess pkg off len a s = .next (s.replyPeer (.refused pkg)) := by
  have hrefused : s.refusesPeer pkg off len a = true := by
    rcases hr with hr | hr <;> simp [State.refusesPeer, hr]
  rw [execInboundAccess_eq, hh, Bool.not_true, if_neg Bool.false_ne_true, if_pos hrefused]

/-- An access that is granted for what it reads and for what it writes is not turned away. -/
theorem refusesPeer_granted (ha : s.admits pkg = true) (hw : off + len ≤ s.regs.expsize) (he : s.exists_ (s.regs.expbase + off) len = true)
    (hrd : peerReads a = true → s.accessOk 19 (s.regs.expbase + off) len false = true ∧ s.marked (s.regs.expbase + off) len = false)
    (hwr : peerWrites a = true → s.accessOk 19 (s.regs.expbase + off) len true = true) : s.refusesPeer pkg off len a = false := by
  have hread : (peerReads a && !s.accessOk 19 (s.regs.expbase + off) len false) = false := by
    simpa using fun h => (hrd h).1
  have hmark : (peerReads a && s.marked (s.regs.expbase + off) len) = false := by
    simpa using fun h => (hrd h).2
  have hwrite : (peerWrites a && !s.accessOk 19 (s.regs.expbase + off) len true) = false := by
    simpa using hwr
  simp only [State.refusesPeer, ha, decide_eq_false (Nat.not_lt.2 hw), hread, hwrite, he, hmark, Bool.not_true, Bool.or_self]

/-- An access that is not turned away is performed at its place and answered with what it found. -/
theorem execInboundAccess_answers {t u : State} {old : List Byte} (hh : peerHolds len a = true) (hr : s.refusesPeer pkg off len a = false)
    (hf : s.peerFinds (s.regs.expbase + off) len a = (t, old)) (hu : t.storeSome (s.regs.expbase + off) (peerWrite a old) = u)
    (hs : (u.replyPeer (.data pkg old)).stall = []) :
    execInboundAccess pkg off len a s = .next (u.replyPeer (.data pkg old)) := by
  simp only [execInboundAccess_eq, hh, hr, hf, hu, Bool.not_true, Bool.false_eq_true, if_false, settleEvent_done hs]

end

/-! ### Ports and the peer table -/

/-- A port that is up counts a replay. -/
theorem execFlitReplay_counts {s : State} {port : Nat} (hp : port < 24) (hu : (s.port port).up = true) :
    execFlitReplay port s = .next { s with ports := s.ports.put port { s.port port with replays := (s.port port).replays + 1 } } := by
  have hlive : ¬(24 ≤ port ∨ (s.port port).up = false) := by simp [hu, Nat.not_le.2 hp]
  rw [execFlitReplay, if_neg hlive]

/-- A port goes down. -/
theorem execPortDown_falls {s : State} {port : Nat} (hp : port < 24) :
    execPortDown port s = .next ({ s with ports := s.ports.put port { s.port port with up := false } } : State).reroute.checkStripe := by
  rw [execPortDown, if_neg (Nat.not_le.2 hp)]

/-- A whole entry of the peer table takes its write, but for the reserved bits. -/
theorem execPeerTableWrite_entry {s : State} {off : Nat} (value : BitVec 64) (ha : off % 8 = 0) (hlo : 16 ≤ off) (hhi : off < 32768) :
    execPeerTableWrite off 8 value s = .next (s.setPeer (off / 8) (value &&& 0xFFFF0000003FFFFF)).checkStripe := by
  have htaken : ¬(((8 : Nat) ≠ 4 ∧ (8 : Nat) ≠ 8) ∨ off % 8 ≠ 0 ∨ 32768 ≤ off ∨ off < 16) := by omega
  simp only [execPeerTableWrite, if_neg htaken, if_true]

/-! ### Mailboxes -/

section
variable {s : State} {port off : Nat} {data : List Byte}

/-- A write that the port may not make is dropped and counted. -/
theorem execMailboxWrite_drops (hok : s.mailboxOk port off data.length true = false) : execMailboxWrite port off data s = .next s.dropHost := by
  simp only [execMailboxWrite, hok, Bool.not_false, if_true]

/-- A write waits for the one before it. -/
theorem execMailboxWrite_waits (hok : s.mailboxOk port off data.length true = true) (hb : s.mailboxBusy port = true) :
    execMailboxWrite port off data s = .next s := by
  simp only [execMailboxWrite, hok, hb, Bool.not_true, Bool.false_eq_true, if_false, if_true]

/-- A write to memory is performed at its place. -/
theorem execMailboxWrite_stores (hok : s.mailboxOk port off data.length true = true) (hb : s.mailboxBusy port = false)
    (hr : inRemote (s.regs.mbwin + off) = false) (hc : inOnchip (s.regs.mbwin + off) = false)
    (hs : (s.storeAt (s.regs.mbwin + off) data).stall = []) :
    execMailboxWrite port off data s = .next (s.storeAt (s.regs.mbwin + off) data) := by
  simp only [execMailboxWrite, hok, hb, hr, hc, Bool.not_true, Bool.false_eq_true, if_false, settleEvent_done hs]

end

section
variable {s : State} {port off len : Nat}

/-- A read that the port may not make is aborted. -/
theorem execMailboxRead_aborts (hok : s.mailboxOk port off len false = false) :
    execMailboxRead port off len s = .next { s with hostReplies := s.hostReplies ++ [.completerAbort port] } := by
  simp only [execMailboxRead, hok, Bool.not_false, if_true]

/-- Memory is not held by the fabric. -/
theorem remoteHeld_near {pa : Nat} (hr : inRemote pa = false) : s.remoteHeld pa = false := by
  simp only [State.remoteHeld, hr, Bool.false_and]

/-- A read of memory is answered with its bytes and with their mark. -/
theorem execMailboxRead_answers (hok : s.mailboxOk port off len false = true) (hb : s.mailboxBusy port = false)
    (hr : inRemote (s.regs.mbwin + off) = false) (hc : inOnchip (s.regs.mbwin + off) = false)
    (hs : ((s.readPoint (s.regs.mbwin + off) len).1.rangeRead (s.regs.mbwin + off) len).stall = []) :
    let pa := s.regs.mbwin + off
    let t := (s.readPoint pa len).1.rangeRead pa len
    execMailboxRead port off len s = .next { t with hostReplies := t.hostReplies ++ [.data port (s.readPoint pa len).2 (s.marked pa len)] } := by
  simp only [execMailboxRead, hok, hb, remoteHeld_near hr, hr, hc, Bool.not_true, Bool.false_eq_true, if_false]
  exact congrArg _ (settleEvent_done hs)

end

/-! ### The statement -/

/-- Settles O49: each event by its own lemma; a peer's access, where nothing refuses it, by its kind. -/
theorem fabricEvents : Obligations.FabricEvents := by
  intro s n port off len pkg data r happens
  refine ⟨execRemoteStorePerform_performs, ?ack, execRemoteFailure_loses, fun a n => ?inbound, execFlitReplay_counts, execPortDown_falls,
    ⟨execMailboxWrite_drops, execMailboxWrite_stores, execMailboxWrite_waits, execMailboxRead_aborts, execMailboxRead_answers⟩,
    execPeerTableWrite_entry⟩
  case ack =>
    rintro x hx rfl hp
    exact execRemoteAck_drops hx hp
  case inbound =>
    intro pa e old read replies
    refine ⟨execInboundAccess_unfit, execInboundAccess_refuses, fun hh ha hw he => ⟨fun bs hwrites hwr => ?write, fun hrd hm => ?reads⟩⟩
    case write =>
      subst hwrites
      have hgranted := refusesPeer_granted ha hw he (a := .write bs) (fun h => absurd h Bool.false_ne_true) fun _ => hwr
      exact execInboundAccess_answers hh hgranted (if_neg Bool.false_ne_true) rfl
    case reads =>
      have reads (hreads : peerReads a = true) (hwr : peerWrites a = true → s.accessOk 19 pa n true = true) {u : State}
          (hu : read.storeSome pa (peerWrite a old) = u) : replies u old :=
        execInboundAccess_answers hh (refusesPeer_granted ha hw he (fun _ => ⟨hrd, hm⟩) hwr) (if_pos hreads) hu
      refine ⟨fun hk => ?read, fun op v hk hwr => ?atomic, fun v new hk hwr => ?cas⟩ <;> subst hk
      case read => exact reads rfl (fun h => absurd h Bool.false_ne_true) rfl
      case atomic =>
        obtain rfl : v.length = n := of_decide_eq_true hh
        exact reads rfl (fun _ => hwr) rfl
      case cas =>
        have stores {b : Option (List Byte)} (hb : peerWrite (.cas v new) old = b) : replies (read.storeSome pa b) old :=
          reads rfl (fun _ => hwr) (congrArg _ hb)
        exact ⟨fun h => stores (if_pos h), fun h => stores (if_neg h)⟩

end Sys2Proof.Machine
end

section
/-! PROOF. The scheduler's events: launches that are accepted, distributed, placed and completed, and teams that are saved, discarded and
restored (spec/11 R280 to R286, spec/12 R295 to R306, R314). -/

namespace Sys2Proof.Machine

/-! ### Launches (spec/12 R295, R314) -/

/-- The scheduler hears a queue: its doorbell has rung, and neither its context nor the device keeps it from being served. -/
def State.Hears (s : State) (ctx queue : Nat) : Prop :=
  (s.queue ctx queue).rung = true ∧ 1 ≤ (s.context ctx).state ∧ (s.context ctx).state ≤ 3 ∧ queue < 64 ∧
    (s.context ctx).qenable.getLsbD queue = true ∧ s.regs.featAccept ≠ 0

/-- A queue whose doorbell has not rung is left alone. -/
theorem execLaunchAccept_silent {s : State} {ctx queue : Nat} (hr : (s.queue ctx queue).rung = false) :
    execLaunchAccept ctx queue s = .next s := by
  simp only [execLaunchAccept, hr, Bool.not_false, Bool.true_or, if_true]

section
variable {s t : State} {ctx queue : Nat} {d : QueueDesc} (hears : s.Hears ctx queue) (hd : s.queueDesc ctx queue = (t, some d))
include hears

/-- Nothing turns away a queue that the scheduler hears. -/
theorem State.Hears.served : (!(s.queue ctx queue).rung || decide ((s.context ctx).state = 0 ∨ (s.context ctx).state = 4 ∨ 64 ≤ queue) ||
    !(s.context ctx).qenable.getLsbD queue || decide (s.regs.featAccept = 0)) = false := by
  obtain ⟨hrung, hlo, hhi, hq, hen, hfeat⟩ := hears
  have hlive : ¬((s.context ctx).state = 0 ∨ (s.context ctx).state = 4 ∨ 64 ≤ queue) := by omega
  simp only [hrung, hen, hlive, hfeat, decide_false, Bool.not_true, Bool.or_self]

include hd

/-- The doorbell of an empty queue is forgotten. -/
theorem execLaunchAccept_empties (he : d.head = d.tail) (hs : (t.setQueue ctx queue { s.queue ctx queue with rung := false }).stall = []) :
    execLaunchAccept ctx queue s = .next (t.setQueue ctx queue { s.queue ctx queue with rung := false }) := by
  simp only [execLaunchAccept, hears.served, hd, he, Bool.false_eq_true, if_false, if_true, settleEvent_done hs]

/-- The entry at HEAD is accepted where the completion array has room for its record. -/
theorem execLaunchAccept_accepts {u : State} {b : List Byte} (he : d.head ≠ d.tail)
    (hroom : (d.head + 2 ^ 32 - d.retired) % 2 ^ 32 < d.subCount)
    (hb : t.physRead ctx (d.subBase + 8 * (d.head % d.subCount)) 8 = (u, some b))
    (hs : ((u.acceptEntry ctx queue d (leNat b)).settleScan.reschedule).stall = []) :
    execLaunchAccept ctx queue s = .next ((u.acceptEntry ctx queue d (leNat b)).settleScan.reschedule) := by
  simp only [execLaunchAccept, hears.served, hd, he, Nat.not_le.2 hroom, hb, Bool.false_eq_true, if_false, settleEvent_done hs]

end

/-- A draining launch of which nothing is left completes. -/
theorem execLaunchComplete_ends {s : State} {ctx launch k : Nat} {l m : Launch} (hn : s.launchNamed ctx launch = some (k, l))
    (hm : (s.settleLaunch k).launches.get? k = some m) (hp : m.phase = .draining) (hc : s.counting k = false) (hb : s.launchBusy k = false)
    (hs : ((s.endLaunch k m m.code).settleScan.reschedule).stall = []) :
    execLaunchComplete ctx launch s = .next ((s.endLaunch k m m.code).settleScan.reschedule) := by
  simp only [execLaunchComplete, hn, hm, hp, hc, hb, and_self, if_true, settleEvent_done hs]

/-! ### Distribution and placement (spec/12 R304 to R306) -/

/-- Where a candidate would stand in a cluster once its local queue is placed. -/
def State.plannedPlace (s : State) (clus : Nat) (c : Cand) : Option (Nat × Nat) := findPlace c.hdr (s.mayUse c) (s.plannedRooms clus)

/-- Key 4 of R305 for a cluster: the affinity of a candidate to the core where it would stand. -/
def State.plannedAffinity (s : State) (affinity : List Nat) (clus : Nat) (c : Cand) : Nat :=
  match s.plannedPlace clus c with
  | some x => s.affinity affinity x.1 c
  | none => 0

/-- A candidate may go to a cluster: a saved team with its part, and any other within its budget, where it fits and its group stands. -/
def State.mayDistribute (s : State) (clus : Nat) (c : Cand) : Bool :=
  if (s.savedOf? c.key).isSome then s.savedFits clus c
  else withinBudget (s.undistributed ++ s.localCands) c && (s.plannedPlace clus c).isSome && s.together clus c

/-- A cluster with room in its local queue takes the first candidate that may go to it. -/
theorem execDistribute_eq (clus : Nat) (affinity : List Nat) (s : State) :
    execDistribute clus affinity s = .next (
      if 192 ≤ clus ∨ 8 ≤ (s.localQueue clus).length then s
      else match firstCand (s.plannedAffinity affinity clus) (s.undistributed.filter (s.mayDistribute clus)) with
        | none => s
        | some c => if (s.savedOf? c.key).isSome then s else s.sendTo clus c) := rfl

/-- The first candidate is sent to the cluster; a saved team is left to the restore of its part. -/
theorem execDistribute_first {s : State} {clus : Nat} {affinity : List Nat} {c : Cand} (hclus : clus < 192)
    (hroom : (s.localQueue clus).length < 8)
    (hc : firstCand (s.plannedAffinity affinity clus) (s.undistributed.filter (s.mayDistribute clus)) = some c) :
    execDistribute clus affinity s = .next (if (s.savedOf? c.key).isSome then s else s.sendTo clus c) := by
  have hopen : ¬(192 ≤ clus ∨ 8 ≤ (s.localQueue clus).length) := by omega
  rw [execDistribute_eq, if_neg hopen, hc]

/-- The first item of a local queue that fits on a core starts at the place found for it. -/
theorem execPlace_first {s : State} {core : Nat} {affinity : List Nat} {c : Cand} {it : Item} {p : Nat × Nat}
    (hc : firstCand (s.affinity affinity core)
      ((s.startable (clusOf core)).filter fun c => (findPlace c.hdr (s.mayPlace c core) (s.rooms (clusOf core))).isSome) = some c)
    (hi : s.items.get? c.key = some it) (hp : findPlace c.hdr (s.mayPlace c core) (s.rooms (clusOf core)) = some p) :
    let t := s.placeItem c.key it p.1 p.2
    execPlace core affinity s = .next (t.retryOwned (t.arrived s)).reschedule := by
  simp only [execPlace, hc, hi, hp]

/-! ### Saving and discarding (spec/11 R280 to R282) -/

/-- A team of a pre-empted context whose save has begun, or may begin, commits once it is quiet, and is saved. -/
theorem execTeamSave_saves {s s1 : State} {team : Nat} {t u : Team} {v : State} (h1 : s.setTeam team { t with saving := true } = s1)
    (ht : s.teams.get? team = some t) (hstate : (s.context t.ctx).state = 2) (hd : t.discarding = false) (ho : s.isOwnerTeam team = false)
    (hmay : t.saving = true ∨ (s.allParked t = true ∧ s.discards team t = false)) (hquiet : s1.quiet team t = true)
    (hstall : (s1.commitTeam t).stall = []) (hu : (s1.commitTeam t).teams.get? team = some u)
    (hv : (s1.commitTeam t).saveTeam team 0 u = some v) (hs : v.stall = []) : execTeamSave team s = .next v := by
  have hbegins : ¬((s.context t.ctx).state ≠ 2 ∨ t.discarding = true ∨ s.isOwnerTeam team = true ∨
      (!t.saving && (!s.allParked t || s.discards team t)) = true) := by
    rcases hmay with hsaving | ⟨hparked, hkept⟩
    · simp [hstate, hd, ho, hsaving]
    · simp [hstate, hd, ho, hparked, hkept]
  simp only [execTeamSave, ht, if_neg hbegins, h1, hquiet, Bool.not_true, Bool.false_eq_true, hstall, ne_eq, not_true, if_false, hu, hv,
    settleEvent_done hs]

/-- A team of a pre-empted context that may be discarded leaves its versions once it is quiet, and is saved as an image of KIND 1. -/
theorem execTeamDiscard_discards {s s1 : State} {team : Nat} {t : Team} {v : State} (h1 : s.setTeam team { t with discarding := true } = s1)
    (ht : s.teams.get? team = some t) (hstate : (s.context t.ctx).state = 2) (hsaving : t.saving = false)
    (hchains : s.chainTeams team t = []) (hd : s.discardable t = true) (hquiet : s1.quiet team t = true)
    (hv : ({ s1 with versions := (s1.teamWaves t).foldl (fun v e => v.del e.2.task) s1.versions } : State).saveTeam team 1
      { t with discarding := false } = some v) (hs : v.stall = []) : execTeamDiscard team s = .next v := by
  have hbegins : ¬((s.context t.ctx).state ≠ 2 ∨ t.saving = true ∨ s.chainTeams team t ≠ []) := by simp [hstate, hsaving, hchains]
  simp only [execTeamDiscard, ht, if_neg hbegins, hd, h1, hquiet, Bool.not_true, Bool.false_eq_true, if_false, hv, settleEvent_done hs]

/-- A context slot that could not be restored resets its context. -/
theorem execPreemptDeadlineExpiry_bad {s : State} {ctx : Nat} (hb : (s.context ctx).slotBad = true)
    (hs : ((s.setContext ctx { s.context ctx with slotBad := false }).resetContext ctx).stall = []) :
    execPreemptDeadlineExpiry ctx s = .next ((s.setContext ctx { s.context ctx with slotBad := false }).resetContext ctx) := by
  simp only [execPreemptDeadlineExpiry, hb, if_true, settleEvent_done hs]

/-- A deadline that passes while a team of the context is resident resets the context. -/
theorem execPreemptDeadlineExpiry_late {s : State} {ctx : Nat} (hb : (s.context ctx).slotBad = false) (hstate : (s.context ctx).state = 2)
    (hdue : (s.context ctx).preemptAt + clocksOf (s.context ctx).deadline ≤ s.clock.toNat)
    (hteam : s.teams.any (fun e => decide (e.2.ctx = ctx)) = true) (hs : (s.resetContext ctx).stall = []) :
    execPreemptDeadlineExpiry ctx s = .next (s.resetContext ctx) := by
  simp only [execPreemptDeadlineExpiry, hb, hstate, hdue, hteam, and_self, Bool.false_eq_true, if_false, if_true, settleEvent_done hs]

/-! ### Restoring a part (spec/11 R285, R286) -/

/-- A part that may not be restored yet, or behind which another candidate would wait, stays in the save area. -/
theorem execPartRestore_waits {s : State} {ctx part die x y : Nat} (h : s.partMay ctx part = false ∨ s.partBehind ctx part die x y = true) :
    execPartRestore ctx part die x y s = .next s :=
  congrArg _ (if_pos (Or.inr (Or.inr h)))

/-- The part's turn has come: its context is enabled, and nothing keeps its images waiting. -/
def State.PartDue (s : State) (ctx part die x y : Nat) : Prop :=
  (s.context ctx).state = 1 ∧ s.partOf ctx part ≠ [] ∧ s.partMay ctx part = true ∧ s.partBehind ctx part die x y = false

section
variable {s : State} {ctx part die x y : Nat} (due : s.PartDue ctx part die x y)
include due

/-- Nothing holds back a part that is due. -/
theorem State.PartDue.free : ¬((s.context ctx).state ≠ 1 ∨ s.partOf ctx part = [] ∨ s.partMay ctx part = false ∨
    s.partBehind ctx part die x y = true) := by
  obtain ⟨hstate, hpart, hmay, hfirst⟩ := due
  simp [hstate, hpart, hmay, hfirst]

/-- An image that fails its check resets the context. -/
theorem execPartRestore_fails (hbad : (s.partOf ctx part).any (fun e => !s.imageOk e.2) = true)
    (hs : ((s.setError errImage ctx).resetContext ctx).stall = []) :
    execPartRestore ctx part die x y s = .next ((s.setError errImage ctx).resetContext ctx) := by
  simp only [execPartRestore, if_neg due.free, hbad, if_true, settleEvent_done hs]

/-- A part that does not fit at its origin stays in the save area. -/
theorem execPartRestore_unfit (hok : (s.partOf ctx part).any (fun e => !s.imageOk e.2) = false)
    (hn : s.restorePart ctx part die x y = none) : execPartRestore ctx part die x y s = .next s := by
  simp only [execPartRestore, if_neg due.free, hok, hn, Bool.false_eq_true, if_false]

/-- A part that fits at its origin is restored there. -/
theorem execPartRestore_restores {t : State} (hok : (s.partOf ctx part).any (fun e => !s.imageOk e.2) = false)
    (ht : s.restorePart ctx part die x y = some t) (hs : t.stall = []) : execPartRestore ctx part die x y s = .next t := by
  simp only [execPartRestore, if_neg due.free, hok, ht, Bool.false_eq_true, if_false, settleEvent_done hs]

end

/-! ### The statement -/

/-- Settles O51: each event by its own lemma; a queue is read because the scheduler hears it, and a part is restored because it is due. -/
theorem schedulerEvents : Obligations.SchedulerEvents := by
  intro s ctx queue clus core team launch part die x y affinity happens waiting at_ saved q
  refine ⟨execLaunchAccept_silent, fun t d u b hrung hlo hhi hq hen hfeat hd => ?heard, fun c => execDistribute_first,
    fun c it p => execPlace_first, fun k l m => execLaunchComplete_ends, fun t u v => execTeamSave_saves rfl,
    fun t v => execTeamDiscard_discards rfl, execPreemptDeadlineExpiry_bad, execPreemptDeadlineExpiry_late,
    fun _ _ => execPartRestore_waits, fun hstate hpart hmay hfirst => execPartRestore_fails ⟨hstate, hpart, hmay, hfirst⟩,
    fun hstate hpart hmay hfirst hok => ?due⟩
  case heard =>
    have hears : s.Hears ctx queue := ⟨hrung, hlo, hhi, hq, hen, hfeat⟩
    exact ⟨execLaunchAccept_empties hears hd, execLaunchAccept_accepts hears hd⟩
  case due =>
    have due : s.PartDue ctx part die x y := ⟨hstate, hpart, hmay, hfirst⟩
    exact ⟨execPartRestore_unfit due hok, fun t => execPartRestore_restores due hok⟩

end Sys2Proof.Machine
end

section
/-! PROOF. The context controls, doorbells, priority commands and invalidations (spec/11 R279, R286, R292, R293, spec/12 R294, R302, spec/15
R371, R372). -/

namespace Sys2Proof.Machine

/-! ### The context controls (spec/15 R371, R372) -/

section
variable {s t : State} {ctx : Nat} (hctx : ctx < 16) (hoff : (s.context ctx).state = 0 ∨ (s.context ctx).state = 4)
include hctx hoff

/-- ENABLE takes a context that is disabled or killed. -/
theorem enable_takes : ¬(16 ≤ ctx ∨ ((s.context ctx).state ≠ 0 ∧ (s.context ctx).state ≠ 4)) := by omega

/-- A context whose descriptor is valid is enabled, and its old doorbells are forgotten. -/
theorem execCtxEnable_enables {b : List Byte} {x : Context}
    (hb : s.physRead ctx (s.regs.ctxbase + 128 * ctx) 128 = (t, some b)) (ha : (s.regs.ctxbase + 128 * ctx) % 128 = 0)
    (hm : inHbm (s.regs.ctxbase + 128 * ctx) = true) (hx : s.parseContext (s.context ctx) (s.regs.ctxbase + 128 * ctx) b = some x)
    (hs : ((t.setContext ctx x).unring ctx).stall = []) : execCtxEnable ctx s = .next ((t.setContext ctx x).unring ctx) := by
  simp only [execCtxEnable, if_neg (enable_takes hctx hoff), hb, ha, hm, and_self, if_true, hx, settleEvent_done hs]

/-- A descriptor that cannot be read sets CTXDESC. -/
theorem execCtxEnable_unread (hb : s.physRead ctx (s.regs.ctxbase + 128 * ctx) 128 = (t, none)) :
    execCtxEnable ctx s = .next (s.setError errCtxdesc ctx) := by
  simp only [execCtxEnable, if_neg (enable_takes hctx hoff), hb]

end

section
variable {s : State} {ctx : Nat}

/-- A context with no live launch and no saved team is disabled. -/
theorem execCtxDisable_disables (hstate : (s.context ctx).state = 1 ∨ (s.context ctx).state = 3)
    (hl : s.launches.any (fun e => decide (e.2.ctx = ctx)) = false) (hi : s.images.any (fun e => decide (e.2.ctx = ctx)) = false) :
    execCtxDisable ctx s = .next (s.setContext ctx { s.context ctx with state := 0 }) := by
  have hidle : ¬(((s.context ctx).state ≠ 1 ∧ (s.context ctx).state ≠ 3) ∨ s.launches.any (fun e => decide (e.2.ctx = ctx)) = true ∨
      s.images.any (fun e => decide (e.2.ctx = ctx)) = true) := by
    rw [hl, hi]
    rintro (⟨h1, h3⟩ | h | h)
    · exact hstate.elim h1 h3
    · exact Bool.false_ne_true h
    · exact Bool.false_ne_true h
  exact congrArg _ (if_neg hidle)

/-- A saved team waits again, as an item that only its part's restore starts. -/
def State.awaitRestore (s : State) (ctx : Nat) (e : Nat × Image) : State :=
  { s.distributable e.2.team.prio with
    items := s.items.put s.nextNum
      { ctx := ctx, kind := .saved e.1, prio := e.2.team.prio, since := s.clock.toNat, aged := false, clus := none, hdr := e.2.team.hdr }
    nextNum := s.nextNum + 1 }

/-- A resumed context is enabled, and those of its saved teams that do not wait yet wait again. -/
theorem execCtxResume_resumes (hstate : (s.context ctx).state = 3) :
    let saved := s.images.filter fun e => decide (e.2.ctx = ctx ∧ e.2.kind ≠ 2) && (s.savedItem e.1).isNone
    let t := (foldState (fun s e => s.awaitRestore ctx e) (s.setContext ctx { s.context ctx with state := 1 }) saved).settleScan.reschedule
    t.stall = [] → execCtxResume ctx s = .next t :=
  fun hs => congrArg _ ((if_neg (not_not_intro hstate)).trans (settleEvent_done hs))

/-- A context that is enabled, pre-empting or pre-empted is reset. -/
theorem execCtxReset_resets (hlo : 1 ≤ (s.context ctx).state) (hhi : (s.context ctx).state ≤ 3) (hs : (s.resetContext ctx).stall = []) :
    execCtxReset ctx s = .next (s.resetContext ctx) :=
  congrArg _ ((if_pos ⟨hlo, hhi⟩).trans (settleEvent_done hs))

end

/-! ### Doorbells and priority commands (spec/12 R294, R302) -/

section
variable {s : State} {value : BitVec 32}

/-- A doorbell rings the queue that it names. -/
theorem execDoorbell_rings (hv : value.toNat < 1024) (hf : s.regs.featAccept ≠ 0) :
    execDoorbell value s = .next (s.setQueue (value.toNat / 64) (value.toNat % 64)
      { s.queue (value.toNat / 64) (value.toNat % 64) with rung := true }) := by
  have hheard : ¬(value.toNat / 1024 ≠ 0 ∨ s.regs.featAccept = 0) := by
    rw [Nat.div_eq_of_lt hv]
    exact fun h => h.elim (absurd rfl) hf
  exact congrArg _ (if_neg hheard)

/-- A doorbell with a reserved bit set, or before a feature is accepted, is dropped. -/
theorem execDoorbell_drops (h : 1024 ≤ value.toNat ∨ s.regs.featAccept = 0) : execDoorbell value s = .next s :=
  congrArg _ (if_pos (h.imp_left fun hv => (Nat.div_pos hv (by decide)).ne'))

/-- A priority command with a reserved bit set, or without a priority, does nothing. -/
theorem execPriocmd_invalid (h : value.toNat / 2 ^ 24 ≠ 0 ∨ value.toNat / 2 ^ 14 % 4 ≠ 0 ∨ value.toNat % 16 ≠ 0 ∨
    8 ≤ value.toNat / 2 ^ 16 % 256 ∧ value.toNat / 2 ^ 16 % 256 ≠ 255) : execPriocmd value s = .next s :=
  if_pos h

end

/-- The launch whose queue's override an item takes, and the priority that it has without one: that of an undistributed team, and of a
continuation. -/
def State.overrideOf (s : State) (it : Item) : Option (Launch × Nat) :=
  match it.kind with
  | .team j _ => if it.clus.isNone then (s.launches.get? j).map fun l => (l, l.prio) else none
  | .continuation sp => (sp.team.launch.bind s.launches.get?).map fun l => (l, sp.team.prio)
  | _ => none

/-- An item under an override p of a queue, where 255 removes the override. -/
def State.overridden (s : State) (ctx queue p : Nat) (it : Item) : Item :=
  match s.overrideOf it with
  | some (l, own) => if l.ctx = ctx ∧ l.queue = queue then { it with prio := if p = 255 then own else p } else it
  | none => it

/-- What a priority command makes of an item, as its meaning looks for the launch among those of the queue. -/
theorem overridden_eq (s : State) (k n p : Nat) (it : Item) :
    s.overridden k n p it =
      let mine (j : Nat) : Option Launch := (s.launches.get? j).filter fun l => decide (l.ctx = k ∧ l.queue = n)
      match it.kind with
      | .team j _ => match mine j with
        | some l => if it.clus.isNone then { it with prio := if p = 255 then l.prio else p } else it
        | none => it
      | .continuation sp => if (sp.team.launch.bind mine).isSome then { it with prio := if p = 255 then sp.team.prio else p } else it
      | _ => it := by
  rcases it with ⟨ctx, kind, prio, since, aged, clus, hdr⟩
  cases kind with
  | team j m =>
    cases hl : s.launches.get? j with
    | none => cases clus <;> simp [State.overridden, State.overrideOf, hl]
    | some l =>
      simp only [State.overridden, State.overrideOf, hl, Option.filter_some, decide_eq_true_eq]
      by_cases hq : l.ctx = k ∧ l.queue = n <;> cases clus <;> simp [hq]
  | continuation sp =>
    cases hj : sp.team.launch with
    | none => simp [State.overridden, State.overrideOf, hj]
    | some j =>
      cases hl : s.launches.get? j with
      | none => simp [State.overridden, State.overrideOf, hj, hl]
      | some l =>
        simp only [State.overridden, State.overrideOf, hj, hl, Option.bind_some, Option.filter_some, decide_eq_true_eq]
        by_cases hq : l.ctx = k ∧ l.queue = n <;> simp [hq]
  | brood b => rfl
  | saved image => rfl
  | owner slot => rfl

/-- A priority command sets the override of its queue, and the priority of the items that it reaches. -/
theorem execPriocmd_overrides {s : State} {value : BitVec 32} {k n p : Nat} (hk : k < 16) (hn : n < 64) (hp : p < 8 ∨ p = 255)
    (hv : value.toNat = p * 2 ^ 16 + k * 2 ^ 10 + n * 16) :
    let t := s.setQueue k n { s.queue k n with override := if p = 255 then none else some p }
    execPriocmd value s = .next ({ t with items := s.items.map fun e => (e.1, s.overridden k n p e.2) } : State).reschedule := by
  intro t
  have hprio : value.toNat / 2 ^ 16 % 256 = p := by omega
  have hctx : value.toNat / 2 ^ 10 % 16 = k := by omega
  have hqueue : value.toNat / 16 % 64 = n := by omega
  have hvalid : ¬(value.toNat / 2 ^ 24 ≠ 0 ∨ value.toNat / 2 ^ 14 % 4 ≠ 0 ∨ value.toNat % 16 ≠ 0 ∨ 8 ≤ p ∧ p ≠ 255) := by omega
  simp only [execPriocmd, hprio, hctx, hqueue, if_neg hvalid]
  rw [List.map_congr_left (g := fun e => (e.1, s.overridden k n p e.2))]
  · rfl
  exact fun e _ => congrArg (Prod.mk e.1) (overridden_eq s k n p e.2).symm

/-! ### Invalidations (spec/11 R292) -/

section
variable {s : State} {ctx va : Nat}

/-- An invalidation of a page is posted. -/
theorem execInvalPage_posts (hctx : ctx < 16) (hva : va < 2 ^ 64) :
    execInvalPage ctx va s = .next (s.postInval (.page ctx (va / 65536 * 65536))) :=
  congrArg _ (if_neg (by omega))

/-- An invalidation of a context is posted. -/
theorem execInvalContext_posts (hctx : ctx < 16) : execInvalContext ctx s = .next (s.postInval (.context ctx)) :=
  congrArg _ (if_neg (Nat.not_le.2 hctx))

end

section
variable {s : State} {n : Nat} {i : Inval} {rest : Assoc Inval} (hi : s.invals = (n, i) :: rest)
include hi

/-- The oldest invalidation first drops what it covers from every TLB and MMU. -/
theorem execInvalidationPerformed_drops (hb : i.before = none) :
    execInvalidationPerformed s = .next
      { s with
        invals := (n, { i with before := some (s.nextNum + 1) }) :: rest
        nextNum := s.nextNum + 1
        clusters := s.clusters.map fun e => (e.1, { e.2 with tlb := e.2.tlb.filter fun x => !i.kind.covers x })
        dies := s.dies.map fun e => (e.1, { e.2 with mmu := e.2.mmu.filter fun x => !i.kind.covers x }) } := by
  simp only [execInvalidationPerformed, hi, hb]

/-- An invalidation waits for the accesses begun before its caches were cleared. -/
theorem execInvalidationPerformed_waits {m : Nat} (hb : i.before = some m) (hw : s.begunBefore i.kind m = true) :
    execInvalidationPerformed s = .next s := by
  simp only [execInvalidationPerformed, hi, hb, hw, if_true]

/-- An invalidation that no access holds back is counted. -/
theorem execInvalidationPerformed_counts {m : Nat} (hb : i.before = some m) (hw : s.begunBefore i.kind m = false) :
    execInvalidationPerformed s = .next
      { s with invals := rest, regs := { s.regs with invalDone := (s.regs.invalDone + 1) % 2 ^ 32 } } := by
  simp only [execInvalidationPerformed, hi, hb, hw, Bool.false_eq_true, if_false]

end

/-! ### The statement -/

/-- Settles O52: each event by its own lemma; a pre-emption is decided by the context's state alone. -/
theorem contextEvents : Obligations.ContextEvents := by
  intro s ctx va value happens c v
  exact ⟨fun t b x hctx hoff => execCtxEnable_enables hctx hoff, fun t => execCtxEnable_unread, execCtxDisable_disables,
    fun hstate => congrArg _ (if_pos hstate), fun hstate => congrArg _ (if_neg hstate),
    execCtxResume_resumes, fun hstate => congrArg _ (if_pos hstate), execCtxReset_resets, execDoorbell_rings, execDoorbell_drops,
    fun k n p => execPriocmd_overrides, execPriocmd_invalid, execInvalPage_posts, execInvalContext_posts, rfl,
    fun n i rest hi => ⟨execInvalidationPerformed_drops hi, fun m hb =>
      ⟨execInvalidationPerformed_waits hi hb, execInvalidationPerformed_counts hi hb⟩⟩⟩

end Sys2Proof.Machine
end

section
/-! PROOF. The state after reset (spec/14 R360, spec/15 R361, R370, R374). -/

namespace Sys2Proof.Machine

/-! ### The access table at reset (spec/14 R360) -/

/-- An entry of the access table at reset: entries 144 and 160, the first of masters 18 and 20, are open, and every other is shut. -/
def AccWin.atReset (n : Nat) : AccWin :=
  if n = 144 ∨ n = 160 then { base := 0, limit := 2 ^ 50, rd := true, wr := true } else { base := 0, limit := 0, rd := false, wr := false }

theorem reset_access : State.reset.access = (List.range 512).map AccWin.atReset := by
  have hreset : State.reset.access = accessReset := by rw [State.reset]
  rw [hreset, accessReset]
  rfl

/-- The windows of a master are eight entries of the table, where the table has them. -/
theorem reset_windows (k : Nat) :
    (State.reset.access.drop (8 * k)).take 8 = (List.range (min 8 (512 - 8 * k))).map fun w => AccWin.atReset (8 * k + w) := by
  rw [reset_access]
  exact List.ext_getElem (by simp) (by simp)

/-- An open entry grants every access below 2 ^ 50, and a shut one none. -/
theorem atReset_grants {m pa n : Nat} (wr : Bool) (hn : pa + n ≤ 2 ^ 50) :
    let w := AccWin.atReset m
    ((if wr then w.wr else w.rd) && decide (w.base ≤ pa ∧ pa + n ≤ w.limit)) = decide (m = 144 ∨ m = 160) := by
  by_cases hm : m = 144 ∨ m = 160
  · simpa [AccWin.atReset, hm] using hn
  · simp [AccWin.atReset, hm]

/-- At reset masters 18 and 20 reach every range of addresses, and no other master reaches any. -/
theorem reset_accessOk {k pa n : Nat} (wr : Bool) (hn : pa + n ≤ 2 ^ 50) : State.reset.accessOk k pa n wr = decide (k = 18 ∨ k = 20) := by
  have hopen : State.reset.accessOk k pa n wr = true ↔ ∃ w < min 8 (512 - 8 * k), 8 * k + w = 144 ∨ 8 * k + w = 160 := by
    simp only [State.accessOk, reset_windows, List.any_map, Function.comp_def, atReset_grants wr hn, List.any_eq_true, List.mem_range,
      decide_eq_true_eq]
  rw [Bool.eq_iff_iff, hopen, decide_eq_true_eq]
  constructor
  · rintro ⟨w, hw, hfirst⟩
    omega
  · rintro (rfl | rfl)
    · exact ⟨0, by decide, .inl rfl⟩
    · exact ⟨0, by decide, .inr rfl⟩

/-! ### The statements -/

/-- Settles O6: the fields as they are written, and the access table by its windows. -/
theorem resetState : Obligations.ResetState :=
  ⟨rfl, rfl, rfl, rfl, fun _ => rfl, rfl, rfl, rfl, rfl, rfl, fun _ _ _ => reset_accessOk⟩

/-- Settles O7: `State.ok` is the invariant, and the state after reset has it. -/
theorem resetKeepsInv : Obligations.ResetKeepsInv := (State.ok_iff _).1 State.reset_ok

end Sys2Proof.Machine
end

section
/-! PROOF. Persistence, power loss and package reset (spec/13 R328, R335 to R338, spec/15 R370). -/

namespace Sys2Proof.Machine

/-! ### The write-back queues (spec/13 R335, R336) -/

/-- A group that nothing holds back enters its queue. -/
theorem execPersistGroupEnter_enters {s : State} {n : Nat} {g : WbqGroup} (hg : s.persists[n]? = some g) (hup : s.holdUp = false)
    (hfit : s.fits g = true) (hsig : s.signalBefore g = false) (hheld : ∀ h ∈ s.persists.take n, s.holdsBack h g = false)
    (hs : ({ s.enter g with persists := dropAt n s.persists } : State).stall = []) :
    execPersistGroupEnter n s = .next { s.enter g with persists := dropAt n s.persists } := by
  have hfree : (s.persists.take n).any (fun h => s.holdsBack h g) = false := List.any_eq_false.2 fun h hh => Bool.eq_false_iff.1 (hheld h hh)
  simp only [execPersistGroupEnter, hg, hup, hfit, hsig, hfree, Bool.not_true, Bool.or_self, Bool.false_eq_true, if_false, settleEvent_done hs]

section
variable {s : State} {die : Nat} {h : WbqGroup} {rest : List WbqGroup} (hq : (s.die die).wbq = h :: rest)
include hq

/-- A head that the access table keeps from the medium waits. -/
theorem execWbqDrainWrite_waits (hok : s.drainOk h = false) : execWbqDrainWrite die s = .next s := by
  simp only [execWbqDrainWrite, hq, hok, Bool.not_false, if_true]

/-- The head of a queue drains to the medium. -/
theorem execWbqDrainWrite_drains (hok : s.drainOk h = true) :
    execWbqDrainWrite die s = .next (((s.writeHome h).modDie die fun d => { d with wbq := rest }).redirty h.bytes) := by
  simp only [execWbqDrainWrite, hq, hok, Bool.not_true, Bool.false_eq_true, if_false]

end

/-- What each step keeps, all of them keep together. -/
theorem foldState_keeps {α β : Type} (p : State → β) {f : State → α → State} (hf : ∀ t a, p (f t a) = p t) :
    ∀ (l : List α) (s : State), p (foldState f s l) = p s
  | [], _ => rfl
  | a :: l, s => (foldState_keeps p hf l (f s a)).trans (hf s a)

/-- A mark is beside the medium's bytes. -/
theorem markBelow_scm (s : State) (on : Bool) (row : Nat) : (s.markBelow on row).scm = s.scm := by
  unfold State.markBelow
  extract_lets f
  split <;> rfl

/-- A mark of the medium is beside its bytes, wherever it stands. -/
theorem markScm_scm (s : State) (on : Bool) (row : Nat) : (s.markScm on row).scm = s.scm := by
  unfold State.markScm
  split
  · rfl
  · exact markBelow_scm s on row

/-- A group drained to the medium writes its bytes there, and nothing else: what it does beyond them is to mark. -/
theorem writeHome_scm (s : State) (g : WbqGroup) : (s.writeHome g).scm = g.bytes.foldl (fun m b => Sparse.set m b.1 b.2) s.scm := by
  unfold State.writeHome
  extract_lets granule
  refine foldState_keeps State.scm (fun t n => ?_) _ _
  unfold granule
  dsimp only
  split
  · exact foldState_keeps State.scm (fun u r => markScm_scm u true r) _ _
  · split
    · exact foldState_keeps State.scm (fun u r => markScm_scm u false r) _ _
    · rfl

/-! ### Scrub (spec/13 R328) -/

/-- A scrub of memory that the package controller may read does what its finding asks. -/
theorem execScrub_finds {s : State} {pa : Nat} (hm : inHbm pa = true ∨ inScm pa = true) (hok : s.accessOk 20 pa 1 false = true)
    (found : ScrubResult) : execScrub pa found s = .next (match found with
      | .clean => s
      | .corrected => s.modDie (homeDie pa) fun d => { d with ceCount := (d.ceCount + 1) % 2 ^ 64 }
      | .uncorrectable => s.markStored pa) := by
  have hread : ((!inHbm pa && !inScm pa) || !s.accessOk 20 pa 1 false) = false := by
    rcases hm with hm | hm <;> simp [hm, hok]
  cases found <;> exact congrArg _ (if_neg (Bool.eq_false_iff.1 hread))

/-! ### Power (spec/13 R337, R338) -/

/-- A loss of power starts the drain. -/
theorem execPowerLoss_drains {s : State} (hp : s.powered = true) (hup : s.holdUp = false) :
    execPowerLoss s = .next { s with holdUp := true, drainRecord := some ((s.dies.map fun e => e.2.wbq.length).sum, false) } := by
  simp only [execPowerLoss, hp, hup, Bool.true_eq_false, Bool.false_eq_true, or_self, if_false]

/-- The drain is complete once every queue is empty. -/
theorem execDrainComplete_ends {s : State} (hup : s.holdUp = true) (hq : ∀ e ∈ s.dies, e.2.wbq = []) :
    execDrainComplete s = .next { s with holdUp := false, powered := false, drainRecord := s.drainRecord.map fun r => (r.1, true) } := by
  have hempty : s.dies.any (fun e => decide (e.2.wbq ≠ [])) = false := by simpa using hq
  simp only [execDrainComplete, hup, hempty, Bool.true_eq_false, Bool.false_eq_true, or_self, if_false]

/-- The next power-on brings the package up, and reports how the last loss drained. -/
theorem execPowerOn_reports {s : State} (hp : s.powered = false) :
    execPowerOn s = .next (({ s with dies := s.dies.map fun e => (e.1, { e.2 with wbq := [] }) } : State).bringUp (match s.drainRecord with
      | some (_, true) => 1
      | some (_, false) => 2
      | none => 3)) :=
  congrArg _ (if_neg fun h => Bool.false_ne_true (hp.symm.trans h.1))

/-- Each die of a list takes the capacity. -/
theorem foldState_wbqCap (cap d : Nat) : ∀ (l : List Nat) (s : State),
    ((foldState (fun s d => s.modDie d fun x => { x with wbqCap := cap }) s l).die d).wbqCap = if d ∈ l then cap else (s.die d).wbqCap
  | [], _ => rfl
  | a :: l, s => by
    rw [foldState, foldState_wbqCap cap d l, State.die, State.modDie_dies, getD_put]
    by_cases ha : d = a <;> simp [ha, State.die]

/-- A measured capacity is that of every queue. -/
theorem setCapacity_wbqCap (s : State) (cap : Nat) {d : Nat} (hd : d < 4) : ((s.setCapacity cap).die d).wbqCap = cap :=
  (foldState_wbqCap cap d _ s).trans (if_pos (List.mem_range.2 hd))

/-- What the dies do not hold, a capacity leaves alone. -/
theorem setCapacity_keeps {β : Type} (p : State → β) (hp : ∀ t d f, p (t.modDie d f) = p t) (s : State) (cap : Nat) : p (s.setCapacity cap) = p s :=
  foldState_keeps p (fun t d => hp t d _) _ _

/-- A measure of the hold-up energy sets the capacity of every queue, and leaves memory, the medium and the waves alone. -/
theorem execHoldupMeasure_measures (s : State) (energy : Nat) : ∃ t, execHoldupMeasure energy s = .next t ∧ t.regs.holdup = energy ∧
    t.regs.holdlow = decide (queueCapacity energy < 2 ^ 20) ∧ t.mem = s.mem ∧ t.scm = s.scm ∧ t.waves = s.waves ∧
    ∀ d < 4, (t.die d).wbqCap = queueCapacity energy := by
  have hdie := fun d => setCapacity_wbqCap (d := d) s (queueCapacity energy)
  have hmem := setCapacity_keeps State.mem (fun _ _ _ => rfl) s (queueCapacity energy)
  have hscm := setCapacity_keeps State.scm (fun _ _ _ => rfl) s (queueCapacity energy)
  have hwaves := setCapacity_keeps State.waves (fun _ _ _ => rfl) s (queueCapacity energy)
  unfold execHoldupMeasure
  -- Both are named, so that no later check evaluates them.
  generalize queueCapacity energy = cap at *
  dsimp only
  generalize s.setCapacity cap = t at *
  exact ⟨_, rfl, rfl, rfl, hmem, hscm, hwaves, hdie⟩

/-! ### The statement -/

/-- Settles O50: each event by its own lemma; a scrub by its finding, and a measure by the capacity that it sets. -/
theorem persistenceEvents : Obligations.PersistenceEvents := by
  intro s n die pa energy g
  exact ⟨execPersistGroupEnter_enters, fun h rest => execWbqDrainWrite_waits,
    fun h rest hq hok => ⟨execWbqDrainWrite_drains hq hok, writeHome_scm s h, (writeHome_same s h).1.1⟩,
    fun hm hok => ⟨execScrub_finds hm hok .clean, execScrub_finds hm hok .corrected, execScrub_finds hm hok .uncorrectable⟩,
    execPowerLoss_drains, execDrainComplete_ends, execPowerOn_reports,
    execHoldupMeasure_measures s energy,
    rfl, fun v hv => congrArg _ (if_neg hv)⟩

end Sys2Proof.Machine
end

section
/-! PROOF. The collectives (spec/14 R339 to R345). -/

namespace Sys2Proof.Machine

/-! ### The operation of a round (spec/14 R341 to R345) -/

/-- The group as the waggle engine reads it is that of the table. -/
theorem readGroup_group (s : State) (collid : Nat) : (s.readGroup collid).2 = s.group? collid := by
  unfold State.readGroup
  split <;> simp [*]

/-- A round of a group by its numbers. -/
def State.roundOf (s : State) (collid round : Nat) : Option Round := s.rounds.find? fun r => decide (r.collid = collid ∧ r.round = round)

/-- The search of the rounds for one by its numbers. -/
theorem find_round (s : State) (collid round : Nat) :
    (s.rounds.find? fun r => decide (r.collid = collid ∧ r.round = round)) = s.roundOf collid round := rfl

/-- The seven operations of a round, each with its number. -/
def collOps (collid round : Nat) (remote : List (Nat × List Byte)) : List (Nat × Instr) :=
  [(1, .collSum collid round remote), (2, .collMax collid round remote), (3, .collMin collid round remote),
    (4, .collDraw collid round remote), (5, .collBarrier collid round remote), (6, .collBroadcast collid round remote),
    (7, .collAllgather collid round remote)]

/-- Each operation reduces the rounds of its number. -/
theorem exec_collOp {collid round : Nat} {remote : List (Nat × List Byte)} {e : Nat × Instr} (he : e ∈ collOps collid round remote) (s : State) :
    exec e.2 s = .next (s.reduce e.1 collid round remote) := by
  simp only [collOps, List.mem_cons, List.not_mem_nil, or_false] at he
  rcases he with rfl | rfl | rfl | rfl | rfl | rfl | rfl <;> rfl

/-- The bytes of a contribution. -/
def Contribution.data : Contribution → List Byte
  | .bytes b => b
  | _ => []

/-- A member with the cause of its own fault, where its read faulted. -/
def Member.withFault (faults : List (Nat × Nat)) (m : Member) : Member :=
  match faults.find? fun f => decide (f.1 = m.rank) with
  | some f => { m with cause := f.2 }
  | none => m

section
variable {s : State} {op collid round : Nat} {remote : List (Nat × List Byte)} {r : Round} {g : Group}
  (hr : s.joinAll.roundOf collid round = some r) (hg : s.joinAll.group? collid = some g)
include hr hg

/-- A round of another operation, or one that has ended, is left alone. -/
theorem reduce_other (h : r.spec.op ≠ op ∨ r.result.isSome = true ∨ r.cause ≠ 0) : s.reduce op collid round remote = s.joinAll := by
  simp only [State.reduce, find_round, hr, readGroup_group, hg, if_pos h]

variable {u : State} {cs : List Contribution} {faults : List (Nat × Nat)} (hop : r.spec.op = op) (hres : r.result = none) (hc : r.cause = 0)
  (hx : (s.joinAll.readGroup collid).1.gather r (g.root (isBound round)) remote (g.ranks (isBound round)) = (u, some (cs, faults)))
include hop hres hc hx

/-- An open round meets its contributions: it fails with the first that will never come, does not fit or faults, it waits for one that is not
here yet, and it is computed over them otherwise. -/
theorem reduce_gathered : s.reduce op collid round remote =
    if .lost ∈ cs then settleEvent r.agent s.joinAll ((u.setRound { r with cause := codePeerLost }).peerFailure r.homeDie)
    else if .mismatch ∈ cs then settleEvent r.agent s.joinAll (u.setRound { r with cause := codeMismatch })
    else if .faulted ∈ cs then settleEvent r.agent s.joinAll (u.setRound { r with
      cause := codeMemberFault
      members := r.members.map (·.withFault faults) })
    else if .missing ∈ cs then s.joinAll
    else
      let y := r.compute g (cs.map Contribution.data)
      settleEvent r.agent s.joinAll (u.setRound { r with result := some y.1, flags := y.2 }) := by
  have hopen : ¬(r.spec.op ≠ op ∨ r.result.isSome = true ∨ r.cause ≠ 0) := by simp [hop, hres, hc]
  simp only [State.reduce, find_round, hr, readGroup_group, hg, if_neg hopen, hx, List.contains_iff_mem]
  rfl

end

/-- A round with every contribution here is computed over them. -/
theorem reduce_computes {s u : State} {op collid round : Nat} {remote : List (Nat × List Byte)} {r : Round} {g : Group}
    (hr : s.joinAll.roundOf collid round = some r) (hg : s.joinAll.group? collid = some g) (hop : r.spec.op = op) (hres : r.result = none)
    (hc : r.cause = 0) {bs : List (List Byte)}
    (hx : (s.joinAll.readGroup collid).1.gather r (g.root (isBound round)) remote (g.ranks (isBound round)) = (u, some (bs.map .bytes, []))) :
    s.reduce op collid round remote =
      settleEvent r.agent s.joinAll (u.setRound { r with result := some (r.compute g bs).1, flags := (r.compute g bs).2 }) := by
  have hlost : Contribution.lost ∉ bs.map .bytes := by simp
  have hmismatch : Contribution.mismatch ∉ bs.map .bytes := by simp
  have hfaulted : Contribution.faulted ∉ bs.map .bytes := by simp
  have hmissing : Contribution.missing ∉ bs.map .bytes := by simp
  rw [reduce_gathered hr hg hop hres hc hx, if_neg hlost, if_neg hmismatch, if_neg hfaulted, if_neg hmissing, List.map_map]
  exact congrArg (fun y => settleEvent r.agent s.joinAll (u.setRound { r with result := some (r.compute g y).1, flags := (r.compute g y).2 }))
    (List.map_id bs)

/-! ### Completion (spec/14 R344, R345) -/

section
variable {s : State} {collid round : Nat} {r : Round}

/-- A round that has neither its result nor its code goes on. -/
theorem execCollRoundComplete_waits (hr : s.joinAll.roundOf collid round = some r) (hres : r.result = none) (hc : r.cause = 0) :
    execCollRoundComplete collid round s = .next s.joinAll := by
  have hopen : (r.result.isNone = true ∧ r.cause = 0) ∨ s.joinAll.barrierWaits r (s.joinAll.readGroup collid).2 = true := .inl (by simp [hres, hc])
  simp only [execCollRoundComplete, find_round, hr, if_pos hopen]

/-- A round with its result or its code is taken by the members that have joined it, and goes once every member of this package has taken it. -/
theorem execCollRoundComplete_taken {u : State} (hr : s.joinAll.roundOf collid round = some r) (hdone : r.result.isSome = true ∨ r.cause ≠ 0)
    (hb : s.joinAll.barrierWaits r (s.joinAll.group? collid) = false)
    (hu : (s.joinAll.readGroup collid).1.completeMembers r r.members = .ok u) :
    let gone := r.gone ++ r.members.map (·.rank)
    let all := (s.joinAll.group? collid).all fun g => (s.joinAll.localRanks g round).all gone.contains
    let z : State := if all then { u with rounds := u.rounds.filter fun x => !decide (x.collid = collid ∧ x.round = round) }
      else u.setRound { r with members := [], gone := gone }
    z.stall = [] → execCollRoundComplete collid round s = .next z := by
  intro gone all z hs
  have hends : ¬((r.result.isNone = true ∧ r.cause = 0) ∨ s.joinAll.barrierWaits r (s.joinAll.group? collid) = true) := by
    rintro (⟨hnone, hcause⟩ | hwaits)
    · rcases hdone with hres | hne
      · exact Option.not_isSome_iff_eq_none.2 (Option.isNone_iff_eq_none.1 hnone) hres
      · exact hne hcause
    · exact Bool.false_ne_true (hb.symm.trans hwaits)
  simp only [execCollRoundComplete, find_round, hr, readGroup_group, if_neg hends, hu]
  exact congrArg _ (settleEvent_done hs)

/-- An open round is late once its timeout has passed here, or may be at a member of another package. -/
theorem execCollTimeout_eq {g : Group} (hr : s.roundOf collid round = some r) (hg : s.group? collid = some g) (hres : r.result = none)
    (hc : r.cause = 0) : execCollTimeout collid round s = .next (
    if (g.timeout ≠ 0 ∧ r.openedAt + 850 * g.timeout ≤ s.clock.toNat) ∨ ∃ m ∈ g.ranks (isBound round), m.2.1 ≠ s.regs.pkgid then
      s.setRound { r with cause := codeTimeout }
    else s) := by
  simp only [execCollTimeout, find_round, hr, hg, hres, hc, Option.isNone_none, true_and, Bool.or_eq_true, List.any_eq_true, decide_eq_true_eq]

end

/-! ### The group table (spec/14 R339, R340) -/

section
variable {s : State} {off width : Nat} (value : BitVec 64)

/-- ROUND alone is read-only. -/
theorem execGroupTableWrite_round (h : off % 32 = 28) : execGroupTableWrite off 4 value s = .next s :=
  if_pos (.inr (.inr (.inr ⟨rfl, h⟩)))

/-- Another unit of the table resets its group and takes its bytes, but for those of ROUND. -/
theorem execGroupTableWrite_writes (hw : width = 4 ∨ width = 8) (ha : off % width = 0) (hlt : off < 32768) (hround : ¬(width = 4 ∧ off % 32 = 28)) :
    execGroupTableWrite off width value s = .next
      (let u := s.resetGroup (off / 32)
       let kept := (leBytes width value.toNat).take (if off % 32 + width = 32 then width - 4 else width)
       { u with groupTable := Sparse.setList u.groupTable off kept }) := by
  refine if_neg ?_
  rintro (⟨h4, h8⟩ | h | h | h)
  · exact hw.elim h4 h8
  · exact h ha
  · exact Nat.not_le.2 hlt h
  · exact hround h

end

/-! ### The statement -/

/-- Settles O48: an operation by what has come of its round's contributions, the other events by their own lemmas. -/
theorem collectiveEvents : Obligations.CollectiveEvents := by
  intro s collid round remote
  refine ⟨fun e he => ⟨fun r g hr hg h => ?other, fun r g u hr hg hop hres hc => ?gathers⟩,
    fun r => execCollRoundComplete_waits (s := s) (collid := collid) (round := round),
    fun r u hr hdone hb hu => execCollRoundComplete_taken hr hdone hb hu,
    fun r g hr hg hres hc => ?timeout, fun off => execGroupTableWrite_round, fun off width => execGroupTableWrite_writes⟩
  case other => rw [exec_collOp he, reduce_other hr hg h]
  case gathers =>
    intro settles ranks gathers
    have settled {z : State} (hz : s.reduce e.1 collid round remote = settleEvent r.agent s.joinAll z) : settles z := fun hs => by
      rw [exec_collOp he, hz, settleEvent_done hs]
    refine ⟨fun bs hx => settled (reduce_computes hr hg hop hres hc hx), fun cs faults hx => ?_⟩
    have hgot := reduce_gathered hr hg hop hres hc hx
    refine ⟨fun hl => settled (hgot.trans (if_pos hl)), fun hl hm => settled (hgot.trans ((if_neg hl).trans (if_pos hm))),
      fun hl hm hf => settled (hgot.trans ((if_neg hl).trans ((if_neg hm).trans (if_pos hf)))), fun hl hm hf hmiss => ?_⟩
    rw [exec_collOp he, hgot, if_neg hl, if_neg hm, if_neg hf, if_pos hmiss]
  case timeout =>
    intro here away
    have hlate := execCollTimeout_eq hr hg hres hc
    exact ⟨fun h => hlate.trans (congrArg _ (if_pos h)), fun hhere haway => hlate.trans (congrArg _ (if_neg fun h => h.elim hhere haway))⟩

end Sys2Proof.Machine
end

section
/-! PROOF. The platform's registers (spec/13 R329, R333, spec/14 R359, R360, spec/15 R361 to R366, R369, R373, R374). -/

namespace Sys2Proof.Machine

/-! ### Die parking (spec/15 R365, R366) -/

section
variable {s : State} {die : Nat}

/-- A running die parks where the feature is accepted, another die runs, and no scan is in hand. -/
theorem execParkRequest_parks (hd : die < 4) (hp : (s.die die).park = 0) (hf : s.regs.featAccept.getLsbD 6 = true)
    (hl : s.lastRunning die = false) (hs : s.scanning = none) :
    execParkRequest die s = .next
      (((s.modDie die fun x => { x with park := 1, parkReq := true, parkRefused := false, powerDown := false, unparkAfter := false }).withdraw
        fun c => decide (dieOf c = die)).reschedule) := by
  have hmay : (!s.regs.featAccept.getLsbD 6 || s.lastRunning die || s.scanning.any fun x => !x.abort && decide (x.die = die)) = false := by
    rw [hf, hl, hs]
    rfl
  simp only [execParkRequest, if_neg (Nat.not_le.2 hd), hp, hmay]
  rfl

/-- Without the feature a running die refuses to park. -/
theorem execParkRequest_refuses (hd : die < 4) (hp : (s.die die).park = 0) (hf : s.regs.featAccept.getLsbD 6 = false) :
    execParkRequest die s = .next (s.modDie die fun x => { x with parkRefused := true }) := by
  simp only [execParkRequest, if_neg (Nat.not_le.2 hd), hp, hf, Bool.not_false, Bool.true_or]
  rfl

/-- A die whose power-down has not begun keeps running; one whose power-down has begun unparks after it. -/
theorem execParkCancel_cancels (hd : die < 4) (hp : (s.die die).park = 1) :
    execParkCancel die s = .next (((s.modDie die fun x => { x with parkRefused := false }).modDie die fun x =>
      if x.powerDown then { x with parkReq := false, unparkAfter := true } else { x with park := 0, parkReq := false }).reschedule) := by
  simp [execParkCancel, State.unparkWrite, hd, hp]

/-- A parked die starts to unpark. -/
theorem execUnpark_starts (hd : die < 4) (hp : (s.die die).park = 2) : execUnpark die s = .next
    ((s.modDie die fun x => { x with parkRefused := false }).modDie die fun x => { x with park := 3, parkReq := false }) := by
  simp [execUnpark, State.unparkWrite, hd, hp]

/-- A die whose power-down has begun, and in which no work stands, has powered down. -/
theorem execDiePowerDown_ends (hp : (s.die die).park = 1) (hb : s.dieBusy die = false) (hdown : (s.die die).powerDown = true) :
    execDiePowerDown die s = .next
      ((s.clearDie die).modDie die fun x => { x with park := if x.unparkAfter then 3 else 2, powerDown := false, unparkAfter := false }) := by
  simp [execDiePowerDown, hp, hb, hdown]

end

/-! ### Performance states, features and attestation (spec/14 R359, spec/15 R361 to R363, R373) -/

section
variable {s : State}

/-- A ceiling from 500 to 2,200 W is taken. -/
theorem execPceilWrite_takes {value : BitVec 32} (hlo : 500 ≤ value.toNat % 4096) (hhi : value.toNat % 4096 ≤ 2200) :
    execPceilWrite value s = .next { s with regs := { s.regs with pceil := value.toNat % 4096 } } :=
  congrArg _ (if_neg fun h => h.elim (Nat.not_lt.2 hlo) (Nat.not_lt.2 hhi))

/-- Features are accepted once, an acceptance names one of the first three, and no reserved bit is set. -/
theorem execFeatacceptWrite_takes {value : BitVec 64} (hlt : value.toNat < 256) (hv : value.toNat % 8 ≠ 0) (h0 : s.regs.featAccept = 0) :
    execFeatacceptWrite value s = .next { s with regs := { s.regs with featAccept := value.setWidth 8 } } := by
  refine congrArg _ (if_neg ?_)
  rintro (h | h | h)
  · exact Nat.not_le.2 hlt h
  · exact hv h
  · exact h h0

/-- The signature is 512 bytes long. -/
theorem signature_length (body : List Byte) : (signature body).length = 512 := by
  rw [signature, bigBytes, List.length_map, List.length_range]

/-- A quote's parts of a fixed length come to 121 bytes. -/
theorem quoteBody_length (s : State) : s.quoteBody.length = s.regs.attnonce.length + s.regs.meas.flatten.length + 121 := by
  have hmap : s.cmapBytes.length = 96 := by rw [State.cmapBytes, List.length_map, List.length_range]
  simp only [State.quoteBody, List.length_append, leBytes_length, hmap, List.length_singleton]
  omega

end

/-! ### Tier registers and the error status (spec/13 R329, spec/15 R374) -/

section
variable {s : State} {die : Nat}

/-- A pool that is off, and that lies in the die's frames, is taken. -/
theorem execTierpoolWrite_takes {value : BitVec 64} (hd : die < 4) (hoff : (s.die die).polEnable = false)
    (hfit : value.toNat / 2 ^ 22 % 2 ^ 21 + value.toNat % 2 ^ 22 ≤ 2097152) :
    execTierpoolWrite die value s = .next
      ((s.exposeFrames die).modDie die fun x => { x with poolBase := value.toNat / 2 ^ 22 % 2 ^ 21, poolFrames := value.toNat % 2 ^ 22 }) := by
  refine congrArg _ (if_neg ?_)
  rintro (h | h | h)
  · exact Nat.not_le.2 hd h
  · exact Bool.false_ne_true (hoff.symm.trans h)
  · exact Nat.not_lt.2 hfit h

/-- A policy whose thresholds ascend is taken. -/
theorem execTierpolWrite_takes {value : BitVec 32} (hd : die < 4) (h12 : value.toNat % 256 < value.toNat / 2 ^ 8 % 256)
    (h23 : value.toNat / 2 ^ 8 % 256 < value.toNat / 2 ^ 16 % 256) :
    execTierpolWrite die value s = .next
      ((s.modDie die fun x =>
        { x with
          thresh1 := value.toNat % 256, thresh2 := value.toNat / 2 ^ 8 % 256, thresh3 := value.toNat / 2 ^ 16 % 256
          discMax := value.toNat / 2 ^ 24 % 16
          polEnable := value.getLsbD 31 || x.polEnable
          polDisabling := !value.getLsbD 31 && x.polEnable }).settlePool die) := by
  refine congrArg _ (if_neg ?_)
  rintro (h | h)
  · exact Nat.not_le.2 hd h
  · exact h ⟨h12, h23⟩

/-- The four error bits of ERRSTAT, as a number. -/
theorem errorBits_toNat (x : BitVec 12) : (x &&& 0x00F).toNat = x.toNat % 16 := by
  rw [BitVec.toNat_and]
  exact Nat.and_two_pow_sub_one_eq_mod x.toNat 4

/-- A write without one of the four bits clears nothing. -/
theorem execErrstatWrite_keeps {value : BitVec 64} (he : s.regs.errstat.toNat % 16 ≠ 0) (hv : value.toNat % 16 = 0) :
    execErrstatWrite value s = .next s := by
  have hnone : value.setWidth 12 &&& 0x00F = 0 := by
    apply BitVec.eq_of_toNat_eq
    rw [errorBits_toNat, BitVec.toNat_setWidth, Nat.mod_mod_of_dvd _ (by decide), hv]
    rfl
  have hsame : s.regs.errstat &&& ~~~(value.setWidth 12 &&& 0x00F) = s.regs.errstat := by
    rw [hnone]
    exact BitVec.and_allOnes
  simp only [execErrstatWrite, hsame, if_neg he]

/-- A write of all four bits clears the register. -/
theorem execErrstatWrite_clears : execErrstatWrite 15 s = .next { s with regs := { s.regs with errstat := 0 } } := by
  have hnone : (s.regs.errstat &&& ~~~((15 : BitVec 64).setWidth 12 &&& 0x00F)).toNat % 16 = 0 := by
    rw [← errorBits_toNat, BitVec.and_assoc]
    exact congrArg BitVec.toNat BitVec.and_zero
  simp only [execErrstatWrite, if_pos hnone]

end

/-! ### The core map and the registers (spec/14 R360, spec/15 R369, R374) -/

section
variable {s : State} {off : Nat} (value : BitVec 64)

/-- A word of the core map takes its 32 bits. -/
theorem execCmapWrite_takes (ha : off % 4 = 0) (hend : off + 4 ≤ 96) : execCmapWrite off 4 value s = .next
    (foldState (fun s k => s.writeCoreBit (8 * off + k) (value.getLsbD k)) s (List.range 32)).reschedule := by
  have htaken : ¬(((4 : Nat) ≠ 4 ∧ (4 : Nat) ≠ 8) ∨ off % 4 ≠ 0 ∨ 96 < off + 4) := by omega
  exact congrArg _ (if_neg htaken)

/-- A unit of the access table takes its write. -/
theorem execRegisterWrite_access (hlt : off < 0x2000) (ha : off % 8 = 0) : execRegisterWrite (0x40000 + off) 8 value s = .next
    { s with access := updAt (fun x => x.write (off % 16) 8 value.toNat) (off / 16) s.access } := by
  have htaken : ¬(((8 : Nat) ≠ 4 ∧ (8 : Nat) ≠ 8) ∨ (0x40000 + off) % 8 ≠ 0) := by omega
  have hwin : 0x40000 ≤ 0x40000 + off ∧ 0x40000 + off < 0x42000 := by omega
  have hmod : (0x40000 + off) % 16 = off % 16 := by omega
  have hv : value.toNat % 2 ^ (8 * 8) = value.toNat := Nat.mod_eq_of_lt value.isLt
  simp only [execRegisterWrite, if_neg htaken, if_pos hwin, hmod, hv, Nat.add_sub_cancel_left]

end

/-! ### The statement -/

/-- Settles O53: each write by its own lemma; one that its register does not take fails the register's own test. -/
theorem platformEvents : Obligations.PlatformEvents := by
  intro s die off mw projected faster value wide
  exact ⟨execParkRequest_parks, execParkRequest_refuses, fun hd hp _ => execParkCancel_cancels hd hp, execUnpark_starts,
    execDiePowerDown_ends, fun hp => congrArg _ (if_neg (not_not_intro hp)), execPceilWrite_takes, fun h => congrArg _ (if_pos h), rfl,
    fun ht => congrArg _ (if_pos ht), rfl, execFeatacceptWrite_takes, fun h => congrArg _ (if_pos (or_assoc.1 (h.symm.imp_left Or.symm))), rfl,
    fun hv => congrArg _ (if_neg hv), fun hq => ⟨congrArg _ (if_pos hq), by rw [List.length_append, quoteBody_length, signature_length]⟩,
    execTierpoolWrite_takes, fun h => congrArg _ (if_pos h), execTierpolWrite_takes, fun h => congrArg _ (if_pos h),
    execErrstatWrite_keeps, execErrstatWrite_clears, execCmapWrite_takes wide, fun h => congrArg _ (if_pos (.inr h)),
    execRegisterWrite_access wide, rfl⟩

end Sys2Proof.Machine
end

section
/-! PROOF. The phases of a scan, the events of a capture, and the recovery steps (spec/14 R352 to R356, spec/15 R367, R368). -/

namespace Sys2Proof.Machine

/-! ### The phases of a scan (spec/15 R368) -/

section
variable {s : State} {x : Scan} (hx : s.scanning = some x)
include hx

/-- A scan that is aborted ends at its next event. -/
theorem execScanRunDone_aborts (ha : x.abort = true) (fail : BitVec 8) (hs : s.settleScan.reschedule.stall = []) :
    execScanRunDone fail s = .next s.settleScan.reschedule := by
  simp only [execScanRunDone, hx, ha, if_true, settleEvent_done hs]

variable (ha : x.abort = false)
include ha

/-- Once its targets are empty, the scan runs. -/
theorem execScanDrainDone_runs (hp : x.phase = .drain) (hc : x.cores.all (fun c => s.cmapOff.contains c || !s.teamOn c) = true) :
    execScanDrainDone s = .next { s with scanning := some { x with phase := .run } } := by
  simp only [execScanDrainDone, hx, ha, hp, hc, Bool.false_eq_true, if_false, and_self, if_true]

/-- A scan that has run ends with the result of its signatures. -/
theorem execScanRunDone_eq (hp : x.phase = .run) (fail : BitVec 8) :
    let engine := x.matrix && fail.getLsbD 4
    let bad (c : Nat) : Bool := engine || fail.getLsbD (c % 4)
    let off := x.cores.filter bad
    let on := x.cores.filter fun c => !bad c
    let t := foldState State.rejoin s (on.filter fun c => !s.cmapOff.contains c)
    let u : State :=
      { t with
        cmapOff := off.foldl (fun l c => addNat c l) t.cmapOff
        scanPassed := on.foldl (fun l c => addNat c l) (t.scanPassed.filter fun c => !off.contains c) }
    let found := (fail.toNat % 16 &&& x.mask.toNat) + if engine then 16 else 0
    execScanRunDone fail s = .next (settleEvent scanAgent s (u.endScan x (if found = 0 then 1 else 2) found).reschedule) := by
  simp only [execScanRunDone, hx, ha, hp, Bool.false_eq_true, if_false, reduceCtorEq]

/-- A drain that has taken its limit ends the scan. -/
theorem execScanDrainTimeout_ends (hp : x.phase = .drain) (hlate : x.tstart + clocksOf x.drainMax ≤ s.clock.toNat)
    (hs : (s.endScan x 5 0).reschedule.stall = []) : execScanDrainTimeout s = .next (s.endScan x 5 0).reschedule := by
  simp only [execScanDrainTimeout, hx, ha, hp, hlate, Bool.false_eq_true, if_false, and_self, if_true, settleEvent_done hs]

end

/-- A choice on a negated test is the other choice on the test. -/
theorem ite_not_bool {α : Type} (b : Bool) (x y : α) : (if (!b) = true then x else y) = if b = true then y else x := by cases b <;> rfl

/-! ### The capture (spec/14 R352, R353) -/

section
variable {s : State}

/-- The cut closes over the tiles of the step, where the slot can hold their image. -/
theorem execCutClose_closes (hst : s.snap.state = 1) (hcut : s.snap.cut = false)
    (hfit : imageLength s.stepTiles.length ≤ s.regs.units * s.regs.shardSize) :
    execCutClose s = .next ({ s with snap := { s.snap with cut := true, uncaptured := s.stepTiles } } : State).settleCapture := by
  have hopen : ¬(s.snap.state ≠ 1 ∨ s.snap.cut = true) := by simp [hst, hcut]
  simp only [execCutClose, if_neg hopen, if_neg (Nat.not_lt.2 hfit)]

/-- The lowest uncaptured tile is captured, or fails the capture where the agents may not read it. -/
theorem execTileCapture_eq {tile : Nat} {rest : List Nat} (ht : s.snap.uncaptured = tile :: rest) (hst : s.snap.state = 1)
    (hcut : s.snap.cut = true) (hroom : s.stagingFull = false) : execTileCapture s = .next (
    if s.tileOk tile then
      ({ s with snap := { s.snap with uncaptured := rest, image := Assoc.put s.snap.image tile (s.tileImage tile) } } : State).settleCapture
    else s.failCapture 3) := by
  simp only [execTileCapture, ht, hst, hcut, hroom, ne_eq, not_true_eq_false, Bool.true_eq_false, Bool.false_eq_true, or_self, if_false,
    ite_not_bool]

/-- A tile that a write waits for is copied to its place, or fails the capture where the agents may not read or write there. -/
theorem execCowCopy_eq {tile n : Nat} (hst : s.snap.state = 1) (hc : s.snap.copying.contains tile = true)
    (hn : s.snap.freePlace s.regs.stageRoom = some n) : execCowCopy tile s = .next (
    if s.tileOk tile && s.snapOk (s.regs.stageAt n) 65536 true then
      let t := s.storeRun (s.regs.stageAt n) (s.bytesAt (tile * 65536) 65536)
      settleEvent snapAgent s { t with snap := { t.snap with
        copying := delNat tile t.snap.copying
        waiters := t.snap.waiters.filter fun x => !decide (x.1 = tile)
        staged := Assoc.put t.snap.staged tile n } }
    else s.failCapture 3) := by
  simp only [execCowCopy, hst, hc, hn, ne_eq, not_true_eq_false, Bool.true_eq_false, or_self, if_false, ← Bool.not_and, ite_not_bool]

/-- The lowest staged tile goes into the image, or fails the capture where the agents may not read its place. -/
theorem execStagedTileWrite_eq {tile n : Nat} {more : Assoc Nat} (hg : s.snap.staged = (tile, n) :: more) (hst : s.snap.state = 1) :
    execStagedTileWrite s = .next (
    if s.snapOk (s.regs.stageAt n) 65536 false then
      ({ s with snap := { s.snap with staged := more, image := Assoc.put s.snap.image tile (s.stagedImage n) } } : State).settleCapture
    else s.failCapture 3) := by
  simp only [execStagedTileWrite, hg, hst, ne_eq, not_true_eq_false, if_false, ite_not_bool]

/-! ### Shards (spec/14 R354, R355) -/

section
variable (hst : s.snap.state = 2) (shards : List (List Byte))
include hst

/-- The shards, the header and its mark are written, and the capture ends unless a write of it was refused. -/
theorem execShardsDurable_writes (hl : s.stripeLost = false) :
    let slot := s.regs.slotOf s.snap.step
    let t := foldState (fun t k => t.durable (slot + 4096 + k * s.regs.shardSize) (s.regs.shard s.snap.image shards k)) s (List.range s.regs.shardCount)
    let u := (t.durable slot s.slotHeader).durable (slot + 0x38) (leBytes 8 1)
    execShardsDurable shards s = .next (settleEvent snapAgent s
      (if u.snap.state = 3 then u else { u with snap := { u.snap with state := 0, cut := false, image := [], waiters := [] } })) := by
  simp only [execShardsDurable, hst, hl, ne_eq, not_true_eq_false, Bool.false_eq_true, if_false]

/-- A lost stripe position fails the capture. -/
theorem execShardsDurable_fails (hl : s.stripeLost = true) : execShardsDurable shards s = .next (s.failCapture 1) := by
  simp only [execShardsDurable, hst, hl, ne_eq, not_true_eq_false, if_false, if_true]

end

end

/-! ### Recovery (spec/14 R356) -/

/-- The step k of a recovery is in hand. -/
def State.inHand (s : State) (k : Nat) : Prop := s.recover.running = true ∧ s.recover.acted = false ∧ s.recover.step = k

/-- The step before the step k has completed for the lost position. -/
def State.previousDone (s : State) (k : Nat) : Prop := s.recover.good.contains (k - 1, s.recover.lost) = true

/-- This package stands at the lost position. -/
def State.atLost (s : State) : Prop := s.regs.gpos = s.recover.lost

/-- The step k may act here: its previous one has completed, unless it is the first or this package stands at the lost position, where the last
step alone runs. -/
def State.inOrder (s : State) (k : Nat) : Prop := (k = 1 ∨ s.atLost ∨ s.previousDone k) ∧ (s.atLost → k = 5)

/-- A step that follows its previous one is in order elsewhere. -/
theorem inOrder_elsewhere {s : State} {k : Nat} (hl : ¬s.atLost) (ha : k = 1 ∨ s.previousDone k) : s.inOrder k :=
  ⟨ha.imp_right .inr, fun h => absurd h hl⟩

/-- A step between the first and the last is out of order at the lost position, and before its previous one has completed. -/
theorem not_inOrder {s : State} {k : Nat} (h1 : k ≠ 1) (h5 : k ≠ 5) (h : s.atLost ∨ ¬s.previousDone k) : ¬s.inOrder k := by
  rintro ⟨hfirst, hlast⟩
  have hl : ¬s.atLost := fun hl => h5 (hlast hl)
  exact h.elim hl fun hp => hfirst.elim h1 fun hd => hd.elim hl hp

section
variable {s : State} {k : Nat} {ok : State → Bool} {act : State → State} (hk : s.inHand k)
include hk

/-- The step in hand acts where it is in order and its own condition holds, and fails otherwise. -/
theorem recoveryStep_eq [Decidable (s.inOrder k ∧ ok s = true)] :
    s.recoveryStep k ok act = if s.inOrder k ∧ ok s = true then (act s).actStep else s.failStep := by
  obtain ⟨hrun, hact, hstep⟩ := hk
  have hin : ¬(s.recover.running = false ∨ s.recover.acted = true ∨ s.recover.step ≠ k) := by simp [hrun, hact, hstep]
  have hfails : ((!(decide (k = 1) || decide (s.regs.gpos = s.recover.lost) || s.recover.good.contains (k - 1, s.recover.lost)) ||
      (decide (s.regs.gpos = s.recover.lost) && decide (k ≠ 5)) || !ok s) = true) ↔ ¬(s.inOrder k ∧ ok s = true) := by
    simp only [State.inOrder, State.previousDone, State.atLost, Bool.or_eq_true, Bool.and_eq_true, Bool.not_eq_true',
      decide_eq_true_eq, ← Bool.not_eq_true]
    tauto
  simp only [State.recoveryStep, if_neg hin, hfails, ite_not]

/-- The step in hand acts. -/
theorem recoveryStep_acts (ho : s.inOrder k) (hok : ok s = true) : s.recoveryStep k ok act = (act s).actStep := by
  classical exact (recoveryStep_eq hk).trans (if_pos ⟨ho, hok⟩)

/-- The step in hand fails. -/
theorem recoveryStep_fails (h : ¬s.inOrder k ∨ ok s = false) : s.recoveryStep k ok act = s.failStep := by
  classical exact (recoveryStep_eq hk).trans (if_neg fun ⟨ho, hok⟩ => h.elim (· ho) fun hf => Bool.false_ne_true (hf.symm.trans hok))

end

section
variable {s : State} (hk : s.inHand 5)
include hk

/-- The last step restores this package's slot. -/
theorem execRecoverResume_restores {i : SlotInfo} (ho : s.atLost ∨ s.previousDone 5) (hslot : s.lastSlot = some i)
    (hs : (s.restoreTiles i).actStep.stall = []) : execRecoverResume s = .next (s.restoreTiles i).actStep := by
  have horder : s.inOrder 5 := ⟨.inr ho, fun _ => rfl⟩
  have hok : s.lastSlot.isSome = true := by rw [hslot]; rfl
  rw [execRecoverResume, recoveryStep_acts hk horder hok, hslot, settleEvent_done hs]

/-- The last step fails before its previous one has completed elsewhere, and where this package has no valid slot. -/
theorem execRecoverResume_fails (h : (¬s.atLost ∧ ¬s.previousDone 5) ∨ s.lastSlot = none) (hs : s.stall = []) :
    execRecoverResume s = .next s.failStep := by
  have hfails : ¬s.inOrder 5 ∨ s.lastSlot.isSome = false := by
    refine h.imp (fun ⟨hl, hp⟩ ⟨hfirst, _⟩ => ?_) fun hslot => by rw [hslot]; rfl
    exact hfirst.elim (by decide) fun h => h.elim hl hp
  rw [execRecoverResume, recoveryStep_fails hk hfails]
  exact congrArg _ (settleEvent_done hs)

end

/-- The step in hand has acted, and reports its completion. -/
theorem execRecoverStepDone_reports {s : State} (hrun : s.recover.running = true) (hact : s.recover.acted = true)
    (hreq : s.recover.step = 1 → s.requestsTo s.lostPkg = false) :
    execRecoverStepDone s = .next { s with recover := { s.recover with
      running := false
      done := true
      good := if s.recover.good.contains (s.recover.step, s.recover.lost) then s.recover.good
        else s.recover.good ++ [(s.recover.step, s.recover.lost)] } } := by
  refine congrArg _ (if_neg ?_)
  rintro (h | h | ⟨h1, hout⟩)
  · exact Bool.false_ne_true (h.symm.trans hrun)
  · exact Bool.false_ne_true (h.symm.trans hact)
  · exact Bool.false_ne_true ((hreq h1).symm.trans hout)

/-! ### The statement -/

/-- Settles O54: each event by its own lemma; a recovery step acts or fails by its order and by its own condition. -/
theorem scanSnapshotAndRecoveryEvents : Obligations.ScanSnapshotAndRecoveryEvents := by
  intro s x tile rest value fail shards
  refine ⟨execScanDrainDone_runs, fun hx ha hp => ?run, fun y hx ha => execScanRunDone_aborts hx ha fail, execScanDrainTimeout_ends,
    fun hs => congrArg _ (settleEvent_done hs), execCutClose_closes, fun ht hst hcut hroom => ?capture, fun n hst hc hn => ?copy,
    fun n more hg hst => ?staged, fun hst hl => ?shards, fun hst => execShardsDurable_fails hst shards, ?recover⟩
  case run =>
    have hrun := execScanRunDone_eq hx ha hp fail
    refine ⟨fun h0 hs => hrun.trans ?_, fun h0 hs => hrun.trans ?_⟩
    · rw [if_pos h0, h0, settleEvent_done hs]
    · rw [if_neg h0, settleEvent_done hs]
  case capture =>
    have htile := execTileCapture_eq ht hst hcut hroom
    exact ⟨fun hok => htile.trans (congrArg _ (if_neg (Bool.eq_false_iff.1 hok))), fun hok => htile.trans (congrArg _ (if_pos hok))⟩
  case copy =>
    have hcow := execCowCopy_eq hst hc hn
    exact ⟨fun hok => hcow.trans (congrArg _ (if_neg (Bool.eq_false_iff.1 (Bool.and_eq_false_iff.2 hok)))),
      fun hok hplace hs => hcow.trans (congrArg _ ((if_pos (Bool.and_eq_true_iff.2 ⟨hok, hplace⟩)).trans (settleEvent_done hs)))⟩
  case staged =>
    have hwrite := execStagedTileWrite_eq hg hst
    exact ⟨fun hok => hwrite.trans (congrArg _ (if_neg (Bool.eq_false_iff.1 hok))), fun hok => hwrite.trans (congrArg _ (if_pos hok))⟩
  case shards =>
    have hdone := execShardsDurable_writes hst shards hl
    refine ⟨fun h3 hs => hdone.trans ?_, fun h3 hs => hdone.trans ?_⟩
    · rw [if_pos h3, settleEvent_done hs]
    · rw [if_neg h3, settleEvent_done hs]
  case recover =>
    refine ⟨fun ⟨hk, hl, ho⟩ hentry hvalid => congrArg _ (recoveryStep_acts hk (inOrder_elsewhere hl ho) ?fence),
      fun ⟨hk, hl, ho⟩ => congrArg _ (recoveryStep_acts hk (inOrder_elsewhere hl ho) rfl),
      fun ⟨hk, hl, ho⟩ hslot => congrArg _ (recoveryStep_acts hk (inOrder_elsewhere hl ho) hslot),
      fun ⟨hk, hl, ho⟩ => congrArg _ (recoveryStep_acts hk (inOrder_elsewhere hl ho) rfl),
      fun k hk ho hslot hs => execRecoverResume_restores hk ho hslot hs, fun hk h => congrArg _ (recoveryStep_fails hk ?unfenced),
      fun hk h => congrArg _ (recoveryStep_fails hk (.inl (not_inOrder (by decide) (by decide) h))),
      fun ok hk h => congrArg _ (recoveryStep_fails hk ?unbuilt),
      fun hk h => congrArg _ (recoveryStep_fails hk (.inl (not_inOrder (by decide) (by decide) h))),
      fun hk h hs => execRecoverResume_fails hk h hs, execRecoverStepDone_reports, fun h => congrArg _ (if_pos h)⟩
    case fence => exact Bool.and_eq_true_iff.2 ⟨decide_eq_true hentry, hvalid⟩
    case unfenced =>
      refine h.imp (fun hl ho => absurd (ho.2 hl) (by decide)) fun hpeer => Bool.and_eq_false_iff.2 ?_
      exact hpeer.imp_left fun hlow => decide_eq_false (Nat.not_le.2 hlow)
    case unbuilt =>
      rcases h with hl | hp | rfl | hslot
      · exact .inl (not_inOrder (by decide) (by decide) (.inl hl))
      · exact .inl (not_inOrder (by decide) (by decide) (.inr hp))
      · exact .inr rfl
      · exact .inr (by simp only [hslot, Option.isSome_none, Bool.and_false])

end Sys2Proof.Machine
end
